-- ==== Sys2Proof/Word.lean ====
section
/-! DEFINITION. The word types of the core: registers, bytes, lines, and the numbers that name registers. -/
namespace Sys2Proof

/-- A byte (R11). -/
abbrev Byte := BitVec 8
/-- A 32-bit word. -/
abbrev W32 := BitVec 32
/-- A 64-bit register or doubleword (R32). -/
abbrev W64 := BitVec 64
/-- A vector register of 2 KiB (R34). -/
abbrev VWord := BitVec 16384
/-- A mask register of 2,048 bits (R34). -/
abbrev MWord := BitVec 2048
/-- A tile row of 1,024 bytes (R63). -/
abbrev RowWord := BitVec 8192
/-- A sidecar row of 64 bytes (R63). -/
abbrev ScaleWord := BitVec 512
/-- An entry of the inkwell (R143). -/
abbrev Ink := BitVec 40
/-- A cache line of 64 bytes (R213). -/
abbrev LineWord := BitVec 512

/-- The number of a general register g0 to g31. -/
abbrev GReg := Fin 32
/-- The number of a vector register v0 to v31. -/
abbrev VReg := Fin 32
/-- The number of a mask register m0 to m7. -/
abbrev MReg := Fin 8
/-- The number of a tile t0 to t15. -/
abbrev TReg := Fin 16
/-- The number of a stream queue (R163). -/
abbrev QNum := Fin 64
/-- The number of a register bank (R290). -/
abbrev BankNum := Fin 4
/-- The number of a scribe (R181). -/
abbrev ScribeNum := Fin 16
/-- The number of a work ring (R186). -/
abbrev RingNum := Fin 32
/-- The number of a tally (R307). -/
abbrev TallyNum := Fin 16
/-- The number of a fabric port (R410). -/
abbrev PortNum := Fin 4
/-- The number of a mailbox (R367). -/
abbrev BoxNum := Fin 4

end Sys2Proof
end

