-- ==== Sys2Proof/Machine/Bits.lean ====
section
/-! DEFINITION. Bit fields of registers, sign extension and byte order (R11, R12). -/
namespace Sys2Proof

/-- Field [hi:lo] of a register as a number. -/
def fieldN {w : Nat} (x : BitVec w) (hi lo : Nat) : Nat := (x.toNat >>> lo) % 2 ^ (hi + 1 - lo)

/-- Field [hi:lo] of a register. -/
def field {w : Nat} (x : BitVec w) (hi lo : Nat) : BitVec (hi + 1 - lo) :=
  BitVec.ofNat (hi + 1 - lo) (x.toNat >>> lo)

/-- Bit i of a register. -/
def bit {w : Nat} (x : BitVec w) (i : Nat) : Bool := x.getLsbD i

/-- The number v placed at bit lo of a w-bit register (higher bits cut). -/
def place (w v lo : Nat) : BitVec w := BitVec.ofNat w (v <<< lo)

/-- The bit b placed at bit i of a w-bit register. -/
def placeB (w : Nat) (b : Bool) (i : Nat) : BitVec w := if b then BitVec.ofNat w (1 <<< i) else 0

/-- A register whose bits [hi:lo] are ones. -/
def maskBits (w hi lo : Nat) : BitVec w := BitVec.ofNat w ((2 ^ (hi + 1 - lo) - 1) <<< lo)

/-- Replaces bits [hi:lo] of x by v. -/
def setField {w : Nat} (x : BitVec w) (hi lo v : Nat) : BitVec w :=
  (x &&& ~~~ (maskBits w hi lo)) ||| place w (v % 2 ^ (hi + 1 - lo)) lo

/-- Replaces bit i of x by b. -/
def setBit {w : Nat} (x : BitVec w) (i : Nat) (b : Bool) : BitVec w := setField x i i b.toNat

/-- The n bytes of x, lowest first (R11). -/
def toBytes {w : Nat} (n : Nat) (x : BitVec w) : List Byte :=
  (List.range n).map fun i => BitVec.ofNat 8 (x.toNat >>> (8 * i))

/-- The number that bytes spell, lowest first (R11). -/
def bytesNat : List Byte → Nat
  | [] => 0
  | b :: bs => b.toNat + 256 * bytesNat bs

/-- The w-bit word that bytes spell, lowest first (R11). -/
def ofBytes (w : Nat) (bs : List Byte) : BitVec w := BitVec.ofNat w (bytesNat bs)

/-- The low n bits of x, sign-extended to 64 bits. -/
def sext64 (n : Nat) (x : Nat) : W64 := (BitVec.ofNat n x).signExtend 64

end Sys2Proof
end

