-- ==== Sys2Proof/Syntax.lean ====
section
/-! DEFINITION. The commands of the block: one constructor per row of spec/opcode_table.json, with the operands that R42, R72, R96, R127, R165, R187, R248, R257, R296, R311 and R461 to R465 give the instructions, and the data that the environment supplies with an event. -/
namespace Sys2Proof

/-- The second ALU operand: a register (format R) or a signed 12-bit immediate (format I) (R42, R43). -/
inductive Opnd where
  | reg (rb : GReg)
  | imm (i : BitVec 12)
  deriving DecidableEq, Repr

/-- The addressing modes of scalar loads and stores (R45). -/
inductive SAddr where
  | base (ga : GReg) (imm : BitVec 13)
  | post (ga : GReg)
  | pre (ga : GReg)
  | idx (ga gb : GReg) (s : BitVec 2)
  deriving DecidableEq, Repr

/-- The addressing modes of vector loads and stores (R464). -/
inductive VAddr where
  | base (ga : GReg) (imm : BitVec 5)
  | post (ga : GReg)
  | pre (ga : GReg)
  | idx (ga gb : GReg) (s : BitVec 2)
  deriving DecidableEq, Repr

/-- What follows a repeat prefix (R48): an access of major 0x0A, a vector access of major 0x1C, or another word. -/
inductive Governed where
  | mu (load : Bool) (r ga : GReg) (pre : Bool) (sz : BitVec 3)
  | vec (load : Bool) (v : VReg) (a : VAddr) (mk : Option MReg) (w : BitVec 2)
  | other (word : W32)
  deriving DecidableEq, Repr

/-- The destination of a long operation (R203). -/
inductive LongDst where
  | g (r : GReg)
  | v (r : VReg)
  deriving DecidableEq, Repr

/-- The conversion fields of word 2 of IDRAIN (R127). -/
structure DrainOpts where
  otype : BitVec 4
  sr : Bool
  sat : Bool
  osc : Bool
  scale : BitVec 8
  ecol : BitVec 4
  nent : BitVec 4
  deriving DecidableEq, Repr

/-- How an access reaches memory, for the ACC field of XCAUSE (R271). -/
inductive Acc where
  | none | read | write | fetch
  deriving DecidableEq, Repr

/-- A condition found at the head of the reorder buffer that has no instruction row of its own (R272, R273):
a fetch fault, a word that is no instruction, or an error response to a precise access. -/
inductive EntryCause where
  /-- Undefined instruction: the words fetched (R17, R41, R42); it stands only when they decode to none. -/
  | undefWords (w1 w2 : W32)
  /-- The fetch of the word at va does not translate (R40, R242); w2 tells the second word of a long form. -/
  | fetchFault (second : Bool)
  /-- Data error met by a read, a fetch or a device access: poisoned line or uncorrectable code (R227, R272). -/
  | dataError (poison : Bool) (acc : Acc) (va : W64)
  /-- Bus error met by a read, a fetch or a device access: SUB 1 response, 2 CRC, 3 timeout (R272, R414). -/
  | busError (sub : BitVec 4) (acc : Acc) (va : W64)
  deriving DecidableEq, Repr

/-- Who reads a window word through its own latch (R429). -/
inductive Reader where
  | port | alias_ | quill
  deriving DecidableEq, Repr

/-- The requester of a fabric request, with what is needed to stop its work (R414). -/
inductive ReqCtx where
  /-- A general-core access that is not retired: precise (R272). -/
  | core (acc : Acc) (va : W64)
  /-- A general-core write or atomic that has retired (R414). -/
  | store
  | stream (q : QNum) (va : W64) (write : Bool)
  | tile (t : TReg) (va : W64) (write : Bool)
  | scribe (s : ScribeNum) (thread : Fin 128) (va : W64)
  | walkCore (acc : Acc) (va : W64)
  | walkStream (q : QNum) (va : W64)
  | walkTile (t : TReg) (va : W64)
  | walkScribe (s : ScribeNum) (thread : Fin 128) (va : W64)
  | mirror
  | quillDma
  | l2
  deriving DecidableEq, Repr

/-- An event of a hardware source of the tallies whose value counts time that the model does not hold (R307): a stream request completes, a
fabric read is answered, or the rank edge takes an entry after an idle run. -/
inductive SampleEv where
  | request (q : QNum)
  | fabricRead (p : PortNum)
  | boardIdle
  deriving DecidableEq, Repr

/-- A sample of the hardware: the event, and the value that it gives (R307). -/
structure SampleIn where
  ev : SampleEv
  val : W32
  deriving DecidableEq, Repr

/-- Who asks for a table walk (R239, R245). -/
inductive WalkReq where
  | core (acc : Acc)
  | stream (q : QNum) (acc : Acc)
  | tile (t : TReg) (acc : Acc)
  | scribe (s : ScribeNum) (thread : Fin 128) (acc : Acc)
  deriving DecidableEq, Repr

/-- Why the hardware scheduler switches the executing bank out (R303). -/
inductive SwitchWhy where
  | tileStall | waiti | preempt
  deriving DecidableEq, Repr

/-- A check of the board that fails while a row passes (R113, R331, R332). -/
structure BoardCheck where
  /-- 0x05 RESIDUE, 0x06 RAIL or 0x04 PARITY of a weight. -/
  cls : BitVec 8
  physFile : BitVec 11
  logFile : BitVec 10
  rank : BitVec 10
  synd : BitVec 24
  deriving DecidableEq, Repr

/-- A single-bit error that a scrubber or a read meets, with the ECC syndrome that its code computes (R327, R331). -/
abbrev Ecc := Option (BitVec 8)

/-- The cause of a quill restart that the environment brings about (R387). -/
inductive QRestart where
  | lockstep | kernel
  deriving DecidableEq, Repr

/-- Why a quill start fails (R388, R408). -/
inductive QFail where
  | image | timeout
  deriving DecidableEq, Repr

/-- The firmware components of the quill (R365). -/
inductive Component where
  | kernel | mailboxServer | errorManager | logger | journalKeeper | powerManager | mirrorManager | tallyManager | updater
  deriving DecidableEq, Repr

/-- Opcode of a target request on IREQ (R420). -/
inductive TgtOp where
  | readLine | readStream | writeLine | writeStream | atomicCas | atomicAdd | other
  deriving DecidableEq, Repr

/-- Every command: one constructor per row of spec/opcode_table.json. -/
inductive Instr where
  -- ALU (R43)
  | add (rd ra : GReg) (op : Opnd) (sf wf : Bool)
  | sub (rd ra : GReg) (op : Opnd) (sf wf : Bool)
  | and (rd ra : GReg) (op : Opnd) (sf wf : Bool)
  | or (rd ra : GReg) (op : Opnd) (sf wf : Bool)
  | xor (rd ra : GReg) (op : Opnd) (sf wf : Bool)
  | andn (rd ra : GReg) (op : Opnd) (sf wf : Bool)
  | shl (rd ra : GReg) (op : Opnd) (sf wf : Bool)
  | shr (rd ra : GReg) (op : Opnd) (sf wf : Bool)
  | sar (rd ra : GReg) (op : Opnd) (sf wf : Bool)
  | ror (rd ra : GReg) (op : Opnd) (sf wf : Bool)
  | mul (rd ra : GReg) (op : Opnd) (sf wf : Bool)
  | mulh (rd ra : GReg) (op : Opnd) (sf wf : Bool)
  | mulhu (rd ra : GReg) (op : Opnd) (sf wf : Bool)
  | cmp (ra : GReg) (op : Opnd) (sf wf : Bool)
  | min (rd ra : GReg) (op : Opnd) (sf wf : Bool)
  | max (rd ra : GReg) (op : Opnd) (sf wf : Bool)
  | div (rd ra rb : GReg) (sf wf : Bool)
  | divu (rd ra rb : GReg) (sf wf : Bool)
  | rem (rd ra rb : GReg) (sf wf : Bool)
  | remu (rd ra rb : GReg) (sf wf : Bool)
  | clz (rd ra : GReg) (sf wf : Bool)
  | popc (rd ra : GReg) (sf wf : Bool)
  | longOpResult (b : BankNum) (d : LongDst)
  | imz (rd : GReg) (lane : BitVec 2) (imm : BitVec 16)
  | imi (rd : GReg) (lane : BitVec 2) (imm : BitVec 16)
  -- memory (R45, R57, R58, R60)
  | load (rd : GReg) (a : SAddr) (sz : BitVec 3)
  | store (rs : GReg) (a : SAddr) (sz : BitVec 3)
  | lda (rd ga : GReg) (sz : BitVec 3)
  | stl (rs ga : GReg) (sz : BitVec 3)
  | cas (rd ga rb rc : GReg) (d a l : Bool)
  | aadd (rd ga rb rc : GReg) (d a l : Bool)
  | fence (mask : BitVec 4)
  | fenceRetire
  | tlbiAll (loc : Bool)
  | tlbiAsid (gb : GReg) (loc : Bool)
  | tlbiVa (ga gb : GReg) (loc : Bool)
  | tlbiVaall (ga : GReg) (loc : Bool)
  -- control flow (R44, R51)
  | b (off : BitVec 26)
  | bCond (cond : BitVec 4) (off : BitVec 22)
  | br (ra : GReg)
  | call (off : BitVec 26)
  | callr (ra : GReg)
  | ret
  -- rings (R257)
  | callg (gate : BitVec 12)
  | retg
  | sysc
  | sysr
  | retx
  | retxC
  | holdend
  | sspush (ga : GReg)
  | sspinc (gb : GReg)
  | waiti
  -- control registers and banks (R37, R295, R296, R299)
  | mfc (rd : GReg) (n : BitVec 12)
  | mtc (rs : GReg) (n : BitVec 12)
  | mfb (rd : GReg) (n : BitVec 12)
  | mtb (rs : GReg) (n : BitVec 12)
  | svm (ga gm : GReg)
  | ldm (ga gm : GReg)
  | svh (ga : GReg) (h : Bool)
  | ldh (ga : GReg) (h : Bool)
  | plyc
  | tally (u : TallyNum) (gs gk : GReg)
  | rep (gc : GReg) (i : Governed)
  | repn (n : BitVec 6) (i : Governed)
  -- tiles (R72)
  | tcfgImm (t : TReg) (rowsm1 : BitVec 10) (rbm1 : BitVec 4) (etype : BitVec 4) (mx : Bool)
  | tcfgReg (t : TReg) (ga : GReg)
  | tcfgRead (gd : GReg) (t : TReg)
  | tld (t : TReg) (ga gb gc : GReg) (q : QNum)
  | tst (t : TReg) (ga gb gc : GReg) (q : QNum)
  | tzero (t : TReg)
  | trel (t : TReg)
  | tmov (td ts : TReg)
  | trdy (gd : GReg) (mask : BitVec 16)
  | trdyW (gd : GReg) (mask : BitVec 16)
  | tresume (t : TReg)
  | tileOpAccept
  | heldOpRelease (id : Nat)
  | tldRowComplete (t : TReg) (row : Nat)
  | tldComplete (t : TReg)
  | tstComplete (t : TReg)
  | tileTransferFault (t : TReg) (cause : BitVec 5) (detail : Byte) (va pa : W64)
  | tzeroPerformed (t : TReg)
  | trelPerformed (t : TReg)
  | tmovComplete (td : TReg)
  -- board and inkwell (R96, R126, R127)
  | bplane (t : TReg)
  | bplaneLoadStart
  | bplaneComplete
  | bswap
  | swapTokenEntry
  | bswapComplete
  | planeRelease
  | brun (t : TReg) (gr : GReg) (acc : BitVec 2) (half : Bool)
  | aRowEntry
  | resultRowCombine (chk : Option BoardCheck)
  | throttleWindowBoundary
  | spareRemapApply
  | bmode (semi : BitVec 3)
  | iclr (gr gc : GReg)
  | iclrComplete
  | idrainTile (gr : GReg) (t : TReg) (o : DrainOpts)
  | idrainTileComplete (t : TReg)
  | idrainVector (gr : GReg) (vd : VReg) (o : DrainOpts)
  | idrainMemory (gr ga gb : GReg) (q : QNum) (o : DrainOpts)
  | idrainMemoryComplete (q : QNum)
  | inkwellZeroingComplete
  -- stream engine (R165)
  | smove (q : QNum) (ga : GReg)
  | streamDescriptorRead (q : QNum)
  | streamOpStart (q : QNum)
  | streamRequestComplete (q : QNum) (line : Nat)
  | streamFault (q : QNum) (cause : BitVec 5) (detail : Byte) (va pa : W64) (write : Bool)
  | smoveComplete (q : QNum)
  | sqstat (gd : GReg) (q : QNum) (w : BitVec 3)
  | sqwait (gd : GReg) (q : QNum)
  | sqctlClear (q : QNum) (gs : GReg)
  | sqctlRestart (q : QNum) (gs : GReg)
  | sqctlRestartAt (q : QNum) (gs : GReg)
  | sqctlAbandon (q : QNum) (gs : GReg)
  -- scribes (R187)
  | slaunch (wr : RingNum) (gn : GReg)
  | descriptorDispatch (w : RingNum)
  | threadStart (s : ScribeNum)
  | threadIssue (s : ScribeNum)
  | scribeDescriptorPost (w : RingNum)
  | scribeFault (s : ScribeNum) (thread : Fin 128) (cause : BitVec 5) (va pa : W64)
  | scribeLimitExpiry (s : ScribeNum) (thread : Fin 128)
  | scrfltRecvClear (s : ScribeNum)
  | swctlAbort (w : RingNum) (v : W64)
  -- vector (R462 to R465)
  | vadd (vd va vb : VReg) (mk : Option MReg) (w : BitVec 2)
  | vsub (vd va vb : VReg) (mk : Option MReg) (w : BitVec 2)
  | vmul (vd va vb : VReg) (mk : Option MReg) (w : BitVec 2)
  | vmin (vd va vb : VReg) (mk : Option MReg) (w : BitVec 2)
  | vmax (vd va vb : VReg) (mk : Option MReg) (w : BitVec 2)
  | vminu (vd va vb : VReg) (mk : Option MReg) (w : BitVec 2)
  | vmaxu (vd va vb : VReg) (mk : Option MReg) (w : BitVec 2)
  | vand (vd va vb : VReg) (mk : Option MReg) (w : BitVec 2)
  | vor (vd va vb : VReg) (mk : Option MReg) (w : BitVec 2)
  | vxor (vd va vb : VReg) (mk : Option MReg) (w : BitVec 2)
  | vshl (vd va vb : VReg) (mk : Option MReg) (w : BitVec 2)
  | vshr (vd va vb : VReg) (mk : Option MReg) (w : BitVec 2)
  | vsar (vd va vb : VReg) (mk : Option MReg) (w : BitVec 2)
  | vfadd (vd va vb : VReg) (mk : Option MReg) (w : BitVec 2)
  | vfsub (vd va vb : VReg) (mk : Option MReg) (w : BitVec 2)
  | vfmul (vd va vb : VReg) (mk : Option MReg) (w : BitVec 2)
  | vfdiv (vd va vb : VReg) (mk : Option MReg) (w : BitVec 2)
  | vfsqrt (vd va : VReg) (mk : Option MReg) (w : BitVec 2)
  | vfmin (vd va vb : VReg) (mk : Option MReg) (w : BitVec 2)
  | vfmax (vd va vb : VReg) (mk : Option MReg) (w : BitVec 2)
  | vfma (vd va vb : VReg) (mk : Option MReg) (w : BitVec 2)
  | vfnma (vd va vb : VReg) (mk : Option MReg) (w : BitVec 2)
  | vcmpeq (md : MReg) (va vb : VReg) (mk : Option MReg) (w : BitVec 2)
  | vcmplt (md : MReg) (va vb : VReg) (mk : Option MReg) (w : BitVec 2)
  | vcmpltu (md : MReg) (va vb : VReg) (mk : Option MReg) (w : BitVec 2)
  | vfcmpeq (md : MReg) (va vb : VReg) (mk : Option MReg) (w : BitVec 2)
  | vfcmplt (md : MReg) (va vb : VReg) (mk : Option MReg) (w : BitVec 2)
  | vfcmple (md : MReg) (va vb : VReg) (mk : Option MReg) (w : BitVec 2)
  | vrsum (vd va : VReg) (mk : Option MReg) (w : BitVec 2)
  | vrmax (vd va : VReg) (mk : Option MReg) (w : BitVec 2)
  | vrmin (vd va : VReg) (mk : Option MReg) (w : BitVec 2)
  | vradd (vd va : VReg) (mk : Option MReg) (w : BitVec 2)
  | vcvt (vd va : VReg) (dt st : BitVec 4) (sat : Bool) (mk : Option MReg)
  | vload (v : VReg) (a : VAddr) (mk : Option MReg) (w : BitVec 2)
  | vstore (v : VReg) (a : VAddr) (mk : Option MReg) (w : BitVec 2)
  | vtrd (vd : VReg) (t : TReg) (gr : GReg)
  | vtwr (vs : VReg) (t : TReg) (gr : GReg)
  | vtrdS (vd : VReg) (t : TReg) (gr : GReg)
  | vtwrS (vs : VReg) (t : TReg) (gr : GReg)
  | vext (gd : GReg) (va : VReg) (gb : GReg) (w : BitVec 2)
  | vins (vd : VReg) (gs gb : GReg) (w : BitVec 2)
  | vsplat (vd : VReg) (gs : GReg) (w : BitVec 2)
  | mand (md ma mb : MReg)
  | mor (md ma mb : MReg)
  | mxor (md ma mb : MReg)
  | mnot (md ma : MReg)
  | mset (md : MReg)
  | mcnt (gd : GReg) (ma : MReg)
  -- control-register writes with steps of their own
  | ruledEnter (sched : Bool)
  | ruledExit (sched : Bool)
  | bankAlloc (b : BankNum)
  | bankFree (b : BankNum)
  | bankPark (b : BankNum)
  | bankReady (b : BankNum)
  | bankSwitch (b : BankNum)
  | bankClrev (b : BankNum)
  | bankReturn (b : BankNum)
  | schedSwitch (why : SwitchWhy)
  | tnrBankReady (b : BankNum)
  -- tallies
  | talsrcClr (u : TallyNum) (v : W64)
  | talsrcReconfig (u : TallyNum) (v : W64)
  | tallySample (u : TallyNum) (v : SampleIn) (more : Nat)
  | tallyFold (u : TallyNum)
  | tallyPendClear (u : TallyNum)
  -- mirroring
  | mirctlEnSet (v : W64)
  | mirctlEnClear (v : W64)
  | mirrorGranuleRead (uncorrectable : Bool)
  | mirrorHeldWrite (pa : BitVec 56) (bytes : List Byte)
  | partnerAck (g : BitVec 16) (gen isRec : Bool)
  | partnerNack (code : BitVec 4) (g : BitVec 16) (isRec : Bool)
  | partnerCredit (n : BitVec 3)
  | mirrorCommitAbandon
  | partnerGranuleReceive (range : BitVec 4) (idx : BitVec 16) (gen : Bool) (ply : BitVec 60) (crc : W32) (bytes : List Byte)
  | partnerRecordReceive (bytes : List Byte)
  | partnerWriteVisible
  | partnerFreq (rmask : BitVec 16) (gen : BitVec 2) (verify : Bool)
  | fetchGranuleReceive (range : BitVec 4) (idx : BitVec 16) (crc : W32) (bytes : List Byte)
  | partnerFend (st : BitVec 4)
  | ppLinkUpRise
  | ppLinkUpFall
  | mirrorTmoExpiry
  -- L2 way groups, resets by register, interrupts by register, injection, window
  | l2wayctlWrite (v : W64)
  | l2GroupOffComplete (g : Fin 4)
  | l2GroupOnComplete (g : Fin 4)
  | rstctlWarm
  | isetWrite (j : Fin 4) (v : W64)
  | errinjArm (v : W64)
  | registerWrite (off : BitVec 16) (v : W32) (by_ : Reader)
  | tickLoRead (by_ : Reader) (ply : Bool)
  -- caches and walks
  | l1iMissFill (va : W64)
  | l1dMissFill
  | prefetchFill (line : BitVec 56) (err : Bool)
  | storeBufferDrain
  | pageWalk (r : WalkReq) (va : W64)
  | walkDescriptorReturn (i : Nat) (err : Bool)
  -- exceptions and interrupts
  | exceptionEntry (c : EntryCause)
  | interruptEntry
  | criticalEntry
  | entryTakeover
  | doubleFault (reason : BitVec 4)
  | holdWindowOverrun
  | retireWatchdogExpiry
  | watchdogHandlerTimeout
  | progressMonitorExpiry (unit : Byte) (loc : W64) (what : BitVec 6)
  | fabricTimeout (p : PortNum) (tag : BitVec 12) (c : ReqCtx) (pa : BitVec 56)
  -- scrubbers and error records
  | vellumScrubStep (ce : Ecc)
  | l2ScrubStep (ce : Ecc)
  | scrubCreditGain
  | tileInkScrubRow (ink : Bool) (ce : Ecc)
  | quillSramScrubStep (ce : Ecc)
  | errorRecordPost (cls unit : Byte) (sev : BitVec 2) (loc : W64) (synd : BitVec 24) (inj : Bool) (extra : BitVec 16)
  | errPtrRdWrite (v : W32) (byQuill : Bool)
  | errOvfClear (v : W32)
  | errLinesFatalClear (v : W32)
  -- window and mailboxes
  | cfgLockSet
  | mbxOwnHqSet (v : W32)
  | mbxOwnQhClear (v : W32)
  | mailboxServe
  | mailboxNotreadyReply (k : BoxNum)
  -- quill commands: each executes the request that MAILBOX_SERVE has taken
  | hello
  | configSet
  | configGet
  | powerSetOn
  | powerSetOff
  | powerSetRetain
  | boardRetainTimeout
  | powerGet
  | throttleSet
  | errlogRead
  | errlogClear
  | scrubSetInterval
  | scrubResetInterval
  | scrubPass
  | scrubPassComplete (store : Fin 5)
  | fileSpare
  | journalRead
  | tallyCfg
  | tallyRead
  | mirrorCfg
  | mirrorFetchMirror
  | mirrorFetchPrimary
  | mirrorVerify
  | mirrorStatus
  | updBegin
  | updChunk
  | updChunkAll
  | updStatus
  | updActivate
  | handoverCommit
  | handoverTimeout
  | updateBanksReleased
  | updAbort
  | unitResetWarm
  | unitResetDomain
  | unitResetQuill
  | errorManagerConsume
  | componentRestart (c : Component)
  | quillWatchdogKick
  | quillWatchdogExpiry
  | quillRestart (c : QRestart)
  | quillStartComplete
  | quillStartFail (why : QFail)
  | rcountClear
  -- power and clocks
  | idleThresholdExpiry (d : Fin 32)
  | domainWakeRequest (d : Fin 32)
  | fclkAckChange (d : Fin 32) (v : Bool)
  | pwrAckChange (d : Fin 32) (v : BitVec 2)
  | domainWakeComplete (d : Fin 32)
  | vellumZeroingComplete
  -- fabric
  | probeShr (p : PortNum) (tag : BitVec 12) (pa : BitVec 56) (crcOk : Bool)
  | probeOwn (p : PortNum) (tag : BitVec 12) (pa : BitVec 56) (crcOk : Bool) (new : Option LineWord)
  | probeKill (p : PortNum) (tag : BitVec 12) (pa : BitVec 56) (crcOk : Bool) (new : LineWord)
  | tlbiMsg (p : PortNum) (tag : BitVec 12) (src : BitVec 20) (ga : W64) (asid : BitVec 16) (ty : BitVec 2) (crcOk : Bool)
  | tlbiAck
  | intMsg (p : PortNum) (tag : BitVec 12) (id : BitVec 20) (vec : Byte) (data : W32) (crcOk : Bool)
  | targetRequest (p : PortNum) (tag : BitVec 12) (op : TgtOp) (pa : BitVec 56) (size : BitVec 2) (data : LineWord) (mask : W64) (poison crcOk : Bool)
  | mgmtAliasAccess (p : PortNum) (tag : BitVec 12) (write : Bool) (off : BitVec 16) (v : W32)
  | fabricResponse (p : PortNum) (tag : BitVec 12) (c : ReqCtx) (pa : BitVec 56) (resp : BitVec 4) (crc : W32) (crcOk poison : Bool)
  | ordDone (p : PortNum)
  | tlbiDone
  | oreqCredit (p : PortNum) (n : BitVec 2)
  | fabricPortUp (p : PortNum)
  | intInChange (i : Fin 64) (v : Bool)
  -- resets
  | rstColdAssert
  | rstColdRelease
  | coldClearComplete
  | rstWarmRise
  | warmReset
  | warmResetComplete
  -- debug
  | dbgHaltreq
  | dbgHalt
  | breakpointHalt (k : Fin 4)
  | dbgResume
  | stepHalt
  | dbgCmdRegRead
  | dbgCmdRegWrite
  | dbgCmdMemRead
  | dbgCmdMemWrite
  | dbgCmdDone (err : Bool)
  -- test
  | wrstnReset
  | wsBypass
  | wsExtest
  | wsIntestScan
  | wsSafe
  | wsPreload
  | cwNet
  | instrumentStart (k : Fin 12) (mode : BitVec 3)
  | instrumentComplete (k : Fin 12) (fails : Byte) (first : BitVec 16)
  | rstWarmFall
  | fppUpFall (p : PortNum)
  | updChunkAllComplete
  deriving DecidableEq, Repr

end Sys2Proof
end

