-- ==== Sys2Proof/WellFormed.lean ====
section
/-! DEFINITION. Which commands are instructions of the Kodom set: the checks on encoded fields that do not depend on the state (R41 to R48, R57, R58, R60, R96, R120, R127, R165, R461 to R465). An instruction that fails its check raises undefined-instruction. -/
namespace Sys2Proof

/-- Formats R and I share codes; a W form exists in format R only (R43). -/
def aluOk : Opnd → Bool → Bool
  | .reg _, _ => true
  | .imm _, wf => !wf

/-- A post-increment or pre-decrement load whose rd equals ra is undefined (R46). -/
def loadBaseOk (rd : GReg) : SAddr → Bool
  | .post ga => rd != ga
  | .pre ga => rd != ga
  | _ => true

/-- The sizes of a load (R42). -/
def loadSizeOk (sz : BitVec 3) : Bool := sz != 7
/-- The signed encodings and 0b111 are reserved in stores (R42). -/
def storeSizeOk (sz : BitVec 3) : Bool := sz == 0 || sz == 2 || sz == 4 || sz == 6

/-- W of the integer vector forms (R461). -/
def wInt (w : BitVec 2) : Bool := w != 3
/-- W of the floating-point vector forms (R461). -/
def wFp (w : BitVec 2) : Bool := w != 0

/-- The allowed pairs of a conversion (R463): any of 0x8 to 0xA with any of 0x1 to 0xA. -/
def cvtPair (dt st : BitVec 4) : Bool :=
  let wide (t : BitVec 4) : Bool := 8 ≤ t.toNat && t.toNat ≤ 10
  let narrow (t : BitVec 4) : Bool := 1 ≤ t.toNat && t.toNat ≤ 7
  (wide dt && (wide st || narrow st)) || (narrow dt && wide st)

/-- What a prefix may govern, with the register clashes of R48. -/
def governedOk (gc : Option GReg) (vecOk : Bool) : Governed → Bool
  | .mu load r ga _ sz =>
      (if load then loadSizeOk sz && r != ga else storeSizeOk sz) && gc != some r && gc != some ga
  | .vec _ _ (.post ga) _ w => vecOk && wInt w && gc != some ga
  | .vec _ _ _ _ _ => false
  | .other _ => false

/-- Width in bits of an element type code (R65). -/
def etypeBits (e : BitVec 4) : Nat :=
  match e.toNat with
  | 3 | 4 => 6
  | 5 | 7 => 4
  | 8 | 9 => 16
  | 10 => 32
  | 11 => 1
  | _ => 8

/-- The encodings of IDRAIN that raise undefined-instruction on every configuration (R127). tgt: 0 tile, 1 vector, 2 memory. -/
def drainOk (tgt : Nat) (o : DrainOpts) : Bool :=
  !(o.osc && o.scale == 0xFF) &&
  (match tgt with
   | 0 => o.otype == 0 && o.nent == 0
   | 1 => 1 ≤ o.otype.toNat && o.otype.toNat ≤ 11 && 64 * (o.nent.toNat + 1) * etypeBits o.otype ≤ 16384
   | _ => o.otype.toNat ≤ 11 && !(o.otype == 0 && (o.sr || o.sat || o.osc)))

/-- The check of a command's encoded fields; commands that are no instruction words pass. -/
def wellFormed : Instr → Bool
  | .add _ _ op _ wf | .sub _ _ op _ wf | .and _ _ op _ wf | .or _ _ op _ wf | .xor _ _ op _ wf
  | .andn _ _ op _ wf | .shl _ _ op _ wf | .shr _ _ op _ wf | .sar _ _ op _ wf | .ror _ _ op _ wf
  | .mul _ _ op _ wf | .mulh _ _ op _ wf | .mulhu _ _ op _ wf | .min _ _ op _ wf | .max _ _ op _ wf => aluOk op wf
  | .cmp _ op _ wf => aluOk op wf
  | .load rd a sz => loadSizeOk sz && loadBaseOk rd a
  | .store _ _ sz => storeSizeOk sz
  | .lda _ _ sz => sz == 4 || sz == 5 || sz == 6
  | .stl _ _ sz => sz == 4 || sz == 6
  | .fence mask => mask != 0
  | .bCond cond _ => cond.toNat < 14
  | .rep gc i => governedOk (some gc) true i
  | .repn _ i => governedOk none false i
  | .brun _ _ acc _ => acc.toNat < 2
  | .bmode semi => semi.toNat < 6
  | .idrainTile _ _ o => drainOk 0 o
  | .idrainVector _ _ o => drainOk 1 o
  | .idrainMemory _ _ _ _ o => drainOk 2 o
  | .sqstat _ _ w => w.toNat < 5
  | .vadd _ _ _ _ w | .vsub _ _ _ _ w | .vmul _ _ _ _ w | .vmin _ _ _ _ w | .vmax _ _ _ _ w
  | .vminu _ _ _ _ w | .vmaxu _ _ _ _ w | .vand _ _ _ _ w | .vor _ _ _ _ w | .vxor _ _ _ _ w
  | .vshl _ _ _ _ w | .vshr _ _ _ _ w | .vsar _ _ _ _ w => wInt w
  | .vfadd _ _ _ _ w | .vfsub _ _ _ _ w | .vfmul _ _ _ _ w | .vfdiv _ _ _ _ w | .vfmin _ _ _ _ w
  | .vfmax _ _ _ _ w | .vfma _ _ _ _ w | .vfnma _ _ _ _ w => wFp w
  | .vfsqrt _ _ _ w => wFp w
  | .vcmpeq _ _ _ _ w | .vcmplt _ _ _ _ w | .vcmpltu _ _ _ _ w => wInt w
  | .vfcmpeq _ _ _ _ w | .vfcmplt _ _ _ _ w | .vfcmple _ _ _ _ w => wFp w
  | .vrsum _ _ _ w | .vrmax _ _ _ w | .vrmin _ _ _ w => wFp w
  | .vradd _ _ _ w => wInt w
  | .vcvt _ _ dt st _ _ => cvtPair dt st
  | .vload _ _ _ w | .vstore _ _ _ w => wInt w
  | .vext _ _ _ w | .vins _ _ _ w | .vsplat _ _ w => wInt w
  | _ => true

end Sys2Proof
end

