-- ==== Sys2Proof/Decode.lean ====
section
/-! DEFINITION. The words of the table's rows (none: no row of spec/opcode_table.json gives bits), and the encoding of the Kodom instructions that the block's scribes fetch and that undefined-instruction reports (R40 to R44, R72, R96, R120, R127, R165, R187, R248, R257, R295, R296, R299, R311, R461 to R465). -/
namespace Sys2Proof

/-- The command that a word spells by the table's bits: no row of the table gives bits. -/
def decodeTableWord (_nbits _w : Nat) : Option Instr := none

/-- One word: a major opcode and 26 bits below it (R40). -/
def word (major low : Nat) : W32 := BitVec.ofNat 32 (major * 67108864 + low)

/-- A register number in [25:21]. -/
def at21 (r : GReg) : Nat := r.val * 2097152
/-- A register number in [20:16]. -/
def at16 (r : GReg) : Nat := r.val * 65536
/-- A register number in [15:11]. -/
def at11 (r : GReg) : Nat := r.val * 2048

/-- Formats R and I of the ALU (R42, R43). -/
def aluWord (func : Nat) (rd ra : GReg) (sf wf : Bool) : Opnd → W32
  | .reg rb => word 0x01 (at21 rd + at16 ra + at11 rb + sf.toNat * 1024 + wf.toNat * 512 + func)
  | .imm i => word (if sf then 0x03 else 0x02) (at21 rd + at16 ra + func * 4096 + i.toNat)

/-- Format W (R42). -/
def wideWord (ins : Nat) (rd : GReg) (lane : BitVec 2) (imm : BitVec 16) : W32 :=
  word 0x04 (at21 rd + lane.toNat * 524288 + ins * 262144 + imm.toNat)

/-- Format MU (R42). -/
def muWord (load : Bool) (r ga : GReg) (pre : Bool) (sz : BitVec 3) : W32 :=
  word 0x0A (at21 r + at16 ga + sz.toNat * 8192 + load.toNat * 4096 + pre.toNat * 2048)

/-- Scalar loads and stores: formats M, MU and MX (R42). -/
def memWord (load : Bool) (r : GReg) (sz : BitVec 3) : SAddr → W32
  | .base ga imm => word (if load then 0x08 else 0x09) (at21 r + at16 ga + sz.toNat * 8192 + imm.toNat)
  | .post ga => muWord load r ga false sz
  | .pre ga => muWord load r ga true sz
  | .idx ga gb s => word 0x0B (at21 r + at16 ga + at11 gb + sz.toNat * 256 + load.toNat * 128 + s.toNat * 32)

/-- Format MO (R42). -/
def moWord (load : Bool) (r ga : GReg) (sz : BitVec 3) : W32 :=
  word 0x0C (at21 r + at16 ga + sz.toNat * 8192 + load.toNat * 4096)

/-- Format A (R42). -/
def atomWord (op : Nat) (rd ga rb rc : GReg) (d a l : Bool) : W32 :=
  word 0x0D (at21 rd + at16 ga + at11 rb + rc.val * 64 + d.toNat * 32 + a.toNat * 16 + l.toNat * 8 + op * 2)

/-- The layout [25:20] op, [19:0] operands of format S, the majors 0x14, 0x16, 0x17 and the long forms (R42). -/
def opWord (major op low : Nat) : W32 := word major (op * 1048576 + low)

/-- TLBI (R248). -/
def tlbiWord (ga gb : Nat) (ty : Nat) (loc : Bool) : W32 :=
  opWord 0x0E 0x01 (ga * 32768 + gb * 1024 + ty * 256 + loc.toNat * 128)

/-- The mask bits MK and m (R461). -/
def maskField : Option MReg → Nat
  | none => 0
  | some m => 1024 + m.val * 128

/-- Format V (R461). -/
def vWord (major func : Nat) (vd va vb : Nat) (mk : Option MReg) (w : BitVec 2) : W32 :=
  word major (vd * 2097152 + va * 65536 + vb * 2048 + maskField mk + w.toNat * 32 + func)

/-- Major 0x1C (R464). -/
def vmemWord (load : Bool) (v : VReg) (mk : Option MReg) (w : BitVec 2) : VAddr → W32
  | .base ga imm => word 0x1C (at21 v + at16 ga + imm.toNat * 2048 + maskField mk + w.toNat * 32 + load.toNat * 16)
  | .post ga => word 0x1C (at21 v + at16 ga + maskField mk + w.toNat * 32 + load.toNat * 16 + 4)
  | .pre ga => word 0x1C (at21 v + at16 ga + maskField mk + w.toNat * 32 + load.toNat * 16 + 8)
  | .idx ga gb s => word 0x1C (at21 v + at16 ga + at11 gb + maskField mk + w.toNat * 32 + load.toNat * 16 + 12 + s.toNat)

/-- Major 0x1F (R465). -/
def rowWord (func : Nat) (v g t gb : Nat) (w : BitVec 2) : W32 :=
  word 0x1F (v * 2097152 + g * 65536 + t * 4096 + gb * 128 + w.toNat * 32 + func)

/-- Major 0x1D (R465). -/
def maskWord (func : Nat) (rd ma mb : Nat) : W32 :=
  word 0x1D (rd * 2097152 + ma * 262144 + mb * 32768 + func)

/-- The instruction that a prefix governs (R48). -/
def governedWord : Governed → W32
  | .mu load r ga pre sz => muWord load r ga pre sz
  | .vec load v a mk w => vmemWord load v mk w a
  | .other w => w

/-- Word 2 of IDRAIN (R127). -/
def drainWord (o : DrainOpts) (q : Nat) : W32 :=
  BitVec.ofNat 32 (o.otype.toNat + o.sr.toNat * 16 + o.sat.toNat * 32 + o.osc.toNat * 64 + o.scale.toNat * 256 +
    o.ecol.toNat * 65536 + o.nent.toNat * 1048576 + q * 16777216)

/-- Whether a first word opens a form of two words: the long forms and the repeat prefixes with what they govern (R40, R41). -/
def twoWords (w1 : W32) : Bool :=
  let m := w1.toNat / 67108864
  m == 0x38 || m == 0x39 || m == 0x3D || m == 0x3E || m == 0x3F

/-- The two words of an instruction (the second is 0 in a form of one word); none for a command that is no instruction word of its own. -/
def encodeWords : Instr → Option (W32 × W32)
  | .add rd ra op sf wf => some (aluWord 0x0 rd ra sf wf op, 0)
  | .sub rd ra op sf wf => some (aluWord 0x1 rd ra sf wf op, 0)
  | .and rd ra op sf wf => some (aluWord 0x2 rd ra sf wf op, 0)
  | .or rd ra op sf wf => some (aluWord 0x3 rd ra sf wf op, 0)
  | .xor rd ra op sf wf => some (aluWord 0x4 rd ra sf wf op, 0)
  | .andn rd ra op sf wf => some (aluWord 0x5 rd ra sf wf op, 0)
  | .shl rd ra op sf wf => some (aluWord 0x6 rd ra sf wf op, 0)
  | .shr rd ra op sf wf => some (aluWord 0x7 rd ra sf wf op, 0)
  | .sar rd ra op sf wf => some (aluWord 0x8 rd ra sf wf op, 0)
  | .ror rd ra op sf wf => some (aluWord 0x9 rd ra sf wf op, 0)
  | .mul rd ra op sf wf => some (aluWord 0xA rd ra sf wf op, 0)
  | .mulh rd ra op sf wf => some (aluWord 0xB rd ra sf wf op, 0)
  | .mulhu rd ra op sf wf => some (aluWord 0xC rd ra sf wf op, 0)
  | .cmp ra op sf wf => some (aluWord 0xD 0 ra sf wf op, 0)
  | .min rd ra op sf wf => some (aluWord 0xE rd ra sf wf op, 0)
  | .max rd ra op sf wf => some (aluWord 0xF rd ra sf wf op, 0)
  | .div rd ra rb sf wf => some (aluWord 0x10 rd ra sf wf (.reg rb), 0)
  | .divu rd ra rb sf wf => some (aluWord 0x11 rd ra sf wf (.reg rb), 0)
  | .rem rd ra rb sf wf => some (aluWord 0x12 rd ra sf wf (.reg rb), 0)
  | .remu rd ra rb sf wf => some (aluWord 0x13 rd ra sf wf (.reg rb), 0)
  | .clz rd ra sf wf => some (aluWord 0x14 rd ra sf wf (.reg 0), 0)
  | .popc rd ra sf wf => some (aluWord 0x15 rd ra sf wf (.reg 0), 0)
  | .imz rd lane imm => some (wideWord 0 rd lane imm, 0)
  | .imi rd lane imm => some (wideWord 1 rd lane imm, 0)
  | .load rd a sz => some (memWord true rd sz a, 0)
  | .store rs a sz => some (memWord false rs sz a, 0)
  | .lda rd ga sz => some (moWord true rd ga sz, 0)
  | .stl rs ga sz => some (moWord false rs ga sz, 0)
  | .cas rd ga rb rc d a l => some (atomWord 0 rd ga rb rc d a l, 0)
  | .aadd rd ga rb rc d a l => some (atomWord 1 rd ga rb rc d a l, 0)
  | .fence mask => some (opWord 0x0E 0x00 (mask.toNat * 65536), 0)
  | .tlbiAll loc => some (tlbiWord 0 0 0 loc, 0)
  | .tlbiAsid gb loc => some (tlbiWord 0 gb.val 1 loc, 0)
  | .tlbiVa ga gb loc => some (tlbiWord ga.val gb.val 2 loc, 0)
  | .tlbiVaall ga loc => some (tlbiWord ga.val 0 3 loc, 0)
  | .b off => some (word 0x10 off.toNat, 0)
  | .bCond cond off => some (word 0x11 (cond.toNat * 4194304 + off.toNat), 0)
  | .br ra => some (word 0x13 (at21 ra), 0)
  | .call off => some (word 0x12 off.toNat, 0)
  | .callr ra => some (word 0x13 (at21 ra + 65536), 0)
  | .ret => some (word 0x13 131072, 0)
  | .callg gate => some (opWord 0x14 0x00 (gate.toNat * 256), 0)
  | .retg => some (opWord 0x14 0x01 0, 0)
  | .sysc => some (opWord 0x14 0x02 0, 0)
  | .sysr => some (opWord 0x14 0x03 0, 0)
  | .retx => some (opWord 0x14 0x04 0, 0)
  | .retxC => some (opWord 0x14 0x04 1, 0)
  | .holdend => some (opWord 0x14 0x05 0, 0)
  | .sspush ga => some (opWord 0x14 0x06 (ga.val * 32768), 0)
  | .sspinc gb => some (opWord 0x14 0x07 (gb.val * 32768), 0)
  | .waiti => some (opWord 0x14 0x08 0, 0)
  | .mfc rd n => some (word 0x15 (at21 rd + n.toNat), 0)
  | .mtc rs n => some (word 0x15 (at21 rs + 1048576 + n.toNat), 0)
  | .mfb rd n => some (word 0x15 (at21 rd + 524288 + n.toNat), 0)
  | .mtb rs n => some (word 0x15 (at21 rs + 1572864 + n.toNat), 0)
  | .svm ga gm => some (opWord 0x16 0x00 (ga.val * 32768 + gm.val * 1024), 0)
  | .ldm ga gm => some (opWord 0x16 0x01 (ga.val * 32768 + gm.val * 1024), 0)
  | .svh ga h => some (opWord 0x16 0x02 (ga.val * 32768 + h.toNat * 16384), 0)
  | .ldh ga h => some (opWord 0x16 0x03 (ga.val * 32768 + h.toNat * 16384), 0)
  | .plyc => some (opWord 0x17 0x00 0, 0)
  | .tally u gs gk => some (opWord 0x17 0x01 (gs.val * 32768 + gk.val * 1024 + u.val * 64), 0)
  | .rep gc i => some (word 0x38 (at21 gc), governedWord i)
  | .repn n i => some (word 0x39 (n.toNat * 1048576), governedWord i)
  | .tcfgImm t rowsm1 rbm1 etype mx =>
      some (opWord 0x3D 0x00 (t.val * 65536),
        BitVec.ofNat 32 (rowsm1.toNat + rbm1.toNat * 1024 + etype.toNat * 65536 + mx.toNat * 1048576))
  | .tcfgReg t ga => some (opWord 0x3D 0x01 (t.val * 65536 + at11 ga), 0)
  | .tcfgRead gd t => some (opWord 0x3D 0x01 (t.val * 65536 + at11 gd + 1024), 0)
  | .tld t ga gb gc q =>
      some (opWord 0x3D 0x02 (t.val * 65536 + at11 ga + gb.val * 64 + gc.val * 2), BitVec.ofNat 32 q.val)
  | .tst t ga gb gc q =>
      some (opWord 0x3D 0x03 (t.val * 65536 + at11 ga + gb.val * 64 + gc.val * 2), BitVec.ofNat 32 q.val)
  | .tzero t => some (opWord 0x3D 0x04 (t.val * 65536), 0)
  | .tmov td ts => some (opWord 0x3D 0x05 (td.val * 65536 + ts.val * 4096), 0)
  | .trel t => some (opWord 0x3D 0x06 (t.val * 65536), 0)
  | .trdy gd mask => some (opWord 0x3D 0x07 (at11 gd), BitVec.ofNat 32 mask.toNat)
  | .trdyW gd mask => some (opWord 0x3D 0x07 (at11 gd + 1024), BitVec.ofNat 32 mask.toNat)
  | .tresume t => some (opWord 0x3D 0x08 (t.val * 65536), 0)
  | .bplane t => some (opWord 0x3E 0x00 (t.val * 65536), 0)
  | .bswap => some (opWord 0x3E 0x01 0, 0)
  | .brun t gr acc half => some (opWord 0x3E 0x02 (t.val * 65536 + at11 gr + acc.toNat * 512 + half.toNat * 256), 0)
  | .bmode semi => some (opWord 0x3E 0x03 (semi.toNat * 131072), 0)
  | .iclr gr gc => some (opWord 0x3E 0x04 (gr.val * 32768 + gc.val * 1024), 0)
  | .idrainTile gr t o => some (opWord 0x3E 0x05 (gr.val * 8192 + t.val * 512), drainWord o 0)
  | .idrainVector gr vd o => some (opWord 0x3E 0x05 (262144 + gr.val * 8192 + vd.val * 256), drainWord o 0)
  | .idrainMemory gr ga gb q o =>
      some (opWord 0x3E 0x05 (524288 + gr.val * 8192 + ga.val * 256 + gb.val * 8), drainWord o q.val)
  | .smove q ga => some (opWord 0x3F 0x00 (ga.val * 32768), BitVec.ofNat 32 q.val)
  | .sqstat gd q w => some (opWord 0x3F 0x01 (gd.val * 32768 + w.toNat * 4096), BitVec.ofNat 32 q.val)
  | .sqwait gd q => some (opWord 0x3F 0x02 (gd.val * 32768), BitVec.ofNat 32 q.val)
  | .sqctlClear q gs => some (opWord 0x3F 0x03 (gs.val * 32768), BitVec.ofNat 32 q.val)
  | .sqctlRestart q gs => some (opWord 0x3F 0x03 (gs.val * 32768 + 8192), BitVec.ofNat 32 q.val)
  | .sqctlRestartAt q gs => some (opWord 0x3F 0x03 (gs.val * 32768 + 16384), BitVec.ofNat 32 q.val)
  | .sqctlAbandon q gs => some (opWord 0x3F 0x03 (gs.val * 32768 + 24576), BitVec.ofNat 32 q.val)
  | .slaunch wr gn => some (opWord 0x3F 0x10 (gn.val * 32768 + wr.val * 1024), 0)
  | .vadd vd va vb mk w => some (vWord 0x18 0x00 vd.val va.val vb.val mk w, 0)
  | .vsub vd va vb mk w => some (vWord 0x18 0x01 vd.val va.val vb.val mk w, 0)
  | .vmul vd va vb mk w => some (vWord 0x18 0x02 vd.val va.val vb.val mk w, 0)
  | .vmin vd va vb mk w => some (vWord 0x18 0x03 vd.val va.val vb.val mk w, 0)
  | .vmax vd va vb mk w => some (vWord 0x18 0x04 vd.val va.val vb.val mk w, 0)
  | .vminu vd va vb mk w => some (vWord 0x18 0x05 vd.val va.val vb.val mk w, 0)
  | .vmaxu vd va vb mk w => some (vWord 0x18 0x06 vd.val va.val vb.val mk w, 0)
  | .vand vd va vb mk w => some (vWord 0x18 0x07 vd.val va.val vb.val mk w, 0)
  | .vor vd va vb mk w => some (vWord 0x18 0x08 vd.val va.val vb.val mk w, 0)
  | .vxor vd va vb mk w => some (vWord 0x18 0x09 vd.val va.val vb.val mk w, 0)
  | .vshl vd va vb mk w => some (vWord 0x18 0x0A vd.val va.val vb.val mk w, 0)
  | .vshr vd va vb mk w => some (vWord 0x18 0x0B vd.val va.val vb.val mk w, 0)
  | .vsar vd va vb mk w => some (vWord 0x18 0x0C vd.val va.val vb.val mk w, 0)
  | .vfadd vd va vb mk w => some (vWord 0x19 0x00 vd.val va.val vb.val mk w, 0)
  | .vfsub vd va vb mk w => some (vWord 0x19 0x01 vd.val va.val vb.val mk w, 0)
  | .vfmul vd va vb mk w => some (vWord 0x19 0x02 vd.val va.val vb.val mk w, 0)
  | .vfdiv vd va vb mk w => some (vWord 0x19 0x03 vd.val va.val vb.val mk w, 0)
  | .vfsqrt vd va mk w => some (vWord 0x19 0x04 vd.val va.val 0 mk w, 0)
  | .vfmin vd va vb mk w => some (vWord 0x19 0x05 vd.val va.val vb.val mk w, 0)
  | .vfmax vd va vb mk w => some (vWord 0x19 0x06 vd.val va.val vb.val mk w, 0)
  | .vfma vd va vb mk w => some (vWord 0x19 0x07 vd.val va.val vb.val mk w, 0)
  | .vfnma vd va vb mk w => some (vWord 0x19 0x08 vd.val va.val vb.val mk w, 0)
  | .vcmpeq md va vb mk w => some (vWord 0x1A 0x00 (md.val) va.val vb.val mk w, 0)
  | .vcmplt md va vb mk w => some (vWord 0x1A 0x01 (md.val) va.val vb.val mk w, 0)
  | .vcmpltu md va vb mk w => some (vWord 0x1A 0x02 (md.val) va.val vb.val mk w, 0)
  | .vfcmpeq md va vb mk w => some (vWord 0x1A 0x03 (md.val) va.val vb.val mk w, 0)
  | .vfcmplt md va vb mk w => some (vWord 0x1A 0x04 (md.val) va.val vb.val mk w, 0)
  | .vfcmple md va vb mk w => some (vWord 0x1A 0x05 (md.val) va.val vb.val mk w, 0)
  | .vrsum vd va mk w => some (vWord 0x1E 0x00 vd.val va.val 0 mk w, 0)
  | .vrmax vd va mk w => some (vWord 0x1E 0x01 vd.val va.val 0 mk w, 0)
  | .vrmin vd va mk w => some (vWord 0x1E 0x02 vd.val va.val 0 mk w, 0)
  | .vradd vd va mk w => some (vWord 0x1E 0x03 vd.val va.val 0 mk w, 0)
  | .vcvt vd va dt st sat mk =>
      some (word 0x1B (at21 vd + at16 va + dt.toNat * 4096 + sat.toNat * 2048 + maskField mk + st.toNat), 0)
  | .vload v a mk w => some (vmemWord true v mk w a, 0)
  | .vstore v a mk w => some (vmemWord false v mk w a, 0)
  | .vtrd vd t gr => some (rowWord 0x00 vd.val gr.val t.val 0 0, 0)
  | .vtwr vs t gr => some (rowWord 0x01 vs.val gr.val t.val 0 0, 0)
  | .vtrdS vd t gr => some (rowWord 0x02 vd.val gr.val t.val 0 0, 0)
  | .vtwrS vs t gr => some (rowWord 0x03 vs.val gr.val t.val 0 0, 0)
  | .vext gd va gb w => some (rowWord 0x04 gd.val va.val 0 gb.val w, 0)
  | .vins vd gs gb w => some (rowWord 0x05 vd.val gs.val 0 gb.val w, 0)
  | .vsplat vd gs w => some (rowWord 0x06 vd.val gs.val 0 0 w, 0)
  | .mand md ma mb => some (maskWord 0x00 md.val ma.val mb.val, 0)
  | .mor md ma mb => some (maskWord 0x01 md.val ma.val mb.val, 0)
  | .mxor md ma mb => some (maskWord 0x02 md.val ma.val mb.val, 0)
  | .mnot md ma => some (maskWord 0x03 md.val ma.val 0, 0)
  | .mset md => some (maskWord 0x04 md.val 0 0, 0)
  | .mcnt gd ma => some (maskWord 0x05 gd.val ma.val 0, 0)
  | _ => none

/-- The n-bit field of a word whose lowest bit is lo. -/
def fld (w : W32) (lo n : Nat) : Nat := w.toNat / 2 ^ lo % 2 ^ n
/-- One bit of a word. -/
def fldB (w : W32) (lo : Nat) : Bool := fld w lo 1 == 1
/-- A 5-bit register field. -/
def fldR (w : W32) (lo : Nat) : Fin 32 := Fin.ofNat 32 (fld w lo 5)
/-- A 3-bit mask-register field. -/
def fldM (w : W32) (lo : Nat) : MReg := Fin.ofNat 8 (fld w lo 3)
/-- A 4-bit tile or tally field. -/
def fldT (w : W32) (lo : Nat) : Fin 16 := Fin.ofNat 16 (fld w lo 4)
/-- A field as bits. -/
def fldV (w : W32) (lo n : Nat) : BitVec n := BitVec.ofNat n (fld w lo n)
/-- MK and m (R461). -/
def fldMk (w : W32) : Option MReg := if fldB w 10 then some (fldM w 7) else none

/-- An ALU function of formats R and I (R43). -/
def readAlu (func : Nat) (rd ra : GReg) (op : Opnd) (sf wf : Bool) : Option Instr :=
  match func with
  | 0x0 => some (.add rd ra op sf wf)
  | 0x1 => some (.sub rd ra op sf wf)
  | 0x2 => some (.and rd ra op sf wf)
  | 0x3 => some (.or rd ra op sf wf)
  | 0x4 => some (.xor rd ra op sf wf)
  | 0x5 => some (.andn rd ra op sf wf)
  | 0x6 => some (.shl rd ra op sf wf)
  | 0x7 => some (.shr rd ra op sf wf)
  | 0x8 => some (.sar rd ra op sf wf)
  | 0x9 => some (.ror rd ra op sf wf)
  | 0xA => some (.mul rd ra op sf wf)
  | 0xB => some (.mulh rd ra op sf wf)
  | 0xC => some (.mulhu rd ra op sf wf)
  | 0xD => some (.cmp ra op sf wf)
  | 0xE => some (.min rd ra op sf wf)
  | 0xF => some (.max rd ra op sf wf)
  | _ => none

/-- The functions that format R alone has (R43). -/
def readAluR (func : Nat) (rd ra rb : GReg) (sf wf : Bool) : Option Instr :=
  match func with
  | 0x10 => some (.div rd ra rb sf wf)
  | 0x11 => some (.divu rd ra rb sf wf)
  | 0x12 => some (.rem rd ra rb sf wf)
  | 0x13 => some (.remu rd ra rb sf wf)
  | 0x14 => some (.clz rd ra sf wf)
  | 0x15 => some (.popc rd ra sf wf)
  | _ => readAlu func rd ra (.reg rb) sf wf

/-- The vector addressing mode of major 0x1C (R464). -/
def readVAddr (w : W32) : VAddr :=
  match fld w 2 2 with
  | 0 => .base (fldR w 16) (fldV w 11 5)
  | 1 => .post (fldR w 16)
  | 2 => .pre (fldR w 16)
  | _ => .idx (fldR w 16) (fldR w 11) (fldV w 0 2)

/-- The governed instruction after a prefix (R48). -/
def readGoverned (w : W32) : Option Governed :=
  match fld w 26 6 with
  | 0x0A => some (.mu (fldB w 12) (fldR w 21) (fldR w 16) (fldB w 11) (fldV w 13 3))
  | 0x1C => some (.vec (fldB w 4) (fldR w 21) (readVAddr w) (fldMk w) (fldV w 5 2))
  | _ => none

/-- Majors 0x18 and 0x19 (R462). -/
def readV1 (major func : Nat) (vd va vb : VReg) (mk : Option MReg) (w : BitVec 2) : Option Instr :=
  match major, func with
  | 0x18, 0x00 => some (.vadd vd va vb mk w)
  | 0x18, 0x01 => some (.vsub vd va vb mk w)
  | 0x18, 0x02 => some (.vmul vd va vb mk w)
  | 0x18, 0x03 => some (.vmin vd va vb mk w)
  | 0x18, 0x04 => some (.vmax vd va vb mk w)
  | 0x18, 0x05 => some (.vminu vd va vb mk w)
  | 0x18, 0x06 => some (.vmaxu vd va vb mk w)
  | 0x18, 0x07 => some (.vand vd va vb mk w)
  | 0x18, 0x08 => some (.vor vd va vb mk w)
  | 0x18, 0x09 => some (.vxor vd va vb mk w)
  | 0x18, 0x0A => some (.vshl vd va vb mk w)
  | 0x18, 0x0B => some (.vshr vd va vb mk w)
  | 0x18, 0x0C => some (.vsar vd va vb mk w)
  | 0x19, 0x00 => some (.vfadd vd va vb mk w)
  | 0x19, 0x01 => some (.vfsub vd va vb mk w)
  | 0x19, 0x02 => some (.vfmul vd va vb mk w)
  | 0x19, 0x03 => some (.vfdiv vd va vb mk w)
  | 0x19, 0x04 => some (.vfsqrt vd va mk w)
  | 0x19, 0x05 => some (.vfmin vd va vb mk w)
  | 0x19, 0x06 => some (.vfmax vd va vb mk w)
  | 0x19, 0x07 => some (.vfma vd va vb mk w)
  | 0x19, 0x08 => some (.vfnma vd va vb mk w)
  | _, _ => none

/-- Majors 0x1A and 0x1E (R462). -/
def readV2 (major func : Nat) (w1 : W32) (va vb : VReg) (mk : Option MReg) (w : BitVec 2) : Option Instr :=
  let md := fldM w1 21
  let vd : VReg := fldR w1 21
  match major, func with
  | 0x1A, 0x00 => some (.vcmpeq md va vb mk w)
  | 0x1A, 0x01 => some (.vcmplt md va vb mk w)
  | 0x1A, 0x02 => some (.vcmpltu md va vb mk w)
  | 0x1A, 0x03 => some (.vfcmpeq md va vb mk w)
  | 0x1A, 0x04 => some (.vfcmplt md va vb mk w)
  | 0x1A, 0x05 => some (.vfcmple md va vb mk w)
  | 0x1E, 0x00 => some (.vrsum vd va mk w)
  | 0x1E, 0x01 => some (.vrmax vd va mk w)
  | 0x1E, 0x02 => some (.vrmin vd va mk w)
  | 0x1E, 0x03 => some (.vradd vd va mk w)
  | _, _ => none

/-- Majors 0x1D and 0x1F (R465). -/
def readV3 (major func : Nat) (w : W32) : Option Instr :=
  match major, func with
  | 0x1D, 0x00 => some (.mand (fldM w 21) (fldM w 18) (fldM w 15))
  | 0x1D, 0x01 => some (.mor (fldM w 21) (fldM w 18) (fldM w 15))
  | 0x1D, 0x02 => some (.mxor (fldM w 21) (fldM w 18) (fldM w 15))
  | 0x1D, 0x03 => some (.mnot (fldM w 21) (fldM w 18))
  | 0x1D, 0x04 => some (.mset (fldM w 21))
  | 0x1D, 0x05 => some (.mcnt (fldR w 21) (fldM w 18))
  | 0x1F, 0x00 => some (.vtrd (fldR w 21) (fldT w 12) (fldR w 16))
  | 0x1F, 0x01 => some (.vtwr (fldR w 21) (fldT w 12) (fldR w 16))
  | 0x1F, 0x02 => some (.vtrdS (fldR w 21) (fldT w 12) (fldR w 16))
  | 0x1F, 0x03 => some (.vtwrS (fldR w 21) (fldT w 12) (fldR w 16))
  | 0x1F, 0x04 => some (.vext (fldR w 21) (fldR w 16) (fldR w 7) (fldV w 5 2))
  | 0x1F, 0x05 => some (.vins (fldR w 21) (fldR w 16) (fldR w 7) (fldV w 5 2))
  | 0x1F, 0x06 => some (.vsplat (fldR w 21) (fldR w 16) (fldV w 5 2))
  | _, _ => none

/-- Majors 0x0E, 0x14, 0x16 and 0x17 (R60, R248, R257, R296, R299, R311). -/
def readOp (major op : Nat) (w : W32) : Option Instr :=
  let g15 := fldR w 15
  let g10 := fldR w 10
  match major, op with
  | 0x0E, 0x00 => some (.fence (fldV w 16 4))
  | 0x0E, 0x01 =>
    match fld w 8 2 with
    | 0 => some (.tlbiAll (fldB w 7))
    | 1 => some (.tlbiAsid g10 (fldB w 7))
    | 2 => some (.tlbiVa g15 g10 (fldB w 7))
    | _ => some (.tlbiVaall g15 (fldB w 7))
  | 0x14, 0x00 => some (.callg (fldV w 8 12))
  | 0x14, 0x01 => some .retg
  | 0x14, 0x02 => some .sysc
  | 0x14, 0x03 => some .sysr
  | 0x14, 0x04 => if fldB w 0 then some .retxC else some .retx
  | 0x14, 0x05 => some .holdend
  | 0x14, 0x06 => some (.sspush g15)
  | 0x14, 0x07 => some (.sspinc g15)
  | 0x14, 0x08 => some .waiti
  | 0x16, 0x00 => some (.svm g15 g10)
  | 0x16, 0x01 => some (.ldm g15 g10)
  | 0x16, 0x02 => some (.svh g15 (fldB w 14))
  | 0x16, 0x03 => some (.ldh g15 (fldB w 14))
  | 0x17, 0x00 => some .plyc
  | 0x17, 0x01 => some (.tally (fldT w 6) g15 g10)
  | _, _ => none

/-- The fields of word 2 of IDRAIN (R127). -/
def readDrain (w : W32) : DrainOpts :=
  { otype := fldV w 0 4, sr := fldB w 4, sat := fldB w 5, osc := fldB w 6, scale := fldV w 8 8,
    ecol := fldV w 16 4, nent := fldV w 20 4 }

/-- The long forms (R72, R96, R120, R126, R127, R165, R187). -/
def readLong (major op : Nat) (w v : W32) : Option Instr :=
  let t := fldT w 16
  let q : QNum := Fin.ofNat 64 (fld v 0 6)
  let g15 := fldR w 15
  match major, op with
  | 0x3D, 0x00 => some (.tcfgImm t (fldV v 0 10) (fldV v 10 4) (fldV v 16 4) (fldB v 20))
  | 0x3D, 0x01 => if fldB w 10 then some (.tcfgRead (fldR w 11) t) else some (.tcfgReg t (fldR w 11))
  | 0x3D, 0x02 => some (.tld t (fldR w 11) (fldR w 6) (fldR w 1) q)
  | 0x3D, 0x03 => some (.tst t (fldR w 11) (fldR w 6) (fldR w 1) q)
  | 0x3D, 0x04 => some (.tzero t)
  | 0x3D, 0x05 => some (.tmov t (fldT w 12))
  | 0x3D, 0x06 => some (.trel t)
  | 0x3D, 0x07 => if fldB w 10 then some (.trdyW (fldR w 11) (fldV v 0 16)) else some (.trdy (fldR w 11) (fldV v 0 16))
  | 0x3D, 0x08 => some (.tresume t)
  | 0x3E, 0x00 => some (.bplane t)
  | 0x3E, 0x01 => some .bswap
  | 0x3E, 0x02 => some (.brun t (fldR w 11) (fldV w 9 2) (fldB w 8))
  | 0x3E, 0x03 => some (.bmode (fldV w 17 3))
  | 0x3E, 0x04 => some (.iclr g15 (fldR w 10))
  | 0x3E, 0x05 =>
    match fld w 18 2 with
    | 0 => some (.idrainTile (fldR w 13) (fldT w 9) (readDrain v))
    | 1 => some (.idrainVector (fldR w 13) (fldR w 8) (readDrain v))
    | 2 => some (.idrainMemory (fldR w 13) (fldR w 8) (fldR w 3) (Fin.ofNat 64 (fld v 24 6)) (readDrain v))
    | _ => none
  | 0x3F, 0x00 => some (.smove q g15)
  | 0x3F, 0x01 => some (.sqstat g15 q (fldV w 12 3))
  | 0x3F, 0x02 => some (.sqwait g15 q)
  | 0x3F, 0x03 =>
    match fld w 13 2 with
    | 0 => some (.sqctlClear q g15)
    | 1 => some (.sqctlRestart q g15)
    | 2 => some (.sqctlRestartAt q g15)
    | _ => some (.sqctlAbandon q g15)
  | 0x3F, 0x10 => some (.slaunch (fldR w 10) g15)
  | _, _ => none

/-- The instruction whose fields the words hold, before the fields shown as 0 are checked. -/
def readWords (w v : W32) : Option Instr :=
  let rd := fldR w 21
  let ra := fldR w 16
  match fld w 26 6 with
  | 0x01 => readAluR (fld w 0 9) rd ra (fldR w 11) (fldB w 10) (fldB w 9)
  | 0x02 => readAlu (fld w 12 4) rd ra (.imm (fldV w 0 12)) false false
  | 0x03 => readAlu (fld w 12 4) rd ra (.imm (fldV w 0 12)) true false
  | 0x04 => if fldB w 18 then some (.imi rd (fldV w 19 2) (fldV w 0 16)) else some (.imz rd (fldV w 19 2) (fldV w 0 16))
  | 0x08 => some (.load rd (.base ra (fldV w 0 13)) (fldV w 13 3))
  | 0x09 => some (.store rd (.base ra (fldV w 0 13)) (fldV w 13 3))
  | 0x0A =>
    let a : SAddr := if fldB w 11 then .pre ra else .post ra
    if fldB w 12 then some (.load rd a (fldV w 13 3)) else some (.store rd a (fldV w 13 3))
  | 0x0B =>
    let a : SAddr := .idx ra (fldR w 11) (fldV w 5 2)
    if fldB w 7 then some (.load rd a (fldV w 8 3)) else some (.store rd a (fldV w 8 3))
  | 0x0C => if fldB w 12 then some (.lda rd ra (fldV w 13 3)) else some (.stl rd ra (fldV w 13 3))
  | 0x0D =>
    match fld w 1 2 with
    | 0 => some (.cas rd ra (fldR w 11) (fldR w 6) (fldB w 5) (fldB w 4) (fldB w 3))
    | 1 => some (.aadd rd ra (fldR w 11) (fldR w 6) (fldB w 5) (fldB w 4) (fldB w 3))
    | _ => none
  | 0x10 => some (.b (fldV w 0 26))
  | 0x11 => some (.bCond (fldV w 22 4) (fldV w 0 22))
  | 0x12 => some (.call (fldV w 0 26))
  | 0x13 =>
    match fld w 16 5 with
    | 0 => some (.br rd)
    | 1 => some (.callr rd)
    | 2 => some .ret
    | _ => none
  | 0x15 =>
    match fld w 19 2 with
    | 0 => some (.mfc rd (fldV w 0 12))
    | 2 => some (.mtc rd (fldV w 0 12))
    | 1 => some (.mfb rd (fldV w 0 12))
    | _ => some (.mtb rd (fldV w 0 12))
  | 0x0E => readOp 0x0E (fld w 20 6) w
  | 0x14 => readOp 0x14 (fld w 20 6) w
  | 0x16 => readOp 0x16 (fld w 20 6) w
  | 0x17 => readOp 0x17 (fld w 20 6) w
  | 0x18 => readV1 0x18 (fld w 0 5) rd ra (fldR w 11) (fldMk w) (fldV w 5 2)
  | 0x19 => readV1 0x19 (fld w 0 5) rd ra (fldR w 11) (fldMk w) (fldV w 5 2)
  | 0x1A => readV2 0x1A (fld w 0 5) w ra (fldR w 11) (fldMk w) (fldV w 5 2)
  | 0x1E => readV2 0x1E (fld w 0 5) w ra (fldR w 11) (fldMk w) (fldV w 5 2)
  | 0x1B => some (.vcvt rd ra (fldV w 12 4) (fldV w 0 4) (fldB w 11) (fldMk w))
  | 0x1C =>
    if fldB w 4 then some (.vload rd (readVAddr w) (fldMk w) (fldV w 5 2))
    else some (.vstore rd (readVAddr w) (fldMk w) (fldV w 5 2))
  | 0x1D => readV3 0x1D (fld w 0 5) w
  | 0x1F => readV3 0x1F (fld w 0 5) w
  | 0x38 => (readGoverned v).map (.rep rd)
  | 0x39 => (readGoverned v).map (.repn (fldV w 20 6))
  | 0x3D => readLong 0x3D (fld w 20 6) w v
  | 0x3E => readLong 0x3E (fld w 20 6) w v
  | 0x3F => readLong 0x3F (fld w 20 6) w v
  | _ => none

/-- The instruction that two fetched words spell; none is an undefined instruction (R17, R41, R42). The second word counts
only where the first opens a form of two words. Fields shown as 0 are checked by writing the instruction out again. -/
def decodeWords (w1 w2 : W32) : Option Instr :=
  let v := if twoWords w1 then w2 else 0
  match readWords w1 v with
  | some i => if wellFormed i = true ∧ encodeWords i = some (w1, v) then some i else none
  | none => none

/-- Bytes of an instruction (R40): 8 for a long form or a prefix with what it governs. -/
def instrBytes (i : Instr) : Nat :=
  match encodeWords i with
  | some (w1, _) => if twoWords w1 then 8 else 4
  | none => 4

end Sys2Proof
end

