-- ==== Sys2Proof/Machine/Sparse.lean ====
section
/-! DEFINITION. Sparse arrays in one canonical form: keys strictly rising, no entry equal to what an unlisted key reads as. -/
namespace Sys2Proof.Machine

/-- A function mapped over a vector. -/
def vmap {α β : Type} {n : Nat} (f : α → β) (v : Vector α n) : Vector β n :=
  ⟨(v.toList.map f).toArray, by simp⟩

/-- A vector whose element i is f i of the old one. -/
def vmapIdx {α β : Type} {n : Nat} (f : Nat → α → β) (v : Vector α n) : Vector β n :=
  ⟨(v.toList.zipIdx.map fun p => f p.2 p.1).toArray, by simp⟩

/-- An array of values by number; what an unlisted number reads as is given to every operation. -/
abbrev Sparse (α : Type) := List (Nat × α)

/-- Reads key k; d is what an unlisted key reads as. -/
def spGet {α : Type} (d : α) : Sparse α → Nat → α
  | [], _ => d
  | (k', v) :: m, k => if k = k' then v else if k < k' then d else spGet d m k

/-- Writes v at key k, keeping the canonical form. -/
def spSet {α : Type} [DecidableEq α] (d : α) : Sparse α → Nat → α → Sparse α
  | [], k, v => if v = d then [] else [(k, v)]
  | (k', v') :: m, k, v =>
    if k < k' then (if v = d then (k', v') :: m else (k, v) :: (k', v') :: m)
    else if k = k' then (if v = d then m else (k, v) :: m)
    else (k', v') :: spSet d m k v

/-- The canonical form from a lower bound of the keys on. -/
def spWfFrom {α : Type} [DecidableEq α] (d : α) : Nat → Sparse α → Bool
  | _, [] => true
  | lo, (k, v) :: m => decide (lo ≤ k) && !decide (v = d) && spWfFrom d (k + 1) m

/-- The canonical form: keys strictly rising, no entry equal to what an unlisted key reads as. -/
def spWf {α : Type} [DecidableEq α] (d : α) (m : Sparse α) : Bool := spWfFrom d 0 m

/-- Writes the values of a list at key k, k + 1, and so on. -/
def spSetAll {α : Type} [DecidableEq α] (d : α) : Sparse α → Nat → List α → Sparse α
  | m, _, [] => m
  | m, k, v :: vs => spSetAll d (spSet d m k v) (k + 1) vs

/-- The values at keys k to k + n - 1. -/
def spGetAll {α : Type} (d : α) (m : Sparse α) (k n : Nat) : List α :=
  (List.range n).map fun i => spGet d m (k + i)

/-- Removes every entry whose key fails p. -/
def spKeep {α : Type} (p : Nat → Bool) (m : Sparse α) : Sparse α := m.filter fun e => p e.1

/-- Changes every listed entry, dropping those that come to read as an unlisted one; f gives d where it is given d. -/
def spMap {α : Type} [DecidableEq α] (d : α) (f : Nat → α → α) (m : Sparse α) : Sparse α :=
  (m.map fun e => (e.1, f e.1 e.2)).filter fun e => !decide (e.2 = d)

end Sys2Proof.Machine
end

