-- ==== Sys2Proof/Machine/State.lean ====
section
/-! DEFINITION. The state of the block as plain data, the reasons a step can stop, and the state after reset. -/
namespace Sys2Proof.Machine

/-- The configurations of R3 and R5. -/
inductive Variant where
  | m1024 | m512 | m256 | m256np
  deriving DecidableEq, Repr

/-- The states of a register bank (R291). -/
inductive BankState where
  | free | parked | ready | wait | run
  deriving DecidableEq, Repr

/-- A result of a long operation that its unit has not written yet (R203). -/
inductive LongRes where
  | g (r : GReg) (x : W64)
  | v (r : VReg) (x : VWord)
  deriving DecidableEq, Repr

/-- A register bank (R290), also the registers of a scribe thread, which uses the low parts (R183, R184). -/
structure Bank where
  g : Vector W64 32 := Vector.replicate 32 0
  pc : W64 := 0
  fl : W64 := 0
  vl : W64 := 0
  vfst : W64 := 0
  ssp : W64 := 0
  sysrpc : W64 := 0
  sysrfl : W64 := 0
  ttb : W64 := 0
  ibase : W64 := 0
  bmode : W64 := 0
  srseed : W64 := 0
  v : Vector VWord 32 := Vector.replicate 32 0
  m : Vector MWord 8 := Vector.replicate 8 0
  st : BankState := .free
  sev : Bool := false
  bev : Bool := false
  mev : Bool := false
  tnr : Bool := false
  dirty : BitVec 41 := 0
  longs : List LongRes := []
  /-- The tiles that a WAIT bank with TNR = 1 waits for (R302). -/
  tnrTiles : List TReg := []
  /-- It waits on the interlock of TCFG (R73, R302). -/
  tnrCfg : Bool := false
  deriving DecidableEq, Repr

/-- An entry of an interrupt whose 12-cc window is open, which a critical request may take over (R285): the state before the entry. -/
structure EntryWin where
  vec : Byte
  crit : Bool
  pc : W64
  fl : W64
  ipl : BitVec 4
  xpc : W64
  xfl : W64
  xcause : W64
  xaddr : W64
  cxpc : W64
  cxfl : W64
  cxcause : W64
  cxaddr : W64
  hold : Bool
  pend : Bool
  deriving DecidableEq, Repr

/-- An entry whose handler's first instruction has not been fetched: its vector, and the state before it (R287). -/
structure Fresh where
  vec : Byte
  pc : W64
  fl : W64
  ipl : BitVec 4
  hold : Bool
  /-- The pending bit of the vector before the entry. -/
  pend : Bool
  cxpc : W64
  cxfl : W64
  cxcause : W64
  cxaddr : W64
  deriving DecidableEq, Repr

/-- The control registers and status of the general core that are not banked. -/
structure Ctl where
  /-- STATUS.BANK (R39). -/
  cur : BankNum := 0
  ipl : BitVec 4 := 0
  /-- STATUS.HOLD with the vector that opened the window (R277, R331). -/
  hold : Bool := false
  holdVec : Byte := 0
  ruledAct : Bool := false
  vtbase : W64 := 0
  gatebase : W64 := 0
  sysentry : W64 := 0
  sysstack : W64 := 0
  dfstack : W64 := 0
  xpc : W64 := 0
  xfl : W64 := 0
  xcause : W64 := 0
  xaddr : W64 := 0
  cxpc : W64 := 0
  cxfl : W64 := 0
  cxcause : W64 := 0
  cxaddr : W64 := 0
  /-- HOLDMAX (R277): MAX 1,024, LOG 1. -/
  holdmax : W64 := 0x10400
  ilevel : Vector W64 14 := (Vector.replicate 14 0).set 0 0xEEF
  ipend : Vector W64 4 := Vector.replicate 4 0
  /-- The last data of the message-signalled vectors 0x80 to 0xFF (R280). -/
  msiData : Vector W32 128 := Vector.replicate 128 0
  bankwin : BankNum := 0
  bovbank : BankNum := 0
  afail : Bool := false
  /-- SCHEDCTL (R301): TNR, SEV, BEV, MEV, WAITI 1, THRESH 0x010. -/
  schedctl : W64 := 0x100003E
  svmprog : W64 := 0
  /-- The SVM, LDM, SVH or LDH at the ROB head: its next group, and for LDH the area of the other half or 0 (R297, R299). -/
  xfer : Option (Nat × W64) := none
  boventry : W64 := 0
  bovrpc : W64 := 0
  bovrfl : W64 := 0
  bthrOs : Byte := 0xFF
  bthrHost : Byte := 0xFF
  ruledEn : Bool := false
  ruledSched : Bool := false
  l2En : BitVec 4 := 0xF
  l2On : BitVec 4 := 0xF
  l2Busy : BitVec 4 := 0
  ply : W64 := 0
  fwfloor : W32 := 0
  errlast : Vector W64 4 := Vector.replicate 4 0
  chkdis : W64 := 0
  errinj : W64 := 0
  qevent : W64 := 0
  tdirty : BitVec 16 := 0
  /-- The L2 way groups that a machine check which is still pending names (R229). -/
  l2Check : BitVec 4 := 0
  /-- An L1D or store-buffer machine check has been posted since the last reset (R230). -/
  l1dCheck : Bool := false
  /-- The entry whose window is open (R285). -/
  entry : Option EntryWin := none
  /-- An entry into the double-fault handler whose first instruction has not been fetched (R288). -/
  dfOpen : Bool := false
  /-- The last entry, while the handler's first instruction is not yet fetched (R287). -/
  fresh : Option Fresh := none
  deriving DecidableEq, Repr

/-- The states of a tile (R68). -/
inductive TileState where
  | empty | ready | pending | incomplete
  deriving DecidableEq, Repr

/-- What an operation captures from the issuing bank (R75, R166). -/
structure Capture where
  bank : BankNum
  ring : BitVec 2
  ttb : W64
  ruled : Bool
  deriving DecidableEq, Repr

/-- A tile (R63, R64, R82, R84). -/
structure Tile where
  rowsm1 : BitVec 10
  rbm1 : BitVec 4
  etype : BitVec 4 := 0
  mx : Bool := false
  st : TileState := .empty
  /-- What the tile is apart from its accepted writers and failures: EMPTY or READY. -/
  base : TileState := .empty
  progRows : BitVec 11 := 0
  progOp : BitVec 2 := 0
  progFault : Bool := false
  ownBank : BankNum := 0
  ownAny : Bool := true
  ownCtx : BitVec 16 := 0
  /-- Rows of the data array; an unlisted row is zero. -/
  rows : Sparse RowWord := []
  /-- Rows of the sidecar; an unlisted row is 0x7F in every byte. -/
  scales : Sparse ScaleWord := []
  /-- Uncorrectable 64-bit words, as 256 × row + word; the sidecar's words follow the 128 of the data row (R329, R332). -/
  bad : List Nat := []
  deriving DecidableEq, Repr

/-- An entry of the nib cache: tile and row (R86). -/
structure Nib where
  tags : Vector (Option (TReg × BitVec 10)) 64 := Vector.replicate 64 none
  plru : BitVec 63 := 0
  deriving DecidableEq, Repr

/-- The kinds of operations that the tile unit, the board and the stream engine accept (R68, R97, R163, R112). -/
inductive OpKind where
  | tld | tst | tzero | trel | tmov | bplane | bswap | brun | iclr | idrainT | idrainM | smove | remap
  deriving DecidableEq, Repr

/-- A stop of a stream operation: the fault record's words 1, 2 and 4 without progress (R174), and whether it has been reported. -/
structure Stop where
  cause : BitVec 5
  kind : BitVec 3
  detail : Byte
  write : Bool
  addr : W64
  phys : W64
  recorded : Bool
  /-- The stop came before any data access, so that a restart reads the descriptor again (R177). -/
  early : Bool
  deriving DecidableEq, Repr

/-- An operation that is accepted and not completed, in acceptance order (R69, R97, R133, R164). -/
structure Op where
  id : Nat
  kind : OpKind
  cap : Capture
  /-- Its tile; for TMOV the destination. -/
  t : TReg := 0
  /-- The source tile of TMOV. -/
  ts : TReg := 0
  q : QNum := 0
  ga : W64 := 0
  gb : W64 := 0
  gc : W64 := 0
  /-- First inkwell row. -/
  base : Nat := 0
  /-- Rows or lines in all. -/
  n : Nat := 0
  semi : BitVec 3 := 0
  /-- ACC = WRITE (R96). -/
  wr : Bool := false
  half : Bool := false
  opts : DrainOpts := ⟨0, false, false, false, 0, 0, 0⟩
  srseed : W64 := 0
  /-- The spare and the logical file of a remap that a PLYC has placed (R112). -/
  remap : List (Fin 8 × BitVec 10) := []
  /-- Released from the hold of R71, or started as R164 states. -/
  started : Bool := false
  /-- Leading rows or lines complete; for BRUN the A-rows that have entered. -/
  prog : Nat := 0
  /-- Rows or lines above the progress that are complete. -/
  above : List Nat := []
  /-- Rows or lines whose writes are made and not yet known to be visible to all agents (R75, R169). -/
  written : List Nat := []
  /-- Rows or lines in progress some of whose writes went to the fabric. -/
  fab : List Nat := []
  /-- The next request to issue: its row or line, and its byte offset in it (R170). -/
  iline : Nat := 0
  ioff : Nat := 0
  /-- The requests outstanding, by row or line (R170). -/
  out : List (Nat × Nat) := []
  /-- The rows that a memory drain has read from the inkwell, as its requests carry them (R131, R133). -/
  buf : List (Nat × List Byte) := []
  /-- Bytes of the next line of each line in progress that have moved: line and byte count. -/
  moved : List (Nat × Nat) := []
  /-- Rows read from the inkwell by a drain on the service port, or written by ICLR (R133). -/
  port : Nat := 0
  /-- Result rows combined by a BRUN. -/
  combined : Nat := 0
  desc : Option (Vector W64 8) := none
  stop : Option Stop := none
  /-- Every line is complete; the posting may wait (R164). -/
  done : Bool := false
  abandoned : Bool := false
  /-- A TLD or TST that has left its queue with a fault (R176). -/
  left : Bool := false
  /-- Its place in its queue: TRESUME places an operation behind the others (R80). -/
  qseq : Nat := 0
  deriving DecidableEq, Repr

/-- A plane record (R94). -/
structure PlaneRec where
  loaded : Bool := false
  etype : BitVec 4 := 0
  rbm1 : BitVec 4 := 0
  mx : Bool := false
  n : Nat := 0
  deriving DecidableEq, Repr

/-- A weight plane: weights and weight scales by logical file, and the record in place (R94). -/
structure Plane where
  pr : PlaneRec := {}
  rows : Sparse RowWord := []
  scales : Sparse ScaleWord := []
  deriving DecidableEq, Repr

/-- What travels down the board behind the rank edge (R99, R103). -/
inductive InFlight where
  /-- A result row of operation id: its row number within the run and its file sums. -/
  | row (id : Nat) (m : Nat) (sums : List (Nat × Ink))
  | swap (id : Nat)
  deriving DecidableEq, Repr

/-- The board (R94 to R114). -/
structure Board where
  /-- The records as acceptance sees them, and which plane will be active (R94). -/
  acc : Vector PlaneRec 2 := Vector.replicate 2 {}
  accActive : Fin 2 := 0
  planes : Vector Plane 2 := Vector.replicate 2 {}
  active : Fin 2 := 0
  released : Bool := true
  flight : List InFlight := []
  /-- The current spare map in the always-on domain, and the board's copy (R111, R112). -/
  spare : Vector (Option (BitVec 10)) 8 := Vector.replicate 8 none
  spareBoard : Vector (Option (BitVec 10)) 8 := Vector.replicate 8 none
  /-- Remaps that the quill has accepted and no PLYC has placed (R112). -/
  remaps : List (Fin 8 × BitVec 10) := []
  /-- The duty in force in the present window, and the rows that have entered in it (R114). -/
  duty : Byte := 0xFF
  entered : Nat := 0
  deriving DecidableEq, Repr

/-- A stream queue (R163, R174). -/
structure SQueue where
  done : W32 := 0
  recv : Bool := false
  w1 : W64 := 0
  w2 : W64 := 0
  w3 : W64 := 0
  w4 : W64 := 0
  /-- The operation whose stop the record holds, while it holds the queue FAULTED (R163). -/
  faulted : Option Nat := none
  deriving DecidableEq, Repr

/-- A live scribe thread (R183, R188). -/
structure Thread where
  regs : Bank
  wring : RingNum
  dindex : BitVec 16
  /-- It has met a cause, and its report waits (R192). -/
  stopped : Bool
  deriving DecidableEq, Repr

/-- A report for a scribe's fault record (R192). -/
structure Report where
  cause : BitVec 5
  /-- None: NOTHREAD. -/
  thread : Option (Fin 128)
  wring : RingNum
  dindex : BitVec 16
  pc : W64
  addr : W64
  phys : W64
  /-- It reports a refused descriptor (R191). -/
  refusal : Bool
  deriving DecidableEq, Repr

/-- A scribe (R181, R192). -/
structure Scribe where
  threads : Sparse (Option Thread) := []
  /-- The thread that issued last (R182). -/
  last : Fin 128 := 127
  recv : Bool := false
  /-- The valid record reports a refused descriptor (R191). -/
  refusal : Bool := false
  f0 : W64 := 0
  f1 : W64 := 0
  f2 : W64 := 0
  f3 : W64 := 0
  /-- Reports that wait for the record, oldest first (R192). -/
  waiting : List Report := []
  deriving DecidableEq, Repr

/-- A work ring (R186, R187). -/
structure Ring where
  offs : BitVec 20 := 0
  en : Bool := false
  sizelog2 : BitVec 4 := 4
  smask : BitVec 16 := 0xFFFF
  head : BitVec 16 := 0
  done : BitVec 16 := 0
  tail : BitVec 16 := 0
  capTtb : W64 := 0
  capBank : BankNum := 0
  /-- The descriptor at HEAD once the dispatcher has read it, and whether a word of it is uncorrectable (R189). -/
  fetched : Option (Vector W64 8 × Bool) := none
  deriving DecidableEq, Repr

/-- A descriptor that is placed, refused or abandoned and has not posted (R189, R190). -/
structure Placed where
  wring : RingNum
  index : BitVec 16
  scribe : ScribeNum
  words : Vector W64 8
  /-- The next thread to start, and the threads in all. -/
  next : Nat
  nt : Nat
  faulted : Bool := false
  nonzero : Bool := false
  refused : Bool := false
  abandoned : Bool := false
  deriving DecidableEq, Repr

/-- A line of L1D: its physical line number PA[55:6], dirty mark and data (R213). -/
structure L1DLine where
  la : BitVec 50
  dirty : Bool
  data : LineWord
  deriving DecidableEq, Repr

/-- The states of an L2 line (R222). -/
inductive Mesi where
  | s | e | m
  deriving DecidableEq, Repr

/-- A line of L2 (R213, R222, R227). -/
structure L2Line where
  la : BitVec 50
  st : Mesi
  poison : Bool
  data : LineWord
  deriving DecidableEq, Repr

/-- A tracker of the prefetcher: region PA[55:12], last missing line in it, confirmed direction (R219). -/
structure Tracker where
  region : BitVec 44
  last : BitVec 6
  dir : Option Bool
  deriving DecidableEq, Repr

/-- A leaf entry of a translation cache (R246). -/
structure TlbEntry where
  base : W64
  p : Nat
  leaf : W64
  asid : BitVec 16
  /-- The set of its class in a set-associative cache; 0 in a fully associative one. -/
  ix : Nat
  deriving DecidableEq, Repr

/-- A walk-cache entry (R246). -/
structure WalkEntry where
  asid : BitVec 16
  level : Nat
  tag : Nat
  desc : W64
  deriving DecidableEq, Repr

/-- A walk in progress (R239). -/
structure Walk where
  req : WalkReq
  va : W64
  ttb : W64
  ring : BitVec 2
  level : Nat
  table : Nat
  ty : BitVec 2
  deriving DecidableEq, Repr

/-- The memory types of R59. -/
inductive MType where
  | cacheable | uncacheable | device
  deriving DecidableEq, Repr

/-- An entry of the store buffer (R225). -/
structure SbEntry where
  pa : BitVec 56
  bytes : List (Option Byte)
  ty : MType
  /-- Part of a split store or a line of a vector store (R226). -/
  part : Bool
  /-- Written by STL (R57). -/
  rel : Bool := false
  /-- The L1D set of its virtual address (R213). -/
  set : BitVec 7 := 0
  /-- The first entry of a split store, which drains together with the next (R205). -/
  pair : Bool := false
  deriving DecidableEq, Repr

/-- A line in the write-back buffer, with its poison indication (R413, R415, R417). -/
structure WbLine where
  la : BitVec 50
  data : LineWord
  poison : Bool
  deriving DecidableEq, Repr

/-- The caches, the store buffer and the translation caches (R213 to R226, R245). -/
structure Caches where
  l1i : Sparse (Option (BitVec 50)) := []
  l1iPlru : Sparse (BitVec 3) := []
  l1d : Sparse (Option L1DLine) := []
  l1dPlru : Sparse (BitVec 7) := []
  /-- The prefetch buffer, oldest first: clean lines. -/
  pf : List (BitVec 50) := []
  /-- Prefetches issued and not returned. -/
  pfOut : List (BitVec 50) := []
  /-- The trackers, oldest allocated first. -/
  trk : List Tracker := []
  l2 : Sparse (Option L2Line) := []
  l2Plru : Sparse (BitVec 15) := []
  /-- The miss register: the line that is missing, and whether a store asked (R217). -/
  miss : Option (BitVec 50 × BitVec 7 × Bool) := none
  /-- The line buffer: the physical line it holds (R199). -/
  lineBuf : Option (BitVec 50) := none
  sb : List SbEntry := []
  /-- The last line of a vector store of 33 lines, the others in the buffer, while it waits at the ROB head (R225). -/
  sbLast : Option SbEntry := none
  /-- The scribes' instruction caches: physical lines by 4 × set + way (R181, R222). -/
  scrL1i : Vector (Sparse (Option (BitVec 50))) 16 := Vector.replicate 16 []
  scrL1iPlru : Vector (Sparse (BitVec 3)) 16 := Vector.replicate 16 []
  itlb : List TlbEntry := []
  dtlb : List TlbEntry := []
  l2tlb : List TlbEntry := []
  walkc : List WalkEntry := []
  stlb : List TlbEntry := []
  scrTlb : Vector (List TlbEntry) 16 := Vector.replicate 16 []
  walks : List Walk := []
  /-- The write-back buffer: the lines that have left L2 by a WriteLine which is not yet acknowledged (R415). -/
  wb : List WbLine := []
  deriving DecidableEq, Repr

/-- The registers of a tally that a snapshot copies (R310). -/
structure TalRegs where
  mn : W32 := 0xFFFFFFFF
  mx : W32 := 0
  cnt : BitVec 40 := 0
  nan : BitVec 24 := 0
  sum : W64 := 0
  hist : Sparse (BitVec 40) := []
  drop : W32 := 0
  deriving DecidableEq, Repr

/-- A sample in the queue of a tally (R308, R313). -/
structure Sample where
  v : W32
  key : Option (BitVec 10)
  ply : W64
  deriving DecidableEq, Repr

/-- The buffered header of a key: its vellum offset and its four doublewords (R315). -/
structure KeyBuf where
  offs : Nat
  d0 : W64
  d1 : W64
  d2 : W64
  d3 : W64
  deriving DecidableEq, Repr

/-- A tally (R310). -/
structure Tally where
  src : W64 := 0
  kbase : W64 := 0
  qlock : Bool := false
  live : TalRegs := {}
  snap : TalRegs := {}
  sply : W64 := 0
  pend : Bool := false
  keyed : Bool := false
  queue : List Sample := []
  kbuf : Option KeyBuf := none
  deriving DecidableEq, Repr

/-- The power states of a fast domain (R446). -/
inductive DomSt where
  | off | retained | run | gated | sleepRet | sleepDown
  deriving DecidableEq, Repr

/-- A fast domain with its handshakes (R433, R435, R445, R446). -/
structure Dom where
  st : DomSt := .off
  /-- The state that a transition in progress leads to. -/
  goal : Option DomSt := none
  /-- The state that follows the transition in progress: a shutdown met by a power-up (R445). -/
  after : Option DomSt := none
  latched : Bool := false
  /-- The power-up initialisation has still to be done (R448). -/
  init : Bool := false
  fclkReq : Bool := false
  fclkAck : Bool := false
  pwrReq : BitVec 2 := 0
  pwrAck : BitVec 2 := 0
  deriving DecidableEq, Repr

/-- The configuration words (R451 to R456). -/
structure Cfg where
  coreid : W32 := 0
  partner : W32 := 0
  vellumbase : W64 := 0
  mgmtbase : W64 := 0
  resetpc : W64 := 0
  options : W32 := 0
  floor : W32 := 0
  sparemap : Vector W32 4 := Vector.replicate 4 0
  fabric : W32 := 0x0064
  lock : Bool := false
  deriving DecidableEq, Repr

/-- The states of the mirror engine (R349). -/
inductive MirSt where
  | idle | commit | fetch | verify | stalled
  deriving DecidableEq, Repr

/-- A word, a granule or a record that the partner port sends (R424). -/
inductive PWord where
  | granule (range : BitVec 4) (idx : BitVec 16) (gen fetch : Bool) (ply : BitVec 60) (crc : W32) (bytes : List Byte)
  | record (gen : Bool) (bytes : List Byte)
  | ack (g : BitVec 16) (gen isRec : Bool)
  | nack (code : BitVec 4) (g : BitVec 16) (isRec : Bool)
  | credit (n : BitVec 3)
  | freq (rmask : BitVec 16) (gen : BitVec 2) (verify : Bool)
  | fend (st : BitVec 4)
  deriving DecidableEq, Repr

/-- A granule that is sent and not acknowledged, as it stands in the retransmit buffer, with its CRC NACKs (R357). -/
structure TxGran where
  g : Nat
  word : PWord
  nacks : Nat := 0
  /-- A CRC NACK asks for it again. -/
  again : Bool := false
  deriving DecidableEq, Repr

/-- What is sent with a label of one generation: a commit, or the answer to a FREQ (R351, R352, R357, R425). Granules are named by their
global index. -/
structure Send where
  ply : W64
  gen : Bool
  /-- Granules not yet read, in ascending order. -/
  todo : List Nat
  unacked : List TxGran := []
  /-- The first record has to be sent (again), it is acknowledged, and its CRC NACKs. -/
  recDue : Bool := true
  recAcked : Bool := false
  recNacks : Nat := 0
  deriving DecidableEq, Repr

/-- A running commit (R351, R352). -/
structure Commit where
  tx : Send
  /-- Granules that a held writer waits for, in the order in which they were asked for (R353). -/
  urgent : List Nat := []
  /-- All the granules of the set (R355 NSENT). -/
  total : Nat
  /-- The first record is acknowledged and the VALID record goes. -/
  closing : Bool := false
  tick : W64
  deriving DecidableEq, Repr

/-- A write that waits for its granule to be read (R353). -/
structure HeldWrite where
  pa : BitVec 56
  bytes : List Byte
  deriving DecidableEq, Repr

/-- A fetch or a verify that runs (R359, R360). -/
structure Fetch where
  verify : Bool
  rmask : BitVec 16
  want : BitVec 2
  setPly : Bool
  /-- FREQ has still to be sent. -/
  freqDue : Bool := true
  /-- The generation and the label of the record that the partner has sent. -/
  got : Option (Bool × W64)
  copied : Nat
  compared : Nat
  skipped : Nat
  differing : List Nat
  /-- CRC failures of the record, and of each granule that has failed (R361). -/
  recCrcs : Nat := 0
  crcs : List (Nat × Nat) := []
  /-- FEND has come with status 0, and writes are not yet visible. -/
  fend : Bool := false
  /-- The active command that it belongs to. -/
  cmd : Nat
  deriving DecidableEq, Repr

/-- What the receiving side has written and not yet acknowledged (R356, R361). -/
inductive RxItem where
  | granule (g : BitVec 16) (gen : Bool)
  /-- A record, and whether it is written: it waits for the granules before it. -/
  | record (gen : Bool) (bytes : List Byte) (written : Bool)
  /-- A granule of a fetch. -/
  | fetched (g : BitVec 16) (gen : Bool)
  deriving DecidableEq, Repr

/-- Partner mirroring (R343 to R363). -/
structure Mir where
  cfg : Vector W64 16 := Vector.replicate 16 0
  en : Bool := false
  recv : Bool := false
  qlock : Bool := false
  tmo : Byte := 0x0A
  st : MirSt := .idle
  gen : Bool := false
  link : Bool := false
  cfgErr : Bool := false
  failed : Bool := false
  aborts : Byte := 0
  sent : W32 := 0
  last : W64 := 0
  map : W64 := 0
  resv : W64 := 0
  commit : Option Commit := none
  /-- The labels of the last VALID record of each generation (R355 PREV). -/
  prev : W64 × W64 := (0, 0)
  /-- Credits held towards the partner (R424). -/
  credits : Nat := 0
  /-- The partner has got its four credits since the link came up (R424). -/
  granted : Bool := false
  held : List HeldWrite := []
  fetch : Option Fetch := none
  rx : List RxItem := []
  /-- The granule counts by range of the last record accepted; 0 for a disabled range (R354). -/
  rxN : List Nat := []
  /-- The generation and the label of that record (R424). -/
  rxRec : Option (Bool × W64) := none
  /-- The answer to the partner's FREQ that runs, with the granule counts of its record (R425). -/
  serve : Option (Send × List Nat) := none
  /-- The words that the last step which sent any has sent (log 22). -/
  out : List PWord := []
  deriving DecidableEq, Repr

/-- A flip that ERRINJ has planted and that no reader has met: the unit, the place as R466 lays it out, and the kind: 1 single-bit, 2 double-bit,
3 parity (R341, R466). -/
structure Spot where
  unit : Byte
  loc : Nat
  kind : Nat
  deriving DecidableEq, Repr

/-- The error FIFO, its lines, and the scrubbers (R327, R328, R336, R338). -/
structure ErrSys where
  fifo : Sparse (BitVec 256) := []
  /-- FIFO places with an uncorrectable word (R337). -/
  fifoBad : List Nat := []
  wr : BitVec 9 := 0
  rd : BitVec 9 := 0
  ovf : W32 := 0
  corr : Bool := false
  fatal : Bool := false
  chkoff : Bool := false
  ovfu : Bool := false
  seq : BitVec 16 := 0
  /-- The next row, set or word of the five scrubbed stores, numbered as R379 numbers them. -/
  pos : Vector Nat 5 := Vector.replicate 5 0
  credTile : Nat := 0
  credInk : Nat := 0
  /-- The intervals in sc per step (R327, R379). -/
  interval : Vector W32 5 := ⟨#[640, 1024, 1024, 1024, 100], rfl⟩
  /-- A full pass that SCRUB_CTRL has asked for: steps left and the active command (R379). -/
  pass : Vector (Option (Nat × Nat)) 5 := Vector.replicate 5 none
  /-- The injected flips that are in place (R341). -/
  spots : List Spot := []
  deriving DecidableEq, Repr

/-- QSTAT.QSTATE (R369). -/
inductive QState where
  | rom | run | restart
  deriving DecidableEq, Repr

/-- A request that the server has copied out (R370, R371). -/
structure Req where
  box : BoxNum
  vmaj : Byte
  vmin : Byte
  op : BitVec 16
  seq : W32
  body : List Byte
  /-- Its blotter entry, when it is journaled, with what the journal keeper keeps of it (R385, R386). -/
  entry : Option (BitVec 10)
  atick : W64
  epoch : Byte
  deriving DecidableEq, Repr

/-- A command that is accepted and incomplete, with its request (R372, R378). -/
structure Active where
  id : Nat
  req : Req
  /-- Started by a replay: no completion is posted, and FLAGS.REPLAY is set (R389). -/
  replay : Bool
  deriving DecidableEq, Repr

/-- A region of the quill's MPU: its base in pages of 4 KiB, its size as a power of two, and the rights of user mode (R364). -/
structure MpuRegion where
  base : BitVec 20 := 0
  size : BitVec 5 := 0
  r : Bool := false
  w : Bool := false
  x : Bool := false
  deriving DecidableEq, Repr

/-- What the quill's trace buffer holds: the tag of a HELLO, and a component whose persistent state was lost (R365, R366, R376). -/
inductive Trace where
  | hello (tag : W32)
  | stateReset (c : Component)
  deriving DecidableEq, Repr

/-- A record of the error log: its sequence number, and whether ERRLOG_CLEAR has freed it (R379, R382). -/
structure LogRec where
  seq : W32
  val : BitVec 256
  freed : Bool := false
  deriving DecidableEq, Repr

/-- The quill, its mailboxes, the blotter and the log (R364 to R391). -/
structure Quill where
  h2q : Vector (Sparse Byte) 4 := Vector.replicate 4 []
  q2h : Vector (Sparse Byte) 4 := Vector.replicate 4 []
  hq : BitVec 4 := 0
  qh : BitVec 4 := 0
  ien : BitVec 4 := 0
  sien : Bool := false
  schg : Bool := false
  /-- The last mailbox served (R370). -/
  lastBox : BoxNum := 3
  qstate : QState := .rom
  down : Bool := false
  hello : Bool := false
  rcount : BitVec 2 := 0
  epoch : Byte := 0
  vmaj : Byte := 0
  vmin : Byte := 0
  /-- The request that the server executes. -/
  cur : Option Req := none
  /-- Responses and completions that wait for QH, oldest first (R370). -/
  outbox : Vector (List (List Byte)) 4 := Vector.replicate 4 []
  active : List Active := []
  nextCmd : Nat := 0
  /-- Blotter entries (R384). -/
  blot : Sparse (BitVec 256) := []
  /-- Blotter entries with an uncorrectable word (R386). -/
  blotBad : List Nat := []
  next : BitVec 10 := 0
  wraps : BitVec 22 := 0
  /-- The error log, oldest first, and whether its header has an uncorrectable word (R382, R386). -/
  log : List LogRec := []
  logHeadBad : Bool := false
  logSeq : W32 := 0
  /-- The sequence number of the last record lost before it was read or cleared, if any (R379). -/
  logLost : Option W32 := none
  /-- For each logical file: the distinct PLY values of its board errors, and whether the advice is logged (R383). -/
  advice : List (Nat × List Nat × Bool) := []
  /-- Corrected records by CLASS, UNIT and LOC, with the detections counted (R383). -/
  corrected : List ((Nat × Nat × Nat) × Nat) := []
  /-- Idle thresholds in µs (R444). -/
  thr : Vector W32 32 := ⟨#[5, 0, 0, 0, 0, 20, 100, 10, 10, 50, 0, 0, 0, 0, 0, 0, 20, 20, 20, 20, 20, 20, 20, 20, 20, 20, 20, 20, 20, 20, 20, 20], rfl⟩
  spareAdv : W64 := 2
  qmask : BitVec 7 := 0x7F
  /-- Faults of components: the component and the tick (R366). -/
  faults : List (Component × W64) := []
  /-- When the firmware entered RUN last (R388). -/
  runTick : Option W64 := none
  /-- Quill SRAM words with an uncorrectable code, by offset / 8 (R386). -/
  sramBad : List Nat := []
  /-- The sc since the last kick of the watchdog, up to its limit (R326). -/
  wdog : Nat := 0
  /-- The commands whose bodies the pending-command area has lost (R386). -/
  bodiesLost : List Nat := []
  /-- The replay of the present start has begun (R387, R389). -/
  replaying : Bool := false
  /-- When the host handed each request mailbox over (R307). -/
  hqTick : Vector W64 4 := Vector.replicate 4 0
  trace : List Trace := []
  /-- The MPU's regions, those of the component that runs (R364, R365). -/
  mpu : Vector MpuRegion 16 := Vector.replicate 16 {}
  deriving DecidableEq, Repr

/-- The states of a part of an update (R396). -/
inductive PartSt where
  | empty | staging | verified | failed
  deriving DecidableEq, Repr

/-- A part that the manifest lists (R395), with its staged copy (R398). -/
structure Part where
  cls : Byte
  woffs : Nat
  len : Nat
  floorver : W32
  version : W64
  digest : BitVec 384
  st : PartSt := .empty
  bitmap : W64 := 0
  data : Sparse Byte := []
  deriving DecidableEq, Repr

/-- A staged part or an image as it lies in its store (R392). -/
structure Image where
  len : Nat
  floorver : W32
  version : W64
  data : Sparse Byte
  deriving DecidableEq, Repr

/-- A class B store (R392, R404). -/
structure BStore where
  active : Option Image := none
  inactive : Option Image := none
  armed : Bool := false
  deriving DecidableEq, Repr

/-- The states of an update session (R396). -/
inductive UpdSt where
  | idle | staging | ready | handover | scheduled
  deriving DecidableEq, Repr

/-- Firmware loading and update (R392 to R408). -/
structure Upd where
  st : UpdSt := .idle
  base : W64 := 0
  winLen : Nat := 0
  newFloor : W32 := 0
  manDigest : W64 := 0
  parts : List Part := []
  ply : W64 := 0
  /-- The active SRAM half (R364). -/
  half : Bool := false
  halves : Option Image × Option Image := (none, none)
  /-- The stores of classes 0x02, 0x03 and 0x04. -/
  stores : Vector BStore 3 := Vector.replicate 3 {}
  /-- A class B part has been activated since cold reset (R407). -/
  everB : Bool := false
  /-- The operations that still use the banks active before the last activation (R402): their numbers, and scribe work. -/
  oldOps : List Nat := []
  oldDescs : List (RingNum × BitVec 16) := []
  oldInUse : Bool := false
  /-- UPD_CHUNK requests for every missing chunk that run: part and active command (R400). -/
  alls : List (Nat × Nat) := []
  /-- The UPD_ACTIVATE that performs a handover, and its ply (R405). -/
  handover : Option (Nat × W64) := none
  deriving DecidableEq, Repr

/-- An answer on ORSP, or a message on OREQ (R412, R413, R415, R419 to R422). -/
structure Msg where
  opc : Byte
  tag : BitVec 12
  srcid : BitVec 20
  resp : BitVec 4
  poison : Bool
  addr : BitVec 56
  data : Option LineWord
  deriving DecidableEq, Repr

/-- A TLBIMsg received and not acknowledged (R250). -/
structure TlbiRx where
  port : PortNum
  tag : BitVec 12
  src : BitVec 20
  deriving DecidableEq, Repr

/-- Whose writes a port carries: the general core's, those of tile, board and stream operations, the scribes', and all others (R53, R418). -/
inductive Agent where
  | core | unit | scribe | other
  deriving DecidableEq, Repr

/-- A fabric port (R411, R413, R414, R418, R421). -/
structure Port where
  up : Bool := false
  /-- OREQ credits held. -/
  credits : Nat := 0
  snoopCr : Nat := 0
  targetCr : Nat := 0
  /-- Tags of timed-out requests (R414). -/
  reserved : List (BitVec 12) := []
  /-- The agents whose writes no OrdDone confirms yet, a token that waits for its OrdDone, and the agents whose writes it covers (R418). -/
  unconf : BitVec 4 := 0
  token : Bool := false
  cover : BitVec 4 := 0
  /-- The last messages sent (log 22). -/
  orsp : Option Msg := none
  oreq : Option Msg := none
  deriving DecidableEq, Repr

/-- The management window's own state, the pins, and the status outputs (R426 to R432, R436, R457). -/
structure Win where
  tick : W64 := 0
  /-- The HI words latched by each reader: PLY, TICK (R429). -/
  plyHi : Option W32 × Option W32 × Option W32 := (none, none, none)
  tickHi : Option W32 × Option W32 × Option W32 := (none, none, none)
  intIn : W64 := 0
  wrst : Bool := false
  /-- The running warm reset has done its work (R459). -/
  warmDone : Bool := false
  /-- RST_COLD_N is low. -/
  coldLow : Bool := false
  /-- RST_WARM is high. -/
  warmHigh : Bool := false
  clearing : Bool := true
  errCorr : Bool := false
  errUncorr : Bool := false
  errFatal : Bool := false
  mbxInt : Bool := false
  wrstAct : Bool := false
  deriving DecidableEq, Repr

/-- The debug module (R440). -/
structure Dbg where
  haltReq : Bool := false
  resume : Bool := false
  step : Bool := false
  bpen : Bool := false
  halted : Bool := false
  cause : BitVec 2 := 0
  bp : BitVec 2 := 0
  bank : BankNum := 0
  pc : W64 := 0
  item : BitVec 12 := 0
  cbank : BankNum := 0
  write : Bool := false
  mem : Bool := false
  busy : Bool := false
  /-- The memory command in progress that has reached its unit: whether it writes, and its address (R442). -/
  started : Option (Bool × W64) := none
  err : BitVec 3 := 0
  data : W64 := 0
  addr : W64 := 0
  bps : Vector W64 4 := Vector.replicate 4 0
  /-- The next instruction is the first after a resume: it is not checked against the breakpoints (R441). -/
  skip : Bool := false
  /-- A resume with STEP = 1 has been made, and its one instruction has executed (R440). -/
  stepping : Bool := false
  stepDone : Bool := false
  deriving DecidableEq, Repr

/-- The test wrapper (R437 to R439). -/
structure Test where
  wir : BitVec 4 := 0
  /-- The functional state is undefined until a cold reset (R438). -/
  undef : Bool := false
  sib : BitVec 3 := 0
  regs : Vector W32 12 := Vector.replicate 12 0
  failed : BitVec 12 := 0
  deriving DecidableEq, Repr

/-- A POWER_SET that runs (R447). -/
structure PowerSet where
  mask : W32
  target : Byte
  cmd : Nat
  /-- A UNIT_RESET, which turns its domain off and then on (R379). -/
  unit : Bool
  deriving DecidableEq, Repr

/-- The machine. -/
structure State where
  var : Variant := .m1024
  /-- The model's own counter of free values drawn (log 6). -/
  freeCtr : Nat := 0
  /-- The model's queue of commands that wait (log 1). -/
  pending : List Instr := []
  /-- The instruction that waits at the head of the reorder buffer (R60, R70, R73, R79, R130, R178, R187, R203). -/
  stall : Option Instr := none
  banks : Vector Bank 4 := (Vector.replicate 4 {}).set 0 { st := .run }
  c : Ctl := {}
  tiles : Vector Tile 16 := Vector.replicate 16 { rowsm1 := 0x3FF, rbm1 := 0xF }
  nib : Nib := {}
  ops : List Op := []
  nextOp : Nat := 0
  bd : Board := {}
  /-- The inkwell, entry e of row r at 1,024 × r + e; an unlisted entry is 0 (R137). -/
  ink : Sparse Ink := []
  /-- Entries with an uncorrectable code (R138). -/
  inkBad : List Nat := []
  inkZeroing : Bool := false
  sq : Vector SQueue 64 := Vector.replicate 64 {}
  scribes : Vector Scribe 16 := Vector.replicate 16 {}
  rings : Vector Ring 32 := Vector.replicate 32 {}
  /-- The work ring that the dispatcher served last (R189). -/
  lastRing : RingNum := 31
  placed : List Placed := []
  /-- The vellum; an unlisted byte is 0 (R162). -/
  vellum : Sparse Byte := []
  /-- Vellum words with an uncorrectable code, by offset / 8 (R162). -/
  vellumBad : List Nat := []
  vellumZeroing : Bool := false
  /-- Memory behind the fabric; an unlisted byte is 0 (log 4). -/
  mem : Sparse Byte := []
  /-- Lines of that memory that the core has written back with POISON = 1 (R417, log 4). -/
  memBad : List Nat := []
  ca : Caches := {}
  tal : Vector Tally 16 := Vector.replicate 16 {}
  mir : Mir := {}
  err : ErrSys := {}
  qu : Quill := {}
  upd : Upd := {}
  port : Vector Port 4 := Vector.replicate 4 {}
  tlbiRx : List TlbiRx := []
  /-- Broadcast TLBIs that no TLBIDone has answered (R419). -/
  tlbiOut : Nat := 0
  win : Win := {}
  dbg : Dbg := {}
  test : Test := {}
  cfg : Cfg := {}
  dom : Vector Dom 32 := Vector.replicate 32 {}
  /-- HELDOFF (R446): every fast domain of Marsor-1024. -/
  heldOff : BitVec 32 := 0xFFFF03FF
  heldRet : BitVec 32 := 0
  pset : Option PowerSet := none
  deriving DecidableEq, Repr

/-- Why the machine stops: the model's only fault. -/
inductive Fault where
  /-- The test wrapper has left the functional state undefined (R438), and a functional command is given. Safe. -/
  | functionalStateUndefined
  deriving DecidableEq, Repr

/-- Why a command is refused. -/
inductive Refusal where
  /-- Raised by the dispatch of a command that has no meaning yet. Safe. -/
  | notModelled (mnemonic : String)
  deriving DecidableEq, Repr

/-- The state after reset. -/
def State.reset : State := {}

end Sys2Proof.Machine
end

