-- ==== Sys2Proof/Machine/Mem.lean ====
section
/-! DEFINITION. Configuration constants, and physical memory: the vellum, the memory behind the fabric, the caches and the store buffer as the agents see them (R3, R55, R160 to R162, R213 to R227). -/
namespace Sys2Proof.Machine

/-- The board dimension B (R3, R90). -/
def boardB : Variant → Nat
  | .m1024 => 1024
  | .m512 => 512
  | .m256 | .m256np => 256
/-- log2 of the vellum's bytes (R160). -/
def vellumLog2 : Variant → Nat
  | .m1024 => 26
  | .m512 => 25
  | .m256 | .m256np => 24
/-- The scribes present (R181). -/
def scribeCount : Variant → Nat
  | .m1024 => 16
  | .m512 => 8
  | .m256 | .m256np => 4
/-- The spare files (R111). -/
def spareCount : Variant → Nat
  | .m1024 => 8
  | .m512 => 4
  | .m256 | .m256np => 2
/-- The inkwell rows R (R117). -/
def inkRows : Variant → Nat
  | .m1024 | .m512 => 8192
  | .m256 | .m256np => 4096
/-- Whether the configuration has the partner port (R5). -/
def hasPartner : Variant → Bool
  | .m256np => false
  | _ => true

/-- Whether a physical address lies in the vellum window (R160). -/
def inVellum (s : State) (pa : Nat) : Bool :=
  s.cfg.vellumbase.toNat ≤ pa && pa < s.cfg.vellumbase.toNat + 2 ^ vellumLog2 s.var

/-- The vellum offset of a physical address (R160). -/
def vOff (s : State) (pa : Nat) : Nat := pa - s.cfg.vellumbase.toNat

/-- The line number of a physical address. -/
def lineNo (pa : Nat) : BitVec 50 := BitVec.ofNat 50 (pa / 64)

/-- Byte i of a line. -/
def lineByte (d : LineWord) (i : Nat) : Byte := BitVec.ofNat 8 (d.toNat >>> (8 * i))

/-- A line from its 64 bytes. -/
def lineOf (bs : List Byte) : LineWord := ofBytes 512 bs

/-- A line with byte i replaced. -/
def setLineByte (d : LineWord) (i : Nat) (b : Byte) : LineWord := setField d (8 * i + 7) (8 * i) b.toNat

/-- The L1D slot and line that hold a physical line (R214: at most one). -/
def l1dFind (s : State) (la : BitVec 50) : Option (Nat × L1DLine) :=
  s.ca.l1d.findSome? fun e => match e.2 with
    | some l => if l.la = la then some (e.1, l) else none
    | none => none

/-- The L2 slot and line that hold a physical line. -/
def l2Find (s : State) (la : BitVec 50) : Option (Nat × L2Line) :=
  s.ca.l2.findSome? fun e => match e.2 with
    | some l => if l.la = la then some (e.1, l) else none
    | none => none

/-- A byte as an uncached access reads it: the vellum, or the memory behind the fabric (R161, R218). -/
def rawByte (s : State) (pa : Nat) : Byte :=
  if inVellum s pa then spGet 0 s.vellum (vOff s pa) else spGet 0 s.mem pa

/-- A byte as coherent agents read it: L1D, then L2, then memory; the vellum is never cached (R161, R222, R223). -/
def cohByte (s : State) (pa : Nat) : Byte :=
  if inVellum s pa then spGet 0 s.vellum (vOff s pa)
  else match l1dFind s (lineNo pa) with
    | some (_, l) => lineByte l.data (pa % 64)
    | none => match l2Find s (lineNo pa) with
      | some (_, l) => lineByte l.data (pa % 64)
      | none => spGet 0 s.mem pa

/-- The youngest store-buffer byte for a physical address, the buffer given oldest first (R55). -/
def sbByte (sb : List SbEntry) (pa : Nat) : Option Byte :=
  sb.reverse.findSome? fun e =>
    if e.pa.toNat ≤ pa ∧ pa < e.pa.toNat + e.bytes.length then (e.bytes[pa - e.pa.toNat]?).join else none

/-- A byte as the general core reads it: its own buffered stores first (R55). -/
def coreByte (s : State) (ty : MType) (pa : Nat) : Byte :=
  match sbByte s.ca.sb pa with
  | some b => b
  | none => if ty = .cacheable ∧ ¬ s.c.ruledAct then cohByte s pa
            else if s.c.ruledAct ∧ ty ≠ .device then cohByte s pa else rawByte s pa

/-- The vellum words that n bytes at offset o touch. -/
def wordsOf (o n : Nat) : List Nat := if n = 0 then [] else (List.range ((o + n - 1) / 8 - o / 8 + 1)).map (o / 8 + ·)

/-- The KIND of the injection that is armed on a unit, 0 for none (R341). -/
def injKind (s : State) (unit : Byte) : Nat :=
  if bit s.c.errinj 12 ∧ fieldN s.c.errinj 7 0 = unit.toNat then fieldN s.c.errinj 11 8 else 0

/-- SEL of ERRINJ (R341, R466). -/
def injSel (s : State) : Nat := fieldN s.c.errinj 47 16

/-- The injection has happened (R341). -/
def disarm (s : State) : State := { s with c := { s.c with errinj := setBit s.c.errinj 12 false } }

/-- The injected flip stands at the selected place (R341, R466). -/
def plant (s : State) (unit : Byte) (kind : Nat) : State :=
  { disarm s with err := { s.err with spots := ⟨unit, injSel s, kind⟩ :: s.err.spots } }

/-- The KIND of the flip at a place, 0 for none. -/
def spotAt (s : State) (unit : Byte) (loc : Nat) : Nat :=
  match s.err.spots.find? fun x => x.unit == unit && x.loc == loc with
  | some x => x.kind
  | none => 0

/-- A place written afresh holds no flip. -/
def clearSpot (s : State) (unit : Byte) (loc : Nat) : State :=
  { s with err := { s.err with spots := s.err.spots.filter fun x => !(x.unit == unit && x.loc == loc) } }

/-- Whether a line that a coherent read finds in L2, or else reads behind the fabric, is poisoned (R227, R417). -/
def linePoison (s : State) (coh : Bool) (la : BitVec 50) : Bool :=
  match (if coh then l2Find s la else none) with
  | some (_, l) => l.poison
  | none => s.memBad.contains la.toNat

/-- The lines that n bytes at a physical address touch. -/
def linesOf (pa n : Nat) : List (BitVec 50) := (List.range ((pa + n - 1) / 64 - pa / 64 + 1)).map fun i => BitVec.ofNat 50 (pa / 64 + i)

/-- What is wrong with the data that a read meets: 1 uncorrectable, 2 a poisoned line; coh: a coherent read, which L2 serves
(R162, R218, R227, R272). -/
def readError (s : State) (coh : Bool) (pa n : Nat) : Option (BitVec 4) :=
  if inVellum s pa then
    if (wordsOf (vOff s pa) n).any (s.vellumBad.contains ·) then some 1 else none
  else if (linesOf pa n).any (linePoison s coh) then some 2 else none

/-- The selected injection strikes a write of the vellum words from offset o on (R341, R466). -/
def injVellum (s : State) (o n : Nat) : State :=
  let k := injKind s 0x0B
  let sel := injSel s
  if (k = 1 ∨ k = 2) ∧ sel % 8 = 0 ∧ sel < 2 ^ 26 ∧ (wordsOf o n).contains (sel / 8) then
    let s1 := plant s 0x0B k
    if k = 2 then { s1 with
      vellum := spSet 0 s1.vellum sel (spGet 0 s1.vellum sel ^^^ 3)
      vellumBad := (sel / 8) :: s1.vellumBad.filter (· ≠ sel / 8) }
    else s1
  else s

/-- The flips of vellum words that a write leaves: a word written whole has fresh code, and a single-bit error is corrected before a merge
(R162). -/
def freshVellum (s : State) (o n : Nat) : State :=
  { s with err := { s.err with spots := s.err.spots.filter fun x =>
      !(x.unit == 0x0B && (wordsOf o n).contains (x.loc / 8) && (x.kind == 1 || (o ≤ x.loc && x.loc + 8 ≤ o + n))) } }

/-- Writes bytes into the vellum; a word written whole loses its uncorrectable code, a partial write leaves it (R162). -/
def writeVellum (s : State) (o : Nat) (bs : List Byte) : State :=
  injVellum (freshVellum { s with
    vellum := spSetAll 0 s.vellum o bs
    vellumBad := s.vellumBad.filter fun w => !(o ≤ 8 * w && 8 * w + 8 ≤ o + bs.length) } o bs.length) o bs.length

/-- Writes bytes to the memory behind the fabric; a line written whole is no longer poisoned. -/
def writeMem (s : State) (pa : Nat) (bs : List Byte) : State :=
  { s with
    mem := spSetAll 0 s.mem pa bs
    memBad := s.memBad.filter fun l => !(pa ≤ 64 * l && 64 * l + 64 ≤ pa + bs.length) }

/-- A line handed to the memory behind the fabric, with its poison indication (R417). -/
def putMemLine (s : State) (la : BitVec 50) (poison : Bool) (d : LineWord) : State :=
  let s1 := writeMem s (64 * la.toNat) ((List.range 64).map (lineByte d))
  if poison then { s1 with memBad := la.toNat :: s1.memBad } else s1

/-- Removes a line from L1I and the scribes' instruction caches, and from the prefetch buffer (R216, R220, R222). -/
def dropInner (s : State) (la : BitVec 50) : State :=
  let out := spMap none (fun _ (x : Option (BitVec 50)) => if x = some la then none else x)
  { s with ca := { s.ca with
      l1i := out s.ca.l1i
      scrL1i := vmap out s.ca.scrL1i
      pf := s.ca.pf.filter (· ≠ la) } }

/-- The place of doubleword d of an L2 slot (R332). -/
def l2Loc (k d : Nat) : Nat := k / 16 + 4096 * (k % 16) + 65536 * d

/-- A line stored in an L2 slot, with the doublewords that were written: each takes fresh code, and the selected injection may strike it
(R227, R341, R466). -/
def setL2Line (s : State) (k : Nat) (l : L2Line) (dws : List Nat) : State :=
  let s1 := { s with ca := { s.ca with l2 := spSet none s.ca.l2 k (some l) } }
  let s2 := if s1.err.spots.isEmpty then s1 else dws.foldl (fun s d => clearSpot s 0x04 (l2Loc k d)) s1
  let n := injKind s2 0x04
  match (if n = 1 ∨ n = 2 then dws.find? fun d => l2Loc k d == injSel s2 else none) with
  | none => s2
  | some d =>
    let s3 := plant s2 0x04 n
    if n = 2 then { s3 with ca := { s3.ca with l2 := spSet none s3.ca.l2 k (some { l with data := l.data ^^^ place 512 3 (64 * d) }) } } else s3

/-- Removes a line's L1D copy, merging a dirty one into L2 (R222), or into memory where L2 does not hold the line. -/
def flushL1d (s : State) (la : BitVec 50) : State :=
  match l1dFind s la with
  | none => s
  | some (k, l) =>
    let s1 := { s with ca := { s.ca with l1d := spSet none s.ca.l1d k none } }
    if l.dirty then
      match l2Find s1 la with
      | some (j, m) => setL2Line s1 j { m with data := l.data, st := .m } (List.range 8)
      | none => putMemLine s1 la false l.data
    else s1

/-- A WriteLine is acknowledged, or its line read again: the write-back buffer no longer holds the line (R415). -/
def unbuffer (s : State) (la : BitVec 50) : State := { s with ca := { s.ca with wb := s.ca.wb.filter (·.la ≠ la) } }

/-- Writes a Modified L2 line to memory, with its poison indication, and removes it with every inner copy; the write-back buffer holds it until
the WriteLine is acknowledged (R222, R227, R415). -/
def evictL2 (s : State) (la : BitVec 50) : State :=
  let s1 := dropInner (flushL1d s la) la
  match l2Find s1 la with
  | none => s1
  | some (j, m) =>
    let l2 := spSet none s1.ca.l2 j none
    if m.st = .m then putMemLine { s1 with ca := { s1.ca with l2 := l2, wb := ⟨la, m.data, m.poison⟩ :: s1.ca.wb } } la m.poison m.data
    else { s1 with ca := { s1.ca with l2 := l2 } }

/-- Tree pseudo-LRU: the bits after way w of n is used (R221). -/
def plruTouch (n bits w : Nat) : Nat → Nat
  | 0 => bits
  | fuel + 1 =>
    let i := w
    if i = 0 then bits
    else
      let p := (i - 1) / 2
      let cleared := bits - (bits / 2 ^ p % 2) * 2 ^ p
      plruTouch n (if i = 2 * p + 1 then cleared + 2 ^ p else cleared) p fuel

/-- `touch` of R221 for way w of n. -/
def touch (n bits w : Nat) : Nat := plruTouch n bits (w + (n - 1)) 8

/-- Some way under node i is available. -/
def availUnder (n : Nat) (avail : Nat → Bool) (i : Nat) : Nat → Bool
  | 0 => false
  | fuel + 1 =>
    if i ≥ n - 1 then avail (i - (n - 1))
    else availUnder n avail (2 * i + 1) fuel || availUnder n avail (2 * i + 2) fuel

/-- `victim` of R221 from node i, skipping a child whose ways are all unavailable. -/
def victimFrom (n bits : Nat) (avail : Nat → Bool) (i : Nat) : Nat → Nat
  | 0 => i - (n - 1)
  | fuel + 1 =>
    if i ≥ n - 1 then i - (n - 1)
    else
      let pick := 2 * i + 1 + bits / 2 ^ i % 2
      let other := 2 * i + 2 - bits / 2 ^ i % 2
      victimFrom n bits avail (if availUnder n avail pick 8 then pick else other) fuel

/-- The way that a fill takes: the lowest-numbered invalid way available, else the victim (R221). -/
def fillWay (n bits : Nat) (avail valid : Nat → Bool) : Nat :=
  match (List.range n).find? fun w => avail w && !valid w with
  | some w => w
  | none => victimFrom n bits avail 0 8

/-- Whether a way group is on: its bit is set and its domain has power, which it has not after a cold reset (R228, R457, log 20). -/
def l2GroupOn (s : State) (g : Nat) : Bool := s.c.l2On.getLsbD g && s.dom[Fin.ofNat 32 (1 + g % 4)].st == .run

/-- Whether an L2 way may allocate: its group is on and not busy (R228). -/
def l2Avail (s : State) (w : Nat) : Bool := l2GroupOn s (w / 4) && !s.c.l2Busy.getLsbD (w / 4)

/-- Marks an L2 way as used (R221). -/
def touchL2 (s : State) (k : Nat) : State :=
  { s with ca := { s.ca with
      l2Plru := spSet 0 s.ca.l2Plru (k / 16) (BitVec.ofNat 15 (touch 16 (spGet 0 s.ca.l2Plru (k / 16)).toNat (k % 16))) } }

/-- The 64 bytes of a line in the memory behind the fabric. -/
def memLine (s : State) (la : BitVec 50) : LineWord := lineOf (spGetAll 0 s.mem (64 * la.toNat) 64)

/-- An L2 line is used (R221). -/
def touchHit (s : State) (la : BitVec 50) : State :=
  match l2Find s la with
  | some (k, _) => touchL2 s k
  | none => s

/-- Brings a line into L2 in a state that allows writing where asked; a hit is upgraded. With no group allocating, L2 stays as it is (R222, R223). -/
def bringL2 (s : State) (la : BitVec 50) (own : Bool) : State :=
  match l2Find s la with
  | some (k, l) =>
    let st' := if own && l.st = .s then Mesi.e else l.st
    touchL2 { s with ca := { s.ca with l2 := spSet none s.ca.l2 k (some { l with st := st' }) } } k
  | none =>
    if (List.range 16).any (l2Avail s) then
      let set := la.toNat % 4096
      let valid w := (spGet none s.ca.l2 (16 * set + w)).isSome
      let w := fillWay 16 (spGet 0 s.ca.l2Plru set).toNat (l2Avail s) valid
      let s1 := match spGet none s.ca.l2 (16 * set + w) with
        | some old => unbuffer (evictL2 s old.la) la
        | none => unbuffer s la
      touchL2 (setL2Line s1 (16 * set + w) { la := la, st := .e, poison := s1.memBad.contains la.toNat, data := memLine s1 la } (List.range 8))
        (16 * set + w)
    else s

/-- The same for a requester: one that gains write ownership first has the inner instruction copies removed (R216). -/
def fillL2 (s : State) (la : BitVec 50) (own : Bool) : State := bringL2 (if own then dropInner s la else s) la own

/-- Writes bytes of one line as an agent other than L1D does: merged into L2 on a hit, else to memory; the L1D copy is merged first and
every inner copy goes (R170, R221, R223). -/
def writeLine (s : State) (pa : Nat) (bs : List Byte) : State :=
  let la := lineNo pa
  let s1 := dropInner (flushL1d s la) la
  match l2Find s1 la with
  | some (k, l) =>
    let d := (bs.zipIdx).foldl (fun d (b, i) => setLineByte d (pa % 64 + i) b) l.data
    touchL2 (setL2Line s1 k { l with data := d, st := .m, poison := l.poison && bs.length < 64 } (wordsOf (pa % 64) bs.length)) k
  | none => writeMem s1 pa bs

/-- Splits n bytes at an address into parts that lie in one line each: address, offset in the bytes, length. -/
def lineParts (a n : Nat) : Nat → List (Nat × Nat × Nat)
  | 0 => []
  | fuel + 1 =>
    if n = 0 then []
    else
      let k := min n (64 - a % 64)
      (a, 0, k) :: (lineParts (a + k) (n - k) fuel).map fun (x, o, m) => (x, o + k, m)

/-- Writes bytes to physical memory as a coherent agent (R170, R223). -/
def cohWrite (s : State) (pa : Nat) (bs : List Byte) : State :=
  (lineParts pa bs.length (bs.length / 64 + 2)).foldl
    (fun s (a, o, k) =>
      let part := (bs.drop o).take k
      if inVellum s a then writeVellum s (vOff s a) part else writeLine s a part) s

/-- Writes bytes to the vellum or, past every cache, to memory (R218). -/
def rawWrite (s : State) (pa : Nat) (bs : List Byte) : State :=
  if inVellum s pa then writeVellum s (vOff s pa) bs else writeMem s pa bs

/-- Whether an access of an agent bypasses L2 while the fabric's coherence serves the copy that L2 holds: one of the general core in ruled
mode to normal memory (R208). -/
def ruledPast (s : State) (ag : Agent) (ty : MType) : Bool := ag == .core && s.c.ruledAct && ty != .device

/-- Writes bytes by an access of a memory type: uncacheable and device accesses never hit a cached copy; in ruled mode the fabric first takes
the core's line from L2 (R208, R218). -/
def typedWrite (s : State) (ag : Agent) (ty : MType) (pa : Nat) (bs : List Byte) : State :=
  if ruledPast s ag ty then rawWrite ((linesOf pa bs.length).foldl evictL2 s) pa bs
  else if ty = .cacheable then cohWrite s pa bs else rawWrite s pa bs

/-- n coherent bytes (R223). -/
def cohRead (s : State) (pa n : Nat) : List Byte := (List.range n).map fun i => cohByte s (pa + i)

/-- A doubleword of a table or descriptor, read as its memory type says (R241, R258, R268). -/
def read64 (s : State) (cacheable : Bool) (pa : Nat) : W64 :=
  ofBytes 64 ((List.range 8).map fun i => if cacheable then cohByte s (pa + i) else rawByte s (pa + i))

end Sys2Proof.Machine
end

