-- ==== Sys2Proof/Machine/Dom.lean ====
section
/-! DEFINITION. The fast domains: presence, use, and the handshakes of clocks and power (R26 to R29, R433, R435, R443 to R446). -/
namespace Sys2Proof.Machine

/-- The numbers of the domains (R443). -/
def dVellum : Fin 32 := 0
/-- TILE. -/
def dTile : Fin 32 := 5
/-- BOARD. -/
def dBoard : Fin 32 := 6
/-- STREAM. -/
def dStream : Fin 32 := 7
/-- VEC. -/
def dVec : Fin 32 := 8
/-- CORE. -/
def dCore : Fin 32 := 9
/-- SCRIBE s. -/
def dScribe (s : ScribeNum) : Fin 32 := Fin.ofNat 32 (16 + s.val)
/-- L2W g. -/
def dL2w (g : Fin 4) : Fin 32 := Fin.ofNat 32 (1 + g.val)

/-- Whether a configuration has a domain (R443). -/
def domPresent (v : Variant) (d : Fin 32) : Bool := d.val < 10 || (16 ≤ d.val && d.val < 16 + scribeCount v)

/-- The mask of the present domains. -/
def presentMask (v : Variant) : BitVec 32 := BitVec.ofNat 32 ((2 ^ scribeCount v - 1) * 65536 + 0x3FF)

/-- What a request meets at a domain (R28). -/
inductive DomUse where
  | ready | asleep | off
  deriving DecidableEq, Repr

/-- What a request meets at a domain: one that is held off or held in retention is not woken (R28, R446). -/
def domUse (s : State) (d : Fin 32) : DomUse :=
  if s.heldOff.getLsbD d.val || s.heldRet.getLsbD d.val || !domPresent s.var d then .off
  else if s.dom[d].st = .run ∧ s.dom[d].goal = none then .ready
  else .asleep

/-- A domain that works. -/
def domRuns (s : State) (d : Fin 32) : Bool := domUse s d == .ready

/-- A domain whose state is kept and that is neither off nor going off. -/
def domKept (d : Dom) : Bool := d.st != .off

/-- Replaces a domain's record. -/
def setDom (s : State) (d : Fin 32) (x : Dom) : State := { s with dom := s.dom.set d.val x d.isLt }

/-- Raises the requests that bring a domain up from its state (R433, R435, R445). -/
def domUp (x : Dom) : Dom :=
  match x.st with
  | .run => x
  | .gated => { x with goal := some .run, latched := false, fclkReq := true }
  | .off => { x with goal := some .run, latched := false, fclkReq := true, pwrReq := 2, init := true }
  | _ => { x with goal := some .run, latched := false, fclkReq := true, pwrReq := 2 }

/-- Drops the requests that bring a domain down to a state (R445). -/
def domDown (x : Dom) (dst : DomSt) : Dom :=
  match dst with
  | .run => x
  | .gated => { x with goal := some .gated, fclkReq := false }
  | .off | .sleepDown => { x with goal := some dst, fclkReq := false, pwrReq := 0 }
  | .retained | .sleepRet => { x with goal := some dst, fclkReq := false, pwrReq := 1 }

/-- A wake request: latched while a shutdown runs, no effect while a power-up runs (R28, R445). -/
def domWake (x : Dom) : Dom :=
  match x.goal with
  | none => if x.st = .run then x else domUp x
  | some .run => x
  | some _ => { x with latched := true }

/-- A shutdown request: it follows a power-up that runs (R445). -/
def domShut (x : Dom) (dst : DomSt) : Dom :=
  match x.goal with
  | none => if x.st = dst then x else domDown x dst
  | some .run => { x with after := some dst }
  | some _ => { x with goal := some dst, latched := false }

/-- Wakes a domain that a request reaches (R28). VELLUM is clocked with it (R29). -/
def wakeRequest (s : State) (d : Fin 32) : State :=
  if domUse s d = .asleep then
    let s1 := setDom s d (domWake s.dom[d])
    if domUse s1 dVellum = .asleep then setDom s1 dVellum (domWake s1.dom[dVellum]) else s1
  else s

/-- A shutdown whose acknowledgements have all come ends in its state, and a latched request starts the power-up at once (R445). -/
def domSettle (x : Dom) : Dom :=
  match x.goal with
  | none | some .run => x
  | some g =>
    if x.fclkAck = x.fclkReq ∧ x.pwrAck = x.pwrReq then
      let y : Dom := { x with st := g, goal := none }
      if x.latched then domUp y else y
    else x

/-- Whether a power-up has all its acknowledgements (R435). -/
def domUpAcked (x : Dom) : Bool := x.goal == some .run && x.fclkAck && x.pwrAck == x.pwrReq

/-- A domain whose zeroing runs (R137, R162). -/
def zeroing (s : State) (d : Fin 32) : Bool := (d == dVellum && s.vellumZeroing) || (d == dBoard && s.inkZeroing)

/-- A handshake or an initialisation of a domain is in progress (R446). -/
def domTrans (s : State) (d : Fin 32) : Bool := s.dom[d].goal.isSome || zeroing s d

/-- A transition of a domain runs: also the clean or the tag initialisation of a way group (R228, R229, R446). -/
def domBusy (s : State) (d : Fin 32) : Bool :=
  domTrans s d || (1 ≤ d.val && d.val ≤ 4 && s.c.l2Busy.getLsbD (d.val - 1))

/-- The state that the status block shows, where no handshake or initialisation runs (R446). -/
def domStateCode (x : Dom) : Nat :=
  match x.st with
  | .off => 0
  | .retained => 1
  | .run => 2
  | .gated => 3
  | .sleepRet => 4
  | .sleepDown => 5

/-- Byte d of the status block (R446). -/
def domByte (s : State) (d : Fin 32) : Byte :=
  place 8 (if domTrans s d then 6 else domStateCode s.dom[d]) 0 ||| placeB 8 (domBusy s d) 3 ||| placeB 8 s.dom[d].latched 4 ||| placeB 8 (domPresent s.var d) 5

end Sys2Proof.Machine
end

