-- ==== Sys2Proof/Config.lean ====
section
/-! DEFINITION. The values that the spec leaves open: constants without a body, of which no proof can know a value (log 6). -/
namespace Sys2Proof.Config

/-- Draw n of the free values, w bits wide (log 6). -/
opaque freeBits (w n : Nat) : BitVec w

/-- Whether the vector unit detects tininess before rounding (true) or after it: IEEE 754-2019 leaves the choice, and R156 makes none (log 9). -/
opaque tinyBefore : Bool

/-- The ECC syndrome of an uncorrectable code at a place of a unit (R331, log 6). -/
opaque syndrome (unit : BitVec 8) (loc : Nat) : BitVec 8

/-- Public verification key k of the recovery ROM, a point (x, y) of P-384: four keys fixed at manufacture, which the spec does not give
(R393, log 7). -/
opaque signKey (k : Nat) : Nat × Nat

/-- Whether the component that executes a command carries its state across a handover; the spec does not tell which components do (R403, log 34). -/
opaque carries (op : BitVec 16) : Bool

/-- What a word of the quill SRAM holds, as a number, and which part of it: the spec gives the SRAM no layout (R364, R386, log 50). -/
opaque sramUse (word : Nat) : Nat × Nat

/-- Base, in pages of 4 KiB, and size, as a power of two, of an area that a region of the quill's MPU covers: the spec gives neither (R364, R365, log 50). -/
opaque mpuArea (area : Nat) : BitVec 20 × BitVec 5

end Sys2Proof.Config
end

