-- ==== Sys2Proof/Machine/Numerics.lean ====
section
/-! DEFINITION. Exact values, the element formats, ink40, the roundings, the segment and file sums, the drain conversions and the vector unit's arithmetic (R121, R123, R132, R139 to R158). -/
namespace Sys2Proof.Machine

/-- An exact value: (-1)^neg × m × 2^x, or a special (R141). -/
inductive Num where
  | nan
  | inf (neg : Bool)
  | fin (neg : Bool) (m : Nat) (x : Int)
  deriving DecidableEq, Repr

/-- m × 2^x as an integer multiple of 2^e, e at most x. -/
def scaleTo (m : Nat) (x e : Int) : Nat := m * 2 ^ (x - e).toNat

/-- The exact sum; toMinus: an exact zero of opposite signs is −0 (round toward negative). -/
def addNum (toMinus : Bool) : Num → Num → Num
  | .nan, _ => .nan
  | _, .nan => .nan
  | .inf s, .inf t => if s = t then .inf s else .nan
  | .inf s, _ => .inf s
  | _, .inf t => .inf t
  | .fin s m x, .fin t n y =>
    if m = 0 ∧ n = 0 then .fin (if s = t then s else toMinus) 0 0
    else if m = 0 then .fin t n y
    else if n = 0 then .fin s m x
    else
      let e := min x y
      let a := scaleTo m x e
      let b := scaleTo n y e
      if s = t then .fin s (a + b) e
      else if a = b then .fin toMinus 0 0
      else if b < a then .fin s (a - b) e
      else .fin t (b - a) e

/-- The exact product; infinity times zero is NaN. -/
def mulNum : Num → Num → Num
  | .nan, _ => .nan
  | _, .nan => .nan
  | .inf s, .inf t => .inf (s != t)
  | .inf s, .fin t n _ => if n = 0 then .nan else .inf (s != t)
  | .fin s m _, .inf t => if m = 0 then .nan else .inf (s != t)
  | .fin s m x, .fin t n y => .fin (s != t) (m * n) (x + y)

/-- The value with its sign changed. -/
def negNum : Num → Num
  | .nan => .nan
  | .inf s => .inf !s
  | .fin s m x => .fin (!s) m x

/-- Whether a < b, for values that are no NaN; −0 lies below +0 where zeros says so. -/
def ltNum (zeros : Bool) : Num → Num → Bool
  | .nan, _ => false
  | _, .nan => false
  | .inf s, .inf t => s && !t
  | .inf s, .fin _ _ _ => s
  | .fin _ _ _, .inf t => !t
  | .fin s m x, .fin t n y =>
    let e := min x y
    let a := scaleTo m x e
    let b := scaleTo n y e
    if a = 0 ∧ b = 0 then zeros && s && !t
    else
      let sa := s && a != 0
      let sb := t && b != 0
      if sa then (if sb then decide (b < a) else true) else if sb then false else decide (a < b)

/-- Maximum: NaN with a NaN operand, −0 below +0 (R123, R156). -/
def maxNum (a b : Num) : Num := if a = .nan ∨ b = .nan then .nan else if ltNum true a b then b else a
/-- Minimum, in the same way. -/
def minNum (a b : Num) : Num := if a = .nan ∨ b = .nan then .nan else if ltNum true b a then b else a

/-- The rounding attributes of VFST.RM (R36). -/
inductive Rm where
  | rne | rtz | rup | rdn | rna
  deriving DecidableEq, Repr

/-- VFST.RM (R36). -/
def rmOf (vfst : BitVec 64) : Rm :=
  match fieldN vfst 2 0 with
  | 0 => .rne
  | 1 => .rtz
  | 2 => .rup
  | 3 => .rdn
  | _ => .rna

/-- |v| = m × 2^x as n quanta of 2^qe and a rest of `rest` parts of 2^`sh`. -/
def quanta (m : Nat) (x qe : Int) : Nat × Nat × Nat :=
  if qe ≤ x then (scaleTo m x qe, 0, 0)
  else
    let sh := (qe - x).toNat
    (m / 2 ^ sh, m % 2 ^ sh, sh)

/-- The rounded count of quanta (R145, R153, R158). -/
def roundQ (rm : Rm) (neg : Bool) (m : Nat) (x qe : Int) : Nat :=
  let (n, r, sh) := quanta m x qe
  let up := match rm with
    | .rne => decide (2 ^ sh < 2 * r) || (2 * r == 2 ^ sh && n % 2 == 1)
    | .rtz => false
    | .rup => r != 0 && !neg
    | .rdn => r != 0 && neg
    | .rna => decide (2 ^ sh ≤ 2 * r)
  if sh = 0 then n else if up then n + 1 else n

/-- floor(log2 (m × 2^x)), m not 0. -/
def log2Of (m : Nat) (x : Int) : Int := (Nat.log2 m : Int) + x

/-- The canonical NaN of ink40 (R144). -/
def inkNaN : Ink := 0x7FF8000000

/-- Rounding into ink40 (R145). -/
def rndInk : Num → Ink
  | .nan => inkNaN
  | .inf s => if s then 0xFFF0000000 else 0x7FF0000000
  | .fin s m x =>
    let sgn : Nat := if s then 2 ^ 39 else 0
    if m = 0 then BitVec.ofNat 40 sgn
    else
      let e := log2Of m x
      let n := roundQ .rne s m x (e - 27)
      let (n, e) := if n = 2 ^ 28 then (2 ^ 27, e + 1) else (n, e)
      if e > 1023 then BitVec.ofNat 40 (sgn + 2047 * 2 ^ 28)
      else if e < -1022 then BitVec.ofNat 40 sgn
      else BitVec.ofNat 40 (sgn + (e + 1023).toNat * 2 ^ 28 + (n - 2 ^ 27) * 2)

/-- The value of an ink40 word in the float view (R144). -/
def inkNum (w : Ink) : Num :=
  let e := fieldN w 38 28
  let f := fieldN w 27 1
  let s := bit w 39
  if e = 0 then .fin s 0 0
  else if e = 2047 then (if f = 0 then .inf s else .nan)
  else .fin s (2 ^ 27 + f) ((e : Int) - 1023 - 27)

/-- A floating-point code with eb exponent and mb fraction bits; ieee: the top exponent holds infinities and NaNs (R139, R141). -/
def fpNum (eb mb : Nat) (ieee : Bool) (c : Nat) : Num :=
  let s := c / 2 ^ (eb + mb) % 2 == 1
  let e := c / 2 ^ mb % 2 ^ eb
  let f := c % 2 ^ mb
  let bias : Int := 2 ^ (eb - 1) - 1
  if ieee && e == 2 ^ eb - 1 then (if f = 0 then .inf s else .nan)
  else if e = 0 then .fin s f (1 - bias - mb)
  else .fin s (2 ^ mb + f) ((e : Int) - bias - mb)

/-- A two's-complement code of w bits, with exponent x. -/
def intNum (w : Nat) (x : Int) (c : Nat) : Num :=
  if c / 2 ^ (w - 1) % 2 = 1 then .fin true (2 ^ w - c % 2 ^ w) x else .fin false (c % 2 ^ w) x

/-- The value of an element of an ETYPE (R139, R141). -/
def elemNum (etype : BitVec 4) (mx : Bool) (c : Nat) : Num :=
  match etype.toNat with
  | 1 => if c % 128 = 127 then .nan else fpNum 4 3 false c
  | 2 => fpNum 5 2 true c
  | 3 => fpNum 2 3 false c
  | 4 => fpNum 3 2 false c
  | 5 => fpNum 2 1 false c
  | 6 => intNum 8 (if mx then -6 else 0) c
  | 7 => intNum 4 0 c
  | 8 => fpNum 8 7 true c
  | 9 => fpNum 5 10 true c
  | 10 => fpNum 8 23 true c
  | _ => .fin false (c % 2) 0

/-- Element i of a packed row: elements of w bits follow one another from bit 0 up (R140: for every width w used, this is the packing stated). -/
def elemCode {n : Nat} (w : Nat) (row : BitVec n) (i : Nat) : Nat := (row.toNat >>> (w * i)) % 2 ^ w

/-- The segment value of R147: none, or an exact value. -/
inductive Seg where
  | none
  | val (v : Num)
  deriving DecidableEq, Repr

/-- The left shift L of R146 for a pairing, by the A tile's type. -/
def segL (etype : BitVec 4) : Int :=
  match etype.toNat with
  | 1 | 2 => 8
  | 3 | 4 | 5 | 7 => 7
  | 6 => 2
  | 8 => 1
  | _ => -5

/-- The products of a segment that are finite and not zero: sign, m_a × m_w, exponent (R147). -/
def finProds : List (Num × Num) → List (Bool × Nat × Int)
  | [] => []
  | (.fin s m x, .fin t n y) :: ps => if m = 0 ∨ n = 0 then finProds ps else (s != t, m * n, x + y) :: finProds ps
  | _ :: ps => finProds ps

/-- The largest exponent of a list that is not empty. -/
def maxExp : List (Bool × Nat × Int) → Int
  | [] => 0
  | [(_, _, e)] => e
  | (_, _, e) :: ps => max e (maxExp ps)

/-- segment_value of R147. -/
def segmentValue (l : Int) (ps : List (Num × Num)) : Seg :=
  let prods := ps.map fun (a, w) => mulNum a w
  let nan := prods.contains .nan
  let pinf := prods.contains (.inf false)
  let ninf := prods.contains (.inf true)
  if nan || (pinf && ninf) then .val .nan
  else if pinf then .val (.inf false)
  else if ninf then .val (.inf true)
  else
    let fs := finProds ps
    if fs.isEmpty then .none
    else
      let es := maxExp fs
      let sum : Int := fs.foldl (fun acc (sg, p, e) =>
        let sh := l - (es - e)
        let mag : Nat := if 0 ≤ sh then p * 2 ^ sh.toNat else p / 2 ^ (-sh).toNat
        if sg then acc - mag else acc + mag) 0
      .val (.fin (decide (sum < 0)) sum.natAbs (es - l))

/-- The element modes of R92: elements per segment and segments per MX block. -/
def segShape (etype : BitVec 4) : Nat × Nat :=
  match etype.toNat with
  | 3 | 4 | 5 | 7 => (32, 1)
  | 6 | 8 | 9 => (8, 4)
  | _ => (16, 2)

/-- The promotion of R148 over the segments of one file, stage 0 first. -/
def promote (f : Num) : List (Seg × Int) → Num
  | [] => f
  | (.none, _) :: ys => promote f ys
  | (.val y, k) :: ys =>
    match y with
    | .fin s m x => if m = 0 then promote f ys else promote (inkNum (rndInk (addNum false f (.fin s m (x + k))))) ys
    | y => promote (inkNum (rndInk (addNum false f y))) ys

/-- A list cut into pieces of n. -/
def chunks {α : Type} (n : Nat) (l : List α) : Nat → List (List α)
  | 0 => []
  | fuel + 1 => if l.isEmpty then [] else l.take n :: chunks n (l.drop n) fuel

/-- file_sum of R148: the A row's and the plane row's elements, and their scale bytes where both carry MX scales. -/
def fileSum (etype wtype : BitVec 4) (mx : Bool) (n : Nat) (a w : BitVec 8192) (sa sw : BitVec 512) : Ink :=
  let wa := etypeBits etype
  let ww := etypeBits wtype
  let pairs := (List.range n).map fun i => (elemNum etype mx (elemCode wa a i), elemNum wtype mx (elemCode ww w i))
  let (per, blk) := segShape etype
  let scaleA (b : Nat) : Nat := elemCode 8 sa b
  let scaleW (b : Nat) : Nat := elemCode 8 sw b
  if mx && (List.range (n / 32)).any (fun b => scaleA b == 255 || scaleW b == 255) then inkNaN
  else
    let segs := (chunks per pairs n).zipIdx.map fun (ps, s) =>
      (segmentValue (segL etype) ps, if mx then ((scaleA (s / blk) + scaleW (s / blk) : Nat) : Int) - 254 else 0)
    rndInk (promote (.fin false 0 0) segs)

/-- A MAX-PLUS (most) or MIN-PLUS result (R123). -/
def plusExtreme (most : Bool) (etype wtype : BitVec 4) (n : Nat) (a w : BitVec 8192) : Ink :=
  let wa := etypeBits etype
  let ww := etypeBits wtype
  let ts := (List.range n).map fun i =>
    inkNum (rndInk (addNum false (elemNum etype false (elemCode wa a i)) (elemNum wtype false (elemCode ww w i))))
  match ts with
  | [] => rndInk (.inf most)
  | t :: ts => rndInk (ts.foldl (if most then maxNum else minNum) t)

/-- The number of set bits among the low n. -/
def popcount : Nat → Nat → Nat
  | 0, _ => 0
  | n + 1, x => x % 2 + popcount n (x / 2)

/-- The result of a bit semiring over k bits (R124). -/
def bitResult (semi : BitVec 3) (k : Nat) (a w : BitVec 8192) : Ink :=
  let x := a.toNat % 2 ^ k
  let y := w.toNat % 2 ^ k
  let c := popcount k (x &&& y)
  match semi.toNat with
  | 3 => if c = 0 then 0 else 1
  | 4 => BitVec.ofNat 40 (c % 2)
  | _ => BitVec.ofNat 40 (k - popcount k (x ^^^ y))

/-- ink_combine (R125). -/
def inkCombine (semi : BitVec 3) (old s : Ink) : Ink :=
  match semi.toNat with
  | 0 => rndInk (addNum false (inkNum old) (inkNum s))
  | 1 => rndInk (maxNum (inkNum old) (inkNum s))
  | 2 => rndInk (minNum (inkNum old) (inkNum s))
  | 3 => if bit old 0 || bit s 0 then 1 else 0
  | 4 => if bit old 0 != bit s 0 then 1 else 0
  | _ => old + s

/-- The identity that ICLR writes (R121). -/
def inkIdentity (semi : BitVec 3) : Ink :=
  match semi.toNat with
  | 1 => 0xFFF0000000
  | 2 => 0x7FF0000000
  | _ => 0

/-- The value of an entry in its view (R118). -/
def inkView (semi : BitVec 3) (w : Ink) : Num :=
  match semi.toNat with
  | 0 | 1 | 2 => inkNum w
  | 3 | 4 => .fin false (if bit w 0 then 1 else 0) 0
  | _ => .fin false w.toNat 0

/-- A floating-point target: exponent bits, fraction bits, the largest finite magnitude as m × 2^x (R139, R153). -/
structure Fmt where
  eb : Nat
  mb : Nat
  maxM : Nat
  maxX : Int

/-- The formats by ETYPE (R139). -/
def fmtOf (etype : BitVec 4) : Fmt :=
  match etype.toNat with
  | 1 => ⟨4, 3, 14, 5⟩
  | 2 => ⟨5, 2, 7, 13⟩
  | 3 => ⟨2, 3, 15, -1⟩
  | 4 => ⟨3, 2, 7, 2⟩
  | 5 => ⟨2, 1, 3, 1⟩
  | 8 => ⟨8, 7, 255, 120⟩
  | 9 => ⟨5, 10, 2047, 5⟩
  | _ => ⟨8, 23, 2 ^ 24 - 1, 104⟩

/-- The bias of a format. -/
def Fmt.bias (f : Fmt) : Int := 2 ^ (f.eb - 1) - 1
/-- The exponent of the smallest normal number (R153). -/
def Fmt.emin (f : Fmt) : Int := 1 - f.bias

/-- The code of n × 2^qe, which the format holds, qe not below its quantum. -/
def fpCode (f : Fmt) (neg : Bool) (n : Nat) (qe : Int) : Nat :=
  let s : Nat := if neg then 2 ^ (f.eb + f.mb) else 0
  if n = 0 then s
  else
    let e := log2Of n qe
    if e < f.emin then s + scaleTo n qe (f.emin - f.mb)
    else s + (e + f.bias).toNat * 2 ^ f.mb + (scaleTo n qe (e - f.mb - 1) / 2 - 2 ^ f.mb)

/-- The code of the largest finite magnitude. -/
def maxCode (f : Fmt) (neg : Bool) : Nat := fpCode f neg f.maxM f.maxX

/-- The quiet NaN of a target with a given sign: 0x7F for the FP8 types, the canonical NaN otherwise (R132). -/
def nanCode (etype : BitVec 4) (neg : Bool) : Nat :=
  match etype.toNat with
  | 1 => if neg then 0xFF else 0x7F
  | 2 => 0x7F
  | 8 => 0x7FC0
  | 9 => 0x7E00
  | 10 => 0x7FC00000
  | _ => 0

/-- The infinity of a target that has one. -/
def infCode (f : Fmt) (neg : Bool) : Nat := (if neg then 2 ^ (f.eb + f.mb) else 0) + (2 ^ f.eb - 1) * 2 ^ f.mb

/-- A converted element: its code, whether the code is a NaN, and what the conversion met (R153, R158). -/
structure Cv where
  code : Nat
  nan : Bool := false
  inexact : Bool := false
  overflow : Bool := false
  tiny : Bool := false
  invalid : Bool := false
  deriving DecidableEq, Repr

/-- An overflow or infinity in a floating-point target (R132). -/
def overCode (etype : BitVec 4) (sat neg : Bool) : Nat × Bool :=
  let f := fmtOf etype
  match etype.toNat with
  | 1 => if sat then (maxCode f neg, false) else (nanCode 1 neg, true)
  | 3 | 4 | 5 => (maxCode f neg, false)
  | _ => if sat then (maxCode f neg, false) else (infCode f neg, false)

/-- Clamps a rounded magnitude to the w-bit two's-complement range (R132). -/
def clampInt (w : Nat) (neg : Bool) (n : Nat) : Nat :=
  if neg then (2 ^ w - min n (2 ^ (w - 1))) % 2 ^ w else min n (2 ^ (w - 1) - 1)

/-- Whether an ETYPE is an integer type. -/
def isInt (etype : BitVec 4) : Bool := etype == 6 || etype == 7

/-- convert of R153 and R158; round gives the rounded count of quanta. NaN entries drain with sign 0 (R132). -/
def convertWith (etype : BitVec 4) (sat : Bool) (round : Bool → Nat → Int → Int → Nat) (v : Num) : Cv :=
  let f := fmtOf etype
  if etype.toNat = 11 then
    match v with
    | .nan => { code := 1 }
    | .inf _ => { code := 1 }
    | .fin _ m _ => { code := if m = 0 then 0 else 1 }
  else if isInt etype then
    let w := etypeBits etype
    match v with
    | .nan => { code := 0, invalid := true }
    | .inf s => { code := clampInt w s (2 ^ w), invalid := true }
    | .fin s m x =>
      let n := round s m x 0
      let lim := if s then 2 ^ (w - 1) else 2 ^ (w - 1) - 1
      { code := clampInt w s n, inexact := !(scaleTo m x (min x 0) == scaleTo (min n lim) 0 (min x 0)), overflow := decide (lim < n) }
  else
    match v with
    | .nan => { code := nanCode etype false, nan := etype.toNat ≤ 2 || 8 ≤ etype.toNat, invalid := 3 ≤ etype.toNat && etype.toNat ≤ 5 }
    | .inf s =>
      let (c, n) := overCode etype sat s
      { code := c, nan := n, invalid := n || (3 ≤ etype.toNat && etype.toNat ≤ 5) }
    | .fin s m x =>
      if m = 0 then { code := fpCode f s 0 0 }
      else
        let qe := max (log2Of m x) f.emin - f.mb
        let n := round s m x qe
        let inx := !(scaleTo m x (min x qe) == scaleTo n qe (min x qe))
        let e := min qe f.maxX
        if scaleTo f.maxM f.maxX e < scaleTo n qe e then
          let (c, nn) := overCode etype sat s
          { code := c, nan := nn, inexact := true, overflow := true, invalid := nn }
        else
          { code := fpCode f s n qe, inexact := inx, tiny := decide (n = 0) || decide (log2Of n qe < f.emin) }

/-- The draw of R154. -/
def sdraw (seed c : BitVec 32) (l : Nat) : Nat :=
  let z := seed ^^^ (c * 0x9E3779B9) ^^^ (BitVec.ofNat 32 l * 0x85EBCA6B)
  let z := z ^^^ (z >>> 16)
  let z := z * 0x7FEB352D
  let z := z ^^^ (z >>> 15)
  let z := z * 0x846CA68B
  let z := z ^^^ (z >>> 16)
  z.toNat % 65536

/-- Stochastic rounding of R153 under one draw. -/
def roundStoch (d : Nat) (_neg : Bool) (m : Nat) (x qe : Int) : Nat :=
  let (n, r, sh) := quanta m x qe
  if d < r * 2 ^ 16 / 2 ^ sh then n + 1 else n

/-- The drain of one entry (R127, R132, R153): the target's code and whether it is a NaN. -/
def drainEntry (etype : BitVec 4) (mxTile : Bool) (semi : BitVec 3) (o : DrainOpts) (seed c : BitVec 32) (lane : Nat) (w : Ink) : Cv :=
  let v := inkView semi w
  let v := if o.osc then (match v with | .fin s m x => Num.fin s m (x - ((o.scale.toNat : Int) - 127)) | y => y) else v
  let v := if mxTile && etype == 6 then (match v with | .fin s m x => Num.fin s m (x + 6) | y => y) else v
  if o.sr then convertWith etype o.sat (roundStoch (sdraw seed c lane)) v
  else convertWith etype o.sat (fun s m x qe => roundQ .rne s m x qe) v

/-! ## The vector unit (R156) -/

/-- The sticky flags of VFST (R36). -/
structure FFlags where
  nx : Bool := false
  uf : Bool := false
  of : Bool := false
  dz : Bool := false
  nv : Bool := false
  deriving DecidableEq, Repr

/-- Flags of either. -/
def FFlags.or (a b : FFlags) : FFlags := ⟨a.nx || b.nx, a.uf || b.uf, a.of || b.of, a.dz || b.dz, a.nv || b.nv⟩

/-- The flags set in a VFST word (R36). -/
def FFlags.apply (f : FFlags) (vfst : BitVec 64) : BitVec 64 :=
  vfst ||| placeB 64 f.nx 4 ||| placeB 64 f.uf 5 ||| placeB 64 f.of 6 ||| placeB 64 f.dz 7 ||| placeB 64 f.nv 8

/-- The ETYPE of a floating-point W code: FP16, FP32 or BF16 (R461). -/
def wEtype (w : BitVec 2) : BitVec 4 := match w.toNat with | 1 => 9 | 2 => 10 | _ => 8

/-- The width of an element by W and class (R461). -/
def wBits (fp : Bool) (w : BitVec 2) : Nat := if fp then (if w = 2 then 32 else 16) else 8 * 2 ^ w.toNat

/-- Whether a code is a signalling NaN: NaN with the top fraction bit clear. -/
def isSNaN (etype : BitVec 4) (c : Nat) : Bool :=
  let f := fmtOf etype
  elemNum etype false c == .nan && c / 2 ^ (f.mb - 1) % 2 == 0

/-- Rounds an exact value into a vector format (R156). -/
def roundFp (etype : BitVec 4) (rm : Rm) (v : Num) : Nat × FFlags :=
  let f := fmtOf etype
  match v with
  | .nan => (nanCode etype false, {})
  | .inf s => (infCode f s, {})
  | .fin s m x =>
    if m = 0 then (fpCode f s 0 0, {})
    else
      let e := log2Of m x
      let qe := max e f.emin - f.mb
      let n := roundQ rm s m x qe
      let inx := !(scaleTo m x (min x qe) == scaleTo n qe (min x qe))
      let cmp := min qe f.maxX
      if scaleTo f.maxM f.maxX cmp < scaleTo n qe cmp then
        let toInf := match rm with
          | .rne | .rna => true
          | .rtz => false
          | .rup => !s
          | .rdn => s
        (if toInf then infCode f s else maxCode f s, { nx := true, of := true })
      else
        let after := log2Of (roundQ rm s m x (e - f.mb)) (e - f.mb)
        let tiny := if Config.tinyBefore then decide (e < f.emin) else decide (after < f.emin)
        (fpCode f s n qe, { nx := inx, uf := inx && tiny })

/-- NaN operands of an operation: NV for a signalling one (R156). -/
def nanFlags (etype : BitVec 4) (cs : List Nat) : FFlags := { nv := cs.any (isSNaN etype) }

/-- An operation on values: NaN operands give the canonical NaN; a NaN from others also sets NV (R156). -/
def fpOp (etype : BitVec 4) (rm : Rm) (cs : List Nat) (r : Num) : Nat × FFlags :=
  if cs.any (fun c => elemNum etype false c == .nan) then (nanCode etype false, nanFlags etype cs)
  else if r = .nan then (nanCode etype false, { nv := true })
  else roundFp etype rm r

/-- The value of a code. -/
def fv (etype : BitVec 4) (c : Nat) : Num := elemNum etype false c

/-- Addition. -/
def fAdd (etype : BitVec 4) (rm : Rm) (a b : Nat) : Nat × FFlags :=
  fpOp etype rm [a, b] (addNum (rm == .rdn) (fv etype a) (fv etype b))
/-- Subtraction. -/
def fSub (etype : BitVec 4) (rm : Rm) (a b : Nat) : Nat × FFlags :=
  fpOp etype rm [a, b] (addNum (rm == .rdn) (fv etype a) (negNum (fv etype b)))
/-- Multiplication. -/
def fMul (etype : BitVec 4) (rm : Rm) (a b : Nat) : Nat × FFlags :=
  fpOp etype rm [a, b] (mulNum (fv etype a) (fv etype b))
/-- a × b + c, rounded once; neg: c − a × b (R462). Infinity times zero beside a quiet NaN addend falls under the rule of NaN operands, without NV (R156, log 9). -/
def fFma (etype : BitVec 4) (rm : Rm) (neg : Bool) (a b c : Nat) : Nat × FFlags :=
  let p := mulNum (fv etype a) (fv etype b)
  fpOp etype rm [a, b, c] (addNum (rm == .rdn) (if neg then negNum p else p) (fv etype c))

/-- The exact quotient to enough bits, with a sticky last bit. -/
def divNum : Num → Num → Num
  | .nan, _ => .nan
  | _, .nan => .nan
  | .inf _, .inf _ => .nan
  | .inf s, .fin t _ _ => .inf (s != t)
  | .fin s _ _, .inf t => .fin (s != t) 0 0
  | .fin s m x, .fin t n y =>
    if n = 0 then (if m = 0 then .nan else .inf (s != t))
    else
      let k := 64 + Nat.log2 (n + 1)
      let q := m * 2 ^ k / n
      let r := m * 2 ^ k % n
      .fin (s != t) (2 * q + (if r = 0 then 0 else 1)) (x - y - k - 1)

/-- Division, with DZ for a finite nonzero value over zero (R36). -/
def fDiv (etype : BitVec 4) (rm : Rm) (a b : Nat) : Nat × FFlags :=
  match fv etype a, fv etype b with
  | .fin s m _, .fin t 0 _ =>
    if m = 0 then fpOp etype rm [a, b] .nan else (infCode (fmtOf etype) (s != t), { dz := true })
  | x, y => fpOp etype rm [a, b] (divNum x y)

/-- floor of the square root, found bit by bit from bit k down. -/
def isqrt (n : Nat) : Nat → Nat → Nat
  | 0, r => if (r + 1) * (r + 1) ≤ n then r + 1 else r
  | k + 1, r => isqrt n k (if (r + 2 ^ (k + 1)) * (r + 2 ^ (k + 1)) ≤ n then r + 2 ^ (k + 1) else r)

/-- The square root to enough bits, with a sticky last bit. -/
def sqrtNum : Num → Num
  | .nan => .nan
  | .inf s => if s then .nan else .inf false
  | .fin s m x =>
    if m = 0 then .fin s 0 0
    else if s then .nan
    else
      let k : Nat := 64 + (if (x % 2) == 0 then 0 else 1)
      let n := m * 2 ^ k
      let r := isqrt n ((Nat.log2 n) / 2 + 1) 0
      .fin false (2 * r + (if r * r = n then 0 else 1)) ((x - k) / 2 - 1)

/-- Square root. -/
def fSqrt (etype : BitVec 4) (rm : Rm) (a : Nat) : Nat × FFlags := fpOp etype rm [a] (sqrtNum (fv etype a))

/-- Maximum or minimum (R156). -/
def fExt (most : Bool) (etype : BitVec 4) (a b : Nat) : Nat × FFlags :=
  fpOp etype .rne [a, b] ((if most then maxNum else minNum) (fv etype a) (fv etype b))

/-- Compares: 0 equal, 1 less, 2 less or equal (R462). -/
def fCmp (k : Nat) (etype : BitVec 4) (a b : Nat) : Bool × FFlags :=
  let x := fv etype a
  let y := fv etype b
  if x = .nan ∨ y = .nan then (false, { nv := k != 0 || isSNaN etype a || isSNaN etype b })
  else
    let lt := ltNum false x y
    let gt := ltNum false y x
    (match k with | 0 => !lt && !gt | 1 => lt | _ => !gt, {})

/-- The fixed tree of R157. -/
def reduceTree (op : Nat → Nat → Nat × FFlags) (ys : List Nat) (fl : FFlags) : Nat → Option Nat × FFlags
  | 0 => (ys.head?, fl)
  | fuel + 1 =>
    match ys with
    | [] => (none, fl)
    | [y] => (some y, fl)
    | ys =>
      let rec level : List Nat → FFlags → List Nat × FFlags
        | a :: b :: r, f =>
          let (c, g) := op a b
          let (cs, h) := level r (f.or g)
          (c :: cs, h)
        | r, f => (r, f)
      let (zs, f) := level ys fl
      reduceTree op zs f fuel

/-- The value of a binary32 code rounded to binary64 sums (R309): roundTiesToEven. -/
def roundF64 (v : Num) : BitVec 64 :=
  let f : Fmt := ⟨11, 52, 2 ^ 53 - 1, 971⟩
  match v with
  | .nan => 0x7FF8000000000000
  | .inf s => BitVec.ofNat 64 (infCode f s)
  | .fin s m x =>
    if m = 0 then BitVec.ofNat 64 (fpCode f s 0 0)
    else
      let qe := max (log2Of m x) f.emin - f.mb
      let n := roundQ .rne s m x qe
      let c := min qe f.maxX
      if scaleTo f.maxM f.maxX c < scaleTo n qe c then BitVec.ofNat 64 (infCode f s) else BitVec.ofNat 64 (fpCode f s n qe)

/-- The value of a binary64 code. -/
def f64Num (x : BitVec 64) : Num := fpNum 11 52 true x.toNat

end Sys2Proof.Machine
end

