-- ==== Sys2Proof/Machine/Track.lean ====
section
/-! DEFINITION. The mirrored ranges, their granules, the maps of changed granules, and the granules that a running commit holds (R345, R347, R350, R353). -/
namespace Sys2Proof.Machine

/-- EN of a mirror range (R345). -/
def mirEn (s : State) (r : Fin 16) : Bool := bit s.mir.cfg[r] 16
/-- FULL of a mirror range (R345). -/
def mirFull (s : State) (r : Fin 16) : Bool := bit s.mir.cfg[r] 17
/-- N(r): the granules of a range, 0 for a disabled one (R345, R354). -/
def mirN (s : State) (r : Fin 16) : Nat := if mirEn s r then fieldN s.mir.cfg[r] 15 0 + 1 else 0
/-- The physical address of the first granule of a range (R345). -/
def mirBase (s : State) (r : Fin 16) : Nat := fieldN s.mir.cfg[r] 63 24 * 65536
/-- The sum of N over the ranges below r (R345, R354). -/
def mirS (s : State) (r : Nat) : Nat := ((List.finRange 16).filter (·.val < r)).foldl (fun n k => n + mirN s k) 0
/-- The granules of all enabled ranges. -/
def mirTotal (s : State) : Nat := mirS s 16

/-- The global indices of the granules that n bytes at a physical address touch (R345). -/
def granulesOf (s : State) (pa n : Nat) : List Nat :=
  (List.finRange 16).flatMap fun r =>
    let b := mirBase s r
    let sz := 65536 * mirN s r
    if n = 0 ∨ pa + n ≤ b ∨ b + sz ≤ pa then []
    else
      let lo := (max pa b - b) / 65536
      let hi := (min (pa + n) (b + sz) - 1 - b) / 65536
      (List.range (hi + 1 - lo)).map fun i => mirS s r.val + lo + i

/-- The physical address of the granule of a global index, with its range and index in it (R345). -/
def granuleAt (s : State) (g : Nat) : Option (Fin 16 × Nat × Nat) :=
  (List.finRange 16).findSome? fun r =>
    if mirS s r.val ≤ g ∧ g < mirS s r.val + mirN s r then
      let i := g - mirS s r.val
      some (r, i, mirBase s r + 65536 * i)
    else none

/-- The vellum offset of the map byte of a granule (R347). -/
def mapByte (s : State) (gen : Bool) (g : Nat) : Nat := fieldN s.mir.map 25 14 * 16384 + (if gen then 8192 else 0) + g / 8

/-- Whether the map bit of a granule is set (R347). -/
def mapBit (s : State) (gen : Bool) (g : Nat) : Bool := bit (spGet 0 s.vellum (mapByte s gen g)) (g % 8)

/-- Writes the map bit of a granule. -/
def setMapBit (s : State) (gen : Bool) (v : Bool) (g : Nat) : State :=
  let a := mapByte s gen g
  { s with vellum := spSet 0 s.vellum a (setBit (spGet 0 s.vellum a) (g % 8) v) }

/-- Sets the bits of both generations for the granules of a write (R350). -/
def markDirty (s : State) (pa n : Nat) : State :=
  if s.mir.en then (granulesOf s pa n).foldl (fun s g => setMapBit (setMapBit s false true g) true true g) s else s

/-- The granules of a running commit that are not yet read and that a write touches (R353). -/
def heldGranules (s : State) (pa n : Nat) : List Nat :=
  match s.mir.commit with
  | some k => (granulesOf s pa n).filter (k.tx.todo.contains ·)
  | none => []

/-- Puts granules that a writer waits for next in the order of reading (R353). -/
def askGranules (s : State) (gs : List Nat) : State :=
  match s.mir.commit with
  | some k => { s with mir := { s.mir with commit := some { k with urgent := k.urgent ++ gs.filter (fun g => !k.urgent.contains g) } } }
  | none => s

end Sys2Proof.Machine
end

