-- ==== Sys2Proof/Machine/Err.lean ====
section
/-! DEFINITION. Interrupt pending bits, error records and their posting, what a read of the stores meets, and the writes of the core's own agents (R162, R227, R270, R280, R330 to R341, R350, R418, R466). -/
namespace Sys2Proof.Machine

/-- Vectors that exist (R270). -/
def validVec (v : Nat) : Bool := (0x20 ≤ v && v ≤ 0x28) || (0x40 ≤ v && v ≤ 0xFF)

/-- The critical vectors (R270). -/
def critVec (v : Nat) : Bool := v == 0x20 || v == 0x21 || v == 0x22

/-- The bits of an IPEND word that exist (R280). -/
def ipendMask (j : Fin 4) : W64 :=
  match j.val with
  | 0 => maskBits 64 0x28 0x20
  | _ => BitVec.allOnes 64

/-- IPEND j as it reads: wired bits follow their inputs (R280). -/
def ipendWord (s : State) (j : Fin 4) : W64 := if j = 1 then s.win.intIn else s.c.ipend[j] &&& ipendMask j

/-- Whether a vector is pending. -/
def isPending (s : State) (v : Byte) : Bool :=
  bit (ipendWord s (Fin.ofNat 4 (v.toNat / 64))) (v.toNat % 64)

/-- Replaces the stored pending bit of a vector; a machine check that is no longer pending holds no way group (R229). -/
def setPending (s : State) (v : Byte) (on : Bool) : State :=
  let j : Fin 4 := Fin.ofNat 4 (v.toNat / 64)
  { s with c := { s.c with
      ipend := s.c.ipend.set j.val (setBit s.c.ipend[j] (v.toNat % 64) on) j.isLt
      l2Check := if v = 0x20 ∧ on = false then 0 else s.c.l2Check } }

/-- Makes a vector pending, which wakes a clock-gated CORE (R28, R283). -/
def pend (s : State) (v : Byte) : State := wakeRequest (setPending s v true) dCore

/-- A value drawn that the spec leaves open (log 6). -/
def draw (w : Nat) (s : State) : BitVec w × State := (Config.freeBits w s.freeCtr, { s with freeCtr := s.freeCtr + 1 })

/-- An error record from its fields (R330). -/
def mkRecord (cls unit : Byte) (sev : BitVec 2) (inj : Bool) (rep seq : BitVec 16) (loc tick : W64) (ply : W64) (synd : BitVec 24) : BitVec 256 :=
  let d0 : W64 := place 64 cls.toNat 0 ||| place 64 unit.toNat 8 ||| place 64 sev.toNat 16 ||| placeB 64 inj 18
    ||| place 64 rep.toNat 32 ||| place 64 seq.toNat 48
  let d3 : W64 := place 64 (fieldN ply 39 0) 0 ||| place 64 synd.toNat 40
  d3 ++ (tick ++ (loc ++ d0))

/-- Doubleword k of a record. -/
def recDw (r : BitVec 256) (k : Nat) : W64 := BitVec.ofNat 64 (r.toNat >>> (64 * k))
/-- SEV of a record. -/
def recSev (r : BitVec 256) : Nat := fieldN r 17 16

/-- The records in the FIFO (R336). -/
def fifoCount (s : State) : Nat := (s.err.wr - s.err.rd).toNat
/-- The record at a pointer value (R336). -/
def fifoAt (s : State) (p : BitVec 9) : BitVec 256 := spGet 0 s.err.fifo (p.toNat % 256)

/-- ERR_LINES.UNCORR (R338). -/
def errUncorr (s : State) : Bool :=
  s.err.ovfu || (List.range (fifoCount s)).any fun i => recSev (fifoAt s (s.err.rd + BitVec.ofNat 9 i)) == 1

/-- ERR_LINES (R338). -/
def errLines (s : State) : W32 :=
  placeB 32 s.err.corr 0 ||| placeB 32 (errUncorr s) 1 ||| placeB 32 s.err.fatal 2 ||| placeB 32 s.err.chkoff 3 ||| placeB 32 s.err.ovfu 4

/-- Puts a record into ERRLAST (R339). -/
def setErrLast (s : State) (r : BitVec 256) : State :=
  { s with c := { s.c with errlast := ⟨#[recDw r 0, recDw r 1, recDw r 2, recDw r 3], rfl⟩ } }

/-- Drives the line and the vector of a record of a severity (R321, R333, R338). -/
def driveLine (s : State) (sev : Nat) : State :=
  let s1 := { s with err := { s.err with corr := s.err.corr || sev == 0, fatal := s.err.fatal || 2 ≤ sev } }
  pend s1 (if 2 ≤ sev then 0x20 else 0x28)

/-- Whether a new detection merges into a record (R335). -/
def sameDetection (r : BitVec 256) (cls unit : Byte) (loc : W64) (synd : BitVec 24) : Bool :=
  fieldN r 7 0 == cls.toNat && fieldN r 15 8 == unit.toNat && recDw r 1 == loc && fieldN (recDw r 3) 63 40 == synd.toNat

/-- The record after a further detection is merged into it (R335). -/
def mergeRecord (s : State) (r : BitVec 256) (sev : BitVec 2) (extra : BitVec 16) : BitVec 256 :=
  let d0 := recDw r 0
  let d0 := setField d0 47 32 (min 0xFFFF (fieldN d0 47 32 + 1 + extra.toNat))
  let d0 := setField d0 17 16 (max (fieldN d0 17 16) sev.toNat)
  let d3 := setField (recDw r 3) 39 0 (fieldN s.c.ply 39 0)
  d3 ++ (s.win.tick ++ (recDw r 1 ++ d0))

/-- A machine check marks the way group that it names, and one of L1D or of the store buffer how a warm reset treats L1D (R229, R230, R332). -/
def noteCheck (s : State) (unit : Byte) (sev : Nat) (loc : W64) : State :=
  if sev < 2 then s
  else if unit = 0x04 then { s with c := { s.c with l2Check := setBit s.c.l2Check (fieldN loc 15 14) true } }
  else if unit = 0x03 then { s with c := { s.c with l1dCheck := true } }
  else s

/-- Posting of a detection (R333 to R337): merge with the newest unconsumed record, else a new record that is stored or lost. -/
def postRecord (s : State) (cls unit : Byte) (sev : BitVec 2) (loc : W64) (synd : BitVec 24) (inj : Bool) (extra : BitVec 16) : State :=
  let newest := fifoAt s (s.err.wr - 1)
  if fifoCount s ≠ 0 ∧ sameDetection newest cls unit loc synd then
    let r := mergeRecord s newest sev extra
    let s1 := { s with err := { s.err with fifo := spSet 0 s.err.fifo ((s.err.wr - 1).toNat % 256) r } }
    driveLine (noteCheck (setErrLast s1 r) unit (recSev r) loc) (recSev r)
  else
    let seq := s.err.seq + 1
    let r := mkRecord cls unit sev inj extra seq loc s.win.tick s.c.ply synd
    let s1 := { s with err := { s.err with seq := seq } }
    let s2 :=
      if fifoCount s ≤ (if sev = 2 then 255 else 247) then
        { s1 with err := { s1.err with
            fifo := spSet 0 s1.err.fifo (s1.err.wr.toNat % 256) r
            fifoBad := s1.err.fifoBad.filter (· ≠ s1.err.wr.toNat % 256)
            wr := s1.err.wr + 1 } }
      else
        { s1 with err := { s1.err with
            ovf := if s1.err.ovf = 0xFFFFFFFF then s1.err.ovf else s1.err.ovf + 1
            ovfu := s1.err.ovfu || sev == 1 } }
    driveLine (noteCheck (setErrLast s2 r) unit sev.toNat loc) sev.toNat

/-- The bits of SYND that the format of a class names (R331). -/
def syndMask (cls : Byte) : BitVec 24 :=
  match cls.toNat with
  | 0x01 | 0x02 | 0x08 | 0x0F | 0x10 | 0x11 => 0xFF
  | 0x04 | 0x05 | 0x06 | 0x0B | 0x12 => 0x3F
  | 0x07 => 0x7F
  | 0x09 => 0xFFFFFF
  | 0x0A => 3
  | _ => 0

/-- The bits of LOC that the format of a unit names (R332). -/
def locMask (unit : Byte) : W64 :=
  match unit.toNat with
  | 0x00 | 0x01 => BitVec.allOnes 64
  | 0x02 | 0x03 => maskBits 64 55 6
  | 0x04 => maskBits 64 18 0
  | 0x05 => maskBits 64 4 0 ||| maskBits 64 25 16 ||| maskBits 64 38 32
  | 0x06 | 0x0C => maskBits 64 5 0
  | 0x07 => maskBits 64 10 0 ||| maskBits 64 48 16
  | 0x08 => maskBits 64 10 0 ||| maskBits 64 25 16 ||| maskBits 64 48 36
  | 0x09 => maskBits 64 12 0 ||| maskBits 64 25 16
  | 0x0A => maskBits 64 5 0 ||| maskBits 64 63 8
  | 0x0B => maskBits 64 25 0
  | 0x0D => maskBits 64 55 0
  | 0x0E => maskBits 64 3 0 ||| maskBits 64 63 16
  | 0x0F => maskBits 64 3 0
  | 0x20 => maskBits 64 18 0
  | 0x21 | 0x22 => maskBits 64 15 0
  | 0x23 => 0
  | _ => maskBits 64 6 0 ||| maskBits 64 63 8

/-- A class of R331 that the spec leaves open (log 6). -/
def freeClass (s : State) : Byte × State :=
  let (x, s1) := draw 8 s
  (BitVec.ofNat 8 (1 + x.toNat % 18), s1)

/-- The fabric port of a physical address (R413). -/
def portOf (pa : Nat) : PortNum := Fin.ofNat 4 ((pa / 64 % 4) ^^^ (pa / 256 % 4))

/-- Posts a single-bit error that was corrected in place (R327, R331). -/
def postCe (s : State) (unit : Byte) (loc : Nat) (synd : Byte) (inj : Bool) : State :=
  postRecord s 0x01 unit 0 (BitVec.ofNat 64 loc) (synd.setWidth 24) inj 0

/-- Posts an uncorrectable error; its ECC syndrome is a free value (R331, log 6). -/
def postUe (s : State) (unit : Byte) (loc : Nat) (inj : Bool) : State :=
  postRecord s 0x02 unit 1 (BitVec.ofNat 64 loc) ((Config.syndrome unit loc).setWidth 24) inj 0

/-- Posts poisoned data that is consumed (R227, R331). -/
def postPoison (s : State) (unit : Byte) (loc : Nat) (inj : Bool) : State := postRecord s 0x03 unit 1 (BitVec.ofNat 64 loc) 0 inj 0

/-- An injected single-bit error that a read or a merge meets: corrected, rewritten and recorded (R162, R227, R341). -/
def meetSingle (s : State) (unit : Byte) (spot loc : Nat) : State :=
  if spotAt s unit spot = 1 then postCe (clearSpot s unit spot) unit loc (Config.syndrome unit loc) true else s

/-- Removes a line from L2 and the inner caches without a write-back. -/
def discardLine (s : State) (la : BitVec 50) : State :=
  let s1 := dropInner s la
  let s2 := match l1dFind s1 la with
    | some (k, _) => { s1 with ca := { s1.ca with l1d := spSet none s1.ca.l1d k none } }
    | none => s1
  match l2Find s2 la with
  | some (k, _) => { s2 with ca := { s2.ca with l2 := spSet none s2.ca.l2 k none } }
  | none => s2

/-- Whether the core holds the only current copy of a line that L2 has. -/
def lineDirty (s : State) (l : L2Line) : Bool :=
  l.st == .m || (match l1dFind s l.la with
    | some (_, x) => x.dirty
    | none => false)

/-- A double-bit error in doubleword d of an L2 slot: a clean line is invalidated, to be read again; a dirty one is poisoned (R227). -/
def doubleBitL2 (s : State) (k : Nat) : State :=
  match spGet none s.ca.l2 k with
  | none => s
  | some l =>
    if lineDirty s l then { s with ca := { s.ca with l2 := spSet none s.ca.l2 k (some { l with poison := true }) } }
    else discardLine s l.la

/-- What a read of doubleword d of an L2 slot meets. -/
def meetL2 (s : State) (k d : Nat) : State :=
  if spotAt s 0x04 (l2Loc k d) = 2 then postUe (doubleBitL2 (clearSpot s 0x04 (l2Loc k d)) k) 0x04 (l2Loc k d) true
  else meetSingle s 0x04 (l2Loc k d) (l2Loc k d)

/-- The injected flips that a read of n bytes meets in the vellum or in L2 (R162, R227, R341). -/
def meetSpots (s : State) (coh : Bool) (pa n : Nat) : State :=
  if s.err.spots.isEmpty then s
  else if inVellum s pa then (wordsOf (vOff s pa) n).foldl (fun s w => meetSingle s 0x0B (8 * w) (8 * w)) s
  else if coh then
    (wordsOf pa n).foldl (fun s w => match l2Find s (lineNo (8 * w)) with
      | some (k, _) => meetL2 s k (w % 8)
      | none => s) s
  else s

/-- The record of one poisoned line that a read consumes: in L2, or with data that the fabric returned (R227, R332, R414). -/
def postLine (s : State) (coh : Bool) (pa : Nat) (la : BitVec 50) : State :=
  match (if coh then l2Find s la else none) with
  | some (k, _) => postPoison s 0x04 (l2Loc k (if lineNo pa = la then pa % 64 / 8 else 0)) false
  | none => postPoison s 0x0D (64 * la.toNat) false

/-- The records of the uncorrectable words and poisoned lines that a read meets: one for each, at every read (R162, R227, R335). -/
def postBad (s : State) (coh : Bool) (pa n : Nat) : State :=
  if inVellum s pa then
    ((wordsOf (vOff s pa) n).filter (s.vellumBad.contains ·)).foldl (fun s w => postUe s 0x0B (8 * w) (spotAt s 0x0B (8 * w) == 2)) s
  else ((linesOf pa n).filter (linePoison s coh)).foldl (fun s la => postLine s coh pa la) s

/-- A read of n bytes as the checks of the stores see it: what it posts, and what is wrong with its data (R162, R227, R272). -/
def readCheck (s : State) (coh : Bool) (pa n : Nat) : State × Option (BitVec 4) :=
  let s1 := meetSpots s coh pa n
  match readError s1 coh pa n with
  | none => (s1, none)
  | some e => (postBad s1 coh pa n, some e)

/-- A write that covers part of a vellum word reads the word first: what it meets is recorded (R162). -/
def meetMerge (s : State) (o n : Nat) : State :=
  ((wordsOf o n).filter fun w => !(o ≤ 8 * w && 8 * w + 8 ≤ o + n)).foldl (fun s w =>
    if s.vellumBad.contains w then postUe s 0x0B (8 * w) (spotAt s 0x0B (8 * w) == 2) else meetSingle s 0x0B (8 * w) (8 * w)) s

/-- The bit of an agent in a port's marks. -/
def agentBit : Agent → Nat
  | .core => 0
  | .unit => 1
  | .scribe => 2
  | .other => 3

/-- Notes that an agent's write went out on a port: it is visible to all agents once OrdDone says so (R418). -/
def notePort (s : State) (ag : Agent) (p : PortNum) : State :=
  { s with port := s.port.set p.val { s.port[p] with unconf := setBit s.port[p].unconf (agentBit ag) true } p.isLt }

/-- Notes a write of n bytes that went to the fabric, on the port of each of its lines (R413, R418). -/
def noteFabricWrite (s : State) (ag : Agent) (pa n : Nat) : State :=
  (((linesOf pa n).map fun la => portOf (64 * la.toNat)).dedup).foldl (fun s p => notePort s ag p) s

/-- Whether an agent's write of a memory type leaves the core: not to the vellum, and not to a line that L2 holds and serves
(R208, R213, R223). -/
def goesToFabric (s : State) (ag : Agent) (ty : MType) (pa : Nat) : Bool :=
  !inVellum s pa && (ruledPast s ag ty || decide (ty ≠ .cacheable) || (l2Find s (lineNo pa)).isNone)

/-- A write by one of the core's own agents: performed, tracked for the mirror, and recorded where it merges into a bad word
(R162, R350). -/
def agentWrite (s : State) (ag : Agent) (ty : MType) (pa : Nat) (bs : List Byte) : State :=
  let s0 := if inVellum s pa then meetMerge s (vOff s pa) bs.length else s
  let s1 := markDirty (typedWrite s0 ag ty pa bs) pa bs.length
  if goesToFabric s ag ty pa then noteFabricWrite s1 ag pa bs.length else s1

end Sys2Proof.Machine
end

