-- ==== Sys2Proof/Machine/Xlate.lean ====
section
/-! DEFINITION. Address translation: canonical addresses, the walk, the rights, the translation caches and their invalidation (R231 to R250). -/
namespace Sys2Proof.Machine

/-- The kinds of translated accesses (R239, R242). -/
inductive Ak where
  | load | store | atomic | fetch | shadowR | shadowW
  deriving DecidableEq, Repr

/-- Whose translation cache serves an access (R245). -/
inductive TlbSel where
  | data | fetch | stream | scribe (s : ScribeNum)
  deriving DecidableEq, Repr

/-- The access kind as XCAUSE reports it (R271). -/
def akAcc : Ak → Acc
  | .load | .shadowR => .read
  | .store | .atomic | .shadowW => .write
  | .fetch => .fetch

/-- LEVELS of a TTB (R233). -/
def ttbLevels (ttb : W64) : Nat := fieldN ttb 61 60
/-- ASID of a TTB (R233). -/
def ttbAsid (ttb : W64) : BitVec 16 := BitVec.ofNat 16 (fieldN ttb 59 44)

/-- The translation width n (R231). -/
def vaWidth (ttb : W64) : Nat := match ttbLevels ttb with | 1 => 39 | 2 => 48 | _ => 57

/-- Whether an address is canonical (R231). -/
def canonical (ttb va : W64) : Bool :=
  if ttbLevels ttb = 0 then va.toNat < 2 ^ 56
  else va.toNat < 2 ^ (vaWidth ttb - 1) || 2 ^ 64 - 2 ^ (vaWidth ttb - 1) ≤ va.toNat

/-- ATTR of a leaf (R236, R237). -/
def leafAttr (d : W64) : Nat := fieldN d 11 9
/-- The shadow attribute (R237). -/
def leafShadow (d : W64) : Bool := leafAttr d == 4 || leafAttr d == 5
/-- The memory type of a leaf (R237). -/
def leafType (d : W64) : MType :=
  match leafAttr d with
  | 0 | 4 => .cacheable
  | 2 => .device
  | _ => .uncacheable

/-- The rights checks 3 to 5 of R242: the subcode of the first that fails. -/
def rightsFault (d : W64) (ak : Ak) (ring : BitVec 2) : Option (BitVec 4) :=
  if ring = 3 ∧ bit d 5 = false then some 4
  else
    let need := match ak with
      | .load | .shadowR => if bit d 2 then none else some 5
      | .store | .shadowW => if bit d 3 then none else some 6
      | .atomic => if bit d 2 then (if bit d 3 then none else some 6) else some 5
      | .fetch => if bit d 4 then none else some 7
    match need with
    | some x => some x
    | none =>
      match ak with
      | .shadowR | .shadowW => if leafShadow d then none else some 8
      | .store | .atomic => if leafShadow d then some 8 else none
      | _ => none

/-- Whether the write bit D is set by the access (R239). -/
def akWrites : Ak → Bool
  | .store | .atomic | .shadowW => true
  | _ => false

/-- What a walk makes of one descriptor (R239). -/
inductive WalkOut where
  /-- A page-fault subcode. -/
  | bad (sub : BitVec 4)
  | down (table : Nat) (ty : BitVec 2)
  | leaf (n : W64) (p : Nat)
  deriving DecidableEq, Repr

/-- The checks of one descriptor at a level (R235 to R239, R242). -/
def walkDesc (ak : Ak) (ring : BitVec 2) (level : Nat) (d : W64) : WalkOut :=
  if bit d 0 = false then .bad 2
  else if bit d 1 then
    if level = 0 ∨ fieldN d 11 4 ≠ 0 ∨ fieldN d 63 56 ≠ 0 ∨ fieldN d 3 2 = 3 then .bad 3
    else .down (fieldN d 55 12 * 4096) (BitVec.ofNat 2 (fieldN d 3 2))
  else
    let p := fieldN d 61 56
    if p < 12 + 9 * level ∨ 20 + 9 * level < p ∨ 56 < p ∨ (fieldN d 55 12 * 4096) % 2 ^ p ≠ 0
        ∨ leafAttr d = 3 ∨ leafAttr d = 6 ∨ leafAttr d = 7 ∨ fieldN d 63 62 ≠ 0 then .bad 3
    else match rightsFault d ak ring with
      | some x => .bad x
      | none => .leaf (setBit (if akWrites ak then setBit d 8 true else d) 7 true) p

/-- The address of the descriptor that a walk reads (R239). -/
def descAddr (table level : Nat) (va : W64) : Nat := table + 8 * (va.toNat / 2 ^ (12 + 9 * level) % 512)

/-- The class of a page size (R246). -/
def sizeClass (p : Nat) : Nat := min 4 ((p - 12) / 9)
/-- The set that an address selects for a class in a cache of 2^k sets, which the classes share (R245, R246). -/
def classSet (k c : Nat) (va : W64) : Nat := va.toNat / 2 ^ (12 + 9 * c) % 2 ^ k

/-- Whether an entry matches an address and an ASID (R246). -/
def entryHits (k : Option Nat) (asid : BitVec 16) (va : W64) (e : TlbEntry) : Bool :=
  fieldN va 56 0 / 2 ^ e.p == fieldN e.base 56 0 / 2 ^ e.p && (bit e.leaf 6 || e.asid == asid) &&
  (match k with
   | none => true
   | some k => e.ix == classSet k (sizeClass e.p) va)

/-- Adds an entry, keeping at most n entries that p selects; the oldest of them goes (log 8). -/
def tlbAdd (n : Nat) (p : TlbEntry → Bool) (e : TlbEntry) (l : List TlbEntry) : List TlbEntry :=
  let l' := e :: l.filter (· ≠ e)
  if (l'.filter p).length ≤ n then l'
  else match (l'.filter p).getLast? with
    | some old => l'.erase old
    | none => l'

/-- The entries of a translation cache. -/
def tlbOf (s : State) : TlbSel → List TlbEntry
  | .data => s.ca.dtlb
  | .fetch => s.ca.itlb
  | .stream => s.ca.stlb
  | .scribe k => s.ca.scrTlb[k]

/-- The set rule of a translation cache: none for a fully associative one (R245). -/
def tlbSets : TlbSel → Option Nat
  | .stream => some 7
  | _ => none

/-- Replaces the entries of a translation cache. -/
def setTlb (s : State) (sel : TlbSel) (l : List TlbEntry) : State :=
  match sel with
  | .data => { s with ca := { s.ca with dtlb := l } }
  | .fetch => { s with ca := { s.ca with itlb := l } }
  | .stream => { s with ca := { s.ca with stlb := l } }
  | .scribe k => { s with ca := { s.ca with scrTlb := s.ca.scrTlb.set k.val l k.isLt } }

/-- Installs an entry in one cache (R245, R246). -/
def installIn (s : State) (sel : TlbSel) (e : TlbEntry) (va : W64) : State :=
  match sel with
  | .data => setTlb s sel (tlbAdd 96 (fun _ => true) { e with ix := 0 } s.ca.dtlb)
  | .fetch => setTlb s sel (tlbAdd 64 (fun _ => true) { e with ix := 0 } s.ca.itlb)
  | .scribe k => setTlb s sel (tlbAdd 64 (fun _ => true) { e with ix := 0 } s.ca.scrTlb[k])
  | .stream =>
    let ix := classSet 7 (sizeClass e.p) va
    setTlb s sel (tlbAdd 8 (fun x => x.ix == ix) { e with ix := ix } s.ca.stlb)

/-- Installs an entry in the L2 TLB (R245, R246). -/
def installL2 (s : State) (e : TlbEntry) (va : W64) : State :=
  let ix := classSet 9 (sizeClass e.p) va
  { s with ca := { s.ca with l2tlb := tlbAdd 8 (fun x => x.ix == ix) { e with ix := ix } s.ca.l2tlb } }

/-- The leaf entry that a walk installs (R239). -/
def leafEntry (ttb va n : W64) (p : Nat) : TlbEntry :=
  { base := BitVec.ofNat 64 (va.toNat / 2 ^ p * 2 ^ p), p := p, leaf := n, asid := if bit n 6 then 0 else ttbAsid ttb, ix := 0 }

/-- The tag of a walk-cache entry of a level (R239, R246): all the address bits that select its descriptor, VA[56 : 12 + 9L].
DEDUCED (log 14): R246 prints VA[56 : 12 + 9L + 9], under which addresses that select different descriptors would share an entry, where R239
has a walk read only the descriptors that the address selects. -/
def walkTag (level : Nat) (va : W64) : Nat := fieldN va 56 0 / 2 ^ (12 + 9 * level)

/-- Adds a table descriptor to the walk cache, unless ruled mode is in force (R208, R246). -/
def walkCacheAdd (s : State) (asid : BitVec 16) (level : Nat) (va d : W64) : State :=
  if s.c.ruledAct then s
  else
    let e : WalkEntry := ⟨asid, level, walkTag level va, d⟩
    { s with ca := { s.ca with walkc := (e :: s.ca.walkc.filter (· ≠ e)).take 64 } }

/-- The result of a translation. -/
inductive Tr where
  | ok (s : State) (pa : Nat) (ty : MType)
  | bad (s : State) (code : Byte) (sub : BitVec 4)

/-- The memory type of an access to a physical address: vellum pages are not cached (R161). -/
def effType (s : State) (pa : Nat) (ty : MType) : MType :=
  if ty = .cacheable ∧ inVellum s pa then .uncacheable else ty

/-- Reads the descriptor at a, allocating a cacheable line in L2 (R241); none: a walk-bus-error, whose record is posted. -/
def walkRead (s : State) (a : Nat) (ty : BitVec 2) : State × Option W64 :=
  match readCheck s (ty = 0) a 8 with
  | (s1, some _) => (s1, none)
  | (s1, none) =>
    let s2 := if ty = 0 ∧ ¬ inVellum s1 a then fillL2 s1 (lineNo a) false else s1
    (s2, some (read64 s2 (ty = 0) a))

/-- Writes back a descriptor whose A or D the walker sets (R240, R350). -/
def walkWrite (s : State) (a : Nat) (ty : BitVec 2) (d : W64) : State :=
  agentWrite s .other (if ty = 0 then .cacheable else .uncacheable) a (toBytes 8 d)

/-- The walkers of a kind of requester: 2 of the core, 8 of the stream engine, 4 of the scribes (R171, R181, R245). -/
def walkClass : WalkReq → Nat × Nat
  | .core _ => (0, 2)
  | .stream _ _ | .tile _ _ => (1, 8)
  | .scribe _ _ _ => (2, 4)

/-- The walkers that serve a translation cache. -/
def selClass : TlbSel → Nat × Nat
  | .data | .fetch => (0, 2)
  | .stream => (1, 8)
  | .scribe _ => (2, 4)

/-- Whether a miss must wait: for a walk in progress of its page, or for a walker (R171, R245). -/
def walkHeld (s : State) (sel : TlbSel) (ttb va : W64) : Bool :=
  let l := s.ca.walks.filter fun w => (walkClass w.req).1 == (selClass sel).1
  decide ((selClass sel).2 ≤ l.length) || l.any fun w => ttbAsid w.ttb == ttbAsid ttb && w.va.toNat / 4096 == va.toNat / 4096

/-- The code that stands for an access that must wait: no exception has it. -/
def waitCode : Byte := 0xFF

/-- The walk of R239 from a level down. A walker's swap waits while the mirror engine holds its granule (R353). -/
def walkFrom (ak : Ak) (ring : BitVec 2) (ttb va : W64) (level table : Nat) (ty : BitVec 2) (s : State) : Nat → Tr ⊕ (State × W64 × Nat)
  | 0 => .inl (.bad s 5 3)
  | fuel + 1 =>
    if ty = 2 then .inl (.bad s 7 0)
    else
      let a := descAddr table level va
      match walkRead s a ty with
      | (s1, none) => .inl (.bad s1 6 0)
      | (s1, some d) =>
        match walkDesc ak ring level d with
        | .bad sub => .inl (.bad s1 5 sub)
        | .down t ty' => walkFrom ak ring ttb va (level - 1) t ty' (walkCacheAdd s1 (ttbAsid ttb) level va d) fuel
        | .leaf n p =>
          if n = d then .inr (s1, n, p)
          else match heldGranules s1 a 8 with
            | [] => .inr (walkWrite s1 a ty n, n, p)
            | g :: gs => .inl (.bad (askGranules s1 (g :: gs)) waitCode 0)

/-- Where a walk begins: below the deepest walk-cache entry that covers the address, else at the root (R239, R246). -/
def walkStart (s : State) (ttb va : W64) : Nat × Nat × BitVec 2 :=
  let root := ttbLevels ttb + 1
  let hit (l : Nat) := s.ca.walkc.find? fun e => e.asid == ttbAsid ttb && e.level == l && e.tag == walkTag l va
  let try1 (l : Nat) (k : Option (Nat × Nat × BitVec 2)) : Option (Nat × Nat × BitVec 2) :=
    match k with
    | some x => some x
    | none => if l ≤ root then (hit l).map fun e => (l - 1, fieldN e.desc 55 12 * 4096, BitVec.ofNat 2 (fieldN e.desc 3 2)) else none
  match (if s.c.ruledAct then none else try1 4 (try1 3 (try1 2 (try1 1 none)))) with
  | some x => x
  | none => (root, fieldN ttb 43 0 * 4096, BitVec.ofNat 2 (fieldN ttb 63 62))

/-- A whole walk with its installation (R239, R245). -/
def walk (sel : TlbSel) (ak : Ak) (ring : BitVec 2) (ttb va : W64) (s : State) : Tr :=
  if walkHeld s sel ttb va then .bad s waitCode 0
  else
  let (level, table, ty) := walkStart s ttb va
  match walkFrom ak ring ttb va level table ty s 6 with
  | .inl r => r
  | .inr (s1, n, p) =>
    let e := leafEntry ttb va n p
    let s2 := installL2 (installIn s1 sel e va) e va
    let pa := fieldN n 55 12 * 4096 / 2 ^ p * 2 ^ p + va.toNat % 2 ^ p
    .ok s2 pa (effType s2 pa (leafType n))

/-- Translation of an access (R231, R239, R242, R243, R246): a cached entry serves it where its rights suffice and, for a write, D is 1. -/
def translate (sel : TlbSel) (ak : Ak) (ring : BitVec 2) (ttb va : W64) (s : State) : Tr :=
  if canonical ttb va = false then .bad s 5 1
  else if ttbLevels ttb = 0 then
    .ok s va.toNat (if ak = .fetch then .uncacheable else .device)
  else
    let asid := ttbAsid ttb
    match (tlbOf s sel).find? (entryHits (tlbSets sel) asid va) with
    | some e =>
      if (rightsFault e.leaf ak ring).isNone ∧ (akWrites ak = false ∨ bit e.leaf 8 = true) then
        let pa := fieldN e.leaf 55 12 * 4096 / 2 ^ e.p * 2 ^ e.p + va.toNat % 2 ^ e.p
        .ok s pa (effType s pa (leafType e.leaf))
      else walk sel ak ring ttb va (setTlb s sel ((tlbOf s sel).erase e))
    | none =>
      match s.ca.l2tlb.find? (entryHits (some 9) asid va) with
      | some e =>
        if (rightsFault e.leaf ak ring).isNone ∧ (akWrites ak = false ∨ bit e.leaf 8 = true) then
          let pa := fieldN e.leaf 55 12 * 4096 / 2 ^ e.p * 2 ^ e.p + va.toNat % 2 ^ e.p
          .ok (installIn s sel e va) pa (effType s pa (leafType e.leaf))
        else walk sel ak ring ttb va { s with ca := { s.ca with l2tlb := s.ca.l2tlb.erase e } }
      | none => walk sel ak ring ttb va s

/-- The forms of TLBI (R248). -/
inductive TlbiForm where
  | all
  | asid (a : BitVec 16)
  | va (va : W64) (a : BitVec 16)
  | vaall (va : W64)
  deriving DecidableEq, Repr

/-- Whether an entry covers a VA's bits [56:12] (R248). -/
def covers (va : W64) (e : TlbEntry) : Bool := fieldN va 56 0 / 2 ^ e.p == fieldN e.base 56 0 / 2 ^ e.p

/-- Whether a TLBI removes a leaf entry (R248). -/
def tlbiLeaf (f : TlbiForm) (e : TlbEntry) : Bool :=
  match f with
  | .all => true
  | .asid a => !bit e.leaf 6 && e.asid == a
  | .va v a => (bit e.leaf 6 || e.asid == a) && covers v e
  | .vaall v => covers v e

/-- Whether a TLBI removes a walk-cache entry (R248). -/
def tlbiWalk (f : TlbiForm) (e : WalkEntry) : Bool :=
  match f with
  | .all => true
  | .asid a => e.asid == a
  | .va v a => e.asid == a && e.tag == walkTag e.level v
  | .vaall v => e.tag == walkTag e.level v

/-- A walk in progress set back to its root (R249). -/
def walkRestart (w : Walk) : Walk :=
  { w with level := ttbLevels w.ttb + 1, table := fieldN w.ttb 43 0 * 4096, ty := BitVec.ofNat 2 (fieldN w.ttb 63 62) }

/-- The removal of R248 from every translation cache, with every walk in progress restarted (R249). -/
def tlbiRemove (f : TlbiForm) (s : State) : State :=
  let keep := fun (l : List TlbEntry) => l.filter fun e => !tlbiLeaf f e
  { s with ca := { s.ca with
      itlb := keep s.ca.itlb
      dtlb := keep s.ca.dtlb
      l2tlb := keep s.ca.l2tlb
      stlb := keep s.ca.stlb
      scrTlb := vmap keep s.ca.scrTlb
      walkc := s.ca.walkc.filter fun e => !tlbiWalk f e
      walks := s.ca.walks.map walkRestart } }

end Sys2Proof.Machine
end

