-- ==== Sys2Proof/Machine/Ops.lean ====
section
/-! DEFINITION. The shared operations of the general core: registers, taking an exception or an interrupt, double and third faults, the returns, and the frame in which every instruction runs (R33, R60, R204, R260 to R288). -/
namespace Sys2Proof.Machine

/-- Who executes an instruction: the general core, or a thread of a scribe (R184). -/
inductive Who where
  | core
  | scribe (s : ScribeNum) (t : Fin 128)
  deriving DecidableEq, Repr

/-- A condition that an instruction raises (R272). phys is the physical address that a scribe reports (R192); code 0 stands for the scribe's MEMTYPE,
and waitCode for an access that waits. -/
structure Exc where
  code : Byte
  sub : BitVec 4 := 0
  acc : Acc := .none
  addr : W64 := 0
  phys : W64 := 0
  deriving DecidableEq, Repr

/-- What the execution of one instruction comes to. -/
inductive Res where
  /-- Complete: the pc moves past the instruction. -/
  | ok (b : Bank) (s : State)
  /-- Complete, with the pc set. -/
  | jump (b : Bank) (s : State)
  /-- Complete, with the banks set in the state. -/
  | done (s : State)
  /-- An exception; the bank holds the progress made. -/
  | exc (e : Exc) (b : Bank) (s : State)
  /-- The instruction waits at the ROB head. -/
  | wait (s : State)
  /-- The instruction does not retire, and the state stands as given: a trap of its own (R305), or the end of a scribe thread (R185). -/
  | trap (s : State)
  deriving DecidableEq, Repr

/-- The meaning of an instruction for its executor. -/
abbrev Body := Who → Bank → State → Res

/-- An outcome of an event of the environment: nothing happens where its condition does not hold (log 1), while reset is asserted only the
release of the reset and the test port act (R436), and with the functional state undefined the command faults (R438). -/
def event (s : State) (r : Option State) : Host.Outcome State Fault Refusal :=
  if s.test.undef then .fault .functionalStateUndefined
  else if s.win.coldLow then .next s
  else .next (r.getD s)

/-- An event that is a change of an input pin: while reset is asserted only the pin changes. -/
def pinEvent (s low : State) (r : Option State) : Host.Outcome State Fault Refusal :=
  if s.test.undef then .fault .functionalStateUndefined
  else if s.win.coldLow then .next low
  else .next (r.getD s)

/-- The executing bank. -/
def curBank (s : State) : Bank := s.banks[s.c.cur]

/-- Replaces the executing bank. -/
def setCur (s : State) (b : Bank) : State := { s with banks := s.banks.set s.c.cur.val b s.c.cur.isLt }

/-- Replaces a bank. -/
def setBank (s : State) (k : BankNum) (b : Bank) : State := { s with banks := s.banks.set k.val b k.isLt }

/-- RING of FL (R33). -/
def flRing (fl : W64) : BitVec 2 := BitVec.ofNat 2 (fieldN fl 9 8)
/-- FL with another ring. -/
def setRing (fl : W64) (r : BitVec 2) : W64 := setField fl 9 8 r.toNat
/-- FL with another IE. -/
def setIe (fl : W64) (v : Bool) : W64 := setBit fl 10 v
/-- The fields of FL that exist (R33). -/
def flMask (x : W64) : W64 := x &&& 0x70F

/-- The current ring. -/
def ringOf (b : Bank) : BitVec 2 := flRing b.fl

/-- Reads a general register. -/
def rg (b : Bank) (r : GReg) : W64 := b.g[r]

/-- Writes a general register: its group becomes dirty (R294), and a long result that was on its way to it is no longer its value (R203). -/
def wg (b : Bank) (r : GReg) (x : W64) : Bank :=
  { b with
    g := b.g.set r.val x r.isLt
    dirty := setBit b.dirty (r.val / 8) true
    longs := b.longs.filter fun l => match l with
      | .g k _ => k ≠ r
      | _ => true }

/-- Writes a vector register (R34, R294). -/
def wv (b : Bank) (r : VReg) (x : VWord) : Bank :=
  { b with
    v := b.v.set r.val x r.isLt
    dirty := setBit b.dirty (8 + r.val) true
    longs := b.longs.filter fun l => match l with
      | .v k _ => k ≠ r
      | _ => true }

/-- Writes a mask register (R34, R294). -/
def wm (b : Bank) (r : MReg) (x : MWord) : Bank :=
  { b with m := b.m.set r.val x r.isLt, dirty := setBit b.dirty 40 true }

/-- Marks the control group as written (R294). -/
def touchCtl (b : Bank) : Bank := { b with dirty := setBit b.dirty 4 true }

/-- Writes FL. -/
def wfl (b : Bank) (x : W64) : Bank := touchCtl { b with fl := x }

/-- The value that a long operation gives to a general register: at once for a scribe thread, through its unit for the core (R203). -/
def longG (w : Who) (b : Bank) (r : GReg) (x : W64) : Bank :=
  match w with
  | .core => let b' := wg b r b.g[r]
             { b' with longs := b'.longs ++ [.g r x] }
  | .scribe _ _ => wg b r x

/-- The value that a long operation gives to a vector register (R203). -/
def longV (w : Who) (b : Bank) (r : VReg) (x : VWord) : Bank :=
  match w with
  | .core => let b' := wv b r b.v[r]
             { b' with longs := b'.longs ++ [.v r x] }
  | .scribe _ _ => wv b r x

/-- Asks for a warm reset; requests merge (R436, R458, R459). -/
def requestWarm (s : State) : State := { s with win := { s.win with wrst := true } }

/-- The code of ACC (R271). -/
def accCode : Acc → Nat
  | .none => 0
  | .read => 1
  | .write => 2
  | .fetch => 3

/-- A cause word (R271). -/
def causeWord (code : Byte) (sub : BitVec 4) (acc : Acc) (pipl : BitVec 4) : W64 :=
  place 64 code.toNat 0 ||| place 64 sub.toNat 8 ||| place 64 (accCode acc) 12 ||| place 64 pipl.toNat 16

/-- The outcome of a read of a vector entry: the reason code of R287, or the entry. -/
inductive VecRead where
  | bad (reason : BitVec 4)
  | good (e : W64)
  deriving DecidableEq, Repr

/-- The physical address of vector entry v (R268). -/
def vecAddr (s : State) (v : Byte) : Nat := fieldN s.c.vtbase 55 11 * 2048 + 8 * v.toNat

/-- Reads a vector entry (R268, R269, R287). -/
def vecRead (s : State) (v : Byte) : State × VecRead :=
  let a := vecAddr s v
  let coh := !bit s.c.vtbase 0 || s.c.ruledAct
  match readCheck s coh a 8 with
  | (s0, some _) => (s0, .bad 1)
  | (s0, none) =>
    let s1 := if bit s0.c.vtbase 0 || s0.c.ruledAct || inVellum s0 a then s0 else fillL2 s0 (lineNo a) false
    let e := read64 s1 coh a
    (s1, if bit e 63 && !bit e 1 && fieldN e 62 58 == 0 then .good e else .bad 2)

/-- The handler address of a vector entry (R269). -/
def handlerPc (e : W64) : W64 := sext64 57 (fieldN e 56 2 * 4)

/-- What a fault during double-fault entry does: a fatal record that names the original vector, and a warm reset (R288). -/
def thirdFaultOf (s : State) (pc : W64) (vec : Byte) : State := requestWarm (postRecord s 0x10 0x00 2 pc (vec.setWidth 24) false 0)

/-- A fault during double-fault entry (R288). -/
def thirdFault (s : State) : State := thirdFaultOf s s.c.xpc (s.c.xaddr.setWidth 8)

/-- What an entry replaces, for a double fault or a takeover of it (R285, R287). -/
def freshOf (s : State) (vec : Byte) (pc fl : W64) : Fresh :=
  ⟨vec, pc, fl, s.c.ipl, s.c.hold, isPending s vec, s.c.cxpc, s.c.cxfl, s.c.cxcause, s.c.cxaddr⟩

/-- A general register whose long result is on its way, once it has come (R203). -/
def awaitG (b : Bank) (r : GReg) : Bank :=
  let (now, rest) := b.longs.partition fun l => match l with
    | .g k _ => k == r
    | .v _ _ => false
  now.foldl (fun b l => match l with
    | .g k x => { b with g := b.g.set k.val x k.isLt }
    | .v _ _ => b) { b with longs := rest }

/-- A fault during the entry of a vector, with the pc and the FL of before; the exchange awaits a long result of g31 (R203, R287). -/
def doubleFaultAt (s : State) (reason : BitVec 4) (vec : Byte) (pc fl : W64) : State :=
  let b := awaitG (curBank s) 31
  let fl' := setIe (setRing fl 0) false
  let s1 := { s with
    stall := none
    c := { s.c with
      xpc := pc, xfl := fl, xcause := causeWord 0x11 reason .none s.c.ipl, xaddr := BitVec.ofNat 64 vec.toNat
      dfstack := b.g[31], entry := none, dfOpen := true, fresh := none } }
  let s2 := setCur s1 { b with g := b.g.set 31 s.c.dfstack, fl := fl' }
  match vecRead s2 0x11 with
  | (s3, .bad _) => thirdFault s3
  | (s3, .good e) =>
    let s4 := setCur s3 { curBank s3 with pc := handlerPc e }
    { s4 with c := { s4.c with fresh := some (freshOf s 0x11 pc fl) } }

/-- What an ordinary entry reports and does besides (R274). -/
structure EntryReq where
  vec : Byte
  sub : BitVec 4 := 0
  acc : Acc := .none
  addr : W64 := 0
  /-- The level of an interrupt. -/
  level : Option (BitVec 4) := none
  /-- A privilege-return fault of RETX or RETX.C, which keeps XPC, XFL and PIPL (R276). -/
  keep : Bool := false
  deriving DecidableEq, Repr

/-- HOLDMAX.MAX (R277). -/
def holdMaxOf (s : State) : Nat := fieldN s.c.holdmax 12 0

/-- Ordinary entry, of an exception or of an interrupt (R274): the resume pc is the executing bank's pc. -/
def ordinaryEntry (s : State) (q : EntryReq) : State :=
  let b := curBank s
  match vecRead s q.vec with
  | (s1, .bad r) => doubleFaultAt s1 r q.vec b.pc b.fl
  | (s1, .good e) =>
    let ring := if q.vec = 0x0B then ringOf b else if bit e 57 ∧ ringOf b ≠ 0 then 1 else 0
    let hold := bit e 0 && holdMaxOf s != 0
    let fl1 := setRing b.fl ring
    let c := s1.c
    let c1 := if q.keep then
        { c with xcause := causeWord q.vec q.sub q.acc (BitVec.ofNat 4 (fieldN c.xcause 19 16)), xaddr := q.addr }
      else { c with xpc := b.pc, xfl := b.fl, xcause := causeWord q.vec q.sub q.acc c.ipl, xaddr := q.addr }
    let c2 := { c1 with
      ipl := q.level.getD c.ipl
      hold := c.hold || hold
      holdVec := if hold && !c.hold then q.vec else c.holdVec
      fresh := some (freshOf s q.vec b.pc b.fl), dfOpen := false, entry := none }
    setCur { s1 with c := c2, stall := none } { b with fl := if hold then fl1 else setIe fl1 false, pc := handlerPc e }

/-- Raises an exception of the executing bank, given with its progress (R274). -/
def raise (e : Exc) (s : State) : State :=
  ordinaryEntry s { vec := e.code, sub := e.sub, acc := e.acc, addr := e.addr, keep := e.code == 0x0B && (e.sub == 1 || e.sub == 4) }

/-- CXCAUSE.ACT (R271). -/
def critActive (s : State) : Bool := bit s.c.cxcause 20

/-- Critical entry (R284). -/
def criticalEntryOf (s : State) (v : Byte) : State :=
  let b := curBank s
  let s0 := { s with c := { s.c with cxcause := setBit s.c.cxcause 20 true } }
  match vecRead s0 v with
  | (s1, .bad r) => doubleFaultAt s1 r v b.pc b.fl
  | (s1, .good e) =>
    let s2 := setPending s1 v false
    setCur { s2 with
      stall := none
      c := { s2.c with
        cxpc := b.pc, cxfl := b.fl, cxaddr := 0
        cxcause := setBit (causeWord v 0 .none s2.c.ipl) 20 true
        fresh := some { freshOf s v b.pc b.fl with cxcause := s0.c.cxcause }, dfOpen := false, entry := none } }
      { b with fl := setRing b.fl 0, pc := handlerPc e }

/-- The level of a vector (R279). -/
def levelOf (s : State) (v : Byte) : BitVec 4 :=
  if 0x20 ≤ v.toNat then
    let i := v.toNat / 16 - 2
    if h : i < 14 then BitVec.ofNat 4 (fieldN s.c.ilevel[i] (4 * (v.toNat % 16) + 3) (4 * (v.toNat % 16))) else 0
  else 0

/-- The critical vector that R281 selects. -/
def selectCrit (s : State) : Option Byte :=
  if critActive s then none else [0x20, 0x21, 0x22].find? (isPending s ·)

/-- The pending non-critical vectors, in rising order. -/
def pendingOrd (s : State) : List Byte :=
  ((List.range 256).map (BitVec.ofNat 8)).filter fun v => validVec v.toNat && !critVec v.toNat && isPending s v

/-- The interrupt that R281 would take if interrupts were enabled, with its level. -/
def selectOrd (s : State) : Option (Byte × BitVec 4) :=
  let vs := pendingOrd s
  let l := vs.foldl (fun m v => max m (levelOf s v).toNat) 0
  if s.c.ipl.toNat < l then (vs.find? fun v => (levelOf s v).toNat = l).map fun v => (v, BitVec.ofNat 4 l) else none

/-- Whether an enabled breakpoint matches the next instruction (R440, R441). -/
def breakpointAt (s : State) (k : Fin 4) : Bool :=
  s.dbg.bpen && bit s.cfg.options 1 && bit s.dbg.bps[k] 0 && fieldN s.dbg.bps[k] 56 2 == fieldN (curBank s).pc 56 2

/-- A breakpoint is due before the next instruction, which is not the first after a resume (R441). -/
def breakpointDue (s : State) : Bool := !s.dbg.skip && (List.finRange 4).any (breakpointAt s)

/-- Whether the general core executes instructions: CORE is clocked, the core is neither halted, nor due to halt, nor in reset, and its bank
is RUN. -/
def coreRuns (s : State) : Bool :=
  domRuns s dCore && !s.dbg.halted && !s.dbg.stepDone && !breakpointDue s && !s.win.wrst && !s.win.warmHigh && (curBank s).st == .run

/-- Undefined-instruction for a command's words (R17, R272): a repeat prefix reports its own word alone. -/
def undefExc (c : Instr) : Exc :=
  match encodeWords c with
  | some (w1, w2) => { code := 0x01, addr := (if fieldN w1 31 27 = 0x1C then 0 else w2) ++ w1 }
  | none => { code := 0x01 }

/-- Privileged-register for an instruction (R257, R272). -/
def privExc : Exc := { code := 0x02 }

/-- What the completion of an instruction ends: its stall, the entry's windows, and the debug module's first-instruction mark. -/
def retire (s : State) : State :=
  { s with
    stall := none
    c := { s.c with fresh := none, dfOpen := false, entry := none }
    dbg := { s.dbg with skip := false, stepDone := s.dbg.stepping } }

/-- The instruction at the ROB head has performed an element: the entry's windows end with its first instruction. -/
def begun (s : State) : State := { s with c := { s.c with fresh := none, dfOpen := false, entry := none } }

/-- SVMPROG with a stop at a group (R298). -/
def svmStop (s : State) (load : Bool) (i : Nat) : State :=
  { s with c := { s.c with svmprog := place 64 i 0 ||| placeB 64 true 6 ||| placeB 64 load 7, xfer := none } }

/-- An interrupt meets a save or load of a bank at the ROB head: SVMPROG takes its progress (R297). -/
def keepXfer (s : State) : State :=
  match s.c.xfer, s.stall with
  | some (i, _), some (.svm _ _) | some (i, _), some (.svh _ _) => svmStop s false i
  | some (i, _), some (.ldm _ _) | some (i, _), some (.ldh _ _) => svmStop s true i
  | _, _ => s

/-- Whether WAITI ends: some vector is pending that R281 would take if FL.IE were 1 (R283). -/
def waitiEnds (s : State) : Bool := (selectCrit s).isSome || (!s.c.hold && (selectOrd s).isSome)

/-- The state before an interrupt entry, for a takeover (R285). -/
def windowOf (s : State) (v : Byte) (crit : Bool) : EntryWin :=
  let b := curBank s
  ⟨v, crit, b.pc, b.fl, s.c.ipl, s.c.xpc, s.c.xfl, s.c.xcause, s.c.xaddr, s.c.cxpc, s.c.cxfl, s.c.cxcause, s.c.cxaddr, s.c.hold, isPending s v⟩

/-- An interrupt meets the instruction at the ROB head: a WAITI that the pending vector ends retires first, and the progress of a save or load of
a bank is kept (R283, R297). -/
def atBoundary (s : State) : State :=
  if s.stall = some .waiti ∧ waitiEnds s = true then
    let b := curBank s
    retire (setCur s { b with pc := b.pc + 4 })
  else keepXfer s

/-- XADDR of an interrupt: the data of the last message to a message-signalled vector (R280). DESIGN CHOICE (log 49): the same where ISET and no
message has set the bit; the spec gives no data for that entry. -/
def msiXaddr (s : State) (v : Byte) : W64 :=
  if 0x80 ≤ v.toNat then (s.c.msiData[Fin.ofNat 128 (v.toNat - 0x80)]).setWidth 64 else 0

/-- A wired vector (R280). -/
def wiredVec (v : Byte) : Bool := 0x40 ≤ v.toNat && v.toNat < 0x80

/-- The entry of a non-critical interrupt; a wired source keeps its pending bit (R274, R280). -/
def interruptEntryOf (s : State) (v : Byte) (l : BitVec 4) : State :=
  let s0 := atBoundary s
  let w := windowOf s0 v false
  let s1 := ordinaryEntry s0 { vec := v, addr := msiXaddr s0 v, level := some l }
  if s1.c.dfOpen then s1
  else
    let s2 := if wiredVec v then s1 else setPending s1 v false
    { s2 with c := { s2.c with entry := some w } }

/-- The critical entry with its window (R284, R285). -/
def criticalEntryWin (s : State) (v : Byte) : State :=
  let s0 := atBoundary s
  let w := windowOf s0 v true
  let s1 := criticalEntryOf s0 v
  if s1.c.dfOpen then s1 else { s1 with c := { s1.c with entry := some w } }

/-- The interrupt that R281 takes at a point where one may be taken: its vector, and its level where it is not critical. -/
def interruptAt (s : State) : Option (Byte × Option (BitVec 4)) :=
  match selectCrit s with
  | some v => some (v, none)
  | none => if bit (curBank s).fl 10 && !s.c.hold then (selectOrd s).map fun p => (p.1, some p.2) else none

/-- The entry of an interrupt (R274, R284). -/
def enterInterrupt (s : State) : Byte × Option (BitVec 4) → State
  | (v, none) => criticalEntryWin s v
  | (v, some l) => interruptEntryOf s v l

/-- The interrupt that is taken before the core executes anything more: at an instruction boundary and in a wait, but a WAITI that it ends
retires first, and a vector store part of which is in the store buffer is completed (R225, R273, R281, R283). -/
def interruptDue (s : State) : Option (Byte × Option (BitVec 4)) :=
  if s.stall = some .waiti ∨ s.ca.sbLast.isSome = true then none else interruptAt s

/-- The state after an instruction of the executing bank that began with bank b has come to a result. -/
def settle (c : Instr) (b : Bank) : Res → State
  | .ok b' s' => retire (setCur s' { b' with pc := b.pc + BitVec.ofNat 64 (instrBytes c) })
  | .jump b' s' => retire (setCur s' b')
  | .done s' => retire s'
  | .exc e b' s' => if e.code = waitCode then { setCur s' b' with stall := some c } else raise e (setCur s' b')
  | .wait s' => { s' with stall := some c }
  | .trap s' => s'

end Sys2Proof.Machine
end

