-- ==== Sys2Proof/Machine/Operands.lean ====
section
/-! DEFINITION. Operand forms: the registers that an instruction reads, the second ALU operand, effective addresses, vector elements and masks, and the frame of an instruction of the general core (R35, R43, R45, R203, R461, R464). -/
namespace Sys2Proof.Machine

/-- General registers as sources. -/
def gs (l : List GReg) : List LongDst := l.map .g
/-- Vector registers as sources. -/
def vs (l : List VReg) : List LongDst := l.map .v

/-- The sources of the second ALU operand. -/
def opndReads : Opnd → List LongDst
  | .reg rb => [.g rb]
  | .imm _ => []

/-- The sources of a scalar address. -/
def saddrReads : SAddr → List LongDst
  | .base ga _ | .post ga | .pre ga => [.g ga]
  | .idx ga gb _ => [.g ga, .g gb]

/-- The sources of a vector address. -/
def vaddrReads : VAddr → List LongDst
  | .base ga _ | .post ga | .pre ga => [.g ga]
  | .idx ga gb _ => [.g ga, .g gb]

/-- The sources of a governed instruction. -/
def governedReads : Governed → List LongDst
  | .mu load r ga _ _ => if load then gs [ga] else gs [r, ga]
  | .vec _ v a _ _ => .v v :: vaddrReads a
  | .other _ => []

/-- The general and vector registers that an instruction reads, its partly written destination among them (R203). -/
def reads : Instr → List LongDst
  | .add _ ra op _ _ | .sub _ ra op _ _ | .and _ ra op _ _ | .or _ ra op _ _ | .xor _ ra op _ _ | .andn _ ra op _ _
  | .shl _ ra op _ _ | .shr _ ra op _ _ | .sar _ ra op _ _ | .ror _ ra op _ _ | .mul _ ra op _ _ | .mulh _ ra op _ _
  | .mulhu _ ra op _ _ | .cmp ra op _ _ | .min _ ra op _ _ | .max _ ra op _ _ => .g ra :: opndReads op
  | .div _ ra rb _ _ | .divu _ ra rb _ _ | .rem _ ra rb _ _ | .remu _ ra rb _ _ => gs [ra, rb]
  | .clz _ ra _ _ | .popc _ ra _ _ => gs [ra]
  | .imi rd _ _ => gs [rd]
  | .load _ a _ => saddrReads a
  | .store rs a _ => .g rs :: saddrReads a
  | .lda _ ga _ => gs [ga]
  | .stl rs ga _ => gs [rs, ga]
  | .cas _ ga rb rc _ _ _ => gs [ga, rb, rc]
  | .aadd _ ga rb _ _ _ _ => gs [ga, rb]
  | .tlbiAsid gb _ => gs [gb]
  | .tlbiVa ga gb _ => gs [ga, gb]
  | .tlbiVaall ga _ => gs [ga]
  | .br ra => gs [ra]
  | .callr ra => gs [ra, 31]
  | .call _ | .ret | .callg _ | .retg | .sysc => gs [31]
  | .sysr => gs [30]
  | .sspush ga => gs [ga]
  | .sspinc gb => gs [gb]
  | .mtc rs _ | .mtb rs _ => gs [rs]
  | .svm ga gm | .ldm ga gm => gs [ga, gm]
  | .svh ga _ | .ldh ga _ => gs [ga]
  | .tally _ g _ => gs [g]
  | .rep gc i => .g gc :: governedReads i
  | .repn _ i => governedReads i
  | .tcfgReg _ ga => gs [ga]
  | .tld _ ga gb gc _ | .tst _ ga gb gc _ => gs [ga, gb, gc]
  | .brun _ gr _ _ => gs [gr]
  | .iclr gr gc => gs [gr, gc]
  | .idrainTile gr _ _ => gs [gr]
  | .idrainVector gr vd _ => [.g gr, .v vd]
  | .idrainMemory gr ga gb _ _ => gs [gr, ga, gb]
  | .smove _ ga => gs [ga]
  | .sqctlClear _ g | .sqctlRestart _ g | .sqctlRestartAt _ g | .sqctlAbandon _ g => gs [g]
  | .slaunch _ gn => gs [gn]
  | .vadd vd va vb _ _ | .vsub vd va vb _ _ | .vmul vd va vb _ _ | .vmin vd va vb _ _ | .vmax vd va vb _ _ | .vminu vd va vb _ _
  | .vmaxu vd va vb _ _ | .vand vd va vb _ _ | .vor vd va vb _ _ | .vxor vd va vb _ _ | .vshl vd va vb _ _ | .vshr vd va vb _ _
  | .vsar vd va vb _ _ | .vfadd vd va vb _ _ | .vfsub vd va vb _ _ | .vfmul vd va vb _ _ | .vfdiv vd va vb _ _
  | .vfmin vd va vb _ _ | .vfmax vd va vb _ _ | .vfma vd va vb _ _ | .vfnma vd va vb _ _ => vs [vd, va, vb]
  | .vfsqrt vd va _ _ | .vrsum vd va _ _ | .vrmax vd va _ _ | .vrmin vd va _ _ | .vradd vd va _ _ | .vcvt vd va _ _ _ _ => vs [vd, va]
  | .vcmpeq _ va vb _ _ | .vcmplt _ va vb _ _ | .vcmpltu _ va vb _ _ | .vfcmpeq _ va vb _ _ | .vfcmplt _ va vb _ _
  | .vfcmple _ va vb _ _ => vs [va, vb]
  | .vload v a _ _ | .vstore v a _ _ => .v v :: vaddrReads a
  | .vtrd vd _ gr | .vtwr vd _ gr | .vtrdS vd _ gr | .vtwrS vd _ gr => [.v vd, .g gr]
  | .vext _ va gb _ => [.v va, .g gb]
  | .vins vd g gb _ => [.v vd, .g g, .g gb]
  | .vsplat vd g _ => [.v vd, .g g]
  | _ => []

/-- Whether a long result on its way is the value of a source (R203). -/
def isPendingSrc (b : Bank) (d : LongDst) : Bool :=
  b.longs.any fun l => match l, d with
    | .g r _, .g k => r == k
    | .v r _, .v k => r == k
    | _, _ => false

/-- Whether an instruction must wait for a long result (R203). -/
def srcPending (c : Instr) (b : Bank) : Bool := (reads c).any (isPendingSrc b)

/-- The instruction that waits at the ROB head, when it is another one. -/
def stalledOther (s : State) (c : Instr) : Bool :=
  match s.stall with
  | some d => d != c
  | none => false

/-- An instruction of the general core: it runs in order at the ROB head, after an interrupt that is due; a command that is not well-formed is
undefined-instruction, and one whose source is on its way waits (R17, R203, R204, R273). -/
def issue (c : Instr) (body : Body) (s : State) : Host.Outcome State Fault Refusal :=
  if s.test.undef then .fault .functionalStateUndefined
  else if s.win.coldLow || !coreRuns s || stalledOther s c then .next s
  else match interruptDue s with
  | some p => .next (enterInterrupt s p)
  | none =>
    if !wellFormed c then .next (raise (undefExc c) s)
    else if srcPending c (curBank s) then .next { s with stall := some c }
    else .next (settle c (curBank s) (body .core (curBank s) s))

/-- The second ALU operand (R43). -/
def opndVal (b : Bank) : Opnd → W64
  | .reg rb => rg b rb
  | .imm i => i.signExtend 64

/-- The size in bytes of an access (R42). -/
def sizeBytes (sz : BitVec 3) : Nat :=
  match sz.toNat with
  | 0 | 1 => 1
  | 2 | 3 => 2
  | 4 | 5 => 4
  | _ => 8

/-- Whether a load sign-extends (R42). -/
def sizeSigned (sz : BitVec 3) : Bool := sz == 1 || sz == 3 || sz == 5

/-- The value that loaded bytes give to a register (R42). -/
def loadValue (sz : BitVec 3) (bs : List Byte) : W64 :=
  if sizeSigned sz then sext64 (8 * bs.length) (bytesNat bs) else ofBytes 64 bs

/-- The effective address of a scalar access (R45). -/
def saddr (b : Bank) (n : Nat) : SAddr → W64
  | .base ga imm => rg b ga + imm.signExtend 64 * BitVec.ofNat 64 n
  | .post ga => rg b ga
  | .pre ga => rg b ga - BitVec.ofNat 64 n
  | .idx ga gb s => rg b ga + rg b gb <<< s.toNat

/-- The base register after a scalar access (R45). -/
def saddrUpdate (b : Bank) (n : Nat) : SAddr → Bank
  | .post ga => wg b ga (rg b ga + BitVec.ofNat 64 n)
  | .pre ga => wg b ga (rg b ga - BitVec.ofNat 64 n)
  | _ => b

/-- The effective address of a vector access (R45, R464). -/
def vaddr (b : Bank) (n : Nat) : VAddr → W64
  | .base ga imm => rg b ga + imm.signExtend 64 * BitVec.ofNat 64 n
  | .post ga => rg b ga
  | .pre ga => rg b ga - BitVec.ofNat 64 n
  | .idx ga gb s => rg b ga + rg b gb <<< s.toNat

/-- The base register after a vector access (R45). -/
def vaddrUpdate (b : Bank) (n : Nat) : VAddr → Bank
  | .post ga => wg b ga (rg b ga + BitVec.ofNat 64 n)
  | .pre ga => wg b ga (rg b ga - BitVec.ofNat 64 n)
  | _ => b

/-- The bits of a vector register (R34, R184). -/
def vlen : Who → Nat
  | .core => 16384
  | .scribe _ _ => 1024

/-- The bits of a mask register (R34, R184). -/
def mlen : Who → Nat
  | .core => 2048
  | .scribe _ _ => 128

/-- The elements of w bits in a vector register. -/
def elems (k : Who) (w : Nat) : Nat := vlen k / w

/-- VL (R35). -/
def vlOf (b : Bank) : Nat := fieldN b.vl 11 0

/-- The active elements (R35). -/
def active (k : Who) (b : Bank) (w : Nat) : Nat := min (vlOf b) (elems k w)

/-- Whether an element is governed (R35). -/
def governed (b : Bank) (mk : Option MReg) (i : Nat) : Bool :=
  match mk with
  | none => true
  | some m => bit b.m[m] i

/-- Element i of w bits of a vector value. -/
def velem {n : Nat} (w : Nat) (x : BitVec n) (i : Nat) : Nat := (x.toNat >>> (w * i)) % 2 ^ w

/-- A vector value with element i replaced. -/
def setElem (w : Nat) (x : VWord) (i v : Nat) : VWord := setField x (w * i + w - 1) (w * i) v

/-- The elements below n that are governed. -/
def activeList (b : Bank) (mk : Option MReg) (n : Nat) : List Nat := (List.range n).filter (governed b mk)

/-- Replaces the listed elements by values. -/
def setElems (w : Nat) (x : VWord) (l : List (Nat × Nat)) : VWord := l.foldl (fun x p => setElem w x p.1 p.2) x

end Sys2Proof.Machine
end

