-- ==== Sys2Proof/Machine/Flags.lean ====
section
/-! DEFINITION. The results and the flags of the ALU (R33, R43). -/
namespace Sys2Proof.Machine

/-- The operations of the ALU (R43). -/
inductive Alu where
  | add | sub | and | or | xor | andn | shl | shr | sar | ror | mul | mulh | mulhu | cmp | min | max | div | divu | rem | remu | clz | popc
  deriving DecidableEq, Repr

/-- The signed value of w bits. -/
def sval (w x : Nat) : Int := if x < 2 ^ (w - 1) then (x : Int) else (x : Int) - 2 ^ w

/-- The low w bits of an integer. -/
def wrap (w : Nat) (x : Int) : Nat := (x % (2 ^ w : Int)).toNat

/-- An arithmetic right shift of w bits. -/
def sarNat (w x k : Nat) : Nat := wrap w (sval w x / 2 ^ k)

/-- A rotation to the right of w bits. -/
def rorNat (w x k : Nat) : Nat := (x / 2 ^ k + x * 2 ^ (w - k)) % 2 ^ w

/-- The leading zeros of w bits. -/
def clzNat (w x : Nat) : Nat := if x = 0 then w else w - 1 - Nat.log2 x

/-- The result of an operation on operands of w bits (R43). The amount of a shift is op modulo w. -/
def aluResult (f : Alu) (w x y : Nat) : Nat :=
  let k := y % w
  match f with
  | .add => (x + y) % 2 ^ w
  | .sub | .cmp => (x + 2 ^ w - y) % 2 ^ w
  | .and => x &&& y
  | .or => x ||| y
  | .xor => x ^^^ y
  | .andn => x &&& (2 ^ w - 1 - y)
  | .shl => x * 2 ^ k % 2 ^ w
  | .shr => x / 2 ^ k
  | .sar => sarNat w x k
  | .ror => rorNat w x k
  | .mul => x * y % 2 ^ w
  | .mulh => wrap w (sval w x * sval w y / 2 ^ w)
  | .mulhu => x * y / 2 ^ w
  | .min => if sval w x ≤ sval w y then x else y
  | .max => if sval w x ≤ sval w y then y else x
  | .div => if y = 0 then 2 ^ w - 1 else wrap w ((sval w x).tdiv (sval w y))
  | .divu => if y = 0 then 2 ^ w - 1 else x / y
  | .rem => if y = 0 then x else wrap w ((sval w x).tmod (sval w y))
  | .remu => if y = 0 then x else x % y
  | .clz => clzNat w x
  | .popc => popcount w x

/-- Whether a sum or a difference of signed values leaves the range of w bits. -/
def overflows (w : Nat) (x : Int) : Bool := x < -(2 ^ (w - 1)) || 2 ^ (w - 1) ≤ x

/-- C after an operation; none: unchanged (R33). -/
def aluCarry (f : Alu) (w x y : Nat) : Option Bool :=
  let k := y % w
  match f with
  | .add => some (decide (2 ^ w ≤ x + y))
  | .sub | .cmp => some (decide (x < y))
  | .and | .or | .xor | .andn => none
  | .shl => if k = 0 then none else some (x.testBit (w - k))
  | .shr | .sar | .ror => if k = 0 then none else some (x.testBit (k - 1))
  | _ => some false

/-- V after an operation; none: unchanged (R33). -/
def aluOverflow (f : Alu) (w x y : Nat) : Option Bool :=
  match f with
  | .add => some (overflows w (sval w x + sval w y))
  | .sub | .cmp => some (overflows w (sval w x - sval w y))
  | .and | .or | .xor | .andn | .shl | .shr | .sar | .ror => none
  | _ => some false

/-- FL after an operation that sets the flags (R33). -/
def aluFlags (fl : W64) (f : Alu) (w x y : Nat) : W64 :=
  let r := aluResult f w x y
  let fl := setBit fl 3 (r.testBit (w - 1))
  let fl := setBit fl 2 (r == 0)
  let fl := match aluCarry f w x y with
    | some c => setBit fl 1 c
    | none => fl
  match aluOverflow f w x y with
  | some v => setBit fl 0 v
  | none => fl

/-- The width of an operation: 32 for the W forms (R43). -/
def aluWidth (wf : Bool) : Nat := if wf then 32 else 64

/-- An operand cut to the width. -/
def cut (w : Nat) (x : W64) : Nat := x.toNat % 2 ^ w

end Sys2Proof.Machine
end

