-- ==== Sys2Proof/Machine/Alu.lean ====
section
/-! DEFINITION. The ALU instructions, the wide immediates, and the arrival of long results (R42, R43, R203). -/
namespace Sys2Proof.Machine

/-- An ALU instruction with a register result: rd and, in the S forms, the flags (R33, R43). -/
def aluBody (f : Alu) (rd ra : GReg) (op : Opnd) (sf wf : Bool) : Body := fun _ b s =>
  let w := aluWidth wf
  let x := cut w (rg b ra)
  let y := cut w (opndVal b op)
  let b1 := wg b rd (BitVec.ofNat 64 (aluResult f w x y))
  .ok (if sf then wfl b1 (aluFlags b.fl f w x y) else b1) s

/-- CMP: the flags of ra − op (R43). -/
def cmpBody (ra : GReg) (op : Opnd) (wf : Bool) : Body := fun _ b s =>
  let w := aluWidth wf
  .ok (wfl b (aluFlags b.fl .cmp w (cut w (rg b ra)) (cut w (opndVal b op)))) s

/-- Whether the divider is busy (R203). -/
def divBusy (b : Bank) : Bool := b.longs.any fun l => match l with
  | .g _ _ => true
  | .v _ _ => false

/-- A division: a long operation of the core's divider, one at a time (R43, R203). -/
def divBody (f : Alu) (rd ra rb : GReg) (sf wf : Bool) : Body := fun k b s =>
  if k = .core ∧ divBusy b = true then .wait s
  else
    let w := aluWidth wf
    let x := cut w (rg b ra)
    let y := cut w (rg b rb)
    let b1 := longG k b rd (BitVec.ofNat 64 (aluResult f w x y))
    .ok (if sf then wfl b1 (aluFlags b.fl f w x y) else b1) s

/-- CLZ and POPC: a result of ra alone (R43). -/
def countBody (f : Alu) (rd ra : GReg) (sf wf : Bool) : Body := fun _ b s =>
  let w := aluWidth wf
  let x := cut w (rg b ra)
  let b1 := wg b rd (BitVec.ofNat 64 (aluResult f w x 0))
  .ok (if sf then wfl b1 (aluFlags b.fl f w x 0) else b1) s

/-- IMZ: the lane of rd, every other bit zero (R42). -/
def imzBody (rd : GReg) (lane : BitVec 2) (imm : BitVec 16) : Body := fun _ b s =>
  .ok (wg b rd (place 64 imm.toNat (16 * lane.toNat))) s

/-- IMI: the lane of rd, every other bit kept (R42). -/
def imiBody (rd : GReg) (lane : BitVec 2) (imm : BitVec 16) : Body := fun _ b s =>
  .ok (wg b rd (setField (rg b rd) (16 * lane.toNat + 15) (16 * lane.toNat) imm.toNat)) s

/-- ADD: rd := ra + op (R43). -/
def execAdd (rd ra : GReg) (op : Opnd) (sf wf : Bool) (s : State) : Host.Outcome State Fault Refusal :=
  issue (.add rd ra op sf wf) (aluBody .add rd ra op sf wf) s

/-- SUB: rd := ra − op (R43). -/
def execSub (rd ra : GReg) (op : Opnd) (sf wf : Bool) (s : State) : Host.Outcome State Fault Refusal :=
  issue (.sub rd ra op sf wf) (aluBody .sub rd ra op sf wf) s

/-- AND (R43). -/
def execAnd (rd ra : GReg) (op : Opnd) (sf wf : Bool) (s : State) : Host.Outcome State Fault Refusal :=
  issue (.and rd ra op sf wf) (aluBody .and rd ra op sf wf) s

/-- OR (R43). -/
def execOr (rd ra : GReg) (op : Opnd) (sf wf : Bool) (s : State) : Host.Outcome State Fault Refusal :=
  issue (.or rd ra op sf wf) (aluBody .or rd ra op sf wf) s

/-- XOR (R43). -/
def execXor (rd ra : GReg) (op : Opnd) (sf wf : Bool) (s : State) : Host.Outcome State Fault Refusal :=
  issue (.xor rd ra op sf wf) (aluBody .xor rd ra op sf wf) s

/-- ANDN: rd := ra and not op (R43). -/
def execAndn (rd ra : GReg) (op : Opnd) (sf wf : Bool) (s : State) : Host.Outcome State Fault Refusal :=
  issue (.andn rd ra op sf wf) (aluBody .andn rd ra op sf wf) s

/-- SHL (R43). -/
def execShl (rd ra : GReg) (op : Opnd) (sf wf : Bool) (s : State) : Host.Outcome State Fault Refusal :=
  issue (.shl rd ra op sf wf) (aluBody .shl rd ra op sf wf) s

/-- SHR, logical (R43). -/
def execShr (rd ra : GReg) (op : Opnd) (sf wf : Bool) (s : State) : Host.Outcome State Fault Refusal :=
  issue (.shr rd ra op sf wf) (aluBody .shr rd ra op sf wf) s

/-- SAR, arithmetic (R43). -/
def execSar (rd ra : GReg) (op : Opnd) (sf wf : Bool) (s : State) : Host.Outcome State Fault Refusal :=
  issue (.sar rd ra op sf wf) (aluBody .sar rd ra op sf wf) s

/-- ROR (R43). -/
def execRor (rd ra : GReg) (op : Opnd) (sf wf : Bool) (s : State) : Host.Outcome State Fault Refusal :=
  issue (.ror rd ra op sf wf) (aluBody .ror rd ra op sf wf) s

/-- MUL: the low half of the product (R43). -/
def execMul (rd ra : GReg) (op : Opnd) (sf wf : Bool) (s : State) : Host.Outcome State Fault Refusal :=
  issue (.mul rd ra op sf wf) (aluBody .mul rd ra op sf wf) s

/-- MULH: the high half of the signed product (R43). -/
def execMulh (rd ra : GReg) (op : Opnd) (sf wf : Bool) (s : State) : Host.Outcome State Fault Refusal :=
  issue (.mulh rd ra op sf wf) (aluBody .mulh rd ra op sf wf) s

/-- MULHU: the high half of the unsigned product (R43). -/
def execMulhu (rd ra : GReg) (op : Opnd) (sf wf : Bool) (s : State) : Host.Outcome State Fault Refusal :=
  issue (.mulhu rd ra op sf wf) (aluBody .mulhu rd ra op sf wf) s

/-- MIN, signed (R43). -/
def execMin (rd ra : GReg) (op : Opnd) (sf wf : Bool) (s : State) : Host.Outcome State Fault Refusal :=
  issue (.min rd ra op sf wf) (aluBody .min rd ra op sf wf) s

/-- MAX, signed (R43). -/
def execMax (rd ra : GReg) (op : Opnd) (sf wf : Bool) (s : State) : Host.Outcome State Fault Refusal :=
  issue (.max rd ra op sf wf) (aluBody .max rd ra op sf wf) s

/-- CMP: flags only (R43). -/
def execCmp (ra : GReg) (op : Opnd) (sf wf : Bool) (s : State) : Host.Outcome State Fault Refusal :=
  issue (.cmp ra op sf wf) (cmpBody ra op wf) s

/-- DIV: the signed quotient, truncated toward zero (R43). -/
def execDiv (rd ra rb : GReg) (sf wf : Bool) (s : State) : Host.Outcome State Fault Refusal :=
  issue (.div rd ra rb sf wf) (divBody .div rd ra rb sf wf) s

/-- DIVU: the unsigned quotient (R43). -/
def execDivu (rd ra rb : GReg) (sf wf : Bool) (s : State) : Host.Outcome State Fault Refusal :=
  issue (.divu rd ra rb sf wf) (divBody .divu rd ra rb sf wf) s

/-- REM: the signed remainder (R43). -/
def execRem (rd ra rb : GReg) (sf wf : Bool) (s : State) : Host.Outcome State Fault Refusal :=
  issue (.rem rd ra rb sf wf) (divBody .rem rd ra rb sf wf) s

/-- REMU: the unsigned remainder (R43). -/
def execRemu (rd ra rb : GReg) (sf wf : Bool) (s : State) : Host.Outcome State Fault Refusal :=
  issue (.remu rd ra rb sf wf) (divBody .remu rd ra rb sf wf) s

/-- CLZ: leading zeros (R43). -/
def execClz (rd ra : GReg) (sf wf : Bool) (s : State) : Host.Outcome State Fault Refusal :=
  issue (.clz rd ra sf wf) (countBody .clz rd ra sf wf) s

/-- POPC: one bits (R43). -/
def execPopc (rd ra : GReg) (sf wf : Bool) (s : State) : Host.Outcome State Fault Refusal :=
  issue (.popc rd ra sf wf) (countBody .popc rd ra sf wf) s

/-- IMZ (R42). -/
def execImz (rd : GReg) (lane : BitVec 2) (imm : BitVec 16) (s : State) : Host.Outcome State Fault Refusal :=
  issue (.imz rd lane imm) (imzBody rd lane imm) s

/-- IMI (R42). -/
def execImi (rd : GReg) (lane : BitVec 2) (imm : BitVec 16) (s : State) : Host.Outcome State Fault Refusal :=
  issue (.imi rd lane imm) (imiBody rd lane imm) s

/-- The first result in a list that is on its way to a destination. -/
def longFor (d : LongDst) (l : LongRes) : Bool :=
  match l, d with
  | .g r _, .g k => r == k
  | .v r _, .v k => r == k
  | _, _ => false

/-- A bank after one of its long results has been written. -/
def longDone (b : Bank) (l : LongRes) : Bank :=
  match l with
  | .g r x => { b with g := b.g.set r.val x r.isLt, longs := b.longs.erase l }
  | .v r x => { b with v := b.v.set r.val x r.isLt, longs := b.longs.erase l }

/-- LONG_OP_RESULT: a unit writes the result of a long operation (R203). -/
def execLongOpResult (b : BankNum) (d : LongDst) (s : State) : Host.Outcome State Fault Refusal :=
  event s <| (s.banks[b].longs.find? (longFor d)).map fun l => setBank s b (longDone s.banks[b] l)

end Sys2Proof.Machine
end

