-- ==== Sys2Proof/Machine/Window.lean ====
section
/-! DEFINITION. The management window as it reads: the words of R427, and the alias through which the core's own agents reach them (R336, R338, R367 to R369, R384, R394, R420, R426 to R430, R440, R446, R451 to R456). -/
namespace Sys2Proof.Machine

/-- The code of QSTATE (R369). -/
def qstateCode : QState → Nat
  | .rom => 0
  | .run => 1
  | .restart => 2

/-- QSTAT (R369). -/
def qstatWord (s : State) : W32 :=
  let q := s.qu
  place 32 (qstateCode q.qstate) 0 ||| placeB 32 q.down 2 ||| placeB 32 q.hello 3 ||| place 32 q.rcount.toNat 4
    ||| place 32 q.epoch.toNat 8 ||| place 32 q.vmaj.toNat 16 ||| place 32 q.vmin.toNat 24

/-- MBX_OWN (R367). -/
def mbxOwnWord (s : State) : W32 := place 32 s.qu.hq.toNat 0 ||| place 32 s.qu.qh.toNat 8
/-- MBX_IRQ (R368). -/
def mbxIrqWord (s : State) : W32 := place 32 s.qu.ien.toNat 0 ||| placeB 32 s.qu.sien 4 ||| placeB 32 s.qu.schg 8
/-- The condition of MBX_INT (R368). -/
def mbxIntCond (s : State) : Bool := (s.qu.qh &&& s.qu.ien) != 0 || (s.qu.schg && s.qu.sien)

/-- CORE_STAT (R428). -/
def coreStatWord (s : State) : W32 :=
  placeB 32 s.win.wrst 0 ||| placeB 32 s.dbg.halted 1 ||| placeB 32 s.cfg.lock 2 ||| placeB 32 s.c.ruledAct 3 ||| place 32 s.c.cur.val 4

/-- ERR_PTR (R336). -/
def errPtrWord (s : State) : W32 := place 32 s.err.wr.toNat 0 ||| place 32 s.err.rd.toNat 16
/-- BLT_HEAD (R384). -/
def bltHeadWord (s : State) : W32 := place 32 s.qu.next.toNat 0 ||| place 32 s.qu.wraps.toNat 10

/-- The low and the high word of a doubleword. -/
def loWord (x : W64) : W32 := BitVec.ofNat 32 x.toNat
/-- The high word of a doubleword. -/
def hiWord (x : W64) : W32 := BitVec.ofNat 32 (x.toNat >>> 32)

/-- Configuration word w, by its offset (R451 to R456). -/
def cfgWord (s : State) (off : Nat) : W32 :=
  match off with
  | 0x1100 => s.cfg.coreid
  | 0x1104 => s.cfg.partner
  | 0x1108 => loWord s.cfg.vellumbase
  | 0x110C => hiWord s.cfg.vellumbase
  | 0x1110 => loWord s.cfg.mgmtbase
  | 0x1114 => hiWord s.cfg.mgmtbase
  | 0x1118 => loWord s.cfg.resetpc
  | 0x111C => hiWord s.cfg.resetpc
  | 0x1120 => s.cfg.options
  | 0x1124 => s.cfg.floor
  | 0x1128 => s.cfg.sparemap[0]
  | 0x112C => s.cfg.sparemap[1]
  | 0x1130 => s.cfg.sparemap[2]
  | 0x1134 => s.cfg.sparemap[3]
  | 0x1138 => s.cfg.fabric
  | 0x113C => placeB 32 s.cfg.lock 0
  | _ => 0

/-- The debug module answers (R440). -/
def dbgEn (s : State) : Bool := bit s.cfg.options 1

/-- A word of the debug module (R440). -/
def dbgWord (s : State) (off : Nat) : W32 :=
  let d := s.dbg
  match off with
  | 0xD000 => placeB 32 d.haltReq 0 ||| placeB 32 d.resume 1 ||| placeB 32 d.step 2 ||| placeB 32 d.bpen 3
  | 0xD004 => placeB 32 d.halted 0 ||| place 32 d.cause.toNat 1 ||| place 32 d.bp.toNat 3 ||| place 32 d.bank.val 5
  | 0xD008 => loWord d.pc
  | 0xD00C => hiWord d.pc
  | 0xD010 => place 32 d.item.toNat 0 ||| place 32 d.cbank.val 12 ||| placeB 32 d.write 14 ||| placeB 32 d.mem 15
      ||| placeB 32 d.busy 17 ||| place 32 d.err.toNat 18
  | 0xD018 => loWord d.data
  | 0xD01C => hiWord d.data
  | 0xD020 => loWord d.addr
  | 0xD024 => hiWord d.addr
  | _ =>
    if 0xD040 ≤ off ∧ off < 0xD060 then
      let x := d.bps[Fin.ofNat 4 ((off - 0xD040) / 8)]
      if off % 8 = 0 then loWord x else hiWord x
    else 0

/-- A byte of a list of 256-bit entries. -/
def entryByte (x : BitVec 256) (i : Nat) : Byte := BitVec.ofNat 8 (x.toNat >>> (8 * i))

/-- A stored FIFO record as a reader sees it: BAD is set when the entry has an uncorrectable word (R337). -/
def fifoEntry (s : State) (k : Nat) : BitVec 256 :=
  let r := spGet 0 s.err.fifo k
  if s.err.fifoBad.contains k then setBit r 19 true else r

/-- The word of the power and clock status block (R446). -/
def powerWord (s : State) (off : Nat) : W32 :=
  if off < 0xC020 then
    let w := (off - 0xC000) / 4
    ofBytes 32 ((List.range 4).map fun k => domByte s (Fin.ofNat 32 (4 * w + k)))
  else match off with
    | 0xC020 => s.heldOff
    | 0xC024 => s.heldRet
    | 0xC028 => BitVec.ofNat 32 ((List.finRange 32).foldl (fun n d => n + (if s.dom[d].fclkAck then 2 ^ d.val else 0)) 0)
    | _ => 0

/-- The word at an offset of the window, with the HI words live (R426, R427, R429). -/
def winWord (s : State) (off : Nat) : W32 :=
  if off % 4 ≠ 0 then 0
  else if off < 0x400 then ofBytes 32 (spGetAll 0 s.qu.h2q[Fin.ofNat 4 (off / 256)] (off % 256) 4)
  else if off < 0x800 then ofBytes 32 (spGetAll 0 s.qu.q2h[Fin.ofNat 4 (off / 256 - 4)] (off % 256) 4)
  else if 0x1100 ≤ off ∧ off < 0x1200 then cfgWord s off
  else if 0x2000 ≤ off ∧ off < 0xA000 then
    BitVec.ofNat 32 ((spGet 0 s.qu.blot ((off - 0x2000) / 32)).toNat >>> (8 * (off % 32)))
  else if 0xA000 ≤ off ∧ off < 0xC000 then
    BitVec.ofNat 32 ((fifoEntry s ((off - 0xA000) / 32)).toNat >>> (8 * (off % 32)))
  else if 0xC000 ≤ off ∧ off < 0xC040 then powerWord s off
  else if 0xD000 ≤ off ∧ off < 0xD060 then (if dbgEn s then dbgWord s off else 0)
  else match off with
    | 0x0800 => mbxOwnWord s
    | 0x0804 => mbxIrqWord s
    | 0x1000 => qstatWord s
    | 0x1004 => coreStatWord s
    | 0x1040 => errPtrWord s
    | 0x1044 => s.err.ovf
    | 0x1048 => errLines s
    | 0x1050 => bltHeadWord s
    | 0x1058 => s.c.fwfloor
    | 0x1060 => loWord s.c.ply
    | 0x1064 => hiWord s.c.ply
    | 0x1068 => loWord s.win.tick
    | 0x106C => hiWord s.win.tick
    | 0xF000 => 0x00015358
    | 0xF004 => 0x00104D01
    | 0xF008 => 0x00000001
    | _ => 0

/-- Whether a physical address lies in the management alias: where it overlaps the vellum, the vellum wins (R420, R453). -/
def inAlias (s : State) (pa : Nat) : Bool :=
  bit s.cfg.mgmtbase 0 && fieldN s.cfg.mgmtbase 55 16 == pa / 65536 && !inVellum s pa

/-- A byte of the alias as the core's own agents read it: HI words are live (R420, R429). -/
def aliasByte (s : State) (pa : Nat) : Byte :=
  let off := pa % 65536
  BitVec.ofNat 8 ((winWord s (off / 4 * 4)).toNat >>> (8 * (off % 4)))

/-- A byte as a stream request or a debug command reads it: coherent, and the alias without the fabric (R170, R223, R420, R442). -/
def ownByte (s : State) (cacheable : Bool) (pa : Nat) : Byte :=
  if inAlias s pa then aliasByte s pa else if cacheable then cohByte s pa else rawByte s pa

/-- The window offsets of the FIFO records and blotter entries with an uncorrectable word that n bytes at an offset touch. -/
def badEntries (s : State) (off n : Nat) : List Nat :=
  ((s.err.fifoBad.map (0xA000 + 32 * ·)) ++ (s.qu.blotBad.map (0x2000 + 32 * ·))).filter fun a => decide (a < off + n) && decide (off < a + 32)

/-- A read of the window meets them: each read posts their records (R337, R386). -/
def windowMeet (s : State) (off n : Nat) : State := (badEntries s off n).foldl (fun s a => postUe s 0x21 a (spotAt s 0x21 a == 2)) s

/-- A read of n bytes by one of the core's own agents as the checks see it: the alias, or the stores of memory (R162, R227, R337, R420). -/
def accessCheck (s : State) (coh : Bool) (pa n : Nat) : State × Option (BitVec 4) :=
  if inAlias s pa then (windowMeet s (pa % 65536) n, none) else readCheck s coh pa n

/-- A write of the core's own agents to the alias: TGTERR answers it, nothing changes but for the record of the answer; no fabric port takes part,
and the port in SYND is free (R322, R331, R414, R420, log 43). -/
def aliasRefused (s : State) (pa : Nat) : State :=
  let (p, s1) := draw 2 s
  postRecord s1 0x12 0x0D 1 (BitVec.ofNat 64 pa) (2 ||| place 24 p.toNat 4) false 0

/-- A write by one of the core's own agents; one to the alias is answered TGTERR and changes nothing (R350, R420). -/
def ownWrite (s : State) (ag : Agent) (ty : MType) (pa : Nat) (bs : List Byte) : State :=
  if inAlias s pa then s else agentWrite s ag ty pa bs

end Sys2Proof.Machine
end

