-- ==== Sys2Proof/Machine/MemOps.lean ====
section
/-! DEFINITION. The accesses of instructions to memory: translation of every part before any is performed, loads, stores and atomics of the core and of the scribes (R47, R55 to R59, R205, R208, R217 to R226, R353). -/
namespace Sys2Proof.Machine

/-- A part of an access that lies in one line: its first address, its place in the access and its length (R47). -/
structure Piece where
  va : W64
  off : Nat
  len : Nat
  deriving DecidableEq, Repr

/-- A translated part. -/
structure Phys where
  va : W64
  off : Nat
  len : Nat
  pa : Nat
  ty : MType
  deriving DecidableEq, Repr

/-- The parts of n bytes at an address. -/
def piecesOf (va : W64) (n : Nat) : List Piece :=
  (lineParts (va.toNat % 64) n (n / 64 + 2)).map fun (_, o, k) => ⟨va + BitVec.ofNat 64 o, o, k⟩

/-- The executor's translation cache. -/
def tlbSel : Who → TlbSel
  | .core => .data
  | .scribe k _ => .scribe k

/-- The ring of an access: a scribe's is ring 3 (R183, R239). -/
def accRing (k : Who) (b : Bank) : BitVec 2 :=
  match k with
  | .core => ringOf b
  | .scribe _ _ => 3

/-- ACC of an exception for an access kind (R271). -/
def excAcc (ak : Ak) : Acc := akAcc ak

/-- One translation for an executor. -/
def xlate (k : Who) (ak : Ak) (b : Bank) (va : W64) (s : State) : State × (Exc ⊕ (Nat × MType)) :=
  match translate (tlbSel k) ak (accRing k b) b.ttb va s with
  | .ok s1 pa ty => (s1, .inr (pa, ty))
  | .bad s1 code sub => (s1, .inl { code := code, sub := sub, acc := excAcc ak, addr := va })

/-- Translates every part in order; the first fault stands (R47). -/
def xlateAll (k : Who) (ak : Ak) (b : Bank) (s : State) : List Piece → State × (Exc ⊕ List Phys)
  | [] => (s, .inr [])
  | p :: ps =>
    match xlate k ak b p.va s with
    | (s1, .inl e) => (s1, .inl e)
    | (s1, .inr (pa, ty)) =>
      match xlateAll k ak b s1 ps with
      | (s2, .inl e) => (s2, .inl e)
      | (s2, .inr l) => (s2, .inr (⟨p.va, p.off, p.len, pa, ty⟩ :: l))

/-- The alignment that device memory asks for, checked after translation (R47). -/
def deviceMisaligned (va : W64) (n : Nat) (l : List Phys) : Bool := va.toNat % n != 0 && l.any (·.ty == .device)

/-- Whether a device access of a scribe would be made: its cause MEMTYPE stands as code 0 (R193). -/
def typeRefused (k : Who) (l : List Phys) : Option Phys :=
  match k with
  | .core => none
  | .scribe _ _ => l.find? (·.ty == .device)

/-- Translation of a whole access with the checks that follow it: parts, the access's address and its natural alignment. -/
def prepare (k : Who) (ak : Ak) (b : Bank) (va : W64) (n : Nat) (ps : List Piece) (s : State) : State × (Exc ⊕ List Phys) :=
  match xlateAll k ak b s ps with
  | (s1, .inl e) => (s1, .inl e)
  | (s1, .inr l) =>
    match typeRefused k l with
    | some p => (s1, .inl { code := 0, acc := excAcc ak, addr := p.va, phys := BitVec.ofNat 64 p.pa })
    | none => if deviceMisaligned va n l then (s1, .inl { code := 0x04, acc := excAcc ak, addr := va }) else (s1, .inr l)

/-- The youngest store-buffer entry that overlaps a part (R226). -/
def overlapOf (s : State) (p : Phys) : Option SbEntry :=
  s.ca.sb.reverse.find? fun e =>
    (List.range e.bytes.length).any fun i =>
      ((e.bytes[i]?).join).isSome && p.pa ≤ e.pa.toNat + i && e.pa.toNat + i < p.pa + p.len

/-- An entry that forwards its data to a load of the same address and size (R226). -/
def forwards (p : Phys) (whole : Nat) (e : SbEntry) : Bool :=
  !e.part && e.pa.toNat == p.pa && e.bytes.length == p.len && whole == p.len

/-- Whether a load must wait for older stores: a partial overlap, a device store before a device load, or an STL before an LDA (R57, R59, R226). -/
def loadWaits (s : State) (whole : Nat) (acq : Bool) (l : List Phys) : Bool :=
  (acq && s.ca.sb.any (·.rel)) || (l.any (·.ty == .device) && s.ca.sb.any (·.ty == .device)) ||
  l.any fun p => match overlapOf s p with
    | some e => !forwards p whole e
    | none => false

/-- Whether a load of the core uses L1D (R208, R218). -/
def usesL1d (s : State) (p : Phys) : Bool := p.ty == .cacheable && !s.c.ruledAct && !inVellum s p.pa && !inAlias s p.pa

/-- Marks an L1D way as used (R221). -/
def touchL1d (s : State) (k : Nat) : State :=
  { s with ca := { s.ca with
      l1dPlru := spSet 0 s.ca.l1dPlru (k / 8) (BitVec.ofNat 7 (touch 8 (spGet 0 s.ca.l1dPlru (k / 8)).toNat (k % 8))) } }

/-- Writes a dirty L1D line back to L2 and removes it (R222). -/
def evictL1d (s : State) (k : Nat) : State :=
  match spGet none s.ca.l1d k with
  | some l => flushL1d s l.la
  | none => s

/-- The L1D set of a virtual address (R213). -/
def l1dSet (va : W64) : BitVec 7 := BitVec.ofNat 7 (va.toNat / 64)

/-- The L1D line that an access under a set hits: a copy under other alias bits is no hit (R213, R214). The alias bits that R214 has L2 record are
those of the slot that holds the copy. -/
def l1dHit (s : State) (la : BitVec 50) (set : BitVec 7) : Option (Nat × L1DLine) := (l1dFind s la).filter fun x => x.1 / 8 == set.toNat

/-- The place of an L1 line as R466 selects it: PA[31:6]. -/
def l1Loc (la : BitVec 50) : Nat := 64 * la.toNat % 2 ^ 32

/-- A line filled afresh has good parity, unless an injected parity flip strikes the fill (R341, R466). -/
def injFill (s : State) (unit : Byte) (loc : Nat) : State :=
  let s1 := if s.err.spots.isEmpty then s else clearSpot s unit loc
  if injKind s1 unit = 3 ∧ injSel s1 = loc then plant s1 unit 3 else s1

/-- A parity error in an L1D line, met or reported: a clean line is invalidated, to be filled again; a dirty one is discarded (R227). -/
def dropL1d (s : State) (la : BitVec 50) : State :=
  match l1dFind s la with
  | some (k, _) => { s with ca := { s.ca with l1d := spSet none s.ca.l1d k none } }
  | none => s

/-- An injected parity flip that a load of an L1D line meets: corrected on a clean line, a machine check on a dirty one (R227, R341). -/
def meetL1d (s : State) (p : Phys) : State :=
  let la := lineNo p.pa
  if spotAt s 0x03 (l1Loc la) = 3 then
    match l1dHit s la (l1dSet p.va) with
    | some (k, x) =>
      postRecord (dropL1d (clearSpot s 0x03 (l1Loc la)) la) 0x04 0x03 (if x.dirty then 2 else 0) (BitVec.ofNat 64 (64 * la.toNat))
        (BitVec.ofNat 24 (k % 8)) true 0
    | none => s
  else s

/-- Puts a line into L1D under a set; the core keeps at most one copy of a physical line, and another is first removed (R213, R214, R221). -/
def fillL1d (s : State) (la : BitVec 50) (set : BitVec 7) : State :=
  let s0 := flushL1d s la
  let s1 := fillL2 s0 la false
  let valid w := (spGet none s1.ca.l1d (8 * set.toNat + w)).isSome
  let w := fillWay 8 (spGet 0 s1.ca.l1dPlru set.toNat).toNat (fun _ => true) valid
  let k := 8 * set.toNat + w
  let s2 := evictL1d s1 k
  match l2Find s2 la with
  | none => s2
  | some (_, m) =>
    injFill (touchL1d { s2 with ca := { s2.ca with
      l1d := spSet none s2.ca.l1d k (some { la := la, dirty := false, data := m.data })
      pf := s2.ca.pf.filter (· ≠ la) } } k) 0x03 (l1Loc la)

/-- The lines that a confirmed tracker asks for behind line x (R219). -/
def pfLines (s : State) (r : BitVec 44) (x : BitVec 6) (up : Bool) : List (BitVec 50) :=
  ((List.range' 1 4).filterMap fun (i : Nat) =>
    let y : Int := if up then (x.toNat : Int) + (i : Int) else (x.toNat : Int) - (i : Int)
    if 0 ≤ y ∧ y < 64 then some (r ++ BitVec.ofNat 6 y.toNat) else none).filter fun la =>
      (l1dFind s la).isNone && !s.ca.pf.contains la && !s.ca.pfOut.contains la

/-- A demand miss of a load as the prefetcher sees it (R219). -/
def observeMiss (s : State) (la : BitVec 50) : State :=
  let r : BitVec 44 := field la 49 6
  let x : BitVec 6 := field la 5 0
  match s.ca.trk.find? (·.region == r) with
  | none => { s with ca := { s.ca with trk := (s.ca.trk ++ [(⟨r, x, none⟩ : Tracker)]).drop (s.ca.trk.length - 3) } }
  | some t =>
    let dir := if t.last.toNat + 1 = x.toNat then some true else if x.toNat + 1 = t.last.toNat then some false else t.dir
    let s1 := { s with ca := { s.ca with trk := s.ca.trk.map fun y => if y.region == r then { y with last := x, dir := dir } else y } }
    match dir with
    | none => s1
    | some up => { s1 with ca := { s1.ca with pfOut := s1.ca.pfOut ++ pfLines s1 r x up } }

/-- The missing line comes from L2 or the fabric and frees the miss register; a load's miss is seen by the prefetcher (R217, R219). -/
def missFill (s : State) : State :=
  match s.ca.miss with
  | none => s
  | some (la, set, st) =>
    let s1 := { s with ca := { s.ca with miss := none } }
    let s2 := if st then s1 else observeMiss s1 la
    if s2.c.ruledAct then s2 else fillL1d s2 la set

/-- What the core's loads leave in L1D: a hit is touched, a line of the prefetch buffer moves in, a missing line takes the miss register
(R217, R220, R221). DESIGN CHOICE (log 49): a hit in the prefetch buffer is no L1D demand miss for the trackers of R219; the spec does not say. -/
def loadTouch (s : State) (p : Phys) : State :=
  if usesL1d s p then
    match l1dHit s (lineNo p.pa) (l1dSet p.va) with
    | some (k, _) => touchL1d s k
    | none =>
      if s.ca.pf.contains (lineNo p.pa) then fillL1d s (lineNo p.pa) (l1dSet p.va)
      else match s.ca.miss with
        | some _ => s
        | none => { s with ca := { s.ca with miss := some (lineNo p.pa, l1dSet p.va, false) } }
  else s

/-- The parts of a load whose lines are missing (R217, R220). -/
def missing (s : State) (l : List Phys) : List Phys :=
  l.filter fun p => usesL1d s p && (l1dHit s (lineNo p.pa) (l1dSet p.va)).isNone && !s.ca.pf.contains (lineNo p.pa)

/-- Whether a load must wait for the miss register: another line holds it, or the load misses on more lines than one (R217). -/
def missWaits (s : State) (l : List Phys) : Bool :=
  match s.ca.miss, missing s l with
  | some (la, _, _), ms => ms.any fun p => la != lineNo p.pa
  | none, p :: ps => ps.any fun q => lineNo q.pa != lineNo p.pa
  | none, [] => false

/-- A load that waits takes a free miss register for its first missing line (R217). -/
def askLine (s : State) (l : List Phys) : State :=
  match s.ca.miss, missing s l with
  | none, p :: _ => { s with ca := { s.ca with miss := some (lineNo p.pa, l1dSet p.va, false) } }
  | _, _ => s

/-- A byte as an executor reads it (R55, R208, R218, R223, R420). -/
def readByteOf (k : Who) (s : State) (ty : MType) (pa : Nat) : Byte :=
  if inAlias s pa then aliasByte s pa
  else match k with
    | .core => coreByte s ty pa
    | .scribe _ _ => if ty = .cacheable then cohByte s pa else rawByte s pa

/-- The bytes of the parts. -/
def readPhys (k : Who) (s : State) (l : List Phys) : List Byte :=
  l.flatMap fun p => (List.range p.len).map fun i => readByteOf k s p.ty (p.pa + i)

/-- The agent of an executor. -/
def agentOf : Who → Agent
  | .core => .core
  | .scribe _ _ => .scribe

/-- Whether an executor's read is coherent with L2: one to a cacheable page, and in ruled mode every one of the core to normal memory
(R208, R218). -/
def cohRead? (k : Who) (s : State) (ty : MType) : Bool := ty == .cacheable || ruledPast s (agentOf k) ty

/-- The checks of the parts of a load: the records that they post, and the first error, precise (R162, R227, R272). -/
def checkParts (k : Who) (whole : Nat) : List Phys → State → State × Option Exc
  | [], s => (s, none)
  | p :: ps, s =>
    let fwd := match k, overlapOf s p with
      | .core, some e => forwards p whole e
      | _, _ => false
    if fwd then checkParts k whole ps s
    else match accessCheck s (cohRead? k s p.ty) p.pa p.len with
    | (s1, none) => checkParts k whole ps s1
    | (s1, some sub) => (s1, some { code := 0x0D, sub := sub, acc := .read, addr := p.va, phys := BitVec.ofNat 64 p.pa })

/-- Whether an access must wait for the power-up zeroing of the vellum (R162). -/
def zeroingWaits (s : State) (l : List Phys) : Bool := s.vellumZeroing && l.any fun p => inVellum s p.pa

/-- The outcome of a load. -/
inductive LoadOut where
  | bytes (s : State) (bs : List Byte)
  | fault (s : State) (e : Exc)
  | wait (s : State)

/-- A load of translated parts (R55, R217, R226). A scribe's cacheable load allocates in L2 (R223). -/
def loadPhys (k : Who) (n : Nat) (acq : Bool) (s0 : State) (l : List Phys) : LoadOut :=
  match k with
  | .core =>
    let s1 := if s0.err.spots.isEmpty then s0 else l.foldl meetL1d s0
    if loadWaits s1 n acq l || zeroingWaits s1 l then .wait s1
    else if missWaits s1 l then .wait (askLine s1 l)
    else match checkParts k n l s1 with
      | (s2, some e) => .fault s2 e
      | (s2, none) => .bytes (l.foldl loadTouch s2) (readPhys k s2 l)
  | .scribe _ _ =>
    if zeroingWaits s0 l then .wait s0
    else match checkParts k n l s0 with
    | (s2, some e) => .fault s2 e
    | (s2, none) =>
      .bytes (l.foldl (fun s p => if p.ty = .cacheable ∧ ¬ inVellum s p.pa ∧ ¬ inAlias s p.pa then fillL2 s (lineNo p.pa) false else s) s2)
        (readPhys k s2 l)

/-- A load of the parts of an access (R47). -/
def loadPieces (k : Who) (b : Bank) (va : W64) (n al : Nat) (acq : Bool) (ps : List Piece) (s : State) : LoadOut :=
  match prepare k .load b va al ps s with
  | (s1, .inl e) => .fault s1 e
  | (s1, .inr l) => loadPhys k n acq s1 l

/-- A whole load of n bytes, whose natural alignment is al. -/
def loadBytes (k : Who) (b : Bank) (va : W64) (n al : Nat) (acq : Bool) (s : State) : LoadOut :=
  loadPieces k b va n al acq (piecesOf va n) s

/-- The outcome of a store. -/
inductive StoreOut where
  | done (s : State)
  | fault (s : State) (e : Exc)
  | wait (s : State)

/-- The bytes that a part of a store writes, with holes where it writes none. -/
def partBytes (bs : List (Option Byte)) (p : Phys) : List (Option Byte) := (bs.drop p.off).take p.len

/-- Performs the bytes of a part at once, holes left out: a whole part as one write, a part with holes byte by byte. One to the alias is refused (R420). -/
def performPart (s : State) (ag : Agent) (ty : MType) (pa : Nat) (bs : List (Option Byte)) : State :=
  if inAlias s pa then aliasRefused s pa
  else match bs.mapM id with
  | some whole => ownWrite s ag ty pa whole
  | none => (bs.zipIdx).foldl (fun s (o, i) => match o with
      | some x => ownWrite s ag ty (pa + i) [x]
      | none => s) s

/-- Whether a scribe's cacheable store first brings its line into L2, held Exclusive (R223). -/
def scribeOwn (s : State) (p : Phys) : State :=
  if p.ty = .cacheable ∧ ¬ inVellum s p.pa ∧ ¬ inAlias s p.pa then fillL2 s (lineNo p.pa) true else s

/-- The bus error of a write that the alias refuses (R272, R414, R420). -/
def aliasError (p : Phys) : Exc := { code := 0x0E, sub := 1, acc := .write, addr := p.va, phys := BitVec.ofNat 64 p.pa }

/-- The part of a store that the alias refuses while the store can still raise a precise bus error: one of device type (R272, R420, log 43). -/
def refusedPart (s : State) (l : List Phys) : Option Phys := l.find? fun p => p.ty == .device && inAlias s p.pa

/-- What a store's parts are: entries of their own, the two parts of a split store, or the lines of a vector store (R205, R225, R226). -/
inductive StoreMode where
  | single | split | vector
  deriving DecidableEq, Repr

/-- The store-buffer entries of a store (R205, R213, R225). -/
def sbEntries (m : StoreMode) (rel : Bool) (bs : List (Option Byte)) (l : List Phys) : List SbEntry :=
  l.zipIdx.map fun (p, i) =>
    { pa := BitVec.ofNat 56 p.pa, bytes := partBytes bs p, ty := p.ty, part := m != .single, rel := rel
      set := l1dSet p.va, pair := m == .split && i == 0 && 1 < l.length }

/-- Puts entries into the store buffer where it has room; of 33 lines of a vector store the first 32 enter an empty buffer, and the last waits
(R225). -/
def enterBuffer (m : StoreMode) (es : List SbEntry) (s : State) : StoreOut :=
  if s.ca.sb.length + es.length ≤ 32 then .done { s with ca := { s.ca with sb := s.ca.sb ++ es } }
  else if m = .vector ∧ s.ca.sb.isEmpty then .wait { s with ca := { s.ca with sb := es.take 32, sbLast := es.getLast? } }
  else .wait s

/-- A store of translated parts. A device store to the alias raises a bus error; a scribe's store to it stops its thread (R193, R272, R420).
The core's store enters the store buffer, in ruled mode it is performed; a scribe's is performed. A performed write waits while the mirror
engine holds its granule (R204, R208, R223, R225, R353). -/
def storePhys (k : Who) (m : StoreMode) (rel : Bool) (bs : List (Option Byte)) (s1 : State) (l : List Phys) : StoreOut :=
  if zeroingWaits s1 l then .wait s1
  else match refusedPart s1 l with
  | some p => .fault (aliasRefused s1 p.pa) (aliasError p)
  | none =>
  if k = .core ∧ s1.c.ruledAct = false then enterBuffer m (sbEntries m rel bs l) s1
  else
    match l.flatMap fun p => heldGranules s1 p.pa p.len with
    | [] =>
      let s2 := l.foldl (fun s p =>
        let s := match k with
          | .core => s
          | .scribe _ _ => scribeOwn s p
        performPart s (agentOf k) p.ty p.pa (partBytes bs p)) s1
      match k, l.find? fun p => inAlias s1 p.pa with
      | .scribe _ _, some p => .fault s2 (aliasError p)
      | _, _ => .done s2
    | gs => .wait (askGranules s1 gs)

/-- The rest of a vector store whose first 32 lines are in the store buffer: its last line enters once the first has drained (R225). -/
def storeRest (e : SbEntry) (s : State) : StoreOut :=
  if s.ca.sb.length < 32 then .done { s with ca := { s.ca with sb := s.ca.sb ++ [e], sbLast := none } } else .wait s

/-- A store of the parts of an access (R47, R226). -/
def storePieces (k : Who) (b : Bank) (va : W64) (al : Nat) (vec rel : Bool) (bs : List (Option Byte)) (ps : List Piece) (s : State) : StoreOut :=
  match (if k = .core ∧ vec = true then s.ca.sbLast else none) with
  | some e => storeRest e s
  | none =>
    match prepare k .store b va al ps s with
    | (s1, .inl e) => .fault s1 e
    | (s1, .inr l) => storePhys k (if vec then .vector else if 1 < l.length then .split else .single) rel bs s1 l

/-- A whole store of bytes, whose natural alignment is al. -/
def storeBytes (k : Who) (b : Bank) (va : W64) (al : Nat) (rel : Bool) (bs : List Byte) (s : State) : StoreOut :=
  storePieces k b va al false rel (bs.map some) (piecesOf va bs.length) s

/-- A message on OREQ without an address (R412, R413). -/
def oreqMsg (s : State) (opc : Byte) (d : Option LineWord) : Msg := ⟨opc, 0, BitVec.ofNat 20 s.cfg.coreid.toNat, 0, false, 0, d⟩

/-- Sends a message on OREQ of a port that is up and holds a credit (R413). -/
def sendOreq (p : Port) (m : Msg) : Option Port :=
  if p.up ∧ p.credits ≠ 0 then some { p with credits := p.credits - 1, oreq := some m } else none

/-- Asks the fabric to confirm earlier writes: a token on every port that has none outstanding and holds a credit; the token covers the
writes sent before it (R413, R418). -/
def sendTokens (s : State) : State :=
  { s with port := vmap (fun p : Port =>
      if p.token then p
      else match sendOreq p (oreqMsg s 0x07 none) with
        | some q => { q with token := true, unconf := 0, cover := p.unconf }
        | none => p) s.port }

/-- Whether every write that an agent sent to the fabric is confirmed visible (R418). -/
def writesVisible (s : State) (ag : Agent) : Bool :=
  !(s.port.toList.any fun p => p.unconf.getLsbD (agentBit ag) || (p.token && p.cover.getLsbD (agentBit ag)))

/-- Whether writes of an agent wait for a token to be sent. -/
def unasked (s : State) (ag : Agent) : Bool := s.port.toList.any fun p => p.unconf.getLsbD (agentBit ag)

/-- Asks for the confirmation of an agent's fabric writes that are not yet known to be visible (R418). -/
def askVisible (s : State) (ag : Agent) : State := if unasked s ag then sendTokens s else s

/-- Whether every store of the core has been performed and is visible to all agents (R57, R60, R418). -/
def storesVisible (s : State) : Bool := s.ca.sb.isEmpty && s.ca.sbLast.isNone && writesVisible s .core

/-- The wait for earlier stores: the buffer drains, then tokens are sent (R418). -/
def awaitStores (s : State) : State := if s.ca.sb.isEmpty then askVisible s .core else s

/-- Whether the accesses of an executor that a release orders have been performed and are visible: the core's stores, or the fabric writes of
the scribes (R57, R191, R418). -/
def released (k : Who) (s : State) : Bool :=
  match k with
  | .core => storesVisible s
  | .scribe _ _ => writesVisible s .scribe

/-- The wait for a release. -/
def awaitRelease (k : Who) (s : State) : State :=
  match k with
  | .core => awaitStores s
  | .scribe _ _ => askVisible s .scribe

/-- Whether an atomic must wait: for what L or A orders it after, for an overlapping store in the buffer, or for an earlier device store
(R57 to R59, R226). -/
def atomWaits (k : Who) (acq rel : Bool) (s : State) (p : Phys) : Bool :=
  (rel && !released k s) ||
  (k == .core && ((acq && s.ca.sb.any (·.rel)) || (overlapOf s p).isSome || (p.ty == .device && s.ca.sb.any (·.ty == .device))))

/-- Whether an atomic is performed in L2 with the line held exclusively (R58, R208, R223). -/
def atomInL2 (k : Who) (s : State) (p : Phys) : Bool :=
  p.ty == .cacheable && !inVellum s p.pa && !inAlias s p.pa && !ruledPast s (agentOf k) p.ty

/-- The line of an atomic that is performed in L2 (R216, R223). -/
def atomReady (k : Who) (s : State) (p : Phys) : State :=
  if atomInL2 k s p then fillL2 (flushL1d s (lineNo p.pa)) (lineNo p.pa) true else s

/-- An atomic: its outcome is the new state with the old value of n bytes (R58, R223, R240, R353); the alias refuses it (R420). acq and rel are
its A and L qualifiers; f gives the bytes to write, if any. -/
def atomicOf (k : Who) (b : Bank) (va : W64) (n : Nat) (acq rel : Bool) (f : Nat → Option Nat) (s : State) : LoadOut :=
  if va.toNat % n ≠ 0 then .fault s { code := 0x04, acc := .write, addr := va }
  else match prepare k .atomic b va n (piecesOf va n) s with
    | (s1, .inl e) => .fault s1 e
    | (s1, .inr l) =>
      match l with
      | [p] =>
        if zeroingWaits s1 l then .wait s1
        else if atomWaits k acq rel s1 p then .wait (if rel then awaitRelease k s1 else s1)
        else match checkParts k 0 l s1 with
          | (s2, some e) => .fault s2 { e with acc := .write }
          | (s2, none) =>
            match heldGranules s2 p.pa n with
            | g :: gs => .wait (askGranules s2 (g :: gs))
            | [] =>
              if inAlias s2 p.pa then .fault (aliasRefused s2 p.pa) (aliasError p)
              else
                let s3 := atomReady k s2 p
                let bs := (List.range n).map fun i => ownByte s3 (cohRead? k s3 p.ty) (p.pa + i)
                match f (bytesNat bs) with
                | some x => .bytes (ownWrite s3 (agentOf k) p.ty p.pa (toBytes n (BitVec.ofNat 64 x))) bs
                | none => .bytes s3 bs
      | _ => .fault s1 { code := 0x04, acc := .write, addr := va }

end Sys2Proof.Machine
end

