-- ==== Sys2Proof/Machine/LoadStore.lean ====
section
/-! DEFINITION. Scalar and vector loads and stores, acquire and release, the atomics, the repeat prefixes, and the draining of the store buffer (R35, R42, R45 to R50, R57, R58, R225, R353, R464). -/
namespace Sys2Proof.Machine

/-- One scalar load (R42, R45, R46). -/
def loadOnce (k : Who) (rd : GReg) (a : SAddr) (sz : BitVec 3) (b : Bank) (s : State) : Res :=
  let n := sizeBytes sz
  match loadBytes k b (saddr b n a) n n false s with
  | .bytes s1 bs => .ok (wg (saddrUpdate b n a) rd (loadValue sz bs)) s1
  | .fault s1 e => .exc e b s1
  | .wait s1 => .wait s1

/-- One scalar store (R42, R45, R46). -/
def storeOnce (k : Who) (rs : GReg) (a : SAddr) (sz : BitVec 3) (b : Bank) (s : State) : Res :=
  let n := sizeBytes sz
  match storeBytes k b (saddr b n a) n false (toBytes n (rg b rs)) s with
  | .done s1 => .ok (saddrUpdate b n a) s1
  | .fault s1 e => .exc e b s1
  | .wait s1 => .wait s1

/-- The lines of n bytes at an address in which some of the listed elements lie, each with the span of those elements. -/
def activePieces (va : W64) (n eb : Nat) (act : List Nat) : List Piece :=
  (piecesOf va n).filterMap fun p =>
    let bytes := (List.range p.len).filter fun i => act.contains ((p.off + i) / eb)
    match bytes.head?, bytes.getLast? with
    | some lo, some hi => some ⟨p.va + BitVec.ofNat 64 lo, p.off + lo, hi + 1 - lo⟩
    | _, _ => none

/-- One vector load: masked-off and inactive elements make no access (R35, R464). -/
def vloadOnce (k : Who) (v : VReg) (a : VAddr) (mk : Option MReg) (w : BitVec 2) (b : Bank) (s : State) : Res :=
  let wb := wBits false w
  let na := active k b wb
  let n := na * wb / 8
  let va := vaddr b n a
  let act := activeList b mk na
  let ps := activePieces va n (wb / 8) act
  match loadPieces k b va n (wb / 8) false ps s with
  | .bytes s1 bs =>
    let offs := ps.flatMap fun p => (List.range p.len).map (p.off + ·)
    let img : Sparse Byte := (offs.zip bs).foldl (fun m x => spSet 0 m x.1 x.2) []
    let vals := act.map fun i => (i, bytesNat (spGetAll 0 img (i * (wb / 8)) (wb / 8)))
    .ok (wv (vaddrUpdate b n a) v (setElems wb b.v[v] vals)) s1
  | .fault s1 e => .exc e b s1
  | .wait s1 => .wait s1

/-- One vector store (R35, R464). -/
def vstoreOnce (k : Who) (v : VReg) (a : VAddr) (mk : Option MReg) (w : BitVec 2) (b : Bank) (s : State) : Res :=
  let wb := wBits false w
  let na := active k b wb
  let n := na * wb / 8
  let va := vaddr b n a
  let act := activeList b mk na
  let bs := (List.range n).map fun i =>
    if act.contains (i / (wb / 8)) then some (BitVec.ofNat 8 (velem 8 b.v[v] i)) else none
  match storePieces k b va (wb / 8) true false bs (activePieces va n (wb / 8) act) s with
  | .done s1 => .ok (vaddrUpdate b n a) s1
  | .fault s1 e => .exc e b s1
  | .wait s1 => .wait s1

/-- Vector instructions of the core need VEC: off, they are undefined; asleep, they wake it and wait (R28, R300). -/
def vecGate (c : Instr) (body : Body) : Body := fun k b s =>
  match k with
  | .scribe _ _ => body k b s
  | .core =>
    match domUse s dVec with
    | .ready => body k b s
    | .asleep => .wait (wakeRequest s dVec)
    | .off => .exc (undefExc c) b s

/-- LDA: an acquire load, naturally aligned before translation (R47, R57). -/
def ldaBody (rd ga : GReg) (sz : BitVec 3) : Body := fun k b s =>
  let n := sizeBytes sz
  let va := rg b ga
  if va.toNat % n ≠ 0 then .exc { code := 0x04, acc := .read, addr := va } b s
  else match loadBytes k b va n n true s with
    | .bytes s1 bs => .ok (wg b rd (loadValue sz bs)) s1
    | .fault s1 e => .exc e b s1
    | .wait s1 => .wait s1

/-- STL: a release store, which waits until every earlier store of its executor is visible (R47, R57, R191, R418). -/
def stlBody (rs ga : GReg) (sz : BitVec 3) : Body := fun k b s =>
  let n := sizeBytes sz
  let va := rg b ga
  if va.toNat % n ≠ 0 then .exc { code := 0x04, acc := .write, addr := va } b s
  else if released k s = false then .wait (awaitRelease k s)
  else match storeBytes k b va n true (toBytes n (rg b rs)) s with
    | .done s1 => .ok b s1
    | .fault s1 e => .exc e b s1
    | .wait s1 => .wait s1

/-- The bytes of an atomic (R42). -/
def atomSize (d : Bool) : Nat := if d then 8 else 4

/-- CAS: rb replaces the value at ga where it equals rc; rd takes the old value and Z the outcome (R33, R58). -/
def casBody (rd ga rb rc : GReg) (d a l : Bool) : Body := fun k b s =>
  let n := atomSize d
  let want := cut (8 * n) (rg b rc)
  match atomicOf k b (rg b ga) n a l (fun old => if old = want then some (cut (8 * n) (rg b rb)) else none) s with
  | .bytes s1 bs => .ok (wfl (wg b rd (ofBytes 64 bs)) (setBit b.fl 2 (bytesNat bs == want))) s1
  | .fault s1 e => .exc e b s1
  | .wait s1 => .wait s1

/-- AADD: adds rb to the value at ga; rd takes the old value (R58). -/
def aaddBody (rd ga rb : GReg) (d a l : Bool) : Body := fun k b s =>
  let n := atomSize d
  match atomicOf k b (rg b ga) n a l (fun old => some ((old + cut (8 * n) (rg b rb)) % 2 ^ (8 * n))) s with
  | .bytes s1 bs => .ok (wg b rd (ofBytes 64 bs)) s1
  | .fault s1 e => .exc e b s1
  | .wait s1 => .wait s1

/-- Performs a governed instruction once (R48). -/
def governedOnce (k : Who) : Governed → Bank → State → Res
  | .mu load r ga pre sz, b, s =>
    let a : SAddr := if pre then .pre ga else .post ga
    if load then loadOnce k r a sz b s else storeOnce k r a sz b s
  | .vec load v a mk w, b, s => if load then vloadOnce k v a mk w b s else vstoreOnce k v a mk w b s
  | .other _, b, s => .exc { code := 0x01 } b s

/-- REP after an element, with elements left: the core stays on it at the ROB head, where an interrupt may be taken before the next element, and
the debug module's step ends; a thread issues it again (R49, R281, R440). -/
def repNext (k : Who) (b : Bank) (s : State) : Res :=
  match k with
  | .core =>
    if s.dbg.stepping then .jump b s
    else .wait (setCur (begun s) b)
  | .scribe _ _ => .jump b s

/-- One element of a REP: gc counts those not yet performed, and each element is a command of its own (R49). -/
def repElement (k : Who) (gc : GReg) (g : Governed) (b : Bank) (s : State) : Res :=
  match governedOnce k g b s with
  | .ok b1 s1 =>
    let b2 := wg b1 gc (rg b1 gc - 1)
    if rg b2 gc = 0 then .ok b2 s1 else repNext k b2 s1
  | .exc e _ s1 => .exc e b s1
  | r => r

/-- Whether a repeat governs a vector instruction. -/
def governsVec : Governed → Bool
  | .vec _ _ _ _ _ => true
  | _ => false

/-- REP (R48, R49). -/
def repBody (gc : GReg) (g : Governed) : Body := fun k b s => if rg b gc = 0 then .ok b s else repElement k gc g b s

/-- The addresses and access kinds of the n elements of a REPN (R50). -/
def repnPieces (b : Bank) (n : Nat) : Governed → List (W64 × Nat)
  | .mu _ _ ga pre sz =>
    let k := sizeBytes sz
    (List.range n).map fun i =>
      (if pre then rg b ga - BitVec.ofNat 64 (k * (i + 1)) else rg b ga + BitVec.ofNat 64 (k * i), k)
  | _ => []

/-- Translates every address of a REPN; the first fault stands (R50). -/
def repnCheck (k : Who) (ak : Ak) (b : Bank) : List (W64 × Nat) → State → State × Option Exc
  | [], s => (s, none)
  | (va, n) :: l, s =>
    match prepare k ak b va n (piecesOf va n) s with
    | (s1, .inl e) => (s1, some e)
    | (s1, .inr _) => repnCheck k ak b l s1

/-- Whether a store-buffer entry is performed in L1D (R218). -/
def entryInL1d (s : State) (e : SbEntry) : Bool := e.ty == .cacheable && !inVellum s e.pa.toNat && !inAlias s e.pa.toNat

/-- A line written whole by the core has fresh code in L2 too: its poison goes (R227). -/
def cleanPoison (s : State) (la : BitVec 50) : State :=
  match l2Find s la with
  | some (k, l) => { s with ca := { s.ca with l2 := spSet none s.ca.l2 k (some { l with poison := false }) } }
  | none => s

/-- Performs one store-buffer entry. A cacheable one needs its line in L1D, with the line writable in L2 (R216, R217, R220, R222, R225). -/
def performEntry (s : State) (e : SbEntry) : State :=
  let la := lineNo e.pa.toNat
  if entryInL1d s e then
    let s1 := fillL2 s la true
    match l1dHit s1 la e.set with
    | some (k, l) =>
      let d := (e.bytes.zipIdx).foldl (fun d (o, i) => match o with
        | some x => setLineByte d (e.pa.toNat % 64 + i) x
        | none => d) l.data
      let s2 := if e.bytes.length = 64 ∧ e.bytes.all (·.isSome) = true then cleanPoison s1 la else s1
      touchL1d (markDirty { s2 with ca := { s2.ca with l1d := spSet none s2.ca.l1d k (some { l with data := d, dirty := true }) } }
        e.pa.toNat e.bytes.length) k
    | none => performPart s .core e.ty e.pa.toNat e.bytes
  else performPart s .core e.ty e.pa.toNat e.bytes

/-- What holds the head of the store buffer: a running commit has not read its granule, or its line is missing (R217, R353). -/
inductive DrainHold where
  | free
  | granules (gs : List Nat)
  | line (la : BitVec 50) (set : BitVec 7)
  deriving DecidableEq, Repr

/-- What holds an entry of the store buffer. -/
def drainHold (s : State) (e : SbEntry) : DrainHold :=
  match heldGranules s e.pa.toNat e.bytes.length with
  | g :: gs => .granules (g :: gs)
  | [] =>
    let la := lineNo e.pa.toNat
    if entryInL1d s e ∧ (l1dHit s la e.set).isNone ∧ ¬ s.ca.pf.contains la then .line la e.set else .free

/-- What holds the head of the store buffer; the two entries of a split store drain together (R205). -/
def headHold (s : State) : DrainHold :=
  match s.ca.sb with
  | [] => .free
  | [e] => drainHold s e
  | e :: e2 :: _ =>
    match drainHold s e with
    | .free => if e.pair then drainHold s e2 else .free
    | h => h

/-- An entry performed: a line of the prefetch buffer moves into L1D first (R220, R225). -/
def drainFree (s : State) (e : SbEntry) (rest : List SbEntry) : State :=
  let la := lineNo e.pa.toNat
  let s1 := { s with ca := { s.ca with sb := rest } }
  let s2 := if entryInL1d s e ∧ (l1dHit s1 la e.set).isNone ∧ s1.ca.pf.contains la then fillL1d s1 la e.set else s1
  performEntry s2 e

/-- The head of the store buffer performed, with the second entry of a split store (R205, R225). -/
def drainNow (s : State) : State :=
  match s.ca.sb with
  | [] => s
  | [e] => drainFree s e []
  | e :: e2 :: rest =>
    let s1 := drainFree s e (e2 :: rest)
    if e.pair then drainFree s1 e2 rest else s1

/-- STORE_BUFFER_DRAIN on the head: performed, or held with its miss or its granule asked for (R217, R225, R353). -/
def drainHead (s : State) : State :=
  match headHold s with
  | .free => drainNow s
  | .granules gs => askGranules s gs
  | .line la set => if s.ca.miss.isSome then s else { s with ca := { s.ca with miss := some (la, set, true) } }

/-- Performs drains and fills until the store buffer is empty, inside an instruction that no interrupt may divide; false where the mirror engine
holds an entry, its granule asked for (R50, R353). -/
def drainAll : Nat → State → State × Bool
  | 0, s => (s, s.ca.sb.isEmpty)
  | n + 1, s =>
    if s.ca.sb.isEmpty then (s, true)
    else match headHold s with
      | .granules gs => (askGranules s gs, false)
      | .free => drainAll n (drainNow s)
      | .line _ _ => drainAll n (missFill (drainHead s))

/-- One element of a REPN, which waits for nothing that the core can bring about by itself: a full buffer drains, and missing lines are
filled. Where the element must wait for something else, the whole REPN waits, none of its elements performed (R50, R217, R353). -/
def repnTry (k : Who) (g : Governed) (s0 : State) (b : Bank) : Nat → State → Res
  | 0, _ => .wait s0
  | n + 1, s =>
    match governedOnce k g b s with
    | .wait s1 =>
      match k with
      | .scribe _ _ => .wait { s0 with mir := s1.mir }
      | .core =>
        match drainAll 80 (missFill s1) with
        | (s2, true) => repnTry k g s0 b n s2
        | (s2, false) => .wait { s0 with mir := s2.mir }
    | .exc e b1 s1 => if e.code = waitCode then .wait { s0 with mir := s1.mir } else .exc e b1 s1
    | r => r

/-- The elements of a REPN, with no interrupt between them (R50). -/
def repnLoop (k : Who) (g : Governed) (s0 : State) : Nat → Bank → State → Res
  | 0, b, s => .ok b s
  | n + 1, b, s =>
    match repnTry k g s0 b 4 s with
    | .ok b1 s1 => repnLoop k g s0 n b1 s1
    | .exc e _ s1 => .exc e b s1
    | r => r

/-- REPN: every address is translated first (R50). -/
def repnBody (n : BitVec 6) (g : Governed) : Body := fun k b s =>
  let cnt := n.toNat + 1
  let ak : Ak := match g with
    | .mu load _ _ _ _ => if load then .load else .store
    | _ => .load
  match repnCheck k ak b (repnPieces b cnt g) s with
  | (s1, some e) => .exc e b s1
  | (s1, none) => repnLoop k g s1 cnt b s1

/-- LOAD (R42, R45). -/
def execLoad (rd : GReg) (a : SAddr) (sz : BitVec 3) (s : State) : Host.Outcome State Fault Refusal :=
  issue (.load rd a sz) (fun k b s => loadOnce k rd a sz b s) s

/-- STORE (R42, R45). -/
def execStore (rs : GReg) (a : SAddr) (sz : BitVec 3) (s : State) : Host.Outcome State Fault Refusal :=
  issue (.store rs a sz) (fun k b s => storeOnce k rs a sz b s) s

/-- LDA (R57). -/
def execLda (rd ga : GReg) (sz : BitVec 3) (s : State) : Host.Outcome State Fault Refusal :=
  issue (.lda rd ga sz) (ldaBody rd ga sz) s

/-- STL (R57). -/
def execStl (rs ga : GReg) (sz : BitVec 3) (s : State) : Host.Outcome State Fault Refusal :=
  issue (.stl rs ga sz) (stlBody rs ga sz) s

/-- CAS (R58). -/
def execCas (rd ga rb rc : GReg) (d a l : Bool) (s : State) : Host.Outcome State Fault Refusal :=
  issue (.cas rd ga rb rc d a l) (casBody rd ga rb rc d a l) s

/-- AADD (R58). The rc field has no use in it. -/
def execAadd (rd ga rb rc : GReg) (d a l : Bool) (s : State) : Host.Outcome State Fault Refusal :=
  issue (.aadd rd ga rb rc d a l) (aaddBody rd ga rb d a l) s

/-- REP (R49). -/
def execRep (gc : GReg) (i : Governed) (s : State) : Host.Outcome State Fault Refusal :=
  issue (.rep gc i) (if governsVec i then vecGate (.rep gc i) (repBody gc i) else repBody gc i) s

/-- REPN (R50). -/
def execRepn (n : BitVec 6) (i : Governed) (s : State) : Host.Outcome State Fault Refusal :=
  issue (.repn n i) (repnBody n i) s

/-- VLOAD (R464). -/
def execVload (v : VReg) (a : VAddr) (mk : Option MReg) (w : BitVec 2) (s : State) : Host.Outcome State Fault Refusal :=
  issue (.vload v a mk w) (vecGate (.vload v a mk w) fun k b s => vloadOnce k v a mk w b s) s

/-- VSTORE (R464). -/
def execVstore (v : VReg) (a : VAddr) (mk : Option MReg) (w : BitVec 2) (s : State) : Host.Outcome State Fault Refusal :=
  issue (.vstore v a mk w) (vecGate (.vstore v a mk w) fun k b s => vstoreOnce k v a mk w b s) s

/-- STORE_BUFFER_DRAIN: the head of the store buffer is performed (R225). -/
def execStoreBufferDrain (s : State) : Host.Outcome State Fault Refusal :=
  event s (some (drainHead s))

end Sys2Proof.Machine
end

