-- ==== Sys2Proof/Machine/Branch.lean ====
section
/-! DEFINITION. Branches, calls and returns with their two stacks (R44, R47, R51, R265, R267). -/
namespace Sys2Proof.Machine

/-- Whether a condition holds (R44). -/
def condHolds (fl : W64) (cond : BitVec 4) : Bool :=
  let v := bit fl 0
  let c := bit fl 1
  let z := bit fl 2
  let n := bit fl 3
  match cond.toNat with
  | 0 => z
  | 1 => !z
  | 2 => n != v
  | 3 => n == v
  | 4 => z || n != v
  | 5 => !z && n == v
  | 6 => c
  | 7 => !c
  | 8 => c || z
  | 9 => !c && !z
  | 10 => n
  | 11 => !n
  | 12 => v
  | 13 => !v
  | _ => false

/-- The bank with its pc at a target. -/
def goto (b : Bank) (pc : W64) : Bank := { b with pc := pc }

/-- The target of a relative branch (R44). -/
def relTarget {n : Nat} (b : Bank) (off : BitVec n) : W64 := b.pc + off.signExtend 64 * 4

/-- An address with bits [1:0] taken as 0. -/
def align4 (x : W64) : W64 := x &&& ~~~ 3

/-- B (R44). -/
def bBody (off : BitVec 26) : Body := fun _ b s => .jump (goto b (relTarget b off)) s

/-- B.cond (R44). -/
def bCondBody (cond : BitVec 4) (off : BitVec 22) : Body := fun _ b s =>
  if condHolds b.fl cond then .jump (goto b (relTarget b off)) s else .ok b s

/-- BR: a register branch to an aligned address (R44). -/
def brBody (ra : GReg) : Body := fun _ b s =>
  let t := rg b ra
  if fieldN t 1 0 ≠ 0 then .exc { code := 0x03, addr := t } b s else .jump (goto b t) s

/-- Writes SSP, whose bits [2:0] read 0 (R265). -/
def wssp (b : Bank) (x : W64) : Bank := touchCtl { b with ssp := x &&& ~~~ 7 }

/-- Translates the two 8-byte accesses of a stack operation, the memory stack's first, each aligned before any translation (R47, R51). -/
def stackPair (k : Who) (akM akS : Ak) (b : Bank) (ms ss : W64) (s : State) : State × (Exc ⊕ List Phys) :=
  if ms.toNat % 8 ≠ 0 then (s, .inl { code := 0x04, acc := akAcc akM, addr := ms })
  else if ss.toNat % 8 ≠ 0 then (s, .inl { code := 0x04, acc := akAcc akS, addr := ss })
  else match xlateAll k akM b s [⟨ms, 0, 8⟩] with
    | (s1, .inl e) => (s1, .inl e)
    | (s1, .inr l1) =>
      match xlateAll k akS b s1 [⟨ss, 8, 8⟩] with
      | (s2, .inl e) => (s2, .inl e)
      | (s2, .inr l2) => (s2, .inr (l1 ++ l2))

/-- The call of CALL and CALLR: the return address goes onto both stacks (R51). -/
def callTo (k : Who) (target : W64) (b : Bank) (s : State) : Res :=
  let ms := rg b 31 - 8
  let ss := b.ssp - 8
  match stackPair k .store .shadowW b ms ss s with
  | (s1, .inl e) => .exc e b s1
  | (s1, .inr l) =>
    let ret := toBytes 8 (b.pc + 4)
    match storePhys k .single false ((ret ++ ret).map some) s1 l with
    | .done s2 => .jump (goto (wssp (wg b 31 ms) ss) target) s2
    | .fault s2 e => .exc e b s2
    | .wait s2 => .wait s2

/-- CALL (R51). -/
def callBody (off : BitVec 26) : Body := fun k b s => callTo k (relTarget b off) b s

/-- CALLR: an unaligned target raises instruction-alignment before any access (R44, R51, R273). -/
def callrBody (ra : GReg) : Body := fun k b s =>
  let t := rg b ra
  if fieldN t 1 0 ≠ 0 then .exc { code := 0x03, addr := t } b s else callTo k t b s

/-- RET: both stacks must agree on an aligned address (R51, R267). -/
def retBody : Body := fun k b s =>
  let ms := rg b 31
  match stackPair k .load .shadowR b ms b.ssp s with
  | (s1, .inl e) => .exc e b s1
  | (s1, .inr l) =>
    match loadPhys k 8 false s1 l with
    | .fault s2 e => .exc e b s2
    | .wait s2 => .wait s2
    | .bytes s2 bs =>
      let a := ofBytes 64 (bs.take 8)
      if a ≠ ofBytes 64 (bs.drop 8) then .exc { code := 0x0A, addr := a } b s2
      else if fieldN a 1 0 ≠ 0 then .exc { code := 0x03, addr := a } b s2
      else .jump (goto (wssp (wg b 31 (ms + 8)) (b.ssp + 8)) a) s2

/-- B (R44). -/
def execB (off : BitVec 26) (s : State) : Host.Outcome State Fault Refusal := issue (.b off) (bBody off) s

/-- B.cond (R44). -/
def execBCond (cond : BitVec 4) (off : BitVec 22) (s : State) : Host.Outcome State Fault Refusal :=
  issue (.bCond cond off) (bCondBody cond off) s

/-- BR (R44). -/
def execBr (ra : GReg) (s : State) : Host.Outcome State Fault Refusal := issue (.br ra) (brBody ra) s

/-- CALL (R51). -/
def execCall (off : BitVec 26) (s : State) : Host.Outcome State Fault Refusal := issue (.call off) (callBody off) s

/-- CALLR (R51). -/
def execCallr (ra : GReg) (s : State) : Host.Outcome State Fault Refusal := issue (.callr ra) (callrBody ra) s

/-- RET (R51). -/
def execRet (s : State) : Host.Outcome State Fault Refusal := issue .ret retBody s

end Sys2Proof.Machine
end

