-- ==== Sys2Proof/Machine/System.lean ====
section
/-! DEFINITION. The instructions of major 0x14: gates, fast calls, returns from entries, hold windows, the shadow stack and WAITI (R257 to R267, R275 to R277, R283). -/
namespace Sys2Proof.Machine

/-- An instruction that only rings up to r may execute (R257). -/
def ringGate (r : Nat) (body : Body) : Body := fun k b s =>
  if r < (ringOf b).toNat then .exc privExc b s else body k b s

/-- The checks of a gate entry's words for a caller's ring: the subcode of the first that fails (R259, R260). -/
def gateFault (b : Bank) (target d : W64) : Option (BitVec 4) :=
  if bit d 0 = false ∨ fieldN d 63 6 ≠ 0 ∨ fieldN target 1 0 ≠ 0 ∨ canonical b.ttb target = false then some 2
  else if fieldN d 4 3 < (ringOf b).toNat then some 3
  else if (ringOf b).toNat < fieldN d 2 1 then some 4
  else none

/-- Whether a gate number is in use (R258, R260). -/
def gateInRange (s : State) (gate : BitVec 12) : Bool := bit s.c.gatebase 63 && gate.toNat ≤ fieldN s.c.gatebase 11 0

/-- CALLG. The stack checks come before the gate's own checks, in the order of R273 (R260, log 13). -/
def callgBody (gate : BitVec 12) : Body := fun k b s =>
  let ms := rg b 31 - 16
  let ss := b.ssp - 8
  let fault (sub : BitVec 4) : Exc := { code := 0x0C, sub := sub, addr := gate.setWidth 64 }
  if ms.toNat % 8 ≠ 0 then .exc { code := 0x04, acc := .write, addr := ms } b s
  else match prepare k .store b ms 8 (piecesOf ms 16) s with
    | (s1, .inl e) => .exc e b s1
    | (s1, .inr l1) =>
      match xlateAll k .shadowW b s1 [⟨ss, 16, 8⟩] with
      | (s2, .inl e) => .exc e b s2
      | (s2, .inr l2) =>
        if gateInRange s2 gate = false then .exc (fault 1) b s2
        else
          let a := fieldN s2.c.gatebase 55 12 * 4096 + 16 * gate.toNat
          match readCheck s2 true a 16 with
          | (s2, some sub) => .exc { code := 0x0D, sub := sub, acc := .read, addr := BitVec.ofNat 64 a } b s2
          | (s2, none) =>
            let s3 := if inVellum s2 a || s2.c.ruledAct then s2 else fillL2 s2 (lineNo a) false
            let target := read64 s3 true a
            let d := read64 s3 true (a + 8)
            match gateFault b target d with
            | some sub => .exc (fault sub) b s3
            | none =>
              let ret := toBytes 8 (b.pc + 4)
              match storePhys k .single false ((ret ++ toBytes 8 b.fl ++ ret).map some) s3 (l1 ++ l2) with
              | .done s4 =>
                let fl1 := setRing b.fl (BitVec.ofNat 2 (fieldN d 2 1))
                let fl2 := if bit d 5 then setIe fl1 false else fl1
                .jump (goto (wfl (wssp (wg b 31 ms) ss) fl2) target) s4
              | .fault s4 e => .exc e b s4
              | .wait s4 => .wait s4

/-- RETG (R261). -/
def retgBody : Body := fun k b s =>
  let ms := rg b 31
  if ms.toNat % 8 ≠ 0 then .exc { code := 0x04, acc := .read, addr := ms } b s
  else match prepare k .load b ms 8 (piecesOf ms 16) s with
    | (s1, .inl e) => .exc e b s1
    | (s1, .inr l1) =>
      match xlateAll k .shadowR b s1 [⟨b.ssp, 16, 8⟩] with
      | (s2, .inl e) => .exc e b s2
      | (s2, .inr l2) =>
        match loadPhys k 8 false s2 (l1 ++ l2) with
        | .fault s3 e => .exc e b s3
        | .wait s3 => .wait s3
        | .bytes s3 bs =>
          let a := ofBytes 64 (bs.take 8)
          let f := ofBytes 64 ((bs.drop 8).take 8)
          if a ≠ ofBytes 64 (bs.drop 16) then .exc { code := 0x0A, addr := a } b s3
          else if (flRing f).toNat < (ringOf b).toNat then .exc { code := 0x0B, sub := 2, addr := f } b s3
          else .jump (goto (wfl (wssp (wg b 31 (ms + 16)) (b.ssp + 8)) (flMask f)) (align4 a)) s3

/-- The stack top that SYSC gives to a bank (R262, R263). -/
def sysTop (s : State) : W64 :=
  let span := fieldN s.c.sysstack 4 0
  (s.c.sysstack &&& ~~~ 0x1F) - (if span = 0 then 0 else BitVec.ofNat 64 (s.c.cur.val * 2 ^ span))

/-- SYSC: undefined in ring 0 (R257, R263). -/
def syscBody : Body := fun _ b s =>
  if ringOf b = 0 then .exc (undefExc .sysc) b s
  else
    let b1 := { b with sysrpc := b.pc + 4, sysrfl := b.fl }
    let b2 := wg (wg b1 30 (rg b 31)) 31 (sysTop s)
    .jump (goto (wfl b2 (setIe (setRing b.fl 1) false)) (align4 s.c.sysentry)) s

/-- SYSR (R264). -/
def sysrBody : Body := fun _ b s =>
  if (flRing b.sysrfl).toNat < (ringOf b).toNat then .exc { code := 0x0B, sub := 3, addr := b.sysrfl } b s
  else .jump (goto (wfl (wg b 31 (rg b 30)) (flMask b.sysrfl)) (align4 b.sysrpc)) s

/-- RETX: return from an ordinary entry (R275, R276). -/
def retxBody : Body := fun _ b s =>
  if (flRing s.c.xfl).toNat < (ringOf b).toNat then .exc { code := 0x0B, sub := 1, addr := b.pc } b s
  else .jump (goto (wfl b (flMask s.c.xfl)) (align4 s.c.xpc))
    { s with c := { s.c with ipl := BitVec.ofNat 4 (fieldN s.c.xcause 19 16), hold := false } }

/-- RETX.C: return from a critical entry (R275, R276). -/
def retxCBody : Body := fun _ b s =>
  if (flRing s.c.cxfl).toNat < (ringOf b).toNat then .exc { code := 0x0B, sub := 4, addr := b.pc } b s
  else .jump (goto (wfl b (flMask s.c.cxfl)) (align4 s.c.cxpc))
    { s with c := { s.c with cxcause := setBit s.c.cxcause 20 false } }

/-- HOLDEND closes the hold window (R277). -/
def holdendBody : Body := fun _ b s => .ok b { s with c := { s.c with hold := false } }

/-- SSPUSH (R266). -/
def sspushBody (ga : GReg) : Body := fun k b s =>
  let ss := b.ssp - 8
  match xlateAll k .shadowW b s [⟨ss, 0, 8⟩] with
  | (s1, .inl e) => .exc e b s1
  | (s1, .inr l) =>
    match storePhys k .single false ((toBytes 8 (rg b ga)).map some) s1 l with
    | .done s2 => .ok (wssp b ss) s2
    | .fault s2 e => .exc e b s2
    | .wait s2 => .wait s2

/-- SSPINC (R266). -/
def sspincBody (gb : GReg) : Body := fun _ b s => .ok (wssp b (b.ssp + BitVec.ofNat 64 (8 * fieldN (rg b gb) 15 0))) s

/-- WAITI (R283). -/
def waitiBody : Body := fun _ b s => if waitiEnds s then .ok b s else .wait s

/-- CALLG (R260). -/
def execCallg (gate : BitVec 12) (s : State) : Host.Outcome State Fault Refusal := issue (.callg gate) (callgBody gate) s
/-- RETG (R261). -/
def execRetg (s : State) : Host.Outcome State Fault Refusal := issue .retg retgBody s
/-- SYSC (R263). -/
def execSysc (s : State) : Host.Outcome State Fault Refusal := issue .sysc syscBody s
/-- SYSR (R264). -/
def execSysr (s : State) : Host.Outcome State Fault Refusal := issue .sysr (ringGate 1 sysrBody) s
/-- RETX (R275). -/
def execRetx (s : State) : Host.Outcome State Fault Refusal := issue .retx (ringGate 1 retxBody) s
/-- RETX.C (R275). -/
def execRetxC (s : State) : Host.Outcome State Fault Refusal := issue .retxC (ringGate 0 retxCBody) s
/-- HOLDEND (R277). -/
def execHoldend (s : State) : Host.Outcome State Fault Refusal := issue .holdend holdendBody s
/-- SSPUSH (R266). -/
def execSspush (ga : GReg) (s : State) : Host.Outcome State Fault Refusal := issue (.sspush ga) (ringGate 1 (sspushBody ga)) s
/-- SSPINC (R266). -/
def execSspinc (gb : GReg) (s : State) : Host.Outcome State Fault Refusal := issue (.sspinc gb) (sspincBody gb) s
/-- WAITI (R283). -/
def execWaiti (s : State) : Host.Outcome State Fault Refusal := issue .waiti (ringGate 1 waitiBody) s

end Sys2Proof.Machine
end

