-- ==== Sys2Proof/Machine/Accept.lean ====
section
/-! DEFINITION. Acceptance of operations by the tile unit, the board and the stream engine, their order on a tile and on a queue, and the events that they post to banks (R28, R68 to R71, R97, R163, R164, R173, R302). -/
namespace Sys2Proof.Machine

/-- A unit's instruction needs its domain: off, it is undefined; asleep, it wakes it and waits (R28). -/
def domGate (d : Fin 32) (c : Instr) (body : Body) : Body := fun k b s =>
  match domUse s d with
  | .ready => body k b s
  | .asleep => .wait (wakeRequest s d)
  | .off => .exc (undefExc c) b s

/-- What an operation captures at acceptance (R75, R166). -/
def captureOf (b : Bank) (s : State) : Capture := ⟨s.c.cur, ringOf b, b.ttb, s.c.ruledAct⟩

/-- Whether an operation that is not over reads a tile (R68). -/
def opReads (o : Op) (t : TReg) : Bool :=
  !o.done && (match o.kind with
  | .tst | .bplane | .brun => o.t == t
  | .tmov => o.ts == t
  | _ => false)

/-- Whether an operation that is not over writes a tile (R68). -/
def opWrites (o : Op) (t : TReg) : Bool :=
  !o.done && (match o.kind with
  | .tld | .tzero | .trel | .tmov | .idrainT => o.t == t
  | _ => false)

/-- Whether an operation names a tile. -/
def opNames (o : Op) (t : TReg) : Bool := opReads o t || opWrites o t

/-- Whether a reading operation has read every row that it needs (R69): a run has when its last A-row has entered. -/
def readDone (o : Op) : Bool := o.kind == .brun && decide (o.n ≤ o.prog)

/-- Whether the earlier operations let an operation work on its tiles (R69). -/
def tileFree (l : List Op) (o : Op) : Bool :=
  (List.finRange 16).all fun t =>
    l.all fun e =>
      !((opReads o t && opWrites e t) || (opWrites o t && (opWrites e t || (opReads e t && !readDone e))))

/-- The operations accepted before an operation. -/
def earlier (s : State) (o : Op) : List Op := s.ops.takeWhile fun e => e.id != o.id

/-- Whether an operation may work on its tiles now. -/
def mayWork (s : State) (o : Op) : Bool := tileFree (earlier s o) o

/-- Whether an operation is started through a stream queue (R163). -/
def onQueue (o : Op) : Bool := o.kind == .tld || o.kind == .tst || o.kind == .smove || o.kind == .idrainM

/-- Whether an operation counts among the eight of the board (R97). -/
def onBoard (o : Op) : Bool :=
  !o.done && !o.abandoned && (match o.kind with
  | .bplane | .bswap | .brun | .iclr | .idrainT | .idrainM => true
  | _ => false)

/-- The operations of a queue that have not left it (R163, R176). -/
def queueOps (s : State) (q : QNum) : List Op := s.ops.filter fun o => onQueue o && o.q == q && !o.left

/-- Whether a queue has room (R163). -/
def queueRoom (s : State) (q : QNum) : Bool := decide ((queueOps s q).length < 32)
/-- Whether the board has room (R97). -/
def boardRoom (s : State) : Bool := decide ((s.ops.filter onBoard).length < 8)

/-- Accepts an operation: last in the order of acceptance; one that no earlier operation on its tiles holds proceeds at once (R71). -/
def acceptOp (s : State) (o : Op) : State :=
  let o1 := { o with id := s.nextOp, qseq := s.nextOp }
  let o2 := { o1 with started := !onQueue o1 && tileFree s.ops o1 }
  { s with ops := s.ops ++ [o2], nextOp := s.nextOp + 1 }

/-- Changes one operation. -/
def updOp (s : State) (id : Nat) (f : Op → Op) : State :=
  { s with ops := s.ops.map fun o => if o.id = id then f o else o }

/-- Removes an operation that is over. -/
def dropOp (s : State) (id : Nat) : State := { s with ops := s.ops.filter fun o => o.id != id }

/-- Replaces a tile. -/
def setTile (s : State) (t : TReg) (x : Tile) : State := { s with tiles := s.tiles.set t.val x t.isLt }

/-- Sets the dirty bit of a tile (R85). -/
def setDirty (s : State) (t : TReg) : State := { s with c := { s.c with tdirty := setBit s.c.tdirty t.val true } }

/-- The state of a tile when one of its operations is over; base is what it is with no writer left (R68, R77). -/
def settleTile (s : State) (t : TReg) (base : TileState) : State :=
  let x := s.tiles[t]
  let failed := s.ops.any fun o => o.left && opNames o t
  let ending := x.st == .incomplete && s.ops.any fun o => (o.kind == .tzero || o.kind == .trel) && opWrites o t
  let st : TileState :=
    if failed || ending then .incomplete
    else if s.ops.any (opWrites · t) then .pending
    else base
  setTile s t { x with st := st, base := base }

/-- The kinds of bank events (R302). -/
inductive BankEvent where
  | sev | bev | mev
  deriving DecidableEq, Repr

/-- A bank that is selected or made READY or PARKED: it no longer waits for a tile, and TNR, which tells that it does, is 0. DESIGN CHOICE
(log 49): R293 counts TNR among the event bits, which only CLREV, FREE and LDM clear, but gives it the meaning that the bank is WAIT. -/
def wakeBank (b : Bank) (st : BankState) : Bank := { b with st := st, tnr := false, tnrTiles := [], tnrCfg := false }

/-- Posts an event to a bank: its bit is set, and with the event enabled a WAIT bank becomes READY; a FREE bank discards it (R293, R302). -/
def postEvent (s : State) (k : BankNum) (e : BankEvent) : State :=
  let b := s.banks[k]
  let (b1, i) := match e with
    | .sev => ({ b with sev := true }, 2)
    | .bev => ({ b with bev := true }, 3)
    | .mev => ({ b with mev := true }, 4)
  if b.st == .free then s
  else setBank s k (if bit s.c.schedctl i && b1.st == .wait then wakeBank b1 .ready else b1)

/-- Advances the completion count of a queue (R173). -/
def countDone (s : State) (q : QNum) : State :=
  { s with sq := s.sq.set q.val { s.sq[q] with done := s.sq[q].done + 1 } q.isLt }

/-- The operation of a queue with the lowest place in it. -/
def queueHead (s : State) (q : QNum) : Option Op :=
  (queueOps s q).foldl (fun m o => match m with
    | none => some o
    | some x => if o.qseq < x.qseq then some o else m) none

/-- Posts the operations at the head of a queue that are complete and post no record (R164, R173). -/
def postQueue (q : QNum) : Nat → State → State
  | 0, s => s
  | n + 1, s =>
    match queueHead s q with
    | some o => if o.kind ≠ .smove ∧ (o.done ∨ o.abandoned) then postQueue q n (countDone (dropOp s o.id) q) else s
    | none => s

/-- An operation of a queue is complete but for its posting (R164). -/
def finishQueued (s : State) (o : Op) : State := postQueue o.q 32 (updOp s o.id fun x => { x with done := true })

end Sys2Proof.Machine
end

