-- ==== Sys2Proof/Machine/StreamOps.lean ====
section
/-! DEFINITION. The memory accesses of the stream engine, the stops of its operations and their reports (R170 to R176, R329, R418). -/
namespace Sys2Proof.Machine

/-- The cause code of a translation failure, by exception code and subcode (R175, R242). -/
def streamCause (code : Byte) (sub : BitVec 4) : BitVec 5 :=
  match code.toNat with
  | 5 => if sub = 1 then 0x0B else if sub.toNat ≤ 3 then 0x01 else 0x02
  | 6 => 0x03
  | _ => 0x04

/-- The cause that stands for a request that waits; no record has it. -/
def streamWait : BitVec 5 := 0x1F

/-- The outcome of a stream access. -/
inductive SOut where
  | done (s : State) (bs : List Byte)
  /-- A cause met, with the virtual and the physical address of the access. -/
  | stop (s : State) (cause : BitVec 5) (va pa : W64)
  | wait (s : State)

/-- The outcome of a stream write: fab says that a part of it went to the fabric. -/
inductive WOut where
  | done (s : State) (fab : Bool)
  | stop (s : State) (cause : BitVec 5) (va pa : W64)
  | wait (s : State)

/-- A translation with captured rights and the checks of the memory behind it; a request to a sleeping VELLUM wakes it and is held
(R28, R168, R171, R172, R175). -/
def streamXlate (cap : Capture) (data write : Bool) (va : W64) (s : State) : State × ((BitVec 5 × W64) ⊕ (Nat × MType)) :=
  match translate .stream (if write then .store else .load) cap.ring cap.ttb va s with
  | .bad s1 code sub => (s1, .inl (if code = waitCode then streamWait else streamCause code sub, 0))
  | .ok s1 pa ty =>
    if data ∧ ty = .device then (s1, .inl (0x0C, BitVec.ofNat 64 pa))
    else if data ∧ cap.ruled ∧ inVellum s1 pa = false then (s1, .inl (0x0D, BitVec.ofNat 64 pa))
    else if inVellum s1 pa ∧ domUse s1 dVellum = .off then (s1, .inl (0x08, BitVec.ofNat 64 pa))
    else if inVellum s1 pa ∧ domUse s1 dVellum = .asleep then (wakeRequest s1 dVellum, .inl (streamWait, 0))
    else (s1, .inr (pa, ty))

/-- Reads the parts of a stream access: a hit in L2 is used, a miss allocates no line; an uncorrectable word or a poisoned line stops the
operation and is recorded (R162, R170, R175, R221, R227). data: not a descriptor or record access. -/
def streamRead (cap : Capture) (data : Bool) : List Piece → State → SOut
  | [], s => .done s []
  | p :: ps, s =>
    match streamXlate cap data false p.va s with
    | (s1, .inl (c, pa)) => if c = streamWait then .wait s1 else .stop s1 c p.va pa
    | (s1, .inr (pa, ty)) =>
      if s1.vellumZeroing && inVellum s1 pa then .wait s1
      else match accessCheck s1 (ty = .cacheable) pa p.len with
      | (s2, some _) => .stop s2 0x07 p.va (BitVec.ofNat 64 pa)
      | (s2, none) =>
        let bs := (List.range p.len).map fun i => ownByte s2 (decide (ty = .cacheable)) (pa + i)
        match streamRead cap data ps (if ty = .cacheable then touchHit s2 (lineNo pa) else s2) with
        | .done s3 r => .done s3 (bs ++ r)
        | r => r

/-- Translates the parts of a stream write. -/
def streamPrep (cap : Capture) (data : Bool) : List Piece → State → State × ((BitVec 5 × W64 × W64) ⊕ List Phys)
  | [], s => (s, .inr [])
  | p :: ps, s =>
    match streamXlate cap data true p.va s with
    | (s1, .inl (c, pa)) => (s1, .inl (c, p.va, pa))
    | (s1, .inr (pa, ty)) =>
      match streamPrep cap data ps s1 with
      | (s2, .inl e) => (s2, .inl e)
      | (s2, .inr l) => (s2, .inr (⟨p.va, p.off, p.len, pa, ty⟩ :: l))

/-- Marks the memory words of some bytes as poisoned: vellum words, the L2 line, or the line that goes to the fabric with the poison
indication (R329, R417). -/
def markPoison (s : State) (coh : Bool) (pa n : Nat) : State :=
  if inVellum s pa then
    { s with vellumBad := s.vellumBad ++ (wordsOf (vOff s pa) n).filter fun w => !s.vellumBad.contains w }
  else match (if coh then l2Find s (lineNo pa) else none) with
    | some (k, l) => { s with ca := { s.ca with l2 := spSet none s.ca.l2 k (some { l with poison := true }) } }
    | none => if s.memBad.contains (lineNo pa).toNat then s else { s with memBad := (lineNo pa).toNat :: s.memBad }

/-- Writes the parts of a stream access; bad are the offsets of bytes whose source was uncorrectable; the alias refuses its part
(R170, R329, R353, R420). -/
def streamWrite (cap : Capture) (data : Bool) (bad : Nat → Bool) (bs : List Byte) (ps : List Piece) (s : State) : WOut :=
  match streamPrep cap data ps s with
  | (s1, .inl (c, va, pa)) => if c = streamWait then .wait s1 else .stop s1 c va pa
  | (s1, .inr l) =>
    if s1.vellumZeroing && l.any fun p => inVellum s1 p.pa then .wait s1
    else match l.flatMap fun p => heldGranules s1 p.pa p.len with
      | g :: gs => .wait (askGranules s1 (g :: gs))
      | [] =>
        let s2 := l.foldl (fun s p =>
          let s2 := ownWrite s .unit p.ty p.pa ((bs.drop p.off).take p.len)
          (List.range p.len).foldl (fun s i => if bad (p.off + i) then markPoison s (p.ty = .cacheable) (p.pa + i) 1 else s) s2) s1
        match l.find? fun p => inAlias s1 p.pa with
        | some p => .stop (aliasRefused s2 p.pa) 0x05 p.va (BitVec.ofNat 64 p.pa)
        | none => .done s2 (l.any fun p => goesToFabric s1 .unit p.ty p.pa)

/-- DETAIL of a stop of the engine's own: TGTERR where the alias refuses a write, else 0 (R174, R414, R420). -/
def stopDetail (cause : BitVec 5) : Byte := if cause = 0x05 then 2 else 0

/-- KIND of a fault record (R174). -/
def opKindCode (o : Op) : BitVec 3 :=
  match o.kind with
  | .tld => 1
  | .tst => 2
  | .idrainM => 3
  | _ => 0

/-- The fault record of a stopped operation (R174). -/
def recordOf (o : Op) (st : Stop) : W64 × W64 × W64 × W64 :=
  let tile := match o.kind with
    | .tld | .tst => o.t.val
    | _ => 0
  (place 64 st.cause.toNat 0 ||| place 64 st.kind.toNat 5 ||| place 64 tile 8 ||| place 64 o.cap.ring.toNat 12
     ||| place 64 o.cap.bank.val 14 ||| placeB 64 st.write 16 ||| place 64 (o.prog / 2 ^ 32) 17
     ||| place 64 st.detail.toNat 24 ||| place 64 (o.prog % 2 ^ 32) 32,
   st.addr, o.ga, st.phys)

/-- Whether an operation is one of a tile (R176). -/
def tileOp (o : Op) : Bool := o.kind == .tld || o.kind == .tst

/-- A failed tile operation passes to its tile (R76, R176). -/
def passToTile (s : State) (o : Op) : State :=
  let x := s.tiles[o.t]
  let s1 := setTile s o.t { x with
    st := .incomplete, progFault := true, progRows := BitVec.ofNat 11 o.prog, progOp := if o.kind = .tld then 1 else 2 }
  postQueue o.q 32 (updOp s1 o.id fun y => { y with left := true, started := false, out := [], written := [] })

/-- Writes the fault record of a stopped operation (R176 step 3 to 5). -/
def recordStop (s : State) (o : Op) (st : Stop) : State :=
  let (w1, w2, w3, w4) := recordOf o st
  let sq := s.sq[o.q]
  let s1 := { s with sq := s.sq.set o.q.val { sq with
    recv := true, w1 := w1, w2 := w2, w3 := w3, w4 := w4,
    faulted := if tileOp o then none else some o.id } o.q.isLt }
  let s2 := pend (updOp s1 o.id fun y => { y with stop := some { st with recorded := true } }) 0x23
  if tileOp o then passToTile s2 o else s2

/-- A stop on a queue whose outstanding requests are finished and that has not been reported (R176). -/
def unreported (s : State) (q : QNum) : Option (Op × Stop) :=
  (queueOps s q).findSome? fun o => match o.stop with
    | some st => if st.recorded || !o.out.isEmpty || !o.written.isEmpty then none else some (o, st)
    | none => none

/-- Reports a held stop of a queue when its record is free (R176 step 2). -/
def reportStop (s : State) (q : QNum) : State :=
  if s.sq[q].recv then s
  else match unreported s q with
    | some (o, st) => recordStop s o st
    | none => s

/-- The causes of a translation, which names no physical address (R174, R244). -/
def xlateCause (cause : BitVec 5) : Bool := (1 ≤ cause.toNat && cause.toNat ≤ 4) || cause == 0x0B

/-- Stops an operation on a cause; of several the first that it meets stands. The report waits for the requests outstanding (R174, R176). -/
def stopOp (s : State) (o : Op) (cause : BitVec 5) (kind : BitVec 3) (detail : Byte) (write : Bool) (addr phys : W64) (early : Bool) : State :=
  let st : Stop := ⟨cause, kind, if cause = 0x05 then detail else 0, write, addr, if xlateCause cause then 0 else phys, false, early⟩
  reportStop (updOp s o.id fun y => { y with stop := some (y.stop.getD st) }) o.q

/-- An operation that may issue requests: started, not stopped and not over. -/
def opLive (o : Op) : Bool := o.started && o.stop.isNone && !o.left && !o.done && !o.abandoned

/-- Advances a progress over the lines that are complete above it. -/
def advance (p : Nat) (above : List Nat) : Nat → Nat × List Nat
  | 0 => (p, above)
  | n + 1 => if above.contains p then advance (p + 1) (above.filter (· ≠ p)) n else (p, above)

/-- A line of an operation is complete (R75, R169). -/
def lineDone (o : Op) (l : Nat) : Op :=
  let (p, a) := advance o.prog (l :: o.above) (o.above.length + 2)
  { o with prog := p, above := a }

/-- Whether a line has been moved: it is complete, or its writes are not yet known to be visible. -/
def isLineMoved (o : Op) (l : Nat) : Bool := decide (l < o.prog) || o.above.contains l || o.written.contains l

/-- Requests of a line that are outstanding (R170). -/
def outOf (o : Op) (l : Nat) : Nat := ((o.out.find? (·.1 == l)).map (·.2)).getD 0

/-- Changes the count of outstanding requests of a line. -/
def setOut (l n : Nat) (o : Op) : Op :=
  { o with out := (if n = 0 then [] else [(l, n)]) ++ o.out.filter (·.1 ≠ l) }

/-- The requests outstanding of all queues (R170). -/
def poolUsed (s : State) : Nat := s.ops.foldl (fun n o => n + (o.out.map (·.2)).sum) 0

/-- The requests that all queues share (R170). -/
def poolSize : Nat := 4096

/-- What an operation issues next: the bytes of the line, the requests, and the addresses with whether each is written. -/
structure Request where
  len : Nat
  cnt : Nat
  acc : List (Bool × W64)

/-- The translations of a request as it is issued: the cause that one meets. One that must wait for a walk is outstanding, and later requests
go on (R171). -/
def issueCheck (cap : Capture) : List (Bool × W64) → State → State × Option (BitVec 5 × Bool × W64 × W64)
  | [], s => (s, none)
  | (w, a) :: l, s =>
    match streamXlate cap true w a s with
    | (s1, .inl (c, pa)) => if c = streamWait then issueCheck cap l s1 else (s1, some (c, w, a, pa))
    | (s1, .inr _) => issueCheck cap l s1

/-- How an operation issues its requests: the next one, the length of a line, whether it may begin a line, and what it does as it begins one. -/
structure Issuer where
  req : State → Op → Request
  len : State → Op → Nat
  may : State → Op → Bool
  take : State → Op → State

/-- Issues the requests of an operation in line order, and in a line in address order, as far as byte off of a line, while the pool has room; a
cause ends the issue (R170, R176). -/
def issueTo (x : Issuer) (id line off : Nat) : Nat → State → State
  | 0, s => s
  | n + 1, s =>
    match s.ops.find? (·.id == id) with
    | none => s
    | some o =>
      let r := x.req s o
      if !opLive o || line < o.iline || (line == o.iline && off < o.ioff) || decide (o.n ≤ o.iline) || (o.ioff == 0 && !x.may s o)
          || decide (poolSize < poolUsed s + r.cnt) then s
      else
        let s0 := if o.ioff = 0 then x.take s o else s
        match issueCheck o.cap r.acc s0 with
        | (s1, some (c, w, va, pa)) => stopOp s1 o c (opKindCode o) (stopDetail c) w va pa false
        | (s1, none) =>
          let ends := decide (x.len s o ≤ o.ioff + r.len)
          issueTo x id line off n (updOp s1 id fun y => setOut o.iline (outOf o o.iline + r.cnt)
            { y with iline := if ends then o.iline + 1 else o.iline, ioff := if ends then 0 else o.ioff + r.len })

/-- A request of a line has failed: the line's requests are over, and the operation stops (R176). -/
def stopLine (s : State) (o : Op) (l : Nat) (cause : BitVec 5) (kind : BitVec 3) (detail : Byte) (write : Bool) (addr phys : W64) : State :=
  stopOp (updOp s o.id (setOut l 0)) o cause kind detail write addr phys false

/-- TPROG.ROWS follows the progress of the operation (R75). -/
def showProg (s : State) (o : Op) : State := setTile s o.t { s.tiles[o.t] with progRows := BitVec.ofNat 11 o.prog }

/-- The lines of an operation whose writes are visible are complete (R75, R169). -/
def settleOp (o : Op) : Op := o.written.foldl lineDone { o with written := [] }

/-- The lines that are written become complete once every write of the operations is visible; until then tokens ask for it (R75, R169, R418). -/
def settleLines (s : State) : State :=
  let l := s.ops.filter fun o => !o.written.isEmpty
  if l.isEmpty then s
  else if writesVisible s .unit then
    l.foldl (fun s o =>
      let s1 := updOp s o.id fun _ => settleOp o
      reportStop (if tileOp o then showProg s1 (settleOp o) else s1) o.q) s
  else askVisible s .unit

/-- A line's last request is finished: the line is complete at once, or when its fabric writes are visible; a stop whose last outstanding
requests these were is reported (R75, R169, R176). -/
def lineMade (s : State) (o : Op) (l : Nat) (fab : Bool) : State :=
  let o1 := setOut l 0 { o with moved := o.moved.filter (·.1 ≠ l), fab := o.fab.filter (· ≠ l) }
  let o2 := if fab || o.fab.contains l then { o1 with written := l :: o1.written } else lineDone o1 l
  let s1 := updOp s o.id fun _ => o2
  reportStop (settleLines (if tileOp o then showProg s1 o2 else s1)) o.q

end Sys2Proof.Machine
end

