-- ==== Sys2Proof/Machine/Tiles.lean ====
section
/-! DEFINITION. The tile file: descriptors, TCFG, TLD, TST, TZERO, TREL, TMOV, TRDY, TRESUME, the row accesses of the vector unit, the nib cache, and the events of accepted tile operations (R63 to R89). -/
namespace Sys2Proof.Machine

/-- Rows of a descriptor (R64). -/
def tileRows (x : Tile) : Nat := x.rowsm1.toNat + 1
/-- Row bytes of a descriptor (R64). -/
def tileBytes (x : Tile) : Nat := 64 * (x.rbm1.toNat + 1)
/-- Elements in a row (R65). -/
def tileElems (x : Tile) : Nat := tileBytes x * 8 / etypeBits x.etype
/-- Scale bytes of a row with MX = 1 (R66). -/
def tileScales (x : Tile) : Nat := if x.mx then tileElems x / 32 else 0

/-- A sidecar row of 0x7F bytes, the scale 1 (R66). -/
def scaleOnes : ScaleWord := BitVec.ofNat 512 (0x7F * ((2 ^ 512 - 1) / 255))

/-- Row r of a tile. -/
def tileRow (x : Tile) (r : Nat) : RowWord := spGet 0 x.rows r
/-- Sidecar row r of a tile. -/
def tileScale (x : Tile) (r : Nat) : ScaleWord := spGet scaleOnes x.scales r

/-- The descriptor as the read form of TCFG gives it (R64). -/
def tileDesc (s : State) (t : TReg) : W64 :=
  let x := s.tiles[t]
  let st := match x.st with
    | .empty => 0
    | .ready => 1
    | .pending => 2
    | .incomplete => 3
  place 64 x.rowsm1.toNat 0 ||| place 64 x.rbm1.toNat 10 ||| place 64 x.etype.toNat 16 ||| placeB 64 x.mx 20
    ||| place 64 st 24 ||| placeB 64 (bit s.c.tdirty t.val) 26

/-- Whether a type may carry an MX sidecar (R65). -/
def mxAllowed (e : BitVec 4) : Bool := 1 ≤ e.toNat && e.toNat ≤ 6

/-- What is wrong with a descriptor: the lowest tile-shape subcode (R65, R73, R83). -/
def descFault (v : Variant) (rowsm1 rbm1 : Nat) (e : BitVec 4) (mx : Bool) : Option (BitVec 4) :=
  if boardB v < rowsm1 + 1 then some 1
  else if boardB v < 64 * (rbm1 + 1) ∨ ((e = 3 ∨ e = 4) ∧ (rbm1 + 1) % 3 ≠ 0) then some 2
  else if 12 ≤ e.toNat ∨ (mx = true ∧ mxAllowed e = false) then some 3
  else none

/-- The low n bytes of a sidecar row, the others 0x7F. -/
def keepScales (n : Nat) (x : ScaleWord) : ScaleWord :=
  if n = 0 then scaleOnes else setField scaleOnes (8 * n - 1) 0 x.toNat

/-- A tile under a new descriptor (R67). -/
def reshape (x : Tile) (rowsm1 : BitVec 10) (rbm1 e : BitVec 4) (mx : Bool) : Tile :=
  let y : Tile := { x with rowsm1, rbm1, etype := e, mx }
  let n := tileRows y
  let rb := tileBytes y
  { y with
    rows := spMap 0 (fun _ d => BitVec.ofNat 8192 (d.toNat % 2 ^ (8 * rb))) (spKeep (· < n) x.rows)
    scales := if x.mx && mx then spMap scaleOnes (fun _ d => keepScales (tileScales y) d) (spKeep (· < n) x.scales) else []
    bad := x.bad.filter fun w => w / 256 < n && (if w % 256 < 128 then w % 256 * 8 < rb else x.mx && mx) }

/-- The tile as an instruction is checked against it: its descriptor follows the copies accepted and not complete (R70, R78, R73). -/
def descAt (s : State) : List Op → TReg → Tile
  | [], t => s.tiles[t]
  | o :: l, t => if o.kind = .tmov ∧ o.t = t then descAt s l o.ts else descAt s l t

/-- The tile whose descriptor an instruction is checked against. -/
def accTile (s : State) (t : TReg) : Tile := descAt s s.ops.reverse t

/-- A tile-not-ready fault (R83). -/
def notReady (sub : BitVec 4) (t : TReg) : Exc := { code := 0x09, sub := sub, addr := BitVec.ofNat 64 t.val }
/-- A tile-shape fault (R83). -/
def shapeExc (sub : BitVec 4) (t : TReg) : Exc := { code := 0x08, sub := sub, addr := BitVec.ofNat 64 t.val }
/-- A tile-shape fault INKRANGE: the first row out of range (R83, R119). -/
def inkRange (t row : Nat) : Exc := { code := 0x08, sub := 5, addr := place 64 t 0 ||| place 64 (row % 8192) 16 }

/-- The ownership check (R84). -/
def ownFault (s : State) (t : TReg) : Option Exc :=
  if s.tiles[t].ownAny || s.tiles[t].ownBank == s.c.cur then none else some (notReady 2 t)
/-- The state check (R70). -/
def stateFault (s : State) (t : TReg) : Option Exc := if s.tiles[t].st == .incomplete then some (notReady 1 t) else none

/-- Runs the checks in order; the first that fails is raised and nothing changes (R70, R83). -/
def checked (l : State → List (Option Exc)) (body : Body) : Body := fun k b s =>
  match (l s).findSome? id with
  | some e => .exc e b s
  | none => body k b s

/-- Takes the rows of a tile out of the nib cache (R87). -/
def nibDrop (s : State) (t : TReg) (p : BitVec 10 → Bool) : State :=
  let keep := fun (x : Option (TReg × BitVec 10)) => match x with
    | some (k, r) => if k = t ∧ p r = true then none else x
    | none => none
  { s with nib := { s.nib with tags := vmap keep s.nib.tags } }

/-- A row taken into an entry of the nib cache; the selected injection may strike the fill (R86, R341, R466). -/
def nibFill (s : State) (w : Fin 64) (t : TReg) (r : BitVec 10) : State :=
  let n := s.nib
  let s1 := { s with nib := { tags := n.tags.set w.val (some (t, r)) w.isLt, plru := BitVec.ofNat 63 (touch 64 n.plru.toNat w.val) } }
  let s2 := clearSpot s1 0x06 w.val
  if injKind s2 0x06 = 3 ∧ injSel s2 = w.val then plant s2 0x06 3 else s2

/-- An entry of the nib cache with a parity error is discarded, and the error recorded (R87, R322, R331). -/
def nibParity (s : State) (w : Fin 64) : State :=
  let s1 := clearSpot { s with nib := { s.nib with tags := s.nib.tags.set w.val none w.isLt } } 0x06 w.val
  postRecord s1 0x04 0x06 0 (BitVec.ofNat 64 w.val) (BitVec.ofNat 24 w.val) true 0

/-- A read of a row through the nib cache; an entry with a parity error is discarded and the row read again (R86, R87). DESIGN CHOICE (log 49):
a fill takes the lowest-numbered invalid entry while there is one, as R221 has it for L1I, L1D and L2; R86 does not say. -/
def nibRead (s : State) (t : TReg) (r : BitVec 10) : State :=
  let n := s.nib
  let fill (s : State) : State :=
    nibFill s (Fin.ofNat 64 (fillWay 64 s.nib.plru.toNat (fun _ => true) fun w => (s.nib.tags[Fin.ofNat 64 w]).isSome)) t r
  match (List.finRange 64).find? fun w => n.tags[w] == some (t, r) with
  | some w =>
    if spotAt s 0x06 w.val = 3 then fill (nibParity s w)
    else { s with nib := { n with plru := BitVec.ofNat 63 (touch 64 n.plru.toNat w.val) } }
  | none => fill s

/-- Doubleword d of a tile row as LOC; the sidecar's doublewords follow the 128 of the data row (R332). -/
def tileLoc (t row d : Nat) : Nat := t + (if d < 128 then 0 else 16) + 65536 * row + 2 ^ 32 * (d % 128)

/-- The same place as R466 selects it. -/
def tileSel (t row d : Nat) : Nat := t + (if d < 128 then 0 else 16) + 256 * (d % 128) + 65536 * row

/-- The doublewords of n bytes from doubleword d on. -/
def rowWords (d n : Nat) : List Nat := (List.range ((n + 7) / 8)).map (d + ·)

/-- What a read of doublewords of a tile row meets: each uncorrectable one is recorded, an injected single-bit error is corrected
(R322, R329, R341). -/
def tileMeet (s : State) (t : TReg) (row : Nat) (ws : List Nat) : State :=
  if s.tiles[t].bad.isEmpty && s.err.spots.isEmpty then s
  else ws.foldl (fun s d =>
    if s.tiles[t].bad.contains (256 * row + d) then postUe s 0x05 (tileLoc t.val row d) (spotAt s 0x05 (tileSel t.val row d) == 2)
    else meetSingle s 0x05 (tileSel t.val row d) (tileLoc t.val row d)) s

/-- The selected injection may strike one of the doublewords that a write of a tile row stores (R341, R466). -/
def tileStrike (s2 : State) (t : TReg) (row : Nat) (ws : List Nat) : State :=
  let k := injKind s2 0x05
  match (if k = 1 ∨ k = 2 then ws.find? fun d => tileSel t.val row d == injSel s2 else none) with
  | none => s2
  | some d =>
    let s3 := plant s2 0x05 k
    let x := s3.tiles[t]
    if k = 1 then s3
    else if d < 128 then
      setTile s3 t { x with rows := spSet 0 x.rows row (tileRow x row ^^^ place 8192 3 (64 * d)), bad := (256 * row + d) :: x.bad }
    else
      setTile s3 t { x with scales := spSet scaleOnes x.scales row (tileScale x row ^^^ place 512 3 (64 * (d - 128))), bad := (256 * row + d) :: x.bad }

/-- Doublewords of a tile row written afresh: their codes are good, but the selected injection may strike one (R329, R341, R466). -/
def tileFresh (s : State) (t : TReg) (row : Nat) (ws : List Nat) : State :=
  let s1 := if s.tiles[t].bad.isEmpty then s
    else setTile s t { s.tiles[t] with bad := s.tiles[t].bad.filter fun w => !(w / 256 == row && ws.contains (w % 256)) }
  tileStrike (if s1.err.spots.isEmpty then s1 else ws.foldl (fun s d => clearSpot s 0x05 (tileSel t.val row d)) s1) t row ws

/-- The doublewords of a tile row with its sidecar row. -/
def allWords (x : Tile) : List Nat := rowWords 0 (tileBytes x) ++ rowWords 128 (tileScales x)

/-- A read of a row through the nib cache, or from the tile array where no good entry holds it (R86, R87, R329). -/
def rowRead (s : State) (t : TReg) (r : BitVec 10) : State :=
  let held := (List.finRange 64).any fun w => s.nib.tags[w] == some (t, r) && spotAt s 0x06 w.val != 3
  nibRead (if held then s else tileMeet s t r.toNat (allWords s.tiles[t])) t r

/-- A read of rows of a tile with their sidecar rows (R329). -/
def tileMeetRows (s : State) (t : TReg) (rows : List Nat) : State :=
  if s.tiles[t].bad.isEmpty && s.err.spots.isEmpty then s
  else rows.foldl (fun s r => tileMeet s t r (allWords s.tiles[t])) s

/-- Writes a data row: fresh codes, and the nib entry goes (R81, R87, R329). -/
def putRow (s : State) (t : TReg) (r : Nat) (d : RowWord) : State :=
  let x := s.tiles[t]
  tileFresh (nibDrop (setTile s t { x with rows := spSet 0 x.rows r (BitVec.ofNat 8192 (d.toNat % 2 ^ (8 * tileBytes x))) }) t fun k => k.toNat == r)
    t r (rowWords 0 (tileBytes x))

/-- Writes a sidecar row. -/
def putScale (s : State) (t : TReg) (r : Nat) (d : ScaleWord) : State :=
  let x := s.tiles[t]
  tileFresh (nibDrop (setTile s t { x with scales := spSet scaleOnes x.scales r (keepScales (tileScales x) d) }) t fun k => k.toNat == r)
    t r (rowWords 128 (tileScales x))

/-- Makes every byte of a tile zero and every scale 0x7F (R77). -/
def clearTile (s : State) (t : TReg) : State :=
  let s1 := nibDrop (setTile s t { s.tiles[t] with rows := [], scales := [], bad := [] }) t fun _ => true
  if s1.err.spots.isEmpty && !bit s1.c.errinj 12 then s1
  else (List.range (tileRows s1.tiles[t])).foldl (fun s r => tileFresh s t r (allWords s.tiles[t])) s1

/-- The captured operation of an instruction. -/
def newOp (kind : OpKind) (b : Bank) (s : State) : Op := { id := 0, kind := kind, cap := captureOf b s }

/-- TCFG, write forms (R73). -/
def tcfgBody (t : TReg) (rowsm1 : BitVec 10) (rbm1 e : BitVec 4) (mx : Bool) : Body :=
  checked (fun s => [ownFault s t, (descFault s.var rowsm1.toNat rbm1.toNat e mx).map fun k => shapeExc k t]) fun _ b s =>
    if s.ops.any (opNames · t) || s.tiles[t].st == .incomplete then .wait s
    else .ok b (nibDrop (setDirty (setTile s t (reshape s.tiles[t] rowsm1 rbm1 e mx)) t) t fun _ => true)

/-- TCFG t, ga (R73). -/
def tcfgRegBody (t : TReg) (ga : GReg) : Body := fun k b s =>
  let x := rg b ga
  tcfgBody t (field x 9 0) (field x 13 10) (field x 19 16) (bit x 20) k b s

/-- TLD and TST (R74, R75). -/
def tldBody (load : Bool) (t : TReg) (ga gb gc : GReg) (q : QNum) : Body :=
  checked (fun s => [ownFault s t, stateFault s t]) fun _ b s =>
    if queueRoom s q then
      let o := { newOp (if load then .tld else .tst) b s with
        t := t, q := q, ga := rg b ga, gb := rg b gb, gc := rg b gc, n := tileRows (accTile s t) }
      let x := s.tiles[t]
      let s1 := setTile s t { x with progRows := 0, progFault := false, progOp := if load then 1 else 2 }
      let s2 := acceptOp s1 o
      .ok b (if load then settleTile (setDirty s2 t) t s.tiles[t].base else s2)
    else .wait s

/-- The failed operations of a tile are ended: their operands go, and a failed load leaves zero contents (R71, R77). -/
def endFailed (s : State) (t : TReg) : State :=
  if s.ops.any fun o => o.left && o.t == t then
    let load := s.ops.any fun o => o.left && o.t == t && o.kind == .tld
    let s1 := { s with ops := s.ops.filter fun o => !(o.left && o.t == t) }
    let s2 := setTile s1 t { s1.tiles[t] with progRows := 0, progFault := false, progOp := 0 }
    if load then clearTile s2 t else s2
  else s

/-- TZERO and TREL (R77). -/
def tclearBody (rel : Bool) (t : TReg) : Body :=
  checked (fun s => [ownFault s t]) fun _ b s =>
    let o := { newOp (if rel then .trel else .tzero) b s with t := t }
    let s1 := acceptOp (endFailed s t) o
    let s2 := if rel then s1 else setDirty s1 t
    .ok b (settleTile s2 t s.tiles[t].base)

/-- TMOV (R78, R83). -/
def tmovBody (td ts : TReg) : Body :=
  checked (fun s => [ownFault s td, ownFault s ts, stateFault s td, stateFault s ts]) fun _ b s =>
    if td = ts then .ok b (setDirty s td)
    else
      let o := { newOp .tmov b s with t := td, ts := ts }
      .ok b (settleTile (setDirty (acceptOp s o) td) td s.tiles[td].base)

/-- The states of the tiles of a mask (R79). -/
def trdyWord (s : State) (mask : BitVec 16) : W64 :=
  (List.finRange 16).foldl (fun (x : W64) (t : Fin 16) =>
    if bit mask t.val then x ||| place 64 (fieldN (tileDesc s t) 25 24) (2 * t.val) else x) (0 : W64)

/-- TRDY (R79). -/
def trdyBody (w : Bool) (gd : GReg) (mask : BitVec 16) : Body := fun _ b s =>
  if w && (List.finRange 16).any fun t => bit mask t.val && s.tiles[t].st == .pending then .wait s
  else .ok (wg b gd (trdyWord s mask)) s

/-- The retained operation of a tile set to continue at row TPROG.ROWS, last on its queue (R80). -/
def retake (s : State) (t : TReg) (o : Op) : State :=
  let x := s.tiles[t]
  let s1 := setTile s t { x with progFault := false, st := .pending }
  { updOp s1 o.id fun y => { y with
      left := false, started := false, stop := none, prog := x.progRows.toNat, above := [], written := [], fab := [], moved := [],
      iline := x.progRows.toNat, ioff := 0, out := [], qseq := s.nextOp } with
    nextOp := s.nextOp + 1 }

/-- A stop of a transfer with cause DOMAINOFF, STREAM being off: the record is written where it is free, and the tile becomes INCOMPLETE
(R28, R76, R449). -/
def offStop (s : State) (o : Op) : State :=
  let st : Stop := ⟨0x08, opKindCode o, 0, o.kind == .tst, o.ga, 0, true, false⟩
  let s1 := updOp s o.id fun y => { y with stop := some st }
  if s.sq[o.q].recv then pend (passToTile s1 o) 0x23 else recordStop s1 o st

/-- TRESUME (R80). With STREAM off it meets a fresh DOMAINOFF (R28). DESIGN CHOICE (log 49): on a tile that is still INCOMPLETE while an
accepted TZERO or TREL, not yet performed, has ended the failed operation, it retires after the owner check without effect; the spec names
no operation that it could continue. -/
def tresumeBody (t : TReg) : Body := fun k b s =>
  if s.tiles[t].st ≠ .incomplete then .ok b s
  else match s.ops.find? fun o => o.left && o.t == t with
    | none => checked (fun s => [ownFault s t]) (fun _ b s => .ok b s) k b s
    | some o =>
      checked (fun s => [ownFault s t, if o.cap.ring.toNat < (ringOf b).toNat then some (notReady 3 t) else none]) (fun _ b s =>
        match domUse s dStream with
        | .asleep => .wait (wakeRequest s dStream)
        | .off =>
          let s1 := retake s t o
          .ok b (match s1.ops.find? (·.id == o.id) with
            | some o1 => offStop s1 o1
            | none => s1)
        | .ready => if queueRoom s o.q = false then .wait s else .ok b (retake s t o)) k b s

/-- The shape checks of a row access (R81). -/
def rowFault (s : State) (t : TReg) (r : W64) (side : Bool) : Option Exc :=
  let x := accTile s t
  if tileRows x ≤ r.toNat then some (shapeExc 1 t) else if side && !x.mx then some (shapeExc 6 t) else none

/-- A vector register whose low n bytes are replaced. -/
def lowBytes {w : Nat} (v : VWord) (n : Nat) (x : BitVec w) : VWord :=
  if n = 0 then v else setField v (8 * n - 1) 0 x.toNat

/-- VTRD and VTRD.S: the bytes as read, an uncorrectable word recorded (R81, R329). -/
def vtrdBody (side : Bool) (vd : VReg) (t : TReg) (gr : GReg) : Body := fun k b s =>
  checked (fun s => [ownFault s t, stateFault s t, rowFault s t (rg b gr) side]) (fun _ b s =>
    let x := s.tiles[t]
    let r := (rg b gr).toNat
    if x.st = .pending then .wait s
    else
      let v := if side then lowBytes b.v[vd] (tileScales x) (tileScale x r) else lowBytes b.v[vd] (tileBytes x) (tileRow x r)
      .ok (wv b vd v) (rowRead s t (BitVec.ofNat 10 r))) k b s

/-- VTWR and VTWR.S (R81): they wait for the operations that R69 puts before them. -/
def vtwrBody (side : Bool) (v : VReg) (t : TReg) (gr : GReg) : Body := fun k b s =>
  checked (fun s => [ownFault s t, stateFault s t, rowFault s t (rg b gr) side]) (fun _ b s =>
    let r := (rg b gr).toNat
    if tileFree s.ops { newOp .idrainT b s with t := t } then
      let s1 := if side then putScale s t r (BitVec.ofNat 512 b.v[v].toNat) else putRow s t r (BitVec.ofNat 8192 b.v[v].toNat)
      .ok b (settleTile (setDirty s1 t) t .ready)
    else .wait s) k b s

/-- The first operation of a kind on a tile that is at work. -/
def workingOp (s : State) (kind : OpKind) (t : TReg) : Option Op := s.ops.find? fun o => o.kind == kind && o.t == t && o.started && !o.done

/-- The first transfer on a tile that is at work: it may issue requests, or has some outstanding. -/
def liveTransfer (s : State) (t : TReg) : Option Op := s.ops.find? fun o => tileOp o && o.t == t && (opLive o || (!o.left && !o.out.isEmpty))

/-- The addresses of a row's data and scales (R74). -/
def rowParts (x : Tile) (o : Op) (r : Nat) : List Piece × List Piece :=
  (piecesOf (o.ga + o.gb * BitVec.ofNat 64 r) (tileBytes x),
   if x.mx then piecesOf (o.gc + BitVec.ofNat 64 (r * tileScales x)) (tileScales x) else [])

/-- How a transfer issues its rows: the requests of a row's data, then those of its scales (R74, R170). -/
def tileIssuer : Issuer where
  req s o :=
    let (pd, ps) := rowParts s.tiles[o.t] o o.iline
    ⟨1, (pd ++ ps).length, (pd ++ ps).map fun p => (o.kind == .tst, p.va)⟩
  len _ _ := 1
  may _ _ := true
  take s _ := s

/-- A request of a row has failed. -/
def rowStop (s : State) (o : Op) (r : Nat) (c : BitVec 5) (va pa : W64) : State :=
  stopLine s o r c (opKindCode o) (stopDetail c) (o.kind == .tst) va pa

/-- One row of a TLD (R74). -/
def tldRow (s : State) (o : Op) (r : Nat) : State :=
  let (pd, ps) := rowParts s.tiles[o.t] o r
  match streamRead o.cap true pd s with
  | .stop s1 c va pa => rowStop s1 o r c va pa
  | .wait s1 => s1
  | .done s1 d =>
    match streamRead o.cap true ps s1 with
    | .stop s2 c va pa => rowStop s2 o r c va pa
    | .wait s2 => s2
    | .done s2 sc =>
      let s3 := putRow s2 o.t r (ofBytes 8192 d)
      lineMade (if s.tiles[o.t].mx then putScale s3 o.t r (ofBytes 512 sc) else s3) o r false

/-- One row of a TST: its uncorrectable words are recorded and written poisoned (R74, R329). -/
def tstRow (s : State) (o : Op) (r : Nat) : State :=
  let x := s.tiles[o.t]
  let (pd, ps) := rowParts x o r
  let read (s : State) : State := tileMeet s o.t r (allWords x)
  match streamWrite o.cap true (fun i => x.bad.contains (256 * r + i / 8)) (toBytes (tileBytes x) (tileRow x r)) pd s with
  | .stop s1 c va pa => rowStop (read s1) o r c va pa
  | .wait s1 => s1
  | .done s1 f1 =>
    match streamWrite o.cap true (fun i => x.bad.contains (256 * r + 128 + i / 8)) (toBytes (tileScales x) (tileScale x r)) ps s1 with
    | .stop s2 c va pa => rowStop (read s2) o r c va pa
    | .wait s2 => s2
    | .done s2 f2 => lineMade (read s2) o r (f1 || f2)

/-- The instructions of the tile group. -/
def tileInstr (c : Instr) (body : Body) (s : State) : Host.Outcome State Fault Refusal := issue c (domGate dTile c body) s

/-- TCFG, immediate form (R73). -/
def execTcfgImm (t : TReg) (rowsm1 : BitVec 10) (rbm1 : BitVec 4) (etype : BitVec 4) (mx : Bool) (s : State) : Host.Outcome State Fault Refusal :=
  tileInstr (.tcfgImm t rowsm1 rbm1 etype mx) (tcfgBody t rowsm1 rbm1 etype mx) s
/-- TCFG, register form (R73). -/
def execTcfgReg (t : TReg) (ga : GReg) (s : State) : Host.Outcome State Fault Refusal := tileInstr (.tcfgReg t ga) (tcfgRegBody t ga) s
/-- TCFG, read form (R73). -/
def execTcfgRead (gd : GReg) (t : TReg) (s : State) : Host.Outcome State Fault Refusal :=
  tileInstr (.tcfgRead gd t) (fun _ b s => .ok (wg b gd (tileDesc s t)) s) s
/-- TLD (R74, R75). -/
def execTld (t : TReg) (ga gb gc : GReg) (q : QNum) (s : State) : Host.Outcome State Fault Refusal :=
  tileInstr (.tld t ga gb gc q) (domGate dStream (.tld t ga gb gc q) (tldBody true t ga gb gc q)) s
/-- TST (R74, R75). -/
def execTst (t : TReg) (ga gb gc : GReg) (q : QNum) (s : State) : Host.Outcome State Fault Refusal :=
  tileInstr (.tst t ga gb gc q) (domGate dStream (.tst t ga gb gc q) (tldBody false t ga gb gc q)) s
/-- TZERO (R77). -/
def execTzero (t : TReg) (s : State) : Host.Outcome State Fault Refusal := tileInstr (.tzero t) (tclearBody false t) s
/-- TREL (R77). -/
def execTrel (t : TReg) (s : State) : Host.Outcome State Fault Refusal := tileInstr (.trel t) (tclearBody true t) s
/-- TMOV (R78). -/
def execTmov (td ts : TReg) (s : State) : Host.Outcome State Fault Refusal := tileInstr (.tmov td ts) (tmovBody td ts) s
/-- TRDY (R79). -/
def execTrdy (gd : GReg) (mask : BitVec 16) (s : State) : Host.Outcome State Fault Refusal := tileInstr (.trdy gd mask) (trdyBody false gd mask) s
/-- TRDY.W (R79). -/
def execTrdyW (gd : GReg) (mask : BitVec 16) (s : State) : Host.Outcome State Fault Refusal := tileInstr (.trdyW gd mask) (trdyBody true gd mask) s
/-- TRESUME (R80). -/
def execTresume (t : TReg) (s : State) : Host.Outcome State Fault Refusal := tileInstr (.tresume t) (tresumeBody t) s
/-- VTRD (R81). -/
def execVtrd (vd : VReg) (t : TReg) (gr : GReg) (s : State) : Host.Outcome State Fault Refusal :=
  tileInstr (.vtrd vd t gr) (vecGate (.vtrd vd t gr) (vtrdBody false vd t gr)) s
/-- VTRD.S (R81). -/
def execVtrdS (vd : VReg) (t : TReg) (gr : GReg) (s : State) : Host.Outcome State Fault Refusal :=
  tileInstr (.vtrdS vd t gr) (vecGate (.vtrdS vd t gr) (vtrdBody true vd t gr)) s
/-- VTWR (R81). -/
def execVtwr (vs : VReg) (t : TReg) (gr : GReg) (s : State) : Host.Outcome State Fault Refusal :=
  tileInstr (.vtwr vs t gr) (vecGate (.vtwr vs t gr) (vtwrBody false vs t gr)) s
/-- VTWR.S (R81). -/
def execVtwrS (vs : VReg) (t : TReg) (gr : GReg) (s : State) : Host.Outcome State Fault Refusal :=
  tileInstr (.vtwrS vs t gr) (vecGate (.vtwrS vs t gr) (vtwrBody true vs t gr)) s

/-- HELD_OP_RELEASE: an accepted operation proceeds once no earlier one on its tile holds it (R71). -/
def execHeldOpRelease (id : Nat) (s : State) : Host.Outcome State Fault Refusal :=
  event s <| (s.ops.find? fun o => o.id == id && !o.started && !onQueue o && o.kind != .remap && mayWork s o).map fun o =>
    updOp s o.id fun y => { y with started := true }

/-- TLD_ROW_COMPLETE: a row of the transfer at work on a tile is moved; the requests of the rows before it have been issued (R74 to R76, R170). -/
def execTldRowComplete (t : TReg) (row : Nat) (s : State) : Host.Outcome State Fault Refusal :=
  event s <| (liveTransfer s t).bind fun o =>
    if row < o.n ∧ isLineMoved o row = false ∧ mayWork s o then
      let s1 := issueTo tileIssuer o.id row 0 (poolSize + 1) s
      some (match s1.ops.find? (·.id == o.id) with
        | some o1 => if outOf o1 row = 0 then s1 else if o1.kind = .tld then tldRow s1 o1 row else tstRow s1 o1 row
        | none => s1)
    else none

/-- A transfer whose rows are all complete ends (R74, R82). -/
def endTransfer (s : State) (t : TReg) (o : Op) : State :=
  finishQueued (setTile s t { s.tiles[t] with progOp := 0, progRows := BitVec.ofNat 11 o.n }) o

/-- TLD_COMPLETE: the tile is READY unless other writers remain, and nothing older is left in the nib cache (R74, R82, R87). -/
def execTldComplete (t : TReg) (s : State) : Host.Outcome State Fault Refusal :=
  event s <| (liveTransfer s t).bind fun o =>
    if o.kind = .tld ∧ o.n ≤ o.prog then some (settleTile (nibDrop (endTransfer s t o) t fun _ => true) t .ready) else none

/-- TST_COMPLETE: every row is visible to all agents (R75). -/
def execTstComplete (t : TReg) (s : State) : Host.Outcome State Fault Refusal :=
  event s <| (liveTransfer s t).bind fun o =>
    if o.kind = .tst ∧ o.n ≤ o.prog then
      let x := s.tiles[t]
      let resumed := x.st == .pending && !s.ops.any (opWrites · t)
      some (settleTile (endTransfer s t o) t (if resumed then .ready else x.base))
    else some (settleLines s)

/-- The failed access of a transfer: the row with the lowest number whose requests are outstanding fails (R76, R176). -/
def failTransfer (s : State) (o : Op) (cause : BitVec 5) (detail : Byte) (va pa : W64) : State :=
  match (o.out.map (·.1)).min? with
  | some l => stopLine s o l cause (opKindCode o) detail (o.kind == .tst) va pa
  | none => stopOp s o cause (opKindCode o) detail (o.kind == .tst) va pa false

/-- TILE_TRANSFER_FAULT: an access of the transfer at work on a tile met a cause: one of an access of R175 (R76, R175, R176). -/
def execTileTransferFault (t : TReg) (cause : BitVec 5) (detail : Byte) (va pa : W64) (s : State) : Host.Outcome State Fault Refusal :=
  event s <| (liveTransfer s t).bind fun o =>
    if 1 ≤ cause.toNat ∧ cause.toNat ≤ 13 ∧ ¬ (cause = 0x09 ∨ cause = 0x0A) then some (failTransfer s o cause detail va pa) else none

/-- TZERO_PERFORMED (R77). -/
def execTzeroPerformed (t : TReg) (s : State) : Host.Outcome State Fault Refusal :=
  event s <| (workingOp s .tzero t).map fun o => settleTile (clearTile (dropOp s o.id) t) t .ready

/-- TREL_PERFORMED (R77). -/
def execTrelPerformed (t : TReg) (s : State) : Host.Outcome State Fault Refusal :=
  event s <| (workingOp s .trel t).map fun o =>
    let s1 := settleTile (clearTile (dropOp s o.id) t) t .empty
    { s1 with c := { s1.c with tdirty := setBit s1.c.tdirty t.val false } }

/-- TMOV_COMPLETE: the destination takes descriptor, contents, sidecar and state class of the source; an uncorrectable word is recorded, and
its copy is poisoned (R78, R329). -/
def execTmovComplete (td : TReg) (s : State) : Host.Outcome State Fault Refusal :=
  event s <| (workingOp s .tmov td).map fun o =>
    let x := s.tiles[o.ts]
    let s0 := tileMeetRows s o.ts (List.range (tileRows x))
    let y := s0.tiles[td]
    let s2 := setTile (dropOp s0 o.id) td { y with
      rowsm1 := x.rowsm1, rbm1 := x.rbm1, etype := x.etype, mx := x.mx, rows := x.rows, scales := x.scales, bad := x.bad }
    let s1 := if bit s2.c.errinj 12 then (List.range (tileRows x)).foldl (fun s r => tileStrike s td r (allWords x)) s2 else s2
    settleTile (nibDrop s1 td fun _ => true) td x.base

end Sys2Proof.Machine
end

