-- ==== Sys2Proof/Machine/Banks.lean ====
section
/-! DEFINITION. The register banks: their banked registers, the bank actions, the overflow trap, saving and loading, and the hardware scheduler (R33 to R36, R290 to R306). -/
namespace Sys2Proof.Machine

/-- Whether a number names a banked control register (R295). -/
def bankedReg (n : Nat) : Bool :=
  n == 1 || n == 2 || n == 3 || n == 4 || n == 0x18 || n == 0x19 || n == 0x20 || n == 0x43 || n == 0x44 || n == 0x46

/-- A banked control register as it reads. -/
def bankedRead (n : Nat) (b : Bank) : W64 :=
  match n with
  | 1 => b.fl
  | 2 => b.vl
  | 3 => b.vfst
  | 4 => b.ssp
  | 0x18 => b.sysrpc
  | 0x19 => b.sysrfl
  | 0x20 => b.ttb
  | 0x43 => b.ibase
  | 0x44 => b.bmode
  | 0x46 => b.srseed
  | _ => 0

/-- VL after a write (R35). -/
def vlNext (v : W64) : W64 := if 2048 < v.toNat then 2048 else v
/-- VFST after a write (R36). -/
def vfstNext (old v : W64) : W64 :=
  place 64 (if fieldN v 2 0 ≤ 4 then fieldN v 2 0 else fieldN old 2 0) 0 ||| (old &&& ~~~ v &&& 0x1F0)
/-- TTB after a write (R233). -/
def ttbNext (old v : W64) : W64 := if fieldN v 63 62 = 3 then setField v 63 62 (fieldN old 63 62) else v
/-- BMODE after a write (R120). -/
def bmodeNext (old v : W64) : W64 := if fieldN v 2 0 < 6 then v &&& 7 else old
/-- FL after an MTC (R33). -/
def flNext (old v : W64) (ring : BitVec 2) : W64 :=
  setBit (setField old 3 0 (fieldN v 3 0)) 10 (if ring.toNat ≤ 1 then bit v 10 else bit old 10)
/-- FL of a bank that is not executing after a write: no ring more privileged than the writer's (R295). -/
def flOther (v : W64) (ring : BitVec 2) : W64 := setRing (flMask v) (BitVec.ofNat 2 (max (fieldN v 9 8) ring.toNat))

/-- A banked control register after a write from a ring; own: the bank is executing (R33, R35, R36, R119, R120, R233, R262, R265, R295). -/
def bankedWrite (n : Nat) (v : W64) (ring : BitVec 2) (own : Bool) (b : Bank) : Bank :=
  touchCtl (match n with
  | 1 => { b with fl := if own then flNext b.fl v ring else flOther v ring }
  | 2 => { b with vl := vlNext v }
  | 3 => { b with vfst := vfstNext b.vfst v }
  | 4 => { b with ssp := v &&& ~~~ 7 }
  | 0x18 => { b with sysrpc := v }
  | 0x19 => { b with sysrfl := v }
  | 0x20 => { b with ttb := ttbNext b.ttb v }
  | 0x43 => { b with ibase := v &&& 0x1FFF }
  | 0x44 => { b with bmode := bmodeNext b.bmode v }
  | 0x46 => { b with srseed := v }
  | _ => b)

/-- The window bank as an instruction of the executing bank sees it: the executing bank's own copy is at hand. -/
def winBank (b : Bank) (s : State) : Bank := if s.c.bankwin = s.c.cur then b else s.banks[s.c.bankwin]

/-- Replaces the window bank. -/
def putWin (b : Bank) (s : State) (x : Bank) : Bank × State :=
  if s.c.bankwin = s.c.cur then (x, s) else (b, setBank s s.c.bankwin x)

/-- The event bits of a bank cleared (R293). -/
def clearEvents (b : Bank) : Bank := { b with sev := false, bev := false, mev := false, tnr := false, tnrTiles := [], tnrCfg := false }

/-- The code of a bank's state (R291). -/
def bankStCode : BankState → Nat
  | .free => 0
  | .parked => 1
  | .ready => 2
  | .wait => 3
  | .run => 4

/-- BANKSTAT (R293). -/
def bankStat (s : State) : W64 :=
  (List.finRange 4).foldl (fun (x : W64) (k : BankNum) =>
    let b := s.banks[k]
    x ||| place 64 (bankStCode b.st) (8 * k.val) ||| placeB 64 b.sev (8 * k.val + 3) ||| placeB 64 b.bev (8 * k.val + 4)
      ||| placeB 64 b.mev (8 * k.val + 5) ||| placeB 64 b.tnr (8 * k.val + 6))
    (place 64 s.c.bovbank.val 32 ||| placeB 64 s.c.afail 34)

/-- The executing bank b leaves as it stands for another bank, which runs (R291, R292, R303). -/
def runBank (s : State) (b : Bank) (dst : BankNum) : State :=
  let s1 := setCur s b
  let n := s1.banks[dst]
  { setBank s1 dst (wakeBank { n with pc := align4 n.pc } .run) with c := { s1.c with cur := dst } }

/-- The lowest-numbered FREE bank of 1 to 3. -/
def freeBank (s : State) : Option BankNum := [1, 2, 3].find? fun k : BankNum => s.banks[k].st == .free

/-- The bank-overflow trap of the executing bank: its MTC does not retire (R305). -/
def bankOverflow (b : Bank) (s : State) : State :=
  let s1 := { s with
    stall := none
    c := { s.c with bovbank := s.c.cur, bovrpc := s.banks[0].pc, bovrfl := s.banks[0].fl, entry := none, fresh := none, dfOpen := false } }
  let s2 := runBank s1 { b with st := .ready } 0
  let z := s2.banks[0]
  setBank s2 0 { z with fl := setIe z.fl false, pc := s2.c.boventry }

/-- Value n of those that one step leaves open (log 6). -/
def freeAt (w : Nat) (s : State) (n : Nat) : BitVec w := Config.freeBits w (s.freeCtr + n)

/-- The state after 64 × k free values more. -/
def spent (s : State) (k : Nat) : State := { s with freeCtr := s.freeCtr + 64 * k }

/-- The vector and mask registers of a bank without defined contents (R291). -/
def lostVec (s : State) (b : Bank) : Bank :=
  { b with v := vmapIdx (fun i _ => freeAt 16384 s i) b.v, m := vmapIdx (fun i _ => freeAt 2048 s i) b.m }

/-- The registers of a bank without defined contents (R291). -/
def lostRegs (s : State) (b : Bank) : Bank := { lostVec s b with g := vmapIdx (fun i _ => freeAt 64 s i) b.g }

/-- A bank that becomes FREE: its contents have no defined value, each register within what it can hold, and its event bits are clear (R291, R292). -/
def releasedBank (s : State) (b : Bank) : Bank :=
  let f (n : Nat) : W64 := freeAt 64 s (32 + n)
  clearEvents { lostRegs s b with
    st := .free, pc := f 0, fl := flMask (f 1), vl := vlNext (f 2 &&& 0xFFF), vfst := vfstNext 0 (f 3) ||| (f 3 &&& 0x1F0), ssp := f 4 &&& ~~~ 7
    sysrpc := f 5, sysrfl := f 6, ttb := ttbNext 0 (f 7), ibase := f 8 &&& 0x1FFF, bmode := bmodeNext 0 (f 9), srseed := f 10 }

/-- A write of BANKWIN: the window bank and its action (R292). A bank is switched out only without outstanding long results (R290). -/
def bankwinWrite (v : W64) (b : Bank) (s : State) : Res :=
  let k : BankNum := Fin.ofNat 4 (fieldN v 1 0)
  let s1 := { s with c := { s.c with bankwin := k } }
  let x := s.banks[k]
  match fieldN v 4 2 with
  | 1 =>
    match freeBank s with
    | some n =>
      let f := s.banks[n]
      .ok b { setBank s n { f with st := .parked, dirty := 0 } with c := { s.c with bankwin := n, afail := false } }
    | none =>
      if s.c.cur = 0 then .ok b { s with c := { s.c with afail := true } }
      else if b.longs.isEmpty then .trap (bankOverflow b s)
      else .wait s
  | 2 => if k = 0 ∨ k = s.c.cur then .ok b s1 else .ok b (setBank (spent s1 1) k (releasedBank s x))
  | 3 => if k = s.c.cur ∨ x.st = .free then .ok b s1 else .ok b (setBank s1 k (wakeBank x .parked))
  | 4 => if x.st = .parked ∨ x.st = .wait then .ok b (setBank s1 k (wakeBank x .ready)) else .ok b s1
  | 5 =>
    if k = s.c.cur ∨ x.st ≠ .ready then .ok b s1
    else if b.longs.isEmpty then .done (runBank s1 { b with st := .ready, pc := b.pc + 4 } k)
    else .wait s
  | 6 => if k = s.c.cur then .ok (touchCtl (clearEvents b)) s1 else .ok b (setBank s1 k (touchCtl (clearEvents x)))
  | 7 =>
    if s.c.cur = 0 then .jump (wfl { b with pc := align4 s.c.bovrpc } (setRing (flMask s.c.bovrfl) (ringOf b))) s1
    else .ok b s1
  | _ => .ok b s1

/-- The groups of a save area (R296). -/
inductive Group where
  | ctl
  | g (k : Fin 4)
  | v (i : VReg)
  | m
  deriving DecidableEq, Repr

/-- Bytes of a group (R296). -/
def groupSize : Group → Nat
  | .ctl => 128
  | .g _ => 64
  | .v _ => 2048
  | .m => 2048

/-- The place of a group in the save area of SVM (R296). -/
def groupOffs : Group → Nat
  | .ctl => 0
  | .g k => 0x80 + 0x40 * k.val
  | .m => 0x200
  | .v i => 0xA00 + 0x800 * i.val

/-- The mask bit of a group (R294). -/
def groupBit : Group → Nat
  | .g k => k.val
  | .ctl => 4
  | .v i => 8 + i.val
  | .m => 40

/-- Whether VEC holds a group (R290, R300). -/
def vecGroup : Group → Bool
  | .v _ | .m => true
  | _ => false

/-- The doublewords of the control group; rpc is the resume PC that is stored (R296). -/
def ctlWords (b : Bank) (rpc : W64) : List W64 :=
  [rpc, b.fl, b.vl, b.vfst, b.ssp, b.sysrpc, b.sysrfl, b.ttb, b.ibase, b.bmode, b.srseed,
   placeB 64 b.sev 0 ||| placeB 64 b.bev 1 ||| placeB 64 b.mev 2 ||| placeB 64 b.tnr 3, 0, 0, 0, 0]

/-- The bytes that a group stores; a vector group has none while VEC is off, and zeros stand for it (R300). -/
def groupBytes (vecOff : Bool) (b : Bank) (rpc : W64) (x : Group) : List Byte :=
  if vecOff && vecGroup x then List.replicate (groupSize x) 0
  else match x with
    | .ctl => (ctlWords b rpc).flatMap (toBytes 8)
    | .g k => (List.range 8).flatMap fun i => toBytes 8 (b.g[Fin.ofNat 32 (8 * k.val + i)])
    | .v i => toBytes 2048 b.v[i]
    | .m => (List.finRange 8).flatMap fun i : MReg => toBytes 256 b.m[i]

/-- Doubleword k of bytes. -/
def dwAt (bs : List Byte) (k : Nat) : W64 := ofBytes 64 ((bs.drop (8 * k)).take 8)

/-- A bank after a group is loaded into it (R296): the control group as register writes take it, but VFST's flags as they stand. -/
def groupLoad (b : Bank) (ring : BitVec 2) (x : Group) (bs : List Byte) : Bank :=
  match x with
  | .ctl =>
    { b with
      pc := dwAt bs 0, fl := flOther (dwAt bs 1) ring, vl := vlNext (dwAt bs 2)
      vfst := (vfstNext b.vfst (dwAt bs 3) &&& 7) ||| (dwAt bs 3 &&& 0x1F0)
      ssp := dwAt bs 4 &&& ~~~ 7, sysrpc := dwAt bs 5, sysrfl := dwAt bs 6, ttb := ttbNext b.ttb (dwAt bs 7)
      ibase := dwAt bs 8 &&& 0x1FFF, bmode := bmodeNext b.bmode (dwAt bs 9), srseed := dwAt bs 10
      sev := bit (dwAt bs 11) 0, bev := bit (dwAt bs 11) 1, mev := bit (dwAt bs 11) 2, tnr := bit (dwAt bs 11) 3 }
  | .g k => (List.range 8).foldl (fun b i => { b with g := b.g.set ((8 * k.val + i) % 32) (dwAt bs i) (Nat.mod_lt _ (by decide)) }) b
  | .v i => { b with v := b.v.set i.val (ofBytes 16384 bs) i.isLt }
  | .m => (List.finRange 8).foldl (fun b (i : MReg) => { b with m := b.m.set i.val (ofBytes 2048 ((bs.drop (256 * i.val)).take 256)) i.isLt }) b

/-- The group at which an instruction begins, or goes on (R297). -/
def svmStart (s : State) (load : Bool) : Nat :=
  match s.c.xfer with
  | some (i, _) => i
  | none => if bit s.c.svmprog 6 && bit s.c.svmprog 7 == load then fieldN s.c.svmprog 5 0 else 0

/-- A transfer of the window bank; step: the debug module's step performs one element, as of SVM and LDM (R440); other: the area of the other
half for LDH, or 0 (R299). -/
structure Xfer where
  load : Bool
  vecOff : Bool
  step : Bool := false
  other : W64 := 0

/-- The instruction stays at the ROB head with group i next, where an interrupt may be taken; the debug module's step ends there (R297, R440). -/
def xferHold (x : Xfer) (i : Nat) (b : Bank) (s : State) : Res :=
  if s.dbg.stepping && x.step then .jump b (svmStop s x.load i)
  else .wait (setCur { begun s with c := { (begun s).c with xfer := some (i, x.other) } } b)

/-- A group has been transferred: the next one follows as an element of its own (R297). -/
def xferNext (x : Xfer) (l : List (Nat × Group × W64)) (b : Bank) (s : State) : Res :=
  match l with
  | [] => .ok b s
  | (i, _, _) :: _ => xferHold x i b s

/-- Transfers the first of the listed groups, each with its progress number and address (R297). -/
def xferGroup (k : Who) (x : Xfer) : List (Nat × Group × W64) → Bank → State → Res
  | [], b, s => .ok b s
  | (i, gr, va) :: l, b, s =>
    let w := winBank b s
    let clean (y : Bank) : Bank := { y with dirty := setBit y.dirty (groupBit gr) false }
    let hold (s : State) : State := { s with c := { s.c with xfer := some (i, x.other) } }
    if x.load then
      match loadBytes k b va (groupSize gr) 8 false s with
      | .bytes s1 bs =>
        let (b2, s2) := putWin b s1 (clean (groupLoad w (ringOf b) gr bs))
        xferNext x l b2 s2
      | .fault s1 e => .exc e b (if e.code = waitCode then hold s1 else svmStop s1 true i)
      | .wait s1 => .wait (hold s1)
    else
      let rpc := if s.c.bankwin = s.c.cur then b.pc + 4 else w.pc
      let bs := groupBytes x.vecOff w rpc gr
      match storePieces k b va 8 true false (bs.map some) (piecesOf va bs.length) s with
      | .done s1 =>
        let (b2, s2) := putWin b s1 (clean w)
        xferNext x l b2 s2
      | .fault s1 e => .exc e b (if e.code = waitCode then hold s1 else svmStop s1 false i)
      | .wait s1 => .wait (hold s1)

/-- The groups in ascending order of their mask bits (R297). -/
def groupsByBit : List Group :=
  (List.finRange 4).map .g ++ [.ctl] ++ (List.finRange 32).map .v ++ [.m]

/-- The end of a transfer: SVMPROG.VALID is cleared (R297). -/
def xferEnd (r : Res) (f : Bank → State → Bank × State) : Res :=
  match r with
  | .ok b s =>
    let (b1, s1) := f b { s with c := { s.c with svmprog := setBit s.c.svmprog 6 false, xfer := none } }
    .ok b1 s1
  | r => r

/-- A FREE window bank that a load names becomes PARKED (R297). -/
def parkFree (s : State) : State :=
  let w := s.banks[s.c.bankwin]
  if w.st == .free then setBank s s.c.bankwin { w with st := .parked } else s

/-- The rules that every save or load of the window bank meets before it begins: undefined cases, rings, alignment, VEC, and the long results
of the bank (R290, R296, R297, R300). vec: a vector or mask group is named. -/
def xferGate (c : Instr) (undef load vec : Bool) (ga : GReg) (body : Bool → Body) : Body := fun k b s =>
  let off := domUse s dVec == .off
  if undef || (load && (s.c.bankwin == 0 || s.c.bankwin == s.c.cur || (vec && off))) then .exc (undefExc c) b s
  else ringGate 1 (fun k b s =>
    if (rg b ga).toNat % 256 ≠ 0 then .exc { code := 0x04, acc := if load then .read else .write, addr := rg b ga } b s
    else if vec && domUse s dVec == .asleep then .wait (wakeRequest s dVec)
    else if !(winBank b s).longs.isEmpty then .wait s
    else body off k b (if load then parkFree s else s)) k b s

/-- SVM and LDM (R296, R297). -/
def svmBody (c : Instr) (load : Bool) (ga gm : GReg) : Body := fun k b s =>
  let m := rg b gm
  let named := groupsByBit.filter fun g => bit m (groupBit g)
  let bad := s.var != .m1024 || (!load && bit m 63 && (s.c.bankwin == 0 || s.c.bankwin == s.c.cur))
  xferGate c bad load (named.any vecGroup) ga (fun off k b s =>
    let l := (named.filter fun g => svmStart s load ≤ groupBit g).map fun g => (groupBit g, g, rg b ga + BitVec.ofNat 64 (groupOffs g))
    xferEnd (xferGroup k { load := load, vecOff := off, step := true } l b s) fun b s =>
      let w := winBank b s
      if bit m 63 = false then (b, s) else if load then putWin b s (wakeBank w .ready) else putWin b (spent s 1) (releasedBank s w)) k b s

/-- The groups of a half in the order of its area (R299). -/
def halfGroups (h : Bool) : List Group :=
  if h then (List.finRange 16).map fun i => .v (Fin.ofNat 32 (16 + i.val))
  else [.ctl] ++ (List.finRange 4).map .g ++ [.m] ++ (List.finRange 16).map fun i => .v (Fin.ofNat 32 i.val)

/-- The groups of a half with their progress numbers from n on and their addresses from an area's base (R299). -/
def halfList (n : Nat) (base : W64) : Nat → List Group → List (Nat × Group × W64)
  | _, [] => []
  | o, g :: l => (n, g, base + BitVec.ofNat 64 o) :: halfList (n + 1) base (o + groupSize g) l

/-- SVH: the half number goes into the header, whose NEXT stays, and the groups follow (R299). -/
def svhBody (c : Instr) (ga : GReg) (h : Bool) : Body := fun k b s =>
  xferGate c (s.var == .m1024) false true ga (fun off k b s =>
    let x : Xfer := { load := false, vecOff := off }
    let l := (halfList 0 (rg b ga) 0x40 (halfGroups h)).filter fun e => svmStart s false ≤ e.1
    if s.c.xfer.isNone && svmStart s false == 0 then
      match storeBytes k b (rg b ga + 8) 8 false (toBytes 8 (BitVec.ofNat 64 h.toNat)) s with
      | .fault s1 e => .exc e b (if e.code = waitCode then s1 else svmStop s1 false 0)
      | .wait s1 => .wait s1
      | .done s1 => xferHold x 0 b s1
    else xferEnd (xferGroup k x l b s) fun b s => (b, s)) k b s

/-- The other half that LDH also loads: NEXT of the header at ga, where the header there names that half; 0 for none (R299). -/
def ldhOther (k : Who) (b : Bank) (ga : W64) (h : Bool) (s : State) : LoadOut ⊕ (State × W64) :=
  match s.c.xfer with
  | some (_, nx) => .inr (s, nx)
  | none =>
    match loadBytes k b ga 16 8 false s with
    | .bytes s1 hd =>
      let nx := dwAt hd 0
      if nx = 0 then .inr (s1, 0)
      else if nx.toNat % 256 ≠ 0 then .inl (.fault s1 { code := 0x04, acc := .read, addr := nx })
      else match loadBytes k b nx 16 8 false s1 with
        | .bytes s2 hd2 => .inr (s2, if dwAt hd2 1 = BitVec.ofNat 64 (!h).toNat then nx else 0)
        | r => .inl r
    | r => .inl r

/-- LDH: the half at ga, and the other half where NEXT leads to it (R299). DESIGN CHOICE (log 49): doubleword 1 of the header at ga is not compared
with h, and a NEXT that is not 256-byte aligned raises data-alignment with SVMPROG set; the spec is silent on both. -/
def ldhBody (c : Instr) (ga : GReg) (h : Bool) : Body := fun k b s =>
  xferGate c (s.var == .m1024) true true ga (fun off k b s =>
    let start := svmStart s true
    match ldhOther k b (rg b ga) h s with
    | .inl (.fault s1 e) => .exc e b (if e.code = waitCode then s1 else svmStop s1 true start)
    | .inl (.wait s1) => .wait s1
    | .inl (.bytes s1 _) => .wait s1
    | .inr (s1, nx) =>
      let first := halfList 0 (rg b ga) 0x40 (halfGroups h)
      let l := first ++ (if nx = 0 then [] else halfList first.length nx 0x40 (halfGroups !h))
      xferEnd (xferGroup k { load := true, vecOff := off, other := nx } (l.filter fun e => start ≤ e.1) b s1) fun b s => (b, s)) k b s

/-- MFB (R295): the executing bank's resume PC is the address of the next instruction, as SVM stores it. -/
def mfbBody (rd : GReg) (n : BitVec 12) : Body := fun k b s =>
  let w := winBank b s
  let x : Option W64 :=
    if bankedReg n.toNat then some (bankedRead n.toNat w)
    else if 0xF00 ≤ n.toNat ∧ n.toNat < 0xF20 then some w.g[Fin.ofNat 32 n.toNat]
    else if n = 0xF20 then some (if s.c.bankwin = s.c.cur then b.pc + 4 else w.pc)
    else none
  match x with
  | none => .exc (undefExc (.mfb rd n)) b s
  | some v => ringGate 1 (fun _ b s =>
      if n.toNat < 0xF00 ∨ w.longs.isEmpty then .ok (wg b rd v) s else .wait s) k b s

/-- MTB (R295). -/
def mtbBody (rs : GReg) (n : BitVec 12) : Body := fun k b s =>
  let own := s.c.bankwin == s.c.cur
  let w := winBank b s
  let v := rg b rs
  let x : Option Bank :=
    if bankedReg n.toNat then some (bankedWrite n.toNat v (ringOf b) own w)
    else if 0xF00 ≤ n.toNat ∧ n.toNat < 0xF20 then some (wg w (Fin.ofNat 32 n.toNat) v)
    else if n = 0xF20 ∧ !own then some (touchCtl { w with pc := v })
    else none
  match x with
  | none => .exc (undefExc (.mtb rs n)) b s
  | some y => ringGate 1 (fun _ b s =>
      let (b1, s1) := putWin b s y
      .ok b1 s1) k b s

/-- PRIO of a bank (R301). -/
def bankPrio (s : State) (k : BankNum) : Nat := fieldN s.c.schedctl (9 + 2 * k.val) (8 + 2 * k.val)

/-- The bank that the scheduler selects: a READY one of highest PRIO, the first after the executing one (R303). -/
def nextBank (s : State) : Option BankNum :=
  let cand := ([1, 2, 3].map fun i => s.c.cur + i).filter fun k : BankNum => s.banks[k].st == .ready
  let p := cand.foldl (fun m k => max m (bankPrio s k)) 0
  cand.find? fun k => bankPrio s k == p

/-- Whether an instruction that is stalled waits for tiles, and not for a domain to wake nor for a long result (R28, R203, R303). -/
def tileStalled (s : State) (c : Instr) (vec held : Bool) : Bool :=
  held && domRuns s dTile && (!vec || domRuns s dVec) && !srcPending c (curBank s)

/-- The stalls that the scheduler counts, with the tiles waited on: VTRD and VTWR, TRDY.W, and TCFG, which the flag tells (R73, R79, R81, R303). -/
def tnrWait (s : State) : Option (List TReg × Bool) :=
  let write (t : TReg) : Bool := !tileFree s.ops { newOp .idrainT (curBank s) s with t := t }
  let use (t : TReg) : Bool := s.ops.any (opNames · t) || s.tiles[t].st == .incomplete
  let wait (c : Instr) (vec held : Bool) (l : List TReg) (cfg : Bool) : Option (List TReg × Bool) :=
    if tileStalled s c vec held then some (l, cfg) else none
  match s.stall with
  | some (.vtrd v t r) => wait (.vtrd v t r) true (s.tiles[t].st == .pending) [t] false
  | some (.vtrdS v t r) => wait (.vtrdS v t r) true (s.tiles[t].st == .pending) [t] false
  | some (.vtwr v t r) => wait (.vtwr v t r) true (write t) [t] false
  | some (.vtwrS v t r) => wait (.vtwrS v t r) true (write t) [t] false
  | some (.trdyW g mask) =>
    let l := (List.finRange 16).filter fun t => bit mask t.val
    wait (.trdyW g mask) false (l.any fun t => s.tiles[t].st == .pending) l false
  | some (.tcfgImm t a b e m) => wait (.tcfgImm t a b e m) false (use t) [t] true
  | some (.tcfgReg t g) => wait (.tcfgReg t g) false (use t) [t] true
  | _ => none

/-- Whether the scheduler may switch the executing bank (R281, R282, R297, R303). -/
def schedOpen (s : State) : Bool :=
  bit s.c.schedctl 0 && !s.c.hold && !critActive s && bit (curBank s).fl 10 && !bit s.c.svmprog 6 && s.c.xfer.isNone
    && !(s.c.ruledAct && !s.c.ruledSched) && coreRuns s && (curBank s).longs.isEmpty

/-- A switch of the executing bank to the bank that the scheduler selects (R303). -/
def schedTo (s : State) (b : Bank) (dst : BankNum) : State :=
  runBank { s with stall := none, c := { s.c with fresh := none, dfOpen := false, entry := none } } b dst

/-- Whether a stalled bank's wait is over (R302). -/
def tnrOver (s : State) (b : Bank) : Bool :=
  b.tnrTiles.all fun t =>
    if b.tnrCfg then !(s.ops.any (opNames · t)) && s.tiles[t].st != .incomplete else s.tiles[t].st != .pending

/-- SVM (R296). -/
def execSvm (ga gm : GReg) (s : State) : Host.Outcome State Fault Refusal := issue (.svm ga gm) (svmBody (.svm ga gm) false ga gm) s
/-- LDM (R296). -/
def execLdm (ga gm : GReg) (s : State) : Host.Outcome State Fault Refusal := issue (.ldm ga gm) (svmBody (.ldm ga gm) true ga gm) s
/-- SVH (R299). -/
def execSvh (ga : GReg) (h : Bool) (s : State) : Host.Outcome State Fault Refusal := issue (.svh ga h) (svhBody (.svh ga h) ga h) s
/-- LDH (R299). -/
def execLdh (ga : GReg) (h : Bool) (s : State) : Host.Outcome State Fault Refusal := issue (.ldh ga h) (ldhBody (.ldh ga h) ga h) s
/-- MFB (R295). -/
def execMfb (rd : GReg) (n : BitVec 12) (s : State) : Host.Outcome State Fault Refusal := issue (.mfb rd n) (mfbBody rd n) s
/-- MTB (R295). -/
def execMtb (rs : GReg) (n : BitVec 12) (s : State) : Host.Outcome State Fault Refusal := issue (.mtb rs n) (mtbBody rs n) s

/-- SCHED_SWITCH: the hardware scheduler switches the executing bank out (R303). A bank that executed WAITI continues behind it. -/
def execSchedSwitch (why : SwitchWhy) (s : State) : Host.Outcome State Fault Refusal :=
  event s <|
    if schedOpen s = false then none
    else
      let b := curBank s
      match nextBank s with
      | none => none
      | some dst =>
        match why with
        | .tileStall =>
          match tnrWait s with
          | some (ts, cfg) =>
            if bit s.c.schedctl 1 then some (schedTo s { b with st := .wait, tnr := true, tnrTiles := ts, tnrCfg := cfg } dst) else none
          | none => none
        | .waiti =>
          if s.stall = some .waiti ∧ waitiEnds s = false ∧ bit s.c.schedctl 5 = true then
            some (schedTo s { b with st := .wait, pc := b.pc + 4 } dst)
          else none
        | .preempt =>
          if bit s.c.schedctl 6 = true ∧ bankPrio s s.c.cur < bankPrio s dst then some (schedTo s { b with st := .ready } dst) else none

/-- TNR_BANK_READY: the tiles that a WAIT bank waited for have left PENDING, or its interlock has released (R302). -/
def execTnrBankReady (b : BankNum) (s : State) : Host.Outcome State Fault Refusal :=
  event s <|
    let x := s.banks[b]
    if x.st = .wait ∧ x.tnr = true ∧ tnrOver s x = true then some (setBank s b (wakeBank x .ready)) else none

end Sys2Proof.Machine
end

