-- ==== Sys2Proof/Machine/Tallies.lean ====
section
/-! DEFINITION. The tallies: their sources, folding, snapshots and key tables (R307 to R317). -/
namespace Sys2Proof.Machine

/-- SRC of TALSRC. -/
def talSrcOf (x : W64) : Nat := fieldN x 3 0
/-- FMT of TALSRC. -/
def talFp (x : W64) : Bool := bit x 4
/-- KEYED of TALSRC. -/
def talKeyed (x : W64) : Bool := bit x 6
/-- LO of TALSRC, signed. -/
def talLo (x : W64) : Int := sval 8 (fieldN x 23 16)

/-- The empty values of the registers under a format (R309, R310). -/
def talEmpty (fp : Bool) : TalRegs := if fp then { mn := 0x7F800000, mx := 0xFF800000 } else {}

/-- What a write leaves in TALSRC (R310). -/
def talsrcNext (old v : W64) : W64 :=
  let src := if fieldN v 3 0 ≤ 6 then fieldN v 3 0 else fieldN old 3 0
  let fmt := src == 6 && bit v 4
  place 64 src 0 ||| placeB 64 fmt 4 ||| placeB 64 (!fmt && bit v 5) 5 ||| placeB 64 (src == 6 && bit v 6) 6
    ||| (v &&& 0xFFFFFFFF1FFFFF00)

/-- Whether a write of TALSRC changes the source or the format (R310): SEL and KEEP do not count. -/
def talsrcClears (old new : W64) : Bool := (old &&& 0xFFFFFFFF1FFF007F) != (new &&& 0xFFFFFFFF1FFF007F)

/-- Replaces a tally. -/
def setTally (s : State) (u : TallyNum) (x : Tally) : State := { s with tal := s.tal.set u.val x u.isLt }

/-- A write of TALSRC; the general core's is ignored while the quill holds the tally (R310, R316). -/
def writeTalsrc (s : State) (u : TallyNum) (v : W64) (byQuill : Bool) : State :=
  let x := s.tal[u]
  if x.qlock && !byQuill then s
  else
    let n := talsrcNext x.src v
    let clear := bit v 7 || talsrcClears x.src n
    setTally s u { x with src := n, live := if clear then talEmpty (talFp n) else x.live }

/-- The bits of TALKBASE that exist in a configuration, without QLOCK (R310). -/
def talkbaseMask (v : Variant) : W64 := maskBits 64 (vellumLog2 v - 1) 9

/-- A write of TALKBASE (R310, R316). -/
def writeTalkbase (s : State) (u : TallyNum) (v : W64) (byQuill : Bool) : State :=
  let x := s.tal[u]
  if x.qlock && !byQuill then s
  else setTally s u { x with kbase := (v &&& talkbaseMask s.var) ||| place 64 (min 10 (fieldN v 29 26)) 26 }

/-- Keys of a tally: 2^KEYSLOG2 (R310). -/
def talKeys (x : Tally) : Nat := 2 ^ fieldN x.kbase 29 26

/-- The histogram bin of a sample (R309). -/
def talBin (src : W64) (v : W32) : Nat :=
  let lo := talLo src
  let b : Int :=
    if talFp src then
      match elemNum 10 false v.toNat with
      | .fin _ 0 _ => 0
      | .fin _ m x => log2Of m x - lo + 1
      | _ => 128 - lo + 1
    else if bit src 5 then
      if v.toNat < fieldN src 63 32 then 0 else 1 + ((v.toNat - fieldN src 63 32) / 2 ^ fieldN src 28 24 : Nat)
    else if v = 0 then 0 else (Nat.log2 v.toNat : Int) - lo + 1
  (min (max b 0) 63).toNat

/-- Whether a sample is a NaN that only NAN counts (R309). -/
def talNan (src : W64) (v : W32) : Bool := talFp src && elemNum 10 false v.toNat == .nan

/-- The smaller and the larger of two samples (R309): in FP32, −0 lies below +0. -/
def talMin (fp : Bool) (a b : W32) : W32 :=
  if fp then (if ltNum true (elemNum 10 false b.toNat) (elemNum 10 false a.toNat) then b else a) else if b < a then b else a
/-- The larger of two samples. -/
def talMax (fp : Bool) (a b : W32) : W32 :=
  if fp then (if ltNum true (elemNum 10 false a.toNat) (elemNum 10 false b.toNat) then b else a) else if a < b then b else a

/-- SUM after a sample (R309). -/
def talSum (fp : Bool) (sum : W64) (v : W32) : W64 :=
  if fp then roundF64 (addNum false (f64Num sum) (elemNum 10 false v.toNat)) else sum + v.setWidth 64

/-- fold of R309. -/
def talFold (src : W64) (r : TalRegs) (v : W32) : TalRegs :=
  let fp := talFp src
  if talNan src v then { r with nan := if r.nan = 0xFFFFFF then r.nan else r.nan + 1 }
  else
    let b := talBin src v
    { r with cnt := r.cnt + 1, mn := talMin fp r.mn v, mx := talMax fp r.mx v, sum := talSum fp r.sum v,
             hist := spSet 0 r.hist b (spGet 0 r.hist b + 1) }

/-- The vellum offset of a key's entry in the half of a ply (R314). DESIGN CHOICE (log 49): the offset of a table whose OFFS is not aligned to its
size does not wrap at the end of the vellum; the spec says only that its entries overlap other data. -/
def keyEntry (x : Tally) (ply : W64) (k : Nat) : Nat :=
  512 * fieldN x.kbase 25 9 + ply.toNat % 2 * (512 * talKeys x) + 512 * k

/-- A tally's read of the vellum as the checks see it: an uncorrectable word is recorded, and used as read (R162, R322). -/
def talMeet (s : State) (o n : Nat) : State :=
  if s.vellumBad.isEmpty && s.err.spots.isEmpty || decide (2 ^ vellumLog2 s.var < o + n) then s
  else (readCheck s false (s.cfg.vellumbase.toNat + o) n).1

/-- A doubleword of the vellum. -/
def vellum64 (s : State) (o : Nat) : W64 := ofBytes 64 (spGetAll 0 s.vellum o 8)

/-- Writes a buffered key header back (R315). -/
def writeHeader (s : State) (k : KeyBuf) : State :=
  writeVellum s k.offs (toBytes 8 k.d0 ++ toBytes 8 k.d1 ++ toBytes 8 k.d2 ++ toBytes 8 k.d3)

/-- The header of an entry as it stands in the vellum. -/
def readHeader (s : State) (o : Nat) : State × KeyBuf :=
  let s1 := talMeet s o 32
  (s1, ⟨o, vellum64 s1 o, vellum64 s1 (o + 8), vellum64 s1 (o + 16), vellum64 s1 (o + 24)⟩)

/-- Brings the header of an entry into the buffer of a tally (R315). -/
def openHeader (s : State) (x : Tally) (o : Nat) : State × KeyBuf :=
  match x.kbuf with
  | some k => if k.offs = o then (s, k) else readHeader (writeHeader s k) o
  | none => readHeader s o

/-- An empty entry for a ply (R314). -/
def emptyHeader (fp : Bool) (o : Nat) (ply : W64) : KeyBuf :=
  let e := talEmpty fp
  ⟨o, e.mx ++ e.mn, 0, 0, ply⟩

/-- A header after a sample, without its bin (R309, R314). -/
def headerFold (src : W64) (k : KeyBuf) (v : W32) : KeyBuf :=
  let fp := talFp src
  if talNan src v then
    { k with d1 := setField k.d1 63 40 (min 0xFFFFFF (fieldN k.d1 63 40 + 1)) }
  else
    { k with
      d0 := talMax fp (hiWord k.d0) v ++ talMin fp (loWord k.d0) v
      d1 := setField k.d1 39 0 (fieldN k.d1 39 0 + 1)
      d2 := talSum fp k.d2 v }

/-- Folds a sample into the entry of its key (R314, R315). -/
def keyFold (s : State) (u : TallyNum) (key : Nat) (p : Sample) : State :=
  let x := s.tal[u]
  let o := keyEntry x p.ply key
  let (s1, k) := openHeader s x o
  let fresh := k.d3 != p.ply
  let k1 := if fresh then emptyHeader (talFp x.src) o p.ply else k
  let s2 := if fresh then writeVellum s1 (o + 32) (List.replicate 256 0) else s1
  let s3 := setTally s2 u { x with kbuf := some (headerFold x.src k1 p.v) }
  if talNan x.src p.v then s3
  else
    let a := o + 32 + 4 * talBin x.src p.v
    let n := ofBytes 32 (spGetAll 0 s3.vellum a 4)
    writeVellum (talMeet s3 a 4) a (toBytes 4 (if n = 0xFFFFFFFF then n else n + 1))

/-- Folds one sample: into the live registers, or into the snapshot when its ply is over (R309, R313, R314). -/
def foldSample (s : State) (u : TallyNum) (p : Sample) : State :=
  let x := s.tal[u]
  let s1 := setTally s u (if p.ply = s.c.ply then { x with live := talFold x.src x.live p.v }
                          else { x with snap := talFold x.src x.snap p.v })
  match p.key with
  | some k => if talKeyed x.src && decide (k.toNat < talKeys x) then keyFold s1 u k.toNat p else s1
  | none => s1

/-- Adds dropped samples to TALDROP (R308). -/
def talDrop (x : Tally) (n : Nat) : Tally := { x with live := { x.live with drop := BitVec.ofNat 32 (min 0xFFFFFFFF (x.live.drop.toNat + n)) } }

/-- The snapshot of one tally at a PLYC whose new ply is n (R313). -/
def talSnapshot (n : W64) (x : Tally) : Tally :=
  let keep := bit x.src 15 && !talKeyed x.src
  { x with
    sply := n
    keyed := talKeyed x.src
    snap := x.live
    live := if keep then x.live else talEmpty (talFp x.src)
    pend := !x.queue.isEmpty || x.kbuf.isSome }

/-- A long result of a general register is on its way (R203). -/
def gPending (b : Bank) (r : GReg) : Bool := b.longs.any fun l => match l with
  | .g k _ => k == r
  | .v _ _ => false

/-- TALLY (R311): only a keyed one reads gk. -/
def tallyBody (u : TallyNum) (g k : GReg) : Body := fun _ b s =>
  let x := s.tal[u]
  if talSrcOf x.src ≠ 6 then .ok b s
  else if 64 ≤ x.queue.length ∨ (talKeyed x.src = true ∧ gPending b k = true) then .wait s
  else
    let key : Option (BitVec 10) := if talKeyed x.src then some (BitVec.ofNat 10 (rg b k).toNat) else none
    .ok b (setTally s u { x with queue := x.queue ++ [⟨loWord (rg b g), key, s.c.ply⟩] })

/-- SEL of TALSRC (R307). -/
def talSel (x : W64) : Nat := fieldN x 14 8

/-- A sample of a hardware source, with the events of the same cc behind it: a full queue drops it. A clock-gated VELLUM wakes for it; one that is
off or in retention takes none (R28, R308). -/
def offerSample (s : State) (u : TallyNum) (v : W32) (more : Nat) : State :=
  if domUse s dVellum = .off then s
  else
    let x := s.tal[u]
    wakeRequest (setTally s u (if 64 ≤ x.queue.length then talDrop x (more + 1)
      else talDrop { x with queue := x.queue ++ [⟨v, none, s.c.ply⟩] } more)) dVellum

/-- A sample for every tally whose TALSRC selects its source (R307). -/
def offerAll (s : State) (p : W64 → Bool) (v : W32) : State :=
  (List.finRange 16).foldl (fun s u => if p s.tal[u].src then offerSample s u v 0 else s) s

/-- The sample of an inkwell row in the float view: the largest EXP among the entries that a run writes or a drain reads (R307). -/
def rowSample (s : State) (drain : Bool) (semi : BitVec 3) (xs : List Ink) : State :=
  if semi.toNat < 3 ∧ xs ≠ [] then
    offerAll s (fun c => talSrcOf c == 4 && bit c 8 == drain) (BitVec.ofNat 32 (xs.foldl (fun m x => max m (fieldN x 38 28)) 0))
  else s

/-- The sample of a mailbox that the quill hands back, in sc since the host handed it over (R307). -/
def boxSample (s : State) (m : BoxNum) (sc : W64) : State :=
  offerAll s (fun c => talSrcOf c == 3 && (bit c 10 || fieldN c 9 8 == m.val)) (BitVec.ofNat 32 (min sc.toNat 0xFFFFFFFF))

/-- Whether TALSRC selects an event (R307). -/
def selects (c : W64) : SampleEv → Bool
  | .request q => talSrcOf c == 1 && (bit c 14 || fieldN c 13 8 == q.val)
  | .fabricRead p => talSrcOf c == 2 && (fieldN c 11 8 == 0 || bit c (8 + p.val))
  | .boardIdle => talSrcOf c == 5

/-- TALLY (R311). -/
def execTally (u : TallyNum) (gs gk : GReg) (s : State) : Host.Outcome State Fault Refusal := issue (.tally u gs gk) (tallyBody u gs gk) s

/-- TALLY_SAMPLE: an event that TALSRC selects gives a sample, with more events of the same cc behind it; its value counts cc, which the model does
not hold (R307, R308). -/
def execTallySample (u : TallyNum) (v : SampleIn) (more : Nat) (s : State) : Host.Outcome State Fault Refusal :=
  event s (if selects s.tal[u].src v.ev then some (offerSample s u v.val more) else none)

/-- TALLY_FOLD: the oldest queued sample is folded (R309, R313). -/
def execTallyFold (u : TallyNum) (s : State) : Host.Outcome State Fault Refusal :=
  event s <|
    let x := s.tal[u]
    match x.queue with
    | [] => none
    | p :: l => if domRuns s dVellum && !s.vellumZeroing then some (foldSample (setTally s u { x with queue := l }) u p) else none

/-- TALLY_PEND_CLEAR: the last sample of the snapshot's ply is folded and the buffered header is written back (R313, R315). -/
def execTallyPendClear (u : TallyNum) (s : State) : Host.Outcome State Fault Refusal :=
  event s <|
    let x := s.tal[u]
    if x.pend = true ∧ (x.queue.all fun p => p.ply == s.c.ply) = true ∧ domRuns s dVellum = true then
      let s1 := match x.kbuf with
        | some k => writeHeader s k
        | none => s
      some (setTally s1 u { x with pend := false, kbuf := none })
    else none

end Sys2Proof.Machine
end

