-- ==== Sys2Proof/Machine/Board.lean ====
section
/-! DEFINITION. The board: plane records, BPLANE, BSWAP, BRUN, the rank edge, the result rows, the duty and the spare map; and the order of board and inkwell operations (R90 to R116, R121 to R125, R133). -/
namespace Sys2Proof.Machine

/-- The types of quad mode (R92). -/
def quadType (e : BitVec 4) : Bool := e == 6 || e == 8 || e == 9
/-- The types that the board accepts in SUM-PROD (R92). -/
def boardType (e : BitVec 4) : Bool := 1 ≤ e.toNat && e.toNat ≤ 9

/-- SEMI of BMODE (R120). -/
def semiOf (b : Bank) : BitVec 3 := BitVec.ofNat 3 (fieldN b.bmode 2 0)
/-- The first inkwell row of an operation, exact (R119). -/
def inkBase (b : Bank) (gr : GReg) : Nat := fieldN b.ibase 12 0 + (rg b gr).toNat

/-- Whether a tile's type is in the list of a semiring (R101, R122). -/
def typeFits (semi : BitVec 3) (e : BitVec 4) : Bool :=
  match semi.toNat with
  | 0 => boardType e
  | 1 | 2 => e == 1 || e == 2 || quadType e
  | _ => e == 11

/-- Whether a tile's type pairs with a plane's (R101, R122). -/
def pairs (e w : BitVec 4) : Bool :=
  ((e == 1 || e == 2) && (w == 1 || w == 2)) || ((e == 3 || e == 4) && (w == 3 || w == 4)) || e == w

/-- The lowest of the subcodes that apply (R83). -/
def lowest (l : List (Nat × Bool)) : Option (BitVec 4) :=
  ([1, 2, 3, 4, 5, 6].find? fun k => l.any fun (j, c) => j == k && c).map (BitVec.ofNat 4)

/-- The checks of BPLANE (R98). -/
def bplaneFault (s : State) (t : TReg) : Option Exc :=
  let x := accTile s t
  let bv := boardB s.var
  (lowest [(3, x.etype == 0 || x.etype == 10 || 12 ≤ x.etype.toNat),
           (1, tileRows x > (if quadType x.etype then bv / 2 else bv)),
           (2, x.etype == 6 && tileBytes x > bv / 2)]).map fun k => shapeExc k t

/-- The checks of BRUN (R100, R122, R124). -/
def brunFault (s : State) (b : Bank) (t : TReg) (gr : GReg) (half : Bool) : Option Exc :=
  let x := accTile s t
  let p := s.bd.acc[s.bd.accActive]
  let semi := semiOf b
  let base := inkBase b gr
  let range := decide (inkRows s.var < base + tileRows x)
  match lowest [
    (4, !p.loaded),
    (2, (p.loaded && x.rbm1 != p.rbm1) || (semi.toNat ≥ 3 && x.etype == 11 && tileBytes x > boardB s.var / 2)),
    (3, !typeFits semi x.etype || (half && !quadType x.etype) || (semi != 0 && x.mx)),
    (4, p.loaded && !pairs x.etype p.etype),
    (5, range),
    (6, p.loaded && x.mx != p.mx)] with
  | some 5 => some (inkRange t.val (max base (inkRows s.var)))
  | some k => some (shapeExc k t)
  | none => none

/-- A board operation waits for room (R97). -/
def boardAccept (body : Body) : Body := fun k b s => if boardRoom s then body k b s else .wait s

/-- BPLANE (R98). -/
def bplaneBody (t : TReg) : Body :=
  checked (fun s => [ownFault s t, stateFault s t, bplaneFault s t]) <| boardAccept fun _ b s =>
    let x := accTile s t
    let idle : Fin 2 := s.bd.accActive + 1
    let p : PlaneRec := ⟨true, x.etype, x.rbm1, x.mx, tileRows x⟩
    .ok b (acceptOp { s with bd := { s.bd with acc := s.bd.acc.set idle.val p idle.isLt } } { newOp .bplane b s with t := t, n := tileRows x })

/-- BSWAP (R99). -/
def bswapBody : Body := boardAccept fun _ b s =>
  .ok b (acceptOp { s with bd := { s.bd with accActive := s.bd.accActive + 1 } } (newOp .bswap b s))

/-- BRUN (R100). -/
def brunBody (t : TReg) (gr : GReg) (acc : BitVec 2) (half : Bool) : Body := fun k b s =>
  checked (fun s => [ownFault s t, stateFault s t, brunFault s b t gr half]) (boardAccept fun _ b s =>
    .ok b (acceptOp s { newOp .brun b s with
      t := t, base := inkBase b gr, n := tileRows (accTile s t), semi := semiOf b, wr := acc == 1, half := half })) k b s

/-- The operation whose row or token enters the rank edge next, in order of acceptance (R102, R105, R112). -/
def edgeOp : List Op → Option Op
  | [] => none
  | o :: l => match o.kind with
    | .brun => if o.prog < o.n then some o else edgeOp l
    | .bswap => if o.prog = 0 then some o else edgeOp l
    | .remap => some o
    | _ => edgeOp l

/-- Whether an operation uses an inkwell row. -/
def opCovers (o : Op) (r : Nat) : Bool := decide (o.base ≤ r) && decide (r < o.base + o.n)

/-- Whether a memory drain holds none of its rows any more: it is over, or the service port has read them all and it is not stopped
(R131, R133 rule 3). -/
def drainRead (e : Op) : Bool := e.done || e.abandoned || (e.stop.isNone && decide (e.n ≤ e.port))

/-- Whether an earlier ICLR or IDRAIN has still to process a row (R133 rule 4). -/
def serviceHolds (l : List Op) (r : Nat) : Bool :=
  l.any fun e => match e.kind with
    | .iclr | .idrainT => opCovers e r
    | .idrainM => opCovers e r && !drainRead e && !(e.stop.isNone && decide (r - e.base < e.port))
    | _ => false

/-- Whether an earlier operation has still to write a row (R133 rule 2). -/
def writeHolds (l : List Op) (r : Nat) : Bool :=
  l.any fun e => match e.kind with
    | .brun => opCovers e r && decide (e.combined ≤ r - e.base)
    | .iclr => opCovers e r
    | _ => false

/-- Whether every earlier BRUN has presented its first A-row (R133 rule 1). -/
def runsStarted (l : List Op) : Bool := l.all fun e => e.kind != .brun || 0 < e.prog

/-- Whether the service port is free of earlier operations (R133 rule 3). -/
def portFree (l : List Op) : Bool :=
  l.all fun e => match e.kind with
    | .iclr | .idrainT => false
    | .idrainM => drainRead e
    | _ => true

/-- An entry as an operation reads it: an uncorrectable one is NaN in the float view and 0 otherwise (R138). -/
def inkRead (s : State) (semi : BitVec 3) (r e : Nat) : Ink :=
  if s.inkBad.contains (1024 * r + e) then (if semi.toNat < 3 then inkNaN else 0) else spGet 0 s.ink (1024 * r + e)

/-- The place of an inkwell entry in a record and in SEL (R332, R466). -/
def inkLoc (r e : Nat) : Nat := r + 65536 * e

/-- The selected injection may strike an entry that is written (R341, R466). -/
def inkStrike (s : State) (r e : Nat) : State :=
  let k := injKind s 0x09
  let i := 1024 * r + e
  if (k = 1 ∨ k = 2) ∧ injSel s = inkLoc r e then
    let s1 := plant s 0x09 k
    if k = 2 then { s1 with ink := spSet 0 s1.ink i (spGet 0 s1.ink i ^^^ 3), inkBad := i :: s1.inkBad } else s1
  else s

/-- Writes an entry, with a fresh code. -/
def inkWrite (s : State) (r e : Nat) (x : Ink) : State :=
  let s1 := { s with ink := spSet 0 s.ink (1024 * r + e) x, inkBad := s.inkBad.filter (· ≠ 1024 * r + e) }
  let s2 := if s1.err.spots.isEmpty then s1 else clearSpot s1 0x09 (inkLoc r e)
  if bit s2.c.errinj 12 then inkStrike s2 r e else s2

/-- What a read of an entry meets: an uncorrectable one is recorded, an injected single-bit error is corrected (R138, R322, R341). -/
def inkMeet (s : State) (r e : Nat) : State :=
  if s.inkBad.contains (1024 * r + e) then postUe s 0x09 (inkLoc r e) (spotAt s 0x09 (inkLoc r e) == 2)
  else meetSingle s 0x09 (inkLoc r e) (inkLoc r e)

/-- The same for n entries of a row from one on. -/
def inkMeetRow (s : State) (r first n : Nat) : State :=
  if s.inkBad.isEmpty && s.err.spots.isEmpty then s else (List.range n).foldl (fun s i => inkMeet s r (first + i)) s

/-- The file sum of an A-row and a plane row under a semiring (R123, R124, R148). -/
def rowResult (semi : BitVec 3) (x : Tile) (p : Plane) (m j : Nat) : Ink :=
  let a := tileRow x m
  let w := spGet 0 p.rows j
  let n := tileElems x
  match semi.toNat with
  | 0 => fileSum x.etype p.pr.etype x.mx n a w (tileScale x m) (spGet scaleOnes p.scales j)
  | 1 => plusExtreme true x.etype p.pr.etype n a w
  | 2 => plusExtreme false x.etype p.pr.etype n a w
  | _ => bitResult semi n a w

/-- The entry that file j of a run feeds (R101). -/
def runEntry (s : State) (o : Op) (e : BitVec 4) (j : Nat) : Nat := if quadType e && o.half then j + boardB s.var / 2 else j

/-- EFF of BTHROTTLE (R114). -/
def effDuty (s : State) : Byte := if s.c.bthrOs.toNat ≤ s.c.bthrHost.toNat then s.c.bthrOs else s.c.bthrHost

/-- Loads the rows of a tile into a plane (R98). -/
def loadPlane (x : Tile) : Plane :=
  { pr := ⟨true, x.etype, x.rbm1, x.mx, tileRows x⟩, rows := x.rows, scales := if x.mx then x.scales else [] }

/-- LOC of a record of the board (R332). -/
def boardLoc (phys log rank row : Nat) : W64 := place 64 phys 0 ||| place 64 log 16 ||| place 64 rank 26 ||| place 64 row 36

/-- Whether CHKDIS lets a check of the board report: BRES silences residues and weight parity, RAIL the rails (R340). -/
def boardReports (s : State) (cls : Byte) : Bool := if cls = 6 then !bit s.c.chkdis 4 else !bit s.c.chkdis 3

/-- The error record of a check of the board: class RESIDUE, RAIL or PARITY (R113, R331, R332, R340). -/
def postBoardCheck (s : State) (chk : Option BoardCheck) (row : Nat) : State :=
  match chk with
  | none => s
  | some k =>
    if (k.cls = 4 ∨ k.cls = 5 ∨ k.cls = 6) ∧ boardReports s k.cls = true then
      postRecord s k.cls (if k.cls = 6 then 0x08 else 0x07) 1
        (boardLoc k.physFile.toNat k.logFile.toNat (if k.cls = 6 then 0 else k.rank.toNat) row) (k.synd &&& 0x3F) false 0
    else s

/-- The logical file that a physical file serves, spares at 1,024 and on (R111, R112). -/
def servedBy (s : State) (phys : Nat) : Option Nat :=
  let named (f : Nat) : Option (Fin 8) := (List.finRange 8).find? fun k => s.bd.spareBoard[k].any fun x => x.toNat == f
  if phys < 1024 then (if phys < boardB s.var ∧ named phys = none then some phys else none)
  else (List.finRange 8).findSome? fun k =>
    if k.val = phys - 1024 then (s.bd.spareBoard[k]).bind fun x => if named x.toNat = some k then some x.toNat else none else none

/-- The residue flip that is armed on a cell which has checked this row: predicted residue and step are the check's own and free here
(R341, R466, log 6). n: the files loaded. -/
def injResidue (s : State) (n row : Nat) : State :=
  let sel := injSel s
  let phys := sel % 2048
  let rank := sel / 65536 % 1024
  match servedBy s phys with
  | some f =>
    if injKind s 0x07 = 4 ∧ sel = phys + 65536 * rank ∧ rank < boardB s.var ∧ f < n then
      let (a, s1) := draw 8 (disarm s)
      let (b, s2) := draw 8 s1
      let pred := a.toNat % 3
      if boardReports s 5 then
        postRecord s2 0x05 0x07 1 (boardLoc phys f rank row) (BitVec.ofNat 24 (pred + 4 * ((pred + 1) % 3) + 16 * (b.toNat % 3))) true 0
      else s2
    else s
  | none => s

/-- The rail mismatch that is armed on a promotion stage, or on an inkwell adder of a row that is accumulated (R341, R466). -/
def injRail (s : State) (n row : Nat) (acc : Bool) : State :=
  let sel := injSel s
  let phys := sel % 2048
  let stage := sel / 65536 % 64
  let adder := sel / 4194304 % 2 == 1
  match servedBy s phys with
  | some f =>
    if injKind s 0x08 = 5 ∧ sel = phys + 65536 * stage + (if adder then 4194304 else 0) ∧ f < n
        ∧ (if adder then acc && stage == 0 else decide (stage < boardB s.var / 16)) = true then
      if boardReports s 6 then
        postRecord (disarm s) 0x06 0x08 1 (boardLoc phys f 0 row) (if adder then 0x3F else BitVec.ofNat 24 stage) true 0
      else disarm s
    else s
  | none => s

/-- The inkwell after a result row is combined: an entry that ACCUM reads may be uncorrectable (R101, R125, R138). -/
def combineRow (s : State) (o : Op) (m : Nat) (sums : List (Nat × Ink)) : State :=
  sums.foldl (fun s (e, x) =>
    let s1 := if o.wr then s else inkMeet s (o.base + m) e
    inkWrite s1 (o.base + m) e (if o.wr then x else inkCombine o.semi (inkRead s o.semi (o.base + m) e) x)) s

/-- A result row at the foot of the board: combined, with the sample that it gives and the faults that are armed on its checks
(R101, R113, R307, R341). -/
def resultRow (s : State) (o : Op) (m : Nat) (sums : List (Nat × Ink)) : State :=
  let row := o.base + m
  let s1 := combineRow s o m sums
  let s2 := rowSample s1 false o.semi (sums.map fun p => spGet 0 s1.ink (1024 * row + p.1))
  injRail (injResidue s2 sums.length row) sums.length row (!o.wr)

/-- The board's instructions. -/
def boardInstr (c : Instr) (body : Body) (s : State) : Host.Outcome State Fault Refusal := issue c (domGate dBoard c body) s

/-- BPLANE (R98). -/
def execBplane (t : TReg) (s : State) : Host.Outcome State Fault Refusal := boardInstr (.bplane t) (domGate dTile (.bplane t) (bplaneBody t)) s
/-- BSWAP (R99). -/
def execBswap (s : State) : Host.Outcome State Fault Refusal := boardInstr .bswap bswapBody s
/-- BRUN (R100). -/
def execBrun (t : TReg) (gr : GReg) (acc : BitVec 2) (half : Bool) (s : State) : Host.Outcome State Fault Refusal :=
  boardInstr (.brun t gr acc half) (domGate dTile (.brun t gr acc half) (brunBody t gr acc half)) s

/-- BPLANE_LOAD_START: the waits of a plane load are over (R98, R106). -/
def execBplaneLoadStart (s : State) : Host.Outcome State Fault Refusal :=
  event s <| (s.ops.find? fun o => o.kind == .bplane && o.port == 0).bind fun o =>
    let l := earlier s o
    let held := l.any fun e => e.kind == .bplane || e.kind == .remap || (e.kind == .bswap && e.prog == 0)
    if o.started ∧ s.bd.released ∧ held = false ∧ s.inkZeroing = false then some (updOp s o.id fun y => { y with port := 1 }) else none

/-- BPLANE_COMPLETE: the idle plane holds the rows of the tile, uncorrectable words as read (R98, R329). -/
def execBplaneComplete (s : State) : Host.Outcome State Fault Refusal :=
  event s <| (s.ops.find? fun o => o.kind == .bplane && o.port == 1 && !s.inkZeroing).map fun o =>
    let idle : Fin 2 := s.bd.active + 1
    let x := s.tiles[o.t]
    dropOp (tileMeetRows { s with bd := { s.bd with planes := s.bd.planes.set idle.val (loadPlane x) idle.isLt } } o.t (List.range (tileRows x))) o.id

/-- SWAP_TOKEN_ENTRY: earlier loads are complete and earlier runs have presented their last A-row (R99, R105). -/
def execSwapTokenEntry (s : State) : Host.Outcome State Fault Refusal :=
  event s <| (edgeOp s.ops).bind fun o =>
    if o.kind = .bswap ∧ s.inkZeroing = false ∧ ((earlier s o).any fun e => e.kind == .bplane) = false then
      some { updOp s o.id (fun y => { y with prog := 1 }) with
        bd := { s.bd with active := s.bd.active + 1, released := false, flight := s.bd.flight ++ [.swap o.id] } }
    else none

/-- BSWAP_COMPLETE: the token leaves the deskew stage (R99). -/
def execBswapComplete (s : State) : Host.Outcome State Fault Refusal :=
  event s <| match (if s.inkZeroing then [] else s.bd.flight) with
    | .swap id :: l => some (dropOp { s with bd := { s.bd with flight := l } } id)
    | _ => none

/-- PLANE_RELEASE (R106). -/
def execPlaneRelease (s : State) : Host.Outcome State Fault Refusal :=
  event s <| if s.bd.released then none else some { s with bd := { s.bd with released := true } }

/-- RESULT_ROW_COMBINE: a result row is combined into its inkwell row; the last one completes the run (R101, R102, R103, R113). -/
def execResultRowCombine (chk : Option BoardCheck) (s : State) : Host.Outcome State Fault Refusal :=
  event s <| match s.bd.flight with
    | .row id m sums :: l =>
      let s0 := { s with bd := { s.bd with flight := l } }
      (s.ops.find? fun o => o.id == id).map fun o =>
        let s1 := postBoardCheck (resultRow s0 o m sums) chk (o.base + m)
        if o.n ≤ o.combined + 1 then dropOp s1 id else updOp s1 id fun y => { y with combined := y.combined + 1 }
    | _ => none

/-- THROTTLE_WINDOW_BOUNDARY: EFF takes effect (R114). -/
def execThrottleWindowBoundary (s : State) : Host.Outcome State Fault Refusal :=
  event s (some { s with bd := { s.bd with duty := effDuty s, entered := 0 } })

/-- The spare map with remaps applied (R112). -/
def remapped (m : Vector (Option (BitVec 10)) 8) (l : List (Fin 8 × BitVec 10)) : Vector (Option (BitVec 10)) 8 :=
  l.foldl (fun m (k, f) => m.set k.val (some f) k.isLt) m

/-- A remap applied: the current map and the board's follow, and both planes are EMPTY (R112). -/
def applyRemap (s : State) (l : List (Fin 8 × BitVec 10)) : State :=
  let m := remapped s.bd.spare l
  { s with bd := { s.bd with spare := m, spareBoard := m, planes := Vector.replicate 2 {} } }

/-- SPARE_REMAP_APPLY: once every board operation accepted before it is complete (R112). -/
def execSpareRemapApply (s : State) : Host.Outcome State Fault Refusal :=
  event s <| (s.ops.find? fun o => o.kind == .remap).bind fun o =>
    if (earlier s o).any onBoard then none else some (applyRemap (dropOp s o.id) o.remap)

end Sys2Proof.Machine
end

