-- ==== Sys2Proof/Machine/Crypto.lean ====
section
/-! DEFINITION. CRC-32C (R371), and SHA-384 and ECDSA P-384, which the spec names by FIPS 180-4 and FIPS 186-5 (R384, R393; PRESUMED, log 30). -/
namespace Sys2Proof

/-- One bit of CRC-32C, reflected (R371). -/
def crcBit (c : W32) : W32 := if c.getLsbD 0 then (c >>> 1) ^^^ 0x82F63B78 else c >>> 1

/-- The remainder after one byte (R371). -/
def crcByte (c : W32) (b : Byte) : W32 := Nat.repeat crcBit 8 (c ^^^ b.setWidth 32)

/-- CRC-32C of bytes (R371). -/
def crc32c (bs : List Byte) : W32 := ~~~ bs.foldl crcByte 0xFFFFFFFF

/-- The largest r below r + 2 ^ n with r ^ k ≤ v, found bit by bit from the top: an integer root. -/
def rootFrom (k v : Nat) : Nat → Nat → Nat
  | 0, r => r
  | n + 1, r => if (r + 2 ^ n) ^ k ≤ v then rootFrom k v n (r + 2 ^ n) else rootFrom k v n r

/-- The first 64 bits of the fraction of the k-th root of p: how FIPS 180-4 defines its constants (4.2.3, 5.3.4; p is below 2 ^ (4 k)). -/
def rootFraction (k p : Nat) : W64 := BitVec.ofNat 64 (rootFrom k (p * 2 ^ (64 * k)) 68 0)

/-- The primes below n, in rising order. -/
def primesBelow (n : Nat) : List Nat := (List.range n).filter fun p => 2 ≤ p && (List.range p).all fun d => d < 2 || p % d ≠ 0

/-- The round constants: cube roots of the first eighty primes, of which 409 is the last (FIPS 180-4, 4.2.3). -/
def shaRoundKeys : List W64 := (primesBelow 410).map (rootFraction 3)

/-- The eight words of the hash value, from the first on. -/
structure Digest where
  (h0 h1 h2 h3 h4 h5 h6 h7 : W64)
  deriving DecidableEq, Repr

/-- The initial hash value: square roots of the ninth to sixteenth primes (FIPS 180-4, 5.3.4). -/
def shaStart : Digest :=
  ⟨rootFraction 2 23, rootFraction 2 29, rootFraction 2 31, rootFraction 2 37, rootFraction 2 41, rootFraction 2 43, rootFraction 2 47,
    rootFraction 2 53⟩

/-- A number from bytes, most significant first. -/
def beNat (bs : List Byte) : Nat := bs.foldl (fun n b => n * 256 + b.toNat) 0

/-- A doubleword from eight bytes, most significant first. -/
def beWord (bs : List Byte) : W64 := BitVec.ofNat 64 (beNat bs)

/-- The bytes of a doubleword, most significant first. -/
def beBytes (x : W64) : List Byte := (toBytes 8 x).reverse

/-- The exclusive-or of three rotations to the right (FIPS 180-4, 4.1.3). -/
def spin (x : W64) (i j k : Nat) : W64 := x.rotateRight i ^^^ x.rotateRight j ^^^ x.rotateRight k

/-- The exclusive-or of two rotations and a shift to the right (FIPS 180-4, 4.1.3). -/
def drift (x : W64) (i j k : Nat) : W64 := x.rotateRight i ^^^ x.rotateRight j ^^^ (x >>> k)

/-- The message schedule, newest word first, grown by n words: each is made of those 2, 7, 15 and 16 places before it (FIPS 180-4, 6.4.2). -/
def expand : Nat → List W64 → List W64
  | 0, ws => ws
  | n + 1, ws => expand n ((drift (ws.getD 1 0) 19 61 6 + ws.getD 6 0 + drift (ws.getD 14 0) 1 8 7 + ws.getD 15 0) :: ws)

/-- One round with the round key and schedule word kw (FIPS 180-4, 6.4.2): Ch picks by h4, Maj is the majority of h0, h1 and h2. -/
def shaStep (v : Digest) (kw : W64 × W64) : Digest :=
  let pick := v.h6 ^^^ (v.h4 &&& (v.h5 ^^^ v.h6))
  let most := (v.h0 &&& (v.h1 ||| v.h2)) ||| (v.h1 &&& v.h2)
  let t := spin v.h4 14 18 41 + pick + v.h7 + kw.1 + kw.2
  { h0 := t + spin v.h0 28 34 39 + most, h1 := v.h0, h2 := v.h1, h3 := v.h2, h4 := v.h3 + t, h5 := v.h4, h6 := v.h5, h7 := v.h6 }

/-- The hash value after one block of 128 bytes (FIPS 180-4, 6.4.2). -/
def absorb (v : Digest) (block : List Byte) : Digest :=
  let words := (List.range 16).map fun i => beWord ((block.drop (8 * i)).take 8)
  let u := (shaRoundKeys.zip (expand 64 words.reverse).reverse).foldl shaStep v
  ⟨v.h0 + u.h0, v.h1 + u.h1, v.h2 + u.h2, v.h3 + u.h3, v.h4 + u.h4, v.h5 + u.h5, v.h6 + u.h6, v.h7 + u.h7⟩

/-- The hash value after n blocks of a padded message. -/
def absorbAll : Nat → List Byte → Digest → Digest
  | 0, _, v => v
  | n + 1, bs, v => absorbAll n (bs.drop 128) (absorb v (bs.take 128))

/-- A message with its padding: a 1 bit, zeros, and its length in bits in sixteen bytes (FIPS 180-4, 5.1.2). -/
def shaPad (bs : List Byte) : List Byte :=
  bs ++ (0x80 :: List.replicate ((239 - bs.length % 128) % 128) 0) ++ (toBytes 16 (BitVec.ofNat 128 (8 * bs.length))).reverse

/-- SHA-384 of bytes: the first six words, 48 bytes in the order of FIPS 180-4. -/
def sha384Bytes (bs : List Byte) : List Byte :=
  let p := shaPad bs
  let v := absorbAll (p.length / 128) p shaStart
  [v.h0, v.h1, v.h2, v.h3, v.h4, v.h5].flatMap beBytes

/-- SHA-384 as a number whose byte 0 is byte 0 of the digest's byte string. -/
def sha384 (bs : List Byte) : BitVec 384 := ofBytes 384 (sha384Bytes bs)

namespace P384

/-- The prime of the field of P-384 (FIPS 186-5 by way of SP 800-186, 3.2.1.4). -/
def prime : Nat := 2 ^ 384 - 2 ^ 128 - 2 ^ 96 + 2 ^ 32 - 1

/-- The order of the base point. -/
def order : Nat := 0xffffffffffffffffffffffffffffffffffffffffffffffffc7634d81f4372ddf581a0db248b0a77aecec196accc52973

/-- The base point. -/
def base : Nat × Nat :=
  (0xaa87ca22be8b05378eb1c71ef320ad746e1d3b628ba79b9859f741e082542a385502f25dbf55296c3a545e3872760ab7,
   0x3617de4a96262c6f5d9e98bf9292dc29f8f41dbd289a147ce9da3113b5f0b8c00a60b1ce1d7e819d7a431d7c90ea0e5f)

/-- A point in Jacobian coordinates: (x / z ^ 2, y / z ^ 3), and the point at infinity where z is 0. -/
structure Point where
  (x y z : Nat)
  deriving DecidableEq, Repr

/-- x ^ e modulo m, over the low n bits of e, with acc the product so far. -/
def powMod (m : Nat) : Nat → Nat → Nat → Nat → Nat
  | 0, _, _, acc => acc
  | n + 1, x, e, acc => powMod m n (x * x % m) (e / 2) (if e % 2 = 1 then acc * x % m else acc)

/-- The inverse of x modulo a prime m below 2 ^ 384. -/
def invMod (m x : Nat) : Nat := powMod m 384 x (m - 2) 1

/-- a - b modulo the prime of the field, both below it. -/
def sub (a b : Nat) : Nat := (a + prime - b) % prime

/-- Twice a point of the curve y ^ 2 = x ^ 3 - 3 x + b. -/
def double (p : Point) : Point :=
  let zz := p.z * p.z % prime
  let yy := p.y * p.y % prime
  let s := 4 * p.x * yy % prime
  let m := 3 * sub p.x zz * (p.x + zz) % prime
  let x := sub (m * m % prime) (2 * s % prime)
  ⟨x, sub (m * sub s x % prime) (8 * yy * yy % prime), 2 * p.y * p.z % prime⟩

/-- The sum of two points. -/
def add (p q : Point) : Point :=
  if p.z = 0 then q
  else if q.z = 0 then p
  else
    let pz := p.z * p.z % prime
    let qz := q.z * q.z % prime
    let u := p.x * qz % prime
    let h := sub (q.x * pz % prime) u
    let s := p.y * (qz * q.z % prime) % prime
    let r := sub (q.y * (pz * p.z % prime) % prime) s
    if h = 0 then if r = 0 then double p else ⟨1, 1, 0⟩
    else
      let hh := h * h % prime
      let hhh := h * hh % prime
      let v := u * hh % prime
      let x := sub (r * r % prime) ((hhh + 2 * v) % prime)
      ⟨x, sub (r * sub v x % prime) (s * hhh % prime), h * (p.z * q.z % prime) % prime⟩

/-- k times a point over the low n bits of k: acc plus p times them. -/
def mulFrom : Nat → Nat → Point → Point → Point
  | 0, _, _, acc => acc
  | n + 1, k, p, acc => mulFrom n (k / 2) (double p) (if k % 2 = 1 then add acc p else acc)

/-- k times an affine point, for k below 2 ^ 384. -/
def mul (k : Nat) (p : Nat × Nat) : Point := mulFrom 384 k ⟨p.1, p.2, 1⟩ ⟨1, 1, 0⟩

/-- ECDSA verification (FIPS 186-5, 6.4.2) of the signature (r, s) over a digest e of 384 bits under the public key q: both numbers from 1
to the order less 1, and the x coordinate of (e / s) times the base point plus (r / s) times the key, modulo the order, equal to r. -/
def verify (q : Nat × Nat) (e r s : Nat) : Bool :=
  let w := invMod order s
  let p := add (mul (e * w % order) base) (mul (r * w % order) q)
  let iz := invMod prime p.z
  1 ≤ r && r < order && 1 ≤ s && s < order && p.z ≠ 0 && p.x * (iz * iz % prime) % prime % order == r

end P384

/-- Whether sig (r then s, each 48 bytes, most significant first) is the ECDSA P-384 signature of the bytes bs by key number k of the four
keys fixed at manufacture (R393; the curve and the check PRESUMED from FIPS 186-5, log 30; the keys free values, log 7). -/
def sigValid (k : Nat) (bs sig : List Byte) : Bool :=
  P384.verify (Config.signKey k) (beNat (sha384Bytes bs)) (beNat (sig.take 48)) (beNat ((sig.drop 48).take 48))

end Sys2Proof
end

