-- ==== Sys2Proof/Machine/QuillOps.lean ====
section
/-! DEFINITION. The quill's message layer, its blotter, its log, its events, and the accepted commands (R367 to R389). -/
namespace Sys2Proof.Machine

/-- Status OK (R374). -/
def stOk : Byte := 0x00
/-- Status ACCEPTED. -/
def stAccepted : Byte := 0x01
/-- Status BUSY. -/
def stBusy : Byte := 0x02
/-- Status BADVER. -/
def stBadver : Byte := 0x03
/-- Status BADARG. -/
def stBadarg : Byte := 0x04
/-- Status DENIED. -/
def stDenied : Byte := 0x05
/-- Status ABORTED. -/
def stAborted : Byte := 0x06
/-- Status NOTREADY. -/
def stNotready : Byte := 0x07
/-- Status BADIMAGE. -/
def stBadimage : Byte := 0x08
/-- Status ROLLBACK. -/
def stRollback : Byte := 0x09

/-- MBANK of SCHEDCTL (R301). -/
def mbank (s : State) : BankNum := Fin.ofNat 4 (fieldN s.c.schedctl 17 16)

/-- Sets a bit of QEVENT with its interrupt and its mailbox event; a masked event leaves nothing (R381). A mailbox event wakes a clock-gated
CORE (R28). -/
def qevent (s : State) (i : Nat) : State :=
  if bit s.qu.qmask i then
    let s1 := pend { s with c := { s.c with qevent := setBit s.c.qevent i true } } 0x27
    wakeRequest (postEvent s1 (mbank s1) .mev) dCore
  else s

/-- Replaces the quill. -/
def setQu (s : State) (q : Quill) : State := { s with qu := q }

/-- Puts a record into the ring of the error log, with the next sequence number; the oldest goes when it is full, freed or not (R382). -/
def logPush (s : State) (r : BitVec 256) : State :=
  let q := s.qu
  let full := decide (2048 ≤ q.log.length)
  let old := if full then (q.log.head?.filter fun x => !x.freed).map (·.seq) else none
  setQu s { q with log := (if full then q.log.drop 1 else q.log) ++ [⟨q.logSeq, r, false⟩], logSeq := q.logSeq + 1, logLost := old.orElse fun _ => q.logLost }

/-- The quill's own record of a class (R383). -/
def ownRecord (s : State) (cls : Byte) (loc : W64) : BitVec 256 := mkRecord cls 0x20 0 false 0 0 loc s.win.tick s.c.ply 0

/-- Logs a record; when one is overwritten, LOGLOST is logged too (R382, R383). -/
def logRecord (s : State) (r : BitVec 256) : State :=
  let s1 := logPush s r
  if 2048 ≤ s.qu.log.length then logPush s1 (ownRecord s1 0x83 0) else s1

/-- A message (R371). -/
def message (vmaj vmin : Byte) (op : BitVec 16) (seq : W32) (body : List Byte) : List Byte :=
  let h := toBytes 2 (0x4B44 : BitVec 16) ++ [vmaj, vmin] ++ toBytes 2 op ++ toBytes 2 (BitVec.ofNat 16 body.length) ++ toBytes 4 seq
  h ++ toBytes 4 (crc32c (h ++ [0, 0, 0, 0] ++ body)) ++ body

/-- The body of a response or completion (R372). -/
def statusBody (st det : Byte) (res : List Byte) : List Byte := st :: det :: 0 :: 0 :: res

/-- Writes a message into Q2H k and gives it to the host (R367). -/
def putQ2h (s : State) (k : BoxNum) (m : List Byte) : State :=
  let q := s.qu
  setQu s { q with q2h := q.q2h.set k.val (spSetAll 0 q.q2h[k] 0 m) k.isLt, qh := setBit q.qh k.val true }

/-- Posts a message in Q2H k, in the order in which messages arise; it waits until QH bit k is 0 (R370). -/
def postMsg (s : State) (k : BoxNum) (m : List Byte) : State :=
  if s.qu.qh.getLsbD k.val ∨ s.qu.outbox[k] ≠ [] then setQu s { s.qu with outbox := s.qu.outbox.set k.val (s.qu.outbox[k] ++ [m]) k.isLt }
  else putQ2h s k m

/-- The next waiting message of mailbox k goes once QH bit k is 0. -/
def flushBox (s : State) (k : BoxNum) : State :=
  match s.qu.outbox[k] with
  | m :: ms => if s.qu.qh.getLsbD k.val then s else putQ2h (setQu s { s.qu with outbox := s.qu.outbox.set k.val ms k.isLt }) k m
  | [] => s

/-- Bytes 0 to 7 of the digest of a request body (R384). -/
def bodyDigest (b : List Byte) : List Byte := (sha384Bytes b).take 8

/-- A blotter entry (R384). -/
def blotEntry (r : Req) (state result detail : Byte) (replay : Bool) : BitVec 256 :=
  let l := toBytes 4 r.seq ++ toBytes 2 r.op ++ [BitVec.ofNat 8 r.box.val, state] ++ bodyDigest r.body ++ toBytes 8 r.atick
    ++ [result, detail, r.epoch, if replay then 1 else 0]
  ofBytes 256 (l ++ toBytes 4 (crc32c l))

/-- Byte i of an entry. -/
def entByte (x : BitVec 256) (i : Nat) : Byte := BitVec.ofNat 8 (x.toNat >>> (8 * i))

/-- Whether the CRC of an entry holds (R385). -/
def entOk (x : BitVec 256) : Bool := toBytes 4 (crc32c (toBytes 28 x)) == (toBytes 32 x).drop 28

/-- Writes an entry with fresh codes (R384, R386). -/
def setEntry (s : State) (i : BitVec 10) (x : BitVec 256) : State :=
  setQu s { s.qu with blot := spSet 0 s.qu.blot i.toNat x, blotBad := s.qu.blotBad.filter (· ≠ i.toNat) }

/-- An entry with bytes of it replaced and a fresh CRC. -/
def patchEntry (x : BitVec 256) (l : List (Nat × Byte)) : BitVec 256 :=
  let y := l.foldl (fun y p => setField y (8 * p.1 + 7) (8 * p.1) p.2.toNat) x
  setField y 255 224 (crc32c (toBytes 28 y)).toNat

/-- Enters a journaled request at NEXT as ACCEPTED (R385). -/
def journal (s : State) (r : Req) : State × Req :=
  let q := s.qu
  let r1 := { r with entry := some q.next, atick := s.win.tick, epoch := q.epoch }
  let s1 := setEntry s q.next (blotEntry r1 0x01 stAccepted 0 false)
  (setQu s1 { s1.qu with next := q.next + 1, wraps := if q.next = 0x3FF then q.wraps + 1 else q.wraps }, r1)

/-- The STATE of an entry that ends with a status (R384). -/
def endState (st : Byte) : Byte := if st = stAborted then 0x03 else 0x02

/-- The journal keeper reads or rewrites an entry: an uncorrectable word of it is recorded (R386). -/
def meetEntry (s : State) (i : BitVec 10) : State :=
  if s.qu.blotBad.contains i.toNat then windowMeet s (0x2000 + 32 * i.toNat) 32 else s

/-- The journal keeper reads an entry outside a replay: one with an uncorrectable word is written again from the keeper's copy of the command, or as
ABORTED 0x22 where it holds none (R386). -/
def keeperRead (s : State) (i : BitVec 10) : State :=
  if s.qu.blotBad.contains i.toNat then
    let s1 := meetEntry s i
    match s.qu.active.find? fun a => a.req.entry == some i with
    | some a => setEntry s1 i (blotEntry a.req 0x01 stAccepted 0 false)
    | none => setEntry s1 i (patchEntry (spGet 0 s1.qu.blot i.toNat) [(7, 0x03), (24, stAborted), (25, 0x22)])
  else s

/-- Ends the entry of a request before the end is reported; the keeper writes the whole entry from its copy of the command (R385, R386). -/
def endEntry (s : State) (r : Req) (st det : Byte) (replay : Bool) : State :=
  match r.entry with
  | some i => setEntry (meetEntry s i) i (blotEntry r (endState st) st det replay)
  | none => s

/-- The response to a request whose header carries a version (R371, R372). -/
def respondV (s : State) (r : Req) (vmaj vmin st det : Byte) (res : List Byte) : State :=
  postMsg s r.box (message vmaj vmin (r.op ||| 0x8000) r.seq (statusBody st det res))

/-- A completion (R371, R372). -/
def completionMsg (r : Req) (st det : Byte) (res : List Byte) : List Byte :=
  message r.vmaj r.vmin (r.op ||| 0xC000) r.seq (statusBody st det res)

/-- Ends a request with a status at once: its entry, and its response; a replay posts none (R389). -/
def answer (s : State) (r : Req) (replay : Bool) (st det : Byte) (res : List Byte) : State :=
  let s1 := endEntry s r st det replay
  if replay then s1 else respondV s1 r r.vmaj r.vmin st det res

/-- Ends an accepted command: its entry, and its completion (R372, R385). Between a restart and the replay there is no journal keeper, and the
command stays as it is: the replay ends it (R389). -/
def complete (s : State) (id : Nat) (st det : Byte) (res : List Byte) : State :=
  match s.qu.active.find? (·.id == id) with
  | some a =>
    if s.qu.qstate = .restart ∧ a.replay = false then s else
    let s1 := setQu s { s.qu with active := s.qu.active.filter (·.id != id) }
    let s2 := endEntry s1 a.req st det a.replay
    if a.replay then s2 else postMsg s2 a.req.box (completionMsg a.req st det res)
  | none => s

/-- What the execution of a request comes to. -/
inductive CmdOut where
  /-- Ended, with a status. -/
  | fin (st det : Byte) (res : List Byte) (s : State)
  /-- Ended, with the version bytes of the response's header (R376). -/
  | hello (vmaj vmin : Byte) (st det : Byte) (res : List Byte) (s : State)
  /-- Accepted: the command goes on. -/
  | acc (s : State)
  /-- Accepted, and complete at once. -/
  | accEnd (st det : Byte) (res : List Byte) (s : State)
  deriving DecidableEq, Repr

/-- A command: the number that it has if it is accepted, its request, the state. -/
abbrev Cmd := Nat → Req → State → CmdOut

/-- A refusal of a command. -/
def refuseCmd (st det : Byte) (s : State) : CmdOut := .fin st det [] s

/-- Accepts a command: at most 16 are incomplete (R378). -/
def acceptCmd (s0 s : State) (id : Nat) (r : Req) (replay : Bool) : State × Bool :=
  if 16 ≤ s0.qu.active.length then (answer s0 r replay stBusy 0x11 [], false)
  else
    let s1 := setQu s { s.qu with active := s.qu.active ++ [⟨id, r, replay⟩], nextCmd := id + 1 }
    (if replay then s1 else respondV s1 r r.vmaj r.vmin stAccepted 0 [], true)

/-- Executes a request. -/
def runCmd (f : Cmd) (r : Req) (replay : Bool) (s : State) : State :=
  let id := s.qu.nextCmd
  match f id r s with
  | .fin st det res s1 => answer s1 r replay st det res
  | .hello vmaj vmin st det res s1 => respondV s1 r vmaj vmin st det res
  | .acc s1 => (acceptCmd s s1 id r replay).1
  | .accEnd st det res s1 =>
    match acceptCmd s s1 id r replay with
    | (s2, true) => complete s2 id st det res
    | (s2, false) => s2

/-- n bytes of a body at an offset, as a number. -/
def bnat (b : List Byte) (o n : Nat) : Nat := bytesNat ((b.drop o).take n)
/-- A byte of a body. -/
def bbyte (b : List Byte) (o : Nat) : Byte := b.getD o 0

/-- What the table of R378 gives a command: body length, journaled, re-run by a replay, and the bytes that must be zero (R379). -/
structure CmdInfo where
  len : Nat
  journaled : Bool
  rerun : Bool
  zero : List Nat
  deriving DecidableEq, Repr

/-- The commands (R378, R379). -/
def cmdInfo (op : BitVec 16) : Option CmdInfo :=
  match op.toNat with
  | 0x01 => some ⟨8, false, false, []⟩
  | 0x02 => some ⟨16, true, true, [2, 3, 4, 5, 6, 7]⟩
  | 0x03 => some ⟨4, false, false, [2, 3]⟩
  | 0x10 => some ⟨8, true, true, [5, 6, 7]⟩
  | 0x11 => some ⟨0, false, false, []⟩
  | 0x12 => some ⟨4, true, true, [1, 2, 3]⟩
  | 0x20 => some ⟨8, false, false, [5, 6, 7]⟩
  | 0x21 => some ⟨4, true, true, []⟩
  | 0x22 => some ⟨8, true, true, [2, 3]⟩
  | 0x23 => some ⟨4, true, true, [3]⟩
  | 0x30 => some ⟨4, false, false, [3]⟩
  | 0x40 => some ⟨20, true, true, [2, 3]⟩
  | 0x41 => some ⟨4, false, false, []⟩
  | 0x50 => some ⟨156, true, true, [3]⟩
  | 0x51 => some ⟨8, true, false, [5, 6, 7]⟩
  | 0x52 => some ⟨4, true, true, [2, 3]⟩
  | 0x53 => some ⟨0, false, false, []⟩
  | 0x60 => some ⟨24, true, false, []⟩
  | 0x61 => some ⟨8, true, true, [1, 2, 3]⟩
  | 0x62 => some ⟨4, false, false, [1, 2, 3]⟩
  | 0x63 => some ⟨16, true, false, [1, 2, 3, 4, 5, 6, 7]⟩
  | 0x64 => some ⟨0, true, true, []⟩
  | 0x70 => some ⟨4, true, false, [1, 2, 3]⟩
  | _ => none

/-- The requests that the recovery ROM serves (R406). -/
def romServes (op : BitVec 16) : Bool := op == 0x01 || op == 0x60 || op == 0x61 || op == 0x62 || op == 0x63 || op == 0x64

end Sys2Proof.Machine
end

