-- ==== Sys2Proof/Machine/Mirror.lean ====
section
/-! DEFINITION. Partner mirroring: the mirror engine's commits, the receiving side, fetch and verify, and the partner port (R343 to R363, R423 to R425). -/
namespace Sys2Proof.Machine

/-- Replaces the mirror engine. -/
def setMir (s : State) (m : Mir) : State := { s with mir := m }

/-- The ranges whose granules are counted, 16 of them (R354). -/
def localCounts (s : State) : List Nat := (List.finRange 16).map (mirN s)

/-- S(r) for given counts (R354). -/
def countsBelow (n : List Nat) (r : Nat) : Nat := (n.take r).sum

/-- The range and the index of a granule of a global index, for given counts from range r on (R345). -/
def locate : List Nat → Nat → Nat → Option (Nat × Nat)
  | [], _, _ => none
  | n :: ns, r, g => if g < n then some (r, g) else locate ns (r + 1) (g - n)

/-- The global indices of the granules of the ranges that a mask names, ascending. -/
def maskGranules (n : List Nat) (mask : BitVec 16) : List Nat :=
  (List.range n.sum).filter fun g => match locate n 0 g with
    | some (r, _) => mask.getLsbD r
    | none => false

/-- The base of the reserve and its granules (R348). -/
def resvBase (s : State) : Nat := fieldN s.mir.resv 63 24 * 65536
/-- SIZE of the reserve. -/
def resvSize (s : State) : Nat := fieldN s.mir.resv 17 0
/-- The place of a granule in the reserve (R354). -/
def resvGranule (s : State) (n : List Nat) (gen : Bool) (r i : Nat) : Nat :=
  resvBase s + 65536 * (1 + 2 * countsBelow n r + (if gen then n.getD r 0 else 0)) + 65536 * i
/-- The place of a generation's record in the reserve (R354). -/
def resvRecord (s : State) (gen : Bool) : Nat := resvBase s + (if gen then 0x80 else 0)

/-- The 64 KiB of a granule, read as the stream engine reads memory (R352, R170). -/
def granuleBytes (s : State) (pa : Nat) : List Byte := cohRead s pa 65536

/-- A commit record (R355). -/
def commitRecord (s : State) (k : Commit) : List Byte :=
  let n := localCounts s
  let l := toBytes 4 (0x4D524331 : W32) ++ toBytes 2 (1 : BitVec 16) ++ [if k.tx.gen then 1 else 0, if k.closing then 2 else 1]
    ++ toBytes 4 (BitVec.ofNat 32 (s.cfg.coreid.toNat % 2 ^ 20))
    ++ toBytes 2 (BitVec.ofNat 16 ((List.finRange 16).foldl (fun m r => m + (if mirEn s r then 2 ^ r.val else 0)) 0)) ++ [0, 0]
    ++ toBytes 8 k.tx.ply ++ toBytes 8 (if k.tx.gen then s.mir.prev.2 else s.mir.prev.1)
    ++ toBytes 4 (BitVec.ofNat 32 k.total) ++ toBytes 4 (BitVec.ofNat 32 n.sum) ++ toBytes 8 k.tick
    ++ n.flatMap (fun x => toBytes 4 (BitVec.ofNat 32 x)) ++ List.replicate 12 0
  l ++ toBytes 4 (crc32c l)

/-- n bytes of a record at an offset, as a number. -/
def recN (b : List Byte) (o n : Nat) : Nat := bytesNat ((b.drop o).take n)
/-- Whether the CRC of a record holds (R355). -/
def recCrcOk (b : List Byte) : Bool := recN b 124 4 == (crc32c (b.take 124)).toNat
/-- Whether a record makes its generation valid for an expected sender (R355). -/
def recValid (b : List Byte) (src : W32) : Bool :=
  recN b 0 4 == 0x4D524331 && recN b 4 2 == 1 && bbyte b 7 == 2 && recCrcOk b && recN b 8 4 == src.toNat % 2 ^ 20
/-- NGRAN of a record (R355). -/
def recCounts (b : List Byte) : List Nat := (List.range 16).map fun r => recN b (48 + 4 * r) 4

/-- A read of the mirror engine as the checks see it: what it posts, and whether its data is bad (R162, R227, R352, R357). -/
def mirCheck (s : State) (pa n : Nat) : State × Bool :=
  let (s1, e) := readCheck s true pa n
  (s1, e.isSome)

/-- The partner port may send what needs a credit (R424). -/
def canSend (s : State) : Bool := s.mir.link && domRuns s dVellum && s.mir.credits != 0

/-- Sends a word on the partner port; a granule or a record costs a credit (R424). -/
def emit (s : State) (w : PWord) (cost : Nat) : State :=
  setMir s { s.mir with out := s.mir.out ++ [w], credits := s.mir.credits - cost }

/-- Sends again the granules that a CRC NACK asks for, while credits last (R357). -/
def resendGranules : List TxGran → State → List TxGran × State
  | [], s => ([], s)
  | t :: ts, s =>
    if t.again && canSend s then
      let r := resendGranules ts (emit s t.word 1)
      ({ t with again := false } :: r.1, r.2)
    else
      let r := resendGranules ts s
      (t :: r.1, r.2)

/-- Sends what is due of a record and of the retransmit buffer (R352, R357). -/
def pumpSend (record : List Byte) (x : Send) (s : State) : Send × State :=
  let (x1, s1) : Send × State := if x.recDue && canSend s then ({ x with recDue := false }, emit s (.record x.gen record) 1) else (x, s)
  let r := resendGranules x1.unacked s1
  ({ x1 with unacked := r.1 }, r.2)

/-- Whether a granule may be read and sent now: the first record is sent, and at most four are unacknowledged (R352, R357). -/
def maySendGranule (s : State) (x : Send) : Bool := !x.recDue && x.todo != [] && decide (x.unacked.length < 4) && canSend s

/-- Every granule and the record are acknowledged. -/
def allAcked (x : Send) : Bool := x.todo == [] && x.unacked == [] && !x.recDue && x.recAcked

/-- MIRSTAT.STATE of a running commit (R349). -/
def commitState (s : State) (k : Commit) : MirSt :=
  let x := k.tx
  if s.mir.credits = 0 ∧ (x.recDue ∨ x.todo ≠ [] ∨ x.unacked.any (·.again)) then .stalled else .commit

/-- The commit goes on as far as credits and acknowledgements let it: its record OPEN, what must be sent again, and, every granule
acknowledged, its record VALID (R352). -/
def advanceCommit (s : State) : State :=
  match s.mir.commit with
  | none => s
  | some k =>
    let k1 := if !k.closing && allAcked k.tx then { k with closing := true, tx := { k.tx with recDue := true, recAcked := false, recNacks := 0 } } else k
    let k2 := if !k1.closing && k1.tx.recDue && k1.tx.recNacks = 0 && canSend s then { k1 with tick := s.win.tick } else k1
    let r := pumpSend (commitRecord s k2) k2.tx s
    let k3 := { k2 with tx := r.1 }
    setMir r.2 { r.2.mir with commit := some k3, st := commitState r.2 k3 }

/-- The word of a granule that is sent. -/
def granuleWord (r i : Nat) (gen fetch : Bool) (ply : W64) (bs : List Byte) : PWord :=
  .granule (BitVec.ofNat 4 r) (BitVec.ofNat 16 i) gen fetch (BitVec.ofNat 60 ply.toNat) (crc32c bs) bs

/-- Ends the answer to a FREQ with a status (R424). -/
def endServe (s : State) (st : BitVec 4) : State :=
  let s1 := emit s (.fend st) 0
  setMir s1 { s1.mir with serve := none }

/-- The next granule of an answer is read from the reserve and sent; bad data ends the answer (R424, R425). -/
def serveGranule (s : State) (x : Send) (n : List Nat) (g : Nat) (gs : List Nat) : State × Bool :=
  let (rg, i) := (locate n 0 g).getD (0, 0)
  let pa := resvGranule s n x.gen rg i
  match mirCheck s pa 65536 with
  | (s0, true) => (endServe s0 4, false)
  | (s0, false) =>
    let w := granuleWord rg i x.gen true x.ply (granuleBytes s0 pa)
    let s1 := emit s0 w 1
    (setMir s1 { s1.mir with serve := some ({ x with todo := gs, unacked := x.unacked ++ [{ g := g, word := w }] }, n) }, true)

/-- The record of an answer is read while it has to be sent (R425). -/
def serveCheck (s : State) (x : Send) (a : Nat) : State × Bool := if x.recDue then mirCheck s a 128 else (s, false)

/-- The answer to a FREQ goes on: the record, what must be sent again, granules from the reserve, and FEND once all is acknowledged (R425). -/
def advanceServe : Nat → State → State
  | 0, s => s
  | fuel + 1, s =>
    match s.mir.serve with
    | none => s
    | some (x, n) =>
      let a := resvRecord s x.gen
      match serveCheck s x a with
      | (s0, true) => endServe s0 4
      | (s0, false) =>
        let r := pumpSend (cohRead s0 a 128) x s0
        if allAcked r.1 then endServe r.2 0
        else
          match r.1.todo with
          | g :: gs =>
            if maySendGranule r.2 r.1 then
              match serveGranule r.2 r.1 n g gs with
              | (s1, true) => advanceServe fuel s1
              | (s1, false) => s1
            else setMir r.2 { r.2.mir with serve := some (r.1, n) }
          | [] => setMir r.2 { r.2.mir with serve := some (r.1, n) }

/-- A FREQ that is due goes once the link is up (R425). -/
def advanceFetch (s : State) : State :=
  match s.mir.fetch with
  | some f => if f.freqDue && s.mir.link && domRuns s dVellum then
      let s1 := emit s (.freq f.rmask f.want f.verify) 0
      setMir s1 { s1.mir with fetch := some { f with freqDue := false } }
    else s
  | none => s

/-- What follows every event of the mirror engine. -/
def mirAdvance (s : State) : State := advanceFetch (advanceServe 5 (advanceCommit s))

/-- Sets the bits of both generations for granules (R350, R359). -/
def setBothBits (s : State) (l : List Nat) : State := l.foldl (fun s g => setMapBit (setMapBit s false true g) true true g) s

/-- The commit set of a generation (R351). -/
def commitSet (s : State) (gen : Bool) : List Nat :=
  (List.range (mirTotal s)).filter fun g => mapBit s gen g || (match granuleAt s g with
    | some (r, _, _) => mirFull s r
    | none => false)

/-- Performs the held writes whose granules have been read or released, oldest first (R353). -/
def releaseHeld (s : State) : State :=
  let (go, stay) := s.mir.held.partition fun h => (heldGranules s h.pa.toNat h.bytes.length).isEmpty
  go.foldl (fun s h => agentWrite s .unit .cacheable h.pa.toNat h.bytes) (setMir s { s.mir with held := stay })

/-- The record that the mirror engine posts: unit and severity as R357 and R361 state; the class, its syndrome and, where no granule is concerned,
the location are open (R331, R332, log 31). -/
def mirrorRecord (s : State) (g : Option Nat) : State :=
  let (cls, s1) := freeClass s
  let (synd, s2) := draw 24 s1
  let (loc, s3) : W64 × State := match g.bind (granuleAt s) with
    | some (r, i, _) => (place 64 r.val 0 ||| place 64 i 16, s2)
    | none =>
      let (x, s3) := draw 64 s2
      (x &&& locMask 0x0E, s3)
  postRecord s3 cls 0x0E 1 loc (synd &&& syndMask cls) false 0

/-- STATE with no commit running: a fetch, a verify, or IDLE (R349). -/
def restState (s : State) : MirSt :=
  match s.mir.fetch with
  | some f => if f.verify then .verify else .fetch
  | none => .idle

/-- A commit is abandoned (R357), over the granule g where one is concerned: quiet for a write that clears EN and for a warm reset. -/
def abandonCommit (quiet : Bool) (g : Option Nat) (s : State) : State :=
  match s.mir.commit with
  | none => s
  | some k =>
    let s1 := (k.tx.todo ++ k.tx.unacked.map (·.g)).foldl (fun s g => setMapBit s k.tx.gen true g) s
    let s2 := releaseHeld (setMir s1 { s1.mir with
      commit := none, st := restState s1, failed := true, aborts := if s1.mir.aborts = 0xFF then 0xFF else s1.mir.aborts + 1 })
    if quiet then s2 else pend (mirrorRecord s2 g) 0x22

/-- The commit is complete: the VALID record is acknowledged (R352). -/
def commitDone (s : State) (k : Commit) : State :=
  releaseHeld (setMir s { s.mir with
    commit := none, st := restState s, failed := false, last := k.tx.ply
    prev := if k.tx.gen then (s.mir.prev.1, k.tx.ply) else (k.tx.ply, s.mir.prev.2) })

/-- Step 4 of R24: the commit with label p (R351). None starts with EN = 0 or while a fetch runs (R359). DESIGN CHOICE (log 49): one that starts while
a verify runs shows STATE = COMMIT until it ends. -/
def startCommit (s : State) (p : W64) : State :=
  let fetching := match s.mir.fetch with
    | some f => !f.verify
    | none => false
  if s.mir.en && hasPartner s.var && !fetching then
    let gen := bit p 0
    let set := commitSet s gen
    let s1 := setMir s { s.mir with
      commit := some { tx := { ply := p, gen := gen, todo := set }, total := set.length, tick := s.win.tick }
      st := .commit, gen := gen, sent := 0, out := [] }
    if s.mir.link then mirAdvance s1 else abandonCommit false none s1
  else s

/-- The results of a fetch or a verify (R379); with no generation used, the generation and its PLY are free values (log 6). -/
def fetchResults (s : State) (f : Fetch) : State × List Byte :=
  let (x, s1) := draw 8 s
  let (y, s2) := draw 64 s1
  let head := match f.got with
    | some (gen, ply) => (if gen then (1 : Byte) else 0) :: 0 :: 0 :: 0 :: toBytes 8 ply
    | none => x :: 0 :: 0 :: 0 :: toBytes 8 y
  (s2, head ++
    (if f.verify then
      toBytes 4 (BitVec.ofNat 32 f.compared) ++ toBytes 4 (BitVec.ofNat 32 f.skipped) ++ toBytes 4 (BitVec.ofNat 32 f.differing.length)
        ++ (List.range 8).flatMap fun i => toBytes 4 (BitVec.ofNat 32 (f.differing.getD i 0xFFFFFFFF))
    else toBytes 4 (BitVec.ofNat 32 f.copied)))

/-- Whether what the receiving side has written belongs to a fetch. -/
def isFetched : RxItem → Bool
  | .fetched _ _ => true
  | _ => false

/-- The credits of the fetched granules that are not yet acknowledged go back (R361, R424). -/
def freeCredits (s : State) : State :=
  (s.mir.rx.filter isFetched).foldl (fun s _ => emit s (.credit 1) 0) (setMir s { s.mir with rx := s.mir.rx.filter fun x => !isFetched x })

/-- A fetch or a verify ends with a status (R359 to R361): STATE is that of the commit that runs, if one does, else IDLE; a fetch leaves every map
bit of its ranges set, and the command completes. record: an error record is posted, over the granule g where one is concerned. -/
def endFetch (s : State) (f : Fetch) (st det : Byte) (record : Bool) (g : Option Nat) : State :=
  let s0 := freeCredits s
  let s1 := setMir s0 { s0.mir with fetch := none, st := if s0.mir.commit.isSome then s0.mir.st else .idle }
  let s2 := if f.verify then s1 else setBothBits s1 (maskGranules (localCounts s1) f.rmask)
  let s3 := if record then mirrorRecord s2 g else s2
  let (s4, res) := fetchResults s3 f
  qevent (complete s4 f.cmd st det res) 3

/-- A fetch or a verify ends early, over the granule g where one is concerned (R361). -/
def abortFetch (s : State) (det : Byte) (g : Option Nat) : State :=
  match s.mir.fetch with
  | some f => endFetch s f stAborted det (det != 0x33) g
  | none => s

/-- A fetch or a verify is over as asked (R359, R360). -/
def fetchDone (s : State) (f : Fetch) : State :=
  let ply := (f.got.getD (false, 0)).2
  endFetch (if f.setPly && !f.verify && f.got.isSome then { s with c := { s.c with ply := ply } } else s) f stOk 0 false none

/-- The checks of a write that sets MIRCTL.EN (R346). -/
def mirCfgOk (s : State) : Bool :=
  let rs := (List.finRange 16).filter (mirEn s)
  decide (mirTotal s ≤ 65536) && decide (fieldN s.mir.map 25 14 * 16384 + 16384 ≤ 2 ^ vellumLog2 s.var) &&
    rs.all fun r => rs.all fun q =>
      r == q || decide (mirBase s r + 65536 * mirN s r ≤ mirBase s q) || decide (mirBase s q + 65536 * mirN s q ≤ mirBase s r)

/-- The fields of MIRCTL but EN that a write stores (R346). -/
def mirctlRest (s : State) (v : W64) : State :=
  let tmo : Byte := BitVec.ofNat 8 (fieldN v 15 8)
  setMir s { s.mir with recv := bit v 1, tmo := if tmo = 0 then 1 else tmo }

/-- A write of MIRCTL (R346). -/
def mirctlWrite (s : State) (v : W64) : State :=
  if bit v 0 && !s.mir.en then
    if mirCfgOk s then
      let s1 := setMir s { s.mir with en := true, cfgErr := false }
      mirctlRest (setBothBits s1 (List.range (mirTotal s1))) v
    else setMir s { s.mir with cfgErr := true }
  else if !bit v 0 && s.mir.en then mirctlRest (abandonCommit true none (setMir s { s.mir with en := false })) v
  else mirctlRest s v

/-- MIRCTL as it reads (R346). -/
def mirctlWord (s : State) : W64 :=
  placeB 64 s.mir.en 0 ||| placeB 64 s.mir.recv 1 ||| placeB 64 s.mir.qlock 2 ||| place 64 s.mir.tmo.toNat 8

/-- The code of MIRSTAT.STATE (R349). -/
def mirStCode : MirSt → Nat
  | .idle => 0
  | .commit => 1
  | .fetch => 2
  | .verify => 3
  | .stalled => 4

/-- MIRSTAT (R349). -/
def mirstatWord (s : State) : W64 :=
  let m := s.mir
  place 64 (mirStCode m.st) 0 ||| placeB 64 m.gen 3 ||| placeB 64 m.link 4 ||| placeB 64 m.cfgErr 5 ||| placeB 64 m.failed 6
    ||| place 64 m.aborts.toNat 8 ||| place 64 m.sent.toNat 16

/-- A write of MIRCFG r, ignored while EN = 1 (R345). -/
def mircfgWrite (s : State) (r : Fin 16) (v : W64) : State :=
  if s.mir.en then s else setMir s { s.mir with cfg := s.mir.cfg.set r.val (v &&& ~~~(maskBits 64 23 18)) r.isLt }

/-- A write of MIRMAP, ignored while EN = 1; bits beyond the vellum's size are 0 (R347). -/
def mirmapWrite (s : State) (v : W64) : State :=
  if s.mir.en then s else setMir s { s.mir with map := v &&& maskBits 64 (vellumLog2 s.var - 1) 14 }

/-- A write of MIRRESV, ignored while RECV = 1 (R348). -/
def mirresvWrite (s : State) (v : W64) : State :=
  if s.mir.recv then s else setMir s { s.mir with resv := v &&& ~~~(maskBits 64 23 18) }

/-- An event of the partner port: with its link down nothing comes; a clock-gated VELLUM is woken, and the word must be given again (R28, R356, log 32). -/
def partnerEvent (s : State) (f : State → Option State) : Host.Outcome State Fault Refusal :=
  event s (
    if !hasPartner s.var || !s.mir.link then none
    else match domUse s dVellum with
      | .ready => (f (setMir s { s.mir with out := [] })).map mirAdvance
      | .asleep => some (wakeRequest s dVellum)
      | .off => none)

/-- Sends an ACK and returns the credit (R356, R424). -/
def sendAck (s : State) (g : BitVec 16) (gen isRec : Bool) : State := emit (emit s (.ack g gen isRec) 0) (.credit 1) 0
/-- Sends a NACK and returns the credit (R356, R424). -/
def sendNack (s : State) (code : BitVec 4) (g : BitVec 16) (isRec : Bool) : State := emit (emit s (.nack code g isRec) 0) (.credit 1) 0

/-- The record of class CRC for data of the partner port that fails its CRC (R322, R331, R332, R357). -/
def crcRecord (s : State) (range : BitVec 4) (idx : BitVec 16) (crc : W32) (inj : Bool) : State :=
  postRecord s 0x09 0x0E 1 (place 64 range.toNat 0 ||| place 64 idx.toNat 16) (BitVec.ofNat 24 crc.toNat) inj 0

/-- Whether an injection corrupts the CRC of the next record or granule that the partner port receives (R341, R466). -/
def crcInjected (s : State) : Bool := injKind s 0x0E == 6 && injSel s == 0

/-- An acknowledgement as a sender takes it: none if it names nothing that is sent. -/
def ackSend (x : Send) (g : BitVec 16) (gen isRec : Bool) : Option Send :=
  if gen ≠ x.gen then none
  else if isRec then (if !x.recDue && !x.recAcked then some { x with recAcked := true } else none)
  else if x.unacked.any (·.g == g.toNat) then some { x with unacked := x.unacked.filter (·.g != g.toNat) } else none

/-- A NACK of code CRC as a sender takes it: the retransmission, or none at the fourth (R357). -/
def nackSend (x : Send) (g : BitVec 16) (isRec : Bool) : Option (Option Send) :=
  if isRec then (if !x.recDue && !x.recAcked then some (if 3 ≤ x.recNacks then none else some { x with recDue := true, recNacks := x.recNacks + 1 }) else none)
  else match x.unacked.find? (·.g == g.toNat) with
    | some t =>
      some (if 3 ≤ t.nacks then none
        else some { x with unacked := x.unacked.map fun u => if u.g = t.g then { u with nacks := u.nacks + 1, again := true } else u })
    | none => none

/-- MIRROR_GRANULE_READ: the engine has read the next granule: a granule that a held writer asked for, else
the lowest; its map bit is cleared, it is sent, and held writes go on (R352, R353). An uncorrectable error abandons the commit (R357). -/
def execMirrorGranuleRead (uncorrectable : Bool) (s : State) : Host.Outcome State Fault Refusal :=
  partnerEvent s fun s =>
    match s.mir.commit with
    | none => none
    | some k =>
      if maySendGranule s k.tx then
        let g := (k.urgent.find? (k.tx.todo.contains ·)).getD (k.tx.todo.headD 0)
        match granuleAt s g with
        | none => none
        | some (r, i, pa) =>
          match mirCheck s pa 65536 with
          | (s0, true) => some (abandonCommit false (some g) s0)
          | (s0, false) =>
            if uncorrectable then some (abandonCommit false (some g) s0)
            else
              let w := granuleWord r.val i k.tx.gen false k.tx.ply (granuleBytes s0 pa)
              let x := { k.tx with todo := k.tx.todo.filter (· != g), unacked := k.tx.unacked ++ [{ g := g, word := w }] }
              let s1 := emit (setMapBit s0 k.tx.gen false g) w 1
              some (releaseHeld (setMir s1 { s1.mir with
                commit := some { k with tx := x, urgent := k.urgent.filter (· != g) }, sent := s1.mir.sent + 1 }))
      else none

/-- MIRROR_HELD_WRITE: a write to a granule that the commit has not read is held, and the granule is read next (R353). -/
def execMirrorHeldWrite (pa : BitVec 56) (bytes : List Byte) (s : State) : Host.Outcome State Fault Refusal :=
  event s (
    let gs := heldGranules s pa.toNat bytes.length
    if gs.isEmpty then none
    else
      let s1 := askGranules s gs
      some (setMir s1 { s1.mir with held := s1.mir.held ++ [⟨pa, bytes⟩] }))

/-- PARTNER_ACK (R352). -/
def execPartnerAck (g : BitVec 16) (gen isRec : Bool) (s : State) : Host.Outcome State Fault Refusal :=
  partnerEvent s fun s =>
    match s.mir.commit.bind fun k => (ackSend k.tx g gen isRec).map fun x => (k, x) with
    | some (k, x) => if k.closing && isRec then some (commitDone s k) else some (setMir s { s.mir with commit := some { k with tx := x } })
    | none =>
      match s.mir.serve.bind fun p => (ackSend p.1 g gen isRec).map fun x => (x, p.2) with
      | some p => some (setMir s { s.mir with serve := some p })
      | none => none

/-- PARTNER_NACK (R357). -/
def execPartnerNack (code : BitVec 4) (g : BitVec 16) (isRec : Bool) (s : State) : Host.Outcome State Fault Refusal :=
  partnerEvent s fun s =>
    match s.mir.commit.bind fun k => (nackSend k.tx g isRec).map fun x => (k, x) with
    | some (k, x) =>
      match (if code = 4 then x else none) with
      | some y => some (setMir s { s.mir with commit := some { k with tx := y } })
      | none => some (abandonCommit false (if isRec then none else some g.toNat) s)
    | none =>
      match s.mir.serve.bind fun p => (nackSend p.1 g isRec).map fun x => (x, p.2) with
      | some (some y, n) => some (setMir s { s.mir with serve := if code = 4 then some (y, n) else none })
      | some (none, _) => some (setMir s { s.mir with serve := none })
      | none => none

/-- PARTNER_CREDIT (R424). -/
def execPartnerCredit (n : BitVec 3) (s : State) : Host.Outcome State Fault Refusal :=
  partnerEvent s fun s => if 1 ≤ n.toNat ∧ n.toNat ≤ 4 then some (setMir s { s.mir with credits := s.mir.credits + n.toNat }) else none

/-- MIRROR_COMMIT_ABANDON: a cause of R357 that no other command brings, such as a failed fabric response to a granule read (R414). -/
def execMirrorCommitAbandon (s : State) : Host.Outcome State Fault Refusal :=
  event s (if s.mir.commit.isSome then some (mirAdvance (abandonCommit false none s)) else none)

/-- A write of the receiving side: through its own ports, of no FENCE class, and not tracked (R356). -/
def receiverWrite (s : State) (pa : Nat) (bs : List Byte) : State :=
  let s1 := cohWrite s pa bs
  if goesToFabric s .other .cacheable pa then noteFabricWrite s1 .other pa bs.length else s1

/-- PARTNER_GRANULE_RECEIVE: a committed granule goes into the reserve, or is refused (R354, R356). -/
def execPartnerGranuleReceive (range : BitVec 4) (idx : BitVec 16) (gen : Bool) (ply : BitVec 60) (crc : W32) (bytes : List Byte)
    (s : State) : Host.Outcome State Fault Refusal :=
  partnerEvent s fun s =>
    if bytes.length ≠ 65536 then none
    else
      let inj := crcInjected s
      let s := if inj then disarm s else s
      let crc := if inj then crc ^^^ 1 else crc
      let n := s.mir.rxN
      let g := BitVec.ofNat 16 (countsBelow n range.toNat + idx.toNat)
      if !s.mir.recv || resvSize s = 0 then some (sendNack s 1 g false)
      else if crc32c bytes ≠ crc then some (sendNack (crcRecord s range idx crc inj) 4 g false)
      else match s.mir.rxRec with
        | none => some (sendNack s 2 g false)
        | some (rgen, label) =>
          if rgen ≠ gen ∨ BitVec.ofNat 60 label.toNat ≠ ply ∨ n.getD range.toNat 0 ≤ idx.toNat then some (sendNack s 3 g false)
          else
            let s1 := receiverWrite s (resvGranule s n gen range.toNat idx.toNat) bytes
            some (askVisible (setMir s1 { s1.mir with rx := s1.mir.rx ++ [.granule g gen] }) .other)

/-- The record that answers this core's own FREQ: it is the stored record of this core (R425). -/
def fetchRecord (s : State) (f : Fetch) (b : List Byte) (inj : Bool) : State :=
  if recCrcOk b then
    sendAck (setMir s { s.mir with fetch := some { f with got := some (bbyte b 6 == 1, BitVec.ofNat 64 (recN b 16 8)) } }) 0 (bbyte b 6 == 1) true
  else
    let s1 := sendNack (crcRecord s 0 0 (BitVec.ofNat 32 (recN b 124 4)) inj) 4 0 true
    if 3 ≤ f.recCrcs then abortFetch s1 0x31 none else setMir s1 { s1.mir with fetch := some { f with recCrcs := f.recCrcs + 1 } }

/-- The CRC of a record with bit 0 inverted (R466). -/
def flipCrc (b : List Byte) : List Byte := b.set 124 (bbyte b 124 ^^^ 1)

/-- PARTNER_RECORD_RECEIVE: a record comes. While a fetch waits for one, the record of this core is its answer; any other belongs to the
partner's commit, and waits until the granules before it are written (R355, R356, R425). -/
def execPartnerRecordReceive (bytes : List Byte) (s : State) : Host.Outcome State Fault Refusal :=
  partnerEvent s fun s =>
    if bytes.length ≠ 128 then none
    else
      let inj := crcInjected s
      let s := if inj then disarm s else s
      let bytes := if inj then flipCrc bytes else bytes
      match s.mir.fetch.bind fun f => if f.got.isNone && !f.freqDue && (recN bytes 8 4 == s.cfg.coreid.toNat % 2 ^ 20) then some f else none with
      | some f => some (fetchRecord s f bytes inj)
      | none =>
        let gen := bbyte bytes 6 == 1
        let n := recCounts bytes
        if !s.mir.recv || resvSize s = 0 then some (sendNack s 1 0 true)
        else if !recCrcOk bytes then some (sendNack (crcRecord s 0 0 (BitVec.ofNat 32 (recN bytes 124 4)) inj) 4 0 true)
        else if recN bytes 8 4 ≠ s.cfg.partner.toNat % 2 ^ 20 then some (sendNack s 2 0 true)
        else if resvSize s < 1 + 2 * n.sum then some (sendNack s 3 0 true)
        else some (setMir s { s.mir with
          rxN := n, rxRec := some (gen, BitVec.ofNat 64 (recN bytes 16 8)), rx := s.mir.rx ++ [.record gen bytes false] })

/-- PARTNER_WRITE_VISIBLE: the oldest write of the receiving side is visible to all agents, and its ACK goes; a record is written once it
is the oldest (R356, R361, R418). -/
def execPartnerWriteVisible (s : State) : Host.Outcome State Fault Refusal :=
  partnerEvent s fun s =>
    match s.mir.rx with
    | [] => none
    | .record gen bs false :: rest =>
      let s1 := receiverWrite s (resvRecord s gen) bs
      some (askVisible (setMir s1 { s1.mir with rx := .record gen bs true :: rest }) .other)
    | x :: rest =>
      if writesVisible s .other then
        let s1 := setMir s { s.mir with rx := rest }
        match x with
        | .record gen _ _ => some (sendAck s1 0 gen true)
        | .granule g gen => some (sendAck s1 g gen false)
        | .fetched g gen =>
          match s1.mir.fetch with
          | some f =>
            let f1 := { f with copied := f.copied + 1 }
            let s2 := sendAck (setMir s1 { s1.mir with fetch := some f1 }) g gen false
            some (if f1.fend && !rest.any isFetched then fetchDone s2 f1 else s2)
          | none => some s1
      else some (askVisible s .other)

/-- The generation that a FREQ gets, with its record, or the status of FEND (R359, R425). -/
def chooseGen (s : State) (want : BitVec 2) : BitVec 4 ⊕ (Bool × List Byte) :=
  let a := cohRead s (resvRecord s false) 128
  let b := cohRead s (resvRecord s true) 128
  let va := recValid a s.cfg.partner
  let vb := recValid b s.cfg.partner
  if want = 1 then (if va then .inr (false, a) else .inl 2)
  else if want = 2 then (if vb then .inr (true, b) else .inl 2)
  else if va && (!vb || recN b 16 8 ≤ recN a 16 8) then .inr (false, a)
  else if vb then .inr (true, b)
  else .inl 1

/-- PARTNER_FREQ: a serving core begins its answer (R425). -/
def execPartnerFreq (rmask : BitVec 16) (gen : BitVec 2) (verify : Bool) (s : State) : Host.Outcome State Fault Refusal :=
  partnerEvent s fun s =>
    if gen = 3 then none
    else if !s.mir.recv || resvSize s = 0 then some (endServe s 3)
    else match mirCheck s (resvBase s) 256 with
      | (s0, true) => some (endServe s0 4)
      | (s0, false) =>
        match chooseGen s0 (if verify then 0 else gen) with
        | .inl st => some (endServe s0 st)
        | .inr (g, rec) =>
          let n := recCounts rec
          some (setMir s0 { s0.mir with serve := some ({ ply := BitVec.ofNat 64 (recN rec 16 8), gen := g, todo := maskGranules n rmask }, n) })

/-- A fetched granule compared with the local copy (R360). -/
def verifyGranule (s : State) (f : Fetch) (gen : Bool) (g pa : Nat) (bs : List Byte) : State :=
  let put (s : State) (f : Fetch) : State := sendAck (setMir s { s.mir with fetch := some f }) (BitVec.ofNat 16 g) gen false
  if mapBit s gen g then put s { f with skipped := f.skipped + 1 }
  else match mirCheck s pa 65536 with
    | (s1, true) => abortFetch s1 0x32 (some g)
    | (s1, false) => put s1 { f with compared := f.compared + 1, differing := if granuleBytes s1 pa = bs then f.differing else f.differing ++ [g] }

/-- A granule of a fetch that fails its CRC: it is asked for again, three times (R361). -/
def fetchCrc (s : State) (f : Fetch) (g : Nat) : State :=
  let n := ((f.crcs.find? (·.1 == g)).map (·.2)).getD 0
  if 3 ≤ n then abortFetch s 0x31 (some g)
  else setMir s { s.mir with fetch := some { f with crcs := (g, n + 1) :: f.crcs.filter (·.1 ≠ g) } }

/-- FETCH_GRANULE_RECEIVE: a granule of a fetch is written, or one of a verify compared (R359 to R361). -/
def execFetchGranuleReceive (range : BitVec 4) (idx : BitVec 16) (crc : W32) (bytes : List Byte) (s : State) : Host.Outcome State Fault Refusal :=
  partnerEvent s fun s =>
    match s.mir.fetch with
    | none => none
    | some f =>
      match f.got with
      | none => none
      | some (gen, _) =>
        if bytes.length ≠ 65536 then none
        else
          let g := mirS s range.toNat + idx.toNat
          match granuleAt s g with
          | none => none
          | some (r, i, pa) =>
            let inj := crcInjected s
            let s := if inj then disarm s else s
            let crc := if inj then crc ^^^ 1 else crc
            if r.val ≠ range.toNat ∨ i ≠ idx.toNat then none
            else if crc32c bytes ≠ crc then some (fetchCrc (sendNack (crcRecord s range idx crc inj) 4 (BitVec.ofNat 16 g) false) f g)
            else if f.verify then some (verifyGranule s f gen g pa bytes)
            else
              let s1 := receiverWrite s pa bytes
              some (askVisible (setMir s1 { s1.mir with rx := s1.mir.rx ++ [.fetched (BitVec.ofNat 16 g) gen] }) .other)

/-- PARTNER_FEND (R359 to R361). -/
def execPartnerFend (st : BitVec 4) (s : State) : Host.Outcome State Fault Refusal :=
  partnerEvent s fun s =>
    match s.mir.fetch with
    | none => none
    | some f =>
      match st.toNat with
      | 0 =>
        if s.mir.rx.any isFetched then some (setMir s { s.mir with fetch := some { f with fend := true } })
        else some (fetchDone s f)
      | 1 => some (endFetch s f stNotready 0 false none)
      | 2 => some (endFetch s f stBadarg 0 false none)
      | 3 => some (endFetch s f stNotready 0 false none)
      | 4 => some (abortFetch s 0x32 none)
      | _ => none

/-- The four credits that the partner gets once the link is up and VELLUM runs; one in retention grants none (R356, R424). -/
def grantPartner (s : State) : State :=
  if s.mir.link && !s.mir.granted && domRuns s dVellum then
    let s1 := emit s (.credit 4) 0
    mirAdvance (setMir s1 { s1.mir with granted := true })
  else s

/-- PP_LINK_UP_RISE: each side sends CREDIT with count 4 (R424). -/
def execPpLinkUpRise (s : State) : Host.Outcome State Fault Refusal :=
  pinEvent s (setMir s { s.mir with link := hasPartner s.var }) (
    if !hasPartner s.var || s.mir.link then none
    else some (grantPartner (wakeRequest (setMir s { s.mir with link := true, out := [] }) dVellum)))

/-- PP_LINK_UP_FALL: a commit is abandoned, and a fetch ends (R357, R361). -/
def execPpLinkUpFall (s : State) : Host.Outcome State Fault Refusal :=
  pinEvent s (setMir s { s.mir with link := false }) (
    if s.mir.link then
      let s1 := setMir s { s.mir with link := false, credits := 0, granted := false, serve := none, rx := [], out := [] }
      some (abortFetch (abandonCommit false none s1) 0x30 none)
    else none)

/-- MIRROR_TMO_EXPIRY: the partner is silent for MIRCTL.TMO (R357, R361). -/
def execMirrorTmoExpiry (s : State) : Host.Outcome State Fault Refusal :=
  event s (if s.mir.commit.isSome || s.mir.fetch.isSome then some (abortFetch (abandonCommit false none s) 0x30 none) else none)

end Sys2Proof.Machine
end

