-- ==== Sys2Proof/Machine/Cache.lean ====
section
/-! DEFINITION. The L2 way groups, ruled mode, the fills of the caches, the prefetcher and the walks (R206 to R208, R213 to R224, R228, R229, R239, R245). -/
namespace Sys2Proof.Machine

/-- L2WAYCTL as it reads (R228). -/
def l2wayWord (s : State) : W64 := place 64 s.c.l2En.toNat 0 ||| place 64 s.c.l2On.toNat 8 ||| place 64 s.c.l2Busy.toNat 12

/-- Whether a machine check that names a way of a group is pending (R229, R332). -/
def groupCheck (s : State) (g : Nat) : Bool := isPending s 0x20 && s.c.l2Check.getLsbD g

/-- The lines that a way group holds. -/
def groupLines (s : State) (g : Nat) : List (BitVec 50) :=
  s.ca.l2.filterMap fun e => if e.1 % 16 / 4 = g then e.2.map (·.la) else none

/-- The lowest set in which a way group holds a line. -/
def groupSet (s : State) (g : Nat) : Option Nat := ((s.ca.l2.filter fun e => e.1 % 16 / 4 == g && e.2.isSome).map (·.1 / 16)).min?

/-- A way group that is being turned off, and whose clean is not over (R229). -/
def cleaning (s : State) (g : Fin 4) : Bool :=
  let x := s.dom[dL2w g]
  s.c.l2Busy.getLsbD g.val && x.st == .run && x.goal.isNone && s.c.l2On.getLsbD g.val

/-- The clean of a way group goes on with the next set that holds a line: each line is written back if dirty and removed from every cache; after
the last, power-down is requested. A group with a machine check pending is not cleaned: its lines go (R229). -/
def cleanStep (s : State) (g : Fin 4) : State :=
  if cleaning s g then
    if groupCheck s g.val then
      let s1 := (groupLines s g.val).foldl discardLine s
      setDom s1 (dL2w g) (domShut s1.dom[dL2w g] .off)
    else match groupSet s g.val with
      | some k => ((List.range 4).filterMap fun w => (spGet none s.ca.l2 (16 * k + 4 * g.val + w)).map (·.la)).foldl evictL2 s
      | none => setDom s (dL2w g) (domShut s.dom[dL2w g] .off)
  else s

/-- One step of every clean in progress. -/
def cleanSteps (s : State) : State := [0, 1, 2, 3].foldl cleanStep s

/-- Sets BUSY of a way group. -/
def setBusy (s : State) (g : Fin 4) (v : Bool) : State := { s with c := { s.c with l2Busy := setBit s.c.l2Busy g.val v } }

/-- Starts the transition of a way group that is on or off against its EN bit; one that is held off is not driven on. ON falls while the tags
are initialised, and stays until the supply is off (R228, R229, R446). -/
def driveGroup (s : State) (g : Fin 4) : State :=
  let d := dL2w g
  let en := s.c.l2En.getLsbD g.val && !s.heldOff.getLsbD d.val
  if s.c.l2Busy.getLsbD g.val || en == l2GroupOn s g.val then s
  else if en then
    let s1 := setBusy s g true
    setDom { s1 with c := { s1.c with l2On := setBit s1.c.l2On g.val false } } d (domUp s1.dom[d])
  else setBusy s g true

/-- Starts every transition that is due (R229). -/
def driveGroups (s : State) : State := [0, 1, 2, 3].foldl driveGroup s

/-- A write of L2WAYCTL (R228). -/
def l2wayWrite (v : W64) (s : State) : State :=
  let en := fieldN v 3 0
  driveGroups { s with c := { s.c with l2En := BitVec.ofNat 4 (if en = 0 then 1 else en) } }

/-- Writes every dirty line of L1D back to L2 and removes them all. -/
def cleanL1d (s : State) : State := (s.ca.l1d.filterMap fun e => e.2.map (·.la)).foldl flushL1d s

/-- The domains that entry into ruled mode wakes (R207). -/
def ruledDoms : List (Fin 32) := [dVellum, dTile, dBoard, dStream, dVec, dCore]

/-- A write of RULED (R206, R207). -/
def ruledWrite (v : W64) (b : Bank) (s : State) : Res :=
  let s0 := { s with c := { s.c with ruledSched := bit v 1 } }
  if bit v 0 = s.c.ruledEn then .ok b s0
  else if bit v 0 = false then .ok b { s0 with c := { s0.c with ruledEn := false, ruledAct := false } }
  else if s.ca.sb.isEmpty = false then .wait s
  else
    let s1 := cleanL1d s
    let s2 := { s1 with ca := { s1.ca with l1i := [], lineBuf := none, miss := none } }
    if ruledDoms.any fun d => domUse s2 d == .asleep then .wait (ruledDoms.foldl wakeRequest s2)
    else .ok b { s2 with c := { s2.c with ruledEn := true, ruledAct := true, ruledSched := bit v 1 } }

/-- A line read through a four-way instruction cache: a hit is touched; else another copy goes, and the line fills a way. The caches, the way, and
whether it was filled (R213, R214, R221). -/
def tagFill (tags : Sparse (Option (BitVec 50))) (plru : Sparse (BitVec 3)) (set : Nat) (la : BitVec 50) :
    Sparse (Option (BitVec 50)) × Sparse (BitVec 3) × Bool :=
  let bits := (spGet 0 plru set).toNat
  let used (w : Nat) := spSet 0 plru set (BitVec.ofNat 3 (touch 4 bits w))
  match (List.range 4).find? fun w => spGet none tags (4 * set + w) == some la with
  | some w => (tags, used w, false)
  | none =>
    let old := spMap none (fun _ x => if x = some la then none else x) tags
    let w := fillWay 4 bits (fun _ => true) fun w => (spGet none old (4 * set + w)).isSome
    (spSet none old (4 * set + w) (some la), used w, true)

/-- The L1I set of a virtual address (R213). -/
def l1iSet (va : W64) : Nat := va.toNat / 64 % 256

/-- A parity error in an L1I line, met or reported: the line is invalidated, to be fetched again (R227). -/
def dropL1i (s : State) (la : BitVec 50) : State :=
  { s with ca := { s.ca with l1i := spMap none (fun _ x => if x = some la then none else x) s.ca.l1i } }

/-- An injected parity flip that a fetch meets in an L1I line (R227, R341). -/
def meetL1i (s : State) (la : BitVec 50) : State :=
  if spotAt s 0x02 (l1Loc la) = 3 then
    match s.ca.l1i.find? fun e => e.2 == some la with
    | some (k, _) =>
      postRecord (dropL1i (clearSpot s 0x02 (l1Loc la)) la) 0x04 0x02 0 (BitVec.ofNat 64 (64 * la.toNat)) (BitVec.ofNat 24 (k % 4)) true 0
    | none => s
  else s

/-- A line read through L1I under the set of a virtual address; a miss fills it from L2 (R213, R214, R221, R223). -/
def fillL1i (s0 : State) (la : BitVec 50) (va : W64) : State :=
  let s := meetL1i s0 la
  let hit := (List.range 4).any fun w => spGet none s.ca.l1i (4 * l1iSet va + w) == some la
  let s1 := if hit then s else fillL2 s la false
  if (l2Find s1 la).isNone then s1
  else
    let (tags, plru, filled) := tagFill s1.ca.l1i s1.ca.l1iPlru (l1iSet va) la
    let s2 := { s1 with ca := { s1.ca with l1i := tags, l1iPlru := plru } }
    if filled then injFill s2 0x02 (l1Loc la) else s2

/-- A fetch of the core brings its line into the line buffer, through L1I where the page is cacheable; one that meets an error leaves it to the
instruction (R199, R208, R215, R243). -/
def fetchLine (s : State) (va : W64) : Option State :=
  let b := curBank s
  match translate .fetch .fetch (ringOf b) b.ttb va s with
  | .bad _ _ _ => none
  | .ok s1 pa ty =>
    if (readError s1 (ty == .cacheable || ruledPast s1 .core ty) (pa / 64 * 64) 64).isSome then none
    else
      let s2 := if ty = .cacheable ∧ ¬ s1.c.ruledAct then fillL1i s1 (lineNo pa) va else s1
      some { s2 with ca := { s2.ca with lineBuf := some (lineNo pa) } }

/-- The access kind of a walk. -/
def accAk : Acc → Ak
  | .write => .store
  | .fetch => .fetch
  | _ => .load

/-- What a request for a walk names: its translation cache, its rights, its table base, and its access kind. -/
def walkOf (s : State) : WalkReq → Option (TlbSel × BitVec 2 × W64 × Ak)
  | .core a => some (if a = .fetch then .fetch else .data, ringOf (curBank s), (curBank s).ttb, accAk a)
  | .stream q a => (s.ops.find? fun o => onQueue o && o.q == q && opLive o).map fun o => (.stream, o.cap.ring, o.cap.ttb, accAk a)
  | .tile t a => (liveTransfer s t).map fun o => (.stream, o.cap.ring, o.cap.ttb, accAk a)
  | .scribe k t a => (spGet none s.scribes[k].threads t.val).map fun x => (.scribe k, 3, x.regs.ttb, accAk a)

/-- A walk begins (R239, R246). -/
def walkBegin (s : State) (r : WalkReq) (va : W64) : Option State :=
  match walkOf s r with
  | none => none
  | some (sel, ring, ttb, _) =>
    if canonical ttb va = false ∨ ttbLevels ttb = 0 ∨ walkHeld s sel ttb va = true
        ∨ (tlbOf s sel).any (entryHits (tlbSets sel) (ttbAsid ttb) va) = true then none
    else
      let (level, table, ty) := walkStart s ttb va
      some { s with ca := { s.ca with walks := s.ca.walks ++ [⟨r, va, ttb, ring, level, table, ty⟩] } }

/-- Walk i is over. -/
def walkDrop (s : State) (i : Nat) : State := { s with ca := { s.ca with walks := s.ca.walks.eraseIdx i } }

/-- A failing RESP: none of OK and CRCERR, which has a class of its own (R331, R412). -/
def failResp (r : BitVec 4) : BitVec 4 := if r = 0 ∨ r = 5 then 1 else r

/-- The record of a read of physical memory that failed on its port in a way that the command does not tell: a CRC failure, a timeout or an error
response (R241, R331, log 6). -/
def portFault (s : State) (a : Nat) : State :=
  let (k, s1) := draw 2 s
  let (x, s2) := draw 24 s1
  let p : BitVec 24 := BitVec.ofNat 24 (portOf a).val
  let (cls, synd) : Byte × BitVec 24 :=
    if k = 0 then (0x09, x) else if k = 1 then (0x0A, p) else (0x12, (failResp (x.setWidth 4)).setWidth 24 ||| p <<< 4)
  postRecord s2 cls 0x0D 1 (BitVec.ofNat 64 a) synd false 0

/-- What a walk writes back to its leaf: one for the general core sets no D, since its access has not become non-speculative (R239, R240). -/
def walkLeaf (r : WalkReq) (d n : W64) : W64 :=
  match r with
  | .core _ => setBit n 8 (bit d 8)
  | _ => n

/-- A descriptor comes back to walk i: the walk goes down, ends in a fault, or installs its entry; an error is recorded (R239 to R241, R245). A
walk that ends without an entry leaves the report to the access that asked for it, which makes a new walk (R243). -/
def walkReturn (s : State) (i : Nat) (err : Bool) : Option State :=
  match s.ca.walks[i]? with
  | none => none
  | some w =>
    match walkOf s w.req with
    | none => some (walkDrop s i)
    | some (sel, _, _, ak) =>
      let a := descAddr w.table w.level w.va
      if w.ty = 2 then some (walkDrop s i)
      else if err then some (walkDrop (portFault s a) i)
      else
        match walkRead s a w.ty with
        | (s1, none) => some (walkDrop s1 i)
        | (s1, some d) =>
          match walkDesc ak w.ring w.level d with
          | .bad _ => some (walkDrop s1 i)
          | .down t ty =>
            let s2 := walkCacheAdd s1 (ttbAsid w.ttb) w.level w.va d
            some { s2 with ca := { s2.ca with walks := s2.ca.walks.set i { w with level := w.level - 1, table := t, ty := ty } } }
          | .leaf n0 p =>
            let n := walkLeaf w.req d n0
            match (if n = d then [] else heldGranules s1 a 8) with
            | g :: gs => some (askGranules s1 (g :: gs))
            | [] =>
              let s2 := if n = d then s1 else walkWrite s1 a w.ty n
              let e := leafEntry w.ttb w.va n p
              some (walkDrop (installL2 (installIn s2 sel e w.va) e w.va) i)

/-- L1I_MISS_FILL (R199, R215). -/
def execL1iMissFill (va : W64) (s : State) : Host.Outcome State Fault Refusal :=
  event s (if domRuns s dCore then fetchLine s va else none)

/-- L1D_MISS_FILL: the missing line comes from L2 or the fabric; a load's miss is seen by the prefetcher (R217, R219). -/
def execL1dMissFill (s : State) : Host.Outcome State Fault Refusal := event s (some (missFill s))

/-- PREFETCH_FILL: an error discards the line; else it comes into L2 and the prefetch buffer, whose oldest line goes (R220, R222). -/
def execPrefetchFill (line : BitVec 56) (err : Bool) (s : State) : Host.Outcome State Fault Refusal :=
  event s <|
    let la := lineNo line.toNat
    if s.ca.pfOut.contains la then
      let s1 := { s with ca := { s.ca with pfOut := s.ca.pfOut.erase la } }
      if err || s1.c.ruledAct || linePoison s1 true la then some s1
      else
      let s2 := fillL2 s1 la false
      match l2Find s2 la with
      | some _ =>
        if (l1dFind s2 la).isSome then some s2
        else some { s2 with ca := { s2.ca with pf := (s2.ca.pf ++ [la]).drop (s2.ca.pf.length - 15) } }
      | none => some s2
    else none

/-- PAGE_WALK (R239). -/
def execPageWalk (r : WalkReq) (va : W64) (s : State) : Host.Outcome State Fault Refusal := event s (walkBegin s r va)

/-- WALK_DESCRIPTOR_RETURN (R239). -/
def execWalkDescriptorReturn (i : Nat) (err : Bool) (s : State) : Host.Outcome State Fault Refusal := event s (walkReturn s i err)

end Sys2Proof.Machine
end

