-- ==== Sys2Proof/Machine/Inkwell.lean ====
section
/-! DEFINITION. The inkwell: BMODE, ICLR, the three forms of IDRAIN with their conversions, and the power-up zeroing (R117 to R138, R153 to R155). -/
namespace Sys2Proof.Machine

/-- BMODE #semi: an MTC to BMODE (R120). -/
def bmodeBody (semi : BitVec 3) : Body := fun _ b s => .ok (touchCtl { b with bmode := semi.setWidth 64 }) s

/-- INKRANGE of n rows from base, n not 0 (R119). -/
def rangeFault (s : State) (t base n : Nat) : Option Exc :=
  if inkRows s.var < base + n then some (inkRange t (max base (inkRows s.var))) else none

/-- ICLR (R126). -/
def iclrBody (gr gc : GReg) : Body := fun k b s =>
  let n := (rg b gc).toNat
  if n = 0 then .ok b s
  else checked (fun s => [rangeFault s 0 (inkBase b gr) n]) (boardAccept fun _ b s =>
    .ok b (acceptOp s { newOp .iclr b s with base := inkBase b gr, n := n, semi := semiOf b })) k b s

/-- Tile rows per inkwell row of a type (R128). -/
def rowsPer (e : BitVec 4) : Nat := match e.toNat with | 8 | 9 => 2 | 10 => 4 | _ => 1

/-- SRSEED after an accepted drain of n rows (R154). -/
def advanceSeed (b : Bank) (o : DrainOpts) (n : Nat) : Bank :=
  if o.sr then touchCtl { b with srseed := setField b.srseed 63 32 (fieldN b.srseed 63 32 + n) } else b

/-- The checks of a tile drain (R128). -/
def drainTileFault (s : State) (b : Bank) (gr : GReg) (t : TReg) (o : DrainOpts) : Option Exc :=
  let x := accTile s t
  let p := rowsPer x.etype
  let base := inkBase b gr
  match lowest [
    (3, x.etype == 0 || 12 ≤ x.etype.toNat),
    (1, tileRows x % p != 0),
    (2, boardB s.var < 64 * o.ecol.toNat + p * tileElems x),
    (5, inkRows s.var < base + tileRows x / p)] with
  | some 5 => some (inkRange t.val (max base (inkRows s.var)))
  | some k => some (shapeExc k t)
  | none => none

/-- IDRAIN, tile target (R128). -/
def idrainTileBody (gr : GReg) (t : TReg) (o : DrainOpts) : Body := fun k b s =>
  checked (fun s => [ownFault s t, stateFault s t, drainTileFault s b gr t o]) (boardAccept fun _ b s =>
    let x := accTile s t
    let n := tileRows x / rowsPer x.etype
    let op := { newOp .idrainT b s with t := t, base := inkBase b gr, n := n, semi := semiOf b, opts := o, srseed := b.srseed }
    .ok (advanceSeed b o n) (settleTile (setDirty (acceptOp s op) t) t s.tiles[t].base)) k b s

/-- The converted entries of one inkwell row: entries from first on, n of them (R132, R153, R154). -/
def drainRow (s : State) (e : BitVec 4) (mxTile : Bool) (semi : BitVec 3) (o : DrainOpts) (seed : W64) (row k first n : Nat) : List Cv :=
  (List.range n).map fun i =>
    drainEntry e mxTile semi o (BitVec.ofNat 32 (fieldN seed 31 0)) (BitVec.ofNat 32 (fieldN seed 63 32 + k)) (first + i)
      (inkRead s semi row (first + i))

/-- Codes of w bits packed from bit 0 up (R12, R140). -/
def packCodes (w : Nat) (l : List Nat) : Nat := l.foldr (fun c acc => acc * 2 ^ w + c % 2 ^ w) 0

/-- The sidecar row of a drained tile row: the output scale, or 0xFF where a block holds a NaN (R129). -/
def drainScales (o : DrainOpts) (n : Nat) (cs : List Cv) : ScaleWord :=
  let base : Nat := if o.osc then o.scale.toNat else 0x7F
  let bytes := (List.range n).map fun b => if ((cs.drop (32 * b)).take 32).any (·.nan) then 0xFF else base
  setField scaleOnes (8 * n - 1) 0 (packCodes 8 bytes)

/-- A read of n entries of an inkwell row by a drain: uncorrectable ones are recorded, and the row gives its sample (R138, R307). -/
def drainMeet (s : State) (semi : BitVec 3) (row first n : Nat) : State :=
  rowSample (inkMeetRow s row first n) true semi ((List.range n).map fun i => spGet 0 s.ink (1024 * row + first + i))

/-- The tile with row r drained; the first of the tile rows that share an inkwell row reads it (R128, R129). -/
def drainTileRow (o : Op) (s : State) (r : Nat) : State :=
  let x := s.tiles[o.t]
  let p := rowsPer x.etype
  let e := tileElems x
  let s0 := if r % p = 0 then drainMeet s o.semi (o.base + r / p) (64 * o.opts.ecol.toNat) (p * e) else s
  let cs := drainRow s0 x.etype x.mx o.semi o.opts o.srseed (o.base + r / p) (r / p) (64 * o.opts.ecol.toNat + r % p * e) e
  let s1 := putRow s0 o.t r (BitVec.ofNat 8192 (packCodes (etypeBits x.etype) (cs.map (·.code))))
  if x.mx then putScale s1 o.t r (drainScales o.opts (tileScales x) cs) else s1

/-- An encoding of IDRAIN that depends on the configuration: its entries must lie in the row (R127). -/
def drainFits (s : State) (o : DrainOpts) : Bool := decide (64 * (o.ecol.toNat + o.nent.toNat + 1) ≤ boardB s.var)

/-- IDRAIN, vector target: at the ROB head, once every earlier writer has written the row (R130, R133 rule 5). -/
def idrainVectorBody (c : Instr) (gr : GReg) (vd : VReg) (o : DrainOpts) : Body := fun k b s =>
  if drainFits s o = false then .exc (undefExc c) b s
  else checked (fun s => [rangeFault s 0 (inkBase b gr) 1]) (fun _ b s =>
    let base := inkBase b gr
    if s.inkZeroing || writeHolds s.ops base then .wait s
    else
      let n := 64 * (o.nent.toNat + 1)
      let w := etypeBits o.otype
      let cs := drainRow s o.otype false (semiOf b) o b.srseed base 0 (64 * o.ecol.toNat) n
      let v := setField b.v[vd] (n * w - 1) 0 (packCodes w (cs.map (·.code)))
      .ok (wv (advanceSeed b o 1) vd v) (drainMeet s (semiOf b) base (64 * o.ecol.toNat) n)) k b s

/-- IDRAIN, memory target (R131). -/
def idrainMemoryBody (c : Instr) (gr ga gb : GReg) (q : QNum) (o : DrainOpts) : Body := fun k b s =>
  if drainFits s o = false then .exc (undefExc c) b s
  else
    let n := fieldN (rg b gb) 44 32 + 1
    checked (fun s => [rangeFault s 0 (inkBase b gr) n]) (boardAccept fun _ b s =>
      if queueRoom s q then
        .ok (advanceSeed b o n) (acceptOp s { newOp .idrainM b s with
          q := q, ga := rg b ga, gb := sext64 32 (fieldN (rg b gb) 31 0), base := inkBase b gr, n := n, semi := semiOf b, opts := o, srseed := b.srseed })
      else .wait s) k b s

/-- The bytes that row k of a memory drain writes (R131). -/
def drainBytes (s : State) (o : Op) (k : Nat) : List Byte :=
  let n := 64 * (o.opts.nent.toNat + 1)
  let first := 64 * o.opts.ecol.toNat
  if o.opts.otype = 0 then
    (List.range n).flatMap fun i => toBytes 5 (inkRead s o.semi (o.base + k) (first + i))
  else
    let w := etypeBits o.opts.otype
    let cs := drainRow s o.opts.otype false o.semi o.opts o.srseed (o.base + k) k first n
    toBytes (n * w / 8) (BitVec.ofNat (n * w) (packCodes w (cs.map (·.code))))

/-- The bytes of a row of a memory drain. -/
def drainLen (o : Op) : Nat :=
  let n := 64 * (o.opts.nent.toNat + 1)
  if o.opts.otype = 0 then 5 * n else n * etypeBits o.opts.otype / 8

/-- Whether the service port may read row l of a memory drain, or has read it (R133 rules 1 to 3, R137). -/
def drainMay (s : State) (o : Op) (l : Nat) : Bool :=
  let e := earlier s o
  decide (l < o.port) || (!s.inkZeroing && domRuns s dBoard && runsStarted e && portFree e && !writeHolds e (o.base + l))

/-- The service port reads row l of a memory drain for its requests; a row read before, as a restart finds it, is not read again
(R131, R133). -/
def drainTake (s : State) (o : Op) (l : Nat) : State :=
  if l < o.port then s
  else
    updOp (drainMeet s o.semi (o.base + l) (64 * o.opts.ecol.toNat) (64 * (o.opts.nent.toNat + 1))) o.id fun y =>
      { y with port := l + 1, buf := (l, drainBytes s o l) :: y.buf }

/-- How a memory drain issues: as soon as the service port has read a row, in requests that end at 64-byte boundaries (R131, R170). -/
def drainIssuer : Issuer where
  req _ o :=
    let va := o.ga + o.gb * BitVec.ofNat 64 o.iline + BitVec.ofNat 64 o.ioff
    ⟨min (drainLen o - o.ioff) (64 - va.toNat % 64), 1, [(true, va)]⟩
  len _ o := drainLen o
  may s o := drainMay s o o.iline
  take s o := drainTake s o o.iline

/-- The memory drains accepted before an operation have issued what they may (R131, R133). -/
def portAdvance (s : State) (o : Op) : State :=
  (earlier s o).foldl (fun s e => if e.kind = .idrainM then issueTo drainIssuer e.id e.n 0 (poolSize + 1) s else s) s

/-- A_ROW_ENTRY: the next A-row enters when its tile, the duty and the inkwell's order permit (R102, R105, R114, R133). -/
def execARowEntry (s : State) : Host.Outcome State Fault Refusal :=
  event s <| (edgeOp s.ops).bind fun o =>
    let s0 := portAdvance s o
    if o.kind = .brun ∧ o.started ∧ s.bd.entered ≤ s.bd.duty.toNat ∧ s.inkZeroing = false ∧ domRuns s dBoard
        ∧ serviceHolds (earlier s0 o) (o.base + o.prog) = false then
      let x := s.tiles[o.t]
      let p := s.bd.planes[s.bd.active]
      let sums := (List.range p.pr.n).map fun j => (runEntry s o x.etype j, rowResult o.semi x p o.prog j)
      let s1 := rowRead s0 o.t (BitVec.ofNat 10 o.prog)
      some { updOp s1 o.id (fun y => { y with prog := o.prog + 1 }) with
        bd := { s.bd with entered := s.bd.entered + 1, flight := s.bd.flight ++ [.row o.id o.prog sums] } }
    else none

/-- BMODE (R120). -/
def execBmode (semi : BitVec 3) (s : State) : Host.Outcome State Fault Refusal := issue (.bmode semi) (bmodeBody semi) s
/-- ICLR (R126). -/
def execIclr (gr gc : GReg) (s : State) : Host.Outcome State Fault Refusal := boardInstr (.iclr gr gc) (iclrBody gr gc) s
/-- IDRAIN, tile target (R128). -/
def execIdrainTile (gr : GReg) (t : TReg) (o : DrainOpts) (s : State) : Host.Outcome State Fault Refusal :=
  boardInstr (.idrainTile gr t o) (domGate dTile (.idrainTile gr t o) (idrainTileBody gr t o)) s
/-- IDRAIN, vector target (R130). -/
def execIdrainVector (gr : GReg) (vd : VReg) (o : DrainOpts) (s : State) : Host.Outcome State Fault Refusal :=
  boardInstr (.idrainVector gr vd o) (vecGate (.idrainVector gr vd o) (idrainVectorBody (.idrainVector gr vd o) gr vd o)) s
/-- IDRAIN, memory target (R131). -/
def execIdrainMemory (gr ga gb : GReg) (q : QNum) (o : DrainOpts) (s : State) : Host.Outcome State Fault Refusal :=
  boardInstr (.idrainMemory gr ga gb q o)
    (domGate dStream (.idrainMemory gr ga gb q o) (idrainMemoryBody (.idrainMemory gr ga gb q o) gr ga gb q o)) s

/-- Whether an operation of the service port may work on its rows (R133 rules 1 to 3). -/
def serviceReady (s : State) (o : Op) : Bool :=
  let l := earlier s o
  !s.inkZeroing && domRuns s dBoard && runsStarted l && portFree l && (List.range o.n).all fun i => !writeHolds l (o.base + i)

/-- ICLR_COMPLETE: the identity stands in every entry of the rows (R126). -/
def execIclrComplete (s : State) : Host.Outcome State Fault Refusal :=
  event s <| (s.ops.find? fun o => o.kind == .iclr).bind fun o =>
    let s0 := portAdvance s o
    let free := (List.range o.n).all fun i => !serviceHolds (earlier s0 o) (o.base + i)
    if serviceReady s0 o ∧ free then
      let s1 := (List.range o.n).foldl (fun s i =>
        (List.range (boardB s.var)).foldl (fun s e => inkWrite s (o.base + i) e (inkIdentity o.semi)) s) s0
      some (dropOp s1 o.id)
    else none

/-- IDRAIN_TILE_COMPLETE: the rows are drained and the tile is READY (R128). -/
def execIdrainTileComplete (t : TReg) (s : State) : Host.Outcome State Fault Refusal :=
  event s <| (workingOp s .idrainT t).bind fun o =>
    let s0 := portAdvance s o
    if serviceReady s0 o then
      let s1 := (List.range (tileRows s.tiles[t])).foldl (drainTileRow o) s0
      some (settleTile (dropOp s1 o.id) t .ready)
    else none

/-- The first memory drain of a queue at work. -/
def liveDrain (s : State) (q : QNum) : Option Op := s.ops.find? fun o => o.kind == .idrainM && o.q == q && opLive o

/-- IDRAIN_MEMORY_COMPLETE: every row is written and visible (R131, R418). -/
def execIdrainMemoryComplete (q : QNum) (s : State) : Host.Outcome State Fault Refusal :=
  event s <| (liveDrain s q).map fun o => if o.n ≤ o.prog then finishQueued s o else settleLines s

end Sys2Proof.Machine
end

