-- ==== Sys2Proof/Machine/Stream.lean ====
section
/-! DEFINITION. The stream engine: SMOVE with its descriptor and its lines, the memory drain's rows, completion, faults and restart (R163 to R178). -/
namespace Sys2Proof.Machine

/-- A stream descriptor (R167). -/
structure Desc where
  srcInk : Bool
  dstInk : Bool
  dims : Nat
  ord : Bool
  evt : Bool
  irq : Bool
  src : W64
  dst : W64
  xlen : Nat
  ny : Nat
  nz : Nat
  sys : W64
  szs : W64
  dys : W64
  dzs : W64
  caddr : W64
  ctag : W64
  deriving DecidableEq, Repr

/-- The fields of a descriptor's doublewords (R167). -/
def descOf (d : Vector W64 8) : Desc where
  srcInk := fieldN d[0] 1 0 == 1
  dstInk := fieldN d[0] 3 2 == 1
  dims := fieldN d[0] 5 4
  ord := bit d[0] 6
  evt := bit d[0] 7
  irq := bit d[0] 8
  src := d[1]
  dst := d[2]
  xlen := fieldN d[3] 31 0
  ny := fieldN d[3] 47 32 + 1
  nz := fieldN d[3] 63 48 + 1
  sys := sext64 32 (fieldN d[4] 31 0)
  szs := sext64 32 (fieldN d[4] 63 32)
  dys := sext64 32 (fieldN d[5] 31 0)
  dzs := sext64 32 (fieldN d[5] 63 32)
  caddr := d[6]
  ctag := BitVec.ofNat 64 (fieldN d[7] 55 0)

/-- ECOL of an inkwell endpoint (R168). -/
def inkEcol (x : W64) : Nat := fieldN x 19 16
/-- The first row of an inkwell endpoint (R168). -/
def inkFirst (x : W64) : Nat := fieldN x 12 0

/-- Whether an inkwell endpoint breaks R168. -/
def inkEndBad (s : State) (d : Desc) (x s1 s2 : W64) : Bool :=
  fieldN x 15 13 != 0 || fieldN x 63 20 != 0 || d.xlen == 0 || d.xlen % 320 != 0 ||
  decide (boardB s.var < 64 * inkEcol x + d.xlen / 5) || s1 != 0 || s2 != 0 || d.dims == 2

/-- Whether a descriptor breaks R167 or R168: cause DESC. -/
def descBad (s : State) (w : Vector W64 8) : Bool :=
  let d := descOf w
  fieldN w[0] 63 9 != 0 || fieldN w[0] 1 0 > 1 || fieldN w[0] 3 2 > 1 || d.dims == 3 ||
  (d.dims == 0 && d.ny != 1) || (d.dims != 2 && d.nz != 1) || (d.evt && fieldN d.caddr 2 0 != 0) || fieldN w[7] 63 56 != 0 ||
  (d.srcInk && d.dstInk) || (d.srcInk && inkEndBad s d d.src d.sys d.szs) || (d.dstInk && inkEndBad s d d.dst d.dys d.dzs)

/-- The first row of the inkwell endpoint of a descriptor. -/
def descRow (d : Desc) : Nat := if d.srcInk then inkFirst d.src else inkFirst d.dst

/-- The cause that a descriptor meets before any data access, with its ADDR (R168, R172, R174, R175). -/
def descCause (s : State) (o : Op) (w : Vector W64 8) : Option (BitVec 5 × W64) :=
  let d := descOf w
  let ink := d.srcInk || d.dstInk
  if descBad s w then some (0x09, o.ga)
  else if ink && decide (inkRows s.var < descRow d + d.ny) then some (0x0A, BitVec.ofNat 64 (descRow d))
  else if ink && o.cap.ruled then some (0x0D, BitVec.ofNat 64 (descRow d))
  else none

/-- SMOVE (R166). -/
def smoveBody (q : QNum) (ga : GReg) : Body := fun _ b s =>
  if fieldN (rg b ga) 5 0 ≠ 0 then .exc { code := 0x04, acc := .read, addr := rg b ga } b s
  else if queueRoom s q then .ok b (acceptOp s { newOp .smove b s with q := q, ga := rg b ga })
  else .wait s

/-- The operation of a queue first in order that satisfies p. -/
def firstOp (s : State) (q : QNum) (p : Op → Bool) : Option Op :=
  ((queueOps s q).filter p).foldl (fun m o => match m with
    | none => some o
    | some x => if o.qseq < x.qseq then some o else m) none

/-- The descriptor taken into its operation: its lines, and the line at which a restart begins (R167, R169, R177). -/
def takeDesc (o : Op) (w : Vector W64 8) : Op :=
  let d := descOf w
  let n := d.ny * d.nz
  let p := if d.xlen = 0 then n else min o.port n
  { o with desc := some w, n := n, prog := p, iline := p, ioff := 0, above := [], moved := [] }

/-- The queue's status word (R174). DESIGN CHOICE (log 49): an SMOVE that has moved every line and has not posted counts in OPS and toward the 32 of
the queue, and keeps it ACTIVE; R163 counts the operations that are not completed, and does not tell whether this one is. -/
def sqStatus (s : State) (q : QNum) : W64 :=
  let x := s.sq[q]
  let n := (queueOps s q).length
  let st := if x.faulted.isSome then 2 else if n = 0 then 0 else 1
  place 64 st 0 ||| placeB 64 x.recv 2 ||| placeB 64 (x.recv && (unreported s q).isSome) 3 ||| place 64 n 8 ||| place 64 x.done.toNat 32

/-- A word of a queue's state (R174). -/
def sqWord (s : State) (q : QNum) (w : BitVec 3) : W64 :=
  let x := s.sq[q]
  if w = 0 then sqStatus s q
  else if x.recv = false then 0
  else match w.toNat with
    | 1 => x.w1
    | 2 => x.w2
    | 3 => x.w3
    | _ => x.w4

/-- Whether SQWAIT ends (R178). -/
def sqwaitEnds (s : State) (q : QNum) : Bool :=
  s.sq[q].faulted.isSome || !(s.ops.any fun o => onQueue o && o.q == q) ||
  s.ops.any fun o => o.left && o.q == q && s.tiles[o.t].st == .incomplete

/-- Clears the record of a queue and reports a held stop (R177). -/
def clearRecord (s : State) (q : QNum) : State :=
  reportStop { s with sq := s.sq.set q.val { s.sq[q] with recv := false, faulted := none } q.isLt } q

/-- What SQCTL makes of the stopped operation (R177). -/
inductive SqAct where
  | clear | restart | restartAt | abandon
  deriving DecidableEq, Repr

/-- The stopped operation set to continue from a line; one that stopped early reads its descriptor again. The rows that a drain leaves out count
as read on the service port, and those that it has read keep their bytes (R131, R177). -/
def resumeOp (at_ : Option Nat) (o : Op) : Op :=
  let early := match o.stop with
    | some st => st.early
    | none => false
  let o1 := { o with stop := none, above := [], moved := [], written := [], fab := [], out := [], ioff := 0 }
  if early then { o1 with desc := none, n := 0, prog := 0, iline := 0, port := at_.getD 0 }
  else
    let l := match at_ with
      | some l => min l o.n
      | none => o.prog
    if o.kind = .idrainM then { o1 with prog := l, iline := l, port := max o.port l } else { o1 with prog := l, iline := l, buf := [] }

/-- SQCTL (R165, R177). -/
def sqctlBody (a : SqAct) (q : QNum) (g : GReg) : Body := fun _ b s =>
  let x := s.sq[q]
  if 1 < (ringOf b).toNat ∨ (x.recv = true ∧ fieldN x.w1 13 12 < (ringOf b).toNat) then .exc privExc b s
  else match x.faulted with
    | none => .ok b (if x.recv then clearRecord s q else s)
    | some id =>
      match a with
      | .clear => .ok b s
      | .restart => .ok b (clearRecord (updOp s id (resumeOp none)) q)
      | .restartAt => .ok b (clearRecord (updOp s id (resumeOp (some (fieldN (rg b g) 32 0)))) q)
      | .abandon => .ok b (postQueue q 32 (clearRecord (updOp s id fun o => { o with stop := none, abandoned := true }) q))

/-- n entries of an inkwell row in the raw layout, from entry e on (R131, R168). -/
def inkBytes (s : State) (row e n : Nat) : List Byte :=
  (List.range n).flatMap fun i => toBytes 5 (spGet 0 s.ink (1024 * row + e + i))

/-- Writes whole entries of an inkwell row from their raw layout (R168). -/
def putInkBytes (s : State) (row e : Nat) (bs : List Byte) : State :=
  (List.range (bs.length / 5)).foldl (fun s i => inkWrite s row (e + i) (ofBytes 40 ((bs.drop (5 * i)).take 5))) s

/-- The bytes of a line that have moved. -/
def movedOf (o : Op) (l : Nat) : Nat := ((o.moved.find? (·.1 == l)).map (·.2)).getD 0

/-- A request of a line is finished, and the line has moved as far as byte off of n; fab: a part of it went to the fabric (R169, R170). -/
def partMade (s : State) (o : Op) (l n off : Nat) (fab : Bool) : State :=
  if n ≤ off then lineMade s o l fab
  else reportStop (updOp s o.id fun _ =>
    setOut l (outOf o l - 1) { o with moved := (l, off) :: o.moved.filter (·.1 ≠ l), fab := if fab then l :: o.fab.filter (· ≠ l) else o.fab }) o.q

/-- Bytes of an inkwell entry that a request has read or will write and the next one needs (R134, R168). -/
def carryOf (o : Op) (l : Nat) : List Byte := ((o.buf.find? (·.1 == l)).map (·.2)).getD []

/-- Keeps such bytes. -/
def setCarry (l : Nat) (bs : List Byte) (o : Op) : Op :=
  { o with buf := (if bs = [] then [] else [(l, bs)]) ++ o.buf.filter (·.1 ≠ l) }

/-- Whether an address lies in the memory endpoint of a descriptor that begins at base, with the endpoint's strides. -/
def inEndpoint (d : Desc) (base sy sz a : W64) : Bool :=
  (List.range d.ny).any fun y => (List.range d.nz).any fun z => decide ((a - (base + BitVec.ofNat 64 y * sy + BitVec.ofNat 64 z * sz)).toNat < d.xlen)

/-- Whether the byte that a descriptor moves from src to dst is one that source and destination share: it has no defined result (R169). -/
def overlaps (d : Desc) (src dst : W64) : Bool :=
  !d.srcInk && !d.dstInk && (inEndpoint d d.src d.sys d.szs dst || inEndpoint d d.dst d.dys d.dzs src)

/-- The bytes of a part of a line as the move writes them: overlapping bytes are free values (R169, log 6). -/
def movedBytes (d : Desc) (src dst : W64) (bs : List Byte) (s : State) : List Byte × State :=
  if (List.range bs.length).any fun i => overlaps d (src + BitVec.ofNat 64 i) (dst + BitVec.ofNat 64 i) then
    (bs.zipIdx.map fun p => if overlaps d (src + BitVec.ofNat 64 p.2) (dst + BitVec.ofNat 64 p.2) then freeAt 8 s p.2 else p.1, spent s 1)
  else (bs, s)

/-- Byte off of line l at an endpoint with its strides (R169). -/
def lineAddr (d : Desc) (l off : Nat) (a s1 s2 : W64) : W64 :=
  a + BitVec.ofNat 64 (l % d.ny) * s1 + BitVec.ofNat 64 (l / d.ny) * s2 + BitVec.ofNat 64 off

/-- Byte off of line l at the source and at the destination. -/
def lineSrc (d : Desc) (l off : Nat) : W64 := lineAddr d l off d.src d.sys d.szs
/-- The destination. -/
def lineDst (d : Desc) (l off : Nat) : W64 := lineAddr d l off d.dst d.dys d.dzs

/-- The bytes of the request at byte off of line l: it ends at the 64-byte boundaries of its memory endpoints (R170). -/
def partLen (d : Desc) (l off : Nat) : Nat :=
  let to64 (ink : Bool) (a : W64) : Nat := if ink then 64 else 64 - a.toNat % 64
  min (d.xlen - off) (min (to64 d.srcInk (lineSrc d l off)) (to64 d.dstInk (lineDst d l off)))

/-- How an SMOVE issues: the read and the write of each part of a line (R169, R170). -/
def smoveIssuer (d : Desc) : Issuer where
  req _ o :=
    ⟨partLen d o.iline o.ioff, 1,
      (if d.srcInk then [] else [(false, lineSrc d o.iline o.ioff)]) ++ (if d.dstInk then [] else [(true, lineDst d o.iline o.ioff)])⟩
  len _ _ := d.xlen
  may _ _ := true
  take s _ := s

/-- The source bytes of a request, k of them at byte off of line l; of an inkwell line, the rest of an entry stays for the next request
(R134, R138, R168, R175). -/
def smoveRead (s : State) (o : Op) (d : Desc) (l off k : Nat) : SOut × Op :=
  if d.srcInk then
    let row := inkFirst d.src + l % d.ny
    let have_ := carryOf o l
    let e := 64 * inkEcol d.src + (off + have_.length) / 5
    let n := (k - have_.length + 4) / 5
    let s1 := inkMeetRow s row e n
    if (List.range n).any fun i => s.inkBad.contains (1024 * row + e + i) then (.stop s1 0x07 (BitVec.ofNat 64 row) 0, o)
    else
      let bs := have_ ++ inkBytes s row e n
      (.done s1 (bs.take k), setCarry l (bs.drop k) o)
  else (streamRead o.cap true (piecesOf (lineSrc d l off) k) s, o)

/-- The destination of a request: an inkwell entry is written whole once its last byte has come (R134, R168). -/
def smoveWrite (s : State) (o : Op) (d : Desc) (l off : Nat) (bs : List Byte) : State :=
  let k := bs.length
  if d.dstInk then
    let all := carryOf o l ++ bs
    let e := 64 * inkEcol d.dst + (off - (carryOf o l).length) / 5
    let m := all.length / 5 * 5
    partMade (putInkBytes s (inkFirst d.dst + l % d.ny) e (all.take m)) (setCarry l (all.drop m) o) l d.xlen (off + k) false
  else match streamWrite o.cap true (fun _ => false) bs (piecesOf (lineDst d l off) k) s with
    | .stop s2 c va pa => stopLine s2 o l c 0 (stopDetail c) true va pa
    | .wait s2 => s2
    | .done s2 fab => partMade s2 o l d.xlen (off + k) fab

/-- One request of an SMOVE: the next part of line l (R169, R170). DESIGN CHOICE (log 49): the record of an inkwell endpoint in a BOARD that is off
names the inkwell row as ADDR, and a request to the inkwell waits while the power-up zeroing runs; R174 and R137 speak of neither. -/
def smoveStep (s : State) (o : Op) (d : Desc) (l : Nat) : State :=
  let off := movedOf o l
  let k := partLen d l off
  let ink := d.srcInk || d.dstInk
  match (if ink then domUse s dBoard else .ready) with
  | .off => stopLine s o l 0x08 0 0 d.dstInk (BitVec.ofNat 64 (descRow d + l % d.ny)) 0
  | .asleep => wakeRequest s dBoard
  | .ready =>
    if ink && s.inkZeroing then s
    else match smoveRead s o d l off k with
      | (.stop s1 c va pa, _) => stopLine s1 o l c 0 0 false va pa
      | (.wait s1, _) => s1
      | (.done s0 bs0, o1) =>
        let (bs, s1) := movedBytes d (lineSrc d l off) (lineDst d l off) bs0 s0
        smoveWrite s1 o1 d l off bs

/-- One request of a memory drain: the next part of row l, which the service port has read (R131, R133). -/
def drainStep (s : State) (o : Op) (l : Nat) : State :=
  let bs := carryOf o l
  let off := movedOf o l
  let va := o.ga + o.gb * BitVec.ofNat 64 l + BitVec.ofNat 64 off
  let k := min (bs.length - off) (64 - va.toNat % 64)
  match streamWrite o.cap true (fun _ => false) ((bs.drop off).take k) (piecesOf va k) s with
  | .stop s2 c va pa => stopLine s2 o l c 3 (stopDetail c) true va pa
  | .wait s2 => s2
  | .done s2 fab => partMade s2 o l bs.length (off + k) fab

/-- Whether an SMOVE is complete but for its posting: its descriptor is read, and every line is complete (R173). -/
def smoveMoved (o : Op) : Bool := o.desc.isSome && o.stop.isNone && decide (o.n ≤ o.prog)

/-- Posts an SMOVE whose record is written or not asked for (R173). DESIGN CHOICE (log 49): one that is abandoned without its descriptor having been
read posts no record, interrupt or event: EVT, IRQ and CADDR are not known, and R177 does not speak of it. -/
def postSmove (s : State) (o : Op) : State :=
  let irq := match o.desc with
    | some w => (descOf w).irq
    | none => false
  let s1 := if irq then postEvent (pend s 0x24) o.cap.bank .sev else s
  postQueue o.q 32 (countDone (dropOp s1 o.id) o.q)

/-- The completion record that an SMOVE at the head of its queue still writes: the address and the value. DESIGN CHOICE (log 49): at an unaligned
CADDR, which stopped the operation with DESC, an abandoned one writes none: no single-copy atomic store goes there (R167, R173). -/
def smoveRecord (o : Op) : Option (W64 × W64) :=
  o.desc.bind fun w =>
    let d := descOf w
    if d.evt ∧ fieldN d.caddr 2 0 = 0 then some (d.caddr, (if o.abandoned then place 64 1 56 else 0) ||| d.ctag) else none

/-- Whether an operation at the head of its queue is an SMOVE that may post (R164, R173). -/
def mayPost (o : Op) : Bool := o.kind == .smove && o.stop.isNone && (o.abandoned || smoveMoved o)

/-- A stop on the write of a completion record: the progress is the line count (R173). -/
def stopPost (s : State) (o : Op) (c : BitVec 5) (detail : Byte) (va pa : W64) : State :=
  stopOp (updOp s o.id fun y => { y with prog := o.n }) { o with prog := o.n } c 4 detail true va pa false

/-- A stop before any data access, on the descriptor read (R174, R177). -/
def stopDesc (s : State) (o : Op) (c : BitVec 5) (detail : Byte) (a pa : W64) : State := stopOp s o c 0 detail false a pa true

/-- The next SMOVE of a queue whose descriptor is to be read: in order of acceptance; one that is stopped holds no other back (R164). -/
def descNext (s : State) (q : QNum) : Option Op := firstOp s q fun o => o.kind == .smove && o.desc.isNone && !o.abandoned && o.stop.isNone

/-- The operations of a queue that move data: not a tile's, started, with lines to issue or requests outstanding, in the order of the queue, which
for them is that of acceptance. -/
def movers (s : State) (q : QNum) : List Op :=
  (queueOps s q).filter fun o => !tileOp o && (opLive o || !o.out.isEmpty) && decide (o.prog < o.n)

/-- The line of a number that counts on through a list of operations. -/
def lineAt : List Op → Nat → Option (Op × Nat)
  | [], _ => none
  | o :: l, k => if k < o.n then some (o, k) else lineAt l (k - o.n)

/-- How an operation of a queue issues. -/
def issuerOf (o : Op) : Issuer :=
  match o.desc with
  | some w => smoveIssuer (descOf w)
  | none => drainIssuer

/-- The failed access of a queue: the record write of the operation at its head, a descriptor read, or a request of the first operation that has any
outstanding, of which the lowest line fails (R174 to R177). -/
def queueFault (s : State) (q : QNum) (c : BitVec 5) (detail : Byte) (va pa : W64) (write : Bool) : Option State :=
  match (queueHead s q).filter fun o => mayPost o && (smoveRecord o).any (·.1 == va) with
  | some o => some (stopPost s o c detail va pa)
  | none =>
    match (descNext s q).filter fun o => decide ((va - o.ga).toNat < 64) with
    | some o => some (stopDesc s o c detail o.ga pa)
    | none =>
      (movers s q).head?.map fun o =>
        match (o.out.map (·.1)).min? with
        | some l => stopLine s o l c (opKindCode o) detail write va pa
        | none => stopOp s o c (opKindCode o) detail write va pa false

/-- The causes of an access to memory: those of R175 but for the two that only a descriptor's check meets. -/
def accessCause (c : BitVec 5) : Bool := 1 ≤ c.toNat && c.toNat ≤ 13 && c != 0x09 && c != 0x0A

/-- The stream instructions. -/
def streamInstr (c : Instr) (body : Body) (s : State) : Host.Outcome State Fault Refusal := issue c (domGate dStream c body) s

/-- SMOVE (R166). -/
def execSmove (q : QNum) (ga : GReg) (s : State) : Host.Outcome State Fault Refusal := streamInstr (.smove q ga) (smoveBody q ga) s

/-- STREAM_DESCRIPTOR_READ: the descriptors of a queue are read in acceptance order; one that breaks the rules stops its operation
(R164, R166, R167, R175). -/
def execStreamDescriptorRead (q : QNum) (s : State) : Host.Outcome State Fault Refusal :=
  event s <| (descNext s q).map fun o =>
    match streamRead o.cap false (piecesOf o.ga 64) s with
    | .stop s1 c _ pa => stopDesc s1 o c 0 o.ga pa
    | .wait s1 => s1
    | .done s1 bs =>
      let w : Vector W64 8 := Vector.ofFn fun i => ofBytes 64 ((bs.drop (8 * i.val)).take 8)
      match descCause s1 o w with
      | some (c, a) => stopDesc (updOp s1 o.id fun y => { y with desc := some w }) { o with desc := some w } c 0 a 0
      | none => updOp s1 o.id (takeDesc · w)

/-- STREAM_OP_START: operations of a queue start in order; ORD waits for the earlier ones; none starts on a FAULTED queue (R164, R176). -/
def execStreamOpStart (q : QNum) (s : State) : Host.Outcome State Fault Refusal :=
  event s <| (firstOp s q fun o => !o.started && !o.done && !o.abandoned).bind fun o =>
    let ord := match o.desc with
      | some w => (descOf w).ord
      | none => false
    let before := (queueOps s q).filter fun e => e.qseq < o.qseq
    let free := !ord || before.all fun e => e.done || e.abandoned || (e.kind == .smove && smoveMoved e)
    if s.sq[q].faulted = none ∧ o.stop = none ∧ (o.kind ≠ .smove ∨ o.desc.isSome) ∧ free ∧ mayWork s o then
      some (updOp s o.id fun y => { y with started := true })
    else none

/-- STREAM_REQUEST_COMPLETE: the next request of a line is finished, the requests before it having been issued. Lines count on through the
operations of the queue that move data (R169, R170). -/
def execStreamRequestComplete (q : QNum) (line : Nat) (s : State) : Host.Outcome State Fault Refusal :=
  event s <| (lineAt (movers s q) line).bind fun (o, l) =>
    if isLineMoved o l then none
    else
      let s1 := issueTo (issuerOf o) o.id l (movedOf o l) (poolSize + 1) s
      some (match s1.ops.find? (·.id == o.id) with
        | some o1 =>
          if outOf o1 l = 0 then s1
          else match o1.desc with
            | some w => smoveStep s1 o1 (descOf w) l
            | none => drainStep s1 o1 l
        | none => s1)

/-- STREAM_FAULT: an access of the queue's operations met a cause (R174 to R176). -/
def execStreamFault (q : QNum) (cause : BitVec 5) (detail : Byte) (va pa : W64) (write : Bool) (s : State) : Host.Outcome State Fault Refusal :=
  event s (if accessCause cause then queueFault s q cause detail va pa write else none)

/-- SMOVE_COMPLETE: the record, the interrupt, the event and the count, in queue order; every data write is visible (R164, R173, R418). -/
def execSmoveComplete (q : QNum) (s : State) : Host.Outcome State Fault Refusal :=
  event s <| (queueHead s q).map fun o =>
    if mayPost o then
      match smoveRecord o with
      | none => postSmove s o
      | some (a, x) =>
        match streamWrite o.cap false (fun _ => false) (toBytes 8 x) [⟨a, 0, 8⟩] s with
        | .stop s1 c va pa => stopPost s1 o c (stopDetail c) va pa
        | .wait s1 => s1
        | .done s1 _ => postSmove s1 o
    else settleLines s

/-- SQSTAT (R174). -/
def execSqstat (gd : GReg) (q : QNum) (w : BitVec 3) (s : State) : Host.Outcome State Fault Refusal :=
  streamInstr (.sqstat gd q w) (fun _ b s => .ok (wg b gd (sqWord s q w)) s) s
/-- SQWAIT (R178). -/
def execSqwait (gd : GReg) (q : QNum) (s : State) : Host.Outcome State Fault Refusal :=
  streamInstr (.sqwait gd q) (fun _ b s => if sqwaitEnds s q then .ok (wg b gd (sqStatus s q)) s else .wait s) s
/-- SQCTL CLEAR (R177). -/
def execSqctlClear (q : QNum) (gs : GReg) (s : State) : Host.Outcome State Fault Refusal :=
  streamInstr (.sqctlClear q gs) (sqctlBody .clear q gs) s
/-- SQCTL RESTART (R177). -/
def execSqctlRestart (q : QNum) (gs : GReg) (s : State) : Host.Outcome State Fault Refusal :=
  streamInstr (.sqctlRestart q gs) (sqctlBody .restart q gs) s
/-- SQCTL RESTART AT (R177). -/
def execSqctlRestartAt (q : QNum) (gs : GReg) (s : State) : Host.Outcome State Fault Refusal :=
  streamInstr (.sqctlRestartAt q gs) (sqctlBody .restartAt q gs) s
/-- SQCTL ABANDON (R177). -/
def execSqctlAbandon (q : QNum) (gs : GReg) (s : State) : Host.Outcome State Fault Refusal :=
  streamInstr (.sqctlAbandon q gs) (sqctlBody .abandon q gs) s

end Sys2Proof.Machine
end

