-- ==== Sys2Proof/Machine/Vector.lean ====
section
/-! DEFINITION. The vector instructions: integer, floating point, compares, reductions, conversions, element moves and masks (R34 to R36, R156 to R158, R461 to R465). -/
namespace Sys2Proof.Machine

/-- Element i of w bits of a vector register. -/
def vel (b : Bank) (r : VReg) (w i : Nat) : Nat := velem w b.v[r] i

/-- The elements that an instruction acts on (R35). -/
def acting (k : Who) (b : Bank) (mk : Option MReg) (w : Nat) : List Nat := activeList b mk (active k b w)

/-- Sets sticky flags of VFST (R36). -/
def raiseFlags (b : Bank) (f : FFlags) : Bank :=
  let x := f.apply b.vfst
  if x = b.vfst then b else touchCtl { b with vfst := x }

/-- The flags of a list of steps. -/
def allFlags (l : List FFlags) : FFlags := l.foldl FFlags.or {}

/-- An integer operation on two elements of w bits (R462). -/
inductive VInt where
  | add | sub | mul | min | max | minu | maxu | and | or | xor | shl | shr | sar
  deriving DecidableEq, Repr

/-- The result of an integer operation (R462). -/
def vintResult (f : VInt) (w x y : Nat) : Nat :=
  match f with
  | .add => (x + y) % 2 ^ w
  | .sub => (x + 2 ^ w - y) % 2 ^ w
  | .mul => x * y % 2 ^ w
  | .min => if sval w x ≤ sval w y then x else y
  | .max => if sval w x ≤ sval w y then y else x
  | .minu => min x y
  | .maxu => max x y
  | .and => x &&& y
  | .or => x ||| y
  | .xor => x ^^^ y
  | .shl => x * 2 ^ (y % w) % 2 ^ w
  | .shr => x / 2 ^ (y % w)
  | .sar => sarNat w x (y % w)

/-- A floating-point operation on elements (R462). -/
inductive VFp where
  | add | sub | mul | div | sqrt | min | max | fma | fnma
  deriving DecidableEq, Repr

/-- The result and the flags of a floating-point operation; z is the old element of vd (R156, R462). -/
def vfpResult (f : VFp) (e : BitVec 4) (rm : Rm) (x y z : Nat) : Nat × FFlags :=
  match f with
  | .add => fAdd e rm x y
  | .sub => fSub e rm x y
  | .mul => fMul e rm x y
  | .div => fDiv e rm x y
  | .sqrt => fSqrt e rm x
  | .min => fExt false e x y
  | .max => fExt true e x y
  | .fma => fFma e rm false x y z
  | .fnma => fFma e rm true x y z

/-- Whether a floating-point operation is long (R202). -/
def vfpLong (f : VFp) : Bool := f == .div || f == .sqrt

/-- An integer instruction (R462). -/
def vintBody (f : VInt) (vd va vb : VReg) (mk : Option MReg) (wc : BitVec 2) : Body := fun k b s =>
  let w := wBits false wc
  let l := (acting k b mk w).map fun i => (i, vintResult f w (vel b va w i) (vel b vb w i))
  .ok (wv b vd (setElems w b.v[vd] l)) s

/-- A floating-point instruction (R462). Division and square root are long operations (R203). -/
def vfpBody (f : VFp) (vd va vb : VReg) (mk : Option MReg) (wc : BitVec 2) : Body := fun k b s =>
  let w := wBits true wc
  let e := wEtype wc
  let rm := rmOf b.vfst
  let l := (acting k b mk w).map fun i => (i, vfpResult f e rm (vel b va w i) (vel b vb w i) (vel b vd w i))
  let x := setElems w b.v[vd] (l.map fun p => (p.1, p.2.1))
  let b1 := raiseFlags b (allFlags (l.map (·.2.2)))
  .ok (if vfpLong f then longV k b1 vd x else wv b1 vd x) s

/-- A mask with listed bits replaced. -/
def setMaskBits (m : MWord) (l : List (Nat × Bool)) : MWord := l.foldl (fun m p => setBit m p.1 p.2) m

/-- The integer predicates (R462). -/
inductive VCmp where
  | eq | lt | ltu
  deriving DecidableEq, Repr

/-- An integer predicate. -/
def vcmpResult (f : VCmp) (w x y : Nat) : Bool :=
  match f with
  | .eq => x == y
  | .lt => decide (sval w x < sval w y)
  | .ltu => decide (x < y)

/-- An integer compare (R462). -/
def vcmpBody (f : VCmp) (md : MReg) (va vb : VReg) (mk : Option MReg) (wc : BitVec 2) : Body := fun k b s =>
  let w := wBits false wc
  .ok (wm b md (setMaskBits b.m[md] ((acting k b mk w).map fun i => (i, vcmpResult f w (vel b va w i) (vel b vb w i))))) s

/-- A floating-point compare: 0 equal, 1 less, 2 less or equal (R462). -/
def vfcmpBody (f : Nat) (md : MReg) (va vb : VReg) (mk : Option MReg) (wc : BitVec 2) : Body := fun k b s =>
  let w := wBits true wc
  let l := (acting k b mk w).map fun i => (i, fCmp f (wEtype wc) (vel b va w i) (vel b vb w i))
  let b1 := raiseFlags b (allFlags (l.map (·.2.2)))
  .ok (wm b1 md (setMaskBits b.m[md] (l.map fun p => (p.1, p.2.1)))) s

/-- The reductions of floating-point elements (R157, R462). -/
inductive VRed where
  | sum | max | min
  deriving DecidableEq, Repr

/-- One step of a reduction. -/
def redStep (f : VRed) (e : BitVec 4) (rm : Rm) (x y : Nat) : Nat × FFlags :=
  match f with
  | .sum => fAdd e rm x y
  | .max => fExt true e x y
  | .min => fExt false e x y

/-- The result of a reduction with no active element (R157, R462). -/
def redEmpty (f : VRed) (e : BitVec 4) : Nat :=
  match f with
  | .sum => 0
  | .max => infCode (fmtOf e) true
  | .min => infCode (fmtOf e) false

/-- The result of a single element: a NaN is the canonical one in a maximum or a minimum (R462). -/
def redOne (f : VRed) (e : BitVec 4) (x : Nat) : Nat × FFlags :=
  match f with
  | .sum => (x, {})
  | _ => if fv e x = .nan then (nanCode e false, nanFlags e [x]) else (x, {})

/-- A floating-point reduction: a long operation (R157, R202, R462). -/
def vredBody (f : VRed) (vd va : VReg) (mk : Option MReg) (wc : BitVec 2) : Body := fun k b s =>
  let w := wBits true wc
  let e := wEtype wc
  let ys := (acting k b mk w).map (vel b va w)
  let (x, fl) : Nat × FFlags := match ys with
    | [] => (redEmpty f e, {})
    | [y] => redOne f e y
    | ys => let (r, fl) := reduceTree (redStep f e (rmOf b.vfst)) ys {} 16
            (r.getD 0, fl)
  .ok (longV k (raiseFlags b fl) vd (setElem w b.v[vd] 0 x)) s

/-- VRADD: a long operation (R462). -/
def vraddBody (vd va : VReg) (mk : Option MReg) (wc : BitVec 2) : Body := fun k b s =>
  let w := wBits false wc
  let x := ((acting k b mk w).map (vel b va w)).foldl (· + ·) 0 % 2 ^ w
  .ok (longV k b vd (setElem w b.v[vd] 0 x)) s

/-- Whether a converted value differs from its operand (R158). -/
def cvtDiffers (dt : BitVec 4) (v : Num) (c : Cv) : Bool :=
  match v, elemNum dt false c.code with
  | .nan, .nan => false
  | .inf a, .inf b => a != b
  | .fin _ _ _, .fin _ _ _ => c.inexact
  | _, _ => true

/-- One conversion (R158, R463). -/
def cvtOne (dt st : BitVec 4) (sat : Bool) (rm : Rm) (x : Nat) : Nat × FFlags :=
  let v := elemNum st false x
  let sn := decide (8 ≤ st.toNat) && isSNaN st x
  if 8 ≤ dt.toNat then
    let (c, f) := roundFp dt rm v
    (c, { f with nv := sn })
  else
    let c := convertWith dt sat (fun g m e q => roundQ rm g m e q) v
    let d := cvtDiffers dt v c
    (c.code, { nx := d, of := c.overflow, uf := c.tiny && d && decide (v ≠ .nan), nv := c.invalid || sn })

/-- VCVT (R463). -/
def vcvtBody (vd va : VReg) (dt st : BitVec 4) (sat : Bool) (mk : Option MReg) : Body := fun k b s =>
  let ws := etypeBits st
  let wd := etypeBits dt
  let n := min (vlOf b) (elems k (max (max ws wd) 8))
  let l := (activeList b mk n).map fun i => (i, cvtOne dt st sat (rmOf b.vfst) (vel b va ws i))
  .ok (wv (raiseFlags b (allFlags (l.map (·.2.2)))) vd (setElems wd b.v[vd] (l.map fun p => (p.1, p.2.1)))) s

/-- VEXT (R465). -/
def vextBody (gd : GReg) (va : VReg) (gb : GReg) (wc : BitVec 2) : Body := fun k b s =>
  let w := wBits false wc
  .ok (wg b gd (BitVec.ofNat 64 (vel b va w ((rg b gb).toNat % elems k w)))) s

/-- VINS (R465). -/
def vinsBody (vd : VReg) (gs gb : GReg) (wc : BitVec 2) : Body := fun k b s =>
  let w := wBits false wc
  .ok (wv b vd (setElem w b.v[vd] ((rg b gb).toNat % elems k w) ((rg b gs).toNat % 2 ^ w))) s

/-- VSPLAT (R465). -/
def vsplatBody (vd : VReg) (gs : GReg) (wc : BitVec 2) : Body := fun k b s =>
  let w := wBits false wc
  .ok (wv b vd (setElems w b.v[vd] ((List.range (active k b w)).map fun i => (i, (rg b gs).toNat % 2 ^ w)))) s

/-- The bits of a mask register that the executor has (R184). -/
def maskCut (k : Who) (x : MWord) : MWord := BitVec.ofNat 2048 (x.toNat % 2 ^ mlen k)

/-- A mask operation over all bits (R465). -/
def maskBody (md : MReg) (f : Bank → MWord) : Body := fun k b s => .ok (wm b md (maskCut k (f b))) s

/-- MCNT (R465). -/
def mcntBody (gd : GReg) (ma : MReg) : Body := fun k b s =>
  .ok (wg b gd (BitVec.ofNat 64 (popcount (min (vlOf b) (mlen k)) b.m[ma].toNat))) s

/-- An instruction of the core's vector unit. -/
def vecInstr (c : Instr) (body : Body) (s : State) : Host.Outcome State Fault Refusal := issue c (vecGate c body) s

/-- VADD (R462). -/
def execVadd (vd : VReg) (va : VReg) (vb : VReg) (mk : Option MReg) (w : BitVec 2) (s : State) : Host.Outcome State Fault Refusal :=
  vecInstr (.vadd vd va vb mk w) (vintBody .add vd va vb mk w) s
/-- VSUB (R462). -/
def execVsub (vd : VReg) (va : VReg) (vb : VReg) (mk : Option MReg) (w : BitVec 2) (s : State) : Host.Outcome State Fault Refusal :=
  vecInstr (.vsub vd va vb mk w) (vintBody .sub vd va vb mk w) s
/-- VMUL (R462). -/
def execVmul (vd : VReg) (va : VReg) (vb : VReg) (mk : Option MReg) (w : BitVec 2) (s : State) : Host.Outcome State Fault Refusal :=
  vecInstr (.vmul vd va vb mk w) (vintBody .mul vd va vb mk w) s
/-- VMIN (R462). -/
def execVmin (vd : VReg) (va : VReg) (vb : VReg) (mk : Option MReg) (w : BitVec 2) (s : State) : Host.Outcome State Fault Refusal :=
  vecInstr (.vmin vd va vb mk w) (vintBody .min vd va vb mk w) s
/-- VMAX (R462). -/
def execVmax (vd : VReg) (va : VReg) (vb : VReg) (mk : Option MReg) (w : BitVec 2) (s : State) : Host.Outcome State Fault Refusal :=
  vecInstr (.vmax vd va vb mk w) (vintBody .max vd va vb mk w) s
/-- VMINU (R462). -/
def execVminu (vd : VReg) (va : VReg) (vb : VReg) (mk : Option MReg) (w : BitVec 2) (s : State) : Host.Outcome State Fault Refusal :=
  vecInstr (.vminu vd va vb mk w) (vintBody .minu vd va vb mk w) s
/-- VMAXU (R462). -/
def execVmaxu (vd : VReg) (va : VReg) (vb : VReg) (mk : Option MReg) (w : BitVec 2) (s : State) : Host.Outcome State Fault Refusal :=
  vecInstr (.vmaxu vd va vb mk w) (vintBody .maxu vd va vb mk w) s
/-- VAND (R462). -/
def execVand (vd : VReg) (va : VReg) (vb : VReg) (mk : Option MReg) (w : BitVec 2) (s : State) : Host.Outcome State Fault Refusal :=
  vecInstr (.vand vd va vb mk w) (vintBody .and vd va vb mk w) s
/-- VOR (R462). -/
def execVor (vd : VReg) (va : VReg) (vb : VReg) (mk : Option MReg) (w : BitVec 2) (s : State) : Host.Outcome State Fault Refusal :=
  vecInstr (.vor vd va vb mk w) (vintBody .or vd va vb mk w) s
/-- VXOR (R462). -/
def execVxor (vd : VReg) (va : VReg) (vb : VReg) (mk : Option MReg) (w : BitVec 2) (s : State) : Host.Outcome State Fault Refusal :=
  vecInstr (.vxor vd va vb mk w) (vintBody .xor vd va vb mk w) s
/-- VSHL (R462). -/
def execVshl (vd : VReg) (va : VReg) (vb : VReg) (mk : Option MReg) (w : BitVec 2) (s : State) : Host.Outcome State Fault Refusal :=
  vecInstr (.vshl vd va vb mk w) (vintBody .shl vd va vb mk w) s
/-- VSHR (R462). -/
def execVshr (vd : VReg) (va : VReg) (vb : VReg) (mk : Option MReg) (w : BitVec 2) (s : State) : Host.Outcome State Fault Refusal :=
  vecInstr (.vshr vd va vb mk w) (vintBody .shr vd va vb mk w) s
/-- VSAR (R462). -/
def execVsar (vd : VReg) (va : VReg) (vb : VReg) (mk : Option MReg) (w : BitVec 2) (s : State) : Host.Outcome State Fault Refusal :=
  vecInstr (.vsar vd va vb mk w) (vintBody .sar vd va vb mk w) s
/-- VFADD (R462). -/
def execVfadd (vd : VReg) (va : VReg) (vb : VReg) (mk : Option MReg) (w : BitVec 2) (s : State) : Host.Outcome State Fault Refusal :=
  vecInstr (.vfadd vd va vb mk w) (vfpBody .add vd va vb mk w) s
/-- VFSUB (R462). -/
def execVfsub (vd : VReg) (va : VReg) (vb : VReg) (mk : Option MReg) (w : BitVec 2) (s : State) : Host.Outcome State Fault Refusal :=
  vecInstr (.vfsub vd va vb mk w) (vfpBody .sub vd va vb mk w) s
/-- VFMUL (R462). -/
def execVfmul (vd : VReg) (va : VReg) (vb : VReg) (mk : Option MReg) (w : BitVec 2) (s : State) : Host.Outcome State Fault Refusal :=
  vecInstr (.vfmul vd va vb mk w) (vfpBody .mul vd va vb mk w) s
/-- VFDIV (R462). -/
def execVfdiv (vd : VReg) (va : VReg) (vb : VReg) (mk : Option MReg) (w : BitVec 2) (s : State) : Host.Outcome State Fault Refusal :=
  vecInstr (.vfdiv vd va vb mk w) (vfpBody .div vd va vb mk w) s
/-- VFMIN (R462). -/
def execVfmin (vd : VReg) (va : VReg) (vb : VReg) (mk : Option MReg) (w : BitVec 2) (s : State) : Host.Outcome State Fault Refusal :=
  vecInstr (.vfmin vd va vb mk w) (vfpBody .min vd va vb mk w) s
/-- VFMAX (R462). -/
def execVfmax (vd : VReg) (va : VReg) (vb : VReg) (mk : Option MReg) (w : BitVec 2) (s : State) : Host.Outcome State Fault Refusal :=
  vecInstr (.vfmax vd va vb mk w) (vfpBody .max vd va vb mk w) s
/-- VFMA (R462). -/
def execVfma (vd : VReg) (va : VReg) (vb : VReg) (mk : Option MReg) (w : BitVec 2) (s : State) : Host.Outcome State Fault Refusal :=
  vecInstr (.vfma vd va vb mk w) (vfpBody .fma vd va vb mk w) s
/-- VFNMA (R462). -/
def execVfnma (vd : VReg) (va : VReg) (vb : VReg) (mk : Option MReg) (w : BitVec 2) (s : State) : Host.Outcome State Fault Refusal :=
  vecInstr (.vfnma vd va vb mk w) (vfpBody .fnma vd va vb mk w) s
/-- VFSQRT (R462). -/
def execVfsqrt (vd : VReg) (va : VReg) (mk : Option MReg) (w : BitVec 2) (s : State) : Host.Outcome State Fault Refusal :=
  vecInstr (.vfsqrt vd va mk w) (vfpBody .sqrt vd va va mk w) s
/-- VCMPEQ (R462). -/
def execVcmpeq (md : MReg) (va : VReg) (vb : VReg) (mk : Option MReg) (w : BitVec 2) (s : State) : Host.Outcome State Fault Refusal :=
  vecInstr (.vcmpeq md va vb mk w) (vcmpBody .eq md va vb mk w) s
/-- VCMPLT (R462). -/
def execVcmplt (md : MReg) (va : VReg) (vb : VReg) (mk : Option MReg) (w : BitVec 2) (s : State) : Host.Outcome State Fault Refusal :=
  vecInstr (.vcmplt md va vb mk w) (vcmpBody .lt md va vb mk w) s
/-- VCMPLTU (R462). -/
def execVcmpltu (md : MReg) (va : VReg) (vb : VReg) (mk : Option MReg) (w : BitVec 2) (s : State) : Host.Outcome State Fault Refusal :=
  vecInstr (.vcmpltu md va vb mk w) (vcmpBody .ltu md va vb mk w) s
/-- VFCMPEQ (R462). -/
def execVfcmpeq (md : MReg) (va : VReg) (vb : VReg) (mk : Option MReg) (w : BitVec 2) (s : State) : Host.Outcome State Fault Refusal :=
  vecInstr (.vfcmpeq md va vb mk w) (vfcmpBody 0 md va vb mk w) s
/-- VFCMPLT (R462). -/
def execVfcmplt (md : MReg) (va : VReg) (vb : VReg) (mk : Option MReg) (w : BitVec 2) (s : State) : Host.Outcome State Fault Refusal :=
  vecInstr (.vfcmplt md va vb mk w) (vfcmpBody 1 md va vb mk w) s
/-- VFCMPLE (R462). -/
def execVfcmple (md : MReg) (va : VReg) (vb : VReg) (mk : Option MReg) (w : BitVec 2) (s : State) : Host.Outcome State Fault Refusal :=
  vecInstr (.vfcmple md va vb mk w) (vfcmpBody 2 md va vb mk w) s
/-- VRSUM (R157, R462). -/
def execVrsum (vd : VReg) (va : VReg) (mk : Option MReg) (w : BitVec 2) (s : State) : Host.Outcome State Fault Refusal :=
  vecInstr (.vrsum vd va mk w) (vredBody .sum vd va mk w) s
/-- VRMAX (R157, R462). -/
def execVrmax (vd : VReg) (va : VReg) (mk : Option MReg) (w : BitVec 2) (s : State) : Host.Outcome State Fault Refusal :=
  vecInstr (.vrmax vd va mk w) (vredBody .max vd va mk w) s
/-- VRMIN (R157, R462). -/
def execVrmin (vd : VReg) (va : VReg) (mk : Option MReg) (w : BitVec 2) (s : State) : Host.Outcome State Fault Refusal :=
  vecInstr (.vrmin vd va mk w) (vredBody .min vd va mk w) s
/-- VRADD (R462). -/
def execVradd (vd : VReg) (va : VReg) (mk : Option MReg) (w : BitVec 2) (s : State) : Host.Outcome State Fault Refusal :=
  vecInstr (.vradd vd va mk w) (vraddBody vd va mk w) s
/-- VCVT (R463). -/
def execVcvt (vd : VReg) (va : VReg) (dt : BitVec 4) (st : BitVec 4) (sat : Bool) (mk : Option MReg) (s : State) : Host.Outcome State Fault Refusal :=
  vecInstr (.vcvt vd va dt st sat mk) (vcvtBody vd va dt st sat mk) s
/-- VEXT (R465). -/
def execVext (gd : GReg) (va : VReg) (gb : GReg) (w : BitVec 2) (s : State) : Host.Outcome State Fault Refusal :=
  vecInstr (.vext gd va gb w) (vextBody gd va gb w) s
/-- VINS (R465). -/
def execVins (vd : VReg) (gs : GReg) (gb : GReg) (w : BitVec 2) (s : State) : Host.Outcome State Fault Refusal :=
  vecInstr (.vins vd gs gb w) (vinsBody vd gs gb w) s
/-- VSPLAT (R465). -/
def execVsplat (vd : VReg) (gs : GReg) (w : BitVec 2) (s : State) : Host.Outcome State Fault Refusal :=
  vecInstr (.vsplat vd gs w) (vsplatBody vd gs w) s
/-- MAND (R465). -/
def execMand (md : MReg) (ma : MReg) (mb : MReg) (s : State) : Host.Outcome State Fault Refusal :=
  vecInstr (.mand md ma mb) (maskBody md fun b => b.m[ma] &&& b.m[mb]) s
/-- MOR (R465). -/
def execMor (md : MReg) (ma : MReg) (mb : MReg) (s : State) : Host.Outcome State Fault Refusal :=
  vecInstr (.mor md ma mb) (maskBody md fun b => b.m[ma] ||| b.m[mb]) s
/-- MXOR (R465). -/
def execMxor (md : MReg) (ma : MReg) (mb : MReg) (s : State) : Host.Outcome State Fault Refusal :=
  vecInstr (.mxor md ma mb) (maskBody md fun b => b.m[ma] ^^^ b.m[mb]) s
/-- MNOT (R465). -/
def execMnot (md : MReg) (ma : MReg) (s : State) : Host.Outcome State Fault Refusal :=
  vecInstr (.mnot md ma) (maskBody md fun b => ~~~ b.m[ma]) s
/-- MSET (R465). -/
def execMset (md : MReg) (s : State) : Host.Outcome State Fault Refusal :=
  vecInstr (.mset md) (maskBody md fun _ => BitVec.allOnes 2048) s
/-- MCNT (R465). -/
def execMcnt (gd : GReg) (ma : MReg) (s : State) : Host.Outcome State Fault Refusal :=
  vecInstr (.mcnt gd ma) (mcntBody gd ma) s

end Sys2Proof.Machine
end

