-- ==== Sys2Proof/Machine/Scribes.lean ====
section
/-! DEFINITION. The scribes: work rings, dispatch, threads and the Kodom that they execute, posting, faults and abandoning (R181 to R195). -/
namespace Sys2Proof.Machine

/-- Replaces a scribe. -/
def setScribe (s : State) (k : ScribeNum) (x : Scribe) : State := { s with scribes := s.scribes.set k.val x k.isLt }
/-- Replaces a work ring. -/
def setRing' (s : State) (w : RingNum) (x : Ring) : State := { s with rings := s.rings.set w.val x w.isLt }
/-- A thread of a scribe. -/
def threadOf (s : State) (k : ScribeNum) (t : Fin 128) : Option Thread := spGet none s.scribes[k].threads t.val
/-- Replaces a thread slot. -/
def setThread (s : State) (k : ScribeNum) (t : Fin 128) (x : Option Thread) : State :=
  let y := s.scribes[k]
  setScribe s k { y with threads := spSet none y.threads t.val x }

/-- LIVE (R186). DESIGN CHOICE (log 49): a stopped thread whose report still waits counts in LIVE and in DESCS, and keeps the domain from sleeping;
its slot is released only when the report is written (R192), and the spec does not tell whether it is live until then. -/
def liveCount (s : State) (k : ScribeNum) : Nat := s.scribes[k].threads.length
/-- Threads that are placed on a scribe and not started. -/
def toStart (s : State) (k : ScribeNum) : Nat := s.placed.foldl (fun n p => if p.scribe = k then n + (p.nt - p.next) else n) 0
/-- The free threads of a scribe (R189). -/
def freeThreads (s : State) (k : ScribeNum) : Nat := 128 - liveCount s k - toStart s k

/-- Whether a thread belongs to a descriptor. -/
def ofDesc (w : RingNum) (i : BitVec 16) (x : Option Thread) : Bool :=
  match x with
  | some t => t.wring == w && t.dindex == i
  | none => false

/-- Changes the entry of a descriptor. -/
def updPlaced (s : State) (w : RingNum) (i : BitVec 16) (f : Placed → Placed) : State :=
  { s with placed := s.placed.map fun p => if p.wring = w ∧ p.index = i then f p else p }

/-- Whether a slot still holds the stopped thread that a report is about: a power-up in between has discarded it (R195). -/
def holdsReported (s : State) (k : ScribeNum) (t : Fin 128) (r : Report) : Bool :=
  match threadOf s k t with
  | some x => x.stopped && x.wring == r.wring && x.dindex == r.dindex
  | none => false

/-- Writes a report into a scribe's record: the slot of its thread is released, and its descriptor has faulted (R192). -/
def writeReport (s : State) (k : ScribeNum) (r : Report) : State :=
  let x := s.scribes[k]
  let th := match r.thread with
    | some t => t.val
    | none => 0
  let f0 : W64 := place 64 r.cause.toNat 0 ||| place 64 th 8 ||| placeB 64 r.thread.isNone 15 ||| place 64 r.wring.val 16
    ||| place 64 r.dindex.toNat 32
  let s1 := setScribe s k { x with recv := true, refusal := r.refusal, f0 := f0, f1 := r.pc, f2 := r.addr, f3 := r.phys }
  let s2 := match r.thread with
    | some t => updPlaced (if holdsReported s1 k t r then setThread s1 k t none else s1) r.wring r.dindex fun p => { p with faulted := true }
    | none => s1
  pend s2 0x25

/-- Writes the oldest waiting report while the record is free (R192). -/
def reportScribe (s : State) (k : ScribeNum) : State :=
  let x := s.scribes[k]
  match x.waiting with
  | r :: l => if x.recv then s else writeReport (setScribe s k { x with waiting := l }) k r
  | [] => s

/-- Adds a report. -/
def addReport (s : State) (k : ScribeNum) (r : Report) : State :=
  let x := s.scribes[k]
  reportScribe (setScribe s k { x with waiting := x.waiting ++ [r] }) k

/-- Stops a thread on a cause (R192). -/
def stopThread (s : State) (k : ScribeNum) (t : Fin 128) (x : Thread) (cause : BitVec 5) (addr phys : W64) : State :=
  addReport (setThread s k t (some { x with stopped := true })) k ⟨cause, some t, x.wring, x.dindex, x.regs.pc, addr, phys, false⟩

/-- Stops every live thread of a scribe, as when its domain goes off (R193). -/
def stopAll (s : State) (k : ScribeNum) (cause : BitVec 5) : State :=
  (List.finRange 128).foldl (fun s t =>
    match threadOf s k t with
    | some x => if x.stopped then s else stopThread s k t x cause 0 0
    | none => s) s

/-- SCRSTAT (R186). -/
def scrStat (s : State) (k : ScribeNum) : W64 :=
  let ds := (s.scribes[k].threads.filterMap fun e => e.2.map fun t => (t.wring, t.dindex)).eraseDups
  place 64 (liveCount s k) 0 ||| place 64 ds.length 8 ||| placeB 64 (s.dom[dScribe k].st == .run || s.dom[dScribe k].st == .gated) 16

/-- HELD of a fault record (R192). -/
def scrHeld (x : Scribe) : Bool := x.recv && !x.waiting.isEmpty

/-- SCRFLT k of a scribe as it reads (R192). -/
def scrFlt (s : State) (k : ScribeNum) (i : Nat) : W64 :=
  let x := s.scribes[k]
  match i with
  | 0 => x.f0 ||| placeB 64 (scrHeld x) 6 ||| placeB 64 x.recv 7
  | 1 => if x.recv then x.f1 else 0
  | 2 => if x.recv then x.f2 else 0
  | _ => if x.recv then x.f3 else 0

/-- A write of SCRFLT0: RECV is cleared and a held report admitted (R192). -/
def scrFltWrite (s : State) (k : ScribeNum) (v : W64) : State :=
  if bit v 7 then reportScribe (setScribe s k { s.scribes[k] with recv := false, refusal := false }) k else s

/-- Slots of a work ring (R186). -/
def ringSlots (r : Ring) : Nat := 2 ^ r.sizelog2.toNat
/-- The vellum offset of the slot of an index; it wraps at the vellum's end (R186). -/
def slotOffs (s : State) (r : Ring) (i : BitVec 16) : Nat := 64 * (r.offs.toNat + i.toNat % ringSlots r) % 2 ^ vellumLog2 s.var

/-- The bits of SMASK that exist (R186). -/
def smaskBits (v : Variant) : BitVec 16 := BitVec.ofNat 16 (2 ^ scribeCount v - 1)

/-- SWCTL as it reads (R186). -/
def swctlWord (s : State) (w : RingNum) : W64 :=
  let r := s.rings[w]
  placeB 64 r.en 0 ||| place 64 r.sizelog2.toNat 4 ||| place 64 (r.smask &&& smaskBits s.var).toNat 16

/-- A descriptor's eight doublewords as the vellum holds them. -/
def readDescriptor (s : State) (r : Ring) (i : BitVec 16) : Vector W64 8 :=
  let o := slotOffs s r i
  Vector.ofFn fun k : Fin 8 => vellum64 s (o + 8 * k.val)

/-- NT of a descriptor (R188). -/
def descNt (d : Vector W64 8) : Nat := fieldN d[0] 6 0 + 1

/-- The scribes that a descriptor may use, before their domains are looked at (R188). -/
def descScribes (s : State) (r : Ring) (d : Vector W64 8) : List ScribeNum :=
  let present := (List.finRange 16).filter fun k : ScribeNum => k.val < scribeCount s.var && bit r.smask k.val
  let c := fieldN d[0] 20 16
  if c = 0x1F then present else present.filter fun k => k.val == c

/-- Whether a descriptor keeps R188. -/
def descOk (s : State) (r : Ring) (d : Vector W64 8) : Bool :=
  let stk := fieldN d[0] 15 11
  !bit d[0] 10 && fieldN d[0] 31 21 == 0 && (stk == 0 || (6 ≤ stk && stk ≤ 20)) && fieldN d[7] 63 56 == 0
    && fieldN d[1] 1 0 == 0 && canonical r.capTtb d[1] && (!bit d[0] 8 || fieldN d[6] 2 0 == 0)
    && (fieldN d[0] 20 16 == 0x1F || !(descScribes s r d).isEmpty)

/-- The scribe with the most free threads among some, the lowest-numbered among equals (R189). -/
def mostFree (s : State) (l : List ScribeNum) : Option ScribeNum :=
  let m := l.foldl (fun n k => max n (freeThreads s k)) 0
  l.find? fun k => freeThreads s k == m

/-- Refuses the descriptor at HEAD (R189, R192). -/
def refuse (s : State) (w : RingNum) (d : Vector W64 8) (cause : BitVec 5) : State :=
  let r := s.rings[w]
  let k := (mostFree s (descScribes s r d)).getD 0
  let s1 := setRing' s w { r with head := r.head + 1, fetched := none }
  let s2 := { s1 with placed := s1.placed ++ [{ wring := w, index := r.head, scribe := k, words := d, next := 0, nt := 0, refused := true }] }
  addReport s2 k ⟨cause, none, w, r.head, BitVec.ofNat 64 (slotOffs s r r.head), 0, 0, true⟩

/-- The dispatcher reads the descriptor at HEAD, once; an uncorrectable word of it is recorded (R162, R189). -/
def fetchDescriptor (s : State) (w : RingNum) : State :=
  let r := s.rings[w]
  if r.fetched.isSome then s
  else
    let (s1, e) := readCheck s false (s.cfg.vellumbase.toNat + slotOffs s r r.head) 64
    setRing' s1 w { s1.rings[w] with fetched := some (readDescriptor s1 r r.head, e.isSome) }

/-- Places the descriptor at HEAD of a work ring, which has been read (R189). -/
def placeDescriptor (s : State) (w : RingNum) (d : Vector W64 8) (bad : Bool) : State :=
  let r := s.rings[w]
  if bad then refuse s w d 0x07
  else if descOk s r d = false then refuse s w d 0x09
  else if bit d[0] 7 ∧ r.done ≠ r.head then s
  else
    let may := (descScribes s r d).filter fun k => domUse s (dScribe k) != .off
    match mostFree s may with
    | none => refuse s w d 0x08
    | some k =>
      if freeThreads s k < descNt d then s
      else if domUse s (dScribe k) = .asleep then wakeRequest s (dScribe k)
      else
        let s1 := setRing' s w { r with head := r.head + 1, fetched := none }
        { s1 with placed := s1.placed ++ [{ wring := w, index := r.head, scribe := k, words := d, next := 0, nt := descNt d }] }

/-- The turn of a work ring at the dispatcher (R189). -/
def dispatch (s : State) (w : RingNum) : State :=
  let s1 := fetchDescriptor { s with lastRing := w } w
  match s1.rings[w].fetched with
  | some (d, bad) => placeDescriptor s1 w d bad
  | none => s1

/-- Whether a work ring has a descriptor to dispatch (R186, R189). -/
def ringReady (s : State) (w : RingNum) : Bool := s.rings[w].en && s.rings[w].head != s.rings[w].tail

/-- The work ring whose turn it is: the first with a descriptor to dispatch behind the one served last (R189). -/
def nextRing (s : State) : Option RingNum := ((List.finRange 32).map fun i => s.lastRing + 1 + i).find? (ringReady s)

/-- The registers of thread t of a descriptor when it starts (R183, R188). -/
def threadRegs (r : Ring) (d : Vector W64 8) (t nt : Nat) : Bank :=
  let stk := fieldN d[0] 15 11
  let sp : W64 := if stk = 0 then 0 else d[2] + BitVec.ofNat 64 ((t + 1) * 2 ^ stk)
  let g : Vector W64 32 := Vector.replicate 32 0
  { g := ((((((g.set 0 (BitVec.ofNat 64 t)).set 1 d[3]).set 2 d[4]).set 3 d[5]).set 4 (BitVec.ofNat 64 nt)).set 31 sp)
    pc := d[1], fl := 0x300, ttb := r.capTtb, st := .run }

/-- A scribe starts the next thread of a descriptor placed on it, in its lowest-numbered free slot (R188, R189). -/
def startThread (s : State) (k : ScribeNum) : Option State :=
  match s.placed.find? fun p => p.scribe == k && p.next < p.nt, (List.finRange 128).find? fun t => (threadOf s k t).isNone with
  | some p, some t =>
    let x : Thread := ⟨threadRegs s.rings[p.wring] p.words p.next p.nt, p.wring, p.index, false⟩
    some (updPlaced (setThread s k t (some x)) p.wring p.index fun p => { p with next := p.next + 1 })
  | _, _ => none

/-- The vector and mask registers that a scribe has (R184). -/
def scrRegs (vs : List VReg) (ms : List MReg) (mk : Option MReg) : Bool :=
  vs.all (·.val < 8) && ms.all (·.val < 4) && mk.all (·.val < 4)

/-- CALL in a scribe: the memory stack alone (R185). -/
def scrCall (target : W64) : Body := fun k b s =>
  let ms := rg b 31 - 8
  if ms.toNat % 8 ≠ 0 then .exc { code := 0x04, acc := .write, addr := ms } b s
  else match storeBytes k b ms 8 false (toBytes 8 (b.pc + 4)) s with
    | .done s1 => .jump (goto (wg b 31 ms) target) s1
    | .fault s1 e => .exc e b s1
    | .wait s1 => .wait s1

/-- CALLR in a scribe (R44, R185). -/
def scrCallr (ra : GReg) : Body := fun k b s =>
  let t := rg b ra
  if fieldN t 1 0 ≠ 0 then .exc { code := 0x03, addr := t } b s else scrCall t k b s

/-- RET in a scribe: no comparison (R185). -/
def scrRet : Body := fun k b s =>
  let ms := rg b 31
  if ms.toNat % 8 ≠ 0 then .exc { code := 0x04, acc := .read, addr := ms } b s
  else match loadBytes k b ms 8 8 false s with
    | .bytes s1 bs =>
      let a := ofBytes 64 bs
      if fieldN a 1 0 ≠ 0 then .exc { code := 0x03, addr := a } b s1 else .jump (goto (wg b 31 (ms + 8)) a) s1
    | .fault s1 e => .exc e b s1
    | .wait s1 => .wait s1

/-- FENCE in a scribe: this thread's accesses are performed, and their fabric writes must be visible (R185, R418). -/
def scrFence : Body := fun _ b s => if writesVisible s .scribe then .ok b s else .wait (askVisible s .scribe)

/-- SYSC in a scribe: the thread ends with the exit code in g0 (R185, R188). -/
def scrEnd : Body := fun k b s =>
  match k with
  | .core => .ok b s
  | .scribe i t =>
    match threadOf s i t with
    | none => .trap s
    | some x => .trap (updPlaced (setThread s i t none) x.wring x.dindex fun p => { p with nonzero := p.nonzero || rg b 0 != 0 })

/-- The feature registers of R52, by number, in a configuration. -/
def featWord (v : Variant) (i : Nat) : W64 :=
  match i with
  | 0 => 0x201
  | 1 =>
    let (bl, sp, sv, tl, il) : Nat × Nat × Nat × Nat × Nat := match v with
      | .m1024 => (10, 8, 1, 20, 13)
      | .m512 => (9, 4, 2, 18, 13)
      | .m256 | .m256np => (8, 2, 2, 16, 12)
    place 64 bl 0 ||| place 64 sp 4 ||| place 64 (scribeCount v) 8 ||| place 64 128 16 ||| placeB 64 (hasPartner v) 24
      ||| place 64 sv 25 ||| place 64 (vellumLog2 v) 32 ||| place 64 tl 40 ||| place 64 il 48
  | 2 => place 64 0xFFF 0 ||| place 64 1 16 ||| place 64 5 20 ||| place 64 0x3F 24 ||| place 64 3 32
  | 3 => place 64 57 0 ||| place 64 56 8 ||| place 64 16 16 ||| place 64 7 24 ||| place 64 12 32 ||| place 64 56 40
  | 4 => place 64 14 0 ||| place 64 32 8 ||| place 64 8 16 ||| place 64 0x1F 20
  | 5 => place 64 16 0 ||| place 64 4 8 ||| place 64 16 12 ||| place 64 8 20 ||| place 64 22 24 ||| place 64 16 32 ||| place 64 6 40
  | 6 => place 64 64 0 ||| place 64 12 8 ||| place 64 10 12 ||| place 64 16 16 ||| place 64 10 24 ||| place 64 16 28
  | _ => 0

/-- FEAT4 as a scribe thread reads it (R184). -/
def scrFeat4 : W64 := place 64 10 0 ||| place 64 8 8 ||| place 64 4 16 ||| place 64 0x1F 20

/-- MFC in a scribe (R185). -/
def scrMfc (rd : GReg) (n : Nat) : Option Body :=
  let give (f : Bank → State → W64) : Option Body := some fun _ b s => .ok (wg b rd (f b s)) s
  if n = 1 then give fun b _ => b.fl
  else if n = 2 then give fun b _ => b.vl
  else if n = 3 then give fun b _ => b.vfst
  else if n = 0xC then give fun _ _ => scrFeat4
  else if 8 ≤ n ∧ n < 16 then give fun _ s => featWord s.var (n - 8)
  else if n = 0x52 then give fun _ s => s.c.ply
  else none

/-- MTC in a scribe: the flags of FL, VL up to 128, and VFST (R184, R185). -/
def scrMtc (rs : GReg) (n : Nat) : Option Body :=
  let take (f : Bank → W64 → Bank) : Option Body := some fun _ b s => .ok (f b (rg b rs)) s
  if n = 1 then take fun b v => { b with fl := setField b.fl 3 0 (fieldN v 3 0) }
  else if n = 2 then take fun b v => { b with vl := if 128 < v.toNat then 128 else v }
  else if n = 3 then take fun b v => { b with vfst := vfstNext b.vfst v }
  else none

/-- Whether what a repeat governs names registers that a scribe has. -/
def scrGoverned : Governed → Bool
  | .vec _ v _ mk _ => scrRegs [v] [] mk
  | _ => true

/-- The meaning of an instruction for a scribe thread; none: undefined (R185). -/
def scribeBody (i : Instr) : Option Body :=
  let v (vs : List VReg) (ms : List MReg) (mk : Option MReg) (b : Body) : Option Body := if scrRegs vs ms mk then some b else none
  match i with
  | .add rd ra op sf wf => some (aluBody .add rd ra op sf wf)
  | .sub rd ra op sf wf => some (aluBody .sub rd ra op sf wf)
  | .and rd ra op sf wf => some (aluBody .and rd ra op sf wf)
  | .or rd ra op sf wf => some (aluBody .or rd ra op sf wf)
  | .xor rd ra op sf wf => some (aluBody .xor rd ra op sf wf)
  | .andn rd ra op sf wf => some (aluBody .andn rd ra op sf wf)
  | .shl rd ra op sf wf => some (aluBody .shl rd ra op sf wf)
  | .shr rd ra op sf wf => some (aluBody .shr rd ra op sf wf)
  | .sar rd ra op sf wf => some (aluBody .sar rd ra op sf wf)
  | .ror rd ra op sf wf => some (aluBody .ror rd ra op sf wf)
  | .mul rd ra op sf wf => some (aluBody .mul rd ra op sf wf)
  | .mulh rd ra op sf wf => some (aluBody .mulh rd ra op sf wf)
  | .mulhu rd ra op sf wf => some (aluBody .mulhu rd ra op sf wf)
  | .min rd ra op sf wf => some (aluBody .min rd ra op sf wf)
  | .max rd ra op sf wf => some (aluBody .max rd ra op sf wf)
  | .cmp ra op _ wf => some (cmpBody ra op wf)
  | .div rd ra rb sf wf => some (divBody .div rd ra rb sf wf)
  | .divu rd ra rb sf wf => some (divBody .divu rd ra rb sf wf)
  | .rem rd ra rb sf wf => some (divBody .rem rd ra rb sf wf)
  | .remu rd ra rb sf wf => some (divBody .remu rd ra rb sf wf)
  | .clz rd ra sf wf => some (countBody .clz rd ra sf wf)
  | .popc rd ra sf wf => some (countBody .popc rd ra sf wf)
  | .imz rd lane imm => some (imzBody rd lane imm)
  | .imi rd lane imm => some (imiBody rd lane imm)
  | .load rd a sz => some fun k b s => loadOnce k rd a sz b s
  | .store rs a sz => some fun k b s => storeOnce k rs a sz b s
  | .lda rd ga sz => some (ldaBody rd ga sz)
  | .stl rs ga sz => some (stlBody rs ga sz)
  | .cas rd ga rb rc d a l => some (casBody rd ga rb rc d a l)
  | .aadd rd ga rb _ d a l => some (aaddBody rd ga rb d a l)
  | .rep gc i => if scrGoverned i then some (repBody gc i) else none
  | .repn n i => some (repnBody n i)
  | .vload v0 a mk w => v [v0] [] mk (fun k b s => vloadOnce k v0 a mk w b s)
  | .vstore v0 a mk w => v [v0] [] mk (fun k b s => vstoreOnce k v0 a mk w b s)
  | .b off => some (bBody off)
  | .bCond cond off => some (bCondBody cond off)
  | .br ra => some (brBody ra)
  | .call off => some fun k b s => scrCall (relTarget b off) k b s
  | .callr ra => some (scrCallr ra)
  | .ret => some scrRet
  | .fence mask => if mask = 1 ∨ mask = 0xF then some scrFence else none
  | .sysc => some scrEnd
  | .mfc rd n => scrMfc rd n.toNat
  | .mtc rs n => scrMtc rs n.toNat
  | .tally u gs gk => some (tallyBody u gs gk)
  | .vadd vd va vb mk w => v [vd, va, vb] [] mk (vintBody .add vd va vb mk w)
  | .vsub vd va vb mk w => v [vd, va, vb] [] mk (vintBody .sub vd va vb mk w)
  | .vmul vd va vb mk w => v [vd, va, vb] [] mk (vintBody .mul vd va vb mk w)
  | .vmin vd va vb mk w => v [vd, va, vb] [] mk (vintBody .min vd va vb mk w)
  | .vmax vd va vb mk w => v [vd, va, vb] [] mk (vintBody .max vd va vb mk w)
  | .vminu vd va vb mk w => v [vd, va, vb] [] mk (vintBody .minu vd va vb mk w)
  | .vmaxu vd va vb mk w => v [vd, va, vb] [] mk (vintBody .maxu vd va vb mk w)
  | .vand vd va vb mk w => v [vd, va, vb] [] mk (vintBody .and vd va vb mk w)
  | .vor vd va vb mk w => v [vd, va, vb] [] mk (vintBody .or vd va vb mk w)
  | .vxor vd va vb mk w => v [vd, va, vb] [] mk (vintBody .xor vd va vb mk w)
  | .vshl vd va vb mk w => v [vd, va, vb] [] mk (vintBody .shl vd va vb mk w)
  | .vshr vd va vb mk w => v [vd, va, vb] [] mk (vintBody .shr vd va vb mk w)
  | .vsar vd va vb mk w => v [vd, va, vb] [] mk (vintBody .sar vd va vb mk w)
  | .vfadd vd va vb mk w => v [vd, va, vb] [] mk (vfpBody .add vd va vb mk w)
  | .vfsub vd va vb mk w => v [vd, va, vb] [] mk (vfpBody .sub vd va vb mk w)
  | .vfmul vd va vb mk w => v [vd, va, vb] [] mk (vfpBody .mul vd va vb mk w)
  | .vfdiv vd va vb mk w => v [vd, va, vb] [] mk (vfpBody .div vd va vb mk w)
  | .vfmin vd va vb mk w => v [vd, va, vb] [] mk (vfpBody .min vd va vb mk w)
  | .vfmax vd va vb mk w => v [vd, va, vb] [] mk (vfpBody .max vd va vb mk w)
  | .vfma vd va vb mk w => v [vd, va, vb] [] mk (vfpBody .fma vd va vb mk w)
  | .vfnma vd va vb mk w => v [vd, va, vb] [] mk (vfpBody .fnma vd va vb mk w)
  | .vfsqrt vd va mk w => v [vd, va] [] mk (vfpBody .sqrt vd va va mk w)
  | .vcmpeq md va vb mk w => v [va, vb] [md] mk (vcmpBody .eq md va vb mk w)
  | .vcmplt md va vb mk w => v [va, vb] [md] mk (vcmpBody .lt md va vb mk w)
  | .vcmpltu md va vb mk w => v [va, vb] [md] mk (vcmpBody .ltu md va vb mk w)
  | .vfcmpeq md va vb mk w => v [va, vb] [md] mk (vfcmpBody 0 md va vb mk w)
  | .vfcmplt md va vb mk w => v [va, vb] [md] mk (vfcmpBody 1 md va vb mk w)
  | .vfcmple md va vb mk w => v [va, vb] [md] mk (vfcmpBody 2 md va vb mk w)
  | .vrsum vd va mk w => v [vd, va] [] mk (vredBody .sum vd va mk w)
  | .vrmax vd va mk w => v [vd, va] [] mk (vredBody .max vd va mk w)
  | .vrmin vd va mk w => v [vd, va] [] mk (vredBody .min vd va mk w)
  | .vradd vd va mk w => v [vd, va] [] mk (vraddBody vd va mk w)
  | .vcvt vd va dt st sat mk => v [vd, va] [] mk (vcvtBody vd va dt st sat mk)
  | .vext gd va gb w => v [va] [] none (vextBody gd va gb w)
  | .vins vd gs gb w => v [vd] [] none (vinsBody vd gs gb w)
  | .vsplat vd gs w => v [vd] [] none (vsplatBody vd gs w)
  | .mand md ma mb => v [] [md, ma, mb] none (maskBody md fun b => b.m[ma] &&& b.m[mb])
  | .mor md ma mb => v [] [md, ma, mb] none (maskBody md fun b => b.m[ma] ||| b.m[mb])
  | .mxor md ma mb => v [] [md, ma, mb] none (maskBody md fun b => b.m[ma] ^^^ b.m[mb])
  | .mnot md ma => v [] [md, ma] none (maskBody md fun b => ~~~ b.m[ma])
  | .mset md => v [] [md] none (maskBody md fun _ => BitVec.allOnes 2048)
  | .mcnt gd ma => v [] [ma] none (mcntBody gd ma)
  | _ => none

/-- The cause of a condition that an instruction of a thread raises (R193). -/
def scrCause (e : Exc) : BitVec 5 :=
  match e.code.toNat with
  | 0 => 0x0C
  | 3 | 4 => 0x11
  | 5 | 6 | 7 => streamCause e.code e.sub
  | 0x0D => 0x07
  | 0x0E => 0x05
  | _ => 0x10

/-- A fetch of a scribe from a cacheable page reads its line through the scribe's instruction cache, of 64 sets; a miss fills it from L2
(R181, R215, R221, R223). -/
def fillScr (s : State) (k : ScribeNum) (pa : Nat) : State :=
  let la := lineNo pa
  let set := pa / 64 % 64
  let hit := (List.range 4).any fun w => spGet none s.ca.scrL1i[k] (4 * set + w) == some la
  let s1 := if hit then s else fillL2 s la false
  if (l2Find s1 la).isNone then s1
  else
    let (tags, plru, _) := tagFill s1.ca.scrL1i[k] s1.ca.scrL1iPlru[k] set la
    { s1 with ca := { s1.ca with
        scrL1i := s1.ca.scrL1i.set k.val tags k.isLt
        scrL1iPlru := s1.ca.scrL1iPlru.set k.val plru k.isLt } }

/-- The fetch of the 4 bytes at an address by a scribe thread (R183, R193, R215). -/
def scrFetch (k : ScribeNum) (t : Fin 128) (x : Thread) (va : W64) (s : State) : State × ((BitVec 5 × W64) ⊕ Option W32) :=
  match translate (.scribe k) .fetch 3 x.regs.ttb va s with
  | .bad s1 code sub => (s1, if code = waitCode then .inr none else .inl (streamCause code sub, 0))
  | .ok s1 pa ty =>
    if ty = .device then (s1, .inl (0x0C, BitVec.ofNat 64 pa))
    else if s1.vellumZeroing && inVellum s1 pa then (s1, .inr none)
    else match accessCheck s1 (ty == .cacheable) pa 4 with
      | (s2, some _) => (s2, .inl (0x07, BitVec.ofNat 64 pa))
      | (s2, none) =>
        let s3 := if ty = .cacheable ∧ ¬ inVellum s2 pa ∧ ¬ inAlias s2 pa then fillScr s2 k pa else s2
        (s3, .inr (some (ofBytes 32 ((List.range 4).map fun i => readByteOf (.scribe k t) s2 ty (pa + i)))))

/-- The outcome of an attempt to issue from a thread. -/
inductive Issued where
  | yes (s : State)
  /-- The thread waits; what it asked for stays asked. -/
  | no (s : State)

/-- Executes a decoded instruction of a thread (R182, R185). -/
def threadRun (k : ScribeNum) (t : Fin 128) (x : Thread) (w1 w2 : W32) (s : State) : Issued :=
  match (decodeWords w1 w2).bind fun i => (scribeBody i).map fun b => (i, b) with
  | none => .yes (stopThread s k t x 0x10 0 0)
  | some (i, body) =>
    let put (b : Bank) (s : State) : State := setThread s k t (some { x with regs := b })
    match body (.scribe k t) x.regs s with
    | .ok b s1 => .yes (put { b with pc := x.regs.pc + BitVec.ofNat 64 (instrBytes i) } s1)
    | .jump b s1 => .yes (put b s1)
    | .done s1 => .yes s1
    | .trap s1 => .yes s1
    | .wait s1 => .no s1
    | .exc e b s1 =>
      if e.code = waitCode then .no s1
      else .yes (stopThread s1 k t { x with regs := b } (scrCause e) e.addr e.phys)

/-- Fetches and executes the next instruction of a thread; a long form's second word is fetched too (R40, R182). -/
def threadIssue (k : ScribeNum) (t : Fin 128) (x : Thread) (s : State) : Issued :=
  match scrFetch k t x x.regs.pc s with
  | (s1, .inl (c, pa)) => .yes (stopThread s1 k t x c x.regs.pc pa)
  | (s1, .inr none) => .no s1
  | (s1, .inr (some w1)) =>
    if twoWords w1 then
      match scrFetch k t x (x.regs.pc + 4) s1 with
      | (s2, .inl (c, pa)) => .yes (stopThread s2 k t x c (x.regs.pc + 4) pa)
      | (s2, .inr none) => .no s2
      | (s2, .inr (some w2)) => threadRun k t x w1 w2 s2
    else threadRun k t x w1 0 s1

/-- Issues from the first of some threads that is ready (R182). -/
def issueNext (k : ScribeNum) : List (Fin 128) → State → State
  | [], s => s
  | t :: l, s =>
    match threadOf s k t with
    | none => issueNext k l s
    | some x =>
      if x.stopped then issueNext k l s
      else match threadIssue k t x s with
        | .yes s1 => setScribe s1 k { s1.scribes[k] with last := t }
        | .no s1 => issueNext k l s1

/-- The threads of a scribe in the order of issue, from the one behind the last (R182). -/
def issueOrder (x : Scribe) : List (Fin 128) := (List.finRange 128).map fun i => x.last + 1 + i

/-- Whether a descriptor is complete: every thread has ended or has had its fault reported (R190). -/
def descComplete (s : State) (p : Placed) : Bool :=
  p.next == p.nt && !(s.scribes[p.scribe].threads.any fun e => ofDesc p.wring p.index e.2)
    && !(s.scribes[p.scribe].waiting.any fun r => r.wring == p.wring && r.dindex == p.index)

/-- STATUS of a descriptor (R190). -/
def descStatus (p : Placed) : Nat := if p.abandoned then 1 else if p.faulted || p.refused then 2 else if p.nonzero then 4 else 0

/-- A descriptor has posted: interrupt, event, and DONE (R190). A refused one asks for nothing, since its fields are not trusted (R192). -/
def postDesc (s : State) (p : Placed) : State :=
  let r := s.rings[p.wring]
  let s1 := setRing' { s with placed := s.placed.filter fun q => !(q.wring == p.wring && q.index == p.index) } p.wring { r with done := r.done + 1 }
  if bit p.words[0] 9 ∧ p.refused = false then postEvent (pend s1 0x26) r.capBank .bev else s1

/-- The posting of the next descriptor of a work ring: the record, the interrupt and the event come after every write of its threads is visible
(R62, R190). DESIGN CHOICE (log 49): a fault on the record write leaves SCRFLT1 0, and the interrupt and the event still come; R190 and R192 state
neither. -/
def postNext (s : State) (w : RingNum) : Option State :=
  let r := s.rings[w]
  match s.placed.find? fun p => p.wring == w && p.index == r.done && descComplete s p with
  | none => none
  | some p =>
    let evt := bit p.words[0] 8 && !p.refused
    if (evt || (bit p.words[0] 9 && !p.refused)) && !writesVisible s .scribe then some (askVisible s .scribe)
    else if evt then
      let b : Bank := { threadRegs r p.words 0 p.nt with pc := 0 }
      let v : W64 := place 64 (descStatus p) 56 ||| (p.words[7] &&& 0x00FFFFFFFFFFFFFF)
      match storeBytes (.scribe p.scribe 0) b p.words[6] 8 false (toBytes 8 v) s with
      | .done s1 => some (postDesc s1 p)
      | .wait s1 => some s1
      | .fault s1 e =>
        if e.code = waitCode then some s1
        else some (postDesc (addReport s1 p.scribe ⟨scrCause e, none, w, p.index, 0, e.addr, e.phys, false⟩) p)
    else some (postDesc s p)

/-- The indices from one on up to another (R186). -/
def indices (a : BitVec 16) (n : Nat) : List (BitVec 16) := (List.range n).map fun i => a + BitVec.ofNat 16 i

/-- SWCTL.ABORT: every published and unposted descriptor is abandoned, a refused one with its held report (R194). -/
def abortRing (s : State) (w : RingNum) : State :=
  let r := s.rings[w]
  if r.done = r.tail then s
  else
    let fresh := (indices r.head (r.tail - r.head).toNat).map fun i =>
      let d := readDescriptor s r i
      ({ wring := w, index := i, scribe := 0, words := if descOk s r d then d else Vector.replicate 8 0, next := 0, nt := 0, abandoned := true } : Placed)
    let old := s.placed.map fun p => if p.wring = w then { p with abandoned := true, next := p.nt } else p
    let s1 := setRing' { s with placed := old ++ fresh } w { r with head := r.tail, fetched := none }
    { s1 with scribes := vmap (fun x : Scribe => { x with
        threads := x.threads.filter fun e => match e.2 with
          | some t => t.wring != w
          | none => true
        waiting := x.waiting.filter fun q => !(q.wring == w && (q.thread.isSome || q.refusal)) }) s1.scribes }

/-- A write of SWCTL (R186). -/
def swctlWrite (s : State) (w : RingNum) (v : W64) : State :=
  let r := s.rings[w]
  let r1 : Ring := if r.en then r else { r with
    sizelog2 := BitVec.ofNat 4 (max 4 (fieldN v 7 4)), smask := field v 31 16 &&& smaskBits s.var }
  let s1 := setRing' s w { r1 with en := bit v 0, fetched := if bit v 0 then r1.fetched else none }
  if bit v 1 then abortRing s1 w else s1

/-- SLAUNCH (R187). -/
def slaunchBody (w : RingNum) (gn : GReg) : Body := fun _ b s =>
  let r := s.rings[w]
  let n := (rg b gn).toNat
  if r.en = false ∨ ringSlots r < n then .exc (undefExc (.slaunch w gn)) b s
  else if n = 0 then .ok b s
  else
    let busy := r.done != r.tail
    let other := fieldN r.capTtb 61 0 != fieldN b.ttb 61 0 || r.capBank != s.c.cur
    if ringSlots r < (r.tail - r.done).toNat + n ∨ (busy && other) then .wait s
    else .ok b (setRing' s w { r with capTtb := b.ttb, capBank := s.c.cur, tail := r.tail + BitVec.ofNat 16 n })

/-- The LIMIT of the descriptor of a thread (R188). -/
def limitOf (s : State) (x : Thread) : Nat :=
  match s.placed.find? fun p => p.wring == x.wring && p.index == x.dindex with
  | some p => fieldN p.words[0] 63 32
  | none => 0

/-- SLAUNCH (R165, R187). -/
def execSlaunch (wr : RingNum) (gn : GReg) (s : State) : Host.Outcome State Fault Refusal := streamInstr (.slaunch wr gn) (slaunchBody wr gn) s

/-- DESCRIPTOR_DISPATCH: the work ring whose turn it is (R189). -/
def execDescriptorDispatch (w : RingNum) (s : State) : Host.Outcome State Fault Refusal :=
  event s (if nextRing s = some w ∧ domRuns s dVellum ∧ s.vellumZeroing = false then some (dispatch s w) else none)

/-- THREAD_START (R188, R189). -/
def execThreadStart (k : ScribeNum) (s : State) : Host.Outcome State Fault Refusal :=
  event s (if domRuns s (dScribe k) then startThread s k else none)

/-- THREAD_ISSUE (R182). -/
def execThreadIssue (k : ScribeNum) (s : State) : Host.Outcome State Fault Refusal :=
  event s (if domRuns s (dScribe k) then some (issueNext k (issueOrder s.scribes[k]) s) else none)

/-- SCRIBE_DESCRIPTOR_POST (R190). -/
def execScribeDescriptorPost (w : RingNum) (s : State) : Host.Outcome State Fault Refusal :=
  event s (if domRuns s dVellum then postNext s w else none)

/-- SCRIBE_FAULT: a cause from outside the thread's own instruction: WALKBUS, BUS, TIMEOUT, MEMERR or HWCHECK (R193, R414). -/
def execScribeFault (k : ScribeNum) (thread : Fin 128) (cause : BitVec 5) (va pa : W64) (s : State) : Host.Outcome State Fault Refusal :=
  event s <|
    match threadOf s k thread with
    | some x =>
      if x.stopped = false ∧ (cause = 3 ∨ cause = 5 ∨ cause = 6 ∨ cause = 7 ∨ cause = 0x13) then
        some (stopThread s k thread x cause va (if cause = 3 then 0 else pa)) else none
    | none => none

/-- SCRIBE_LIMIT_EXPIRY (R193). -/
def execScribeLimitExpiry (k : ScribeNum) (thread : Fin 128) (s : State) : Host.Outcome State Fault Refusal :=
  event s <|
    match threadOf s k thread with
    | some x => if x.stopped = false ∧ limitOf s x ≠ 0 then some (stopThread s k thread x 0x12 0 0) else none
    | none => none

end Sys2Proof.Machine
end

