-- ==== Sys2Proof/Machine/Errors.lean ====
section
/-! DEFINITION. Error records as events, the FIFO's pointers, the scrubbers, and the error manager (R162, R227, R327 to R338, R382, R383, R386). -/
namespace Sys2Proof.Machine

/-- Steps of one pass of a scrubbed store: vellum rows, L2 sets, tile rows, inkwell rows, quill words (R327). -/
def passSteps (v : Variant) (k : Fin 5) : Nat :=
  match k.val with
  | 0 => 2 ^ vellumLog2 v / 128
  | 1 => 4096
  | 2 => 16 * boardB v
  | 3 => inkRows v
  | _ => 70656

/-- The next place of a scrubber, and a step of the pass that a command has asked for (R327, R379). -/
def scrubNext (s : State) (k : Fin 5) : State :=
  let e := s.err
  { s with err := { e with
      pos := e.pos.set k.val ((e.pos[k] + 1) % passSteps s.var k) k.isLt
      pass := e.pass.set k.val (e.pass[k].map fun p => (p.1 - 1, p.2)) k.isLt } }

/-- A single-bit error at a place that the environment does not name: a free value below n picks it (log 6). -/
def postCeIn (s : State) (unit : Byte) (n : Nat) (loc : Nat → Nat) (ce : Ecc) : State :=
  match ce with
  | none => s
  | some synd =>
    let (x, s1) := draw 16 s
    postCe s1 unit (loc (x.toNat % n)) synd false

/-- VELLUM_SCRUB_STEP: one 128-byte row (R162, R327). -/
def execVellumScrubStep (ce : Ecc) (s : State) : Host.Outcome State Fault Refusal :=
  event s (
    if bit s.c.chkdis 0 || !(s.dom[dVellum].st == .run || s.dom[dVellum].st == .gated) || s.vellumZeroing then none
    else
      let row := s.err.pos[0]
      let s1 := (readCheck s false (s.cfg.vellumbase.toNat + 128 * row) 128).1
      some (scrubNext (postCeIn s1 0x0B 16 (fun i => 128 * row + 8 * i) ce) 0))

/-- The doublewords of the lines of an L2 set as the scrubber reads them: an injected flip is met (R227, R327, R341). -/
def scrubSet (s : State) (set : Nat) (ways : List Nat) : State :=
  if s.err.spots.isEmpty then s
  else ways.foldl (fun s w => (List.range 8).foldl (fun s d => meetL2 s (16 * set + w) d) s) s

/-- L2_SCRUB_STEP: one set, every way of the groups that are on. A natural double-bit error that it finds comes by ERROR_RECORD_POST (R227, R327). -/
def execL2ScrubStep (ce : Ecc) (s : State) : Host.Outcome State Fault Refusal :=
  event s (
    if bit s.c.chkdis 1 || !(s.dom[dVellum].st == .run || s.dom[dVellum].st == .gated) then none
    else
      let set := s.err.pos[1]
      let ways := (List.range 16).filter fun w => l2GroupOn s (w / 4)
      let s0 := scrubSet s set ways
      let s1 := if ways.isEmpty then s0 else postCeIn s0 0x04 (8 * ways.length) (fun i => set + 4096 * ways.getD (i / 8) 0 + 65536 * (i % 8)) ce
      some (scrubNext s1 1))

/-- SCRUB_CREDIT_GAIN: one credit for the tile file and one for the inkwell, up to a pass; at the limit a clock-gated domain is woken (R328). -/
def execScrubCreditGain (s : State) : Host.Outcome State Fault Refusal :=
  event s (
    if bit s.c.chkdis 2 then none
    else
      let t := min (passSteps s.var 2) (s.err.credTile + 1)
      let i := min (passSteps s.var 3) (s.err.credInk + 1)
      let s1 := { s with err := { s.err with credTile := t, credInk := i } }
      let s2 := if t = passSteps s.var 2 ∧ s.dom[dTile].st = .gated then wakeRequest s1 dTile else s1
      some (if i = passSteps s.var 3 ∧ s.dom[dBoard].st = .gated then wakeRequest s2 dBoard else s2))

/-- Doublewords of a physical tile row, and of its sidecar row (R63, R82). -/
def physWords (v : Variant) : List Nat := rowWords 0 (boardB v) ++ rowWords 128 (boardB v / 32)

/-- TILE_INK_SCRUB_ROW: a credit is spent on the next row of the tile file or of the inkwell (R138, R327 to R329). -/
def execTileInkScrubRow (ink : Bool) (ce : Ecc) (s : State) : Host.Outcome State Fault Refusal :=
  event s (
    if bit s.c.chkdis 2 then none
    else if ink then
      if s.err.credInk = 0 || !domRuns s dBoard || s.inkZeroing then none
      else
        let row := s.err.pos[3]
        let s1 := inkMeetRow { s with err := { s.err with credInk := s.err.credInk - 1 } } row 0 (boardB s.var)
        some (scrubNext (postCeIn s1 0x09 (boardB s.var) (inkLoc row) ce) 3)
    else if s.err.credTile = 0 || !domRuns s dTile then none
    else
      let t : TReg := Fin.ofNat 16 (s.err.pos[2] / boardB s.var)
      let row := s.err.pos[2] % boardB s.var
      let ws := physWords s.var
      let s1 := tileMeet { s with err := { s.err with credTile := s.err.credTile - 1 } } t row ws
      some (scrubNext (postCeIn s1 0x05 ws.length (fun i => tileLoc t.val row (ws.getD i 0)) ce) 2))

/-- QUILL_SRAM_SCRUB_STEP: one word of quill SRAM, blotter or FIFO, in that order (R327, R337, R386). -/
def execQuillSramScrubStep (ce : Ecc) (s : State) : Host.Outcome State Fault Refusal :=
  event s (
    let w := s.err.pos[4]
    let (unit, loc, bad) : Byte × Nat × Bool :=
      if w < 65536 then (0x20, 8 * w, s.qu.sramBad.contains w)
      else if w < 69632 then (0x21, 0x2000 + 8 * (w - 65536), w % 4 == 0 && s.qu.blotBad.contains ((w - 65536) / 4))
      else (0x21, 0xA000 + 8 * (w - 69632), w % 4 == 0 && s.err.fifoBad.contains ((w - 69632) / 4))
    let s1 := if bad then postUe s unit loc (spotAt s unit loc == 2) else s
    let s2 := match ce with
      | some synd => postCe s1 unit loc synd false
      | none => s1
    some (scrubNext s2 4))

/-- A parity error in the map word of a granule: every granule of the word counts as changed (R322, R347). -/
def mapParity (s : State) (loc : W64) : State :=
  let g := mirS s (fieldN loc 3 0) + fieldN loc 63 16
  ((List.range 64).map (g / 64 * 64 + ·)).foldl
    (fun s g => if g < mirTotal s then setMapBit (setMapBit s false true g) true true g else s) s

/-- Adds a number to a list that does not hold it. -/
def addNew (l : List Nat) (x : Nat) : List Nat := if l.contains x then l else x :: l

/-- An uncorrectable code is found at a place of a store: its readers meet it from now on, and L2 handles it at once
(R138, R162, R227, R322, R329, R337, R386). -/
def markBad (s : State) (unit : Byte) (loc : W64) : State :=
  match unit.toNat with
  | 0x04 => doubleBitL2 s (16 * fieldN loc 11 0 + fieldN loc 15 12)
  | 0x05 =>
    let t : TReg := Fin.ofNat 16 (fieldN loc 3 0)
    setTile s t { s.tiles[t] with bad := addNew s.tiles[t].bad (256 * fieldN loc 25 16 + (if bit loc 4 then 128 else 0) + fieldN loc 38 32) }
  | 0x09 => { s with inkBad := addNew s.inkBad (1024 * fieldN loc 12 0 + fieldN loc 25 16) }
  | 0x0B => if loc.toNat < 2 ^ vellumLog2 s.var then { s with vellumBad := addNew s.vellumBad (loc.toNat / 8) } else s
  | 0x20 => setQu s { s.qu with sramBad := addNew s.qu.sramBad (loc.toNat / 8) }
  | 0x21 =>
    let o := loc.toNat
    if 0x2000 ≤ o ∧ o < 0xA000 then setQu s { s.qu with blotBad := addNew s.qu.blotBad ((o - 0x2000) / 32) }
    else if 0xA000 ≤ o ∧ o < 0xC000 then { s with err := { s.err with fifoBad := addNew s.err.fifoBad ((o - 0xA000) / 32) } }
    else s
  | _ => s

/-- The registers of a tally after a parity error: their values are wrong, and free here, until the next clear (R322, log 6). -/
def wrongRegs (s : State) : TalRegs × State :=
  let (a, s1) := draw 224 s
  let (h, s2) := draw 2560 s1
  ({ mn := field a 31 0, mx := field a 63 32, cnt := field a 103 64, nan := field a 127 104, sum := field a 191 128, drop := field a 223 192
     hist := spSetAll 0 [] 0 ((List.range 64).map fun i => BitVec.ofNat 40 (fieldN h (40 * i + 39) (40 * i))) }, s2)

/-- A tally's registers hold wrong values. -/
def wrongTally (s : State) (u : TallyNum) : State :=
  let (a, s1) := wrongRegs s
  let (b, s2) := wrongRegs s1
  setTally s2 u { s2.tal[u] with live := a, snap := b }

/-- A parity error in an entry of a translation cache: the entry is discarded. DESIGN CHOICE (log 49): entry n of a cache is the n-th that the model
holds, and those of the scribes' caches count on by 64; the spec does not number them (R245, R322, R332). -/
def dropEntry (s : State) (cache entry : Nat) : State :=
  match cache with
  | 0 => { s with ca := { s.ca with itlb := s.ca.itlb.eraseIdx entry } }
  | 1 => { s with ca := { s.ca with dtlb := s.ca.dtlb.eraseIdx entry } }
  | 2 => { s with ca := { s.ca with l2tlb := s.ca.l2tlb.eraseIdx entry } }
  | 3 => { s with ca := { s.ca with walkc := s.ca.walkc.eraseIdx entry } }
  | 4 => { s with ca := { s.ca with stlb := s.ca.stlb.eraseIdx entry } }
  | 5 => { s with ca := { s.ca with
      scrTlb := s.ca.scrTlb.set (entry / 64 % 16) (s.ca.scrTlb[Fin.ofNat 16 (entry / 64)].eraseIdx (entry % 64)) (Nat.mod_lt _ (by decide)) } }
  | _ => s

/-- A parity error in a scribe's instruction cache: the lines of the set are fetched again (R322). -/
def dropScr (s : State) (k : ScribeNum) (pc : Nat) : State :=
  { s with ca := { s.ca with
      scrL1i := s.ca.scrL1i.set k.val (spMap none (fun i x => if i / 4 = pc / 64 % 64 then none else x) s.ca.scrL1i[k]) k.isLt } }

/-- A parity error in a store that holds copies, in a tally or in a map of changed granules (R87, R227, R322, R347). -/
def parityOutcome (s : State) (unit : Byte) (loc : W64) : State :=
  let la := lineNo loc.toNat
  match unit.toNat with
  | 0x02 => { dropL1i s la with ca := { (dropL1i s la).ca with lineBuf := if s.ca.lineBuf = some la then none else s.ca.lineBuf } }
  | 0x03 => { dropL1d s la with ca := { (dropL1d s la).ca with pf := s.ca.pf.filter (· ≠ la) } }
  | 0x06 => { s with nib := { s.nib with tags := s.nib.tags.set (loc.toNat % 64) none (Nat.mod_lt _ (by decide)) } }
  | 0x0E => if s.mir.en then mapParity s loc else s
  | 0x0F => wrongTally s (Fin.ofNat 16 loc.toNat)
  | 0x22 => dropEntry s (fieldN loc 2 0) (fieldN loc 15 3)
  | _ => if 0x10 ≤ unit.toNat ∧ unit.toNat < 0x20 then dropScr s (Fin.ofNat 16 (unit.toNat - 0x10)) (fieldN loc 63 8) else s

/-- A register-file parity or residue error of a scribe stops the thread (R193, R322). -/
def hwcheck (s : State) (unit : Byte) (loc : W64) : State :=
  if 0x10 ≤ unit.toNat ∧ unit.toNat < 0x20 then
    let k : ScribeNum := Fin.ofNat 16 (unit.toNat - 0x10)
    let t : Fin 128 := Fin.ofNat 128 (fieldN loc 6 0)
    match threadOf s k t with
    | some x => if x.stopped then s else stopThread s k t x 0x13 0 0
    | none => s
  else s

/-- What a detection does besides its record (R322). -/
def detected (s : State) (cls unit : Byte) (loc : W64) : State :=
  match cls.toNat with
  | 0x02 => markBad s unit loc
  | 0x04 => parityOutcome s unit loc
  | 0x05 | 0x07 => hwcheck s unit loc
  | _ => s

/-- Whether CHKDIS keeps a check from reporting (R340). -/
def silenced (s : State) (cls unit : Byte) : Bool :=
  let scribe := decide (0x10 ≤ unit.toNat) && decide (unit.toNat < 0x20)
  match cls.toNat with
  | 0x04 => unit == 0x07 && bit s.c.chkdis 3
  | 0x05 => (unit == 0x07 && bit s.c.chkdis 3) || (decide (unit.toNat ≤ 1) && bit s.c.chkdis 5) || (scribe && bit s.c.chkdis 6)
  | 0x06 => bit s.c.chkdis 4
  | 0x0B => bit s.c.chkdis 8
  | 0x0C => bit s.c.chkdis 7
  | _ => false

/-- The KIND of ERRINJ whose faults a class reports (R331, R341). -/
def classKind (cls : Byte) : Nat :=
  match cls.toNat with
  | 0x01 => 1
  | 0x02 => 2
  | 0x04 | 0x07 | 0x08 | 0x11 => 3
  | 0x05 => 4
  | 0x06 => 5
  | 0x09 => 6
  | 0x0B => 7
  | _ => 0

/-- The units whose injected events have a place of their own in R466: the model plants those faults itself. -/
def plantedUnit (unit : Byte) : Bool := (2 ≤ unit.toNat && unit.toNat ≤ 9) || unit == 0x0B || unit == 0x0D || unit == 0x0E

/-- Whether a detection is that of the armed injection, on a unit whose SEL is the low half of LOC (R341, R466). -/
def injMatch (s : State) (cls unit : Byte) (loc : W64) : Bool :=
  !plantedUnit unit && classKind cls != 0 && injKind s unit == classKind cls && injSel s == loc.toNat % 2 ^ 32

/-- A detection that ERROR_RECORD_POST reports: its record names the bits that the formats of class and unit name (R322, R331 to R337). -/
def postDetection (s : State) (cls unit : Byte) (sev : BitVec 2) (loc : W64) (synd : BitVec 24) (inj : Bool) (extra : BitVec 16) : State :=
  let s1 := if inj then disarm s else s
  postRecord (detected s1 cls unit loc) cls unit sev loc (synd &&& syndMask cls) inj extra

/-- A write of ERR_PTR.RD: by the quill, or by the host while QUILLDOWN is 1 (R336). -/
def errPtrWrite (s : State) (v : W32) (byQuill : Bool) : State :=
  let rd : BitVec 9 := field v 24 16
  if (byQuill || s.qu.down) && decide ((s.err.wr - rd).toNat ≤ 256) then { s with err := { s.err with rd := rd } } else s

/-- A write of ERR_OVF (R336, R338). -/
def errOvfWrite (s : State) (v : W32) : State := if v = 0 then s else { s with err := { s.err with ovf := 0, ovfu := false } }

/-- A write of ERR_LINES (R338). -/
def errLinesWrite (s : State) (v : W32) : State := if bit v 2 then { s with err := { s.err with fatal := false } } else s

/-- ERR_PTR_RD_WRITE (R336). -/
def execErrPtrRdWrite (v : W32) (byQuill : Bool) (s : State) : Host.Outcome State Fault Refusal := event s (some (errPtrWrite s v byQuill))
/-- ERR_OVF_CLEAR (R336). -/
def execErrOvfClear (v : W32) (s : State) : Host.Outcome State Fault Refusal := event s (some (errOvfWrite s v))
/-- ERR_LINES_FATAL_CLEAR (R338). -/
def execErrLinesFatalClear (v : W32) (s : State) : Host.Outcome State Fault Refusal := event s (some (errLinesWrite s v))

/-- A record that names one logical file in a residue or rail error of the board (R383). -/
def adviceFile (r : BitVec 256) : Option Nat :=
  let cls := fieldN r 7 0
  let unit := fieldN r 15 8
  if (cls = 5 ∨ cls = 6) ∧ (unit = 7 ∨ unit = 8) then some (fieldN (recDw r 1) 25 16) else none

/-- The spare advice after a record: the file's distinct PLY values, and the advice once they reach the count (R383). -/
def advise (s : State) (r : BitVec 256) : State :=
  match adviceFile r with
  | none => s
  | some f =>
    let ply := fieldN (recDw r 3) 39 0
    let (plys, logged) : List Nat × Bool := ((s.qu.advice.find? (·.1 == f)).map (·.2)).getD ([], false)
    let plys1 := if plys.contains ply then plys else plys ++ [ply]
    let due := !logged && decide (max 1 s.qu.spareAdv.toNat ≤ plys1.length)
    let s1 := setQu s { s.qu with advice := (s.qu.advice.filter (·.1 != f)) ++ [(f, plys1, logged || due)] }
    if due then logRecord s1 (ownRecord s1 0x80 (BitVec.ofNat 64 f)) else s1

/-- A corrected record counted under its CLASS, UNIT and LOC (R383). -/
def countCorrected (s : State) (r : BitVec 256) : State :=
  if recSev r = 0 then
    let k := (fieldN r 7 0, fieldN r 15 8, (recDw r 1).toNat)
    let n := ((s.qu.corrected.find? (·.1 == k)).map (·.2)).getD 0
    setQu s { s.qu with corrected := (k, n + 1 + fieldN r 47 32) :: s.qu.corrected.filter (·.1 != k) }
  else s

/-- ERROR_MANAGER_CONSUME: the oldest record of the FIFO goes to the error log, and RD advances (R337, R382, R383). -/
def execErrorManagerConsume (s : State) : Host.Outcome State Fault Refusal :=
  event s (
    if s.qu.qstate = .run ∧ fifoCount s ≠ 0 then
      let k := s.err.rd.toNat % 256
      let r := fifoEntry s k
      let s1 := logRecord s r
      let s2 := { s1 with err := { s1.err with rd := s1.err.rd + 1 } }
      let s3 := windowMeet s2 (0xA000 + 32 * k) 32
      some (advise (countCorrected s3 r) r)
    else none)

end Sys2Proof.Machine
end

