-- ==== Sys2Proof/Machine/Regs.lean ====
section
/-! DEFINITION. MFC and MTC: the control registers by number, their rings, how each reads and what a write stores, and the writes that have commands of their own (R37 to R39 and the tables that extend it). -/
namespace Sys2Proof.Machine

/-- The read ring of a control register and its write ring, none where every field is RO; none: the number is unassigned (R37, R186, R278,
R293, R305, R310, R339, R344, R381, R458). -/
def regRings (v : Variant) (n : Nat) : Option (Nat × Option Nat) :=
  if n < 0x100 then
    match n with
    | 0x00 | 0x04 | 0x41 => some (3, some 1)
    | 0x01 | 0x02 | 0x03 | 0x43 | 0x44 | 0x46 => some (3, some 3)
    | 0x08 | 0x09 | 0x0A | 0x0B | 0x0C | 0x0D | 0x0E | 0x0F | 0x52 | 0x53 => some (3, none)
    | 0x10 | 0x15 | 0x1A | 0x1C | 0x1D | 0x1E | 0x1F | 0x35 | 0x66 => some (0, some 0)
    | 0x11 | 0x12 | 0x13 | 0x14 | 0x16 | 0x17 | 0x18 | 0x19 | 0x1B | 0x20 | 0x30 | 0x32 | 0x34 | 0x36 | 0x37 | 0x67 => some (1, some 1)
    | 0x31 | 0x60 | 0x61 | 0x62 | 0x63 | 0x91 | 0x94 => some (1, none)
    | 0x33 | 0x50 | 0x51 | 0x65 | 0x68 => some (1, some 0)
    | 0x45 => some (3, some 0)
    | 0x90 | 0x92 | 0x93 => some (1, some 1)
    | _ =>
      if 0x80 ≤ n ∧ n < 0x90 then some (1, some 1)
      else if 0xB0 ≤ n ∧ n < 0xD0 then some (3, some 1)
      else if 0xD0 ≤ n ∧ n < 0xD0 + scribeCount v then some (3, none)
      else none
  else if n < 0x180 then (if n % 8 ≤ 4 then some (3, some 2) else none)
  else if 0x200 ≤ n ∧ n < 0x600 then some (3, some 2)
  else if 0x600 ≤ n ∧ n < 0x680 then (if n % 4 = 2 then some (3, none) else some (3, some 1))
  else if 0x680 ≤ n ∧ n < 0x680 + 4 * scribeCount v then some (1, some 1)
  else if 0x6C0 ≤ n ∧ n < 0x6E0 then some (3, some 2)
  else if 0x702 ≤ n ∧ n < 0x718 then some (1, some 1)
  else if 0x800 ≤ n ∧ n < 0x880 then (if n % 8 ≤ 6 then some (3, none) else none)
  else if 0xA00 ≤ n ∧ n < 0xE00 then some (3, none)
  else none

/-- STATUS (R39). -/
def statusWord (s : State) : W64 :=
  place 64 s.c.cur.val 0 ||| place 64 s.c.ipl.toNat 8 ||| placeB 64 s.c.hold 12 ||| placeB 64 s.c.ruledAct 13

/-- BTHROTTLE (R114). -/
def bthrWord (s : State) : W64 := place 64 s.c.bthrOs.toNat 0 ||| place 64 s.c.bthrHost.toNat 8 ||| place 64 (effDuty s).toNat 16

/-- BANKDIRTY of a bank: its vector bits read 0 while VEC is off (R294, R300). -/
def bankDirtyWord (s : State) (x : Bank) : W64 :=
  if domUse s dVec = .off then x.dirty.setWidth 64 &&& 0xFF else x.dirty.setWidth 64

/-- TPROG (R82). -/
def tprogWord (x : Tile) : W64 := place 64 x.progRows.toNat 0 ||| place 64 x.progOp.toNat 12 ||| placeB 64 x.progFault 14
/-- TILEOWN (R84). -/
def tileownWord (x : Tile) : W64 := place 64 x.ownBank.val 0 ||| placeB 64 x.ownAny 2 ||| place 64 x.ownCtx.toNat 16

/-- A register of a tally or of its snapshot, by its place in the group (R310). -/
def talRegWord (r : TalRegs) (k : Nat) : W64 :=
  match k with
  | 1 => r.mn.setWidth 64
  | 2 => r.mx.setWidth 64
  | 3 => r.nan ++ r.cnt
  | 4 => r.sum
  | _ => r.drop.setWidth 64

/-- TALSSTAT (R310). -/
def talStat (x : Tally) : W64 := placeB 64 x.pend 0 ||| placeB 64 x.keyed 1

/-- TALKBASE with QLOCK (R310). -/
def talkbaseWord (x : Tally) : W64 := x.kbase ||| placeB 64 x.qlock 63

/-- A register of the MIRCFG group; without a partner port it reads as zero (R5, R344). -/
def mirRead (s : State) (n : Nat) : W64 :=
  if !hasPartner s.var then 0
  else if n < 0x90 then s.mir.cfg[Fin.ofNat 16 (n - 0x80)]
  else match n with
    | 0x90 => mirctlWord s
    | 0x91 => mirstatWord s
    | 0x92 => s.mir.map
    | 0x93 => s.mir.resv
    | _ => s.mir.last

/-- A write to the MIRCFG group by the general core, ignored under QLOCK (R5, R345, R346). -/
def mirWrite (s : State) (n : Nat) (v : W64) : State :=
  if !hasPartner s.var || s.mir.qlock then s
  else if n < 0x90 then mircfgWrite s (Fin.ofNat 16 (n - 0x80)) v
  else match n with
    | 0x90 => mirAdvance (mirctlWrite { s with mir := { s.mir with out := [] } } v)
    | 0x92 => mirmapWrite s v
    | _ => mirresvWrite s v

/-- The bits of ILEVEL word i that a write may change (R279). -/
def levelVecs (i : Fin 14) : List Nat := (List.range 16).filter fun k => validVec (0x20 + 16 * i.val + k) && !critVec (0x20 + 16 * i.val + k)

/-- ILEVEL after a write (R279). -/
def ilevelNext (i : Fin 14) (old v : W64) : W64 :=
  (levelVecs i).foldl (fun x k => setField x (4 * k + 3) (4 * k) (min 13 (fieldN v (4 * k + 3) (4 * k)))) old

/-- The bits of IPEND word j that software may set or clear: vectors that exist, neither critical nor wired (R280). -/
def ipendSoft (j : Fin 4) : W64 :=
  match j.val with
  | 0 => maskBits 64 0x28 0x23
  | 1 => 0
  | _ => BitVec.allOnes 64

/-- A write of IPEND (R280). -/
def ipendWrite (s : State) (j : Fin 4) (v : W64) : State :=
  { s with c := { s.c with ipend := s.c.ipend.set j.val (s.c.ipend[j] &&& ~~~ (v &&& ipendSoft j)) j.isLt } }

/-- A write of ISET (R280). -/
def isetWrite (s : State) (j : Fin 4) (v : W64) : State :=
  { s with c := { s.c with ipend := s.c.ipend.set j.val (s.c.ipend[j] ||| (v &&& ipendSoft j)) j.isLt } }

/-- HOLDMAX after a write (R277). -/
def holdmaxNext (v : W64) : W64 := place 64 (min 4096 (fieldN v 12 0)) 0 ||| placeB 64 (bit v 16) 16
/-- SYSSTACK after a write (R262). -/
def sysstackNext (v : W64) : W64 :=
  let n := fieldN v 4 0
  setField v 4 0 (if 1 ≤ n ∧ n ≤ 11 then 12 else n)
/-- CXCAUSE after a write: ACT is W1C (R271). -/
def cxcauseNext (old v : W64) : W64 := (v &&& 0xF3FFF) ||| (old &&& ~~~ v &&& 0x100000)

/-- A write of ERRINJ, without effect while ARM = 1 (R341). -/
def errinjWrite (s : State) (v : W64) : State :=
  if bit s.c.errinj 12 then s else { s with c := { s.c with errinj := v &&& 0xFFFFFFFF1FFF } }

/-- A write of CHKDIS (R338, R340). -/
def chkdisWrite (s : State) (v : W64) : State :=
  let x := v &&& 0x1FF
  { s with c := { s.c with chkdis := x }, err := { s.err with chkoff := s.err.chkoff || x != 0 } }

/-- A write of TPROG: ROWS takes effect only while FAULT = 1 (R82). -/
def tprogWrite (s : State) (t : TReg) (v : W64) : State :=
  let x := s.tiles[t]
  if x.progFault then setTile s t { x with progRows := BitVec.ofNat 11 (min (x.rowsm1.toNat + 1) (fieldN v 10 0)) } else s

/-- A write of TILEOWN (R84). -/
def tileownWrite (s : State) (t : TReg) (v : W64) : State :=
  setTile s t { s.tiles[t] with ownBank := Fin.ofNat 4 (fieldN v 1 0), ownAny := bit v 2, ownCtx := field v 31 16 }

/-- SWHEAD (R186). -/
def swheadWord (r : Ring) : W64 := place 64 r.head.toNat 0 ||| place 64 r.done.toNat 16

/-- A register of a work ring (R186). -/
def swRead (s : State) (w : RingNum) (k : Nat) : W64 :=
  match k with
  | 0 => place 64 s.rings[w].offs.toNat 6
  | 1 => swctlWord s w
  | 2 => swheadWord s.rings[w]
  | _ => s.rings[w].tail.setWidth 64

/-- A write to a work ring (R186). -/
def swWrite (s : State) (w : RingNum) (k : Nat) (v : W64) : State :=
  let r := s.rings[w]
  match k with
  | 0 => if r.en then s else setRing' s w { r with offs := field (v &&& maskBits 64 (vellumLog2 s.var - 1) 6) 25 6 }
  | 1 => swctlWrite s w v
  | 3 => if r.en then s else setRing' s w { r with tail := field v 15 0 }
  | _ => s

/-- A control register as it reads, in the context of the executing bank. -/
def regRead (n : Nat) (b : Bank) (s : State) : W64 :=
  if bankedReg n then bankedRead n b
  else if n < 0x100 then
    match n with
    | 0x00 => statusWord s
    | 0x10 => s.c.vtbase
    | 0x11 => s.c.xpc
    | 0x12 => s.c.xfl
    | 0x13 => s.c.xcause
    | 0x14 => s.c.xaddr
    | 0x15 => s.c.dfstack
    | 0x16 => s.c.sysentry
    | 0x17 => s.c.sysstack
    | 0x1A => s.c.gatebase
    | 0x1B => s.c.holdmax
    | 0x1C => s.c.cxpc
    | 0x1D => s.c.cxfl
    | 0x1E => s.c.cxcause
    | 0x1F => s.c.cxaddr
    | 0x30 => place 64 s.c.bankwin.val 0
    | 0x31 => bankStat s
    | 0x32 => bankDirtyWord s (winBank b s)
    | 0x33 => s.c.schedctl
    | 0x34 => s.c.svmprog
    | 0x35 => s.c.boventry
    | 0x36 => s.c.bovrpc
    | 0x37 => s.c.bovrfl
    | 0x41 => s.c.tdirty.setWidth 64
    | 0x45 => bthrWord s
    | 0x50 => placeB 64 s.c.ruledEn 0 ||| placeB 64 s.c.ruledSched 1
    | 0x51 => l2wayWord s
    | 0x52 => s.c.ply
    | 0x53 => s.c.fwfloor.setWidth 64
    | 0x60 | 0x61 | 0x62 | 0x63 => s.c.errlast[Fin.ofNat 4 (n - 0x60)]
    | 0x65 => s.c.chkdis
    | 0x66 => s.c.errinj
    | 0x67 => s.c.qevent
    | _ =>
      if 0x08 ≤ n ∧ n < 0x10 then featWord s.var (n - 8)
      else if 0x80 ≤ n ∧ n < 0x95 then mirRead s n
      else if 0xB0 ≤ n ∧ n < 0xC0 then tileownWord s.tiles[Fin.ofNat 16 (n - 0xB0)]
      else if 0xC0 ≤ n ∧ n < 0xD0 then tprogWord s.tiles[Fin.ofNat 16 (n - 0xC0)]
      else if 0xD0 ≤ n ∧ n < 0xE0 then scrStat s (Fin.ofNat 16 (n - 0xD0))
      else 0
  else if n < 0x180 then
    let x := s.tal[Fin.ofNat 16 ((n - 0x100) / 8)]
    if n % 8 = 0 then x.src else talRegWord x.live (n % 8)
  else if n < 0x600 then (spGet 0 s.tal[Fin.ofNat 16 ((n - 0x200) / 64)].live.hist ((n - 0x200) % 64)).setWidth 64
  else if n < 0x680 then swRead s (Fin.ofNat 32 ((n - 0x600) / 4)) (n % 4)
  else if n < 0x6C0 then scrFlt s (Fin.ofNat 16 ((n - 0x680) / 4)) (n % 4)
  else if n < 0x6D0 then talkbaseWord s.tal[Fin.ofNat 16 (n - 0x6C0)]
  else if n < 0x6E0 then s.tal[Fin.ofNat 16 (n - 0x6D0)].live.drop.setWidth 64
  else if 0x702 ≤ n ∧ n < 0x710 then s.c.ilevel[Fin.ofNat 14 (n - 0x702)]
  else if n < 0x714 then ipendWord s (Fin.ofNat 4 (n - 0x710))
  else if n < 0x800 then 0
  else if n < 0x880 then
    let x := s.tal[Fin.ofNat 16 ((n - 0x800) / 8)]
    match n % 8 with
    | 0 => x.sply
    | 6 => talStat x
    | k => talRegWord x.snap k
  else (spGet 0 s.tal[Fin.ofNat 16 ((n - 0xA00) / 64)].snap.hist ((n - 0xA00) % 64)).setWidth 64

/-- A write that only changes the unbanked state. -/
def regPlain (n : Nat) (v : W64) (s : State) : State :=
  let c := s.c
  if n < 0x100 then
    match n with
    | 0x00 => { s with c := { c with ipl := field v 11 8 } }
    | 0x10 => { s with c := { c with vtbase := v &&& (maskBits 64 55 11 ||| 1) } }
    | 0x11 => { s with c := { c with xpc := v } }
    | 0x12 => { s with c := { c with xfl := v } }
    | 0x13 => { s with c := { c with xcause := v &&& 0xF3FFF } }
    | 0x14 => { s with c := { c with xaddr := v } }
    | 0x15 => { s with c := { c with dfstack := v } }
    | 0x16 => { s with c := { c with sysentry := v &&& ~~~ 3 } }
    | 0x17 => { s with c := { c with sysstack := sysstackNext v } }
    | 0x1A => { s with c := { c with gatebase := v &&& (maskBits 64 11 0 ||| maskBits 64 55 12 ||| maskBits 64 63 63) } }
    | 0x1B => { s with c := { c with holdmax := holdmaxNext v } }
    | 0x1C => { s with c := { c with cxpc := v } }
    | 0x1D => { s with c := { c with cxfl := v } }
    | 0x1E => { s with c := { c with cxcause := cxcauseNext c.cxcause v } }
    | 0x1F => { s with c := { c with cxaddr := v } }
    | 0x33 => { s with c := { c with schedctl := v &&& (maskBits 64 6 0 ||| maskBits 64 17 8 ||| maskBits 64 31 20) } }
    | 0x34 => { s with c := { c with svmprog := v &&& 0xFF } }
    | 0x35 => { s with c := { c with boventry := v &&& ~~~ 3 } }
    | 0x36 => { s with c := { c with bovrpc := v } }
    | 0x37 => { s with c := { c with bovrfl := v } }
    | 0x41 => { s with c := { c with tdirty := c.tdirty &&& ~~~ (field v 15 0) } }
    | 0x45 => { s with c := { c with bthrOs := field v 7 0 } }
    | 0x51 => l2wayWrite v s
    | 0x65 => chkdisWrite s v
    | 0x66 => errinjWrite s v
    | 0x67 => { s with c := { c with qevent := c.qevent &&& ~~~ v } }
    | 0x68 => if bit v 0 then requestWarm s else s
    | _ =>
      if 0x80 ≤ n ∧ n < 0x95 then mirWrite s n v
      else if 0xB0 ≤ n ∧ n < 0xC0 then tileownWrite s (Fin.ofNat 16 (n - 0xB0)) v
      else if 0xC0 ≤ n ∧ n < 0xD0 then tprogWrite s (Fin.ofNat 16 (n - 0xC0)) v
      else s
  else if n < 0x180 then (if n % 8 = 0 then writeTalsrc s (Fin.ofNat 16 ((n - 0x100) / 8)) v false else s)
  else if n < 0x600 then s
  else if n < 0x680 then swWrite s (Fin.ofNat 32 ((n - 0x600) / 4)) (n % 4) v
  else if n < 0x6C0 then (if n % 4 = 0 then scrFltWrite s (Fin.ofNat 16 ((n - 0x680) / 4)) v else s)
  else if n < 0x6D0 then writeTalkbase s (Fin.ofNat 16 (n - 0x6C0)) v false
  else if n < 0x702 then s
  else if n < 0x710 then
    let i : Fin 14 := Fin.ofNat 14 (n - 0x702)
    { s with c := { c with ilevel := c.ilevel.set i.val (ilevelNext i c.ilevel[i] v) i.isLt } }
  else if n < 0x714 then ipendWrite s (Fin.ofNat 4 (n - 0x710)) v
  else if n < 0x718 then isetWrite s (Fin.ofNat 4 (n - 0x714)) v
  else s

/-- A write of a control register from a ring, in the context of the executing bank (R38). What the write brings about may post an event to that
bank as well (R302). -/
def regWrite (n : Nat) (v : W64) (b : Bank) (s : State) : Res :=
  if bankedReg n then .ok (bankedWrite n v (ringOf b) true b) s
  else if n = 0x30 then bankwinWrite v b s
  else if n = 0x32 then
    let x := winBank b s
    let r := putWin b s { x with dirty := x.dirty &&& ~~~ (v.setWidth 41) }
    .ok r.1 r.2
  else if n = 0x50 then ruledWrite v b s
  else
    let s1 := regPlain n v s
    .ok (curBank s1) s1

/-- Privileged-register for a control register (R37, R272). -/
def privReg (n : Nat) : Exc := { code := 0x02, addr := BitVec.ofNat 64 n }

/-- MFC (R37). -/
def mfcBody (rd : GReg) (n : BitVec 12) : Body := fun _ b s =>
  match regRings s.var n.toNat with
  | none => .exc (undefExc (.mfc rd n)) b s
  | some (r, _) => if r < (ringOf b).toNat then .exc (privReg n.toNat) b s else .ok (wg b rd (regRead n.toNat b s)) s

/-- MTC of a value; c is the command whose words an undefined number reports (R37). -/
def mtcValue (c : Instr) (n : Nat) (v : W64) : Body := fun _ b s =>
  match regRings s.var n with
  | none => .exc (undefExc c) b s
  | some (r, w) =>
    match w with
    | some k => if k < (ringOf b).toNat then .exc (privReg n) b s else regWrite n v b s
    | none => if r < (ringOf b).toNat then .exc (privReg n) b s else .ok b s

/-- MTC (R37). -/
def mtcBody (rs : GReg) (n : BitVec 12) : Body := fun k b s => mtcValue (.mtc rs n) n.toNat (rg b rs) k b s

/-- A control-register write that has a command of its own: an MTC of a value (log 1). -/
def mtcRow (c : Instr) (n : Nat) (v : W64) (s : State) : Host.Outcome State Fault Refusal := issue c (mtcValue c n v) s

/-- The value that BANKWIN takes for an action on a bank (R292). -/
def bankAct (b : BankNum) (act : Nat) : W64 := place 64 b.val 0 ||| place 64 act 2

/-- MFC (R37). -/
def execMfc (rd : GReg) (n : BitVec 12) (s : State) : Host.Outcome State Fault Refusal := issue (.mfc rd n) (mfcBody rd n) s
/-- MTC (R37). -/
def execMtc (rs : GReg) (n : BitVec 12) (s : State) : Host.Outcome State Fault Refusal := issue (.mtc rs n) (mtcBody rs n) s
/-- RULED_ENTER: a write of RULED with EN = 1 (R206, R207). -/
def execRuledEnter (sched : Bool) (s : State) : Host.Outcome State Fault Refusal := mtcRow (.ruledEnter sched) 0x50 (1 ||| placeB 64 sched 1) s
/-- RULED_EXIT: a write of RULED with EN = 0 (R206, R207). -/
def execRuledExit (sched : Bool) (s : State) : Host.Outcome State Fault Refusal := mtcRow (.ruledExit sched) 0x50 (placeB 64 sched 1) s
/-- BANK_ALLOC (R292). -/
def execBankAlloc (b : BankNum) (s : State) : Host.Outcome State Fault Refusal := mtcRow (.bankAlloc b) 0x30 (bankAct b 1) s
/-- BANK_FREE (R292). -/
def execBankFree (b : BankNum) (s : State) : Host.Outcome State Fault Refusal := mtcRow (.bankFree b) 0x30 (bankAct b 2) s
/-- BANK_PARK (R292). -/
def execBankPark (b : BankNum) (s : State) : Host.Outcome State Fault Refusal := mtcRow (.bankPark b) 0x30 (bankAct b 3) s
/-- BANK_READY (R292). -/
def execBankReady (b : BankNum) (s : State) : Host.Outcome State Fault Refusal := mtcRow (.bankReady b) 0x30 (bankAct b 4) s
/-- BANK_SWITCH (R292). -/
def execBankSwitch (b : BankNum) (s : State) : Host.Outcome State Fault Refusal := mtcRow (.bankSwitch b) 0x30 (bankAct b 5) s
/-- BANK_CLREV (R292). -/
def execBankClrev (b : BankNum) (s : State) : Host.Outcome State Fault Refusal := mtcRow (.bankClrev b) 0x30 (bankAct b 6) s
/-- BANK_RETURN (R292, R305). -/
def execBankReturn (b : BankNum) (s : State) : Host.Outcome State Fault Refusal := mtcRow (.bankReturn b) 0x30 (bankAct b 7) s
/-- TALSRC_CLR: a write of TALSRC with CLR = 1 (R310). -/
def execTalsrcClr (u : TallyNum) (v : W64) (s : State) : Host.Outcome State Fault Refusal :=
  mtcRow (.talsrcClr u v) (0x100 + 8 * u.val) (setBit v 7 true) s
/-- TALSRC_RECONFIG: a write of TALSRC (R310). -/
def execTalsrcReconfig (u : TallyNum) (v : W64) (s : State) : Host.Outcome State Fault Refusal :=
  mtcRow (.talsrcReconfig u v) (0x100 + 8 * u.val) v s
/-- MIRCTL_EN_SET: a write of MIRCTL with EN = 1 (R346). -/
def execMirctlEnSet (v : W64) (s : State) : Host.Outcome State Fault Refusal := mtcRow (.mirctlEnSet v) 0x90 (setBit v 0 true) s
/-- MIRCTL_EN_CLEAR: a write of MIRCTL with EN = 0 (R346). -/
def execMirctlEnClear (v : W64) (s : State) : Host.Outcome State Fault Refusal := mtcRow (.mirctlEnClear v) 0x90 (setBit v 0 false) s
/-- L2WAYCTL_WRITE (R228). -/
def execL2wayctlWrite (v : W64) (s : State) : Host.Outcome State Fault Refusal := mtcRow (.l2wayctlWrite v) 0x51 v s
/-- RSTCTL_WARM: a write of RSTCTL with WARM = 1 (R458). -/
def execRstctlWarm (s : State) : Host.Outcome State Fault Refusal := mtcRow .rstctlWarm 0x68 1 s
/-- ISET_WRITE (R280). -/
def execIsetWrite (j : Fin 4) (v : W64) (s : State) : Host.Outcome State Fault Refusal := mtcRow (.isetWrite j v) (0x714 + j.val) v s
/-- ERRINJ_ARM: a write of ERRINJ with ARM = 1 (R341). -/
def execErrinjArm (v : W64) (s : State) : Host.Outcome State Fault Refusal := mtcRow (.errinjArm v) 0x66 (setBit v 12 true) s
/-- SCRFLT_RECV_CLEAR: a write of SCRFLT0 with RECV = 1 (R192). -/
def execScrfltRecvClear (k : ScribeNum) (s : State) : Host.Outcome State Fault Refusal := mtcRow (.scrfltRecvClear k) (0x680 + 4 * k.val) 0x80 s
/-- SWCTL_ABORT: a write of SWCTL with ABORT = 1 (R186, R194). -/
def execSwctlAbort (w : RingNum) (v : W64) (s : State) : Host.Outcome State Fault Refusal :=
  mtcRow (.swctlAbort w v) (0x601 + 4 * w.val) (setBit v 1 true) s

end Sys2Proof.Machine
end

