-- ==== Sys2Proof/Machine/Power.lean ====
section
/-! DEFINITION. The power domains: idle sleep and wake, the handshakes, the power-up initialisation, what a domain that goes off discards, and POWER_SET as it runs (R26 to R29, R137, R162, R229, R433, R435, R443 to R449). -/
namespace Sys2Proof.Machine

/-- The domains of the L2 way groups. -/
def isL2w (d : Fin 32) : Bool := 1 ≤ d.val && d.val ≤ 4
/-- The way group of such a domain. -/
def l2Group (d : Fin 32) : Fin 4 := Fin.ofNat 4 (d.val - 1)
/-- The scribe of a scribe domain. -/
def scribeOf (d : Fin 32) : ScribeNum := Fin.ofNat 16 (d.val - 16)

/-- A domain that is neither clocked nor changing. -/
def domQuiet (x : Dom) : Bool := x.st != .run && x.goal.isNone

/-- A message of the fabric or of the partner is outstanding. -/
def messagesOut (s : State) : Bool :=
  !s.tlbiRx.isEmpty || s.tlbiOut != 0 || !s.ca.wb.isEmpty || s.port.toList.any (·.token) || s.mir.serve.isSome || !s.mir.rx.isEmpty

/-- Whether a domain is idle; credits that the tile file's scrubber holds while TILE runs are being spent (R116, R180, R328, R443). -/
def domIdle (s : State) (d : Fin 32) : Bool :=
  match d.val with
  | 0 => ((List.finRange 32).all fun e => e == d || !domPresent s.var e || domQuiet s.dom[e]) && s.mir.commit.isNone && s.mir.fetch.isNone
      && !messagesOut s
  | 5 => ((List.finRange 16).all fun t => !s.ops.any fun o => !o.left && opNames o t) && (s.err.credTile == 0 || bit s.c.chkdis 2)
  | 6 => !(s.ops.any fun o => onBoard o || o.kind == .remap) && s.bd.flight.isEmpty && !s.inkZeroing
  | 7 => (List.finRange 64).all fun q => (queueOps s q).isEmpty && !s.sq[q].recv
  | 8 => s.banks.toList.all fun b => b.longs.all fun l => match l with
      | .v _ _ => false
      | .g _ _ => true
  | 9 => s.stall == some .waiti || s.dbg.halted
  | _ => 16 ≤ d.val && liveCount s (scribeOf d) == 0 && toStart s (scribeOf d) == 0

/-- The state of idle sleep of a domain (R443). -/
def sleepState (d : Fin 32) : DomSt :=
  if d = dBoard then .sleepRet else if d = dStream ∨ 16 ≤ d.val then .sleepDown else .gated

/-- Empties the translation cache, and a scribe's instruction cache, of a domain that sleeps or loses power (R26, R171, R254). -/
def dropTlb (s : State) (d : Fin 32) : State :=
  if d = dStream then { s with ca := { s.ca with stlb := [], walks := s.ca.walks.filter fun w => match w.req with
    | .stream _ _ | .tile _ _ => false
    | _ => true } }
  else if 16 ≤ d.val then
    let k := scribeOf d
    { s with ca := { s.ca with
      scrTlb := s.ca.scrTlb.set k.val [] k.isLt
      scrL1i := s.ca.scrL1i.set k.val [] k.isLt
      scrL1iPlru := s.ca.scrL1iPlru.set k.val [] k.isLt
      walks := s.ca.walks.filter fun w => match w.req with
        | .scribe j _ _ => j != k
        | _ => true } }
  else s

/-- IDLE_THRESHOLD_EXPIRY: a domain that is idle enters idle sleep (R208, R444, R445). -/
def execIdleThresholdExpiry (d : Fin 32) (s : State) : Host.Outcome State Fault Refusal :=
  event s (
    let x := s.dom[d]
    if domPresent s.var d && !isL2w d && x.st == .run && x.goal.isNone && s.qu.thr[d] != 0 && !(s.c.ruledAct && d.val < 16)
        && !s.heldOff.getLsbD d.val && !s.heldRet.getLsbD d.val && domIdle s d then
      some (dropTlb (setDom s d (domSettle (domDown x (sleepState d)))) d)
    else none)

/-- DOMAIN_WAKE_REQUEST: a request reaches a sleeping domain (R28). -/
def execDomainWakeRequest (d : Fin 32) (s : State) : Host.Outcome State Fault Refusal := event s (some (wakeRequest s d))

/-- The plane records as acceptance sees them, where no load is accepted: EMPTY behind a placed remap, else those of the planes (R94, R112). -/
def syncPlanes (s : State) : State :=
  if s.ops.any fun o => o.kind == .bplane then s
  else if s.ops.any fun o => o.kind == .remap then { s with bd := { s.bd with acc := Vector.replicate 2 {} } }
  else { s with bd := { s.bd with acc := vmap (·.pr) s.bd.planes } }

/-- Discards some accepted operations without result (R449). -/
def discardOps (s : State) (p : Op → Bool) : State :=
  let gone := (s.ops.filter p).map (·.id)
  let stays (f : InFlight) : Bool := match f with
    | .row id _ _ | .swap id => !gone.contains id
  syncPlanes { s with ops := s.ops.filter fun o => !p o, bd := { s.bd with flight := s.bd.flight.filter stays } }

/-- Discards a tile drain: its tile is READY unless other writers remain (R449). -/
def discardDrains (s : State) : State :=
  let drains := s.ops.filter fun o => o.kind == .idrainT
  drains.foldl (fun s o => settleTile s o.t .ready) (discardOps s fun o => o.kind == .idrainT)

/-- An operation that is discarded leaves its queue as an abandoned one does, and its queue is no longer FAULTED by it (R164, R449). -/
def abandonOp (s : State) (o : Op) : State :=
  let s1 := updOp s o.id fun y => { y with stop := none, abandoned := true, done := true, out := [], written := [] }
  let s2 := if s1.sq[o.q].faulted = some o.id then { s1 with sq := s1.sq.set o.q.val { s1.sq[o.q] with faulted := none } o.q.isLt } else s1
  postQueue o.q 32 s2

/-- Memory drains that are discarded (R449). -/
def discardMemDrains (s : State) : State := (s.ops.filter fun o => o.kind == .idrainM).foldl abandonOp s

/-- Remaps that a PLYC has placed and that no longer wait for board operations (R112). -/
def applyPlaced (s : State) : State :=
  (s.ops.filter fun o => o.kind == .remap).foldl (fun s o => applyRemap (dropOp s o.id) o.remap) s

/-- The transfers of queues that go off: one that is done is gone, another stops with cause DOMAINOFF (R28, R76). -/
def discardTransfers (s : State) : State :=
  (s.ops.filter fun o => tileOp o && !o.left).foldl (fun s o => if o.done || o.abandoned then dropOp s o.id else offStop s o) s

/-- A bank when VEC goes off: its pending vector results and the dirty bits of its vector groups are gone (R300). -/
def vecGone (b : Bank) : Bank :=
  { b with
    dirty := b.dirty &&& 0xFF
    longs := b.longs.filter fun l => match l with
      | .v _ _ => false
      | .g _ _ => true }

/-- The general core's caches, store buffer and translation caches empty (R230, R254). -/
def emptyCore (ca : Caches) : Caches :=
  { ca with
    l1i := [], l1iPlru := [], l1d := [], l1dPlru := [], pf := [], pfOut := [], trk := [], miss := none, lineBuf := none, sb := []
    sbLast := none
    itlb := [], dtlb := [], l2tlb := [], walkc := []
    walks := ca.walks.filter fun w => match w.req with
      | .core _ => false
      | _ => true }

/-- What a domain that goes off discards or loses (R26, R28, R195, R300, R449). -/
def offEffects (s : State) (d : Fin 32) : State :=
  match d.val with
  | 0 => abortFetch (abandonCommit true none s) 0x30 none
  | 5 =>
    let s1 := (s.ops.filter fun o => tileOp o && !o.left && !o.done).foldl abandonOp s
    discardOps s1 fun o => (List.finRange 16).any (opNames o) || o.left
  | 6 => applyPlaced (discardMemDrains (discardOps (discardDrains s) fun o => o.kind == .bplane || o.kind == .bswap || o.kind == .brun || o.kind == .iclr))
  | 7 => dropTlb (discardOps (discardTransfers s) fun o => o.kind == .smove || o.kind == .idrainM) d
  | 8 => { s with banks := vmap vecGone s.banks }
  | 9 => { s with stall := none, ca := emptyCore s.ca }
  | _ =>
    if 16 ≤ d.val then
      let k := scribeOf d
      let s1 := stopAll s k 0x08
      dropTlb { s1 with placed := s1.placed.map fun p => if p.scribe = k ∧ p.next < p.nt then { p with next := p.nt, faulted := true } else p } d
    else s

/-- The credits that a port gets (R421). -/
def grantPort (p : Port) : Port := if p.up then { p with snoopCr := 32, targetCr := 16 } else p

/-- A port without IREQ credits (R415). -/
def closePort (p : Port) : Port := { p with snoopCr := 0, targetCr := 0 }

/-- The shutdown of a domain, with what it discards; while VELLUM is off or in retention no IREQ credit is granted (R415). -/
def shutDomain (s : State) (d : Fin 32) (dst : DomSt) : State :=
  let s1 := if dst = .off ∧ s.dom[d].st ≠ .off then offEffects s d else s
  let s2 := if d = dVellum ∧ (dst = .off ∨ dst = .retained) then { s1 with port := vmap closePort s1.port } else s1
  setDom s2 d (domSettle (domShut s2.dom[d] dst))

/-- The registers of the CORE domain at their cold-reset values: bank 0 begins in ring 0 at CFG_RESETPC with translation off (R230, R254, R448).
Registers of the always-on and other domains keep their values. -/
def freshCtl (c : Ctl) : Ctl :=
  { ({} : Ctl) with
    ply := c.ply, fwfloor := c.fwfloor, errlast := c.errlast, bthrHost := c.bthrHost, bthrOs := c.bthrOs
    l2En := c.l2En, l2On := c.l2On, l2Busy := c.l2Busy, chkdis := c.chkdis, errinj := c.errinj, qevent := c.qevent
    ipend := c.ipend, msiData := c.msiData, tdirty := c.tdirty, l2Check := c.l2Check }

/-- The banks as they are after CORE has powered up from off: banks 1 to 3 are FREE; the vector groups belong to VEC (R291, R306, R448). -/
def freshBanks (s : State) : Vector Bank 4 :=
  vmapIdx (fun k b => if k = 0 then { v := b.v, m := b.m, st := .run, pc := s.cfg.resetpc } else lostVec (spent s k) { v := b.v, m := b.m }) s.banks

/-- The board's records and planes EMPTY, nothing in flight (R109, R448). -/
def emptyBoard (s : State) : State :=
  { s with bd := { s.bd with
    acc := Vector.replicate 2 {}, accActive := 0, planes := Vector.replicate 2 {}, active := 0, released := true, flight := [], entered := 0 } }

/-- A tile after reset (R64). -/
def freshTile : Variant → Tile
  | .m1024 => { rowsm1 := 0x3FF, rbm1 := 0xF }
  | .m512 => { rowsm1 := 0x1FF, rbm1 := 0x7 }
  | .m256 | .m256np => { rowsm1 := 0x0FF, rbm1 := 0x3 }

/-- The tile file after reset or power-up (R89). -/
def freshTiles (s : State) : State :=
  { s with tiles := Vector.replicate 16 (freshTile s.var), nib := {}, c := { s.c with tdirty := 0 } }

/-- The injected flips of units whose stores are written afresh are gone. -/
def dropSpots (s : State) (units : List Byte) : State := { s with err := { s.err with spots := s.err.spots.filter fun x => !units.contains x.unit } }

/-- The power-up initialisation of a domain (R89, R137, R162, R180, R195, R363, R448). -/
def domInit (s : State) (d : Fin 32) : State :=
  match d.val with
  | 0 => { dropSpots s [0x0B] with
      vellum := [], vellumBad := [], vellumZeroing := true, tal := Vector.replicate 16 {}
      mir := { ({} : Mir) with link := s.mir.link, credits := s.mir.credits, granted := s.mir.granted } }
  | 5 => freshTiles (dropSpots s [0x05, 0x06])
  | 6 => let s1 := emptyBoard (dropSpots s [0x09])
         { s1 with inkZeroing := true, bd := { s1.bd with spareBoard := s1.bd.spare } }
  | 7 => dropTlb { s with sq := Vector.replicate 64 {} } d
  | 8 => { s with banks := vmap (fun b => { b with v := Vector.replicate 32 0, m := Vector.replicate 8 0 }) s.banks }
  | 9 => { dropSpots (spent s 4) [0x02, 0x03] with stall := none, c := freshCtl s.c, banks := freshBanks s, ca := emptyCore s.ca }
  | _ => if 16 ≤ d.val then dropTlb (setScribe s (scribeOf d) { s.scribes[scribeOf d] with threads := [], last := 127 }) d else s

/-- Another domain than VELLUM asks for its clock (R29, R433). -/
def othersClocked (s : State) : Bool := (List.finRange 32).any fun d => d != dVellum && s.dom[d].fclkReq

/-- The shutdown that follows a power-up begins once its initialisation is over; that of VELLUM, once no other domain is clocked
(R29, R445, R449). -/
def followUp (s : State) (d : Fin 32) : State :=
  let x := s.dom[d]
  match x.after with
  | some g => if x.st = .run ∧ x.goal = none ∧ zeroing s d = false ∧ ¬ (d = dVellum ∧ othersClocked s = true) then shutDomain (setDom s d { x with after := none }) d g else s
  | none => s

/-- BOARD enters the retention that a running POWER_SET asks for once it is idle (R449). -/
def retainBoard (s : State) (p : PowerSet) : State :=
  let x := s.dom[dBoard]
  if p.target = 1 ∧ p.mask.getLsbD 6 ∧ x.goal = none ∧ x.after = none ∧ x.st ≠ .off ∧ x.st ≠ .retained ∧ domIdle s dBoard then
    shutDomain s dBoard .retained
  else s

/-- Whether a domain has reached the target of a POWER_SET (R447). -/
def domReached (s : State) (target : Byte) (d : Fin 32) : Bool :=
  if isL2w d then !s.c.l2Busy.getLsbD (l2Group d).val && (l2GroupOn s (l2Group d).val == (target == 2))
  else
    let x := s.dom[d]
    x.goal.isNone && x.after.isNone && !zeroing s d && (match target.toNat with
      | 0 => x.st == .off
      | 1 => x.st == .retained
      | _ => x.st != .off && x.st != .retained)

/-- The domains of a mask. -/
def maskDoms (m : W32) : List (Fin 32) := (List.finRange 32).filter fun d => m.getLsbD d.val

/-- A domain turned on: released from its hold and powered up from off or retention; one that is asleep stays so (R448). -/
def turnOn (s : State) (d : Fin 32) : State :=
  let s1 : State := { s with heldOff := setBit s.heldOff d.val false, heldRet := setBit s.heldRet d.val false }
  if isL2w d then { s1 with c := { s1.c with l2En := setBit s1.c.l2En (l2Group d).val true } }
  else
    let x := s1.dom[d]
    let down : Bool := x.goal = some .off ∨ x.goal = some .retained ∨ (x.goal = none ∧ (x.st = .off ∨ x.st = .retained))
    setDom s1 d (if down then domWake { x with after := none } else { x with after := none })

/-- The shutdown of a domain by POWER_SET: VELLUM stays clocked until every other domain has dropped its clock request (R29, R433). -/
def shutLast (s : State) (d : Fin 32) (dst : DomSt) : State :=
  if d = dVellum ∧ othersClocked s = true ∧ s.dom[d].st = .run ∧ s.dom[d].goal = none then setDom s d { s.dom[d] with after := some dst }
  else shutDomain s d dst

/-- A domain turned off (R449). -/
def turnOff (s : State) (d : Fin 32) : State :=
  let s1 : State := { s with heldOff := setBit s.heldOff d.val true, heldRet := setBit s.heldRet d.val false }
  if isL2w d then { s1 with c := { s1.c with l2En := setBit s1.c.l2En (l2Group d).val false } }
  else shutLast s1 d .off

/-- A domain placed in retention: from off it is first powered up and initialised; BOARD waits until it is idle (R449). -/
def turnRetain (s : State) (d : Fin 32) : State :=
  let s1 : State := { s with heldOff := setBit s.heldOff d.val false, heldRet := setBit s.heldRet d.val true }
  let x := s1.dom[d]
  if x.goal = some .off ∨ (x.goal = none ∧ x.st = .off) then setDom s1 d { domWake x with after := some .retained }
  else if d = dBoard ∨ x.st = .retained then s1
  else shutLast s1 d .retained

/-- The transitions of a POWER_SET begin; the holds of every named domain come first, so that nothing a shutdown reports wakes one of them
(R446 to R449). -/
def applyPower (s : State) (mask : W32) (target : Byte) : State :=
  let (f, s1) : (State → Fin 32 → State) × State := match target.toNat with
    | 0 => (turnOff, { s with heldOff := s.heldOff ||| mask })
    | 1 => (turnRetain, { s with heldRet := s.heldRet ||| mask })
    | _ => (turnOn, s)
  driveGroups ((maskDoms mask).foldl f s1)

/-- A POWER_SET ends when every transition that it named has finished; a UNIT_RESET turns its domain on after it is off (R379, R447). -/
def powerDone (s : State) : State :=
  match s.pset with
  | none => s
  | some p =>
    if (maskDoms p.mask).all (domReached s p.target) then
      if p.unit then
        if p.target = 0 then applyPower { s with pset := some { p with target := 2 } } p.mask 2
        else qevent (complete { s with pset := none } p.cmd stOk 0 []) 6
      else complete { s with pset := none } p.cmd stOk 0 []
    else s

/-- VELLUM is clocked whenever another domain asks for its clock: one that is asleep is woken, and one that is off or in retention is
released from its hold and powered up, since POWER_SET names it for neither while another domain is on (R29, R433, R447; DEDUCED, log 40). -/
def clockVellum (s : State) : State :=
  let x := s.dom[dVellum]
  if othersClocked s = true ∧ x.goal ≠ some .run ∧ ¬ (x.st = .run ∧ x.goal = none) then
    setDom { s with heldOff := setBit s.heldOff 0 false, heldRet := setBit s.heldRet 0 false } dVellum (domWake { x with after := none })
  else s

/-- What follows every event of the power control. -/
def powerPoll (s : State) : State :=
  let s1 := clockVellum ((List.finRange 32).foldl followUp s)
  let s2 := match s1.pset with
    | some p => retainBoard s1 p
    | none => s1
  powerDone s2

/-- FCLK_ACK_CHANGE: the host answers a clock request (R433). -/
def execFclkAckChange (d : Fin 32) (v : Bool) (s : State) : Host.Outcome State Fault Refusal :=
  pinEvent s (setDom s d { s.dom[d] with fclkAck := v }) (
    let x := s.dom[d]
    if domPresent s.var d ∧ v = x.fclkReq ∧ x.fclkAck ≠ v then some (powerPoll (setDom s d (domSettle { x with fclkAck := v }))) else none)

/-- PWR_ACK_CHANGE: the host answers a power request, with the requested value only (R435). -/
def execPwrAckChange (d : Fin 32) (v : BitVec 2) (s : State) : Host.Outcome State Fault Refusal :=
  pinEvent s (setDom s d { s.dom[d] with pwrAck := v }) (
    let x := s.dom[d]
    if domPresent s.var d ∧ v = x.pwrReq ∧ x.pwrAck ≠ v then some (powerPoll (setDom s d (domSettle { x with pwrAck := v }))) else none)

/-- Whether CORE may complete its power-up from off: every other domain of the same POWER_SET has completed (R448). -/
def coreMayStart (s : State) : Bool :=
  match s.pset with
  | some p => p.target != 2 || (maskDoms p.mask).all fun d => d == dCore || domReached s 2 d
  | none => true

/-- DOMAIN_WAKE_COMPLETE: every acknowledgement has come, VELLUM is clocked, and the initialisation of a power-up from off is done or begins
(R28, R29, R448). -/
def execDomainWakeComplete (d : Fin 32) (s : State) : Host.Outcome State Fault Refusal :=
  event s (
    let x := s.dom[d]
    if domPresent s.var d && !isL2w d && domUpAcked x && (d == dVellum || (s.dom[dVellum].st == .run && s.dom[dVellum].goal.isNone))
        && !(d == dCore && x.init && !coreMayStart s) then
      let s1 := if x.init then domInit s d
        else if d = dVellum ∧ x.st = .retained then { s with port := vmap grantPort s.port } else s
      let s2 := powerPoll (setDom s1 d { x with st := .run, goal := none, init := false })
      some (if d = dVellum then grantPartner s2 else s2)
    else none)

/-- VELLUM_ZEROING_COMPLETE: every byte is zero, and the fabric ports offer credits (R162, R456). -/
def execVellumZeroingComplete (s : State) : Host.Outcome State Fault Refusal :=
  event s (if s.vellumZeroing then some (powerPoll { s with vellumZeroing := false, port := vmap grantPort s.port }) else none)

/-- INKWELL_ZEROING_COMPLETE: every entry is zero and board operations proceed (R137). -/
def execInkwellZeroingComplete (s : State) : Host.Outcome State Fault Refusal :=
  event s (if s.inkZeroing then some (powerPoll { s with inkZeroing := false, ink := [], inkBad := [] }) else none)

/-- L2_GROUP_OFF_COMPLETE: the clean is over and the supply is off (R229). -/
def execL2GroupOffComplete (g : Fin 4) (s : State) : Host.Outcome State Fault Refusal :=
  event s (
    if s.c.l2Busy.getLsbD g.val ∧ s.dom[dL2w g].st = .off ∧ s.dom[dL2w g].goal = none then
      some (powerPoll (driveGroups (setBusy { s with c := { s.c with l2On := setBit s.c.l2On g.val false } } g false)))
    else none)

/-- L2_GROUP_ON_COMPLETE: the group has power and its tags are invalid (R229). -/
def execL2GroupOnComplete (g : Fin 4) (s : State) : Host.Outcome State Fault Refusal :=
  event s (
    let x := s.dom[dL2w g]
    if s.c.l2Busy.getLsbD g.val ∧ domUpAcked x then
      let s1 := setDom s (dL2w g) { x with st := .run, goal := none, init := false, after := none }
      some (powerPoll (driveGroups (setBusy { s1 with c := { s1.c with l2On := setBit s1.c.l2On g.val true } } g false)))
    else none)

/-- BOARD_RETAIN_TIMEOUT: BOARD is not idle within 10 ms; the hold is withdrawn, and BOARD stays RUN (R449). -/
def execBoardRetainTimeout (s : State) : Host.Outcome State Fault Refusal :=
  event s (
    match s.pset with
    | some p =>
      if p.target = 1 ∧ p.mask.getLsbD 6 ∧ s.dom[dBoard].st = .run ∧ s.dom[dBoard].goal = none ∧ s.dom[dBoard].after = none ∧ domIdle s dBoard = false then
        some (complete { s with pset := none, heldRet := setBit s.heldRet 6 false } p.cmd stDenied 0x12 [])
      else none
    | none => none)

end Sys2Proof.Machine
end

