-- ==== Sys2Proof/Machine/Update.lean ====
section
/-! DEFINITION. Firmware loading and update: manifests, staging, verification, the commit write and the banks of the class B stores (R392 to R409). -/
namespace Sys2Proof.Machine

/-- Replaces the update session. -/
def setUpd (s : State) (u : Upd) : State := { s with upd := u }

/-- The largest BODYLEN of a class (R392). -/
def classLimit (cls : Byte) : Nat :=
  match cls.toNat with
  | 1 => 196608
  | 2 => 65536
  | 3 => 131072
  | 4 => 32768
  | 16 => 336
  | _ => 0

/-- The bit of CFGS of a configuration (R393). -/
def cfgsBit : Variant → Nat
  | .m1024 => 0
  | .m512 => 1
  | .m256 | .m256np => 2

/-- Bytes that must be zero. -/
def zeros (b : List Byte) (o n : Nat) : Bool := ((b.drop o).take n).all (· == 0)

/-- BODYLEN of a header. -/
def hdrBody (h : List Byte) : Nat := bnat h 24 4
/-- FLOORVER of a header. -/
def hdrFloor (h : List Byte) : Nat := bnat h 12 4
/-- VERSION of a header. -/
def hdrVersion (h : List Byte) : W64 := BitVec.ofNat 64 (bnat h 16 8)

/-- Details 0x40 and 0x41 of a header (R393, R398). -/
def hdrFields (v : Variant) (h : List Byte) : Option Byte :=
  let entry := bnat h 28 4
  let entryOk := if bbyte h 11 = 1 then entry % 4 = 0 && entry < hdrBody h else entry = 0
  if h.length < 512 || bnat h 0 4 != 0x4B51494D || bnat h 4 2 != 1 || bnat h 6 2 != 512 || !zeros h 33 31 || !zeros h 112 272 || !zeros h 480 32
      || !entryOk then some 0x40
  else if bnat h 8 2 != 0x4D01 || !bit (bbyte h 10) (cfgsBit v) then some 0x41
  else none

/-- Whether BODYLEN lies within the limit of its class (R392). -/
def hdrLen (h : List Byte) : Bool := 1 ≤ hdrBody h && hdrBody h ≤ classLimit (bbyte h 11)

/-- Whether the signature verifies under KEYID (R393, log 7). -/
def hdrSig (h : List Byte) : Bool :=
  let key := (bbyte h 32).toNat
  key ≤ 3 && sigValid key (h.take 384) ((h.drop 384).take 96)

/-- A read of the staging window, with the records of what it meets: its bytes, or none where they cannot be read (R227, R364, R397). -/
def windowRead (s : State) (o n : Nat) : State × Option (List Byte) :=
  let a := s.upd.base.toNat + o
  match readCheck s true a n with
  | (s1, none) => (s1, some (cohRead s1 a n))
  | (s1, some _) => (s1, none)

/-- The staged or running copy of a class: its store's index. -/
def storeOf (cls : Byte) : Fin 3 := Fin.ofNat 3 (cls.toNat - 2)

/-- The image of the active SRAM half (R364). -/
def activeHalf (s : State) : Option Image := if s.upd.half then s.upd.halves.2 else s.upd.halves.1

/-- The parts that a manifest body lists (R395). -/
def manParts (b : List Byte) : List Part :=
  (List.range (bnat b 0 4)).map fun k =>
    let e := b.drop (16 + 80 * k)
    { cls := bbyte e 0, woffs := bnat e 4 4, len := bnat e 8 4, floorver := BitVec.ofNat 32 (bnat e 12 4), version := BitVec.ofNat 64 (bnat e 16 8)
      digest := ofBytes 384 ((e.drop 24).take 48) }

/-- Whether an entry of a manifest keeps R395 and its part lies in a window of a length. -/
def partOk (b : List Byte) (win k : Nat) (p : Part) : Bool :=
  let o := 16 + 80 * k
  1 ≤ p.cls.toNat && p.cls.toNat ≤ 4 && zeros b (o + 1) 3 && zeros b (o + 72) 8 && p.woffs % 4096 == 0
    && 513 ≤ p.len && p.len ≤ 512 + classLimit p.cls && p.woffs + p.len ≤ win

/-- Whether a manifest body keeps R395. -/
def manOk (s : State) (b : List Byte) (win : Nat) : Bool :=
  let n := bnat b 0 4
  let ps := manParts b
  let floor := bnat b 4 4
  1 ≤ n && n ≤ 4 && b.length == 16 + 80 * n && zeros b 8 8 && (ps.zipIdx.all fun (p, k) => partOk b win k p)
    && (ps.map (·.cls)).eraseDups.length == n && ps.all (fun p => floor ≤ p.floorver.toNat)
    && (ps.any (·.cls == 1) || (match activeHalf s with
      | some i => floor ≤ i.floorver.toNat
      | none => true))

/-- The chunks of a part (R393). -/
def chunkCount (p : Part) : Nat := (p.len + 4095) / 4096
/-- The chunks present. -/
def chunksPresent (p : Part) : Nat := ((List.range 64).filter (bit p.bitmap)).length
/-- The code of a part's state (R396). -/
def partCode : PartSt → Byte
  | .empty => 0
  | .staging => 1
  | .verified => 2
  | .failed => 3
/-- The code of the session's state (R396). -/
def updCode : UpdSt → Byte
  | .idle => 0
  | .staging => 1
  | .ready => 2
  | .handover => 3
  | .scheduled => 4

/-- The checks that the ROM makes of the image of the active half before it runs it: header, length, floor, digest and signature, and that every word
of it can be read (R386, R387, R407). -/
def imageChecks (s : State) (i : Image) : Bool :=
  let b := spGetAll 0 i.data 0 i.len
  let h := b.take 512
  (hdrFields s.var h).isNone && bbyte h 11 == 1 && hdrLen h && i.len == 512 + hdrBody h && decide (s.c.fwfloor.toNat ≤ hdrFloor h)
    && sha384Bytes (b.drop 512) == (h.drop 64).take 48 && hdrSig h

/-- UPD_BEGIN (R397, R407). -/
def updBeginCmd : Cmd := fun _ r s =>
  let b := r.body
  let base := bnat b 0 8
  let win := bnat b 8 8
  let mo := bnat b 16 4
  let ml := bnat b 20 4
  if s.qu.qstate = .rom ∧ s.cfg.lock = false then refuseCmd stNotready 0x49 s
  else if s.upd.st ≠ .idle ∨ s.upd.oldInUse then refuseCmd stBusy 0x10 s
  else if base % 4096 ≠ 0 ∨ win % 4096 ≠ 0 ∨ 67108864 < win ∨ win < mo + ml then refuseCmd stBadarg 0x06 s
  else
    let s1 := setUpd s { s.upd with base := BitVec.ofNat 64 base }
    match windowRead s1 mo ml with
    | (s2, none) => refuseCmd stDenied 0x4A (setUpd s2 s.upd)
    | (s2, some m) =>
      let s := setUpd s2 s.upd
      match hdrFields s.var m with
      | some d => refuseCmd stBadimage d s
      | none =>
        if bbyte m 11 ≠ 0x10 then refuseCmd stBadimage 0x42 s
        else if hdrLen m = false ∨ m.length ≠ 512 + hdrBody m then refuseCmd stBadimage 0x43 s
        else if hdrSig m = false then refuseCmd stBadimage 0x44 s
        else if hdrFloor m < s.c.fwfloor.toNat then refuseCmd stRollback 0x48 s
        else
          let body := m.drop 512
          if sha384Bytes body ≠ (m.drop 64).take 48 then refuseCmd stBadimage 0x45 s
          else if manOk s body win = false then refuseCmd stBadarg 0x06 s
          else if s.upd.everB = false ∧ (manParts body).length ≠ 4 then refuseCmd stBadimage 0x47 s
          else
            .fin stOk 0 [] (setUpd s { s.upd with
              st := .staging, base := BitVec.ofNat 64 base, winLen := win, newFloor := BitVec.ofNat 32 (bnat body 4 4)
              manDigest := ofBytes 64 ((m.drop 64).take 8), parts := manParts body, ply := 0 })

/-- Replaces part k of the session. -/
def setPart (s : State) (k : Nat) (p : Part) : State := setUpd s { s.upd with parts := s.upd.parts.set k p }

/-- The checks of chunk 0 of a part (R398). -/
def chunk0Fault (s : State) (p : Part) (h : List Byte) : Option (Byte × Byte) :=
  match hdrFields s.var h with
  | some d => some (stBadimage, d)
  | none =>
    if bbyte h 11 ≠ p.cls ∨ hdrFloor h ≠ p.floorver.toNat ∨ hdrVersion h ≠ p.version ∨ 512 + hdrBody h ≠ p.len then some (stBadimage, 0x42)
    else if hdrLen h = false then some (stBadimage, 0x43)
    else if hdrFloor h < s.c.fwfloor.toNat then some (stRollback, 0x48)
    else if hdrSig h = false then some (stBadimage, 0x44)
    else none

/-- The session is READY once every part is VERIFIED (R399). -/
def settleSession (s : State) : State :=
  if s.upd.st = .staging ∧ s.upd.parts.all (·.st == .verified) then setUpd s { s.upd with st := .ready } else s

/-- The verification of a part whose last chunk has come (R399). -/
def verifyPart (s : State) (k : Nat) (p : Part) : Byte × Byte × State :=
  let bytes := spGetAll 0 p.data 0 p.len
  let failed (d : Byte) := (stBadimage, d, setPart s k { p with st := .failed, bitmap := 0, data := [] })
  if sha384Bytes (bytes.drop 512) ≠ (bytes.drop 64).take 48 then failed 0x45
  else if sha384 bytes ≠ p.digest then failed 0x46
  else (stOk, 0, settleSession (setPart s k { p with st := .verified }))

/-- Copies chunk c of part k into the staged copy (R398, R399). -/
def copyChunk (s : State) (k c : Nat) (p : Part) : Byte × Byte × State :=
  if bit p.bitmap c then (stOk, 0, s)
  else if c ≠ 0 ∧ (p.st = .empty ∨ p.st = .failed) then (stNotready, 0x49, s)
  else match windowRead s (p.woffs + 4096 * c) (min 4096 (p.len - 4096 * c)) with
    | (s, none) => (stDenied, 0x4A, s)
    | (s, some bs) =>
      match (if c = 0 then chunk0Fault s p (bs.take 512) else none) with
      | some (st, d) => (st, d, setPart s k { p with st := .empty })
      | none =>
        let p1 := { p with st := .staging, bitmap := setBit p.bitmap c true, data := spSetAll 0 p.data (4096 * c) bs }
        let s1 := setPart s k p1
        if chunksPresent p1 = chunkCount p1 then verifyPart s1 k p1 else (stOk, 0, s1)

/-- The results of UPD_CHUNK (R398). -/
def chunkResults (s : State) (k : Nat) : List Byte :=
  match s.upd.parts[k]? with
  | some p => [partCode p.st, BitVec.ofNat 8 (chunkCount p), BitVec.ofNat 8 (chunksPresent p), 0]
  | none => []

/-- Copies chunks in order until one fails (R400). -/
def copyChunks (k : Nat) : List Nat → State → Byte × Byte × State
  | [], s => (stOk, 0, s)
  | c :: cs, s =>
    match s.upd.parts[k]? with
    | none => (stBadarg, 0x06, s)
    | some p =>
      match copyChunk s k c p with
      | (st, d, s1) => if st = stOk then copyChunks k cs s1 else (st, d, s1)

/-- Whether UPD_CHUNK asks for every missing chunk (R400). -/
def chunkAll (r : Req) : Bool := bnat r.body 4 4 == 0xFFFFFFFF

/-- UPD_CHUNK (R398, R400). -/
def updChunkCmd : Cmd := fun id r s =>
  let k := (bbyte r.body 0).toNat
  let c := bnat r.body 4 4
  if s.upd.st = .idle then refuseCmd stNotready 0x49 s
  else match s.upd.parts[k]? with
    | none => refuseCmd stBadarg 0x06 s
    | some p =>
      if s.upd.alls.any (·.1 == k) then refuseCmd stBusy 0x10 s
      else if chunkAll r then .acc (setUpd s { s.upd with alls := s.upd.alls ++ [(k, id)] })
      else if chunkCount p ≤ c then refuseCmd stBadarg 0x06 s
      else match copyChunk s k c p with
        | (st, d, s1) => .fin st d (chunkResults s1 k) s1

/-- A request for every missing chunk ends (R400). -/
def endChunkAll (s : State) (k id : Nat) (st det : Byte) : State :=
  complete (setUpd s { s.upd with alls := s.upd.alls.filter (·.2 != id) }) id st det (chunkResults s k)

/-- UPD_CHUNK_ALL_COMPLETE: the oldest running request for every missing chunk has copied them (R400). -/
def execUpdChunkAllComplete (s : State) : Host.Outcome State Fault Refusal :=
  event s (
    match s.upd.alls with
    | [] => none
    | (k, id) :: _ =>
      if (s.qu.active.any (·.id == id)) = false then none
      else match s.upd.parts[k]? with
        | none => none
        | some p =>
          match copyChunks k ((List.range (chunkCount p)).filter fun c => !bit p.bitmap c) s with
          | (st, d, s1) => some (endChunkAll s1 k id st d))

/-- The missing chunks of a part that a request copies before the one at a physical address; none where no missing chunk lies there (R400). -/
def chunksBefore (s : State) (p : Part) (pa : Nat) : List Nat :=
  let missing := (List.range (chunkCount p)).filter fun c => !bit p.bitmap c
  let at_ (c : Nat) : Bool := s.upd.base.toNat + p.woffs + 4096 * c == pa / 4096 * 4096
  if missing.any at_ then missing.takeWhile fun c => !at_ c else []

/-- A read of the staging window fails: the running UPD_BEGIN or UPD_CHUNK ends as DENIED 0x4A; of a request for every missing chunk, the chunks
copied before stay recorded (R397, R398, R400, R414). -/
def dmaFail (s : State) (pa : Nat) : State :=
  match s.qu.cur with
  | some r =>
    if r.op = 0x60 ∨ (r.op = 0x61 ∧ chunkAll r = false) then
      answer (setQu s { s.qu with cur := none }) r false stDenied 0x4A (if r.op = 0x61 then chunkResults s (bbyte r.body 0).toNat else [])
    else s
  | none =>
    match s.upd.alls with
    | (k, id) :: _ =>
      match copyChunks k (match s.upd.parts[k]? with
        | some p => chunksBefore s p pa
        | none => []) s with
      | (st, d, s1) => if st = stOk then endChunkAll s1 k id stDenied 0x4A else endChunkAll s1 k id st d
    | [] => s

/-- UPD_STATUS (R401). -/
def updStatusCmd : Cmd := fun _ r s =>
  let u := s.upd
  let k := (bbyte r.body 0).toNat
  if k = 0xFF then
    let parts := (List.range 4).flatMap fun i =>
      match u.parts[i]? with
      | some p => [partCode p.st, BitVec.ofNat 8 (chunkCount p), BitVec.ofNat 8 (chunksPresent p), (0 : Byte)]
      | none => [0, 0, 0, 0]
    let vers := u.stores.toList.flatMap fun st => toBytes 8 (match st.active with
      | some i => i.version
      | none => (0 : W64))
    .fin stOk 0 ([updCode u.st, BitVec.ofNat 8 u.parts.length, 0, 0] ++ toBytes 4 s.c.fwfloor
      ++ toBytes 8 (if u.st = .scheduled then u.ply else 0) ++ toBytes 8 u.manDigest ++ parts ++ vers) s
  else match u.parts[k]? with
    | none => refuseCmd (if u.st = .idle then stNotready else stBadarg) (if u.st = .idle then 0x49 else 0x06) s
    | some p =>
      .fin stOk 0 ([partCode p.st, BitVec.ofNat 8 (chunkCount p), BitVec.ofNat 8 (chunksPresent p), p.cls] ++ toBytes 8 p.bitmap
        ++ toBytes 8 p.version ++ toBytes 4 p.floorver) s

/-- A session that is over. -/
def idleSession (u : Upd) : Upd :=
  { u with st := .idle, parts := [], base := 0, winLen := 0, newFloor := 0, manDigest := 0, ply := 0, oldOps := [], oldDescs := [], oldInUse := false
           handover := none }

/-- The image of a part. -/
def imageOf (p : Part) : Image := ⟨p.len, p.floorver, p.version, p.data⟩

/-- The other SRAM half becomes active with an image (R404). -/
def flipHalf (u : Upd) (i : Image) : Upd :=
  { u with half := !u.half, halves := if u.half then (some i, u.halves.2) else (u.halves.1, some i) }

/-- Whether a word of the quill SRAM lies in the active half (R364). -/
def inActiveHalf (u : Upd) (w : Nat) : Bool := (w / 32768 == 1) == u.half

/-- The parts of class B of the session. -/
def classBParts (u : Upd) : List Part := u.parts.filter (·.cls != 1)

/-- The commit write but for the end of the session: the active half, whose words the staging has written, the armed stores, the floor
(R386, R394, R404). -/
def commitStores (s : State) : State :=
  let u := s.upd
  let u1 := match u.parts.find? (·.cls == 1) with
    | some p => flipHalf u (imageOf p)
    | none => u
  let arm (v : Vector BStore 3) (p : Part) : Vector BStore 3 :=
    let k := storeOf p.cls
    v.set k.val { v[k] with inactive := some (imageOf p), armed := true } k.isLt
  { s with
    c := { s.c with fwfloor := BitVec.ofNat 32 (max s.c.fwfloor.toNat u.newFloor.toNat) }
    qu := { s.qu with sramBad := s.qu.sramBad.filter fun w => !(u.parts.any (·.cls == 1) && inActiveHalf u1 w) }
    upd := { u1 with stores := (classBParts u).foldl arm u1.stores } }

/-- The commit write for a scheduled ply (R404). -/
def commitWrite (s : State) (ply : W64) : State :=
  let s1 := commitStores s
  if (classBParts s.upd).isEmpty then setUpd s1 (idleSession s1.upd)
  else qevent (setUpd s1 { s1.upd with st := .scheduled, ply := ply, handover := none }) 2

/-- A store exchanges its banks (R404). -/
def exchange (b : BStore) : BStore := if b.armed then { active := b.inactive, inactive := b.active, armed := false } else b

/-- The commit write with immediate effect of the first activation after cold reset (R407): no bank is still in use, and the session is over. -/
def commitNow (s : State) : State :=
  let s1 := commitStores s
  setUpd s1 { idleSession s1.upd with stores := vmap exchange s1.upd.stores, everB := true }

/-- Whether an operation counts for the banks active before an activation: the tile, board and stream operations (R402). -/
def usesBanks (o : Op) : Bool := o.kind != .remap

/-- Descriptors of a work ring that are published and not posted (R189). -/
def unposted (s : State) (w : RingNum) : List (RingNum × BitVec 16) :=
  let r := s.rings[w]
  (List.range (r.tail - r.done).toNat).map fun i => (w, r.done + BitVec.ofNat 16 i)

/-- Step 3 of R24 for the class B parts, at a PLYC whose new ply is n: every armed store whose ply has come exchanges its banks (R402, R404). -/
def activateAt (s : State) (n : W64) : State :=
  if s.upd.stores.toList.any (·.armed) ∧ s.upd.ply ≤ n then
    setUpd s { s.upd with
      stores := vmap exchange s.upd.stores, everB := true, oldInUse := true
      oldOps := (s.ops.filter usesBanks).map (·.id), oldDescs := (List.finRange 32).flatMap (unposted s) }
  else s

/-- UPDATE_BANKS_RELEASED: every operation accepted before the activating PLYC is complete, and the session is IDLE (R402, R404). -/
def execUpdateBanksReleased (s : State) : Host.Outcome State Fault Refusal :=
  event s (
    let opsDone := !(s.ops.any fun o => s.upd.oldOps.contains o.id)
    let descsDone := s.upd.oldDescs.all fun d => !(unposted s d.1).contains d
    if s.upd.oldInUse ∧ opsDone ∧ descsDone then some (setUpd s (idleSession s.upd)) else none)

/-- UPD_ABORT (R402). Running requests for missing chunks end with the session. -/
def updAbortCmd : Cmd := fun _ _ s =>
  let discard := s.upd.alls.foldl (fun s p => endChunkAll s p.1 p.2 stNotready 0x49) (setUpd s (idleSession s.upd))
  match s.upd.st with
  | .idle => .fin stOk 0 [] s
  | .staging | .ready => .fin stOk 0 [] discard
  | .handover => refuseCmd stBusy 0x10 s
  | .scheduled =>
    if s.upd.oldInUse ∨ s.upd.parts.any (·.cls == 1) then refuseCmd stDenied 0x12 s
    else
      let stores := vmap (fun b => if b.armed then { b with inactive := none, armed := false } else b) s.upd.stores
      .fin stOk 0 [] (setUpd s { idleSession s.upd with stores := stores })

/-- The classes that UPD_ACTIVATE names, as the session's parts give them: class A, class B. -/
def sessionClasses (s : State) : Nat :=
  (if s.upd.parts.any (·.cls == 1) then 1 else 0) + (if s.upd.parts.any (·.cls != 1) then 2 else 0)

/-- The checks of UPD_ACTIVATE (R403, R407). -/
def activateFault (r : Req) (s : State) : Option (Byte × Byte) :=
  let bits := (bbyte r.body 0).toNat
  let ply : W64 := BitVec.ofNat 64 (bnat r.body 8 8)
  if s.upd.st ≠ .ready then some (stNotready, 0x49)
  else if s.upd.everB = false then (if bits = 3 ∧ sessionClasses s = 3 ∧ ply = 0 then none else some (stBadarg, 0x06))
  else if bits ≠ sessionClasses s then some (stBadarg, 0x06)
  else if 2 ≤ bits ∧ ply ≤ s.c.ply then some (stBadarg, 0x06)
  else if bits % 2 = 1 ∧ s.qu.qstate = .run ∧ s.qu.active.any (fun a => !Config.carries a.req.op) then some (stBusy, 0x10)
  else none

end Sys2Proof.Machine
end

