-- ==== Sys2Proof/Machine/Quill.lean ====
section
/-! DEFINITION. The quill: the mailboxes, the commands of its table, its components, its watchdog, and its restarts with the replay of the blotter (R326, R364 to R391, R447, R450). -/
namespace Sys2Proof.Machine

/-- Sets SCHG, as a change of QSTATE, QUILLDOWN or EPOCH does (R368). -/
def setSchg (s : State) : State := setQu s { s.qu with schg := true }

/-- The version that a HELLO range and the firmware's range, 1.0 alone, both contain (R371, R376, R406). -/
def chosenVersion (b : List Byte) : Option (Byte × Byte) :=
  let v (o : Nat) : Nat := 256 * (bbyte b o).toNat + (bbyte b (o + 1)).toNat
  if v 0 ≤ 0x100 ∧ 0x100 ≤ v 2 then some (1, 0) else none

/-- The version of the running image; the ROM reports 0 (R376, R406). -/
def runningVersion (s : State) : W64 :=
  if s.qu.qstate = .run then (match activeHalf s with
    | some i => i.version
    | none => 0) else 0

/-- The results of HELLO (R376). -/
def helloResults (s : State) (vmaj vmin : Byte) : List Byte :=
  [vmaj, vmin, 1, 0, 1, 0, 0, 0] ++ toBytes 8 (runningVersion s) ++ [s.qu.epoch, 0, 0, 0] ++ toBytes 4 s.cfg.coreid

/-- HELLO (R376). Its host tag goes to the trace buffer only. -/
def helloCmd : Cmd := fun _ r s =>
  let s := setQu s { s.qu with trace := s.qu.trace ++ [.hello (BitVec.ofNat 32 (bnat r.body 4 4))] }
  let q := s.qu
  let c := chosenVersion r.body
  if q.hello ∧ q.active ≠ [] ∧ c ≠ some (q.vmaj, q.vmin) then .hello q.vmaj q.vmin stBusy 0x10 (helloResults s q.vmaj q.vmin) s
  else match c with
    | some (a, b) => .hello a b stOk 0 (helloResults s a b) (setQu s { q with hello := true, vmaj := a, vmin := b })
    | none => .hello 0 0 stBadver 0x03 (helloResults s 0 0) (setQu s { q with hello := false, vmaj := 0, vmin := 0 })

/-- The value of a CONFIG key; none: an unknown key (R379, R451). -/
def configValue (s : State) (k : Nat) : Option W64 :=
  let c := s.cfg
  match k with
  | 0x0 => some (c.coreid.setWidth 64)
  | 0x1 => some (c.partner.setWidth 64)
  | 0x2 => some c.vellumbase
  | 0x3 => some c.mgmtbase
  | 0x4 => some c.resetpc
  | 0x5 => some (c.options.setWidth 64)
  | 0x6 => some (c.floor.setWidth 64)
  | 0x7 => some (c.sparemap[1] ++ c.sparemap[0])
  | 0x8 => some (c.sparemap[3] ++ c.sparemap[2])
  | 0x9 => some (c.fabric.setWidth 64)
  | 0xA => some (placeB 64 c.lock 0)
  | 0x200 => some s.qu.spareAdv
  | 0x201 => some (s.qu.qmask.setWidth 64)
  | _ =>
    if k < 0x10 then some 0
    else if h : 0x100 ≤ k ∧ k < 0x120 then
      let d : Fin 32 := ⟨k - 0x100, by omega⟩
      if domPresent s.var d then some (s.qu.thr[d].setWidth 64) else none
    else none

/-- The threshold that a written value stores (R444). -/
def thrStored (v : W64) : W32 := BitVec.ofNat 32 (min 10000000 v.toNat)

/-- CONFIG_SET (R379, R381, R383, R444). -/
def configSetCmd : Cmd := fun _ r s =>
  let k := bnat r.body 0 2
  let v : W64 := BitVec.ofNat 64 (bnat r.body 8 8)
  let q := s.qu
  match configValue s k with
  | none => refuseCmd stBadarg 0x06 s
  | some _ =>
    let stored (x : W64) (s1 : State) : CmdOut := .fin stOk 0 (toBytes 8 x) s1
    if k < 0x10 then refuseCmd stDenied 0x12 s
    else if k = 0x200 then stored v (setQu s { q with spareAdv := v })
    else if k = 0x201 then stored (v &&& 0x7F) (setQu s { q with qmask := v.setWidth 7 })
    else
      let d : Fin 32 := Fin.ofNat 32 (k - 0x100)
      stored ((thrStored v).setWidth 64) (setQu s { q with thr := q.thr.set d.val (thrStored v) d.isLt })

/-- CONFIG_GET (R379). -/
def configGetCmd : Cmd := fun _ r s =>
  match configValue s (bnat r.body 0 2) with
  | none => refuseCmd stBadarg 0x06 s
  | some v => .fin stOk 0 (toBytes 8 v) s

/-- Whether a domain would be off after a POWER_SET: off by its hold or by L2WAYCTL, or named for OFF (R29, R447). -/
def offAfter (s : State) (mask : W32) (target : Nat) (d : Fin 32) : Bool :=
  if mask.getLsbD d.val then target == 0
  else s.heldOff.getLsbD d.val || !domPresent s.var d || (isL2w d && !s.c.l2En.getLsbD (l2Group d).val)

/-- The checks of POWER_SET (R447). -/
def powerFault (s : State) (mask : W32) (target : Nat) : Option (Byte × Byte) :=
  let named := maskDoms mask
  let off := offAfter s mask target
  if mask = 0 ∨ mask &&& ~~~ (presentMask s.var) ≠ 0 ∨ 2 < target ∨ (target = 1 ∧ named.any (fun d => d != dVellum && d != dBoard)) then
    some (stBadarg, 0x06)
  else if mask.getLsbD 0 ∧ target ≠ 2 ∧ !((List.finRange 32).all fun d => d == dVellum || off d) then some (stBadarg, 0x06)
  else if [1, 2, 3, 4].all (fun d : Fin 32 => off d) ∧ (List.finRange 32).any (fun d => (d == dCore || d == dStream || 16 ≤ d.val) && !off d) then
    some (stBadarg, 0x06)
  else if s.pset.isSome then some (stBusy, 0x10)
  else none

/-- POWER_SET (R447 to R449). -/
def powerSetCmd : Cmd := fun id r s =>
  let mask : W32 := BitVec.ofNat 32 (bnat r.body 0 4)
  let target := bbyte r.body 4
  match powerFault s mask target.toNat with
  | some (st, d) => refuseCmd st d s
  | none => .acc (applyPower { s with pset := some ⟨mask, target, id, false⟩ } mask target)

/-- POWER_GET (R379, R446). -/
def powerGetCmd : Cmd := fun _ _ s => .fin stOk 0 ((List.range 16).flatMap fun i => toBytes 4 (powerWord s (0xC000 + 4 * i))) s

/-- THROTTLE_SET (R450). -/
def throttleSetCmd : Cmd := fun _ r s => .fin stOk 0 [] (qevent { s with c := { s.c with bthrHost := bbyte r.body 0 } } 0)

/-- Whether sequence number a comes at or after b, in the wrapping order of the log. -/
def seqFrom (a b : W32) : Bool := (a - b).toNat < 2 ^ 31

/-- ERRLOG_READ (R379). With no record to return, the sequence number is a free value. -/
def errlogReadCmd : Cmd := fun _ r s =>
  let first : W32 := BitVec.ofNat 32 (bnat r.body 0 4)
  let n := (bbyte r.body 4).toNat
  if n = 0 ∨ 7 < n then refuseCmd stBadarg 0x06 s
  else
    let recs := (s.qu.log.filter fun p => !p.freed && seqFrom p.seq first).take n
    let (open_, s1) := draw 32 s
    let seq := (recs.head?.map (·.seq)).getD open_
    .fin stOk 0 (toBytes 4 seq ++ [BitVec.ofNat 8 recs.length, if s.qu.logLost.isSome then 1 else 0, 0, 0] ++ recs.flatMap fun p => toBytes 32 p.val)
      (if recs.isEmpty then s1 else s)

/-- ERRLOG_CLEAR: the records up to a sequence number are freed; they stay in the ring until they are overwritten (R379, R382). -/
def errlogClearCmd : Cmd := fun _ r s =>
  let upTo : W32 := BitVec.ofNat 32 (bnat r.body 0 4)
  .fin stOk 0 [] (setQu s { s.qu with log := s.qu.log.map fun p => if seqFrom upTo p.seq then { p with freed := true } else p })

/-- The reset value of a scrub interval, in sc per step (R327). -/
def intervalReset (k : Fin 5) : W32 := ({} : ErrSys).interval[k]

/-- SCRUB_CTRL (R327, R338, R379). A pass of the tile file or of the inkwell is given the credits that it needs. -/
def scrubCmd : Cmd := fun id r s =>
  let b := r.body
  let v : W32 := BitVec.ofNat 32 (bnat b 4 4)
  if h : (bbyte b 0).toNat < 5 then
    let k : Fin 5 := ⟨(bbyte b 0).toNat, h⟩
    let e := s.err
    match (bbyte b 1).toNat with
    | 0 =>
      if v = 0 then refuseCmd stBadarg 0x06 s
      else .fin stOk 0 [] { s with err := { e with interval := e.interval.set k.val v k.isLt, chkoff := e.chkoff || intervalReset k < v } }
    | 1 => .fin stOk 0 [] { s with err := { e with interval := e.interval.set k.val (intervalReset k) k.isLt } }
    | 2 =>
      if e.pass[k].isSome then refuseCmd stBusy 0x10 s
      else
        let n := passSteps s.var k
        .acc { s with err := { e with
          pass := e.pass.set k.val (some (n, id)) k.isLt
          credTile := if k = 2 then n else e.credTile, credInk := if k = 3 then n else e.credInk } }
    | _ => refuseCmd stBadarg 0x06 s
  else refuseCmd stBadarg 0x06 s

/-- The spare of a logical file in the current map, or in a remap that waits (R112). -/
def spareOf (s : State) (f : BitVec 10) : Option (Fin 8) :=
  let waiting := (s.ops.filter fun o => o.kind == .remap).flatMap (·.remap) ++ s.bd.remaps
  match (waiting.find? fun p => p.2 == f).map (·.1) with
  | some k => some k
  | none => (List.finRange 8).find? fun k => s.bd.spare[k] == some f

/-- The spares in no use, in the map or by a remap that waits (R112). -/
def freeSpares (s : State) : List (Fin 8) :=
  let waiting := (s.ops.filter fun o => o.kind == .remap).flatMap (·.remap) ++ s.bd.remaps
  (List.finRange 8).filter fun k => k.val < spareCount s.var && s.bd.spare[k].isNone && !waiting.any (·.1 == k)

/-- The spare advice of a file starts again when a FILE_SPARE of it completes (R383). -/
def clearAdvice (s : State) (f : Nat) : State := setQu s { s.qu with advice := s.qu.advice.filter (·.1 != f) }

/-- FILE_SPARE (R112, R379). Which free spare an open choice takes is a free value. -/
def fileSpareCmd : Cmd := fun _ r s =>
  let f := bnat r.body 0 2
  let k := (bbyte r.body 2).toNat
  if boardB s.var ≤ f ∨ (spareCount s.var ≤ k ∧ k ≠ 0xFF) then refuseCmd stBadarg 0x06 s
  else
    let file : BitVec 10 := BitVec.ofNat 10 f
    match spareOf s file with
    | some j => .accEnd stOk 0 [BitVec.ofNat 8 j.val] (clearAdvice s f)
    | none =>
      let (x, s1) := draw 8 s
      let l := freeSpares s
      let pick : Option (Fin 8) := if k = 0xFF then l[x.toNat % l.length]? else l.find? fun j => j.val == k
      match pick with
      | none => refuseCmd stDenied 0x12 s
      | some j =>
        let s2 := if k = 0xFF then s1 else s
        .acc (qevent { s2 with bd := { s2.bd with remaps := s2.bd.remaps ++ [(j, file)] } } 1)

/-- JOURNAL_READ (R379, R386). -/
def journalReadCmd : Cmd := fun _ r s =>
  let i := bnat r.body 0 2
  let n := (bbyte r.body 2).toNat
  if 1024 ≤ i ∨ n = 0 ∨ 7 < n then refuseCmd stBadarg 0x06 s
  else
    let s1 := (List.range n).foldl (fun s j => keeperRead s (BitVec.ofNat 10 (i + j))) s
    .fin stOk 0 (toBytes 4 (bltHeadWord s) ++ [BitVec.ofNat 8 n, 0, 0, 0]
      ++ (List.range n).flatMap fun j => toBytes 32 (spGet 0 s1.qu.blot ((i + j) % 1024))) s1

/-- A command that reaches the VELLUM domain over the bridge: off or retained, it is denied; asleep, the domain is woken (R28, log 33). -/
def throughBridge (f : Cmd) : Cmd := fun id r s =>
  match domUse s dVellum with
  | .off => refuseCmd stDenied 0x12 s
  | .asleep => f id r (wakeRequest s dVellum)
  | .ready => f id r s

/-- TALLY_CFG (R316, R379). -/
def tallyCfgCmd : Cmd := throughBridge fun _ r s =>
  let b := r.body
  if h : (bbyte b 0).toNat < 16 then
    let u : TallyNum := ⟨(bbyte b 0).toNat, h⟩
    let m := bbyte b 1
    let s1 := if bit m 1 then writeTalkbase s u (BitVec.ofNat 64 (bnat b 12 8)) true else s
    let s2 := if bit m 0 then writeTalsrc s1 u (BitVec.ofNat 64 (bnat b 4 8)) true else s1
    .fin stOk 0 [] (if bit m 3 then setTally s2 u { s2.tal[u] with qlock := bit m 2 } else s2)
  else refuseCmd stBadarg 0x06 s

/-- n bins of a snapshot from bin i on, 5 bytes each. -/
def snapBins (x : Tally) (i n : Nat) : List Byte := (List.range n).flatMap fun j => toBytes 5 (spGet 0 x.snap.hist (i + j))

/-- Bytes of a key entry as TALLY_READ returns them: an entry of another ply is empty (R380). -/
def keyBytes (s : State) (x : Tally) (k o n : Nat) : List Byte :=
  let ply := x.sply - 1
  let e := keyEntry x ply k
  if vellum64 s (e + 0x18) = ply then spGetAll 0 s.vellum (e + o) n
  else
    let h := emptyHeader (talFp x.src) e ply
    ((toBytes 8 h.d0 ++ toBytes 8 h.d1 ++ toBytes 8 h.d2 ++ toBytes 8 h.d3 ++ List.replicate 256 0).drop o).take n

/-- The bytes of a part of TALLY_READ after the label (R380). -/
def tallyPart (s : State) (x : Tally) (part k : Nat) : List Byte :=
  match part with
  | 0 => toBytes 4 x.snap.mn ++ toBytes 4 x.snap.mx ++ toBytes 8 (talRegWord x.snap 3) ++ toBytes 8 x.snap.sum ++ toBytes 4 x.snap.drop
      ++ toBytes 4 (talStat x) ++ snapBins x 0 32
  | 1 => snapBins x 32 32
  | 2 => keyBytes s x k 0 0xA0
  | _ => keyBytes s x k 0xA0 0x80

/-- TALLY_READ (R380). -/
def tallyReadCmd : Cmd := throughBridge fun _ r s =>
  let b := r.body
  let part := (bbyte b 1).toNat
  let k := bnat b 2 2
  if h : (bbyte b 0).toNat < 16 then
    let x := s.tal[(bbyte b 0).toNat]
    if 3 < part ∨ (2 ≤ part ∧ (x.keyed = false ∨ talKeys x ≤ k)) then refuseCmd stBadarg 0x06 s
    else .fin stOk 0 (toBytes 8 x.sply ++ tallyPart s x part k) s
  else refuseCmd stBadarg 0x06 s

/-- A mirror command of a core with the partner port (R5). -/
def withPartner (f : Cmd) : Cmd := fun id r s => if hasPartner s.var then throughBridge f id r s else refuseCmd stDenied 0x12 s

/-- MIRROR_CFG (R345 to R348, R362, R379). -/
def mirrorCfgCmd : Cmd := withPartner fun _ r s =>
  let b := r.body
  let dw (o : Nat) : W64 := BitVec.ofNat 64 (bnat b o 8)
  let m := bbyte b 2
  if s.mir.st ≠ .idle then refuseCmd stBusy 0x10 s
  else
    let s0 := setMir s { s.mir with out := [] }
    let s1 := ((List.finRange 16).filter fun k => bit (bbyte b (k.val / 8)) (k.val % 8)).foldl (fun s k => mircfgWrite s k (dw (28 + 8 * k.val))) s0
    let s2 := if bit m 1 then mirmapWrite s1 (dw 12) else s1
    let s3 := if bit m 2 then mirresvWrite s2 (dw 20) else s2
    let s4 := if bit m 0 then mirAdvance (mirctlWrite s3 (dw 4)) else s3
    let s5 := if bit m 4 then setMir s4 { s4.mir with qlock := bit m 3 } else s4
    .fin stOk 0 (toBytes 8 (mirstatWord s5)) s5

/-- The fetch or verify that a command starts (R359, R360, R425). -/
def beginFetch (s : State) (verify : Bool) (rmask : BitVec 16) (want : BitVec 2) (setPly : Bool) (id : Nat) : State :=
  mirAdvance (setMir s { s.mir with
    st := if verify then .verify else .fetch, out := []
    fetch := some { verify := verify, rmask := rmask, want := want, setPly := setPly, got := none, copied := 0, compared := 0, skipped := 0,
                    differing := [], cmd := id } })

/-- The result of a fetch from PRIMARY: nothing is copied; the generation and its PLY are free values (R359, R379, log 6). -/
def primaryResults (s : State) : State × List Byte :=
  let (x, s1) := draw 8 s
  let (y, s2) := draw 64 s1
  (s2, x :: 0 :: 0 :: 0 :: toBytes 8 y ++ toBytes 4 (0 : W32))

/-- MIRROR_FETCH (R359, R379). -/
def mirrorFetchCmd : Cmd := withPartner fun id r s =>
  let b := r.body
  let rmask : BitVec 16 := BitVec.ofNat 16 (bnat b 0 2)
  let src := (bbyte b 2).toNat
  let gen := (bbyte b 3).toNat
  if 1 < src ∨ 2 < gen ∨ 1 < (bbyte b 4).toNat then refuseCmd stBadarg 0x06 s
  else if s.mir.st ≠ .idle then refuseCmd stBusy 0x10 s
  else if src = 0 then
    let (s1, res) := primaryResults (setBothBits s (maskGranules (localCounts s) rmask))
    .accEnd stOk 0 res (qevent s1 3)
  else .acc (beginFetch s false rmask (BitVec.ofNat 2 gen) (bbyte b 4 == 1) id)

/-- MIRROR_VERIFY (R360). A replay takes up a verify that still runs (log 33). -/
def mirrorVerifyCmd : Cmd := withPartner fun id r s =>
  let again := match s.mir.fetch with
    | some f => f.verify && !(s.qu.active.any (·.id == f.cmd))
    | none => false
  if s.mir.st ≠ .idle ∧ again = false then refuseCmd stBusy 0x10 s
  else .acc (beginFetch s true (BitVec.ofNat 16 (bnat r.body 0 2)) 0 false id)

/-- STATE and PLY of a record of the reserve as MIRROR_STATUS reports them (R379). -/
def recordStatus (s : State) (gen : Bool) : List Byte :=
  let b := cohRead s (resvRecord s gen) 128
  [if recValid b s.cfg.partner then 2 else 0, 0, 0, 0, 0, 0, 0, 0] ++ (b.drop 16).take 8

/-- MIRROR_STATUS (R5, R362, R379). -/
def mirrorStatusCmd : Cmd := fun id r s =>
  if hasPartner s.var then
    throughBridge (fun _ _ s => .fin stOk 0 (toBytes 8 (mirctlWord s) ++ toBytes 8 (mirstatWord s) ++ toBytes 8 s.mir.last ++ toBytes 8 s.mir.resv
      ++ recordStatus s false ++ recordStatus s true) s) id r s
  else .fin stOk 0 (List.replicate 64 0) s

/-- The domain of a UNIT_RESET unit 0x01 to 0x14 (R379). -/
def unitDom (v : Variant) (u : Nat) : Option (Fin 32) :=
  if 1 ≤ u ∧ u ≤ scribeCount v then some (Fin.ofNat 32 (15 + u))
  else match u with
    | 0x11 => some dStream
    | 0x12 => some dTile
    | 0x13 => some dBoard
    | 0x14 => some dVec
    | _ => none

/-- The work that the components direct stops with the quill, and a handover fails (R387, R405). -/
def stopDirecting (s : State) : State :=
  let u := s.upd
  { s with
    pset := none
    err := { s.err with pass := Vector.replicate 5 none }
    upd := { u with alls := [], handover := none, st := if u.st = .handover then .ready else u.st } }

/-- A restart of the quill begins (R387): QSTATE, HELLO, and the requests and responses that are lost (R389). -/
def beginRestart (s : State) : State :=
  let q := s.qu
  let held := match q.cur with
    | some r => if r.entry.isSome then [(⟨q.nextCmd, r, false⟩ : Active)] else []
    | none => []
  stopDirecting (setQu s { q with
    qstate := .restart, schg := true, hello := false, vmaj := 0, vmin := 0, cur := none, active := q.active ++ held, nextCmd := q.nextCmd + 1
    outbox := Vector.replicate 4 [], wdog := 0, replaying := false })

/-- A start has failed: RCOUNT advances, and the third failure sets QUILLDOWN (R388). -/
def failStart (s0 : State) : State :=
  let s := stopDirecting (setQu s0 { s0.qu with replaying := false })
  let n := s.qu.rcount.toNat + 1
  if n < 3 then setQu s { s.qu with rcount := BitVec.ofNat 2 n }
  else qevent (setQu s { s.qu with rcount := 3, down := true, qstate := .rom, schg := true }) 5

/-- Sc in one second. -/
def oneSecond : Nat := 100000000

/-- A restart trigger (R387, R388): counted, a trigger within 1 s after RUN is a failed start. A quill that is down stays in its ROM. -/
def restartQuill (counted : Bool) (s : State) : State :=
  let soon := counted && s.qu.qstate == .run && (match s.qu.runTick with
    | some t => decide ((s.win.tick - t).toNat < oneSecond)
    | none => false)
  let s1 := beginRestart s
  if s.qu.down then setQu s1 { s1.qu with qstate := .rom } else if soon then failStart s1 else s1

/-- UNIT_RESET (R379, R458). -/
def unitResetCmd : Cmd := fun id r s =>
  let u := (bbyte r.body 0).toNat
  if u = 0 then .accEnd stOk 0 [] (requestWarm s)
  else match unitDom s.var u with
    | none => refuseCmd stBadarg 0x06 s
    | some d =>
      if s.pset.isSome then refuseCmd stBusy 0x10 s
      else
        let mask : W32 := BitVec.ofNat 32 (2 ^ d.val)
        .acc (applyPower { s with pset := some ⟨mask, 0, id, true⟩ } mask 0)

/-- UNIT_RESET of the quill is accepted (R379). -/
def unitResetQuill (s : State) (r : Req) : State := (acceptCmd s s s.qu.nextCmd r false).1

/-- The restart of an accepted UNIT_RESET of the quill: the entry is COMPLETED first, the completion goes only into a free mailbox, and the restart
is no failure (R379). -/
def unitRestart (s : State) (a : Active) : State :=
  let s1 := setQu s { s.qu with active := s.qu.active.filter (·.id != a.id) }
  let s2 := endEntry s1 a.req stOk 0 a.replay
  let s3 := if s2.qu.qh.getLsbD a.req.box.val ∨ s2.qu.outbox[a.req.box] ≠ [] then s2 else putQ2h s2 a.req.box (completionMsg a.req stOk 0 [])
  restartQuill false s3

/-- UPD_ACTIVATE (R403 to R408): in the ROM, or without class A, the commit write at once; else the handover. -/
def updActivateCmd : Cmd := fun id r s =>
  let ply : W64 := BitVec.ofNat 64 (bnat r.body 8 8)
  match activateFault r s with
  | some (st, d) => refuseCmd st d s
  | none =>
    if s.upd.everB = false then .fin stOk 0 (toBytes 8 ply) (commitNow s)
    else if bit (bbyte r.body 0) 0 ∧ s.qu.qstate = .run then .acc (setUpd s { s.upd with st := .handover, handover := some (id, ply) })
    else .fin stOk 0 (toBytes 8 ply) (commitWrite s ply)

/-- The command of an opcode (R378). -/
def cmdOf (op : BitVec 16) : Option Cmd :=
  match op.toNat with
  | 0x01 => some helloCmd
  | 0x02 => some configSetCmd
  | 0x03 => some configGetCmd
  | 0x10 => some powerSetCmd
  | 0x11 => some powerGetCmd
  | 0x12 => some throttleSetCmd
  | 0x20 => some errlogReadCmd
  | 0x21 => some errlogClearCmd
  | 0x22 => some scrubCmd
  | 0x23 => some fileSpareCmd
  | 0x30 => some journalReadCmd
  | 0x40 => some tallyCfgCmd
  | 0x41 => some tallyReadCmd
  | 0x50 => some mirrorCfgCmd
  | 0x51 => some mirrorFetchCmd
  | 0x52 => some mirrorVerifyCmd
  | 0x53 => some mirrorStatusCmd
  | 0x60 => some updBeginCmd
  | 0x61 => some updChunkCmd
  | 0x62 => some updStatusCmd
  | 0x63 => some updActivateCmd
  | 0x64 => some updAbortCmd
  | 0x70 => some unitResetCmd
  | _ => none

/-- The request that MAILBOX_SERVE takes: the mailbox's header and body (R371). -/
def requestOf (s : State) (k : BoxNum) : Req × List Byte :=
  let m := spGetAll 0 s.qu.h2q[k] 0 256
  let len := bnat m 6 2
  (⟨k, bbyte m 2, bbyte m 3, BitVec.ofNat 16 (bnat m 4 2), BitVec.ofNat 32 (bnat m 8 4), (m.drop 16).take len, none, 0, 0⟩, m)

/-- The first of the checks 1 to 6 of R373 that fails, with the ROM's answer to what it does not serve. -/
def headerFault (s : State) (r : Req) (m : List Byte) : Option (Byte × Byte) :=
  let q := s.qu
  let len := bnat m 6 2
  if bnat m 0 2 ≠ 0x4B44 then some (stBadarg, 0x01)
  else if 240 < len then some (stBadarg, 0x02)
  else if bnat m 12 4 ≠ (crc32c (m.take 12 ++ [0, 0, 0, 0] ++ r.body)).toNat then some (stBadarg, 0x03)
  else if q.qstate = .rom ∧ romServes r.op = false then some (stNotready, 0x00)
  else if r.op ≠ 0x01 ∧ q.hello = false then some (stBadver, 0x01)
  else if r.op ≠ 0x01 ∧ (r.vmaj ≠ q.vmaj ∨ r.vmin ≠ q.vmin) then some (stBadver, 0x02)
  else if (cmdInfo r.op).isNone then some (stBadarg, 0x04)
  else none

/-- Check 7 of R373. -/
def bodyFault (r : Req) (i : CmdInfo) : Bool := r.body.length != i.len || i.zero.any fun o => bbyte r.body o != 0

/-- The mailbox that is served next (R370). -/
def nextBox (s : State) : Option BoxNum :=
  ([1, 2, 3, 4].map fun i => Fin.ofNat 4 (s.qu.lastBox.val + i)).find? fun k => s.qu.hq.getLsbD k.val

/-- A region of the MPU as the kernel loads it: an area, and its rights (R364, R365). -/
def mpuRegion (area : Nat) (w x : Bool) : MpuRegion :=
  let a := Config.mpuArea area
  { base := a.1, size := a.2, r := true, w := w, x := x }

/-- The number of a component, for its areas. -/
def componentNum : Component → Nat
  | .kernel => 0
  | .mailboxServer => 1
  | .errorManager => 2
  | .logger => 3
  | .journalKeeper => 4
  | .powerManager => 5
  | .mirrorManager => 6
  | .tallyManager => 7
  | .updater => 8

/-- The device regions of a component: mailboxes, MBX_OWN, MBX_IRQ, QEVENT; error FIFO, ERR_PTR, error log; error log, trace buffer; blotter, BLT_HEAD,
pending-command area; power status, handshakes, BTHROTTLE.HOST, thresholds; mirror registers, partner port; tally registers, key tables; DMA window,
chunk bitmap, the other SRAM half (R365). -/
def deviceRegions : Component → Nat
  | .kernel => 0
  | .mailboxServer | .powerManager => 4
  | .errorManager | .journalKeeper | .updater => 3
  | .logger | .mirrorManager | .tallyManager => 2

/-- The regions of a component: library, messages, its code, its data, its devices (R365). The kernel bypasses the MPU (R364). -/
def componentRegions (c : Component) : List MpuRegion :=
  let o := 16 * componentNum c
  [mpuRegion 0 false true, mpuRegion 1 false false, mpuRegion (o + 2) false true, mpuRegion (o + 3) true false]
    ++ (List.range (deviceRegions c)).map fun k => mpuRegion (o + 4 + k) true false

/-- The kernel switches to a component (R365). -/
def switchTo (s : State) (c : Component) : State :=
  if c = .kernel then s
  else setQu s { s.qu with mpu := ⟨((List.range 16).map fun k => (componentRegions c).getD k {}).toArray, by simp⟩ }

/-- Takes the request of a mailbox: it is copied out, checked and journaled; one that passes waits for its execution (R307, R370, R373, R385). -/
def serveBox (s0 : State) (k : BoxNum) : State :=
  let s := boxSample (switchTo s0 .mailboxServer) k (s0.win.tick - s0.qu.hqTick[k])
  let (r, m) := requestOf s k
  let s1 := setQu s { s.qu with hq := setBit s.qu.hq k.val false, lastBox := k }
  match headerFault s r m with
  | some (st, d) => respondV s1 r r.vmaj r.vmin st d []
  | none =>
    match cmdInfo r.op with
    | none => s1
    | some i =>
      let (s2, r1) := if i.journaled then journal s1 r else (s1, r)
      if bodyFault r i then answer s2 r1 false stBadarg 0x05 [] else setQu s2 { s2.qu with cur := some r1 }

/-- MAILBOX_SERVE (R370). The server takes nothing while it executes a request, during a restart, or during a handover (R405). -/
def execMailboxServe (s : State) : Host.Outcome State Fault Refusal :=
  event s (
    if s.win.clearing || s.qu.qstate == .restart || s.qu.cur.isSome || s.upd.st == .handover then none
    else (nextBox s).map (serveBox s))

/-- MAILBOX_NOTREADY_REPLY: the mailbox hardware answers during a restart (R370). -/
def execMailboxNotreadyReply (k : BoxNum) (s : State) : Host.Outcome State Fault Refusal :=
  event s (
    if s.qu.qstate = .restart ∧ s.qu.hq.getLsbD k.val ∧ s.qu.qh.getLsbD k.val = false then
      let (r, _) := requestOf s k
      let s1 := setQu s { s.qu with hq := setBit s.qu.hq k.val false }
      some (putQ2h s1 k (message r.vmaj r.vmin (r.op ||| 0x8000) r.seq (statusBody stNotready 0 [])))
    else none)

/-- The component that executes a command (R365, log 34). -/
def componentOf (op : BitVec 16) : Component :=
  let o := op.toNat
  if o < 0x10 then .mailboxServer
  else if o < 0x20 ∨ o = 0x70 then .powerManager
  else if o < 0x22 then .logger
  else if o < 0x30 then .errorManager
  else if o < 0x40 then .journalKeeper
  else if o < 0x50 then .tallyManager
  else if o < 0x60 then .mirrorManager
  else .updater

/-- The execution of the request that the server has taken, if it is one of a row. -/
def cmdRow (mine : Req → Bool) (f : Cmd) (after : State → State) (s : State) : Host.Outcome State Fault Refusal :=
  event s (
    match s.qu.cur with
    | some r => if mine r && s.qu.qstate != .restart then some (after (runCmd f r false (switchTo (setQu s { s.qu with cur := none }) (componentOf r.op)))) else none
    | none => none)

/-- A row whose opcode alone tells it. -/
def opRow (op : BitVec 16) (f : Cmd) (s : State) : Host.Outcome State Fault Refusal := cmdRow (fun r => r.op == op) f id s
/-- A row that an opcode and a byte of the body tell. -/
def selRow (op : BitVec 16) (o : Nat) (p : Nat → Bool) (f : Cmd) (after : State → State) (s : State) : Host.Outcome State Fault Refusal :=
  cmdRow (fun r => r.op == op && p (bbyte r.body o).toNat) f after s

/-- HELLO (R376). -/
def execHello (s : State) : Host.Outcome State Fault Refusal := opRow 0x01 helloCmd s
/-- CONFIG_SET (R379). -/
def execConfigSet (s : State) : Host.Outcome State Fault Refusal := opRow 0x02 configSetCmd s
/-- CONFIG_GET (R379). -/
def execConfigGet (s : State) : Host.Outcome State Fault Refusal := opRow 0x03 configGetCmd s
/-- POWER_SET ON, and a POWER_SET with a target that does not exist (R447, R448). -/
def execPowerSetOn (s : State) : Host.Outcome State Fault Refusal := selRow 0x10 4 (2 ≤ ·) powerSetCmd powerPoll s
/-- POWER_SET OFF (R447, R449). -/
def execPowerSetOff (s : State) : Host.Outcome State Fault Refusal := selRow 0x10 4 (· == 0) powerSetCmd powerPoll s
/-- POWER_SET RETAIN (R447, R449). -/
def execPowerSetRetain (s : State) : Host.Outcome State Fault Refusal := selRow 0x10 4 (· == 1) powerSetCmd powerPoll s
/-- POWER_GET (R379). -/
def execPowerGet (s : State) : Host.Outcome State Fault Refusal := opRow 0x11 powerGetCmd s
/-- THROTTLE_SET (R450). -/
def execThrottleSet (s : State) : Host.Outcome State Fault Refusal := opRow 0x12 throttleSetCmd s
/-- ERRLOG_READ (R379). -/
def execErrlogRead (s : State) : Host.Outcome State Fault Refusal := opRow 0x20 errlogReadCmd s
/-- ERRLOG_CLEAR (R379). -/
def execErrlogClear (s : State) : Host.Outcome State Fault Refusal := opRow 0x21 errlogClearCmd s
/-- SCRUB_CTRL action 0, and an action that does not exist (R379). -/
def execScrubSetInterval (s : State) : Host.Outcome State Fault Refusal := selRow 0x22 1 (fun a => a == 0 || 2 < a) scrubCmd id s
/-- SCRUB_CTRL action 1 (R379). -/
def execScrubResetInterval (s : State) : Host.Outcome State Fault Refusal := selRow 0x22 1 (· == 1) scrubCmd id s
/-- SCRUB_CTRL action 2 (R379). -/
def execScrubPass (s : State) : Host.Outcome State Fault Refusal := selRow 0x22 1 (· == 2) scrubCmd id s
/-- FILE_SPARE (R112, R379). -/
def execFileSpare (s : State) : Host.Outcome State Fault Refusal := opRow 0x23 fileSpareCmd s
/-- JOURNAL_READ (R379). -/
def execJournalRead (s : State) : Host.Outcome State Fault Refusal := opRow 0x30 journalReadCmd s
/-- TALLY_CFG (R316). -/
def execTallyCfg (s : State) : Host.Outcome State Fault Refusal := opRow 0x40 tallyCfgCmd s

/-- A TALLY_READ whose tally still folds samples of its snapshot waits (R380). -/
def tallyWaits (s : State) (r : Req) : Bool :=
  if h : (bbyte r.body 0).toNat < 16 then s.tal[(bbyte r.body 0).toNat].pend else false

/-- TALLY_READ (R380). -/
def execTallyRead (s : State) : Host.Outcome State Fault Refusal := cmdRow (fun r => r.op == 0x41 && !tallyWaits s r) tallyReadCmd id s
/-- MIRROR_CFG (R362). -/
def execMirrorCfg (s : State) : Host.Outcome State Fault Refusal := opRow 0x50 mirrorCfgCmd s
/-- MIRROR_FETCH with SOURCE MIRROR, and with a source that does not exist (R359). -/
def execMirrorFetchMirror (s : State) : Host.Outcome State Fault Refusal := selRow 0x51 2 (1 ≤ ·) mirrorFetchCmd id s
/-- MIRROR_FETCH with SOURCE PRIMARY (R359). -/
def execMirrorFetchPrimary (s : State) : Host.Outcome State Fault Refusal := selRow 0x51 2 (· == 0) mirrorFetchCmd id s
/-- MIRROR_VERIFY (R360). -/
def execMirrorVerify (s : State) : Host.Outcome State Fault Refusal := opRow 0x52 mirrorVerifyCmd s
/-- MIRROR_STATUS (R362). -/
def execMirrorStatus (s : State) : Host.Outcome State Fault Refusal := opRow 0x53 mirrorStatusCmd s
/-- UPD_BEGIN (R397). -/
def execUpdBegin (s : State) : Host.Outcome State Fault Refusal := opRow 0x60 updBeginCmd s
/-- UPD_CHUNK of one chunk (R398). -/
def execUpdChunk (s : State) : Host.Outcome State Fault Refusal := cmdRow (fun r => r.op == 0x61 && !chunkAll r) updChunkCmd id s
/-- UPD_CHUNK of every missing chunk (R400). -/
def execUpdChunkAll (s : State) : Host.Outcome State Fault Refusal := cmdRow (fun r => r.op == 0x61 && chunkAll r) updChunkCmd id s
/-- UPD_STATUS (R401). -/
def execUpdStatus (s : State) : Host.Outcome State Fault Refusal := opRow 0x62 updStatusCmd s
/-- UPD_ABORT (R402). -/
def execUpdAbort (s : State) : Host.Outcome State Fault Refusal := opRow 0x64 updAbortCmd s

/-- UPD_ACTIVATE (R403): the ROM starts an image that it has activated, as a restart does (R407, R408). -/
def execUpdActivate (s : State) : Host.Outcome State Fault Refusal :=
  event s (
    match s.qu.cur with
    | some r =>
      if r.op ≠ 0x63 ∨ s.qu.qstate = .restart then none
      else
        let s0 := setQu s { s.qu with cur := none }
        let starts := s.qu.qstate == .rom && (activateFault r s0).isNone && bit (bbyte r.body 0) 0
        let s1 := runCmd updActivateCmd r false s0
        some (if starts then
            let s2 := beginRestart s1
            setQu s2 { s2.qu with outbox := s1.qu.outbox }
          else s1)
    | none => none)

/-- UNIT_RESET unit 0x00 (R379, R458). -/
def execUnitResetWarm (s : State) : Host.Outcome State Fault Refusal := selRow 0x70 0 (· == 0) unitResetCmd id s
/-- UNIT_RESET units 0x01 to 0x14, and units that do not exist (R379). -/
def execUnitResetDomain (s : State) : Host.Outcome State Fault Refusal := selRow 0x70 0 (fun u => u != 0 && u != 0x20) unitResetCmd powerPoll s
/-- UNIT_RESET unit 0x20: the request is accepted, and the restart follows (R379). -/
def execUnitResetQuill (s : State) : Host.Outcome State Fault Refusal :=
  event s (
    if s.qu.qstate = .restart then none
    else match s.qu.cur, s.qu.active.find? fun a => a.req.op == 0x70 && bbyte a.req.body 0 == 0x20 with
      | some r, none => if r.op = 0x70 ∧ bbyte r.body 0 = 0x20 then some (unitResetQuill (setQu s { s.qu with cur := none }) r) else none
      | _, some a => some (unitRestart s a)
      | none, none => none)

/-- SCRUB_PASS_COMPLETE: a pass that a command asked for has made its steps (R379). -/
def execScrubPassComplete (store : Fin 5) (s : State) : Host.Outcome State Fault Refusal :=
  event s (
    match s.err.pass[store] with
    | some (0, id) => some (complete { s with err := { s.err with pass := s.err.pass.set store.val none store.isLt } } id stOk 0 [])
    | _ => none)

/-- The commit write of a handover; the commands that are carried get the new epoch (R405). -/
def handoverCommit (s : State) (id : Nat) (ply : W64) : State :=
  let s1 := commitWrite s ply
  let e := s1.qu.epoch + 1
  let carried := s1.qu.active.map fun a => { a with req := { a.req with epoch := e } }
  let s2 := setQu s1 { s1.qu with
    epoch := e, hello := false, vmaj := 0, vmin := 0, schg := true, active := carried, runTick := some s1.win.tick, wdog := 0 }
  let s3 := carried.foldl (fun s a => match a.req.entry with
    | some i => setEntry s i (patchEntry (spGet 0 s.qu.blot i.toNat) [(26, e)])
    | none => s) s2
  complete (qevent s3 4) id stOk 0 (toBytes 8 ply)

/-- HANDOVER_COMMIT (R405). -/
def execHandoverCommit (s : State) : Host.Outcome State Fault Refusal :=
  event s (
    match s.upd.handover with
    | some (id, ply) => if s.upd.st = .handover ∧ s.qu.qstate = .run then some (handoverCommit s id ply) else none
    | none => none)

/-- HANDOVER_TIMEOUT: the quill restarts from the old half (R405, R387). -/
def execHandoverTimeout (s : State) : Host.Outcome State Fault Refusal :=
  event s (if s.upd.st = .handover ∧ s.qu.qstate = .run then some (restartQuill true s) else none)

/-- What the stop of a component leaves of the work that it directed. -/
def dropComponent (s : State) (c : Component) : State :=
  match c with
  | .powerManager => { s with pset := none }
  | .errorManager => { s with err := { s.err with pass := Vector.replicate 5 none } }
  | .updater => setUpd s { s.upd with alls := [], handover := none, st := if s.upd.st = .handover then .ready else s.upd.st }
  | _ => s

/-- The words of the quill SRAM with an uncorrectable code that hold one use (R386). -/
def badOf (s : State) (use : Nat) : List Nat := s.qu.sramBad.filter fun w => (Config.sramUse w).1 == use

/-- Words of the quill SRAM are written again. -/
def dropBad (s : State) (use : Nat) : State := setQu s { s.qu with sramBad := s.qu.sramBad.filter fun w => (Config.sramUse w).1 != use }

/-- The error log is lost when its header CRC fails (R382). -/
def checkLog (s : State) : State :=
  if s.qu.logHeadBad then setQu s { s.qu with log := [], logSeq := 0, logLost := none, logHeadBad := false } else s

/-- The persistent state of a component takes its reset values, and the trace buffer says so (R366). -/
def resetComponent (s : State) (c : Component) : State :=
  let q := s.qu
  let r : Quill := {}
  let q1 := match c with
    | .mailboxServer => { q with qmask := r.qmask, lastBox := r.lastBox }
    | .powerManager => { q with thr := r.thr }
    | .errorManager => { q with spareAdv := r.spareAdv, advice := [], corrected := [] }
    | _ => q
  setQu s { q1 with trace := q.trace ++ [.stateReset c] }

/-- A component starts from its code: it takes up its persistent state when the CRC of that holds, which an uncorrectable word of its data region
breaks (R366). The data region is written afresh. -/
def startComponent (s : State) (c : Component) : State :=
  let s1 := if c = .errorManager ∨ c = .logger then checkLog s else s
  let s2 := if (badOf s1 (componentNum c)).isEmpty then s1 else resetComponent s1 c
  if c = .kernel then s2 else switchTo (dropBad s2 (componentNum c)) c

/-- COMPONENT_RESTART (R366): the commands of the component end as ABORTED 0x20, and the fault is logged; a third fault within 60 s, or one of
the kernel, restarts the quill. -/
def componentRestart (s : State) (c : Component) : State :=
  let mine := s.qu.active.filter fun a => componentOf a.req.op == c
  let s1 := mine.foldl (fun s a => complete s a.id stAborted 0x20 []) (dropComponent s c)
  let s2 := match s1.qu.cur with
    | some r => if componentOf r.op = c then answer (setQu s1 { s1.qu with cur := none }) r false stAborted 0x20 [] else s1
    | none => s1
  let s3 := logRecord s2 (ownRecord s2 0x82 0)
  let recent := (s3.qu.faults.filter fun f => f.1 == c && decide ((s3.win.tick - f.2).toNat < 60 * oneSecond)).length
  let s4 := startComponent (setQu s3 { s3.qu with faults := s3.qu.faults ++ [(c, s3.win.tick)] }) c
  if 2 ≤ recent then restartQuill true s4 else s4

/-- COMPONENT_RESTART (R366). -/
def execComponentRestart (c : Component) (s : State) : Host.Outcome State Fault Refusal :=
  event s (if s.qu.qstate = .run then some (if c = .kernel then restartQuill true s else componentRestart s c) else none)

/-- A staged copy cannot be read: its part becomes FAILED (R386, R399). -/
def failStaged (s : State) (k : Nat) : State :=
  match s.upd.parts[k]? with
  | some p =>
    if p.st = .staging ∨ p.st = .verified then
      setUpd s { s.upd with
        parts := s.upd.parts.set k { p with st := .failed, bitmap := 0, data := [] }, st := if s.upd.st = .ready then .staging else s.upd.st }
    else s
  | none => s

/-- The log records that a word of the ring holds are dropped, and LOGLOST is logged (R382, R386). -/
def dropLog (s : State) (slot : Nat) : State :=
  logRecord (setQu s { s.qu with log := s.qu.log.filter fun p => p.seq.toNat % 2048 != slot % 2048 }) (ownRecord s 0x83 0)

/-- An uncorrectable word of the quill SRAM is handled as what lies there: 0 code or read-only data, 1 to 8 the data region of a component, 9 the error
log, 10 the pending-command area, 11 a staged copy, 12 the state block of a handover, 13 the header of the error log (R386, log 50). -/
def sramHandle (s : State) (w : Nat) : State :=
  let clear (s : State) : State := setQu s { s.qu with sramBad := s.qu.sramBad.filter (· ≠ w) }
  let (use, k) := Config.sramUse w
  match use with
  | 0 => if s.qu.qstate = .run ∧ inActiveHalf s.upd w = true then restartQuill true s else s
  | 1 => if s.qu.qstate = .run then componentRestart s .mailboxServer else s
  | 2 => if s.qu.qstate = .run then componentRestart s .errorManager else s
  | 3 => if s.qu.qstate = .run then componentRestart s .logger else s
  | 4 => if s.qu.qstate = .run then componentRestart s .journalKeeper else s
  | 5 => if s.qu.qstate = .run then componentRestart s .powerManager else s
  | 6 => if s.qu.qstate = .run then componentRestart s .mirrorManager else s
  | 7 => if s.qu.qstate = .run then componentRestart s .tallyManager else s
  | 8 => if s.qu.qstate = .run then componentRestart s .updater else s
  | 9 => dropLog (clear s) k
  | 10 => clear (setQu s { s.qu with bodiesLost := (s.qu.active.map (·.id)).filter (fun i => i % 16 == k % 16) ++ s.qu.bodiesLost })
  | 11 => failStaged (clear s) (k % 4)
  | 12 => if s.upd.st = .handover then restartQuill true s else s
  | 13 => clear (setQu s { s.qu with logHeadBad := true })
  | _ => s

/-- ERROR_RECORD_POST: the posting of a detection that a check of R322 has made, with the outcome that the table gives it (R333 to R337, R386). One that
CHKDIS silences reports nothing (R340); an injected one is that of the armed ERRINJ, which it disarms (R341, R466). -/
def execErrorRecordPost (cls unit : Byte) (sev : BitVec 2) (loc : W64) (synd : BitVec 24) (inj : Bool) (extra : BitVec 16) (s : State) :
    Host.Outcome State Fault Refusal :=
  event s (
    let l := loc &&& locMask unit
    if sev = 3 ∨ cls = 0 ∨ 0x12 < cls.toNat ∨ 0x23 < unit.toNat ∨ silenced s cls unit = true ∨ (inj = true ∧ injMatch s cls unit l = false) then none
    else
      let s1 := postDetection s cls unit sev l synd inj extra
      some (if cls = 0x02 ∧ unit = 0x20 then sramHandle s1 (l.toNat / 8) else s1))

/-- The limit of the quill watchdog in sc (R326). -/
def watchdogLimit : Nat := 100000

/-- QUILL_WATCHDOG_KICK (R326). -/
def execQuillWatchdogKick (s : State) : Host.Outcome State Fault Refusal := event s (some (setQu s { s.qu with wdog := 0 }))

/-- QUILL_WATCHDOG_EXPIRY: 1 ms without a kick (R326). -/
def execQuillWatchdogExpiry (s : State) : Host.Outcome State Fault Refusal :=
  event s (
    if watchdogLimit ≤ s.qu.wdog ∧ s.win.clearing = false then some (restartQuill true (postRecord s 0x0D 0x20 1 0 0 false 0)) else none)

/-- QUILL_RESTART: a lockstep mismatch, which posts its record, or a fault in kernel mode (R322, R366, R387). -/
def execQuillRestart (c : QRestart) (s : State) : Host.Outcome State Fault Refusal :=
  event s (
    if s.win.clearing then none
    else
      let s1 := if c = .lockstep then postRecord s 0x0E 0x20 1 0 0 false 0 else s
      some (restartQuill true s1))

/-- Whether the body or the entry of a command is lost: the pending-command area, the entry's code or CRC, or a digest that does not match
(R386, R389). -/
def replayLost (s : State) (a : Active) : Bool :=
  s.qu.bodiesLost.contains a.id || (match a.req.entry with
    | some i => s.qu.blotBad.contains i.toNat || !entOk (spGet 0 s.qu.blot i.toNat)
        || ((toBytes 32 (spGet 0 s.qu.blot i.toNat)).drop 8).take 8 != bodyDigest a.req.body
    | none => false)

/-- A FILE_SPARE that a replay has run again is pending now, and completes at once with its spare (R379, R389). -/
def endSpares (s : State) : State :=
  (s.qu.active.filter fun a => a.req.op == 0x23).foldl (fun s a =>
    complete s a.id stOk 0 (((spareOf s (BitVec.ofNat 10 (bnat a.req.body 0 2))).map fun k => BitVec.ofNat 8 k.val).toList)) s

/-- Replay of one command (R389). -/
def replayOne (s : State) (a : Active) : State :=
  if replayLost s a then endEntry s a.req stAborted 0x22 false
  else match cmdInfo a.req.op, cmdOf a.req.op with
    | some i, some f => if i.rerun then endSpares (runCmd f a.req true s) else endEntry s a.req stAborted 0x21 false
    | _, _ => s

/-- The commands of the blotter that are ACCEPTED end or run again, oldest first (R389). -/
def replay (s : State) : State :=
  let s1 := s.qu.active.foldl replayOne (setQu s { s.qu with active := [] })
  setQu s1 { s1.qu with bodiesLost := [], replaying := true }

/-- Whether the ROM may start the image of the active half (R386, R387, R407, R408). -/
def mayStart (s : State) : Bool :=
  (match activeHalf s with
  | some i => imageChecks s i
  | none => false) && (badOf s 0).all fun w => !inActiveHalf s.upd w

/-- The components start, with the checks of their persistent state (R366, R387). -/
def startComponents (s : State) : State :=
  [Component.mailboxServer, .errorManager, .logger, .journalKeeper, .powerManager, .mirrorManager, .tallyManager, .updater].foldl startComponent s

/-- The firmware enters RUN in a new epoch (R369, R387, R388). -/
def enterRun (s1 : State) : State :=
  let s2 := setQu s1 { s1.qu with
    qstate := .run, epoch := s1.qu.epoch + 1, schg := true, hello := false, vmaj := 0, vmin := 0, replaying := false
    rcount := if s1.qu.down then 0 else s1.qu.rcount, down := false, runTick := some s1.win.tick, wdog := 0 }
  powerPoll (logRecord (qevent s2 4) (ownRecord s2 0x81 0))

/-- QUILL_START_COMPLETE (R387): the image is checked, the components start, and the replay runs; RUN comes once every command that the replay runs
again has ended (R385, R389). With RECOVERY set the quill stays in the ROM (R408). -/
def execQuillStartComplete (s : State) : Host.Outcome State Fault Refusal :=
  event s (
    if s.qu.qstate = .restart then
      if bit s.cfg.options 0 then some (setQu s { s.qu with qstate := .rom, schg := true, replaying := false })
      else
        let s1 := if s.qu.replaying then some s else if mayStart s then some (powerPoll (replay (startComponents s))) else none
        s1.map fun s => if s.qu.active.isEmpty then enterRun s else s
    else none)

/-- QUILL_START_FAIL: a start fails its checks or its time limit (R388). -/
def execQuillStartFail (why : QFail) (s : State) : Host.Outcome State Fault Refusal :=
  event s (
    if s.qu.qstate = .restart ∧ bit s.cfg.options 0 = false then
      match why with
      | .image => some (failStart s)
      | .timeout => some (failStart s)
    else none)

/-- RCOUNT_CLEAR: 10 s in RUN (R388). -/
def execRcountClear (s : State) : Host.Outcome State Fault Refusal :=
  event s (if s.qu.qstate = .run then some (setQu s { s.qu with rcount := 0 }) else none)

end Sys2Proof.Machine
end

