-- ==== Sys2Proof/Machine/Boundary.lean ====
section
/-! DEFINITION. Accesses to the management window by their readers and writers, the lock of the configuration, the mailbox flags, and the interrupt inputs (R13, R14, R336, R338, R367, R368, R426 to R431, R440, R451 to R456). -/
namespace Sys2Proof.Machine

/-- Whether a reader reaches the window: not while the stores are cleared (R457), and through the alias only where it is served (R453). -/
def windowOpen (s : State) (by_ : Reader) : Bool := !s.win.clearing && (by_ != .alias_ || bit s.cfg.mgmtbase 0)

/-- A doubleword with its low or its high word replaced. -/
def setHalf (x : W64) (hi : Bool) (v : W32) : W64 := if hi then setField x 63 32 v.toNat else setField x 31 0 v.toNat

/-- A word of CFG_SPAREMAP after a write (R455). -/
def spareWord (var : Variant) (w : Nat) (v : W32) : W32 :=
  match var with
  | .m1024 => v &&& 0x83FF83FF
  | .m512 => if w < 2 then v &&& 0x83FF83FF else 0
  | .m256 | .m256np => if w = 0 then v &&& 0x80FF80FF else 0

/-- A configuration word after a write while the lock is clear (R452 to R455). -/
def cfgNext (var : Variant) (c : Cfg) (off : Nat) (v : W32) : Cfg :=
  match off with
  | 0x1100 => { c with coreid := v &&& 0xFFFFF }
  | 0x1104 => { c with partner := v &&& 0xFFFFF }
  | 0x1108 => { c with vellumbase := setHalf c.vellumbase false v &&& maskBits 64 55 (vellumLog2 var) }
  | 0x110C => { c with vellumbase := setHalf c.vellumbase true v &&& maskBits 64 55 (vellumLog2 var) }
  | 0x1110 => { c with mgmtbase := setHalf c.mgmtbase false v &&& (maskBits 64 55 16 ||| 1) }
  | 0x1114 => { c with mgmtbase := setHalf c.mgmtbase true v &&& (maskBits 64 55 16 ||| 1) }
  | 0x1118 => { c with resetpc := setHalf c.resetpc false v &&& maskBits 64 55 2 }
  | 0x111C => { c with resetpc := setHalf c.resetpc true v &&& maskBits 64 55 2 }
  | 0x1120 => { c with options := v &&& 3 }
  | 0x1124 => { c with floor := v }
  | 0x1128 => { c with sparemap := c.sparemap.set 0 (spareWord var 0 v) (by decide) }
  | 0x112C => { c with sparemap := c.sparemap.set 1 (spareWord var 1 v) (by decide) }
  | 0x1130 => { c with sparemap := c.sparemap.set 2 (spareWord var 2 v) (by decide) }
  | 0x1134 => { c with sparemap := c.sparemap.set 3 (spareWord var 3 v) (by decide) }
  | 0x1138 => { c with fabric := if v &&& 0xFFFF = 0 then 1 else v &&& 0xFFFF }
  | _ => c

/-- The file that CFG_SPAREMAP gives to spare k, where its entry is valid (R455). -/
def spareEntry (s : State) (k : Fin 8) : Option (BitVec 10) :=
  let w := s.cfg.sparemap[Fin.ofNat 4 (k.val / 2)]
  let lo := 16 * (k.val % 2)
  if k.val < spareCount s.var ∧ bit w (lo + 15) = true ∧ fieldN w (lo + 9) lo < boardB s.var then some (BitVec.ofNat 10 (fieldN w (lo + 9) lo)) else none

/-- The spare map that CFG_SPAREMAP describes; of two entries that name one file the lower-numbered spare is in use (R112). -/
def spareFromCfg (s : State) : Vector (Option (BitVec 10)) 8 :=
  ⟨((List.finRange 8).map fun k =>
    match spareEntry s k with
    | some f => if (List.finRange 8).any (fun j => decide (j < k) && spareEntry s j == some f) then none else some f
    | none => none).toArray, by simp⟩

/-- CFG_LOCK becomes 1: the words are locked, FWFLOOR is raised, the spare map is the words', and VELLUM is powered up (R112, R394, R456). -/
def setLock (s : State) : State :=
  if s.cfg.lock then s
  else
    let s1 := { s with
      cfg := { s.cfg with lock := true }
      c := { s.c with fwfloor := if s.c.fwfloor.toNat < s.cfg.floor.toNat then s.cfg.floor else s.c.fwfloor }
      bd := { s.bd with spare := spareFromCfg s } }
    powerPoll (turnOn s1 dVellum)

/-- A write of MBX_OWN by the host: HQ is set, QH cleared, and a message that waits for a reply mailbox goes into it (R367, R370). -/
def mbxOwnWrite (s : State) (v : W32) : State :=
  let handed := (List.finRange 4).filter fun k => bit v k.val && !s.qu.hq.getLsbD k.val
  let s1 := setQu s { s.qu with
    hq := s.qu.hq ||| field v 3 0, qh := s.qu.qh &&& ~~~ (field v 11 8)
    hqTick := handed.foldl (fun t k => t.set k.val s.win.tick k.isLt) s.qu.hqTick }
  (List.finRange 4).foldl flushBox s1

/-- A write of MBX_IRQ (R368). -/
def mbxIrqWrite (s : State) (v : W32) : State :=
  setQu s { s.qu with ien := field v 3 0, sien := bit v 4, schg := s.qu.schg && !bit v 8 }

/-- A write into a request mailbox, ignored while the quill owns it (R367). -/
def mbxWrite (s : State) (off : Nat) (v : W32) : State :=
  let k : BoxNum := Fin.ofNat 4 (off / 256)
  if s.qu.hq.getLsbD k.val then s
  else setQu s { s.qu with h2q := s.qu.h2q.set k.val (spSetAll 0 s.qu.h2q[k] (off % 256) (toBytes 4 v)) k.isLt }

/-- A write of DBG_CMD; GO while BUSY is ignored (R440, R442). -/
def dbgCmdWrite (d : Dbg) (v : W32) : Dbg :=
  let d1 := { d with item := field v 11 0, cbank := Fin.ofNat 4 (fieldN v 13 12), write := bit v 14, mem := bit v 15 }
  if bit v 16 ∧ d.busy = false then { d1 with busy := true, started := none, err := 0 } else d1

/-- A register of the debug module after a write (R440). -/
def dbgNext (d : Dbg) (off : Nat) (v : W32) : Dbg :=
  match off with
  | 0xD000 => { d with haltReq := d.haltReq || bit v 0, resume := d.resume || bit v 1, step := bit v 2, bpen := bit v 3 }
  | 0xD010 => dbgCmdWrite d v
  | 0xD018 => { d with data := setHalf d.data false v }
  | 0xD01C => { d with data := setHalf d.data true v }
  | 0xD020 => { d with addr := setHalf d.addr false v }
  | 0xD024 => { d with addr := setHalf d.addr true v }
  | _ =>
    if 0xD040 ≤ off ∧ off < 0xD060 then
      let k : Fin 4 := Fin.ofNat 4 ((off - 0xD040) / 8)
      { d with bps := d.bps.set k.val (setHalf d.bps[k] (off % 8 = 4) v &&& 0x01FFFFFFFFFFFFFD) k.isLt }
    else d

/-- A write of a word of the window (R13, R426, R427). -/
def winWrite (s : State) (off : Nat) (v : W32) (by_ : Reader) : State :=
  if off % 4 ≠ 0 then s
  else match off with
    | 0x1040 => errPtrWrite s v (by_ == .quill)
    | 0x1044 => errOvfWrite s v
    | 0x1048 => errLinesWrite s v
    | _ =>
      if by_ = .quill then s
      else if off < 0x400 then mbxWrite s off v
      else if off = 0x800 then mbxOwnWrite s v
      else if off = 0x804 then mbxIrqWrite s v
      else if off = 0x113C then (if bit v 0 then setLock s else s)
      else if 0x1100 ≤ off ∧ off < 0x1200 then (if s.cfg.lock then s else { s with cfg := cfgNext s.var s.cfg off v })
      else if 0xD000 ≤ off ∧ off < 0xD060 then (if dbgEn s then { s with dbg := dbgNext s.dbg off v } else s)
      else s

/-- One reader's part of a latch. -/
def latchOf {α : Type} (x : α × α × α) : Reader → α
  | .port => x.1
  | .alias_ => x.2.1
  | .quill => x.2.2

/-- Replaces one reader's part of a latch. -/
def setLatch {α : Type} (x : α × α × α) (by_ : Reader) (v : α) : α × α × α :=
  match by_ with
  | .port => (v, x.2)
  | .alias_ => (x.1, v, x.2.2)
  | .quill => (x.1, x.2.1, v)

/-- A read of PLY_LO or TICK_LO latches the HI word for its reader (R429). -/
def latchHi (s : State) (by_ : Reader) (ply : Bool) : State :=
  if ply then { s with win := { s.win with plyHi := setLatch s.win.plyHi by_ (some (hiWord s.c.ply)) } }
  else { s with win := { s.win with tickHi := setLatch s.win.tickHi by_ (some (hiWord s.win.tick)) } }

/-- A read of a word of the window through a reader's latches (R426, R429). -/
def winRead (s : State) (off : Nat) (by_ : Reader) : W32 × State :=
  match off with
  | 0x1060 => (winWord s off, latchHi s by_ true)
  | 0x1068 => (winWord s off, latchHi s by_ false)
  | 0x1064 => ((latchOf s.win.plyHi by_).getD (winWord s off), { s with win := { s.win with plyHi := setLatch s.win.plyHi by_ none } })
  | 0x106C => ((latchOf s.win.tickHi by_).getD (winWord s off), { s with win := { s.win with tickHi := setLatch s.win.tickHi by_ none } })
  | _ => (winWord s off, s)

/-- REGISTER_WRITE (R13, R426, R427). -/
def execRegisterWrite (off : BitVec 16) (v : W32) (by_ : Reader) (s : State) : Host.Outcome State Fault Refusal :=
  event s (if windowOpen s by_ then some (winWrite s off.toNat v by_) else none)

/-- TICK_LO_READ (R429). -/
def execTickLoRead (by_ : Reader) (ply : Bool) (s : State) : Host.Outcome State Fault Refusal :=
  event s (if windowOpen s by_ then some (latchHi s by_ ply) else none)

/-- CFG_LOCK_SET (R456). -/
def execCfgLockSet (s : State) : Host.Outcome State Fault Refusal := event s (if s.win.clearing then none else some (setLock s))

/-- MBX_OWN_HQ_SET (R367). -/
def execMbxOwnHqSet (v : W32) (s : State) : Host.Outcome State Fault Refusal := event s (if s.win.clearing then none else some (mbxOwnWrite s v))

/-- MBX_OWN_QH_CLEAR (R367). -/
def execMbxOwnQhClear (v : W32) (s : State) : Host.Outcome State Fault Refusal := event s (if s.win.clearing then none else some (mbxOwnWrite s v))

/-- INT_IN_CHANGE: the pending bit follows the input, and an assertion wakes a clock-gated CORE (R28, R280, R431). -/
def execIntInChange (i : Fin 64) (v : Bool) (s : State) : Host.Outcome State Fault Refusal :=
  let s1 := { s with win := { s.win with intIn := setBit s.win.intIn i.val v } }
  pinEvent s s1 (some (if v then wakeRequest s1 dCore else s1))

end Sys2Proof.Machine
end

