-- ==== Sys2Proof/Machine/Entry.lean ====
section
/-! DEFINITION. Exceptions, interrupts and critical interrupts as events at the head of the reorder buffer, double faults, hold windows, watchdogs and progress monitors (R272 to R288, R323, R324). -/
namespace Sys2Proof.Machine

/-- The translation of an instruction fetch: the exception that it meets (R242, R272). -/
def fetchExc (s : State) (va : W64) : Option (State × Exc) :=
  let b := curBank s
  match translate .fetch .fetch (ringOf b) b.ttb va s with
  | .ok _ _ _ => none
  | .bad s1 code sub => if code = waitCode then none else some (s1, { code := code, sub := sub, acc := .fetch, addr := va })

/-- A double fault of the entry that is not over: its handler's first instruction has not been fetched (R287); during the entry of the
double-fault handler it is the third fault (R288). A failed vector read comes before all that the entry writes but ACT (R274, R284). -/
def freshFault (s : State) (f : Fresh) (reason : BitVec 4) : State :=
  if s.c.dfOpen then thirdFault s
  else
    let s1 := if reason = 3 then s else
      let s0 := { s with c := { s.c with
        ipl := f.ipl, hold := f.hold, cxpc := f.cxpc, cxfl := f.cxfl, cxcause := f.cxcause, cxaddr := f.cxaddr, entry := none } }
      if wiredVec f.vec then s0 else setPending s0 f.vec f.pend
    doubleFaultAt s1 reason f.vec f.pc f.fl

/-- A fault on a fetch: on the first fetch of a handler it is a double fault (R274, R287). -/
def fetchFaultEntry (s : State) (e : Exc) : State :=
  match s.c.fresh with
  | some f => freshFault s f 3
  | none => raise e s

/-- A fetch that meets an uncorrectable or poisoned line records it, where the state says that the line is bad (R227, R322). -/
def fetchMeets (s : State) : State :=
  let b := curBank s
  match translate .fetch .fetch (ringOf b) b.ttb b.pc s with
  | .ok s1 pa ty => (readCheck s1 (ty == .cacheable || ruledPast s1 .core ty) (pa / 64 * 64) 64).1
  | .bad s1 _ _ => s1

/-- The instruction at the ROB head as far as it goes before an access of it fails: the elements of a REPN before the one that names the address
have been performed (R50). -/
def beforeError (s : State) (va : W64) : Option State :=
  match s.stall with
  | some (.repn n g) =>
    let b := curBank s
    match (repnPieces b (n.toNat + 1) g).findIdx? fun p => p.1 == va with
    | some k => match repnLoop .core g s k b s with
      | .ok b1 s1 => some (setCur s1 b1)
      | _ => none
    | none => some s
  | _ => some s

/-- EXCEPTION_ENTRY: a condition that no instruction command brings (R272, R273): words that are no instruction, a fetch that does not
translate, or the error response to a precise access. -/
def conditionOf (c : EntryCause) (s : State) : Option State :=
  match c with
  | .undefWords w1 w2 =>
    let long := twoWords w1
    if s.stall.isNone && (decodeWords w1 w2).isNone then
      some (raise { code := 0x01, addr := (if long && fieldN w1 31 27 != 0x1C then w2 else 0) ++ w1 } s)
    else none
  | .fetchFault second =>
    if s.stall.isSome then none
    else (fetchExc s ((curBank s).pc + if second then 4 else 0)).map fun p => fetchFaultEntry p.1 p.2
  | .dataError poison acc va =>
    let e : Exc := { code := 0x0D, sub := if poison then 2 else 1, acc := acc, addr := va }
    match acc with
    | .none => none
    | .fetch => some (fetchFaultEntry (fetchMeets s) e)
    | _ => (beforeError s va).map (raise e)
  | .busError sub acc va =>
    let e : Exc := { code := 0x0E, sub := sub, acc := acc, addr := va }
    if sub = 0 ∨ 3 < sub.toNat then none
    else match acc with
    | .none => none
    | .fetch => some (fetchFaultEntry s e)
    | _ => (beforeError s va).map (raise e)

/-- EXCEPTION_ENTRY at the instruction boundary: an interrupt that is due is taken before the instruction that meets the condition (R273). -/
def exceptionOf (c : EntryCause) (s : State) : Option State :=
  if !coreRuns s then none
  else match interruptDue s with
  | some p => some (enterInterrupt s p)
  | none => conditionOf c s

/-- Whether the core is at a point where interrupts are taken, the core not halted and not in reset; every wait of the model is one but that of
a vector store that is partly in the store buffer (R225, R281). -/
def interruptPoint (s : State) : Bool := coreRuns s && s.ca.sbLast.isNone

/-- An interrupt is taken at once; a pending one that R281 would take if FL.IE were 1 wakes a clock-gated CORE (R28, R283). -/
def takeInterrupt (s : State) (r : Option State) : Option State :=
  if domUse s dCore = .asleep then (if waitiEnds s then some (wakeRequest s dCore) else none)
  else if interruptPoint s then r else none

/-- The state before the entry of a window: the vector that was being entered is pending again (R285). -/
def undoEntry (s : State) (w : EntryWin) : State :=
  let s1 := { setCur s { curBank s with pc := w.pc, fl := w.fl } with stall := none }
  let s2 := { s1 with c := { s1.c with
    ipl := w.ipl, xpc := w.xpc, xfl := w.xfl, xcause := w.xcause, xaddr := w.xaddr, cxpc := w.cxpc, cxfl := w.cxfl
    cxcause := w.cxcause, cxaddr := w.cxaddr, hold := w.hold, entry := none, fresh := none, dfOpen := false } }
  if wiredVec w.vec then s2 else setPending s2 w.vec w.pend

/-- The rank of a critical vector: level, then number (R281, R284). -/
def critRank (v : Byte) : Nat := if v = 0x20 then 2 else if v = 0x21 then 1 else 0

/-- The critical vector that takes over an entry whose window is open (R285). -/
def takeoverVec (s : State) (w : EntryWin) : Option Byte :=
  if w.crit then [0x20, 0x21, 0x22].find? fun v => isPending s v && decide (critRank w.vec < critRank v)
  else selectCrit s

/-- EXCEPTION_ENTRY (R272 to R274). -/
def execExceptionEntry (c : EntryCause) (s : State) : Host.Outcome State Fault Refusal := event s (exceptionOf c s)

/-- INTERRUPT_ENTRY: the interrupt that R281 selects is taken (R274, R281). -/
def execInterruptEntry (s : State) : Host.Outcome State Fault Refusal :=
  event s (takeInterrupt s (
    if (selectCrit s).isSome || !bit (curBank s).fl 10 || s.c.hold then none
    else (selectOrd s).map fun p => interruptEntryOf s p.1 p.2))

/-- CRITICAL_ENTRY (R281, R284). -/
def execCriticalEntry (s : State) : Host.Outcome State Fault Refusal := event s (takeInterrupt s ((selectCrit s).map (criticalEntryWin s)))

/-- ENTRY_TAKEOVER (R285). -/
def execEntryTakeover (s : State) : Host.Outcome State Fault Refusal :=
  event s (
    match s.c.entry with
    | none => none
    | some w => (takeoverVec s w).map fun v => criticalEntryWin (undoEntry s w) v)

/-- DOUBLE_FAULT: the fabric answers the vector read of the last entry with an error (reason 1), or the first fetch of its handler fails
(reason 3). An invalid entry (reason 2) is found by the entry itself (R287, R288). -/
def execDoubleFault (reason : BitVec 4) (s : State) : Host.Outcome State Fault Refusal :=
  event s (
    match s.c.fresh with
    | none => none
    | some f => if coreRuns s ∧ (reason = 1 ∨ reason = 3) then some (freshFault s f reason) else none)

/-- HOLD_WINDOW_OVERRUN: a hold window reaches MAX (R277). -/
def execHoldWindowOverrun (s : State) : Host.Outcome State Fault Refusal :=
  event s (
    if s.c.hold then
      let s1 := { s with c := { s.c with hold := false } }
      some (if bit s.c.holdmax 16 then postRecord s1 0x0F 0x00 0 (curBank s).pc (s.c.holdVec.setWidth 24) false 0 else s1)
    else none)

/-- The domains that an instruction which waits at the ROB head uses (R28). -/
def gateDoms : Instr → List (Fin 32)
  | .tld _ _ _ _ _ | .tst _ _ _ _ _ | .tresume _ => [dTile, dStream]
  | .tcfgImm _ _ _ _ _ | .tcfgReg _ _ | .tcfgRead _ _ | .trdyW _ _ | .tzero _ | .trel _ | .tmov _ _ => [dTile]
  | .vtrd _ _ _ | .vtwr _ _ _ | .vtrdS _ _ _ | .vtwrS _ _ _ => [dTile, dVec]
  | .bplane _ | .brun _ _ _ _ | .idrainTile _ _ _ => [dBoard, dTile]
  | .bswap | .iclr _ _ => [dBoard]
  | .idrainVector _ _ _ => [dBoard, dVec]
  | .idrainMemory _ _ _ _ _ => [dBoard, dStream]
  | .smove _ _ | .sqwait _ _ | .slaunch _ _ => [dStream]
  | _ => []

/-- Whether an instruction has one of the waits of R281, or the room wait of R70, or is WAITI (R324). -/
def waitListed : Instr → Bool
  | .fence _ | .fenceRetire | .plyc | .waiti => true
  | c => !(gateDoms c).isEmpty

/-- Whether an instruction accesses memory at the ROB head. -/
def accessesMemory : Instr → Bool
  | .load _ _ _ | .store _ _ _ | .lda _ _ _ | .stl _ _ _ | .cas _ _ _ _ _ _ _ | .aadd _ _ _ _ _ _ _ | .rep _ _ | .repn _ _ | .vload _ _ _ _
  | .vstore _ _ _ _ | .svm _ _ | .ldm _ _ | .svh _ _ | .ldh _ _ | .callg _ | .sspush _ => true
  | _ => false

/-- The exempt waits of the retire-progress watchdog: those of R281 and R70, WAITI, and an access whose line is on its way over the fabric. A wait for
a long result or for a unit that wakes is none of them (R28, R203, R324). -/
def exemptWait (s : State) : Bool :=
  match s.stall with
  | none => false
  | some c =>
    !srcPending c (curBank s) &&
      ((waitListed c && (gateDoms c).all (domUse s · != .asleep)) || (accessesMemory c && s.ca.miss.isSome))

/-- RETIRE_WATCHDOG_EXPIRY: 400 sc without retirement outside the exempt waits (R324, R340). -/
def execRetireWatchdogExpiry (s : State) : Host.Outcome State Fault Refusal :=
  event s (
    if coreRuns s && !exemptWait s && !bit s.c.chkdis 7 then
      some (pend (postRecord s 0x0C 0x00 2 (curBank s).pc 0 false 0) 0x21)
    else none)

/-- WATCHDOG_HANDLER_TIMEOUT: the watchdog handler has not issued its first instruction (R324, R288). -/
def execWatchdogHandlerTimeout (s : State) : Host.Outcome State Fault Refusal :=
  event s (
    let waits := isPending s 0x21 || (match s.c.fresh with
      | some f => f.vec == 0x21
      | none => false)
    if waits && !bit s.c.chkdis 7 && s.dom[dCore].st == .run then some (thirdFaultOf s (curBank s).pc 0x21) else none)

/-- Accepted work of the board that is in no exempt wait: not held for a tile, nor for the plane's release, nor for the inkwell or a wake
(R71, R106, R133, R323). -/
def boardWorks (s : State) : Bool :=
  s.bd.released && !s.inkZeroing && domUse s dBoard != .asleep && s.ops.any fun o => onBoard o && o.started

/-- Accepted work of the tile unit that is in no exempt wait: the first operation on a tile that is not INCOMPLETE (R69, R323). -/
def tileWorks (s : State) : Bool :=
  (List.finRange 16).any fun t =>
    s.tiles[t].st != .incomplete && (match s.ops.find? fun o => o.t == t && !o.done with
      | some o => [OpKind.tld, .tst, .tzero, .trel, .tmov].contains o.kind
      | none => false)

/-- Accepted work of a stream queue that is in no exempt wait: not FAULTED, not held by ORD, no request on the fabric (R164, R176, R323). -/
def queueWorks (s : State) (q : QNum) : Bool :=
  s.sq[q].faulted.isNone && (s.ops.any fun o => onQueue o && o.q == q && opLive o && o.out.isEmpty)

/-- Work of the dispatcher: a descriptor to place, and a scribe with free threads (R189, R323). -/
def dispatcherWorks (s : State) : Bool :=
  (nextRing s).isSome && (List.finRange 16).any fun k => k.val < scribeCount s.var && decide (0 < freeThreads s k)

/-- Work of the mirror engine: something to send, and credits (R323). -/
def mirrorWorks (s : State) : Bool := decide (0 < s.mir.credits) && (s.mir.commit.isSome || s.mir.serve.isSome)

/-- Whether a unit with a progress monitor holds accepted work and is in no exempt wait (R323). The spine has no exempt wait: it works while any unit
does. -/
def unitWorks (s : State) (unit : Byte) (loc : W64) : Bool :=
  match unit.toNat with
  | 0x05 => tileWorks s
  | 0x07 | 0x23 => boardWorks s
  | 0x0A => queueWorks s (Fin.ofNat 64 (fieldN loc 5 0))
  | 0x0C => tileWorks s || boardWorks s || dispatcherWorks s || mirrorWorks s || (List.finRange 64).any (queueWorks s)
  | 0x0E => mirrorWorks s
  | _ => decide (0x10 ≤ unit.toNat) && decide (unit.toNat < 0x20) && dispatcherWorks s

/-- PROGRESS_MONITOR_EXPIRY: 400 sc without progress of a unit that holds accepted work, outside the exempt waits; a progress that ERRINJ withholds
is one (R323, R340, R341, R466). -/
def execProgressMonitorExpiry (unit : Byte) (loc : W64) (what : BitVec 6) (s : State) : Host.Outcome State Fault Refusal :=
  event s (
    let l := loc &&& locMask unit
    let inj := injKind s unit = 7 ∧ injSel s = l.toNat % 2 ^ 32
    if bit s.c.chkdis 8 = true ∨ unitWorks s unit l = false then none
    else some (postRecord (if inj then disarm s else s) 0x0B unit 2 l (what.setWidth 24) inj 0))

end Sys2Proof.Machine
end

