-- ==== Sys2Proof/Machine/Debug.lean ====
section
/-! DEFINITION. The debug module: halts, breakpoints, steps, and its register and memory commands (R440 to R442). -/
namespace Sys2Proof.Machine

/-- Replaces the debug module. -/
def setDbg (s : State) (d : Dbg) : State := { s with dbg := d }

/-- The general core halts before the next instruction of the executing bank, its fetched instructions discarded; the progress of a save or load
of a bank is kept (R297, R441). -/
def haltCore (s0 : State) (cause : BitVec 2) (bp : BitVec 2) : State :=
  let s := keepXfer s0
  { s with
    stall := none
    ca := { s.ca with lineBuf := none }
    dbg := { s.dbg with
      halted := true, haltReq := false, cause := cause, bp := bp, bank := s.c.cur, pc := (curBank s).pc
      stepping := false, stepDone := false, skip := false } }

/-- DBG_HALTREQ: a write of HALTREQ (R440). -/
def execDbgHaltreq (s : State) : Host.Outcome State Fault Refusal :=
  event s (if dbgEn s && !s.win.clearing then some (setDbg s { s.dbg with haltReq := true }) else none)

/-- Whether the core is at a point where a halt is taken: between instructions, or in any wait of the model but that of a vector store which is partly
in the store buffer (R225, R281, R441). -/
def haltPoint (s : State) : Bool :=
  domRuns s dCore && s.ca.sbLast.isNone && !s.dbg.halted && !s.win.wrst && !s.win.warmHigh && (curBank s).st == .run

/-- DBG_HALT: a requested halt is taken; a request to a sleeping CORE wakes it (R28, R441). -/
def execDbgHalt (s : State) : Host.Outcome State Fault Refusal :=
  event s (
    if !s.dbg.haltReq then none
    else if domUse s dCore = .asleep ∧ s.dbg.halted = false then some (wakeRequest s dCore)
    else if haltPoint s then some (haltCore s 0 s.dbg.bp) else none)

/-- BREAKPOINT_HALT: breakpoint k matches the next instruction (R441). -/
def execBreakpointHalt (k : Fin 4) (s : State) : Host.Outcome State Fault Refusal :=
  event s (if haltPoint s && !s.dbg.skip && s.stall.isNone && breakpointAt s k then some (haltCore s 2 (BitVec.ofNat 2 k.val)) else none)

/-- DBG_RESUME: a write of RESUME; the halted bank goes on at its resume pc, for one instruction where STEP is 1 (R440, R441). -/
def execDbgResume (s : State) : Host.Outcome State Fault Refusal :=
  event s (
    if !dbgEn s || s.win.clearing then none
    else if !s.dbg.halted then some (setDbg s { s.dbg with resume := true })
    else if domUse s dCore = .asleep then some (wakeRequest (setDbg s { s.dbg with resume := true }) dCore)
    else
      let b := curBank s
      let s1 := setCur s { b with pc := align4 b.pc }
      some (setDbg s1 { s.dbg with resume := false, halted := false, skip := true, stepping := s.dbg.step, stepDone := false }))

/-- STEP_HALT: the one instruction of a step has executed (R440). -/
def execStepHalt (s : State) : Host.Outcome State Fault Refusal :=
  event s (if s.dbg.stepDone && haltPoint s then some (haltCore s 1 s.dbg.bp) else none)

/-- Ends the command of the debug module. -/
def dbgEnd (s : State) (err : BitVec 3) : State := setDbg s { s.dbg with busy := false, started := none, err := err }

/-- Whether an item is held by a bank (R295). -/
def bankItem (n : Nat) : Bool := bankedReg n || (0xF00 ≤ n && n ≤ 0xF20)

/-- An item of a bank (R295). -/
def bankItemRead (n : Nat) (b : Bank) : W64 :=
  if bankedReg n then bankedRead n b else if n = 0xF20 then b.pc else b.g[Fin.ofNat 32 n]

/-- An item of a bank after a write without ring checks: FL takes every field as it is written (R256, R442). -/
def bankItemWrite (n : Nat) (v : W64) (b : Bank) : Bank :=
  if n = 1 then wfl b (flMask v)
  else if bankedReg n then bankedWrite n v 0 true b
  else if n = 0xF20 then touchCtl { b with pc := v }
  else wg b (Fin.ofNat 32 n) v

/-- The state after a write of an unbanked control register by the module: as MTC, the executing bank's pc left as it is (R442). A write that
waits is tried again. -/
def dbgMtc (n : Nat) (v : W64) (s : State) : State :=
  let b := curBank s
  let pc := if n = 0x30 ∧ fieldN v 4 2 = 5 then b.pc - 4 else b.pc
  match regWrite n v { b with pc := pc } s with
  | .ok b1 s1 => dbgEnd (setCur s1 { b1 with pc := b.pc }) 0
  | .jump b1 s1 => dbgEnd (setCur s1 b1) 0
  | .done s1 | .trap s1 => dbgEnd s1 0
  | .exc _ _ s1 | .wait s1 => s1

/-- A register command waits for a sleeping CORE, and for the long results of the bank whose g registers it names (R28, R295). -/
def dbgWaits (s : State) : Bool :=
  domUse s dCore == .asleep || (0xF00 ≤ s.dbg.item.toNat && s.dbg.item != 0xF20 && !s.banks[s.dbg.cbank].longs.isEmpty)

/-- The frame of a register command: its errors, and its waits (R442). -/
def dbgReg (write : Bool) (s : State) (f : State → State) : Option State :=
  let d := s.dbg
  if !d.busy || d.mem || d.write != write then none
  else if !d.halted then some (dbgEnd s 1)
  else if !bankItem d.item.toNat && (regRings s.var d.item.toNat).isNone then some (dbgEnd s 2)
  else if dbgWaits s then some (wakeRequest s dCore)
  else some (f s)

/-- The register that a command reads. -/
def dbgRegRead (s : State) : State :=
  let n := s.dbg.item.toNat
  let x := if bankItem n then bankItemRead n s.banks[s.dbg.cbank] else regRead n (curBank s) s
  dbgEnd (setDbg s { s.dbg with data := x }) 0

/-- The register that a command writes; a register whose fields are RO keeps its value (R37). -/
def dbgRegWrite (s : State) : State :=
  let n := s.dbg.item.toNat
  let k := s.dbg.cbank
  if bankItem n then
    let b := bankItemWrite n s.dbg.data s.banks[k]
    let s1 := setBank s k b
    dbgEnd (if n = 0xF20 ∧ k = s.c.cur then setDbg s1 { s.dbg with pc := b.pc } else s1) 0
  else if regRings s.var n = some (3, none) ∨ regRings s.var n = some (1, none) then dbgEnd s 0
  else dbgMtc n s.dbg.data s

/-- DBG_CMD_REG_READ (R442). -/
def execDbgCmdRegRead (s : State) : Host.Outcome State Fault Refusal := event s (dbgReg false s dbgRegRead)

/-- DBG_CMD_REG_WRITE (R442). -/
def execDbgCmdRegWrite (s : State) : Host.Outcome State Fault Refusal := event s (dbgReg true s dbgRegWrite)

/-- The physical address of a memory command (R440). -/
def dbgPa (x : W64) : Nat := fieldN x 55 0

/-- The frame of a memory command: its alignment, and a vellum that is off, asleep or zeroed (R28, R162, R442). -/
def dbgMem (write : Bool) (s : State) (f : Nat → State → State) : Option State :=
  let d := s.dbg
  let a := dbgPa d.addr
  if !d.busy || !d.mem || d.write != write || d.started.isSome then none
  else if a % 8 ≠ 0 then some (dbgEnd s 4)
  else match domUse s dVellum with
    | .off => some (dbgEnd s 3)
    | .asleep => some (wakeRequest s dVellum)
    | .ready => if s.vellumZeroing && inVellum s a then none else some (f a s)

/-- DBG_CMD_MEM_READ: the read is on its way (R442). -/
def execDbgCmdMemRead (s : State) : Host.Outcome State Fault Refusal :=
  event s (dbgMem false s fun a s => setDbg s { s.dbg with started := some (false, BitVec.ofNat 64 a) })

/-- DBG_CMD_MEM_WRITE: the doubleword is written, which the mirror tracks; a write to the alias is answered TGTERR (R350, R353, R420, R442). -/
def execDbgCmdMemWrite (s : State) : Host.Outcome State Fault Refusal :=
  event s (dbgMem true s fun a s =>
    if inAlias s a then dbgEnd s 3
    else match heldGranules s a 8 with
      | [] => setDbg (agentWrite s .other .cacheable a (toBytes 8 s.dbg.data)) { s.dbg with started := some (true, BitVec.ofNat 64 a) }
      | l => askGranules s l)

/-- DBG_CMD_DONE: the data arrives, or the write is visible to all agents, for which tokens are sent (R418); a bus error or an uncorrectable error ends with ERR 3 (R442). -/
def execDbgCmdDone (err : Bool) (s : State) : Host.Outcome State Fault Refusal :=
  event s (
    match s.dbg.started with
    | none => none
    | some (write, a) =>
      if !s.dbg.busy then none
      else if err then some (dbgEnd s 3)
      else if write then some (if writesVisible s .other then dbgEnd s 0 else askVisible s .other)
      else match accessCheck s true a.toNat 8 with
        | (s1, some _) => some (dbgEnd s1 3)
        | (s1, none) =>
          let bs := (List.range 8).map fun i => ownByte s1 true (a.toNat + i)
          some (dbgEnd (setDbg s1 { s1.dbg with data := ofBytes 64 bs }) 0))

end Sys2Proof.Machine
end

