-- ==== Sys2Proof/Machine/Fabric.lean ====
section
/-! DEFINITION. The fabric ports: probes, broadcast invalidations, message-signalled interrupts, target requests, responses and their errors, tokens and credits (R250, R410 to R422). -/
namespace Sys2Proof.Machine

/-- Replaces a port. -/
def setPort (s : State) (p : PortNum) (x : Port) : State := { s with port := s.port.set p.val x p.isLt }

/-- Sends a message on ORSP (R411). -/
def sendOrsp (s : State) (p : PortNum) (m : Msg) : State := setPort s p { s.port[p] with orsp := some m }

/-- An answer of the core: its own ID as the sender (R412). -/
def answerMsg (s : State) (opc : Byte) (tag : BitVec 12) (resp : BitVec 4) (poison : Bool) (d : Option LineWord) : Msg :=
  ⟨opc, tag, BitVec.ofNat 20 s.cfg.coreid.toNat, resp, poison, 0, d⟩

/-- Sends an answer. -/
def answerOn (s : State) (p : PortNum) (opc : Byte) (tag : BitVec 12) (resp : BitVec 4) (poison : Bool) (d : Option LineWord) : State :=
  sendOrsp s p (answerMsg s opc tag resp poison d)

/-- A record of the fabric ports (R322, R331, R332, R414). -/
def portRecord (s : State) (cls : Byte) (pa : BitVec 56) (synd : BitVec 24) (inj : Bool) : State :=
  postRecord s cls 0x0D 1 (pa.setWidth 64) synd inj 0

/-- A message that fails its CRC: its error form with the received tag and source ID, and a record; source ID and CRC are the message's own and
free here (R416). -/
def crcAnswer (s : State) (p : PortNum) (opc : Byte) (tag : BitVec 12) (pa : BitVec 56) : State :=
  let (src, s1) := draw 20 s
  let (crc, s2) := draw 24 s1
  portRecord (sendOrsp s2 p ⟨opc, tag, src, 5, false, 0, none⟩) 0x09 pa crc false

/-- A message of the snoop class meets the port: it needs a credit, and it wakes a clock-gated VELLUM (R28, R415, R421). -/
def snoopEvent (s : State) (p : PortNum) (f : State → State) : Host.Outcome State Fault Refusal :=
  event s (
    match domUse s dVellum with
    | .off => none
    | .asleep => some (wakeRequest s dVellum)
    | .ready => if s.port[p].snoopCr = 0 then none else some (f s))

/-- The kinds of probes (R415). -/
inductive Probe where
  | shr | own | kill
  deriving DecidableEq, Repr

/-- Replaces or removes the L2 copy at a place. -/
def setL2 (s : State) (k : Nat) (x : Option L2Line) : State := { s with ca := { s.ca with l2 := spSet none s.ca.l2 k x } }

/-- The core's part of a probe of a line: inner copies go first, then the answer and the state of the table of R415. A line whose WriteLine is not
yet acknowledged is answered from the write-back buffer, whatever the probe. -/
def probeLine (s : State) (p : PortNum) (tag : BitVec 12) (k : Probe) (la : BitVec 50) : State :=
  match s.ca.wb.find? (·.la == la) with
  | some w => answerOn (discardLine s la) p 0xC3 tag (if w.poison then 2 else 0) w.poison (some w.data)
  | none =>
  let s1 := dropInner (flushL1d s la) la
  match l2Find s1 la with
  | none => answerOn s1 p 0xC1 tag 0 false none
  | some (i, l) =>
    match k with
    | .kill => answerOn (setL2 s1 i none) p 0xC1 tag 0 false none
    | .shr =>
      let s2 := setL2 s1 i (some { l with st := .s })
      if l.poison then answerOn (putMemLine s2 la true l.data) p 0xC4 tag 2 true (some l.data)
      else if l.st = .m then answerOn (putMemLine s2 la false l.data) p 0xC4 tag 0 false (some l.data)
      else answerOn s2 p 0xC2 tag 0 false none
    | .own =>
      let s2 := setL2 s1 i none
      if l.poison then answerOn (putMemLine s2 la true l.data) p 0xC3 tag 2 true (some l.data)
      else if l.st = .m then answerOn (putMemLine s2 la false l.data) p 0xC3 tag 0 false (some l.data)
      else answerOn s2 p 0xC1 tag 0 false none

/-- A probe, with the data that the requesting agent writes behind it (R415, R416, log 4). -/
def probe (k : Probe) (p : PortNum) (tag : BitVec 12) (pa : BitVec 56) (crcOk : Bool) (new : Option LineWord) (s : State) :
    Host.Outcome State Fault Refusal :=
  snoopEvent s p fun s =>
    if !crcOk then crcAnswer s p 0xC1 tag pa
    else if inVellum s pa.toNat then answerOn s p 0xC1 tag 0 false none
    else
      let s1 := probeLine s p tag k (lineNo pa.toNat)
      match new with
      | some d => putMemLine s1 (lineNo pa.toNat) false d
      | none => s1

/-- PROBE_SHR (R415). -/
def execProbeShr (p : PortNum) (tag : BitVec 12) (pa : BitVec 56) (crcOk : Bool) (s : State) : Host.Outcome State Fault Refusal :=
  probe .shr p tag pa crcOk none s
/-- PROBE_OWN (R415). -/
def execProbeOwn (p : PortNum) (tag : BitVec 12) (pa : BitVec 56) (crcOk : Bool) (new : Option LineWord) (s : State) :
    Host.Outcome State Fault Refusal := probe .own p tag pa crcOk new s
/-- PROBE_KILL (R415). -/
def execProbeKill (p : PortNum) (tag : BitVec 12) (pa : BitVec 56) (crcOk : Bool) (new : LineWord) (s : State) :
    Host.Outcome State Fault Refusal := probe .kill p tag pa crcOk (some new) s

/-- The form of a TLBIMsg (R248, R413). -/
def tlbiForm (ga : W64) (asid : BitVec 16) (ty : BitVec 2) : TlbiForm :=
  match ty.toNat with
  | 0 => .all
  | 1 => .asid asid
  | 2 => .va ga asid
  | _ => .vaall ga

/-- Whether the translation caches of CORE hold entries (R250). -/
def coreTlbUsed (s : State) : Bool := !s.ca.itlb.isEmpty || !s.ca.dtlb.isEmpty || !s.ca.l2tlb.isEmpty || !s.ca.walkc.isEmpty

/-- TLBI_MSG: the removal, to be acknowledged later; the core's own message is acknowledged at once (R250, R419). A message keeps its credit until
it is answered (R421). -/
def execTlbiMsg (p : PortNum) (tag : BitVec 12) (src : BitVec 20) (ga : W64) (asid : BitVec 16) (ty : BitVec 2) (crcOk : Bool) (s : State) :
    Host.Outcome State Fault Refusal :=
  snoopEvent s p fun s =>
    if !crcOk then crcAnswer s p 0xC5 tag 0
    else if src = BitVec.ofNat 20 s.cfg.coreid.toNat then answerOn s p 0xC5 tag 0 false none
    else
      let s1 := if coreTlbUsed s then wakeRequest s dCore else s
      let s2 := tlbiRemove (tlbiForm ga asid ty) s1
      { setPort s2 p { s2.port[p] with snoopCr := s2.port[p].snoopCr - 1 } with tlbiRx := s2.tlbiRx ++ [⟨p, tag, src⟩] }

/-- Whether accesses that were translated earlier are not yet performed: store-buffer entries, issued requests of tiles and queues, and writes that the
mirror engine holds (R250, R353). -/
def accessesOut (s : State) : Bool :=
  !s.ca.sb.isEmpty || s.ca.sbLast.isSome || (s.ops.any fun o => !o.out.isEmpty) || !s.mir.held.isEmpty

/-- TLBI_ACK: every access through a removed entry has been performed, and the oldest message is acknowledged (R250, R421). -/
def execTlbiAck (s : State) : Host.Outcome State Fault Refusal :=
  event s (
    match s.tlbiRx with
    | [] => none
    | m :: ms =>
      if !domRuns s dVellum || accessesOut s || (s.dom[dCore].goal == some .run && coreTlbUsed s) then none
      else
        let s1 := setPort { s with tlbiRx := ms } m.port { s.port[m.port] with snoopCr := s.port[m.port].snoopCr + 1 }
        some (answerOn s1 m.port 0xC5 m.tag 0 false none))

/-- INT_MSG: a message-signalled interrupt for this core (R280, R422). -/
def execIntMsg (p : PortNum) (tag : BitVec 12) (id : BitVec 20) (vec : Byte) (data : W32) (crcOk : Bool) (s : State) :
    Host.Outcome State Fault Refusal :=
  snoopEvent s p fun s =>
    if !crcOk then crcAnswer s p 0xC7 tag (id.setWidth 56)
    else if id = BitVec.ofNat 20 s.cfg.coreid.toNat ∧ 0x80 ≤ vec.toNat then
      let i : Fin 128 := Fin.ofNat 128 (vec.toNat - 0x80)
      let s1 := pend { s with c := { s.c with msiData := s.c.msiData.set i.val data i.isLt } } vec
      answerOn (wakeRequest s1 dCore) p 0xC7 tag 0 false none
    else answerOn s p 0xC7 tag 3 false none

/-- The opcode that answers a target request (R420). -/
def tgtAnswer : TgtOp → Byte
  | .writeLine | .writeStream => 0xC7
  | _ => 0xC6

/-- Whether word w (of 8) of a block has a byte named in a mask. -/
def maskWord (mask : W64) (w : Nat) : Nat := fieldN mask (8 * w + 7) (8 * w)

/-- The vellum words of a block that a mask names and that hold an uncorrectable code. -/
def badWords (s : State) (o : Nat) (mask : W64) : List Nat :=
  (List.range 8).filter fun w => maskWord mask w != 0 && s.vellumBad.contains (o / 8 + w)

/-- What the words of a block that a mask names hold as they are read: errors are corrected, or recorded (R162, R420). -/
def meetBlock (s : State) (o : Nat) (mask : W64) : State :=
  ((List.range 8).filter (maskWord mask · != 0)).foldl (fun s w => (readCheck s false (s.cfg.vellumbase.toNat + o + 8 * w) 8).1) s

/-- A block as the answer to a read: the bytes that were asked for, the others free (R411, R413). -/
def readBlock (s : State) (o : Nat) (mask : W64) : LineWord × State :=
  let (r, s1) := draw 512 s
  ((List.range 64).foldl (fun d i => if bit mask i then setLineByte d i (spGet 0 s.vellum (o + i)) else d) r, s1)

/-- The named bytes of a block written to the vellum, word by word; a partial write of a word reads it first (R162). -/
def writeBlock (s : State) (o : Nat) (d : LineWord) (mask : W64) : State :=
  (List.range 8).foldl (fun s w =>
    if maskWord mask w = 0xFF then writeVellum s (o + 8 * w) ((List.range 8).map fun i => lineByte d (8 * w + i))
    else if maskWord mask w = 0 then s
    else (List.range 8).foldl (fun s i =>
      if bit mask (8 * w + i) then writeVellum s (o + 8 * w + i) [lineByte d (8 * w + i)] else s) (meetMerge s (o + 8 * w) 1)) s

/-- An atomic at the vellum's bank: the answer's data holds the old value in its low bytes (R58, R413). -/
def targetAtomic (s : State) (p : PortNum) (tag : BitVec 12) (cas : Bool) (pa n : Nat) (d : LineWord) : State :=
  let o := vOff s pa
  match readCheck s false pa n with
  | (s, some _) => answerOn s p 0xC6 tag 2 false none
  | (s, none) =>
    let old := bytesNat (spGetAll 0 s.vellum o n)
    let a := fieldN d (8 * n - 1) 0
    let new : Option Nat := if cas then (if old = a then some (fieldN d (64 + 8 * n - 1) 64) else none) else some (old + a)
    let s1 := match new with
      | some x => writeVellum s o (toBytes n (BitVec.ofNat 64 x))
      | none => s
    let (r, s2) := draw 512 s1
    answerOn s2 p 0xC6 tag 0 false (some (setField r (8 * n - 1) 0 old))

/-- A request to the vellum window (R162, R417, R420). -/
def targetVellum (s : State) (p : PortNum) (tag : BitVec 12) (op : TgtOp) (pa : Nat) (size : BitVec 2) (d : LineWord) (mask : W64) (poison : Bool) : State :=
  let o := vOff s pa / 64 * 64
  let m : W64 := if op = .readLine ∨ op = .writeLine then BitVec.allOnes 64 else mask
  match op with
  | .readLine | .readStream =>
    let bad := badWords s o m
    let (x, s1) := readBlock (meetBlock s o m) o m
    answerOn s1 p 0xC6 tag 0 (!bad.isEmpty) (some x)
  | .writeLine | .writeStream =>
    let s1 := writeBlock s o d m
    let s2 := if poison then (List.range 64).foldl (fun s i => if bit m i then markPoison s false (pa / 64 * 64 + i) 1 else s) s1 else s1
    answerOn s2 p 0xC7 tag 0 false none
  | .atomicCas | .atomicAdd =>
    let n := if size = 2 then 4 else if size = 3 then 8 else 0
    if n = 0 ∨ pa % n ≠ 0 then answerOn s p 0xC6 tag 3 false none
    else targetAtomic s p tag (op == .atomicCas) pa n d
  | .other => answerOn s p 0xC6 tag 3 false none

/-- A word access to the alias, through its own latches (R420, R426, R429). -/
def aliasAccess (s : State) (p : PortNum) (tag : BitVec 12) (write : Bool) (off : Nat) (v : W32) : State :=
  if write then answerOn (winWrite s off v .alias_) p 0xC7 tag 0 false none
  else
    let (x, s1) := winRead (windowMeet s off 4) off .alias_
    let (r, s2) := draw 512 s1
    let lo := 8 * (off % 64)
    answerOn s2 p 0xC6 tag 0 false (some (setField r (lo + 31) lo x.toNat))

/-- The aligned word that a mask names, by its first byte. -/
def maskedWord (mask : W64) : Option Nat :=
  ((List.range 16).map (4 * ·)).find? fun i => mask == place 64 15 i

/-- A target request that meets an awake core (R420). -/
def targetServe (p : PortNum) (tag : BitVec 12) (op : TgtOp) (pa : BitVec 56) (size : BitVec 2) (d : LineWord) (mask : W64) (poison : Bool)
    (s : State) : State :=
  let a := pa.toNat
  if inVellum s a then targetVellum s p tag op a size d mask poison
  else if inAlias s a then
    match (if op = .readStream ∨ op = .writeStream then maskedWord mask else none) with
    | some i => aliasAccess s p tag (op == .writeStream) (a % 65536 / 64 * 64 + i) (BitVec.ofNat 32 (d.toNat >>> (8 * i)))
    | none => answerOn s p (tgtAnswer op) tag 3 false none
  else answerOn s p (tgtAnswer op) tag 1 false none

/-- TARGET_REQUEST (R416, R417, R420). -/
def execTargetRequest (p : PortNum) (tag : BitVec 12) (op : TgtOp) (pa : BitVec 56) (size : BitVec 2) (data : LineWord) (mask : W64)
    (poison crcOk : Bool) (s : State) : Host.Outcome State Fault Refusal :=
  event s (
    match domUse s dVellum with
    | .off => if inVellum s pa.toNat then some (answerOn s p (tgtAnswer op) tag 4 false none) else none
    | .asleep => some (wakeRequest s dVellum)
    | .ready =>
      if s.port[p].targetCr = 0 ∨ s.vellumZeroing = true then none
      else if !crcOk then some (crcAnswer s p (tgtAnswer op) tag pa)
      else some (targetServe p tag op pa size data mask poison s))

/-- MGMT_ALIAS_ACCESS: one aligned word of the alias, where it is served (R420, R453). -/
def execMgmtAliasAccess (p : PortNum) (tag : BitVec 12) (write : Bool) (off : BitVec 16) (v : W32) (s : State) : Host.Outcome State Fault Refusal :=
  event s (
    let pa := fieldN s.cfg.mgmtbase 55 16 * 65536 + off.toNat
    match domUse s dVellum with
    | .off => none
    | .asleep => some (wakeRequest s dVellum)
    | .ready =>
      if s.port[p].targetCr = 0 ∨ s.win.clearing = true ∨ inAlias s pa = false ∨ off.toNat % 4 ≠ 0 then none
      else some (aliasAccess s p tag write off.toNat v))

/-- What a response or its absence is to the requester (R414). -/
inductive RespErr where
  | resp (r : BitVec 4)
  | crc
  | poison
  | timeout
  deriving DecidableEq, Repr

/-- CAUSE and DETAIL of a stream or scribe request (R174, R193, R414). -/
def respCause : RespErr → BitVec 5 × Byte
  | .resp r => (0x05, r.setWidth 8)
  | .crc => (0x05, 0xFE)
  | .poison => (0x07, 0)
  | .timeout => (0x06, 0)

/-- The condition of a precise access of the general core (R272, R414). -/
def respExc (e : RespErr) (acc : Acc) (va : W64) : EntryCause :=
  match e with
  | .resp _ => .busError 1 acc va
  | .crc => .busError 2 acc va
  | .poison => .dataError true acc va
  | .timeout => .busError 3 acc va

/-- The walks of a requester to an address end (R241). -/
def endWalks (s : State) (p : WalkReq → Bool) (va : W64) : State :=
  { s with ca := { s.ca with walks := s.ca.walks.filter fun w => !(p w.req && w.va == va) } }

/-- A walk-bus-error of the general core (R241, R272). -/
def coreWalkBus (s : State) (acc : Acc) (va : W64) : State :=
  let e : Exc := { code := 0x06, acc := acc, addr := va }
  if !coreRuns s then s else if acc = .fetch then fetchFaultEntry s e else raise e s

/-- The failed request of a queue: a record write, a descriptor read, or an access to data (R174 to R177). -/
def failQueue (s : State) (q : QNum) (c : BitVec 5 × Byte) (w : Bool) (va : W64) (pa : BitVec 56) : State :=
  (queueFault s q c.1 c.2 va (pa.setWidth 64) w).getD s

/-- The failed request of a tile's transfer (R76). -/
def failTile (s : State) (t : TReg) (c : BitVec 5 × Byte) (va : W64) (pa : BitVec 56) : State :=
  match liveTransfer s t with
  | some o => failTransfer s o c.1 c.2 va (pa.setWidth 64)
  | none => s

/-- Stops a live thread (R193). -/
def stopLive (s : State) (k : ScribeNum) (t : Fin 128) (cause : BitVec 5) (va : W64) (pa : BitVec 56) : State :=
  match threadOf s k t with
  | some x => if x.stopped then s else stopThread s k t x cause va (pa.setWidth 64)
  | none => s

/-- The mirror engine meets an error on a read: its commit is abandoned, the answer to a FREQ ends with FEND 4, or its fetch or verify ends
(R357, R361, R414). -/
def failMirror (s : State) (pa : BitVec 56) : State :=
  let g := (granulesOf s pa.toNat 1).head?
  if s.mir.commit.isSome then mirAdvance (abandonCommit false g s)
  else if s.mir.serve.isSome then endServe s 4
  else abortFetch s 0x32 g

/-- A walk of the core fails: one in progress was made for no access that has become non-speculative, and ends without a fault; else the access at
the ROB head meets it (R241, R243). -/
def failCoreWalk (s : State) (acc : Acc) (va : W64) : State :=
  let s1 := endWalks s (fun r => r == .core acc) va
  if s1.ca.walks.length < s.ca.walks.length then s1 else coreWalkBus s1 acc va

/-- What a failed request does to its requester; that of an L2 write-back frees its place in the write-back buffer (R241, R357, R397, R398, R414,
R415). -/
def failRequest (s : State) (c : ReqCtx) (pa : BitVec 56) (e : RespErr) : State :=
  match c with
  | .core acc va => (exceptionOf (respExc e acc va) s).getD s
  | .store => s
  | .l2 => unbuffer s (lineNo pa.toNat)
  | .stream q va w => failQueue s q (respCause e) w va pa
  | .tile t va _ => failTile s t (respCause e) va pa
  | .scribe k t va => stopLive s k t (respCause e).1 va pa
  | .walkCore acc va => failCoreWalk s acc va
  | .walkStream q va => failQueue (endWalks s (fun r => match r with | .stream j _ => j == q | _ => false) va) q (0x03, 0) false va 0
  | .walkTile t va => failTile (endWalks s (fun r => match r with | .tile j _ => j == t | _ => false) va) t (0x03, 0) va 0
  | .walkScribe k t va => stopLive (endWalks s (fun r => match r with | .scribe j i _ => j == k && i == t | _ => false) va) k t 0x03 va 0
  | .mirror => failMirror s pa
  | .quillDma => dmaFail s pa.toNat

/-- A request is answered OK: a line whose WriteLine it was leaves the write-back buffer (R415). -/
def answered (s : State) (c : ReqCtx) (pa : BitVec 56) : State := if c = .l2 then unbuffer s (lineNo pa.toNat) else s

/-- Class and syndrome of the record of a failed request (R331, R414). -/
def respClass (p : PortNum) (e : RespErr) (crc : W32) : Byte × BitVec 24 :=
  match e with
  | .resp r => if r = 5 then (0x09, field crc 23 0) else (0x12, place 24 r.toNat 0 ||| place 24 p.val 4)
  | .crc => (0x09, field crc 23 0)
  | .poison => (0x03, 0)
  | .timeout => (0x0A, BitVec.ofNat 24 p.val)

/-- What a response tells: nothing wrong, or its error; a failed CRC counts first. -/
def respErr (resp : BitVec 4) (crcOk poison : Bool) : Option RespErr :=
  if !crcOk then some .crc else if resp ≠ 0 then some (.resp resp) else if poison then some .poison else none

/-- The record and the consequence of a failed request (R414). -/
def requestFails (s : State) (p : PortNum) (c : ReqCtx) (pa : BitVec 56) (e : RespErr) (crc : W32) (inj : Bool) : State :=
  let (cls, synd) := respClass p e crc
  failRequest (portRecord s cls pa synd inj) c pa e

/-- Whether the armed injection strikes the next response on a port (R341, R466). -/
def crcStruck (s : State) (p : PortNum) : Bool := injKind s 0x0D == 6 && injSel s == p.val

/-- A response, with the CRC that an injection may have changed: the late one of a timed-out request frees its tag; another completes its request or
raises its error (R414). -/
def response (s : State) (p : PortNum) (tag : BitVec 12) (c : ReqCtx) (pa : BitVec 56) (e : Option RespErr) (crc : W32) (inj : Bool) : Option State :=
  if s.port[p].reserved.contains tag then some (setPort s p { s.port[p] with reserved := s.port[p].reserved.erase tag })
  else match e with
    | some e => some (requestFails s p c pa e crc inj)
    | none => some (answered s c pa)

/-- FABRIC_RESPONSE (R341, R414, R466). -/
def execFabricResponse (p : PortNum) (tag : BitVec 12) (c : ReqCtx) (pa : BitVec 56) (resp : BitVec 4) (crc : W32) (crcOk poison : Bool)
    (s : State) : Host.Outcome State Fault Refusal :=
  event s (
    if crcStruck s p then response (disarm s) p tag c pa (respErr resp false poison) (crc ^^^ 1) true
    else response s p tag c pa (respErr resp crcOk poison) crc false)

/-- FABRIC_TIMEOUT: a request unanswered within the CFG_FABRIC time (R414). -/
def execFabricTimeout (p : PortNum) (tag : BitVec 12) (c : ReqCtx) (pa : BitVec 56) (s : State) : Host.Outcome State Fault Refusal :=
  event s (
    if s.port[p].reserved.contains tag then none
    else some (requestFails (setPort s p { s.port[p] with reserved := s.port[p].reserved ++ [tag] }) p c pa .timeout 0 false))

/-- ORD_DONE: the writes that the core sent on the port before the token are visible, and lines that waited for that are complete
(R75, R169, R418). -/
def execOrdDone (p : PortNum) (s : State) : Host.Outcome State Fault Refusal :=
  event s (if s.port[p].token then some (settleLines (setPort s p { s.port[p] with token := false, cover := 0 })) else none)

/-- TLBI_DONE (R249, R419). -/
def execTlbiDone (s : State) : Host.Outcome State Fault Refusal :=
  event s (if s.tlbiOut = 0 then none else some { s with tlbiOut := s.tlbiOut - 1 })

/-- OREQ_CREDIT: up to two credits come back in a cc to a port that is up (R411, R413). -/
def execOreqCredit (p : PortNum) (n : BitVec 2) (s : State) : Host.Outcome State Fault Refusal :=
  event s (if s.port[p].up ∧ n.toNat ≤ 2 then some (setPort s p { s.port[p] with credits := s.port[p].credits + n.toNat }) else none)

/-- Whether VELLUM has completed its power-up, so that the ports grant credits (R415, R456). -/
def vellumUp (s : State) : Bool :=
  (s.dom[dVellum].st == .run || s.dom[dVellum].st == .gated) && !s.vellumZeroing && domUse s dVellum != .off

/-- FABRIC_PORT_UP: FPp_UP rises, and the core grants its IREQ credits (R421). -/
def execFabricPortUp (p : PortNum) (s : State) : Host.Outcome State Fault Refusal :=
  pinEvent s (setPort s p { s.port[p] with up := true }) (
    if s.port[p].up then none
    else
      let x := { s.port[p] with up := true }
      some (setPort s p (if vellumUp s then grantPort x else x)))

/-- FPP_UP_FALL: the port holds no credit and sends nothing (R413). -/
def execFppUpFall (p : PortNum) (s : State) : Host.Outcome State Fault Refusal :=
  pinEvent s (setPort s p { s.port[p] with up := false }) (if s.port[p].up then some (setPort s p { s.port[p] with up := false, credits := 0, snoopCr := 0, targetCr := 0 }) else none)

end Sys2Proof.Machine
end

