-- ==== Sys2Proof/Machine/Fence.lean ====
section
/-! DEFINITION. FENCE, TLBI in its four forms, their completion, and the invalidations that come from the fabric (R60, R61, R248 to R250, R418, R419). -/
namespace Sys2Proof.Machine

/-- Whether an operation belongs to the tile class (R60, R97): operations of tiles, of the board and of the inkwell. -/
def tileClass (o : Op) : Bool :=
  match o.kind with
  | .smove | .remap => false
  | _ => true

/-- Whether work that SLAUNCH started holds a fence: a descriptor published and not posted, or the valid record of a refused one (R60, R191). -/
def scribeWork (s : State) : Bool :=
  (s.rings.toList.any fun r => r.done != r.tail) || s.scribes.toList.any fun x => x.recv && x.refusal

/-- Whether every earlier access of the classes that a mask names has been performed: scalar, tile, stream and scribe (R53, R60). An operation that
is complete but for its posting holds none back, but a stream operation's record is an access of its own (R173). -/
def fenceDone (mask : BitVec 4) (s : State) : Bool :=
  (!bit mask 0 || storesVisible s) &&
  (!bit mask 1 || !s.ops.any fun o => tileClass o && !o.done && !o.abandoned) &&
  (!bit mask 2 || (!(s.ops.any fun o => o.kind == .smove) && writesVisible s .unit)) &&
  (!bit mask 3 || (!scribeWork s && writesVisible s .scribe)) &&
  (mask != 0xF || s.tlbiOut == 0)

/-- What a waiting FENCE asks for: the confirmation of the writes of its classes (R418). -/
def fenceAsk (mask : BitVec 4) (s : State) : State :=
  let s1 := if bit mask 0 then awaitStores s else s
  let s2 := if bit mask 2 then askVisible s1 .unit else s1
  if bit mask 3 then askVisible s2 .scribe else s2

/-- FENCE: with all four classes it also waits for the broadcasts of TLBI and discards what was fetched (R60, R61, R249). -/
def fenceBody (mask : BitVec 4) : Body := fun _ b s =>
  if fenceDone mask s then .ok b (if mask = 0xF then { s with ca := { s.ca with lineBuf := none } } else s)
  else .wait (fenceAsk mask s)

/-- The type, the address and the ASID of a form of TLBI (R248, R419). -/
def tlbiFields : TlbiForm → Nat × W64 × BitVec 16
  | .all => (0, 0, 0)
  | .asid a => (1, 0, a)
  | .va v a => (2, v, a)
  | .vaall v => (3, v, 0)

/-- The payload of TLBIReq (R413). -/
def tlbiData (f : TlbiForm) : LineWord :=
  let (ty, va, a) := tlbiFields f
  BitVec.ofNat 512 (va.toNat + a.toNat * 2 ^ 64 + ty * 2 ^ 80)

/-- Sends a broadcast on port 0 (R413, R419); none while eight are outstanding or the port has no credit. -/
def sendTlbi (f : TlbiForm) (s : State) : Option State :=
  if 8 ≤ s.tlbiOut then none
  else (sendOreq s.port[0] (oreqMsg s 0x08 (some (tlbiData f)))).map fun p =>
    { s with port := s.port.set 0 p (by decide), tlbiOut := s.tlbiOut + 1 }

/-- TLBI: at the ROB head, after every earlier store is visible (R248, R249). A broadcast that cannot be sent yet waits. -/
def tlbiBody (f : Bank → TlbiForm) (loc : Bool) : Body := ringGate 1 fun _ b s =>
  if storesVisible s = false then .wait (awaitStores s)
  else if loc then .ok b (tlbiRemove (f b) s)
  else match sendTlbi (f b) s with
    | some s1 => .ok b (tlbiRemove (f b) s1)
    | none => .wait s

/-- An ASID operand (R248). -/
def asidOf (x : W64) : BitVec 16 := BitVec.ofNat 16 (fieldN x 15 0)

/-- FENCE (R60). -/
def execFence (mask : BitVec 4) (s : State) : Host.Outcome State Fault Refusal := issue (.fence mask) (fenceBody mask) s

/-- FENCE_RETIRE: the FENCE that waits executes again (R60, R61). -/
def execFenceRetire (s : State) : Host.Outcome State Fault Refusal :=
  match s.stall with
  | some (.fence mask) => issue (.fence mask) (fenceBody mask) s
  | _ => event s none

/-- TLBI ALL (R248). -/
def execTlbiAll (loc : Bool) (s : State) : Host.Outcome State Fault Refusal :=
  issue (.tlbiAll loc) (tlbiBody (fun _ => .all) loc) s

/-- TLBI ASID (R248). -/
def execTlbiAsid (gb : GReg) (loc : Bool) (s : State) : Host.Outcome State Fault Refusal :=
  issue (.tlbiAsid gb loc) (tlbiBody (fun b => .asid (asidOf (rg b gb))) loc) s

/-- TLBI VA (R248). -/
def execTlbiVa (ga gb : GReg) (loc : Bool) (s : State) : Host.Outcome State Fault Refusal :=
  issue (.tlbiVa ga gb loc) (tlbiBody (fun b => .va (rg b ga) (asidOf (rg b gb))) loc) s

/-- TLBI VAALL (R248). -/
def execTlbiVaall (ga : GReg) (loc : Bool) (s : State) : Host.Outcome State Fault Refusal :=
  issue (.tlbiVaall ga loc) (tlbiBody (fun b => .vaall (rg b ga)) loc) s

end Sys2Proof.Machine
end

