-- ==== Sys2Proof/Machine/Ply.lean ====
section
/-! DEFINITION. PLYC, and the retry of an instruction that waits for room in its unit (R24, R25, R70, R112, R312, R313). -/
namespace Sys2Proof.Machine

/-- Whether PLYC waits: the previous commit runs, or a tally still folds samples of the previous snapshot (R25). -/
def plycWaits (s : State) : Bool := s.mir.commit.isSome || s.tal.toList.any (·.pend)

/-- The file and the spare of a FILE_SPARE that a remap completes (R379). -/
def spareOfCmd (l : List (Fin 8 × BitVec 10)) (a : Active) : Option (Fin 8 × BitVec 10) :=
  if a.req.op = 0x23 then l.find? fun p => p.2.toNat == bnat a.req.body 0 2 else none

/-- Step 3 of R24 for the remaps: they are placed in the board's order, both plane records are EMPTY for what is accepted next, and the
FILE_SPARE commands complete (R112, R379, R383). -/
def placeRemaps (b : Bank) (s : State) : State :=
  let l := s.bd.remaps
  if l.isEmpty then s
  else
    let s1 := acceptOp s { newOp .remap b s with remap := l }
    let s2 := { s1 with bd := { s1.bd with remaps := [], acc := Vector.replicate 2 {} } }
    s.qu.active.foldl (fun s a => match spareOfCmd l a with
      | some p => clearAdvice (complete s a.id stOk 0 [BitVec.ofNat 8 p.1.val]) p.2.toNat
      | none => s) s2

/-- The four steps of R24. -/
def plycSteps (b : Bank) (s : State) : State :=
  let n := s.c.ply + 1
  let s1 := { s with c := { s.c with ply := n }, tal := vmap (talSnapshot n) s.tal }
  startCommit (placeRemaps b (activateAt s1 n)) n

/-- PLYC (R24, R25). What it completes may post an event to the executing bank (R302). -/
def plycBody : Body := fun _ b s =>
  if plycWaits s then .wait s
  else
    let s1 := plycSteps b s
    .ok (curBank s1) s1

/-- PLYC (R24, R25, R311). -/
def execPlyc (s : State) : Host.Outcome State Fault Refusal := issue .plyc plycBody s

/-- TILE_OP_ACCEPT: the instruction that waits at the ROB head for its unit executes again (R70, R97, R163, R187). -/
def execTileOpAccept (s : State) : Host.Outcome State Fault Refusal :=
  match s.stall with
  | some (.tld t ga gb gc q) => execTld t ga gb gc q s
  | some (.tst t ga gb gc q) => execTst t ga gb gc q s
  | some (.tresume t) => execTresume t s
  | some (.bplane t) => execBplane t s
  | some .bswap => execBswap s
  | some (.brun t gr acc half) => execBrun t gr acc half s
  | some (.iclr gr gc) => execIclr gr gc s
  | some (.idrainTile gr t o) => execIdrainTile gr t o s
  | some (.idrainMemory gr ga gb q o) => execIdrainMemory gr ga gb q o s
  | some (.smove q ga) => execSmove q ga s
  | some (.slaunch wr gn) => execSlaunch wr gn s
  | _ => event s none

end Sys2Proof.Machine
end

