-- ==== Sys2Proof/Machine/Reset.lean ====
section
/-! DEFINITION. Cold and warm reset (R14, R89, R95, R112, R137, R180, R195, R230, R254, R289, R306, R317, R342, R363, R391, R436, R457 to R459). -/
namespace Sys2Proof.Machine

/-- A domain at cold reset: off, its requests 0; the acknowledgements are the host's (R435, R457). -/
def coldDom (x : Dom) : Dom := { fclkAck := x.fclkAck, pwrAck := x.pwrAck }

/-- Everything at its reset value while RST_COLD_N is low. What is kept is no state of the core: its configuration, the memory behind the
fabric, the input pins, and the test wrapper (R436, R438). -/
def coldState (s : State) : State :=
  { ({} : State) with
    var := s.var
    freeCtr := s.freeCtr
    pending := s.pending
    tiles := Vector.replicate 16 (freshTile s.var)
    mem := s.mem
    memBad := s.memBad
    mir := { ({} : Mir) with link := s.mir.link }
    port := vmap (fun p => { ({} : Port) with up := p.up }) s.port
    win := { ({} : Win) with intIn := s.win.intIn, coldLow := true, warmHigh := s.win.warmHigh }
    test := { s.test with undef := false }
    dom := vmap coldDom s.dom
    heldOff := presentMask s.var }

/-- RST_COLD_ASSERT: takes effect at once (R436). -/
def execRstColdAssert (s : State) : Host.Outcome State Fault Refusal := .next (coldState s)

/-- A domain at the release: one whose acknowledgements have not come down is still on its way to off (R433, R435). -/
def releaseDom (x : Dom) : Dom := if x.fclkAck ∨ x.pwrAck ≠ 0 then { x with goal := some .off } else x

/-- RST_COLD_RELEASE: the clearing of the always-on stores starts, and the tick counter counts from 0 (R429, R457). -/
def execRstColdRelease (s : State) : Host.Outcome State Fault Refusal :=
  .next (if s.win.coldLow then { s with win := { s.win with coldLow := false, clearing := true, tick := 0 }, dom := vmap releaseDom s.dom } else s)

/-- COLD_CLEAR_COMPLETE: the stores are cleared, MG_ACK is given, and the ROM starts (R391, R457). -/
def execColdClearComplete (s : State) : Host.Outcome State Fault Refusal :=
  event s (if s.win.clearing then some { s with win := { s.win with clearing := false } } else none)

/-- RST_WARM_RISE: a rise requests a warm reset; it is ignored while RST_COLD_N is low (R436). -/
def execRstWarmRise (s : State) : Host.Outcome State Fault Refusal :=
  let s1 := { s with win := { s.win with warmHigh := true } }
  pinEvent s s1 (if s.win.warmHigh then none else some (requestWarm s1))

/-- RST_WARM_FALL (R436, R459). -/
def execRstWarmFall (s : State) : Host.Outcome State Fault Refusal :=
  let s1 := { s with win := { s.win with warmHigh := false } }
  pinEvent s s1 (some s1)

/-- Rows that were on their way into the inkwell hold values that the spec does not give (R137, log 6). -/
def loseFlight (s : State) : State :=
  s.bd.flight.foldl (fun s f =>
    match f with
    | .swap _ => s
    | .row id m sums =>
      match s.ops.find? (·.id == id) with
      | some o => sums.foldl (fun s p =>
          let (x, s1) := draw 40 s
          inkWrite s1 (o.base + m) p.1 x) s
      | none => s) s

/-- The unit work that a warm reset discards, as R449 states; a remap that a PLYC has placed is applied (R112, R180, R195, R459). -/
def dropWork (s : State) : State :=
  let s1 := applyPlaced (loseFlight s)
  { emptyBoard s1 with
    ops := []
    sq := Vector.replicate 64 {}
    scribes := Vector.replicate 16 {}
    rings := Vector.replicate 32 {}
    lastRing := 31
    placed := [] }

/-- A tally after a warm reset: what is queued or buffered is lost (R317). -/
def warmTally (x : Tally) : Tally := { x with queue := [], kbuf := none }

/-- The control registers after a warm reset (R114, R289, R306, R312, R339, R342, R391, R394, R459). -/
def warmCtl (c : Ctl) : Ctl :=
  { ({} : Ctl) with
    ply := c.ply, fwfloor := c.fwfloor, errlast := c.errlast, bthrHost := c.bthrHost, l2En := c.l2En, l2On := c.l2On, l2Busy := c.l2Busy }

/-- A bank after a warm reset: its general, vector and mask registers have no reset value and stay (R32, R34, R289, R306). -/
def warmBank (b : Bank) : Bank := { g := b.g, v := b.v, m := b.m }

/-- The banks after a warm reset: bank 0 runs at CFG_RESETPC, and the others are FREE, without defined contents (R291, R306, R459). -/
def warmBanks (s : State) : Vector Bank 4 :=
  vmapIdx (fun k b => if k = 0 then { warmBank b with st := .run, pc := s.cfg.resetpc } else lostRegs (spent s k) (warmBank b)) s.banks

/-- The caches after a warm reset: L1D written back to L2, unless an L1D or store-buffer machine check has been posted since the last reset, and
everything but L2 and its write-back buffer empty (R230, R254, R415, log 28). -/
def warmCaches (s : State) : State :=
  let s1 := if s.c.l1dCheck then s else cleanL1d s
  { s1 with ca := { l2 := s1.ca.l2, l2Plru := s1.ca.l2Plru, wb := s1.ca.wb } }

/-- What a warm reset does (R459): fetch stops and what has not retired is discarded, unit work is discarded, a running commit or fetch is
abandoned without an interrupt, which releases the writes that it held (R357), the caches are written back, and the registers take their warm-reset values. -/
def warmState (s : State) : State :=
  let s1 := abortFetch (abandonCommit true none { s with stall := none }) 0x33 none
  let s2 := freshTiles (dropWork (warmCaches (dropSpots s1 [0x02, 0x03, 0x05, 0x06])))
  { spent s2 4 with
    c := warmCtl s2.c
    banks := warmBanks s2
    tal := vmap warmTally s2.tal
    win := { s2.win with warmDone := true } }

/-- WARM_RESET (R459). -/
def execWarmReset (s : State) : Host.Outcome State Fault Refusal :=
  event s (if s.win.wrst && !s.win.warmDone then some (warmState s) else none)

/-- WARM_RESET_COMPLETE: with RST_WARM low and CORE working, bank 0 issues its first instruction (R459). -/
def execWarmResetComplete (s : State) : Host.Outcome State Fault Refusal :=
  event s (
    if s.win.wrst && s.win.warmDone && !s.win.warmHigh && domRuns s dCore then
      some { s with win := { s.win with wrst := false, warmDone := false } }
    else none)

end Sys2Proof.Machine
end

