-- ==== Sys2Proof/Machine/TestPort.lean ====
section
/-! DEFINITION. The test wrapper: its instructions and the instruments behind CW_NET (R437 to R439). The test port works apart from the functional resets. -/
namespace Sys2Proof.Machine

/-- Selects an instruction of the wrapper; some leave every functional state undefined (R438). -/
def selectWir (s : State) (w : BitVec 4) (undef : Bool) : State :=
  { s with test := { s.test with wir := w, undef := s.test.undef || undef } }

/-- WRSTN_RESET (R437). -/
def execWrstnReset (s : State) : Host.Outcome State Fault Refusal := .next { s with test := { ({} : Test) with undef := s.test.undef, failed := s.test.failed } }
/-- WS_BYPASS (R437, R438). -/
def execWsBypass (s : State) : Host.Outcome State Fault Refusal := .next (selectWir s 0 false)
/-- WS_EXTEST (R437, R438). -/
def execWsExtest (s : State) : Host.Outcome State Fault Refusal := .next (selectWir s 1 true)
/-- WS_INTEST_SCAN (R437, R438). -/
def execWsIntestScan (s : State) : Host.Outcome State Fault Refusal := .next (selectWir s 2 true)
/-- WS_SAFE (R437, R438). -/
def execWsSafe (s : State) : Host.Outcome State Fault Refusal := .next (selectWir s 3 true)
/-- WS_PRELOAD (R437, R438). -/
def execWsPreload (s : State) : Host.Outcome State Fault Refusal := .next (selectWir s 4 false)
/-- CW_NET (R437, R439). -/
def execCwNet (s : State) : Host.Outcome State Fault Refusal := .next (selectWir s 8 false)

/-- The segment that holds an instrument (R439). -/
def sibOf (k : Fin 12) : Nat := if k.val < 7 then 0 else 1

/-- The domains that an instrument uses (R26, R439). -/
def instrDoms (v : Variant) (k : Fin 12) : List (Fin 32) :=
  let scr := (List.finRange 16).filterMap fun j : ScribeNum => if j.val < scribeCount v then some (dScribe j) else none
  match k.val with
  | 0 => [dVellum]
  | 1 => [dVellum, dL2w 0, dL2w 1, dL2w 2, dL2w 3]
  | 2 => [dTile]
  | 3 | 7 | 8 => [dBoard]
  | 4 => [dCore]
  | 5 => scr
  | 9 => [dCore, dVec]
  | 10 => scr
  | 11 => (List.finRange 32).filter (domPresent v)
  | _ => []

/-- Whether the conditions of an instrument are met (R439). -/
def instrReady (s : State) (k : Fin 12) : Bool :=
  if k.val = 6 then s.win.coldLow
  else s.win.warmHigh && !s.win.coldLow && (instrDoms s.var k).all fun d => s.dom[d].st == .run && s.dom[d].goal.isNone

/-- An instrument register from its fields (R439). -/
def instrWord (mode : BitVec 3) (st : Nat) (fails : Byte) (first : BitVec 16) : W32 :=
  place 32 mode.toNat 1 ||| place 32 st 4 ||| place 32 fails.toNat 8 ||| place 32 first.toNat 16

/-- Replaces an instrument register. -/
def setInstr (s : State) (k : Fin 12) (x : W32) : State := { s with test := { s.test with regs := s.test.regs.set k.val x k.isLt } }

/-- INSTRUMENT_START: UpdateDR writes START of an instrument, its segment inserted; without its conditions the instrument refuses (R439). -/
def execInstrumentStart (k : Fin 12) (mode : BitVec 3) (s : State) : Host.Outcome State Fault Refusal :=
  .next (
    if s.test.wir ≠ 8 ∨ fieldN s.test.regs[k] 7 4 = 1 then s
    else
      let s1 : State := { s with test := { s.test with sib := setBit s.test.sib (sibOf k) true } }
      setInstr s1 k (instrWord mode (if instrReady s k then 1 else 4) 0 0))

/-- A store whose first n words hold free values, drawn from number k on (log 6). -/
def freeStore (w n k : Nat) : Sparse (BitVec w) :=
  (List.range n).filterMap fun i => if Config.freeBits w (k + i) = 0 then none else some (i, Config.freeBits w (k + i))

/-- What an instrument leaves of the arrays that it tests. MB0 and MB3 leave values that the spec does not give; MB1 leaves no line in L2; what
MB2, MB4, MB5 and MB6 overwrite is empty after the reset that they run in; ST0 and ST1 leave the planes EMPTY and the inkwell zero (R68, R230,
R439, R457). -/
def instrEffect (s : State) (k : Fin 12) : State :=
  match k.val with
  | 0 => let n := 2 ^ vellumLog2 s.var
         { s with vellum := freeStore 8 n s.freeCtr, vellumBad := [], freeCtr := s.freeCtr + n }
  | 1 => { s with ca := { s.ca with l2 := [], l2Plru := [] } }
  | 3 => let n := 1024 * inkRows s.var
         { s with ink := freeStore 40 n s.freeCtr, inkBad := [], freeCtr := s.freeCtr + n }
  | 7 | 8 => { emptyBoard s with ink := [], inkBad := [] }
  | _ => s

/-- INSTRUMENT_COMPLETE (R439). -/
def execInstrumentComplete (k : Fin 12) (fails : Byte) (first : BitVec 16) (s : State) : Host.Outcome State Fault Refusal :=
  .next (
    let x := s.test.regs[k]
    if fieldN x 7 4 ≠ 1 then s
    else
      let s1 := setInstr s k (instrWord (field x 3 1) (if fails = 0 then 2 else 3) fails (if fails = 0 then 0 else first))
      instrEffect { s1 with test := { s1.test with failed := setBit s1.test.failed k.val (fails != 0) } } k)

end Sys2Proof.Machine
end

