-- ==== Sys2Proof/Machine/Dispatch.lean ====
section
/-! DEFINITION. The dispatch of the commands: one arm per row of the table. -/
namespace Sys2Proof.Machine

/-- The effect of a command on everything but the queue. -/
def exec (i : Instr) (s : State) : Host.Outcome State Fault Refusal :=
  match i with
  | .add rd ra op sf wf => Sys2Proof.Machine.execAdd rd ra op sf wf s
  | .sub rd ra op sf wf => Sys2Proof.Machine.execSub rd ra op sf wf s
  | .and rd ra op sf wf => Sys2Proof.Machine.execAnd rd ra op sf wf s
  | .or rd ra op sf wf => Sys2Proof.Machine.execOr rd ra op sf wf s
  | .xor rd ra op sf wf => Sys2Proof.Machine.execXor rd ra op sf wf s
  | .andn rd ra op sf wf => Sys2Proof.Machine.execAndn rd ra op sf wf s
  | .shl rd ra op sf wf => Sys2Proof.Machine.execShl rd ra op sf wf s
  | .shr rd ra op sf wf => Sys2Proof.Machine.execShr rd ra op sf wf s
  | .sar rd ra op sf wf => Sys2Proof.Machine.execSar rd ra op sf wf s
  | .ror rd ra op sf wf => Sys2Proof.Machine.execRor rd ra op sf wf s
  | .mul rd ra op sf wf => Sys2Proof.Machine.execMul rd ra op sf wf s
  | .mulh rd ra op sf wf => Sys2Proof.Machine.execMulh rd ra op sf wf s
  | .mulhu rd ra op sf wf => Sys2Proof.Machine.execMulhu rd ra op sf wf s
  | .cmp ra op sf wf => Sys2Proof.Machine.execCmp ra op sf wf s
  | .min rd ra op sf wf => Sys2Proof.Machine.execMin rd ra op sf wf s
  | .max rd ra op sf wf => Sys2Proof.Machine.execMax rd ra op sf wf s
  | .div rd ra rb sf wf => Sys2Proof.Machine.execDiv rd ra rb sf wf s
  | .divu rd ra rb sf wf => Sys2Proof.Machine.execDivu rd ra rb sf wf s
  | .rem rd ra rb sf wf => Sys2Proof.Machine.execRem rd ra rb sf wf s
  | .remu rd ra rb sf wf => Sys2Proof.Machine.execRemu rd ra rb sf wf s
  | .clz rd ra sf wf => Sys2Proof.Machine.execClz rd ra sf wf s
  | .popc rd ra sf wf => Sys2Proof.Machine.execPopc rd ra sf wf s
  | .longOpResult b d => Sys2Proof.Machine.execLongOpResult b d s
  | .imz rd lane imm => Sys2Proof.Machine.execImz rd lane imm s
  | .imi rd lane imm => Sys2Proof.Machine.execImi rd lane imm s
  | .load rd a sz => Sys2Proof.Machine.execLoad rd a sz s
  | .store rs a sz => Sys2Proof.Machine.execStore rs a sz s
  | .lda rd ga sz => Sys2Proof.Machine.execLda rd ga sz s
  | .stl rs ga sz => Sys2Proof.Machine.execStl rs ga sz s
  | .cas rd ga rb rc d a l => Sys2Proof.Machine.execCas rd ga rb rc d a l s
  | .aadd rd ga rb rc d a l => Sys2Proof.Machine.execAadd rd ga rb rc d a l s
  | .fence mask => Sys2Proof.Machine.execFence mask s
  | .fenceRetire => Sys2Proof.Machine.execFenceRetire s
  | .tlbiAll loc => Sys2Proof.Machine.execTlbiAll loc s
  | .tlbiAsid gb loc => Sys2Proof.Machine.execTlbiAsid gb loc s
  | .tlbiVa ga gb loc => Sys2Proof.Machine.execTlbiVa ga gb loc s
  | .tlbiVaall ga loc => Sys2Proof.Machine.execTlbiVaall ga loc s
  | .b off => Sys2Proof.Machine.execB off s
  | .bCond cond off => Sys2Proof.Machine.execBCond cond off s
  | .br ra => Sys2Proof.Machine.execBr ra s
  | .call off => Sys2Proof.Machine.execCall off s
  | .callr ra => Sys2Proof.Machine.execCallr ra s
  | .ret => Sys2Proof.Machine.execRet s
  | .callg gate => Sys2Proof.Machine.execCallg gate s
  | .retg => Sys2Proof.Machine.execRetg s
  | .sysc => Sys2Proof.Machine.execSysc s
  | .sysr => Sys2Proof.Machine.execSysr s
  | .retx => Sys2Proof.Machine.execRetx s
  | .retxC => Sys2Proof.Machine.execRetxC s
  | .holdend => Sys2Proof.Machine.execHoldend s
  | .sspush ga => Sys2Proof.Machine.execSspush ga s
  | .sspinc gb => Sys2Proof.Machine.execSspinc gb s
  | .waiti => Sys2Proof.Machine.execWaiti s
  | .mfc rd n => Sys2Proof.Machine.execMfc rd n s
  | .mtc rs n => Sys2Proof.Machine.execMtc rs n s
  | .mfb rd n => Sys2Proof.Machine.execMfb rd n s
  | .mtb rs n => Sys2Proof.Machine.execMtb rs n s
  | .svm ga gm => Sys2Proof.Machine.execSvm ga gm s
  | .ldm ga gm => Sys2Proof.Machine.execLdm ga gm s
  | .svh ga h => Sys2Proof.Machine.execSvh ga h s
  | .ldh ga h => Sys2Proof.Machine.execLdh ga h s
  | .plyc => Sys2Proof.Machine.execPlyc s
  | .tally u gs gk => Sys2Proof.Machine.execTally u gs gk s
  | .rep gc k => Sys2Proof.Machine.execRep gc k s
  | .repn n k => Sys2Proof.Machine.execRepn n k s
  | .tcfgImm t rowsm1 rbm1 etype mx => Sys2Proof.Machine.execTcfgImm t rowsm1 rbm1 etype mx s
  | .tcfgReg t ga => Sys2Proof.Machine.execTcfgReg t ga s
  | .tcfgRead gd t => Sys2Proof.Machine.execTcfgRead gd t s
  | .tld t ga gb gc q => Sys2Proof.Machine.execTld t ga gb gc q s
  | .tst t ga gb gc q => Sys2Proof.Machine.execTst t ga gb gc q s
  | .tzero t => Sys2Proof.Machine.execTzero t s
  | .trel t => Sys2Proof.Machine.execTrel t s
  | .tmov td ts => Sys2Proof.Machine.execTmov td ts s
  | .trdy gd mask => Sys2Proof.Machine.execTrdy gd mask s
  | .trdyW gd mask => Sys2Proof.Machine.execTrdyW gd mask s
  | .tresume t => Sys2Proof.Machine.execTresume t s
  | .tileOpAccept => Sys2Proof.Machine.execTileOpAccept s
  | .heldOpRelease id => Sys2Proof.Machine.execHeldOpRelease id s
  | .tldRowComplete t row => Sys2Proof.Machine.execTldRowComplete t row s
  | .tldComplete t => Sys2Proof.Machine.execTldComplete t s
  | .tstComplete t => Sys2Proof.Machine.execTstComplete t s
  | .tileTransferFault t cause detail va pa => Sys2Proof.Machine.execTileTransferFault t cause detail va pa s
  | .tzeroPerformed t => Sys2Proof.Machine.execTzeroPerformed t s
  | .trelPerformed t => Sys2Proof.Machine.execTrelPerformed t s
  | .tmovComplete td => Sys2Proof.Machine.execTmovComplete td s
  | .bplane t => Sys2Proof.Machine.execBplane t s
  | .bplaneLoadStart => Sys2Proof.Machine.execBplaneLoadStart s
  | .bplaneComplete => Sys2Proof.Machine.execBplaneComplete s
  | .bswap => Sys2Proof.Machine.execBswap s
  | .swapTokenEntry => Sys2Proof.Machine.execSwapTokenEntry s
  | .bswapComplete => Sys2Proof.Machine.execBswapComplete s
  | .planeRelease => Sys2Proof.Machine.execPlaneRelease s
  | .brun t gr acc half => Sys2Proof.Machine.execBrun t gr acc half s
  | .aRowEntry => Sys2Proof.Machine.execARowEntry s
  | .resultRowCombine chk => Sys2Proof.Machine.execResultRowCombine chk s
  | .throttleWindowBoundary => Sys2Proof.Machine.execThrottleWindowBoundary s
  | .spareRemapApply => Sys2Proof.Machine.execSpareRemapApply s
  | .bmode semi => Sys2Proof.Machine.execBmode semi s
  | .iclr gr gc => Sys2Proof.Machine.execIclr gr gc s
  | .iclrComplete => Sys2Proof.Machine.execIclrComplete s
  | .idrainTile gr t o => Sys2Proof.Machine.execIdrainTile gr t o s
  | .idrainTileComplete t => Sys2Proof.Machine.execIdrainTileComplete t s
  | .idrainVector gr vd o => Sys2Proof.Machine.execIdrainVector gr vd o s
  | .idrainMemory gr ga gb q o => Sys2Proof.Machine.execIdrainMemory gr ga gb q o s
  | .idrainMemoryComplete q => Sys2Proof.Machine.execIdrainMemoryComplete q s
  | .inkwellZeroingComplete => Sys2Proof.Machine.execInkwellZeroingComplete s
  | .smove q ga => Sys2Proof.Machine.execSmove q ga s
  | .streamDescriptorRead q => Sys2Proof.Machine.execStreamDescriptorRead q s
  | .streamOpStart q => Sys2Proof.Machine.execStreamOpStart q s
  | .streamRequestComplete q line => Sys2Proof.Machine.execStreamRequestComplete q line s
  | .streamFault q cause detail va pa write => Sys2Proof.Machine.execStreamFault q cause detail va pa write s
  | .smoveComplete q => Sys2Proof.Machine.execSmoveComplete q s
  | .sqstat gd q w => Sys2Proof.Machine.execSqstat gd q w s
  | .sqwait gd q => Sys2Proof.Machine.execSqwait gd q s
  | .sqctlClear q gs => Sys2Proof.Machine.execSqctlClear q gs s
  | .sqctlRestart q gs => Sys2Proof.Machine.execSqctlRestart q gs s
  | .sqctlRestartAt q gs => Sys2Proof.Machine.execSqctlRestartAt q gs s
  | .sqctlAbandon q gs => Sys2Proof.Machine.execSqctlAbandon q gs s
  | .slaunch wr gn => Sys2Proof.Machine.execSlaunch wr gn s
  | .descriptorDispatch w => Sys2Proof.Machine.execDescriptorDispatch w s
  | .threadStart sn => Sys2Proof.Machine.execThreadStart sn s
  | .threadIssue sn => Sys2Proof.Machine.execThreadIssue sn s
  | .scribeDescriptorPost w => Sys2Proof.Machine.execScribeDescriptorPost w s
  | .scribeFault sn thread cause va pa => Sys2Proof.Machine.execScribeFault sn thread cause va pa s
  | .scribeLimitExpiry sn thread => Sys2Proof.Machine.execScribeLimitExpiry sn thread s
  | .scrfltRecvClear sn => Sys2Proof.Machine.execScrfltRecvClear sn s
  | .swctlAbort w v => Sys2Proof.Machine.execSwctlAbort w v s
  | .vadd vd va vb mk w => Sys2Proof.Machine.execVadd vd va vb mk w s
  | .vsub vd va vb mk w => Sys2Proof.Machine.execVsub vd va vb mk w s
  | .vmul vd va vb mk w => Sys2Proof.Machine.execVmul vd va vb mk w s
  | .vmin vd va vb mk w => Sys2Proof.Machine.execVmin vd va vb mk w s
  | .vmax vd va vb mk w => Sys2Proof.Machine.execVmax vd va vb mk w s
  | .vminu vd va vb mk w => Sys2Proof.Machine.execVminu vd va vb mk w s
  | .vmaxu vd va vb mk w => Sys2Proof.Machine.execVmaxu vd va vb mk w s
  | .vand vd va vb mk w => Sys2Proof.Machine.execVand vd va vb mk w s
  | .vor vd va vb mk w => Sys2Proof.Machine.execVor vd va vb mk w s
  | .vxor vd va vb mk w => Sys2Proof.Machine.execVxor vd va vb mk w s
  | .vshl vd va vb mk w => Sys2Proof.Machine.execVshl vd va vb mk w s
  | .vshr vd va vb mk w => Sys2Proof.Machine.execVshr vd va vb mk w s
  | .vsar vd va vb mk w => Sys2Proof.Machine.execVsar vd va vb mk w s
  | .vfadd vd va vb mk w => Sys2Proof.Machine.execVfadd vd va vb mk w s
  | .vfsub vd va vb mk w => Sys2Proof.Machine.execVfsub vd va vb mk w s
  | .vfmul vd va vb mk w => Sys2Proof.Machine.execVfmul vd va vb mk w s
  | .vfdiv vd va vb mk w => Sys2Proof.Machine.execVfdiv vd va vb mk w s
  | .vfsqrt vd va mk w => Sys2Proof.Machine.execVfsqrt vd va mk w s
  | .vfmin vd va vb mk w => Sys2Proof.Machine.execVfmin vd va vb mk w s
  | .vfmax vd va vb mk w => Sys2Proof.Machine.execVfmax vd va vb mk w s
  | .vfma vd va vb mk w => Sys2Proof.Machine.execVfma vd va vb mk w s
  | .vfnma vd va vb mk w => Sys2Proof.Machine.execVfnma vd va vb mk w s
  | .vcmpeq md va vb mk w => Sys2Proof.Machine.execVcmpeq md va vb mk w s
  | .vcmplt md va vb mk w => Sys2Proof.Machine.execVcmplt md va vb mk w s
  | .vcmpltu md va vb mk w => Sys2Proof.Machine.execVcmpltu md va vb mk w s
  | .vfcmpeq md va vb mk w => Sys2Proof.Machine.execVfcmpeq md va vb mk w s
  | .vfcmplt md va vb mk w => Sys2Proof.Machine.execVfcmplt md va vb mk w s
  | .vfcmple md va vb mk w => Sys2Proof.Machine.execVfcmple md va vb mk w s
  | .vrsum vd va mk w => Sys2Proof.Machine.execVrsum vd va mk w s
  | .vrmax vd va mk w => Sys2Proof.Machine.execVrmax vd va mk w s
  | .vrmin vd va mk w => Sys2Proof.Machine.execVrmin vd va mk w s
  | .vradd vd va mk w => Sys2Proof.Machine.execVradd vd va mk w s
  | .vcvt vd va dt st sat mk => Sys2Proof.Machine.execVcvt vd va dt st sat mk s
  | .vload v a mk w => Sys2Proof.Machine.execVload v a mk w s
  | .vstore v a mk w => Sys2Proof.Machine.execVstore v a mk w s
  | .vtrd vd t gr => Sys2Proof.Machine.execVtrd vd t gr s
  | .vtwr vs t gr => Sys2Proof.Machine.execVtwr vs t gr s
  | .vtrdS vd t gr => Sys2Proof.Machine.execVtrdS vd t gr s
  | .vtwrS vs t gr => Sys2Proof.Machine.execVtwrS vs t gr s
  | .vext gd va gb w => Sys2Proof.Machine.execVext gd va gb w s
  | .vins vd gs gb w => Sys2Proof.Machine.execVins vd gs gb w s
  | .vsplat vd gs w => Sys2Proof.Machine.execVsplat vd gs w s
  | .mand md ma mb => Sys2Proof.Machine.execMand md ma mb s
  | .mor md ma mb => Sys2Proof.Machine.execMor md ma mb s
  | .mxor md ma mb => Sys2Proof.Machine.execMxor md ma mb s
  | .mnot md ma => Sys2Proof.Machine.execMnot md ma s
  | .mset md => Sys2Proof.Machine.execMset md s
  | .mcnt gd ma => Sys2Proof.Machine.execMcnt gd ma s
  | .ruledEnter sched => Sys2Proof.Machine.execRuledEnter sched s
  | .ruledExit sched => Sys2Proof.Machine.execRuledExit sched s
  | .bankAlloc b => Sys2Proof.Machine.execBankAlloc b s
  | .bankFree b => Sys2Proof.Machine.execBankFree b s
  | .bankPark b => Sys2Proof.Machine.execBankPark b s
  | .bankReady b => Sys2Proof.Machine.execBankReady b s
  | .bankSwitch b => Sys2Proof.Machine.execBankSwitch b s
  | .bankClrev b => Sys2Proof.Machine.execBankClrev b s
  | .bankReturn b => Sys2Proof.Machine.execBankReturn b s
  | .schedSwitch why => Sys2Proof.Machine.execSchedSwitch why s
  | .tnrBankReady b => Sys2Proof.Machine.execTnrBankReady b s
  | .talsrcClr u v => Sys2Proof.Machine.execTalsrcClr u v s
  | .talsrcReconfig u v => Sys2Proof.Machine.execTalsrcReconfig u v s
  | .tallySample u v more => Sys2Proof.Machine.execTallySample u v more s
  | .tallyFold u => Sys2Proof.Machine.execTallyFold u s
  | .tallyPendClear u => Sys2Proof.Machine.execTallyPendClear u s
  | .mirctlEnSet v => Sys2Proof.Machine.execMirctlEnSet v s
  | .mirctlEnClear v => Sys2Proof.Machine.execMirctlEnClear v s
  | .mirrorGranuleRead uncorrectable => Sys2Proof.Machine.execMirrorGranuleRead uncorrectable s
  | .mirrorHeldWrite pa bytes => Sys2Proof.Machine.execMirrorHeldWrite pa bytes s
  | .partnerAck g gen isRec => Sys2Proof.Machine.execPartnerAck g gen isRec s
  | .partnerNack code g isRec => Sys2Proof.Machine.execPartnerNack code g isRec s
  | .partnerCredit n => Sys2Proof.Machine.execPartnerCredit n s
  | .mirrorCommitAbandon => Sys2Proof.Machine.execMirrorCommitAbandon s
  | .partnerGranuleReceive range idx gen ply crc bytes => Sys2Proof.Machine.execPartnerGranuleReceive range idx gen ply crc bytes s
  | .partnerRecordReceive bytes => Sys2Proof.Machine.execPartnerRecordReceive bytes s
  | .partnerWriteVisible => Sys2Proof.Machine.execPartnerWriteVisible s
  | .partnerFreq rmask gen verify => Sys2Proof.Machine.execPartnerFreq rmask gen verify s
  | .fetchGranuleReceive range idx crc bytes => Sys2Proof.Machine.execFetchGranuleReceive range idx crc bytes s
  | .partnerFend st => Sys2Proof.Machine.execPartnerFend st s
  | .ppLinkUpRise => Sys2Proof.Machine.execPpLinkUpRise s
  | .ppLinkUpFall => Sys2Proof.Machine.execPpLinkUpFall s
  | .mirrorTmoExpiry => Sys2Proof.Machine.execMirrorTmoExpiry s
  | .l2wayctlWrite v => Sys2Proof.Machine.execL2wayctlWrite v s
  | .l2GroupOffComplete g => Sys2Proof.Machine.execL2GroupOffComplete g s
  | .l2GroupOnComplete g => Sys2Proof.Machine.execL2GroupOnComplete g s
  | .rstctlWarm => Sys2Proof.Machine.execRstctlWarm s
  | .isetWrite j v => Sys2Proof.Machine.execIsetWrite j v s
  | .errinjArm v => Sys2Proof.Machine.execErrinjArm v s
  | .registerWrite off v by_ => Sys2Proof.Machine.execRegisterWrite off v by_ s
  | .tickLoRead by_ ply => Sys2Proof.Machine.execTickLoRead by_ ply s
  | .l1iMissFill va => Sys2Proof.Machine.execL1iMissFill va s
  | .l1dMissFill => Sys2Proof.Machine.execL1dMissFill s
  | .prefetchFill line err => Sys2Proof.Machine.execPrefetchFill line err s
  | .storeBufferDrain => Sys2Proof.Machine.execStoreBufferDrain s
  | .pageWalk r va => Sys2Proof.Machine.execPageWalk r va s
  | .walkDescriptorReturn k err => Sys2Proof.Machine.execWalkDescriptorReturn k err s
  | .exceptionEntry c => Sys2Proof.Machine.execExceptionEntry c s
  | .interruptEntry => Sys2Proof.Machine.execInterruptEntry s
  | .criticalEntry => Sys2Proof.Machine.execCriticalEntry s
  | .entryTakeover => Sys2Proof.Machine.execEntryTakeover s
  | .doubleFault reason => Sys2Proof.Machine.execDoubleFault reason s
  | .holdWindowOverrun => Sys2Proof.Machine.execHoldWindowOverrun s
  | .retireWatchdogExpiry => Sys2Proof.Machine.execRetireWatchdogExpiry s
  | .watchdogHandlerTimeout => Sys2Proof.Machine.execWatchdogHandlerTimeout s
  | .progressMonitorExpiry unit loc what => Sys2Proof.Machine.execProgressMonitorExpiry unit loc what s
  | .fabricTimeout p tag c pa => Sys2Proof.Machine.execFabricTimeout p tag c pa s
  | .vellumScrubStep ce => Sys2Proof.Machine.execVellumScrubStep ce s
  | .l2ScrubStep ce => Sys2Proof.Machine.execL2ScrubStep ce s
  | .scrubCreditGain => Sys2Proof.Machine.execScrubCreditGain s
  | .tileInkScrubRow ink ce => Sys2Proof.Machine.execTileInkScrubRow ink ce s
  | .quillSramScrubStep ce => Sys2Proof.Machine.execQuillSramScrubStep ce s
  | .errorRecordPost cls unit sev loc synd inj extra => Sys2Proof.Machine.execErrorRecordPost cls unit sev loc synd inj extra s
  | .errPtrRdWrite v byQuill => Sys2Proof.Machine.execErrPtrRdWrite v byQuill s
  | .errOvfClear v => Sys2Proof.Machine.execErrOvfClear v s
  | .errLinesFatalClear v => Sys2Proof.Machine.execErrLinesFatalClear v s
  | .cfgLockSet => Sys2Proof.Machine.execCfgLockSet s
  | .mbxOwnHqSet v => Sys2Proof.Machine.execMbxOwnHqSet v s
  | .mbxOwnQhClear v => Sys2Proof.Machine.execMbxOwnQhClear v s
  | .mailboxServe => Sys2Proof.Machine.execMailboxServe s
  | .mailboxNotreadyReply k => Sys2Proof.Machine.execMailboxNotreadyReply k s
  | .hello => Sys2Proof.Machine.execHello s
  | .configSet => Sys2Proof.Machine.execConfigSet s
  | .configGet => Sys2Proof.Machine.execConfigGet s
  | .powerSetOn => Sys2Proof.Machine.execPowerSetOn s
  | .powerSetOff => Sys2Proof.Machine.execPowerSetOff s
  | .powerSetRetain => Sys2Proof.Machine.execPowerSetRetain s
  | .boardRetainTimeout => Sys2Proof.Machine.execBoardRetainTimeout s
  | .powerGet => Sys2Proof.Machine.execPowerGet s
  | .throttleSet => Sys2Proof.Machine.execThrottleSet s
  | .errlogRead => Sys2Proof.Machine.execErrlogRead s
  | .errlogClear => Sys2Proof.Machine.execErrlogClear s
  | .scrubSetInterval => Sys2Proof.Machine.execScrubSetInterval s
  | .scrubResetInterval => Sys2Proof.Machine.execScrubResetInterval s
  | .scrubPass => Sys2Proof.Machine.execScrubPass s
  | .scrubPassComplete store => Sys2Proof.Machine.execScrubPassComplete store s
  | .fileSpare => Sys2Proof.Machine.execFileSpare s
  | .journalRead => Sys2Proof.Machine.execJournalRead s
  | .tallyCfg => Sys2Proof.Machine.execTallyCfg s
  | .tallyRead => Sys2Proof.Machine.execTallyRead s
  | .mirrorCfg => Sys2Proof.Machine.execMirrorCfg s
  | .mirrorFetchMirror => Sys2Proof.Machine.execMirrorFetchMirror s
  | .mirrorFetchPrimary => Sys2Proof.Machine.execMirrorFetchPrimary s
  | .mirrorVerify => Sys2Proof.Machine.execMirrorVerify s
  | .mirrorStatus => Sys2Proof.Machine.execMirrorStatus s
  | .updBegin => Sys2Proof.Machine.execUpdBegin s
  | .updChunk => Sys2Proof.Machine.execUpdChunk s
  | .updChunkAll => Sys2Proof.Machine.execUpdChunkAll s
  | .updStatus => Sys2Proof.Machine.execUpdStatus s
  | .updActivate => Sys2Proof.Machine.execUpdActivate s
  | .handoverCommit => Sys2Proof.Machine.execHandoverCommit s
  | .handoverTimeout => Sys2Proof.Machine.execHandoverTimeout s
  | .updateBanksReleased => Sys2Proof.Machine.execUpdateBanksReleased s
  | .updAbort => Sys2Proof.Machine.execUpdAbort s
  | .unitResetWarm => Sys2Proof.Machine.execUnitResetWarm s
  | .unitResetDomain => Sys2Proof.Machine.execUnitResetDomain s
  | .unitResetQuill => Sys2Proof.Machine.execUnitResetQuill s
  | .errorManagerConsume => Sys2Proof.Machine.execErrorManagerConsume s
  | .componentRestart c => Sys2Proof.Machine.execComponentRestart c s
  | .quillWatchdogKick => Sys2Proof.Machine.execQuillWatchdogKick s
  | .quillWatchdogExpiry => Sys2Proof.Machine.execQuillWatchdogExpiry s
  | .quillRestart c => Sys2Proof.Machine.execQuillRestart c s
  | .quillStartComplete => Sys2Proof.Machine.execQuillStartComplete s
  | .quillStartFail why => Sys2Proof.Machine.execQuillStartFail why s
  | .rcountClear => Sys2Proof.Machine.execRcountClear s
  | .idleThresholdExpiry d => Sys2Proof.Machine.execIdleThresholdExpiry d s
  | .domainWakeRequest d => Sys2Proof.Machine.execDomainWakeRequest d s
  | .fclkAckChange d v => Sys2Proof.Machine.execFclkAckChange d v s
  | .pwrAckChange d v => Sys2Proof.Machine.execPwrAckChange d v s
  | .domainWakeComplete d => Sys2Proof.Machine.execDomainWakeComplete d s
  | .vellumZeroingComplete => Sys2Proof.Machine.execVellumZeroingComplete s
  | .probeShr p tag pa crcOk => Sys2Proof.Machine.execProbeShr p tag pa crcOk s
  | .probeOwn p tag pa crcOk new => Sys2Proof.Machine.execProbeOwn p tag pa crcOk new s
  | .probeKill p tag pa crcOk new => Sys2Proof.Machine.execProbeKill p tag pa crcOk new s
  | .tlbiMsg p tag src ga asid ty crcOk => Sys2Proof.Machine.execTlbiMsg p tag src ga asid ty crcOk s
  | .tlbiAck => Sys2Proof.Machine.execTlbiAck s
  | .intMsg p tag id vec data crcOk => Sys2Proof.Machine.execIntMsg p tag id vec data crcOk s
  | .targetRequest p tag op pa size data mask poison crcOk => Sys2Proof.Machine.execTargetRequest p tag op pa size data mask poison crcOk s
  | .mgmtAliasAccess p tag write off v => Sys2Proof.Machine.execMgmtAliasAccess p tag write off v s
  | .fabricResponse p tag c pa resp crc crcOk poison => Sys2Proof.Machine.execFabricResponse p tag c pa resp crc crcOk poison s
  | .ordDone p => Sys2Proof.Machine.execOrdDone p s
  | .tlbiDone => Sys2Proof.Machine.execTlbiDone s
  | .oreqCredit p n => Sys2Proof.Machine.execOreqCredit p n s
  | .fabricPortUp p => Sys2Proof.Machine.execFabricPortUp p s
  | .intInChange k v => Sys2Proof.Machine.execIntInChange k v s
  | .rstColdAssert => Sys2Proof.Machine.execRstColdAssert s
  | .rstColdRelease => Sys2Proof.Machine.execRstColdRelease s
  | .coldClearComplete => Sys2Proof.Machine.execColdClearComplete s
  | .rstWarmRise => Sys2Proof.Machine.execRstWarmRise s
  | .warmReset => Sys2Proof.Machine.execWarmReset s
  | .warmResetComplete => Sys2Proof.Machine.execWarmResetComplete s
  | .dbgHaltreq => Sys2Proof.Machine.execDbgHaltreq s
  | .dbgHalt => Sys2Proof.Machine.execDbgHalt s
  | .breakpointHalt k => Sys2Proof.Machine.execBreakpointHalt k s
  | .dbgResume => Sys2Proof.Machine.execDbgResume s
  | .stepHalt => Sys2Proof.Machine.execStepHalt s
  | .dbgCmdRegRead => Sys2Proof.Machine.execDbgCmdRegRead s
  | .dbgCmdRegWrite => Sys2Proof.Machine.execDbgCmdRegWrite s
  | .dbgCmdMemRead => Sys2Proof.Machine.execDbgCmdMemRead s
  | .dbgCmdMemWrite => Sys2Proof.Machine.execDbgCmdMemWrite s
  | .dbgCmdDone err => Sys2Proof.Machine.execDbgCmdDone err s
  | .wrstnReset => Sys2Proof.Machine.execWrstnReset s
  | .wsBypass => Sys2Proof.Machine.execWsBypass s
  | .wsExtest => Sys2Proof.Machine.execWsExtest s
  | .wsIntestScan => Sys2Proof.Machine.execWsIntestScan s
  | .wsSafe => Sys2Proof.Machine.execWsSafe s
  | .wsPreload => Sys2Proof.Machine.execWsPreload s
  | .cwNet => Sys2Proof.Machine.execCwNet s
  | .instrumentStart k mode => Sys2Proof.Machine.execInstrumentStart k mode s
  | .instrumentComplete k fails first => Sys2Proof.Machine.execInstrumentComplete k fails first s
  | .rstWarmFall => Sys2Proof.Machine.execRstWarmFall s
  | .fppUpFall p => Sys2Proof.Machine.execFppUpFall p s
  | .updChunkAllComplete => Sys2Proof.Machine.execUpdChunkAllComplete s

end Sys2Proof.Machine
end

