-- ==== Sys2Proof/Machine/Tick.lean ====
section
/-! DEFINITION. One period of CLK_SLOW in which no command comes: what the always-on domain counts, and its registered outputs (R326, R338, R429, R432, log 5). -/
namespace Sys2Proof.Machine

/-- The status outputs one sc behind their conditions (R432). -/
def registerOutputs (s : State) : State :=
  { s with win := { s.win with
      errCorr := s.err.corr, errUncorr := errUncorr s, errFatal := s.err.fatal, mbxInt := mbxIntCond s, wrstAct := s.win.wrst } }

/-- The quill's watchdog counts whatever the state of the quill (R326, R390). -/
def wdogNext (s : State) : Nat := min watchdogLimit (s.qu.wdog + 1)

/-- An idle sc: the tick counter advances, CORR falls, the watchdog counts, a clean of a way group goes on, and the outputs follow
(R229, R326, R338, R429, R432). While RST_COLD_N is
low, or with the functional state undefined, nothing counts. -/
def idleTick (s : State) : State :=
  if s.win.coldLow || s.test.undef then s
  else
    let s1 := registerOutputs s
    powerPoll <| cleanSteps { s1 with
      win := { s1.win with tick := s1.win.tick + 1 }
      err := { s1.err with corr := false }
      qu := { s1.qu with wdog := wdogNext s } }

end Sys2Proof.Machine
end

