-- ==== Sys2Proof/Safety.lean ====
section
/-! DEFINITION. What a safe run is, and the words in which the statements about the machine are made: when a command can act, what it leaves as it was, the canonical form of the stores, and the ALU in bit vectors. -/
namespace Sys2Proof.Machine

/-- A state that the machine reaches from another in n steps, none of which stops. -/
def runs : Nat → State → Option State
  | 0, s => some s
  | n + 1, s =>
    match step s with
    | .next t => runs n t
    | _ => none

/-- The machine takes n steps from s without a fault or a refusal. -/
def safeFor (n : Nat) (s : State) : Prop := (runs n s).isSome = true

/-- The canonical form of a memory: addresses strictly rising, no entry equal to what an unlisted address reads as. -/
def Memory.wf (m : Sparse Byte) : Bool := spWf 0 m

/-- The stores of the machine that commands write by address are in canonical form: the memory behind the fabric, the vellum, the inkwell. -/
def StoresCanonical (s : State) : Prop := Memory.wf s.mem = true ∧ Memory.wf s.vellum = true ∧ spWf 0 s.ink = true

/-- The rows and the scales of every tile are in canonical form. -/
def TilesCanonical (s : State) : Prop :=
  ∀ k : TReg, spWf 0 s.tiles[k].rows = true ∧ spWf scaleOnes s.tiles[k].scales = true

/-- The numbers of the accepted operations are distinct, and below the next one. -/
def OpsNumbered (s : State) : Prop := (s.ops.map (·.id)).Nodup ∧ ∀ o ∈ s.ops, o.id < s.nextOp

/-- The other stores that are kept by number are in canonical form: tiles, mailboxes, threads, L2 and the histograms. -/
def PartsCanonical (s : State) : Prop :=
  TilesCanonical s ∧ (∀ k : BoxNum, spWf 0 s.qu.h2q[k] = true ∧ spWf 0 s.qu.q2h[k] = true) ∧ (∀ k : ScribeNum, spWf none s.scribes[k].threads = true) ∧
  spWf none s.ca.l2 = true ∧ ∀ u : TallyNum, spWf 0 s.tal[u].live.hist = true ∧ spWf 0 s.tal[u].snap.hist = true

/-- The numbers of the accepted commands are distinct, and below the next one (R378). -/
def CommandsNumbered (s : State) : Prop := (s.qu.active.map (·.id)).Nodup ∧ ∀ a ∈ s.qu.active, a.id < s.qu.nextCmd

/-- The bits of FL that do not exist read 0, in the banks and in what an open entry restores (R33). -/
def FlagsLegal (s : State) : Prop :=
  (∀ k : BankNum, s.banks[k].fl &&& ~~~ 0x70F = 0) ∧
  (∀ w, s.c.entry = some w → w.fl &&& ~~~ 0x70F = 0) ∧
  (∀ f, s.c.fresh = some f → f.fl &&& ~~~ 0x70F = 0)

/-- SSP stays a multiple of 8 in every bank (R265). -/
def ShadowStacksAligned (s : State) : Prop := ∀ k : BankNum, s.banks[k].ssp &&& 7 = 0

/-- The functional state is defined and RST_COLD_N is high, so that functional commands act. -/
def Live (s : State) : Prop := s.test.undef = false ∧ s.win.coldLow = false

/-- An instruction of the general core executes now: its encoded fields are legal, the core runs, no other instruction waits at the ROB
head, no interrupt is due before it, and no long result that it reads is on its way. -/
def Ready (c : Instr) (s : State) : Prop :=
  Live s ∧ coreRuns s = true ∧ stalledOther s c = false ∧ interruptDue s = none ∧ wellFormed c = true ∧ srcPending c (curBank s) = false

/-- Nothing is injected: no injection is armed, and no injected flip waits to be met (R341). -/
def NoInjection (s : State) : Prop := s.err.spots = [] ∧ bit s.c.errinj 12 = false

/-- FL with its ring and IE replaced, every other bit kept (R33). -/
def flWith (fl fl' : W64) (ring : BitVec 2) (ie : Bool) : Prop :=
  flRing fl' = ring ∧ bit fl' 10 = ie ∧ ∀ i, i ≠ 8 → i ≠ 9 → i ≠ 10 → bit fl' i = bit fl i

/-- The pc at which an interrupt finds the executing bank: a WAITI that it ends has retired (R274, R283). -/
def resumePc (s : State) : W64 := if s.stall = some .waiti then (curBank s).pc + 4 else (curBank s).pc

/-- A double fault of the entry of a vector, with the pc and the FL of before the entry, SUB, and g31 exchanged with DFSTACK (R287). -/
def doubleFaulted (s t : State) (reason : BitVec 4) (vec : Byte) (pc fl : W64) (ipl : BitVec 4) : Prop :=
  t.c.xpc = pc ∧ t.c.xfl = fl ∧ t.c.xcause = causeWord 0x11 reason .none ipl ∧ t.c.xaddr = vec.setWidth 64 ∧
  t.c.dfstack = (awaitG (curBank s) 31).g[31] ∧ (curBank t).g[31] = s.c.dfstack ∧ flWith fl (curBank t).fl 0 false ∧ t.stall = none

/-- The state after an instruction that changes only the executing bank, to b. -/
def after (s : State) (b : Bank) : State := retire (setCur s b)

/-- Every general register but the named ones is as it was. -/
def keepsG (b b' : Bank) (rs : List GReg) : Prop := ∀ r : GReg, r ∉ rs → b'.g[r] = b.g[r]

/-- Every vector register but the named ones is as it was. -/
def keepsV (b b' : Bank) (rs : List VReg) : Prop := ∀ r : VReg, r ∉ rs → b'.v[r] = b.v[r]

/-- A bank differs from another in its general registers, FL, pc, dirty marks and pending long results at most. -/
def scalarOnly (b b' : Bank) : Prop :=
  b' = { b with g := b'.g, fl := b'.fl, pc := b'.pc, dirty := b'.dirty, longs := b'.longs }

/-- A bank differs from another in its scalar part and its vector and mask registers at most. -/
def vectorOnly (b b' : Bank) : Prop :=
  b' = { b with g := b'.g, pc := b'.pc, v := b'.v, m := b'.m, dirty := b'.dirty, longs := b'.longs }

/-- The general core's two-operand ALU instructions: function, rd, ra, op, S and W (R43). -/
def aluForm : Instr → Option (Alu × GReg × GReg × Opnd × Bool × Bool)
  | .add rd ra op sf wf => some (.add, rd, ra, op, sf, wf)
  | .sub rd ra op sf wf => some (.sub, rd, ra, op, sf, wf)
  | .and rd ra op sf wf => some (.and, rd, ra, op, sf, wf)
  | .or rd ra op sf wf => some (.or, rd, ra, op, sf, wf)
  | .xor rd ra op sf wf => some (.xor, rd, ra, op, sf, wf)
  | .andn rd ra op sf wf => some (.andn, rd, ra, op, sf, wf)
  | .shl rd ra op sf wf => some (.shl, rd, ra, op, sf, wf)
  | .shr rd ra op sf wf => some (.shr, rd, ra, op, sf, wf)
  | .sar rd ra op sf wf => some (.sar, rd, ra, op, sf, wf)
  | .ror rd ra op sf wf => some (.ror, rd, ra, op, sf, wf)
  | .mul rd ra op sf wf => some (.mul, rd, ra, op, sf, wf)
  | .mulh rd ra op sf wf => some (.mulh, rd, ra, op, sf, wf)
  | .mulhu rd ra op sf wf => some (.mulhu, rd, ra, op, sf, wf)
  | .min rd ra op sf wf => some (.min, rd, ra, op, sf, wf)
  | .max rd ra op sf wf => some (.max, rd, ra, op, sf, wf)
  | _ => none

/-- The divisions: function, rd, ra, rb, S and W (R43). -/
def divForm : Instr → Option (Alu × GReg × GReg × GReg × Bool × Bool)
  | .div rd ra rb sf wf => some (.div, rd, ra, rb, sf, wf)
  | .divu rd ra rb sf wf => some (.divu, rd, ra, rb, sf, wf)
  | .rem rd ra rb sf wf => some (.rem, rd, ra, rb, sf, wf)
  | .remu rd ra rb sf wf => some (.remu, rd, ra, rb, sf, wf)
  | _ => none

/-- The operations of R43 in bit vectors of the operation's width; the amount of a shift is op modulo the width. -/
def aluBits {w : Nat} (f : Alu) (x y : BitVec w) : BitVec w :=
  let k := y.toNat % w
  match f with
  | .add => x + y
  | .sub | .cmp => x - y
  | .and => x &&& y
  | .or => x ||| y
  | .xor => x ^^^ y
  | .andn => x &&& ~~~ y
  | .shl => x <<< k
  | .shr => x >>> k
  | .sar => x.sshiftRight k
  | .ror => x.rotateRight k
  | .mul => x * y
  | .mulh => BitVec.ofInt w (x.toInt * y.toInt / 2 ^ w)
  | .mulhu => BitVec.ofNat w (x.toNat * y.toNat / 2 ^ w)
  | .min => if x.toInt ≤ y.toInt then x else y
  | .max => if x.toInt ≤ y.toInt then y else x
  | .div => if y = 0 then ~~~ 0 else BitVec.ofInt w (x.toInt.tdiv y.toInt)
  | .divu => if y = 0 then ~~~ 0 else x / y
  | .rem => if y = 0 then x else BitVec.ofInt w (x.toInt.tmod y.toInt)
  | .remu => if y = 0 then x else x % y
  | .clz => BitVec.ofNat w (((List.range w).find? fun i => x.getLsbD (w - 1 - i)).getD w)
  | .popc => BitVec.ofNat w ((List.range w).countP fun i => x.getLsbD i)

/-- An ALU result as the register holds it: on bits [31:0] and zero-extended in the W forms (R43). -/
def aluValue (f : Alu) (wf : Bool) (x y : W64) : W64 :=
  if wf then (aluBits f (x.setWidth 32) (y.setWidth 32)).setWidth 64 else aluBits f x y

/-- C after an operation on words of its width, given C before (R33). -/
def carryBits {w : Nat} (f : Alu) (x y : BitVec w) (c : Bool) : Bool :=
  let k := y.toNat % w
  match f with
  | .add => BitVec.uaddOverflow x y
  | .sub | .cmp => x.ult y
  | .and | .or | .xor | .andn => c
  | .shl => if k = 0 then c else x.getLsbD (w - k)
  | .shr | .sar | .ror => if k = 0 then c else x.getLsbD (k - 1)
  | _ => false

/-- V after an operation on words of its width, given V before (R33). -/
def overflowBits {w : Nat} (f : Alu) (x y : BitVec w) (v : Bool) : Bool :=
  match f with
  | .add => BitVec.saddOverflow x y
  | .sub | .cmp => BitVec.ssubOverflow x y
  | .and | .or | .xor | .andn | .shl | .shr | .sar | .ror => v
  | _ => false

/-- The flags of an operation that sets them, against FL before: N and Z from the result, C and V as the table of R33 gives them, every other
bit of FL kept. -/
def flagsSet {w : Nat} (f : Alu) (x y : BitVec w) (fl fl' : W64) : Prop :=
  bit fl' 3 = (aluBits f x y).msb ∧ bit fl' 2 = (aluBits f x y == 0) ∧ bit fl' 1 = carryBits f x y (bit fl 1) ∧
  bit fl' 0 = overflowBits f x y (bit fl 0) ∧ ∀ i, 4 ≤ i → bit fl' i = bit fl i

/-- The flags of the S form or of CMP in either width. -/
def flagsOf (f : Alu) (wf : Bool) (x y fl fl' : W64) : Prop :=
  if wf then flagsSet f (x.setWidth 32) (y.setWidth 32) fl fl' else flagsSet f x y fl fl'

/-- What an access of the core may change besides its own registers: the caches and translation caches, the memories behind them and what
watches their writes (dirty granules of the mirror, the fabric ports, which remember that a write is not confirmed, R418), and what posting a
record and an injected flip touch; never a register of a bank, any other control register, or a register of a unit. -/
def accessOnly (s t : State) : Prop :=
  t = { s with
    ca := t.ca, mem := t.mem, memBad := t.memBad, vellum := t.vellum, vellumBad := t.vellumBad, mir := t.mir, port := t.port
    err := t.err, dom := t.dom
    c := { s.c with
      errlast := t.c.errlast, ipend := t.c.ipend, l2Check := t.c.l2Check, l1dCheck := t.c.l1dCheck, errinj := t.c.errinj } }

/-- The base register that an addressing mode updates (R45, R46). -/
def baseRegs : SAddr → List GReg
  | .post ga | .pre ga => [ga]
  | _ => []

/-- The base register of a vector addressing mode that it updates (R45, R464). -/
def vbaseRegs : VAddr → List GReg
  | .post ga | .pre ga => [ga]
  | _ => []

/-- A translated load that can be performed now: no older store, no other miss and no zeroing holds it, and the checks of its data find
nothing (no injected flip waits to be met). -/
def loadFree (s : State) (n : Nat) (acq : Bool) (l : List Phys) : Prop :=
  s.err.spots = [] ∧ loadWaits s n acq l = false ∧ missWaits s l = false ∧ zeroingWaits s l = false ∧ checkParts .core n l s = (s, none)

/-- A translated store that the store buffer takes now: the core is not in ruled mode, no zeroing holds it, no device part
goes to the alias, and there is room. -/
def storeFree (s : State) (l : List Phys) : Prop :=
  s.c.ruledAct = false ∧ (zeroingWaits s l || (refusedPart s l).isSome) = false ∧ s.ca.sb.length + l.length ≤ 32

/-- The state with the parts of a store at the tail of the store buffer, oldest first (R225). -/
def buffered (s : State) (m : StoreMode) (rel : Bool) (bs : List (Option Byte)) (l : List Phys) : State :=
  { s with ca := { s.ca with sb := s.ca.sb ++ sbEntries m rel bs l } }

/-- A translated store that is performed now, as in ruled mode every store of the core is (R208). -/
def storeRuled (s : State) (l : List Phys) : Prop :=
  s.c.ruledAct = true ∧ (zeroingWaits s l || (refusedPart s l).isSome) = false ∧ (l.flatMap fun p => heldGranules s p.pa p.len) = []

/-- The state with the parts of a store of the core performed. -/
def performed (s : State) (bs : List (Option Byte)) (l : List Phys) : State :=
  l.foldl (fun s p => performPart s .core p.ty p.pa (partBytes bs p)) s

/-- The kind of a scalar store: one entry, or two for one that crosses a line (R205). -/
def modeOf (l : List Phys) : StoreMode := if 1 < l.length then .split else .single

/-- No line of an access waits in the prefetch buffer, so that a load moves no line. -/
def nothingPrefetched (s : State) (l : List Phys) : Prop := ∀ p ∈ l, s.ca.pf.contains (lineNo p.pa) = false

/-- n elements of a REPN in a row, each of them performed (R50). -/
def elementsDone (g : Governed) : Nat → Bank → State → Option (Bank × State)
  | 0, b, s => some (b, s)
  | n + 1, b, s =>
    match governedOnce .core g b s with
    | .ok b1 s1 => elementsDone g n b1 s1
    | _ => none

/-- An atomic of the core that can be performed now: nothing that it is ordered after holds it, the checks of its data find nothing, and the
mirror engine does not hold its granule (R58, R353). -/
def atomFree (s : State) (p : Phys) (n : Nat) (acq rel : Bool) : Prop :=
  zeroingWaits s [p] = false ∧ atomWaits .core acq rel s p = false ∧ checkParts .core 0 [p] s = (s, none) ∧ heldGranules s p.pa n = []

/-- The bytes that an atomic of the core finds at its location. -/
def atomOld (s : State) (p : Phys) (n : Nat) : List Byte :=
  (List.range n).map fun i => ownByte (atomReady .core s p) (cohRead? .core (atomReady .core s p) p.ty) (p.pa + i)

/-- Every fabric write of an agent is visible to all agents (R418). -/
def seenByAll (ag : Agent) (s : State) : Prop :=
  ∀ p : PortNum, s.port[p].unconf.getLsbD (agentBit ag) = false ∧ (s.port[p].token = true → s.port[p].cover.getLsbD (agentBit ag) = false)

/-- Whether a translation cache's entry or a walk-cache entry stays after a TLBI (R248), said of one list of each. -/
def tlbiKeeps (f : TlbiForm) (l l' : List TlbEntry) : Prop := ∀ e, e ∈ l' ↔ e ∈ l ∧ tlbiLeaf f e = false

/-- What a TLBI does to the translation caches: exactly the entries that it names go, in every one of them; the walks in progress start again; the
other caches stay (R248, R249). -/
def tlbiDone (f : TlbiForm) (s t : State) : Prop :=
  tlbiKeeps f s.ca.itlb t.ca.itlb ∧ tlbiKeeps f s.ca.dtlb t.ca.dtlb ∧ tlbiKeeps f s.ca.l2tlb t.ca.l2tlb ∧
  tlbiKeeps f s.ca.stlb t.ca.stlb ∧ (∀ k : ScribeNum, tlbiKeeps f s.ca.scrTlb[k] t.ca.scrTlb[k]) ∧
  (∀ e, e ∈ t.ca.walkc ↔ e ∈ s.ca.walkc ∧ tlbiWalk f e = false) ∧ t.ca.walks = s.ca.walks.map walkRestart ∧
  t.ca = { s.ca with itlb := t.ca.itlb, dtlb := t.ca.dtlb, l2tlb := t.ca.l2tlb, stlb := t.ca.stlb, scrTlb := t.ca.scrTlb
                     walkc := t.ca.walkc, walks := t.ca.walks }

/-- A TLBI instruction, with its form on a bank and LOCAL (R248). -/
def tlbiOf (b : Bank) : Instr → Option (TlbiForm × Bool)
  | .tlbiAll loc => some (.all, loc)
  | .tlbiAsid gb loc => some (.asid ((rg b gb).setWidth 16), loc)
  | .tlbiVa ga gb loc => some (.va (rg b ga) ((rg b gb).setWidth 16), loc)
  | .tlbiVaall ga loc => some (.vaall (rg b ga), loc)
  | _ => none

/-- The instructions of R257 and R248 that a ring may not execute, with the lowest ring number that may not. -/
def ringLimit : Instr → Option Nat
  | .sysr | .retx | .waiti => some 2
  | .sspush _ | .tlbiAll _ | .tlbiAsid _ _ | .tlbiVa _ _ _ | .tlbiVaall _ _ => some 2
  | .retxC => some 1
  | _ => none

/-- A call's effect on its bank: both stack pointers move down, the pc goes to the target, nothing else changes (R51). -/
def calledTo (b b' : Bank) (target : W64) : Prop :=
  b' = { b with g := b'.g, ssp := b'.ssp, pc := target, dirty := b'.dirty, longs := b'.longs } ∧
  b'.g[31] = b.g[31] - 8 ∧ keepsG b b' [31] ∧ b'.ssp = (b.ssp - 8) &&& ~~~ 7

/-- The actions of BANKWIN as rows of the table: ACT and the bank that is written (R292). -/
def actForm : Instr → Option (Nat × BankNum)
  | .bankAlloc k => some (1, k)
  | .bankFree k => some (2, k)
  | .bankPark k => some (3, k)
  | .bankReady k => some (4, k)
  | .bankSwitch k => some (5, k)
  | .bankClrev k => some (6, k)
  | .bankReturn k => some (7, k)
  | _ => none

/-- The system registers whose writes have rows of their own: the register's number (R206, R228, R280, R341, R458). -/
def systemRow : Instr → Option Nat
  | .ruledEnter _ | .ruledExit _ => some 0x50
  | .l2wayctlWrite _ => some 0x51
  | .errinjArm _ => some 0x66
  | .rstctlWarm => some 0x68
  | .isetWrite j _ => some (0x714 + j.val)
  | _ => none

/-- The saves and loads of the window bank: whether it is a load, its area's register, and whether it is a form of half an area (R296, R299). -/
def saveForm : Instr → Option (Bool × GReg × Bool)
  | .svm ga _ => some (false, ga, false)
  | .ldm ga _ => some (true, ga, false)
  | .svh ga _ => some (false, ga, true)
  | .ldh ga _ => some (true, ga, true)
  | _ => none

/-- The action of a save or load: release or ready, bit 63 of its mask (R296). -/
def saveAct (b : Bank) : Instr → Bool
  | .svm _ gm | .ldm _ gm => bit (rg b gm) 63
  | _ => false

/-- Whether a save or load names a vector or mask group (R297, R300). -/
def savesVec (b : Bank) : Instr → Bool
  | .svm _ gm | .ldm _ gm => groupsByBit.any fun g => vecGroup g && bit (rg b gm) (groupBit g)
  | _ => true

/-- The groups of a save or load in their order, each with its number and its address; nx: the area of the other half, or 0 (R296, R299). -/
def saveGroups (b : Bank) (nx : W64) : Instr → List (Nat × Group × W64)
  | .svm ga gm | .ldm ga gm =>
    (groupsByBit.filter fun g => bit (rg b gm) (groupBit g)).map fun g => (groupBit g, g, rg b ga + BitVec.ofNat 64 (groupOffs g))
  | .svh ga h => halfList 0 (rg b ga) 0x40 (halfGroups h)
  | .ldh ga h =>
    halfList 0 (rg b ga) 0x40 (halfGroups h) ++ (if nx = 0 then [] else halfList (halfGroups h).length nx 0x40 (halfGroups !h))
  | _ => []

/-- A save or load is undefined here: not a form of this configuration, a load into bank 0 or the executing bank, a release of one of them, or a
load of vector groups with VEC off (R296, R297, R299, R300). -/
def saveUndef (i : Instr) (load half : Bool) (b : Bank) (s : State) : Bool :=
  (half == (s.var == .m1024)) || ((load || saveAct b i) && (s.c.bankwin == 0 || s.c.bankwin == s.c.cur)) ||
  (load && savesVec b i && domUse s dVec == .off)

/-- One group transferred to or from memory, with its dirty bit cleared; none where its access does not end now (R297). -/
def groupMoved (load : Bool) (gr : Group) (va : W64) (b : Bank) (s : State) : Option (Bank × State) :=
  let w := winBank b s
  if load then
    match loadBytes .core b va (groupSize gr) 8 false s with
    | .bytes s1 bs => some (putWin b s1 { groupLoad w (ringOf b) gr bs with dirty := setBit w.dirty (groupBit gr) false })
    | _ => none
  else
    let bs := groupBytes (domUse s dVec == .off) w (if s.c.bankwin = s.c.cur then b.pc + 4 else w.pc) gr
    match storePieces .core b va 8 true false (bs.map some) (piecesOf va bs.length) s with
    | .done s1 => some (putWin b s1 { w with dirty := setBit w.dirty (groupBit gr) false })
    | _ => none

/-- A save or load has transferred its last group: SVMPROG.VALID is 0 and its action is taken (R297). -/
def saveEnds (i : Instr) (load : Bool) (b : Bank) (s : State) : Bank × State :=
  let s1 := { s with c := { s.c with svmprog := setBit s.c.svmprog 6 false, xfer := none } }
  let w := winBank b s1
  if saveAct b i = false then (b, s1)
  else if load then putWin b s1 (wakeBank w .ready) else putWin b (spent s1 1) (releasedBank s1 w)

/-- A save or load stays at the ROB head with the group of number j next (R297). -/
def saveGoesOn (i : Instr) (j : Nat) (nx : W64) (b : Bank) (s : State) : State :=
  { setCur { begun s with c := { (begun s).c with xfer := some (j, nx) } } b with stall := some i }

/-- The executing bank may use a tile: it owns it, or every bank does (R84). -/
def tileOwned (s : State) (t : TReg) : Prop := s.tiles[t].ownAny = true ∨ s.tiles[t].ownBank = s.c.cur

/-- No accepted operation that is not over names a tile. -/
def tileIdle (s : State) (t : TReg) : Prop := ∀ o ∈ s.ops, opNames o t = false

/-- An instruction of the tile group executes now: TILE is up (R28). -/
def TileReady (c : Instr) (s : State) : Prop := Ready c s ∧ domUse s dTile = .ready

/-- Every tile but one is as it was. -/
def otherTilesKept (s t : State) (k : TReg) : Prop := ∀ j : TReg, j ≠ k → t.tiles[j] = s.tiles[j]

/-- What an instruction or an event of the tile unit may change: tiles, nib cache, accepted operations, queues' counts and TDIRTY; no register of a
bank and no byte of memory. -/
def tileOnly (s t : State) : Prop :=
  t = { s with tiles := t.tiles, nib := t.nib, ops := t.ops, nextOp := t.nextOp, sq := t.sq, c := { s.c with tdirty := t.c.tdirty } }

/-- What a read or a write of the contents of tiles may change besides: the error system, its lines and registers. -/
def tileRecords (s t : State) : Prop :=
  t = { s with
    tiles := t.tiles, nib := t.nib, ops := t.ops, nextOp := t.nextOp, sq := t.sq, err := t.err, dom := t.dom
    c := { s.c with
      tdirty := t.c.tdirty, errlast := t.c.errlast, ipend := t.c.ipend, errinj := t.c.errinj, l2Check := t.c.l2Check, l1dCheck := t.c.l1dCheck } }

/-- An operation of a queue has stopped and is reported: RECV, its cause, ADDR, the operand's address, PHYS (0 for a translation's cause), the
queue FAULTED, vector 0x23 pending (R174, R176). -/
def streamStopped (s t : State) (q : QNum) (o : Op) (c : BitVec 5) (addr pa : W64) : Prop :=
  t.sq[q].recv = true ∧ t.sq[q].faulted = some o.id ∧ fieldN t.sq[q].w1 4 0 = c.toNat ∧ t.sq[q].w2 = addr ∧ t.sq[q].w3 = o.ga ∧
  t.sq[q].w4 = (if xlateCause c = true then 0 else pa) ∧ t.sq[q].done = s.sq[q].done ∧ isPending t 0x23 = true ∧ t.mem = s.mem ∧ t.banks = s.banks

/-- What a sample and the records that come with it may change: the tallies, the error system, its lines and registers, a wake request. -/
def sampleOnly (s t : State) : Prop :=
  t = { s with
    tal := t.tal, err := t.err, dom := t.dom
    c := { s.c with
      errlast := t.c.errlast, ipend := t.c.ipend, errinj := t.c.errinj, l2Check := t.c.l2Check, l1dCheck := t.c.l1dCheck } }

/-- No other accepted operation has the number of this one. -/
def onlyOp (s : State) (o : Op) : Prop := ∀ x ∈ s.ops, x.id = o.id → x = o

/-- No other accepted operation writes a tile, and none has failed. -/
def noOtherWriter (s : State) (o : Op) (k : TReg) : Prop := ∀ x ∈ s.ops, x.id ≠ o.id → opWrites x k = false ∧ x.left = false

/-- No line of an operation waits for its writes to be visible. -/
def noneWritten (s : State) : Prop := ∀ x ∈ s.ops, x.written = [] ∧ x.fab = []

/-- The instructions that may wait at the ROB head until their unit accepts them (R70, R97, R163, R187). -/
def waitsForUnit : Instr → Bool
  | .tld _ _ _ _ _ | .tst _ _ _ _ _ | .tresume _ | .bplane _ | .bswap | .brun _ _ _ _ | .iclr _ _ | .idrainTile _ _ _ | .idrainMemory _ _ _ _ _
  | .smove _ _ | .slaunch _ _ => true
  | _ => false

/-- One operation more has been accepted, the last in the order of acceptance (R69). -/
def accepted (s t : State) (o : Op) : Prop :=
  t.ops = s.ops ++ [o] ∧ t.nextOp = s.nextOp + 1 ∧ o.id = s.nextOp ∧ o.cap = captureOf (curBank s) s

/-- An instruction of the core's vector unit executes now: VEC is up (R28). -/
def VecReady (c : Instr) (s : State) : Prop := Ready c s ∧ domUse s dVec = .ready

/-- The integer vector instructions: operation, vd, va, vb, mask and W (R462). -/
def vintForm : Instr → Option (VInt × VReg × VReg × VReg × Option MReg × BitVec 2)
  | .vadd vd va vb mk w => some (.add, vd, va, vb, mk, w)
  | .vsub vd va vb mk w => some (.sub, vd, va, vb, mk, w)
  | .vmul vd va vb mk w => some (.mul, vd, va, vb, mk, w)
  | .vmin vd va vb mk w => some (.min, vd, va, vb, mk, w)
  | .vmax vd va vb mk w => some (.max, vd, va, vb, mk, w)
  | .vminu vd va vb mk w => some (.minu, vd, va, vb, mk, w)
  | .vmaxu vd va vb mk w => some (.maxu, vd, va, vb, mk, w)
  | .vand vd va vb mk w => some (.and, vd, va, vb, mk, w)
  | .vor vd va vb mk w => some (.or, vd, va, vb, mk, w)
  | .vxor vd va vb mk w => some (.xor, vd, va, vb, mk, w)
  | .vshl vd va vb mk w => some (.shl, vd, va, vb, mk, w)
  | .vshr vd va vb mk w => some (.shr, vd, va, vb, mk, w)
  | .vsar vd va vb mk w => some (.sar, vd, va, vb, mk, w)
  | _ => none

/-- The operations of the integer vector instructions on elements of w bits (R462); the amount of a shift is the element of vb modulo w. -/
def vintBits {w : Nat} (f : VInt) (x y : BitVec w) : BitVec w :=
  match f with
  | .add => x + y
  | .sub => x - y
  | .mul => x * y
  | .min => if x.toInt ≤ y.toInt then x else y
  | .max => if x.toInt ≤ y.toInt then y else x
  | .minu => if x.toNat ≤ y.toNat then x else y
  | .maxu => if x.toNat ≤ y.toNat then y else x
  | .and => x &&& y
  | .or => x ||| y
  | .xor => x ^^^ y
  | .shl => x <<< (y.toNat % w)
  | .shr => x >>> (y.toNat % w)
  | .sar => x.sshiftRight (y.toNat % w)

/-- The floating-point vector instructions: operation, vd, va, vb, mask and W; VFSQRT has no vb (R462). -/
def vfpForm : Instr → Option (VFp × VReg × VReg × VReg × Option MReg × BitVec 2)
  | .vfadd vd va vb mk w => some (.add, vd, va, vb, mk, w)
  | .vfsub vd va vb mk w => some (.sub, vd, va, vb, mk, w)
  | .vfmul vd va vb mk w => some (.mul, vd, va, vb, mk, w)
  | .vfdiv vd va vb mk w => some (.div, vd, va, vb, mk, w)
  | .vfsqrt vd va mk w => some (.sqrt, vd, va, va, mk, w)
  | .vfmin vd va vb mk w => some (.min, vd, va, vb, mk, w)
  | .vfmax vd va vb mk w => some (.max, vd, va, vb, mk, w)
  | .vfma vd va vb mk w => some (.fma, vd, va, vb, mk, w)
  | .vfnma vd va vb mk w => some (.fnma, vd, va, vb, mk, w)
  | _ => none

/-- The integer vector compares: predicate, md, va, vb, mask and W (R462). -/
def vcmpForm : Instr → Option (VCmp × MReg × VReg × VReg × Option MReg × BitVec 2)
  | .vcmpeq md va vb mk w => some (.eq, md, va, vb, mk, w)
  | .vcmplt md va vb mk w => some (.lt, md, va, vb, mk, w)
  | .vcmpltu md va vb mk w => some (.ltu, md, va, vb, mk, w)
  | _ => none

/-- The predicates of the integer vector compares on elements of w bits (R462). -/
def vcmpBits {w : Nat} (f : VCmp) (x y : BitVec w) : Bool :=
  match f with
  | .eq => x == y
  | .lt => decide (x.toInt < y.toInt)
  | .ltu => decide (x.toNat < y.toNat)

/-- The floating-point vector compares: 0 equal, 1 less, 2 less or equal; md, va, vb, mask and W (R462). -/
def vfcmpForm : Instr → Option (Nat × MReg × VReg × VReg × Option MReg × BitVec 2)
  | .vfcmpeq md va vb mk w => some (0, md, va, vb, mk, w)
  | .vfcmplt md va vb mk w => some (1, md, va, vb, mk, w)
  | .vfcmple md va vb mk w => some (2, md, va, vb, mk, w)
  | _ => none

/-- The floating-point reductions: step, vd, va, mask and W (R462). -/
def vredForm : Instr → Option (VRed × VReg × VReg × Option MReg × BitVec 2)
  | .vrsum vd va mk w => some (.sum, vd, va, mk, w)
  | .vrmax vd va mk w => some (.max, vd, va, mk, w)
  | .vrmin vd va mk w => some (.min, vd, va, mk, w)
  | _ => none

/-- The width of an element by the integer W codes (R461). -/
def wI (w : BitVec 2) : Nat := 8 * 2 ^ w.toNat

/-- The width of an element by the floating-point W codes (R461). -/
def wF (w : BitVec 2) : Nat := if w = 2 then 32 else 16

/-- Element j of w bits is acted on: it lies below VL and in the register, and the mask, if any, has its bit (R35). -/
def elementActs (b : Bank) (mk : Option MReg) (w j : Nat) : Prop :=
  j < fieldN b.vl 11 0 ∧ j < 16384 / w ∧ ∀ m, mk = some m → bit b.m[m] j = true

/-- The elements of w bits of a register after an instruction: those acted on hold the given values, every other bit is as it was. -/
def elementsAre (w : Nat) (x x' : VWord) (act : Nat → Prop) (v : Nat → Nat) : Prop :=
  (∀ j, act j → velem w x' j = v j % 2 ^ w) ∧ ∀ i, (∀ j, act j → ¬ (w * j ≤ i ∧ i < w * j + w)) → bit x' i = bit x i

/-- A bank differs from another in its vector registers, pc and dirty marks at most. -/
def vregsOnly (b b' : Bank) : Prop := b' = { b with v := b'.v, pc := b'.pc, dirty := b'.dirty }

/-- What a vector access does to its base register and to the pc (R45, R464). -/
def vecBaseDone (n : Nat) (a : VAddr) (b b' : Bank) : Prop :=
  (∀ ga, a = .post ga → b'.g[ga] = rg b ga + BitVec.ofNat 64 n) ∧ (∀ ga, a = .pre ga → b'.g[ga] = rg b ga - BitVec.ofNat 64 n) ∧
  keepsG b b' (vbaseRegs a) ∧ b'.pc = b.pc + 4

/-- Words of the partner port come now: the core has a partner, the link is up, VELLUM is ready (R28, R356). -/
def PartnerUp (s : State) : Prop := Live s ∧ hasPartner s.var = true ∧ s.mir.link = true ∧ domUse s dVellum = .ready

/-- No answer to a FREQ and no fetch or verify of this core runs. -/
def noTransfer (s : State) : Prop := s.mir.serve = none ∧ s.mir.fetch = none

/-- The events of words on the partner port, and of the commit's reads (R424). -/
def partnerRow : Instr → Bool
  | .mirrorGranuleRead _ | .partnerAck _ _ _ | .partnerNack _ _ _ | .partnerCredit _ | .partnerGranuleReceive _ _ _ _ _ _ | .partnerRecordReceive _
  | .partnerWriteVisible | .partnerFreq _ _ _ | .fetchGranuleReceive _ _ _ _ | .partnerFend _ => true
  | _ => false

/-- A commit has been abandoned with the alarm of R357: STATE back to what runs besides, FAILED, ABORTS advanced (it saturates), vector 0x22 pending, and the bits of the granules not
acknowledged set again. -/
def commitAbandoned (s t : State) (k : Commit) : Prop :=
  t.mir.commit = none ∧ t.mir.st = restState s ∧ t.mir.failed = true ∧ t.mir.last = s.mir.last ∧ isPending t 0x22 = true ∧
  t.mir.aborts = (if s.mir.aborts = 0xFF then 0xFF else s.mir.aborts + 1) ∧ t.banks = s.banks ∧
  ∀ g ∈ k.tx.todo ++ k.tx.unacked.map (·.g), mapBit t k.tx.gen g = true

/-- The reply mailbox of a request is free: the quill owns it, and no message waits for it (R367, R370). -/
def mailFree (s : State) (r : Req) : Prop :=
  s.qu.qh.getLsbD r.box.val = false ∧ s.qu.outbox[r.box] = [] ∧ spWf 0 s.qu.q2h[r.box] = true

/-- The quill executes the request r now: the server has taken it, its opcode is op, and its reply mailbox is free (R370). -/
def CmdReady (op : BitVec 16) (r : Req) (s : State) : Prop :=
  Live s ∧ s.qu.cur = some r ∧ r.op = op ∧ s.qu.qstate ≠ .restart ∧ mailFree s r

/-- The host owns the reply mailbox of a request, which holds a message from its first byte on (R367, R370). -/
def mailed (t : State) (r : Req) (m : List Byte) : Prop :=
  t.qu.qh.getLsbD r.box.val = true ∧ spGetAll 0 t.qu.q2h[r.box] 0 m.length = m

/-- A request has its response, and its entry in the blotter is COMPLETED with the response's status (R371, R372, R384, R385). -/
def replied (t : State) (r : Req) (st det : Byte) (res : List Byte) : Prop :=
  t.qu.cur = none ∧ mailed t r (message r.vmaj r.vmin (r.op ||| 0x8000) r.seq (st :: det :: 0 :: 0 :: res)) ∧
  ∀ i, r.entry = some i → entByte (spGet 0 t.qu.blot i.toNat) 7 = 2 ∧ entByte (spGet 0 t.qu.blot i.toNat) 24 = st

/-- A request has been accepted: its response says so, and the next command has the next number (R372, R378). -/
def acceptedReply (s t : State) (r : Req) : Prop :=
  t.qu.cur = none ∧ mailed t r (message r.vmaj r.vmin (r.op ||| 0x8000) r.seq [1, 0, 0, 0]) ∧ t.qu.nextCmd = s.qu.nextCmd + 1

/-- An accepted command that runs for the host outside a restart: its number and the free mailbox of its completion (R372). -/
def running (s : State) (id : Nat) (a : Active) : Prop :=
  s.qu.active.find? (·.id == id) = some a ∧ a.replay = false ∧ s.qu.qstate ≠ .restart ∧ mailFree s a.req

/-- An event of the power control brings nothing more about: no POWER_SET runs, no shutdown waits, and VELLUM is clocked if another domain is. -/
def powerQuiet (s : State) : Prop :=
  s.pset = none ∧ (∀ d : Fin 32, s.dom[d].after = none) ∧ (othersClocked s = true → s.dom[dVellum].st = .run ∧ s.dom[dVellum].goal = none)

/-- The domains whose units an instruction of the general core uses, in the order in which it asks for them (R28). -/
def unitDoms : Instr → List (Fin 32)
  | .tld _ _ _ _ _ | .tst _ _ _ _ _ => [dTile, dStream]
  | .tcfgImm _ _ _ _ _ | .tcfgReg _ _ | .tcfgRead _ _ | .tzero _ | .trel _ | .tmov _ _ | .trdy _ _ | .trdyW _ _ | .tresume _ => [dTile]
  | .vtrd _ _ _ | .vtrdS _ _ _ | .vtwr _ _ _ | .vtwrS _ _ _ => [dTile, dVec]
  | .bplane _ | .brun _ _ _ _ | .idrainTile _ _ _ => [dBoard, dTile]
  | .bswap | .iclr _ _ => [dBoard]
  | .idrainVector _ _ _ => [dBoard, dVec]
  | .idrainMemory _ _ _ _ _ => [dBoard, dStream]
  | .smove _ _ | .sqstat _ _ _ | .sqwait _ _ | .sqctlClear _ _ | .sqctlRestart _ _ | .sqctlRestartAt _ _ | .sqctlAbandon _ _ | .slaunch _ _ => [dStream]
  | .vload _ _ _ _ | .vstore _ _ _ _ | .vcvt _ _ _ _ _ _ | .vext _ _ _ _ | .vins _ _ _ _ | .vsplat _ _ _ | .vradd _ _ _ _ => [dVec]
  | .mand _ _ _ | .mor _ _ _ | .mxor _ _ _ | .mnot _ _ | .mset _ | .mcnt _ _ => [dVec]
  | .rep _ i => if governsVec i then [dVec] else []
  | i => if (vintForm i).isSome || (vfpForm i).isSome || (vcmpForm i).isSome || (vfcmpForm i).isSome || (vredForm i).isSome then [dVec] else []

/-- The messages of the snoop class: port, TAG, whether the CRC is good, and the opcode of the answer (R415, R416, R419, R422). -/
def snoopOn : Instr → Option (PortNum × BitVec 12 × Bool × Byte)
  | .probeShr p tag _ ok | .probeOwn p tag _ ok _ | .probeKill p tag _ ok _ => some (p, tag, ok, 0xC1)
  | .tlbiMsg p tag _ _ _ _ ok => some (p, tag, ok, 0xC5)
  | .intMsg p tag _ _ _ ok => some (p, tag, ok, 0xC7)
  | _ => none

/-- What posting a record may change: the error system, its lines and registers, a wake request, and a free value that is used. -/
def recordOnly (s t : State) : Prop :=
  t = { s with
    err := t.err, dom := t.dom, freeCtr := t.freeCtr
    c := { s.c with errlast := t.c.errlast, ipend := t.c.ipend, l2Check := t.c.l2Check, l1dCheck := t.c.l1dCheck } }

/-- An accepted command has its completion, and is no longer active (R372, R385). -/
def completed (s t : State) (id : Nat) (a : Active) (st det : Byte) (res : List Byte) : Prop :=
  t.qu.active = s.qu.active.filter (·.id != id) ∧
  mailed t a.req (message a.req.vmaj a.req.vmin (a.req.op ||| 0xC000) a.req.seq (st :: det :: 0 :: 0 :: res))

/-- The MPU of the quill holds the regions of a component (R364, R365). -/
def mpuOf (t : State) (c : Component) : Prop := ∀ k : Fin 16, t.qu.mpu[k] = (componentRegions c).getD k.val {}

/-- A restart of the quill is not a failed start: it is not down, and it has been in RUN for 1 s (R388). -/
def longInRun (s : State) : Prop :=
  s.qu.down = false ∧ ∃ t0, s.qu.runTick = some t0 ∧ 100000000 ≤ (s.win.tick - t0).toNat

end Sys2Proof.Machine
end

