-- ==== Sys2Proof/Certificates/Slice0/Obligations.lean ====
section
/-! DEFINITION. The statements for the provers, each formalising or resting on numbered rules of spec/. -/
open Sys2Proof Sys2Proof.Machine

/-- The block takes its commands first in, first out: a step with command c at the front of the queue is exec of c on the state with the queue's rest
(log 1). On an empty queue one period of CLK_SLOW passes (the model's choice, log 5): the tick counter of R429 advances, the status outputs take the
values that their conditions had (R432); with reset asserted or the functional state undefined nothing changes. -/
def Obligations.StepRunsFrontCommand : Prop :=
  (∀ (c : Instr) (cs : List Instr) (s : State), s.pending = c :: cs → step s = exec c { s with pending := cs }) ∧
  (∀ s : State, s.pending = [] →
     (Live s → ∃ t, step s = .next t ∧ t.pending = [] ∧
       t.win = { s.win with tick := s.win.tick + 1, errCorr := s.err.corr, errUncorr := errUncorr s, errFatal := s.err.fatal,
                            mbxInt := mbxIntCond s, wrstAct := s.win.wrst }) ∧
     (¬ Live s → step s = .next s))

/-- No command touches the queue or the configuration of the block: whatever answers a next state leaves the commands that wait in their order (log
1). -/
def Obligations.StepConsumesOneCommand : Prop :=
  ∀ (c : Instr) (cs : List Instr) (s t : State), s.pending = c :: cs → step s = .next t → t.pending = cs ∧ t.var = s.var

/-- R24, R33 to R36, R64, R68, R84, R114, R186, R277, R291, R301, R306, R310, R317, R336, R346, R369, R446, R457: the values that the spec gives for
reset, on a Marsor-1024. After reset every store is empty in its canonical form, no operation or command is accepted, the bits of FL that do not exist
read 0, and every SSP is aligned. -/
def Obligations.ResetLeavesTheSpecValues : Prop :=
  (let s := State.reset
   (∀ k : BankNum, let b := s.banks[k]
     b.fl = 0 ∧ b.vl = 0 ∧ b.vfst = 0 ∧ b.ssp = 0 ∧ b.sysrpc = 0 ∧ b.sysrfl = 0 ∧ b.ttb = 0 ∧ b.ibase = 0 ∧ b.bmode = 0 ∧ b.srseed = 0 ∧ b.dirty = 0 ∧
     b.sev = false ∧ b.bev = false ∧ b.mev = false ∧ b.tnr = false ∧ b.st = (if k = 0 then .run else .free)) ∧
   s.c.cur = 0 ∧ s.c.ipl = 0 ∧ s.c.hold = false ∧ s.c.ruledAct = false ∧ s.c.vtbase = 0 ∧ s.c.xcause = 0 ∧ s.c.cxcause = 0 ∧ s.c.dfstack = 0 ∧
   s.c.holdmax = 0x10400 ∧ s.c.schedctl = 0x100003E ∧ s.c.bthrOs = 0xFF ∧ s.c.bthrHost = 0xFF ∧ s.c.ply = 0 ∧ s.c.fwfloor = 0 ∧ s.c.chkdis = 0 ∧
   (∀ k : TReg, let t := s.tiles[k]
     t.rowsm1 = 0x3FF ∧ t.rbm1 = 0xF ∧ t.etype = 0 ∧ t.mx = false ∧ t.st = .empty ∧ t.ownAny = true ∧ ∀ r : Nat, tileRow t r = 0 ∧ tileScale t r = scaleOnes) ∧
   s.ops = [] ∧ (∀ p : Fin 2, s.bd.acc[p].loaded = false ∧ s.bd.planes[p].pr.loaded = false) ∧
   (∀ q : QNum, s.sq[q].done = 0 ∧ s.sq[q].recv = false ∧ s.sq[q].faulted = none) ∧
   (∀ w : RingNum, let r := s.rings[w]
     r.offs = 0 ∧ r.en = false ∧ r.sizelog2 = 4 ∧ r.smask = 0xFFFF ∧ r.head = 0 ∧ r.done = 0 ∧ r.tail = 0) ∧
   (∀ u : Fin 16, let x := s.tal[u].live
     s.tal[u].src = 0 ∧ x.mn = 0xFFFFFFFF ∧ x.mx = 0 ∧ x.cnt = 0 ∧ x.nan = 0 ∧ x.sum = 0 ∧ x.drop = 0) ∧
   s.mir.en = false ∧ s.mir.tmo = 0x0A ∧ s.mir.last = 0 ∧ s.err.wr = 0 ∧ s.err.rd = 0 ∧ s.err.ovf = 0 ∧ s.err.fatal = false ∧ s.err.chkoff = false ∧
   s.qu.qstate = .rom ∧ s.qu.hq = 0 ∧ s.qu.qh = 0 ∧ s.qu.next = 0 ∧ s.qu.wraps = 0 ∧ s.upd.st = .idle ∧ s.win.tick = 0 ∧ s.dbg.halted = false ∧
   (∀ d : Fin 32, s.dom[d].st = .off ∧ s.heldOff.getLsbD d.val = domPresent s.var d)) ∧
  (StoresCanonical State.reset ∧ PartsCanonical State.reset ∧ OpsNumbered State.reset ∧ CommandsNumbered State.reset ∧ FlagsLegal State.reset ∧ ShadowStacksAligned State.reset)

/-- Every step keeps the memory, the vellum, the inkwell and the stores kept by number in canonical form, so that equal contents are equal states, and
gives every accepted operation and command a number of its own. -/
def Obligations.StepKeepsStoresCanonical : Prop :=
  ∀ s t : State, step s = .next t →
    (StoresCanonical s → StoresCanonical t) ∧ (PartsCanonical s → PartsCanonical t) ∧ (OpsNumbered s → OpsNumbered t) ∧ (CommandsNumbered s → CommandsNumbered t)

/-- Every step keeps the bits of FL that do not exist at 0 in every bank (R33): no write, entry, return, load of a bank or interrupt sets one. Every
step keeps SSP aligned to 8 in every bank (R265): no call, return, push, increment, load of a bank or register write breaks it. -/
def Obligations.StepKeepsBankFieldsLegal : Prop :=
  (∀ s t : State, FlagsLegal s → step s = .next t → FlagsLegal t) ∧
  (∀ s t : State, ShadowStacksAligned s → step s = .next t → ShadowStacksAligned t)

/-- R17, R40 to R48, R57, R58, R60, R96, R127, R165, R187, R248, R257, R296, R461 to R465: what decoding reads from the words of a legal instruction
is that instruction, with every operand at every value. -/
def Obligations.DecodeOfEncodeIsIdentity : Prop :=
  ∀ (i : Instr) (w : W32 × W32), wellFormed i = true → encodeWords i = some w → decodeWords w.1 w.2 = some i

/-- R43, R42, R33: a two-operand ALU instruction writes its result to rd (zero-extended in the W forms), sets the flags only in its S form, advances
the pc, and changes nothing else of the machine. R43, R33: CMP writes no general register; it sets the flags of ra - op in either form. R43, R42: CLZ
counts leading zeros and POPC one bits, on 64 or 32 bits; IMZ writes its lane and zeroes every other bit, IMI keeps them. Each writes rd alone, and
the flags in the S forms alone. -/
def Obligations.AluResultAndFrame : Prop :=
  (∀ (i : Instr) (f : Alu) (rd ra : GReg) (op : Opnd) (sf wf : Bool) (s : State),
     aluForm i = some (f, rd, ra, op, sf, wf) → Ready i s →
     let b := curBank s
     let x := rg b ra
     let y := opndVal b op
     ∃ b', exec i s = .next (after s b') ∧ scalarOnly b b' ∧ b'.g[rd] = aluValue f wf x y ∧ keepsG b b' [rd] ∧
       b'.pc = b.pc + 4 ∧ (sf = true → flagsOf f wf x y b.fl b'.fl) ∧ (sf = false → b'.fl = b.fl)) ∧
  (∀ (ra : GReg) (op : Opnd) (sf wf : Bool) (s : State), Ready (.cmp ra op sf wf) s →
     let b := curBank s
     ∃ b', exec (.cmp ra op sf wf) s = .next (after s b') ∧ b' = { b with fl := b'.fl, pc := b.pc + 4, dirty := b'.dirty } ∧
       flagsOf .cmp wf (rg b ra) (opndVal b op) b.fl b'.fl) ∧
  ((∀ (rd ra : GReg) (sf wf : Bool) (s : State), Ready (.clz rd ra sf wf) s →
     let b := curBank s
     ∃ b', exec (.clz rd ra sf wf) s = .next (after s b') ∧ scalarOnly b b' ∧ b'.g[rd] = aluValue .clz wf (rg b ra) 0 ∧
       keepsG b b' [rd] ∧ b'.pc = b.pc + 4 ∧ (sf = true → flagsOf .clz wf (rg b ra) 0 b.fl b'.fl) ∧ (sf = false → b'.fl = b.fl)) ∧
   (∀ (rd ra : GReg) (sf wf : Bool) (s : State), Ready (.popc rd ra sf wf) s →
     let b := curBank s
     ∃ b', exec (.popc rd ra sf wf) s = .next (after s b') ∧ scalarOnly b b' ∧ b'.g[rd] = aluValue .popc wf (rg b ra) 0 ∧
       keepsG b b' [rd] ∧ b'.pc = b.pc + 4 ∧ (sf = true → flagsOf .popc wf (rg b ra) 0 b.fl b'.fl) ∧ (sf = false → b'.fl = b.fl)) ∧
   (∀ (rd : GReg) (lane : BitVec 2) (imm : BitVec 16) (s : State), Ready (.imz rd lane imm) s →
     let b := curBank s
     ∃ b', exec (.imz rd lane imm) s = .next (after s b') ∧ scalarOnly b b' ∧ b'.g[rd] = imm.setWidth 64 <<< (16 * lane.toNat) ∧
       keepsG b b' [rd] ∧ b'.pc = b.pc + 4 ∧ b'.fl = b.fl) ∧
   (∀ (rd : GReg) (lane : BitVec 2) (imm : BitVec 16) (s : State), Ready (.imi rd lane imm) s →
     let b := curBank s
     ∃ b', exec (.imi rd lane imm) s = .next (after s b') ∧ scalarOnly b b' ∧
       (∀ j, j < 64 → bit b'.g[rd] j = if j / 16 = lane.toNat then bit imm (j % 16) else bit (rg b rd) j) ∧
       keepsG b b' [rd] ∧ b'.pc = b.pc + 4 ∧ b'.fl = b.fl))

/-- R43, R203: a division retires with its flags as it issues to the divider and leaves rd on its way; LONG_OP_RESULT then writes the quotient or the
remainder, and nothing else of the machine. A second division waits for the divider. R203: the unit's broadcast writes the destination of the long
operation and ends its wait; without one on its way nothing happens. -/
def Obligations.DivisionsAndLongResults : Prop :=
  (∀ (i : Instr) (f : Alu) (rd ra rb : GReg) (sf wf : Bool) (s : State), divForm i = some (f, rd, ra, rb, sf, wf) → Ready i s →
     let b := curBank s
     let q := aluValue f wf (rg b ra) (rg b rb)
     (divBusy b = false →
       ∃ b', exec i s = .next (after s b') ∧ scalarOnly b b' ∧ b'.g = b.g ∧ b'.pc = b.pc + 4 ∧ b'.longs = b.longs ++ [.g rd q] ∧
         (sf = true → flagsOf f wf (rg b ra) (rg b rb) b.fl b'.fl) ∧ (sf = false → b'.fl = b.fl)) ∧
     (divBusy b = true → exec i s = .next { s with stall := some i })) ∧
  (∀ (k : BankNum) (s : State), Live s →
     (∀ (rd : GReg) (x : W64), s.banks[k].longs.find? (longFor (.g rd)) = some (.g rd x) →
       exec (.longOpResult k (.g rd)) s =
         .next (setBank s k { s.banks[k] with g := s.banks[k].g.set rd.val x rd.isLt, longs := s.banks[k].longs.erase (.g rd x) })) ∧
     (∀ (vd : VReg) (x : VWord), s.banks[k].longs.find? (longFor (.v vd)) = some (.v vd x) →
       exec (.longOpResult k (.v vd)) s =
         .next (setBank s k { s.banks[k] with v := s.banks[k].v.set vd.val x vd.isLt, longs := s.banks[k].longs.erase (.v vd x) })) ∧
     (∀ d, s.banks[k].longs.find? (longFor d) = none → exec (.longOpResult k d) s = .next s))

/-- R43: what the long operation leaves on its way is all ones after DIV and DIVU by zero and ra after REM and REMU by zero; the most negative value
divided by -1 is itself, with the remainder 0. -/
def Obligations.DivisionCorners : Prop :=
  (∀ x : W64, aluResult .div 64 x.toNat 0 = 2 ^ 64 - 1 ∧ aluResult .divu 64 x.toNat 0 = 2 ^ 64 - 1 ∧
    aluResult .rem 64 x.toNat 0 = x.toNat ∧ aluResult .remu 64 x.toNat 0 = x.toNat) ∧
  (∀ x : W32, aluResult .div 32 x.toNat 0 = 2 ^ 32 - 1 ∧ aluResult .divu 32 x.toNat 0 = 2 ^ 32 - 1 ∧
    aluResult .rem 32 x.toNat 0 = x.toNat ∧ aluResult .remu 32 x.toNat 0 = x.toNat) ∧
  aluResult .div 64 (2 ^ 63) (2 ^ 64 - 1) = 2 ^ 63 ∧ aluResult .rem 64 (2 ^ 63) (2 ^ 64 - 1) = 0 ∧
  aluResult .div 32 (2 ^ 31) (2 ^ 32 - 1) = 2 ^ 31 ∧ aluResult .rem 32 (2 ^ 31) (2 ^ 32 - 1) = 0

/-- R42, R45, R46, R57: a load whose address translates and that nothing holds back writes rd with the loaded bytes, zero- or sign-extended, updates
the base register in the post-increment and pre-decrement modes, and changes no other register; a load that moves no prefetched line leaves every byte
of memory as its translation left it. LDA does the same at ga alone, naturally aligned. What the translation meets is raised with no register written.
R47, R59, R240, R245: translating the parts of an access changes the caches, the translation caches and (by the A and D bits it sets) memory, and
besides what a record of an error posts no register of any bank, of the core or of a unit. -/
def Obligations.LoadsWriteTheirRegister : Prop :=
  ((∀ (rd : GReg) (a : SAddr) (sz : BitVec 3) (s s1 : State) (l : List Phys), Ready (.load rd a sz) s →
     let b := curBank s
     let n := sizeBytes sz
     let va := saddr b n a
     prepare .core .load b va n (piecesOf va n) s = (s1, .inr l) → loadFree s1 n false l →
     ∃ b' s2, exec (.load rd a sz) s = .next (after s2 b') ∧ accessOnly s s2 ∧ s2.ca.sb = s.ca.sb ∧ scalarOnly b b' ∧
       b'.g[rd] = loadValue sz (readPhys .core s1 l) ∧ (∀ ga, a = .post ga → b'.g[ga] = rg b ga + BitVec.ofNat 64 n) ∧
       (∀ ga, a = .pre ga → b'.g[ga] = rg b ga - BitVec.ofNat 64 n) ∧ keepsG b b' (rd :: baseRegs a) ∧ b'.fl = b.fl ∧ b'.pc = b.pc + 4 ∧
       (nothingPrefetched s1 l → ∀ pa, cohByte s2 pa = cohByte s1 pa)) ∧
   (∀ (rd ga : GReg) (sz : BitVec 3) (s s1 : State) (l : List Phys), Ready (.lda rd ga sz) s →
     let b := curBank s
     let n := sizeBytes sz
     let va := rg b ga
     va.toNat % n = 0 → prepare .core .load b va n (piecesOf va n) s = (s1, .inr l) → loadFree s1 n true l →
     ∃ b' s2, exec (.lda rd ga sz) s = .next (after s2 b') ∧ accessOnly s s2 ∧ s2.ca.sb = s.ca.sb ∧ scalarOnly b b' ∧
       b'.g[rd] = loadValue sz (readPhys .core s1 l) ∧ keepsG b b' [rd] ∧ b'.fl = b.fl ∧ b'.pc = b.pc + 4 ∧
       (nothingPrefetched s1 l → ∀ pa, cohByte s2 pa = cohByte s1 pa)) ∧
   (∀ (i : Instr) (va : W64) (n : Nat) (s s1 : State) (e : Exc), Ready i s →
     (∃ rd a sz, i = .load rd a sz ∧ n = sizeBytes sz ∧ va = saddr (curBank s) n a) ∨
       (∃ rd ga sz, i = .lda rd ga sz ∧ n = sizeBytes sz ∧ va = rg (curBank s) ga ∧ va.toNat % n = 0) →
     prepare .core .load (curBank s) va n (piecesOf va n) s = (s1, .inl e) →
     exec i s = .next (if e.code = waitCode then { setCur s1 (curBank s) with stall := some i } else raise e (setCur s1 (curBank s))))) ∧
  (∀ (k : Who) (ak : Ak) (b : Bank) (va : W64) (n : Nat) (ps : List Piece) (s : State), accessOnly s (prepare k ak b va n ps s).1)

/-- R42, R45, R46, R57, R208, R225: outside ruled mode a store puts each part of its bytes into the store buffer as it retires and updates its base
register; no byte of memory that another agent reads changes yet, and no other register. STL does the same at ga alone, once every earlier store is
visible, and waits until then. In ruled mode the bytes are performed at once. A device store to the management alias raises the bus error 0x1 and
writes nothing (R272, R420; that such a store is precise is the model's reading, log 43). R205, R225, R353: the head of the store buffer that nothing
holds is performed (the two entries of a split store together), past the caches where its memory type is not cacheable: its bytes are read back, every
byte outside them is as it was, the entries behind it stay in order, and no register but those that a record writes changes. A missing cacheable line
takes the free miss register instead, and waits where it is not free (R217); an empty buffer is left as it is. A write that reaches the alias from the
buffer changes no memory and makes vector 0x28 or 0x20 pending (R272, R420). -/
def Obligations.StoresAndTheStoreBuffer : Prop :=
  ((∀ (rs : GReg) (a : SAddr) (sz : BitVec 3) (s s1 : State) (l : List Phys), Ready (.store rs a sz) s →
     let b := curBank s
     let n := sizeBytes sz
     let va := saddr b n a
     prepare .core .store b va n (piecesOf va n) s = (s1, .inr l) → storeFree s1 l →
     ∃ b', exec (.store rs a sz) s =
         .next (after (buffered s1 (modeOf l) false ((toBytes n (rg b rs)).map some) l) b') ∧
       scalarOnly b b' ∧ (∀ ga, a = .post ga → b'.g[ga] = rg b ga + BitVec.ofNat 64 n) ∧
       (∀ ga, a = .pre ga → b'.g[ga] = rg b ga - BitVec.ofNat 64 n) ∧ keepsG b b' (baseRegs a) ∧ b'.fl = b.fl ∧ b'.pc = b.pc + 4) ∧
   (∀ (rs ga : GReg) (sz : BitVec 3) (s s1 : State) (l : List Phys), Ready (.stl rs ga sz) s →
     let b := curBank s
     let n := sizeBytes sz
     let va := rg b ga
     va.toNat % n = 0 → storesVisible s = true → prepare .core .store b va n (piecesOf va n) s = (s1, .inr l) → storeFree s1 l →
     exec (.stl rs ga sz) s =
       .next (after (buffered s1 (modeOf l) true ((toBytes n (rg b rs)).map some) l) { b with pc := b.pc + 4 })) ∧
   (∀ (rs : GReg) (a : SAddr) (sz : BitVec 3) (s s1 : State) (l : List Phys) (p : Phys), Ready (.store rs a sz) s →
     let b := curBank s
     let n := sizeBytes sz
     let va := saddr b n a
     prepare .core .store b va n (piecesOf va n) s = (s1, .inr l) → zeroingWaits s1 l = false → refusedPart s1 l = some p →
     exec (.store rs a sz) s = .next (raise (aliasError p) (setCur (aliasRefused s1 p.pa) b))) ∧
   (∀ (rs : GReg) (a : SAddr) (sz : BitVec 3) (s s1 : State) (l : List Phys), Ready (.store rs a sz) s →
     let b := curBank s
     let n := sizeBytes sz
     let va := saddr b n a
     prepare .core .store b va n (piecesOf va n) s = (s1, .inr l) → storeRuled s1 l →
     ∃ b' t, exec (.store rs a sz) s = .next (after t b') ∧ t = performed s1 ((toBytes n (rg b rs)).map some) l ∧ accessOnly s t ∧ scalarOnly b b' ∧
       (∀ ga, a = .post ga → b'.g[ga] = rg b ga + BitVec.ofNat 64 n) ∧
       (∀ ga, a = .pre ga → b'.g[ga] = rg b ga - BitVec.ofNat 64 n) ∧ keepsG b b' (baseRegs a) ∧ b'.fl = b.fl ∧ b'.pc = b.pc + 4) ∧
   (∀ (rs ga : GReg) (sz : BitVec 3) (s : State), Ready (.stl rs ga sz) s →
     let b := curBank s
     let n := sizeBytes sz
     let va := rg b ga
     va.toNat % n = 0 →
     (storesVisible s = false → exec (.stl rs ga sz) s = .next { awaitStores s with stall := some (.stl rs ga sz) }) ∧
     (∀ (s1 : State) (l : List Phys), storesVisible s = true → prepare .core .store b va n (piecesOf va n) s = (s1, .inr l) → storeRuled s1 l →
       exec (.stl rs ga sz) s = .next (after (performed s1 ((toBytes n (rg b rs)).map some) l) { b with pc := b.pc + 4 }))) ∧
   (∀ (i : Instr) (va : W64) (n : Nat) (s s1 : State) (e : Exc), Ready i s →
     (∃ rs a sz, i = .store rs a sz ∧ n = sizeBytes sz ∧ va = saddr (curBank s) n a) ∨
       (∃ rs ga sz, i = .stl rs ga sz ∧ n = sizeBytes sz ∧ va = rg (curBank s) ga ∧ va.toNat % n = 0 ∧ storesVisible s = true) →
     prepare .core .store (curBank s) va n (piecesOf va n) s = (s1, .inl e) →
     exec i s = .next (if e.code = waitCode then { setCur s1 (curBank s) with stall := some i } else raise e (setCur s1 (curBank s))))) ∧
  (∀ s : State, Live s →
     (s.ca.sb = [] → exec .storeBufferDrain s = .next s) ∧
     (∀ (e : SbEntry) (rest : List SbEntry), s.ca.sb = e :: rest → headHold s = .free → (∀ x ∈ s.ca.sb.take (if e.pair = true then 2 else 1), inAlias s x.pa.toNat = false) →
       ∃ t, exec .storeBufferDrain s = .next t ∧ t.ca.sb = (if e.pair = true then rest.tail else rest) ∧ accessOnly s t) ∧
     (∀ (e : SbEntry) (rest : List SbEntry), s.ca.sb = e :: rest → e.pair = false → headHold s = .free → inAlias s e.pa.toNat = true →
       ∃ t, exec .storeBufferDrain s = .next t ∧ t.ca.sb = rest ∧ t.mem = s.mem ∧ t.vellum = s.vellum ∧ t.banks = s.banks ∧
         (isPending t 0x28 || isPending t 0x20) = true) ∧
     (∀ (e : SbEntry) (x : Byte) (rest : List SbEntry), StoresCanonical s → s.ca.sb = e :: rest → e.bytes = [some x] → e.pair = false →
       e.ty ≠ .cacheable → s.c.ruledAct = false → s.mir.en = false → heldGranules s e.pa.toNat 1 = [] → inAlias s e.pa.toNat = false →
       bit s.c.errinj 12 = false →
       ∃ t, exec .storeBufferDrain s = .next t ∧ t.ca.sb = rest ∧ rawByte t e.pa.toNat = x ∧
         ∀ q, q ≠ e.pa.toNat → rawByte t q = rawByte s q) ∧
     (∀ (e : SbEntry) (rest : List SbEntry) (la : BitVec 50) (set : BitVec 7), s.ca.sb = e :: rest → headHold s = .line la set →
       exec .storeBufferDrain s = .next (if s.ca.miss = none then { s with ca := { s.ca with miss := some (la, set, true) } } else s)) ∧
     (∀ (e : SbEntry) (rest : List SbEntry) (gs : List Nat), s.ca.sb = e :: rest → headHold s = .granules gs →
       exec .storeBufferDrain s = .next (askGranules s gs)))

/-- R58, R33: CAS returns the old value in rd, sets Z to whether it equals rc and keeps the other flags, and writes rb only then; AADD returns the old
value and writes the sum. On the management alias both raise the bus error 0x1 with its record, and nothing is read or written (R420, R272). -/
def Obligations.AtomicsReadModifyWrite : Prop :=
  (∀ (rd ga rb rc : GReg) (d a l : Bool) (s s1 : State) (p : Phys), Ready (.cas rd ga rb rc d a l) s →
    let b := curBank s
    let n := atomSize d
    let va := rg b ga
    va.toNat % n = 0 → prepare .core .atomic b va n (piecesOf va n) s = (s1, .inr [p]) → atomFree s1 p n a l → inAlias s1 p.pa = false →
    let old := atomOld s1 p n
    let eq := decide (bytesNat old = (rg b rc).toNat % 2 ^ (8 * n))
    ∃ b', exec (.cas rd ga rb rc d a l) s =
        .next (after (if eq = true then ownWrite (atomReady .core s1 p) .core p.ty p.pa (toBytes n (rg b rb)) else atomReady .core s1 p) b') ∧
      scalarOnly b b' ∧ b'.g[rd] = ofBytes 64 old ∧ keepsG b b' [rd] ∧ bit b'.fl 2 = eq ∧ (∀ i, i ≠ 2 → bit b'.fl i = bit b.fl i) ∧
      b'.pc = b.pc + 4) ∧
  (∀ (rd ga rb rc : GReg) (d a l : Bool) (s s1 : State) (p : Phys), Ready (.aadd rd ga rb rc d a l) s →
    let b := curBank s
    let n := atomSize d
    let va := rg b ga
    va.toNat % n = 0 → prepare .core .atomic b va n (piecesOf va n) s = (s1, .inr [p]) → atomFree s1 p n a l → inAlias s1 p.pa = false →
    let old := atomOld s1 p n
    ∃ b', exec (.aadd rd ga rb rc d a l) s =
        .next (after (ownWrite (atomReady .core s1 p) .core p.ty p.pa (toBytes n (BitVec.ofNat 64 (bytesNat old) + rg b rb))) b') ∧
      scalarOnly b b' ∧ b'.g[rd] = ofBytes 64 old ∧ keepsG b b' [rd] ∧ b'.fl = b.fl ∧ b'.pc = b.pc + 4) ∧
  (∀ (rd ga rb rc : GReg) (d a l : Bool) (s s1 : State) (p : Phys),
    let b := curBank s
    let n := atomSize d
    let va := rg b ga
    va.toNat % n = 0 → prepare .core .atomic b va n (piecesOf va n) s = (s1, .inr [p]) → atomFree s1 p n a l → inAlias s1 p.pa = true →
    (Ready (.cas rd ga rb rc d a l) s → exec (.cas rd ga rb rc d a l) s = .next (raise (aliasError p) (setCur (aliasRefused s1 p.pa) b))) ∧
    (Ready (.aadd rd ga rb rc d a l) s → exec (.aadd rd ga rb rc d a l) s = .next (raise (aliasError p) (setCur (aliasRefused s1 p.pa) b))))

/-- R47: LDA, STL, CAS and AADD at an address that is not naturally aligned raise data-alignment before any translation. -/
def Obligations.MisalignedOrderedAccessTraps : Prop :=
  ∀ s : State, let b := curBank s
    (∀ (rd ga : GReg) (sz : BitVec 3), Ready (.lda rd ga sz) s → (rg b ga).toNat % sizeBytes sz ≠ 0 →
      exec (.lda rd ga sz) s = .next (raise { code := 0x04, acc := .read, addr := rg b ga } s)) ∧
    (∀ (rs ga : GReg) (sz : BitVec 3), Ready (.stl rs ga sz) s → (rg b ga).toNat % sizeBytes sz ≠ 0 →
      exec (.stl rs ga sz) s = .next (raise { code := 0x04, acc := .write, addr := rg b ga } s)) ∧
    (∀ (rd ga rb rc : GReg) (d a l : Bool), Ready (.cas rd ga rb rc d a l) s → (rg b ga).toNat % (if d then 8 else 4) ≠ 0 →
      exec (.cas rd ga rb rc d a l) s = .next (raise { code := 0x04, acc := .write, addr := rg b ga } s)) ∧
    (∀ (rd ga rb rc : GReg) (d a l : Bool), Ready (.aadd rd ga rb rc d a l) s → (rg b ga).toNat % (if d then 8 else 4) ≠ 0 →
      exec (.aadd rd ga rb rc d a l) s = .next (raise { code := 0x04, acc := .write, addr := rg b ga } s))

/-- R48 to R50, R281: REP performs its governed access once for each command that runs it and takes 1 from gc: with elements left it stays at the ROB
head with the pc at the prefix, so that an interrupt may come before the next element, and after the last one, or with gc = 0, it retires. A single
step of the debug module ends after each element (R440). Where an element faults, the exception is taken with gc at the number of elements not yet
performed and the pc at the prefix. REPN performs its n elements in one command. -/
def Obligations.RepeatsPerformTheirElements : Prop :=
  (∀ (gc : GReg) (g : Governed) (s : State), let b := curBank s
    let b4 : Bank := { b with pc := b.pc + 8 }
    Ready (.rep gc g) s → (governsVec g = true → domUse s dVec = .ready) →
    (rg b gc = 0 → exec (.rep gc g) s = .next (after s b4)) ∧
    (∀ (b1 : Bank) (s1 : State), rg b gc ≠ 0 → governedOnce .core g b s = .ok b1 s1 →
      ∃ b2, b2 = wg b1 gc (rg b gc - 1) ∧ b2.g[gc] = b.g[gc] - 1 ∧ b2.fl = b.fl ∧ b2.pc = b.pc ∧
      (rg b gc = 1 → exec (.rep gc g) s = .next (after s1 { b2 with pc := b.pc + 8 })) ∧
      (rg b gc ≠ 1 → s1.dbg.stepping = false → ∃ t, exec (.rep gc g) s = .next t ∧ t.stall = some (.rep gc g) ∧ curBank t = b2 ∧
        t = { setCur s1 b2 with stall := t.stall, c := { s1.c with fresh := none, dfOpen := false, entry := none } }) ∧
      (rg b gc ≠ 1 → s1.dbg.stepping = true → exec (.rep gc g) s = .next (after s1 b2))) ∧
    (∀ (e : Exc) (bx : Bank) (s1 : State), rg b gc ≠ 0 → governedOnce .core g b s = .exc e bx s1 → e.code ≠ waitCode →
      exec (.rep gc g) s = .next (raise e (setCur s1 b)))) ∧
  (∀ (n : BitVec 6) (g : Governed) (s s1 s' : State) (b' : Bank), Ready (.repn n g) s →
    repnCheck .core (match g with | .mu true _ _ _ _ => .load | .mu false _ _ _ _ => .store | _ => .load) (curBank s)
      (repnPieces (curBank s) (n.toNat + 1) g) s = (s1, none) →
    elementsDone g (n.toNat + 1) (curBank s) s1 = some (b', s') →
    exec (.repn n g) s = .next (after s' { b' with pc := (curBank s).pc + 8 }) ∧ b'.fl = (curBank s).fl)

/-- R60, R61, R249: a FENCE retires once what its classes issued before it has been performed and is visible (scalar: the store buffer is empty and
its writes are visible; tile: no operation of a tile, of the board or of the inkwell is incomplete; stream: no SMOVE is left and the writes of the
units are visible; scribe: no published descriptor and no refused one's record is left), and FENCE all also once no broadcast TLBI is outstanding. It
changes only the pc; FENCE all also discards what was fetched ahead. Until then it waits at the ROB head and asks the fabric for confirmations.
FENCE_RETIRE runs the FENCE that waits once more, to the same end. R248, R249: from ring 0 or 1, with every earlier store visible, a TLBI removes
exactly the entries that it names from every translation cache, restarts the walks, and retires; with LOCAL = 0 it also sends one broadcast, for which
it waits while eight are outstanding or port 0 has no credit. With a store not yet visible it waits at the ROB head. -/
def Obligations.FencesAndInvalidations : Prop :=
  (∀ (mask : BitVec 4) (i : Instr) (s : State), Ready (.fence mask) s → (i = .fence mask ∨ i = .fenceRetire ∧ s.stall = some (.fence mask)) →
     let done : Prop := (bit mask 0 = true → s.ca.sb = [] ∧ s.ca.sbLast = none ∧ seenByAll .core s) ∧
       (bit mask 1 = true → ∀ o ∈ s.ops, tileClass o = true → o.done = true ∨ o.abandoned = true) ∧
       (bit mask 2 = true → (∀ o ∈ s.ops, o.kind ≠ .smove) ∧ seenByAll .unit s) ∧
       (bit mask 3 = true → scribeWork s = false ∧ seenByAll .scribe s) ∧ (mask = 0xF → s.tlbiOut = 0)
     (done → exec i s = .next (after { s with ca := { s.ca with lineBuf := if mask = 0xF then none else s.ca.lineBuf } }
       { curBank s with pc := (curBank s).pc + 4 })) ∧
     (¬ done → ∃ t, exec i s = .next t ∧ t = { s with stall := some (.fence mask), port := t.port })) ∧
  (∀ (i : Instr) (f : TlbiForm) (loc : Bool) (s : State), Ready i s → tlbiOf (curBank s) i = some (f, loc) → (ringOf (curBank s)).toNat ≤ 1 →
     (storesVisible s = true →
       (loc = true → ∃ t, exec i s = .next (after t { curBank s with pc := (curBank s).pc + 4 }) ∧ tlbiDone f s t ∧ t = { s with ca := t.ca }) ∧
       (loc = false → s.tlbiOut < 8 → s.port[0].up = true → s.port[0].credits ≠ 0 →
         ∃ t, exec i s = .next (after t { curBank s with pc := (curBank s).pc + 4 }) ∧ tlbiDone f s t ∧
           t = { s with ca := t.ca, tlbiOut := s.tlbiOut + 1, port := s.port.set 0 { s.port[0] with
             credits := s.port[0].credits - 1, oreq := some (oreqMsg s 0x08 (some (tlbiData f))) } }) ∧
       (loc = false → 8 ≤ s.tlbiOut ∨ s.port[0].up = false ∨ s.port[0].credits = 0 → exec i s = .next { s with stall := some i })) ∧
     (storesVisible s = false → ∃ t, exec i s = .next t ∧ t = { s with stall := some i, port := t.port }))

/-- R257, R248: SYSR, RETX, SSPUSH, WAITI and TLBI from ring 2 or 3, and RETX.C from any ring but 0, raise privileged-register with XADDR 0 and change
nothing else. -/
def Obligations.PrivilegedInstructionsTrap : Prop :=
  ∀ (i : Instr) (n : Nat) (s : State), Ready i s → ringLimit i = some n → n ≤ (ringOf (curBank s)).toNat →
    exec i s = .next (raise { code := 0x02 } s)

/-- R44, R33: after CMP ra, op the condition suffixes name the signed and unsigned relations of ra to op. R44: B and a taken B.cond go to the address
of the branch plus four times the signed offset, an untaken one to the next instruction, BR to its register's value; a branch changes nothing but the
pc, and BR to an unaligned address raises instruction-alignment with that address. -/
def Obligations.ConditionsAndBranches : Prop :=
  (∀ (x y fl fl' : W64), flagsOf .cmp false x y fl fl' →
     condHolds fl' 0 = (x == y) ∧ condHolds fl' 1 = !(x == y) ∧ condHolds fl' 2 = x.slt y ∧ condHolds fl' 3 = y.sle x ∧
     condHolds fl' 4 = x.sle y ∧ condHolds fl' 5 = y.slt x ∧ condHolds fl' 6 = x.ult y ∧ condHolds fl' 7 = y.ule x ∧
     condHolds fl' 8 = x.ule y ∧ condHolds fl' 9 = y.ult x) ∧
  ((∀ (off : BitVec 26) (s : State), Ready (.b off) s →
     exec (.b off) s = .next (after s { curBank s with pc := (curBank s).pc + 4 * off.signExtend 64 })) ∧
   (∀ (cond : BitVec 4) (off : BitVec 22) (s : State), Ready (.bCond cond off) s →
     exec (.bCond cond off) s = .next (after s { curBank s with
       pc := if condHolds (curBank s).fl cond = true then (curBank s).pc + 4 * off.signExtend 64 else (curBank s).pc + 4 })) ∧
   (∀ (ra : GReg) (s : State), Ready (.br ra) s → (rg (curBank s) ra).toNat % 4 = 0 →
     exec (.br ra) s = .next (after s { curBank s with pc := rg (curBank s) ra })) ∧
   (∀ (ra : GReg) (s : State), Ready (.br ra) s → (rg (curBank s) ra).toNat % 4 ≠ 0 →
     exec (.br ra) s = .next (raise { code := 0x03, addr := rg (curBank s) ra } s)))

/-- R51: CALL and CALLR push the address behind the call onto both stacks (into the store buffer, outside ruled mode) and branch; RET pops both and
goes to the address on which they agree. g31 and SSP move by 8, nothing else changes. -/
def Obligations.CallsAndReturnsUseBothStacks : Prop :=
  (∀ (off : BitVec 26) (s s1 : State) (l : List Phys), Ready (.call off) s →
    let b := curBank s
    stackPair .core .store .shadowW b (rg b 31 - 8) (b.ssp - 8) s = (s1, .inr l) → storeFree s1 l →
    ∃ b', exec (.call off) s =
        .next (after (buffered s1 .single false ((toBytes 8 (b.pc + 4) ++ toBytes 8 (b.pc + 4)).map some) l) b') ∧
      calledTo b b' (b.pc + 4 * off.signExtend 64)) ∧
  (∀ (ra : GReg) (s s1 : State) (l : List Phys), Ready (.callr ra) s →
    let b := curBank s
    (rg b ra).toNat % 4 = 0 → stackPair .core .store .shadowW b (rg b 31 - 8) (b.ssp - 8) s = (s1, .inr l) → storeFree s1 l →
    ∃ b', exec (.callr ra) s =
        .next (after (buffered s1 .single false ((toBytes 8 (b.pc + 4) ++ toBytes 8 (b.pc + 4)).map some) l) b') ∧
      calledTo b b' (rg b ra)) ∧
  (∀ (s s1 : State) (l : List Phys), Ready .ret s →
    let b := curBank s
    let bs := readPhys .core s1 l
    let a := ofBytes 64 (bs.take 8)
    stackPair .core .load .shadowR b (rg b 31) b.ssp s = (s1, .inr l) → loadFree s1 8 false l →
    (a = ofBytes 64 (bs.drop 8) → a.toNat % 4 = 0 →
      ∃ b' s2, exec .ret s = .next (after s2 b') ∧ accessOnly s s2 ∧
        b' = { b with g := b'.g, ssp := (b.ssp + 8) &&& ~~~ 7, pc := a, dirty := b'.dirty, longs := b'.longs } ∧
        b'.g[31] = b.g[31] + 8 ∧ keepsG b b' [31]) ∧
    (a ≠ ofBytes 64 (bs.drop 8) → ∃ s2, exec .ret s = .next (raise { code := 0x0A, addr := a } s2) ∧ accessOnly s s2) ∧
    (a = ofBytes 64 (bs.drop 8) → a.toNat % 4 ≠ 0 →
      ∃ s2, exec .ret s = .next (raise { code := 0x03, addr := a } s2) ∧ accessOnly s s2))

/-- R263, R262: SYSC saves the pc behind it and FL, keeps the caller's stack pointer in g30, takes the stack top of its bank, and enters ring 1 at
SYSENTRY with interrupts off; SSP and memory are unchanged. In ring 0 it is undefined. R264, R275, R276, R277: SYSR, RETX and RETX.C return to the
saved pc with the saved FL where its ring is not the lower one, RETX with IPL := PIPL and the hold window closed, RETX.C with CXCAUSE.ACT := 0; a
saved ring below the current one raises privilege-return fault. -/
def Obligations.SystemCallsAndReturns : Prop :=
  (∀ s : State, Ready .sysc s →
     let b := curBank s
     (ringOf b ≠ 0 → ∃ b', exec .sysc s = .next (after s b') ∧
       b' = { b with g := b'.g, fl := b'.fl, pc := s.c.sysentry &&& ~~~ 3, sysrpc := b.pc + 4, sysrfl := b.fl, dirty := b'.dirty, longs := b'.longs } ∧
       b'.g[30] = b.g[31] ∧ keepsG b b' [30, 31] ∧ flWith b.fl b'.fl 1 false ∧
       (fieldN s.c.sysstack 4 0 = 0 → b'.g[31] = s.c.sysstack &&& ~~~ 0x1F) ∧
       (fieldN s.c.sysstack 4 0 ≠ 0 →
         b'.g[31] = (s.c.sysstack &&& ~~~ 0x1F) - BitVec.ofNat 64 (s.c.cur.val * 2 ^ fieldN s.c.sysstack 4 0))) ∧
     (ringOf b = 0 → exec .sysc s = .next (raise (undefExc .sysc) s))) ∧
  (∀ s : State, let b := curBank s
     (Ready .sysr s → (ringOf b).toNat ≤ 1 →
       ((ringOf b).toNat ≤ (flRing b.sysrfl).toNat → ∃ b', exec .sysr s = .next (after s b') ∧
         b' = { b with g := b'.g, fl := b.sysrfl &&& 0x70F, pc := b.sysrpc &&& ~~~ 3, dirty := b'.dirty, longs := b'.longs } ∧
         b'.g[31] = b.g[30] ∧ keepsG b b' [31]) ∧
       ((flRing b.sysrfl).toNat < (ringOf b).toNat → exec .sysr s = .next (raise { code := 0x0B, sub := 3, addr := b.sysrfl } s))) ∧
     (Ready .retx s → (ringOf b).toNat ≤ 1 →
       ((ringOf b).toNat ≤ (flRing s.c.xfl).toNat → ∃ b', exec .retx s =
           .next (after { s with c := { s.c with ipl := BitVec.ofNat 4 (fieldN s.c.xcause 19 16), hold := false } } b') ∧
         b' = { b with fl := s.c.xfl &&& 0x70F, pc := s.c.xpc &&& ~~~ 3, dirty := b'.dirty }) ∧
       ((flRing s.c.xfl).toNat < (ringOf b).toNat → exec .retx s = .next (raise { code := 0x0B, sub := 1, addr := b.pc } s))) ∧
     (Ready .retxC s → ringOf b = 0 → ∃ b' k, exec .retxC s = .next (after { s with c := { s.c with cxcause := k } } b') ∧
         bit k 20 = false ∧ (∀ i, i ≠ 20 → bit k i = bit s.c.cxcause i) ∧
         b' = { b with fl := s.c.cxfl &&& 0x70F, pc := s.c.cxpc &&& ~~~ 3, dirty := b'.dirty }))

/-- R277, R266, R283: HOLDEND closes the hold window; SSPINC adds 8 times gb[15:0] to SSP; SSPUSH puts ga at SSP - 8 on the shadow stack and moves
SSP; WAITI retires once a vector is pending that would be taken with FL.IE = 1, and waits until then. Nothing else changes. -/
def Obligations.HoldShadowAndWaitInstructions : Prop :=
  (∀ s : State, Ready .holdend s →
    exec .holdend s = .next (after { s with c := { s.c with hold := false } } { curBank s with pc := (curBank s).pc + 4 })) ∧
  (∀ (gb : GReg) (s : State), Ready (.sspinc gb) s →
    let b := curBank s
    ∃ b', exec (.sspinc gb) s = .next (after s b') ∧
      b' = { b with ssp := (b.ssp + 8 * ((rg b gb).setWidth 16).setWidth 64) &&& ~~~ 7, pc := b.pc + 4, dirty := b'.dirty }) ∧
  (∀ (ga : GReg) (s s1 : State) (l : List Phys), Ready (.sspush ga) s →
    let b := curBank s
    (ringOf b).toNat ≤ 1 → xlateAll .core .shadowW b s [⟨b.ssp - 8, 0, 8⟩] = (s1, .inr l) → storeFree s1 l →
    ∃ b', exec (.sspush ga) s = .next (after (buffered s1 .single false ((toBytes 8 (rg b ga)).map some) l) b') ∧
      b' = { b with ssp := (b.ssp - 8) &&& ~~~ 7, pc := b.pc + 4, dirty := b'.dirty }) ∧
  (∀ s : State, Ready .waiti s → (ringOf (curBank s)).toNat ≤ 1 →
    (waitiEnds s = true → exec .waiti s = .next (after s { curBank s with pc := (curBank s).pc + 4 })) ∧
    (waitiEnds s = false → exec .waiti s = .next { s with stall := some .waiti }))

/-- R260, R261, R258, R259: CALLG pushes the pc behind it with FL onto the stack and the pc onto the shadow stack and enters its gate's target in the
gate's ring; RETG pops them, takes FL and the pc, and gives up no privilege it does not have. -/
def Obligations.GatesEnterAndReturn : Prop :=
  (∀ (gate : BitVec 12) (s s1 s2 : State) (l1 l2 : List Phys), Ready (.callg gate) s →
    let b := curBank s
    let a := fieldN s2.c.gatebase 55 12 * 4096 + 16 * gate.toNat
    let s3 := if inVellum s2 a || s2.c.ruledAct then s2 else fillL2 s2 (lineNo a) false
    let target := read64 s3 true a
    let d := read64 s3 true (a + 8)
    (rg b 31 - 16).toNat % 8 = 0 → prepare .core .store b (rg b 31 - 16) 8 (piecesOf (rg b 31 - 16) 16) s = (s1, .inr l1) →
    xlateAll .core .shadowW b s1 [⟨b.ssp - 8, 16, 8⟩] = (s2, .inr l2) → gateInRange s2 gate = true → readCheck s2 true a 16 = (s2, none) →
    gateFault b target d = none → storeFree s3 (l1 ++ l2) →
    ∃ b', exec (.callg gate) s = .next (after (buffered s3 .single false
          ((toBytes 8 (b.pc + 4) ++ toBytes 8 b.fl ++ toBytes 8 (b.pc + 4)).map some) (l1 ++ l2)) b') ∧
      b' = { b with g := b'.g, fl := b'.fl, ssp := (b.ssp - 8) &&& ~~~ 7, pc := target, dirty := b'.dirty, longs := b'.longs } ∧
      b'.g[31] = b.g[31] - 16 ∧ keepsG b b' [31] ∧ flWith b.fl b'.fl (BitVec.ofNat 2 (fieldN d 2 1)) (bit b.fl 10 && !bit d 5)) ∧
  (∀ (s s1 s2 : State) (l1 l2 : List Phys), Ready .retg s →
    let b := curBank s
    let bs := readPhys .core s2 (l1 ++ l2)
    let a := ofBytes 64 (bs.take 8)
    let f := ofBytes 64 ((bs.drop 8).take 8)
    (rg b 31).toNat % 8 = 0 → prepare .core .load b (rg b 31) 8 (piecesOf (rg b 31) 16) s = (s1, .inr l1) →
    xlateAll .core .shadowR b s1 [⟨b.ssp, 16, 8⟩] = (s2, .inr l2) → loadFree s2 8 false (l1 ++ l2) → a = ofBytes 64 (bs.drop 16) →
    ((ringOf b).toNat ≤ (flRing f).toNat → ∃ b' s3, exec .retg s = .next (after s3 b') ∧ accessOnly s s3 ∧
      b' = { b with g := b'.g, fl := f &&& 0x70F, ssp := (b.ssp + 8) &&& ~~~ 7, pc := a &&& ~~~ 3, dirty := b'.dirty, longs := b'.longs } ∧
      b'.g[31] = b.g[31] + 16 ∧ keepsG b b' [31]) ∧
    ((flRing f).toNat < (ringOf b).toNat → ∃ s3, exec .retg s = .next (raise { code := 0x0B, sub := 2, addr := f } s3) ∧ accessOnly s s3))

/-- R274, R269, R277: taking an exception saves pc, FL, cause and address, enters the ring min(e.RING, FL.RING), clears IE unless the entry opens a
hold window, and goes to the handler's address; no general register and no unit changes, the level of interrupts stays. R287, R288: a fault during an
entry saves the state of before that entry with CODE 0x11, the reason and the vector, exchanges g31 with DFSTACK (a long result for g31 comes first,
R203), and enters ring 0 with IE off at the handler of vector 0x11; where that entry fails as well a fatal record is posted and a warm reset asked
for. -/
def Obligations.ExceptionEntries : Prop :=
  (∀ (x : Exc) (s s1 : State) (e : W64), x.code ≠ 0x0B → vecRead s x.code = (s1, .good e) →
     let b := curBank s
     let t := raise x s
     t.c.xpc = b.pc ∧ t.c.xfl = b.fl ∧ t.c.xcause = causeWord x.code x.sub x.acc s.c.ipl ∧ t.c.xaddr = x.addr ∧ t.c.ipl = s.c.ipl ∧ t.stall = none ∧
     (curBank t).pc = sext64 57 (fieldN e 56 2 * 4) ∧
     (flRing (curBank t).fl).toNat = min (if bit e 57 = true then 1 else 0) (ringOf b).toNat ∧
     (bit e 0 = true ∧ fieldN s.c.holdmax 12 0 ≠ 0 → bit (curBank t).fl 10 = bit b.fl 10 ∧ t.c.hold = true) ∧
     (¬ (bit e 0 = true ∧ fieldN s.c.holdmax 12 0 ≠ 0) → bit (curBank t).fl 10 = false ∧ t.c.hold = s.c.hold) ∧
     curBank t = { b with fl := (curBank t).fl, pc := (curBank t).pc } ∧ (∀ k : BankNum, k ≠ s.c.cur → t.banks[k] = s.banks[k]) ∧
     t.c.cxpc = s.c.cxpc ∧ t.c.cxfl = s.c.cxfl ∧ t.c.cxcause = s.c.cxcause ∧ t.vellum = s.vellum ∧ t.ink = s.ink ∧ t.tiles = s.tiles) ∧
  (∀ (reason : BitVec 4) (vec : Byte) (pc fl : W64) (s : State),
     let t := doubleFaultAt s reason vec pc fl
     t.c.xpc = pc ∧ t.c.xfl = fl ∧ t.c.xcause = causeWord 0x11 reason .none s.c.ipl ∧ t.c.xaddr = vec.setWidth 64 ∧
     (curBank t).g[31] = s.c.dfstack ∧ t.c.dfstack = (awaitG (curBank s) 31).g[31] ∧
     ((∀ x, LongRes.g 31 x ∉ (curBank s).longs) → t.c.dfstack = (curBank s).g[31]) ∧ flWith fl (curBank t).fl 0 false ∧
     keepsG (curBank s) (curBank t) [31] ∧ t.c.cxcause = s.c.cxcause ∧ (t.win.wrst = true ∨ ∃ e : W64, (curBank t).pc = sext64 57 (fieldN e 56 2 * 4)))

/-- R37, R38, R272: MFC reads any assigned control register from a ring that may read it, and MTC writes any as the table of its number says (the
actions of BANKWIN and the changes of RULED.EN have rows of their own); a write of BANKDIRTY clears the bits written as 1; a less privileged ring gets
privileged-register with the number, an unassigned number is undefined, and a write of a register whose fields are all read-only has no effect. R268,
R270, R258, R262, R271, R277, R298, R301, R304: what a plain control register reads after a write: the written value in the fields that exist, 0
elsewhere; HOLDMAX.MAX at most 4,096; and the write changes no other plain register. -/
def Obligations.ControlRegisterAccess : Prop :=
  (∀ (r : GReg) (n : BitVec 12) (s : State), let b := curBank s
     (Ready (.mfc r n) s →
       (regRings s.var n.toNat = none → exec (.mfc r n) s = .next (raise (undefExc (.mfc r n)) s)) ∧
       (∀ rr wr, regRings s.var n.toNat = some (rr, wr) →
         (rr < (ringOf b).toNat → exec (.mfc r n) s = .next (raise { code := 0x02, addr := n.setWidth 64 } s)) ∧
         ((ringOf b).toNat ≤ rr → ∃ b', exec (.mfc r n) s = .next (after s b') ∧ scalarOnly b b' ∧ b'.g[r] = regRead n.toNat b s ∧
           keepsG b b' [r] ∧ b'.fl = b.fl ∧ b'.pc = b.pc + 4))) ∧
     (Ready (.mtc r n) s →
       (regRings s.var n.toNat = none → exec (.mtc r n) s = .next (raise (undefExc (.mtc r n)) s)) ∧
       (∀ rr, regRings s.var n.toNat = some (rr, none) →
         (rr < (ringOf b).toNat → exec (.mtc r n) s = .next (raise { code := 0x02, addr := n.setWidth 64 } s)) ∧
         ((ringOf b).toNat ≤ rr → exec (.mtc r n) s = .next (after s { b with pc := b.pc + 4 }))) ∧
       (∀ rr wr, regRings s.var n.toNat = some (rr, some wr) →
         (wr < (ringOf b).toNat → exec (.mtc r n) s = .next (raise { code := 0x02, addr := n.setWidth 64 } s)) ∧
         ((ringOf b).toNat ≤ wr →
           (bankedReg n.toNat = true → ∃ b', exec (.mtc r n) s = .next (after s { b' with pc := b.pc + 4 }) ∧
             b' = bankedWrite n.toNat (rg b r) (ringOf b) true b) ∧
           (bankedReg n.toNat = false → n ≠ 0x30 → n ≠ 0x32 → n ≠ 0x50 →
             let s1 := regPlain n.toNat (rg b r) s
             exec (.mtc r n) s = .next (after s1 { curBank s1 with pc := b.pc + 4 })) ∧
           (n = 0x30 → fieldN (rg b r) 4 2 = 0 →
             exec (.mtc r n) s = .next (after { s with c := { s.c with bankwin := Fin.ofNat 4 (fieldN (rg b r) 1 0) } } { b with pc := b.pc + 4 })) ∧
           (n = 0x32 → s.c.bankwin ≠ s.c.cur → let w := s.banks[s.c.bankwin]
             exec (.mtc r n) s = .next (after (setBank s s.c.bankwin { w with dirty := w.dirty &&& ~~~ (rg b r).setWidth 41 }) { b with pc := b.pc + 4 })) ∧
           (n = 0x32 → s.c.bankwin = s.c.cur →
             exec (.mtc r n) s = .next (after s { b with pc := b.pc + 4, dirty := b.dirty &&& ~~~ (rg b r).setWidth 41 })) ∧
           (n = 0x50 → bit (rg b r) 0 = s.c.ruledEn →
             exec (.mtc r n) s = .next (after { s with c := { s.c with ruledSched := bit (rg b r) 1 } } { b with pc := b.pc + 4 })))))) ∧
  (∀ (v : W64) (b : Bank) (s : State),
     (∀ n ∈ [0x11, 0x12, 0x14, 0x15, 0x1C, 0x1D, 0x1F, 0x36, 0x37], regRead n b (regPlain n v s) = v) ∧
     regRead 0x10 b (regPlain 0x10 v s) = v &&& 0x00FFFFFFFFFFF801 ∧ regRead 0x13 b (regPlain 0x13 v s) = v &&& 0xF3FFF ∧
     regRead 0x16 b (regPlain 0x16 v s) = v &&& ~~~ 3 ∧ regRead 0x1A b (regPlain 0x1A v s) = v &&& 0x80FFFFFFFFFFFFFF ∧
     regRead 0x33 b (regPlain 0x33 v s) = v &&& 0xFFF3FF7F ∧ regRead 0x34 b (regPlain 0x34 v s) = v &&& 0xFF ∧
     regRead 0x35 b (regPlain 0x35 v s) = v &&& ~~~ 3 ∧
     fieldN (regRead 0x1B b (regPlain 0x1B v s)) 12 0 = min 4096 (v.toNat % 8192) ∧
     (∀ n ∈ [0x10, 0x11, 0x12, 0x13, 0x14, 0x15, 0x16, 0x17, 0x1A, 0x1B, 0x1C, 0x1D, 0x1E, 0x1F, 0x33, 0x34, 0x35, 0x36, 0x37],
       ∀ m ∈ [0x10, 0x11, 0x12, 0x13, 0x14, 0x15, 0x16, 0x17, 0x1A, 0x1B, 0x1C, 0x1D, 0x1E, 0x1F, 0x33, 0x34, 0x35, 0x36, 0x37],
         n ≠ m → regRead m b (regPlain n v s) = regRead m b s))

/-- R295, R294: MFB and MTB from ring 0 or 1 read and write the general registers, the resume pc and the banked control registers of the window bank;
in the executing bank they act as moves, its resume pc being the address of the next instruction, which MTB cannot write. A bank that does not execute
never gets a ring more privileged than the writer's, and no other bank changes. MFB of a register waits for the window bank's long results. Any other
number is undefined, and rings 2 and 3 get privileged-register. -/
def Obligations.WindowBankAccess : Prop :=
  ∀ (r : GReg) (n : BitVec 12) (s : State), let b := curBank s
    let w := winBank b s
    let own := s.c.bankwin = s.c.cur
    let gee := 0xF00 ≤ n.toNat ∧ n.toNat < 0xF20
    (Ready (.mfb r n) s →
      ((ringOf b).toNat ≤ 1 → (∀ x, (bankedReg n.toNat = true ∧ x = bankedRead n.toNat w) ∨ (gee ∧ w.longs = [] ∧ x = w.g[Fin.ofNat 32 n.toNat]) ∨
          (n = 0xF20 ∧ w.longs = [] ∧ x = if own then b.pc + 4 else w.pc) →
        ∃ b', exec (.mfb r n) s = .next (after s b') ∧ scalarOnly b b' ∧ b'.g[r] = x ∧ keepsG b b' [r] ∧ b'.fl = b.fl ∧ b'.pc = b.pc + 4)) ∧
      ((ringOf b).toNat ≤ 1 → gee ∨ n = 0xF20 → w.longs ≠ [] → exec (.mfb r n) s = .next { s with stall := some (.mfb r n) }) ∧
      (2 ≤ (ringOf b).toNat → bankedReg n.toNat = true ∨ gee ∨ n = 0xF20 → exec (.mfb r n) s = .next (raise { code := 0x02 } s)) ∧
      (bankedReg n.toNat = false → n.toNat < 0xF00 ∨ 0xF20 < n.toNat → exec (.mfb r n) s = .next (raise (undefExc (.mfb r n)) s))) ∧
    (Ready (.mtb r n) s →
      ((ringOf b).toNat ≤ 1 → ¬ own → bankedReg n.toNat = true ∨ gee ∨ n = 0xF20 →
        ∃ w', exec (.mtb r n) s = .next (after (setBank s s.c.bankwin w') { b with pc := b.pc + 4 }) ∧
          (n = 1 → (flRing w'.fl).toNat = max (flRing (rg b r)).toNat (ringOf b).toNat ∧ ∀ i, i ≠ 8 → i ≠ 9 → bit w'.fl i = bit (rg b r &&& 0x70F) i) ∧
          (n = 2 → w'.vl = if 2048 < (rg b r).toNat then 2048 else rg b r) ∧ (n = 4 → w'.ssp = rg b r &&& ~~~ 7) ∧
          (n = 0xF20 → w'.pc = rg b r) ∧ (gee → w'.g[Fin.ofNat 32 n.toNat] = rg b r ∧ keepsG w w' [Fin.ofNat 32 n.toNat]) ∧
          (¬ gee → w'.g = w.g) ∧ (bankedReg n.toNat = true → w' = bankedWrite n.toNat (rg b r) (ringOf b) false w) ∧
          w'.v = w.v ∧ w'.m = w.m ∧ w'.st = w.st) ∧
      ((ringOf b).toNat ≤ 1 → own → bankedReg n.toNat = true ∨ gee →
        ∃ b', exec (.mtb r n) s = .next (after s b') ∧ b'.pc = b.pc + 4 ∧
          (gee → scalarOnly b b' ∧ b'.g[Fin.ofNat 32 n.toNat] = rg b r ∧ keepsG b b' [Fin.ofNat 32 n.toNat] ∧ b'.fl = b.fl) ∧
          (bankedReg n.toNat = true → b' = { bankedWrite n.toNat (rg b r) (ringOf b) true b with pc := b.pc + 4 })) ∧
      (2 ≤ (ringOf b).toNat → bankedReg n.toNat = true ∨ gee ∨ n = 0xF20 ∧ ¬ own → exec (.mtb r n) s = .next (raise { code := 0x02 } s)) ∧
      ((bankedReg n.toNat = false ∧ (n.toNat < 0xF00 ∨ 0xF20 < n.toNat)) ∨ (n = 0xF20 ∧ own) →
        exec (.mtb r n) s = .next (raise (undefExc (.mtb r n)) s)))

/-- R290, R296 to R300: SVM and LDM (Marsor-1024), SVH and LDH (elsewhere) from ring 0 or 1 at a 256-byte aligned area transfer the groups named, one
group for each command that runs the instruction, from SVMPROG.NEXT on where they were stopped: each group clears its dirty bit, with groups left the
instruction stays at the ROB head (a step of the debug module ends there, with SVMPROG holding the progress of SVM and LDM), and after the last one
SVMPROG.VALID is 0, the action of the mask is taken, and it retires. SVH first writes the half's number into its header, LDH first reads the headers.
It waits for VEC to wake and for the long results of the window bank. The undefined cases, rings 2 and 3 and a misaligned area trap in this order.
R296, R299: what a save writes for a group is what a load of those bytes gives back: general registers, vector and mask registers whole, and of the
control group the resume pc, SSP, the saved call state and the event bits. -/
def Obligations.BankSavesAndLoads : Prop :=
  (∀ (i : Instr) (load half : Bool) (ga : GReg) (s : State), saveForm i = some (load, ga, half) → Ready i s →
     let b := curBank s
     (saveUndef i load half b s = true → exec i s = .next (raise (undefExc i) s)) ∧
     (saveUndef i load half b s = false → 2 ≤ (ringOf b).toNat → exec i s = .next (raise { code := 0x02 } s)) ∧
     (saveUndef i load half b s = false → (ringOf b).toNat ≤ 1 → (rg b ga).toNat % 256 ≠ 0 →
       exec i s = .next (raise { code := 0x04, acc := if load = true then .read else .write, addr := rg b ga } s)) ∧
     (saveUndef i load half b s = false → (ringOf b).toNat ≤ 1 → (rg b ga).toNat % 256 = 0 →
       (savesVec b i = true → domUse s dVec = .asleep → exec i s = .next { wakeRequest s dVec with stall := some i }) ∧
       ((savesVec b i = true → domUse s dVec ≠ .asleep) → (winBank b s).longs ≠ [] → exec i s = .next { s with stall := some i }) ∧
       ((savesVec b i = true → domUse s dVec ≠ .asleep) → (winBank b s).longs = [] →
         let s0 := if load = true then parkFree s else s
         let start := svmStart s load
         (∀ (s1 : State) (h : Bool), i = .svh ga h → s.c.xfer = none → start = 0 →
           storeBytes .core b (rg b ga + 8) 8 false (toBytes 8 (if h = true then 1 else 0 : W64)) s = .done s1 →
           exec i s = .next (saveGoesOn i 0 0 b s1)) ∧
         (∀ (s1 : State) (nx : W64) (l : List (Nat × Group × W64)), l = (saveGroups b nx i).filter (fun e => start ≤ e.1) →
           (i = .svh ga true ∨ i = .svh ga false → s.c.xfer ≠ none ∨ start ≠ 0) →
           (∀ h, i = .ldh ga h → ldhOther .core b (rg b ga) h s0 = .inr (s1, nx)) → ((∀ h, i ≠ .ldh ga h) → s1 = s0 ∧ nx = 0) →
           (l = [] → exec i s = .next (after (saveEnds i load b s1).2 { (saveEnds i load b s1).1 with pc := b.pc + 4 })) ∧
           (∀ (j : Nat) (gr : Group) (va : W64) (rest : List (Nat × Group × W64)) (b2 : Bank) (s2 : State), l = (j, gr, va) :: rest →
             groupMoved load gr va b s1 = some (b2, s2) →
             (rest = [] → exec i s = .next (after (saveEnds i load b2 s2).2 { (saveEnds i load b2 s2).1 with pc := b.pc + 4 })) ∧
             (∀ (j' : Nat) (gr' : Group) (va' : W64) (rest' : List (Nat × Group × W64)), rest = (j', gr', va') :: rest' →
               (half = true ∨ s2.dbg.stepping = false → exec i s = .next (saveGoesOn i j' nx b2 s2)) ∧
               (half = false → s2.dbg.stepping = true → exec i s = .next (after (svmStop s2 load j') b2)))))))) ∧
  (∀ (b w : Bank) (ring : BitVec 2) (rpc : W64),
     (∀ (k : Fin 4) (i : Fin 8), (groupLoad w ring (.g k) (groupBytes false b rpc (.g k))).g[8 * k.val + i.val] = b.g[8 * k.val + i.val]) ∧
     (∀ (k : Fin 4) (r : GReg), r.val / 8 ≠ k.val → (groupLoad w ring (.g k) (groupBytes false b rpc (.g k))).g[r] = w.g[r]) ∧
     (∀ i : VReg, (groupLoad w ring (.v i) (groupBytes false b rpc (.v i))).v = w.v.set i.val b.v[i] i.isLt) ∧
     (groupLoad w ring .m (groupBytes false b rpc .m)).m = b.m ∧
     (let x := groupLoad w ring .ctl (groupBytes false b rpc .ctl)
      x.pc = rpc ∧ x.ssp = b.ssp &&& ~~~ 7 ∧ x.sysrpc = b.sysrpc ∧ x.sysrfl = b.sysrfl ∧ x.srseed = b.srseed ∧ x.sev = b.sev ∧ x.bev = b.bev ∧
      x.mev = b.mev ∧ x.tnr = b.tnr ∧ x.g = w.g ∧ x.v = w.v ∧ x.m = w.m ∧ ring.toNat ≤ (flRing x.fl).toNat) ∧
     (∀ g : Group, (groupBytes false b rpc g).length = groupSize g))

/-- R291 to R294, R305: the bank actions of BANKWIN from ring 0 or 1: ALLOC takes the lowest FREE bank and parks it with its dirty bits clear, FREE,
PARK and READY set a bank's state, CLREV clears its event bits (a write of its control group), SWITCH makes the executing bank READY and runs another
that is READY, RETURN goes back to the pc that the overflow trap saved; an ALLOC that finds none outside bank 0 takes that trap, in bank 0 sets AFAIL.
An action that R292 has ignored selects the window bank alone; SWITCH and the trap wait for the executing bank's long results (R290). From rings 2 and
3 every one raises privileged-register. That a bank which leaves WAIT has its TNR cleared is the model's choice (log 49). -/
def Obligations.BankActionsFollowR292 : Prop :=
  ∀ (i : Instr) (k : BankNum) (act : Nat) (s : State), actForm i = some (act, k) → Ready i s → let b := curBank s
    let s1 : State := { s with c := { s.c with bankwin := k } }
    let x := s.banks[k]
    let b4 : Bank := { b with pc := b.pc + 4 }
    (2 ≤ (ringOf b).toNat → exec i s = .next (raise { code := 0x02, addr := 0x30 } s)) ∧
    ((ringOf b).toNat ≤ 1 →
      (act = 1 →
        (∀ n, freeBank s = some n → exec i s = .next (after { setBank s n { s.banks[n] with st := .parked, dirty := 0 } with
          c := { s.c with bankwin := n, afail := false } } b4)) ∧
        (freeBank s = none → s.c.cur = 0 → exec i s = .next (after { s with c := { s.c with afail := true } } b4)) ∧
        (freeBank s = none → s.c.cur ≠ 0 → b.longs = [] → ∃ t, exec i s = .next t ∧ t.c.cur = 0 ∧ t.c.bovbank = s.c.cur ∧
          t.c.bovrpc = s.banks[0].pc ∧ t.c.bovrfl = s.banks[0].fl ∧ t.banks[0].pc = s.c.boventry ∧ t.banks[0].st = .run ∧
          bit t.banks[0].fl 10 = false ∧ t.banks[s.c.cur] = { b with st := .ready }) ∧
        (freeBank s = none → s.c.cur ≠ 0 → b.longs ≠ [] → exec i s = .next { s with stall := some i })) ∧
      (act = 2 → exec i s =
        .next (after (if k = 0 ∨ k = s.c.cur then s1 else setBank (spent s1 1) k (releasedBank s x)) b4)) ∧
      (act = 3 → exec i s = .next (after (if k = s.c.cur ∨ x.st = .free then s1 else setBank s1 k (wakeBank x .parked)) b4)) ∧
      (act = 4 → exec i s = .next (after (if x.st = .parked ∨ x.st = .wait then setBank s1 k (wakeBank x .ready) else s1) b4)) ∧
      (act = 5 →
        (k = s.c.cur ∨ x.st ≠ .ready → exec i s = .next (after s1 b4)) ∧
        (k ≠ s.c.cur → x.st = .ready → b.longs = [] → ∃ t, exec i s = .next t ∧ t.c.cur = k ∧
          t.c.bankwin = k ∧ t.banks[s.c.cur] = { b4 with st := .ready } ∧ t.banks[k].st = .run ∧ t.banks[k].g = x.g ∧
          t.banks[k].fl = x.fl ∧ t.banks[k].pc = x.pc &&& ~~~ 3 ∧ t.mem = s.mem) ∧
        (k ≠ s.c.cur → x.st = .ready → b.longs ≠ [] → exec i s = .next { s with stall := some i })) ∧
      (act = 6 → exec i s = .next (if k = s.c.cur then after s1 (touchCtl (clearEvents b4)) else
        after (setBank s1 k (touchCtl (clearEvents x))) b4)) ∧
      (act = 7 →
        (s.c.cur = 0 → ∃ f, exec i s = .next (after s1 (touchCtl { b with pc := s.c.bovrpc &&& ~~~ 3, fl := f })) ∧ f &&& ~~~ 0x70F = 0 ∧
          flRing f = ringOf b ∧ ∀ j, j ≠ 8 → j ≠ 9 → bit f j = bit (s.c.bovrfl &&& 0x70F) j) ∧
        (s.c.cur ≠ 0 → exec i s = .next (after s1 b4))))

/-- R302, R303: where the hardware scheduler may switch, a bank stalled on a tile waits for it (WAIT with TNR), a WAITI waits behind itself, and a
bank of lower priority becomes READY; the selected READY bank runs. A WAIT bank whose tiles have left PENDING becomes READY. -/
def Obligations.HardwareSchedulerSwitches : Prop :=
  (∀ (s : State) (dst : BankNum), Live s → schedOpen s = true → nextBank s = some dst → dst ≠ s.c.cur →
    (∀ ts cfg, tnrWait s = some (ts, cfg) → bit s.c.schedctl 1 = true → ∃ t, exec (.schedSwitch .tileStall) s = .next t ∧ t.c.cur = dst ∧
      t.stall = none ∧ t.banks[s.c.cur] = { curBank s with st := .wait, tnr := true, tnrTiles := ts, tnrCfg := cfg } ∧ t.banks[dst].st = .run ∧
      t.mem = s.mem ∧ t.tiles = s.tiles) ∧
    (s.stall = some .waiti → waitiEnds s = false → bit s.c.schedctl 5 = true → ∃ t, exec (.schedSwitch .waiti) s = .next t ∧ t.c.cur = dst ∧
      t.stall = none ∧ t.banks[s.c.cur] = { curBank s with st := .wait, pc := (curBank s).pc + 4 } ∧ t.banks[dst].st = .run) ∧
    (bit s.c.schedctl 6 = true → bankPrio s s.c.cur < bankPrio s dst → ∃ t, exec (.schedSwitch .preempt) s = .next t ∧ t.c.cur = dst ∧
      t.banks[s.c.cur] = { curBank s with st := .ready } ∧ t.banks[dst].st = .run)) ∧
  (∀ (s : State), Live s → schedOpen s = false → ∀ why, exec (.schedSwitch why) s = .next s) ∧
  (∀ (k : BankNum) (s : State), Live s → s.banks[k].st = .wait → s.banks[k].tnr = true → tnrOver s s.banks[k] = true →
    exec (.tnrBankReady k) s = .next (setBank s k { s.banks[k] with st := .ready, tnr := false, tnrTiles := [], tnrCfg := false }))

/-- R206, R207, R228, R280, R341, R458: the control-register writes that have rows of their own. RULED enters ruled mode with L1D and L1I empty, once
the store buffer is empty and its domains are awake, and leaves it at once; a write that keeps EN changes SCHED alone; ISET (from ring 1 too) sets the
pending bits of existing software vectors alone; ERRINJ arms only while it is not armed; RSTCTL asks for a warm reset; L2WAYCTL never disables every
way group. A less privileged ring gets privileged-register with the number. -/
def Obligations.SystemRegisterWrites : Prop :=
  (∀ (i : Instr) (n : Nat) (s : State), systemRow i = some n → Ready i s →
    (if n < 0x700 then 0 else 1) < (ringOf (curBank s)).toNat → exec i s = .next (raise { code := 0x02, addr := BitVec.ofNat 64 n } s)) ∧
  (∀ s : State, let b := curBank s
    let b4 : Bank := { b with pc := b.pc + 4 }
    (∀ (j : Fin 4) v, Ready (.isetWrite j v) s → (ringOf b).toNat ≤ 1 → exec (.isetWrite j v) s =
      .next (after { s with c := { s.c with ipend := s.c.ipend.set j.val (s.c.ipend[j] ||| (v &&& ipendSoft j)) j.isLt } } b4)) ∧
    (ringOf b = 0 →
    (∀ sched, Ready (.ruledEnter sched) s → s.c.ruledEn = false →
      (s.ca.sb = [] → (∀ d ∈ ruledDoms, domUse s d ≠ .asleep) →
        ∃ t, exec (.ruledEnter sched) s = .next (after t b4) ∧
          t.c = { s.c with ruledEn := true, ruledAct := true, ruledSched := sched, errinj := t.c.errinj } ∧
          t.ca.l1i = [] ∧ t.ca.lineBuf = none ∧ t.ca.miss = none ∧ accessOnly { s with c := t.c } t ∧
          (s.ca.l1d.Pairwise (fun x y => x.1 < y.1) → t.ca.l1d = [] ∨ ∃ e ∈ s.ca.l1d, e.2 = none)) ∧
      (s.ca.sb ≠ [] → exec (.ruledEnter sched) s = .next { s with stall := some (.ruledEnter sched) })) ∧
    (∀ sched, Ready (.ruledEnter sched) s → s.c.ruledEn = true →
      exec (.ruledEnter sched) s = .next (after { s with c := { s.c with ruledSched := sched } } b4)) ∧
    (∀ sched, Ready (.ruledExit sched) s → exec (.ruledExit sched) s =
      .next (after { s with c := { s.c with ruledEn := false, ruledAct := s.c.ruledAct && !s.c.ruledEn, ruledSched := sched } } b4)) ∧
    (∀ v, Ready (.l2wayctlWrite v) s → ∃ t, exec (.l2wayctlWrite v) s = .next (after t b4) ∧ t.banks = s.banks ∧
      t.c.l2En = (if v.setWidth 4 = (0 : BitVec 4) then 1 else v.setWidth 4)) ∧
    (Ready .rstctlWarm s → exec .rstctlWarm s = .next (after { s with win := { s.win with wrst := true } } b4)) ∧
    (∀ v, Ready (.errinjArm v) s → exec (.errinjArm v) s =
      .next (after (if bit s.c.errinj 12 = true then s else { s with c := { s.c with errinj := (v ||| 0x1000) &&& 0xFFFFFFFF1FFF } }) b4))))

/-- R24, R25, R313: PLYC waits while the previous commit runs or a tally still folds; else PLY advances by one, every tally copies its live registers
into its snapshot labelled with the new ply, empties them unless KEEP holds them, and has PEND while samples of the old ply wait; with EN = 0 no
commit starts. -/
def Obligations.PlycAdvancesThePly : Prop :=
  ∀ s : State, Ready .plyc s →
    (plycWaits s = true → exec .plyc s = .next { s with stall := some .plyc }) ∧
    (plycWaits s = false → ∃ t, exec .plyc s = .next (after t { curBank t with pc := (curBank s).pc + 4 }) ∧ t.c.ply = s.c.ply + 1 ∧
      (∀ u : TallyNum, t.tal[u].sply = s.c.ply + 1 ∧ t.tal[u].snap = s.tal[u].live ∧ t.tal[u].keyed = bit s.tal[u].src 6 ∧
        t.tal[u].queue = s.tal[u].queue ∧ t.tal[u].src = s.tal[u].src ∧
        (t.tal[u].pend = true ↔ s.tal[u].queue ≠ [] ∨ s.tal[u].kbuf ≠ none) ∧
        t.tal[u].live = (if bit s.tal[u].src 15 = true ∧ bit s.tal[u].src 6 = false then s.tal[u].live else talEmpty (bit s.tal[u].src 4))) ∧
      (s.mir.en = false → t.mir.commit = none ∧ t.mem = s.mem) ∧ t.ink = s.ink ∧ t.tiles = s.tiles)

/-- R307, R308, R311, R313: TALLY queues its sample with the ply in force (and its key in keyed mode), waits while the 64 places are full or, in keyed
mode, for a long result of the key's register, and is without effect on a tally whose source is another. A hardware source's sample, of an event that
TALSRC selects, takes a free place, and what it cannot place is counted as dropped; it wakes a VELLUM that sleeps, and is lost while VELLUM is off or
in retention. R309, R313: folding takes the oldest sample; of an unsigned log2 tally that is not keyed it adds one to COUNT and to its bin, the value
to SUM, and widens MIN and MAX, in the live registers for the current ply and in the snapshot for an earlier one. PEND falls once no sample of an
earlier ply is left, after the buffered header has been written back. R310, R316: a write of TALSRC from ring 0 to 2 stores the fields that exist (an
unassigned source keeps the old one, FMT and KEYED need source 6), empties the live registers with CLR or where the source or the format of the
samples changes, and is ignored while the quill locks the tally. From ring 3 it raises privileged-register. -/
def Obligations.TalliesSampleFoldAndConfigure : Prop :=
  ((∀ (u : TallyNum) (g k : GReg) (s : State), Ready (.tally u g k) s →
     let b := curBank s
     let x := s.tal[u]
     let held := bit x.src 6 = true ∧ gPending b k = true
     (fieldN x.src 3 0 ≠ 6 → exec (.tally u g k) s = .next (after s { b with pc := b.pc + 4 })) ∧
     (fieldN x.src 3 0 = 6 → x.queue.length < 64 → ¬ held → exec (.tally u g k) s =
       .next (after (setTally s u { x with queue := x.queue ++
         [⟨(rg b g).setWidth 32, if bit x.src 6 = true then some ((rg b k).setWidth 10) else none, s.c.ply⟩] }) { b with pc := b.pc + 4 })) ∧
     (fieldN x.src 3 0 = 6 → 64 ≤ x.queue.length ∨ held → exec (.tally u g k) s = .next { s with stall := some (.tally u g k) })) ∧
   (∀ (u : TallyNum) (ev : SampleEv) (v : W32) (more : Nat) (s : State), Live s →
     let x := s.tal[u]
     (selects x.src ev = true → domUse s dVellum ≠ .off →
       ∃ y t, exec (.tallySample u ⟨ev, v⟩ more) s = .next t ∧
         y.queue = (if x.queue.length < 64 then x.queue ++ [⟨v, none, s.c.ply⟩] else x.queue) ∧
         y.live.drop.toNat = min 0xFFFFFFFF (x.live.drop.toNat + if x.queue.length < 64 then more else more + 1) ∧
         y = { x with queue := y.queue, live := { x.live with drop := y.live.drop } } ∧
         t = wakeRequest (setTally s u y) dVellum ∧ (domUse s dVellum = .ready → t = setTally s u y)) ∧
     (selects x.src ev = false ∨ domUse s dVellum = .off → exec (.tallySample u ⟨ev, v⟩ more) s = .next s))) ∧
  ((∀ (u : TallyNum) (p : Sample) (l : List Sample) (s : State), Live s → domRuns s dVellum = true → s.vellumZeroing = false →
     let x := s.tal[u]
     x.queue = p :: l → p.key = none → bit x.src 4 = false → bit x.src 5 = false →
     let r := if p.ply = s.c.ply then x.live else x.snap
     let bin : Int := if p.v = 0 then 0 else min 63 (max 0 ((Nat.log2 p.v.toNat : Int) - (((x.src >>> 16).setWidth 8 : BitVec 8).toInt) + 1))
     ∃ y r', exec (.tallyFold u) s = .next (setTally s u y) ∧ y.queue = l ∧
       y = (if p.ply = s.c.ply then { x with queue := l, live := r' } else { x with queue := l, snap := r' }) ∧
       r'.cnt = r.cnt + 1 ∧ r'.sum = r.sum + p.v.setWidth 64 ∧ r'.mn.toNat = min r.mn.toNat p.v.toNat ∧ r'.mx.toNat = max r.mx.toNat p.v.toNat ∧
       r'.nan = r.nan ∧ r'.drop = r.drop ∧
       (spWf 0 r.hist = true → ∀ b : Nat, spGet 0 r'.hist b = if (b : Int) = bin then spGet 0 r.hist b + 1 else spGet 0 r.hist b)) ∧
   (∀ (u : TallyNum) (s : State), Live s → s.tal[u].queue = [] → exec (.tallyFold u) s = .next s) ∧
   (∀ (u : TallyNum) (s : State), Live s → domRuns s dVellum = true → s.tal[u].pend = true → (∀ p ∈ s.tal[u].queue, p.ply = s.c.ply) →
     ∃ t, exec (.tallyPendClear u) s = .next t ∧ t.tal = s.tal.set u.val { s.tal[u] with pend := false, kbuf := none } u.isLt ∧
       t = { s with tal := t.tal, vellum := t.vellum, vellumBad := t.vellumBad, err := t.err, c := { s.c with errinj := t.c.errinj } } ∧ (s.tal[u].kbuf = none → t.vellum = s.vellum))) ∧
  (∀ (u : TallyNum) (v : W64) (clr : Bool) (s : State), let i : Instr := if clr then .talsrcClr u v else .talsrcReconfig u v
     let x := s.tal[u]
     let b4 : Bank := { curBank s with pc := (curBank s).pc + 4 }
     Ready i s →
     ((ringOf (curBank s)).toNat = 3 → exec i s = .next (raise { code := 0x02, addr := BitVec.ofNat 64 (0x100 + 8 * u.val) } s)) ∧
     ((ringOf (curBank s)).toNat ≤ 2 →
     (x.qlock = true → exec i s = .next (after s b4)) ∧
     (x.qlock = false → ∃ n l, exec i s = .next (after (setTally s u { x with src := n, live := l }) b4) ∧
       fieldN n 3 0 = (if fieldN v 3 0 ≤ 6 then fieldN v 3 0 else fieldN x.src 3 0) ∧ bit n 4 = (fieldN n 3 0 == 6 && bit v 4) ∧
       bit n 5 = (!bit n 4 && bit v 5) ∧ bit n 6 = (fieldN n 3 0 == 6 && bit v 6) ∧ bit n 7 = false ∧ fieldN n 28 8 = fieldN v 28 8 ∧
       fieldN n 31 29 = 0 ∧ fieldN n 63 32 = fieldN v 63 32 ∧
       (clr = true ∨ bit v 7 = true → l = talEmpty (bit n 4)) ∧
       (clr = false → bit v 7 = false → (fieldN n 6 0 = fieldN x.src 6 0 ∧ fieldN n 28 16 = fieldN x.src 28 16 ∧ fieldN n 63 32 = fieldN x.src 63 32) →
         l = x.live))))

/-- R65, R67, R70, R73, R83, R84: with no accepted operation on the tile, both write forms of TCFG give it the descriptor and keep the bytes and
scales inside both shapes (a new byte reads 0, a new scale 0x7F), leave its state and set its dirty bit; until then they wait; another bank's tile
raises tile-not-ready, and a descriptor that breaks the type table raises tile-shape, with nothing changed; the read form writes the descriptor into
gd. -/
def Obligations.TileConfiguration : Prop :=
  (∀ (i : Instr) (k : TReg) (r : BitVec 10) (rb e : BitVec 4) (mx : Bool) (s : State), TileReady i s →
    (i = .tcfgImm k r rb e mx ∨ ∃ ga, i = .tcfgReg k ga ∧ r = (rg (curBank s) ga).setWidth 10 ∧ rb.toNat = fieldN (rg (curBank s) ga) 13 10 ∧
      e.toNat = fieldN (rg (curBank s) ga) 19 16 ∧ mx = bit (rg (curBank s) ga) 20) →
    (¬ tileOwned s k → exec i s = .next (raise (notReady 2 k) s)) ∧
    (tileOwned s k → ∀ sub, descFault s.var r.toNat rb.toNat e mx = some sub → exec i s = .next (raise (shapeExc sub k) s)) ∧
    (tileOwned s k → descFault s.var r.toNat rb.toNat e mx = none → ¬ tileIdle s k ∨ s.tiles[k].st = .incomplete →
      exec i s = .next { s with stall := some i }) ∧
    (tileOwned s k → descFault s.var r.toNat rb.toNat e mx = none → tileIdle s k → s.tiles[k].st ≠ .incomplete → TilesCanonical s →
      ∃ t, exec i s = .next (after t { curBank s with pc := (curBank s).pc + BitVec.ofNat 64 (instrBytes i) }) ∧ tileOnly s t ∧ otherTilesKept s t k ∧
        t.tiles[k].rowsm1 = r ∧ t.tiles[k].rbm1 = rb ∧ t.tiles[k].etype = e ∧ t.tiles[k].mx = mx ∧ t.tiles[k].st = s.tiles[k].st ∧
        t.c.tdirty = s.c.tdirty ||| (1 <<< k.val) ∧ t.ops = s.ops ∧
        (∀ row, tileRow t.tiles[k] row = if row < r.toNat + 1 then
            BitVec.ofNat 8192 ((tileRow s.tiles[k] row).toNat % 2 ^ (8 * (64 * (rb.toNat + 1)))) else 0) ∧
        (∀ row, tileScale t.tiles[k] row = if mx = true ∧ s.tiles[k].mx = true ∧ row < r.toNat + 1 then
            keepScales (tileScales t.tiles[k]) (tileScale s.tiles[k] row) else scaleOnes))) ∧
  (∀ (gd : GReg) (k : TReg) (s : State), TileReady (.tcfgRead gd k) s →
    ∃ b', exec (.tcfgRead gd k) s = .next (after s b') ∧ scalarOnly (curBank s) b' ∧ b'.g[gd] = tileDesc s k ∧ keepsG (curBank s) b' [gd] ∧
      b'.fl = (curBank s).fl ∧ b'.pc = (curBank s).pc + BitVec.ofNat 64 (instrBytes (.tcfgRead gd k)))

/-- R70, R74, R75, R77, R78, R163: TLD, TST, TZERO, TREL and TMOV are accepted as the last operation in order, with what they capture (bank, ring,
TTB, ruled mode) and their operands; a writer makes its tile PENDING at acceptance, TST leaves its state; TDIRTY is set for the tile written except by
TREL; no byte moves yet. TZERO and TREL end the failed operations of an INCOMPLETE tile; a tile of another bank or an INCOMPLETE one raises tile-not-
ready, and a full queue holds the transfer. -/
def Obligations.TileOperationsAreAccepted : Prop :=
  ∀ s : State, let b := curBank s
    (∀ (load : Bool) (k : TReg) (ga gb gc : GReg) (q : QNum), let i : Instr := if load then .tld k ga gb gc q else .tst k ga gb gc q
      TileReady i s → domUse s dStream = .ready →
      (¬ tileOwned s k → exec i s = .next (raise (notReady 2 k) s)) ∧
      (tileOwned s k → s.tiles[k].st = .incomplete → exec i s = .next (raise (notReady 1 k) s)) ∧
      (tileOwned s k → s.tiles[k].st ≠ .incomplete → queueRoom s q = false → exec i s = .next { s with stall := some i }) ∧
      (tileOwned s k → s.tiles[k].st ≠ .incomplete → queueRoom s q = true →
        ∃ t o, exec i s = .next (after t { b with pc := b.pc + BitVec.ofNat 64 (instrBytes i) }) ∧ tileOnly s t ∧ otherTilesKept s t k ∧
        accepted s t o ∧ o.kind = (if load then .tld else .tst) ∧ o.t = k ∧ o.q = q ∧ o.ga = rg b ga ∧ o.gb = rg b gb ∧ o.gc = rg b gc ∧
        o.prog = 0 ∧ o.n = tileRows (accTile s k) ∧ t.tiles[k].rows = s.tiles[k].rows ∧ t.tiles[k].progRows = 0 ∧ t.tiles[k].progFault = false ∧
        t.tiles[k].progOp = (if load then 1 else 2) ∧
        (load = true → bit t.c.tdirty k.val = true ∧ ((∀ x ∈ s.ops, x.left = false) → t.tiles[k].st = .pending)) ∧
        (load = false → t.c.tdirty = s.c.tdirty ∧ t.tiles[k].st = s.tiles[k].st))) ∧
    (∀ (rel : Bool) (k : TReg), let i : Instr := if rel then .trel k else .tzero k
      TileReady i s →
      (¬ tileOwned s k → exec i s = .next (raise (notReady 2 k) s)) ∧
      (tileOwned s k → ∃ t o, exec i s = .next (after t { b with pc := b.pc + BitVec.ofNat 64 (instrBytes i) }) ∧ tileRecords s t ∧ otherTilesKept s t k ∧
        t.ops = (s.ops.filter fun x => !(x.left && x.t == k)) ++ [o] ∧ t.nextOp = s.nextOp + 1 ∧ o.id = s.nextOp ∧ o.cap = captureOf b s ∧
        o.kind = (if rel then .trel else .tzero) ∧ o.t = k ∧ bit t.c.tdirty k.val = (if rel then bit s.c.tdirty k.val else true) ∧
        ((∀ x ∈ s.ops, x.left = false) → t.tiles[k].rows = s.tiles[k].rows ∧ (s.tiles[k].st ≠ .incomplete → t.tiles[k].st = .pending)) ∧
        (s.tiles[k].st = .incomplete → t.tiles[k].st = .incomplete) ∧
        (NoInjection s → (∃ x ∈ s.ops, x.left = true ∧ x.t = k ∧ x.kind = .tld) → t.tiles[k].rows = [] ∧ t.tiles[k].scales = []))) ∧
    (∀ (kd ks : TReg), TileReady (.tmov kd ks) s →
      (¬ tileOwned s kd → exec (.tmov kd ks) s = .next (raise (notReady 2 kd) s)) ∧
      (tileOwned s kd → ¬ tileOwned s ks → exec (.tmov kd ks) s = .next (raise (notReady 2 ks) s)) ∧
      (tileOwned s kd → tileOwned s ks → s.tiles[kd].st = .incomplete → exec (.tmov kd ks) s = .next (raise (notReady 1 kd) s)) ∧
      (tileOwned s kd → tileOwned s ks → s.tiles[kd].st ≠ .incomplete → s.tiles[ks].st = .incomplete → exec (.tmov kd ks) s = .next (raise (notReady 1 ks) s)) ∧
      (tileOwned s kd → tileOwned s ks → s.tiles[kd].st ≠ .incomplete → s.tiles[ks].st ≠ .incomplete →
        ∃ t, exec (.tmov kd ks) s = .next (after t { b with pc := b.pc + BitVec.ofNat 64 (instrBytes (.tmov kd ks)) }) ∧ tileOnly s t ∧
          otherTilesKept s t kd ∧ bit t.c.tdirty kd.val = true ∧ t.tiles[kd].rows = s.tiles[kd].rows ∧
          (kd = ks → t.ops = s.ops ∧ t.tiles = s.tiles) ∧
          (kd ≠ ks → ((∀ x ∈ s.ops, x.left = false) → t.tiles[kd].st = .pending) ∧ ∃ o, accepted s t o ∧ o.kind = .tmov ∧ o.t = kd ∧ o.ts = ks)))

/-- R28, R79, R80, R83, R176: TRDY writes the state of every tile of its mask into gd and zeros elsewhere, TRDY.W once none of them is PENDING;
TRESUME of a tile that is not INCOMPLETE has no effect, and of a failed transfer restarts it at TPROG.ROWS behind its queue, waits for room, stops
with a fresh DOMAINOFF while STREAM is off, and raises tile-not-ready for another bank's tile and for an operation of a more privileged ring. -/
def Obligations.TileStatesAndResumption : Prop :=
  ∀ s : State, let b := curBank s
    (∀ (w : Bool) (gd : GReg) (mask : BitVec 16), let i : Instr := if w then .trdyW gd mask else .trdy gd mask
      TileReady i s →
      (w = true → (∃ k : TReg, bit mask k.val = true ∧ s.tiles[k].st = .pending) → exec i s = .next { s with stall := some i }) ∧
      ((w = true → ∀ k : TReg, bit mask k.val = true → s.tiles[k].st ≠ .pending) →
        ∃ b', exec i s = .next (after s b') ∧ scalarOnly b b' ∧ keepsG b b' [gd] ∧ b'.fl = b.fl ∧ b'.pc = b.pc + BitVec.ofNat 64 (instrBytes i) ∧
          b'.g[gd].toNat < 2 ^ 32 ∧
          ∀ k : TReg, fieldN b'.g[gd] (2 * k.val + 1) (2 * k.val) = if bit mask k.val = true then fieldN (tileDesc s k) 25 24 else 0)) ∧
    (∀ k : TReg, TileReady (.tresume k) s → s.tiles[k].st ≠ .incomplete ∨ (tileOwned s k ∧ ∀ o ∈ s.ops, o.left = true → o.t ≠ k) →
      exec (.tresume k) s = .next (after s { b with pc := b.pc + BitVec.ofNat 64 (instrBytes (.tresume k)) })) ∧
    (∀ k : TReg, TileReady (.tresume k) s → s.tiles[k].st = .incomplete → ¬ tileOwned s k → exec (.tresume k) s = .next (raise (notReady 2 k) s)) ∧
    (∀ (k : TReg) (o : Op), TileReady (.tresume k) s → s.tiles[k].st = .incomplete → tileOwned s k →
      (s.ops.find? fun o => o.left && o.t == k) = some o →
      let again (x : Op) : Op := { x with
        left := false, started := false, stop := none, prog := s.tiles[k].progRows.toNat, above := [], written := [], fab := [], moved := []
        iline := s.tiles[k].progRows.toNat, ioff := 0, out := [], qseq := s.nextOp }
      (o.cap.ring.toNat < (ringOf b).toNat → exec (.tresume k) s = .next (raise (notReady 3 k) s)) ∧
      ((ringOf b).toNat ≤ o.cap.ring.toNat →
        (domUse s dStream = .asleep → exec (.tresume k) s = .next { wakeRequest s dStream with stall := some (.tresume k) }) ∧
        (domUse s dStream = .ready → queueRoom s o.q = false → exec (.tresume k) s = .next { s with stall := some (.tresume k) }) ∧
        (domUse s dStream = .ready → queueRoom s o.q = true →
          ∃ t, exec (.tresume k) s = .next (after t { b with pc := b.pc + BitVec.ofNat 64 (instrBytes (.tresume k)) }) ∧ tileOnly s t ∧
            t.tiles = s.tiles.set k.val { s.tiles[k] with progFault := false, st := .pending } k.isLt ∧ t.nextOp = s.nextOp + 1 ∧
            t.ops = s.ops.map fun x => if x.id = o.id then again x else x) ∧
        (domUse s dStream = .off → tileOp o = true → onlyOp s o →
          ∃ t, exec (.tresume k) s = .next (after t { b with pc := b.pc + BitVec.ofNat 64 (instrBytes (.tresume k)) }) ∧
            t.tiles[k].st = .incomplete ∧ t.tiles[k].progFault = true ∧ isPending t 0x23 = true ∧ otherTilesKept s t k ∧
            (s.sq[o.q].recv = false → t.sq[o.q].recv = true ∧ fieldN t.sq[o.q].w1 4 0 = 0x08 ∧ t.sq[o.q].w3 = o.ga ∧ t.sq[o.q].w4 = 0))))

/-- R34, R70, R81, R83, R84: VTRD and VTRD.S read a row and a sidecar row of a tile that is not PENDING into the low bytes of vd and keep the higher
ones, and wait while it is; VTWR and VTWR.S write them, set TDIRTY and leave the tile READY, behind the operations that R69 puts before them; a row
beyond the tile raises tile-shape ROWS, a missing sidecar SCALE, a tile of another bank or an INCOMPLETE one tile-not-ready. -/
def Obligations.VectorTileRows : Prop :=
  ∀ s : State, let b := curBank s
    (∀ (wr side : Bool) (v : VReg) (k : TReg) (gr : GReg),
      let i : Instr := match wr, side with
        | false, false => .vtrd v k gr
        | false, true => .vtrdS v k gr
        | true, false => .vtwr v k gr
        | true, true => .vtwrS v k gr
      TileReady i s → domUse s dVec = .ready →
      (¬ tileOwned s k → exec i s = .next (raise (notReady 2 k) s)) ∧
      (tileOwned s k → s.tiles[k].st = .incomplete → exec i s = .next (raise (notReady 1 k) s)) ∧
      (tileOwned s k → s.tiles[k].st ≠ .incomplete →
        (tileRows (accTile s k) ≤ (rg b gr).toNat → exec i s = .next (raise (shapeExc 1 k) s)) ∧
        ((rg b gr).toNat < tileRows (accTile s k) → side = true → (accTile s k).mx = false → exec i s = .next (raise (shapeExc 6 k) s)) ∧
        ((rg b gr).toNat < tileRows (accTile s k) → (side = true → (accTile s k).mx = true) → wr = false → s.tiles[k].st = .pending →
          exec i s = .next { s with stall := some i }) ∧
        ((rg b gr).toNat < tileRows (accTile s k) → (side = true → (accTile s k).mx = true) → wr = true → ¬ (∀ o ∈ s.ops, opWrites o k = false ∧ (opReads o k = true → readDone o = true)) →
          exec i s = .next { s with stall := some i }))) ∧
    (∀ (side : Bool) (vd : VReg) (k : TReg) (gr : GReg), let i : Instr := if side then .vtrdS vd k gr else .vtrd vd k gr
      TileReady i s → domUse s dVec = .ready → tileOwned s k → s.tiles[k].st ≠ .incomplete → s.tiles[k].st ≠ .pending →
      (rg b gr).toNat < tileRows (accTile s k) → (side = true → (accTile s k).mx = true) →
      ∃ b' t, exec i s = .next (after t b') ∧ tileRecords s t ∧ t.tiles = s.tiles ∧ t.ops = s.ops ∧ t.nextOp = s.nextOp ∧ t.sq = s.sq ∧ t.c.tdirty = s.c.tdirty ∧
        vectorOnly b b' ∧ b'.g = b.g ∧ b'.m = b.m ∧ keepsV b b' [vd] ∧ b'.pc = b.pc + 4 ∧
        (let n := if side then tileScales s.tiles[k] else tileBytes s.tiles[k]
         ∀ j, j < 2048 → velem 8 b'.v[vd] j = if j < n then
           (if side then velem 8 (tileScale s.tiles[k] (rg b gr).toNat) j else velem 8 (tileRow s.tiles[k] (rg b gr).toNat) j) else velem 8 b.v[vd] j)) ∧
    (∀ (side : Bool) (vs : VReg) (k : TReg) (gr : GReg), let i : Instr := if side then .vtwrS vs k gr else .vtwr vs k gr
      TileReady i s → domUse s dVec = .ready → tileOwned s k → s.tiles[k].st ≠ .incomplete → (∀ o ∈ s.ops, opWrites o k = false ∧ (opReads o k = true → readDone o = true)) →
      (rg b gr).toNat < tileRows (accTile s k) → (side = true → (accTile s k).mx = true) →
      ∃ t, exec i s = .next (after t { b with pc := b.pc + 4 }) ∧ tileRecords s t ∧ otherTilesKept s t k ∧ t.ops = s.ops ∧ t.nextOp = s.nextOp ∧ t.sq = s.sq ∧
        ((∀ o ∈ s.ops, o.left = false) → t.tiles[k].st = .ready) ∧ bit t.c.tdirty k.val = true ∧
        (NoInjection s → TilesCanonical s →
          (side = false → tileRow t.tiles[k] (rg b gr).toNat = BitVec.ofNat 8192 (b.v[vs].toNat % 2 ^ (8 * tileBytes s.tiles[k])) ∧
            t.tiles[k].scales = s.tiles[k].scales ∧ ∀ r, r ≠ (rg b gr).toNat → tileRow t.tiles[k] r = tileRow s.tiles[k] r) ∧
          (side = true → tileScale t.tiles[k] (rg b gr).toNat = keepScales (tileScales s.tiles[k]) (BitVec.ofNat 512 b.v[vs].toNat) ∧
            t.tiles[k].rows = s.tiles[k].rows ∧ ∀ r, r ≠ (rg b gr).toNat → tileScale t.tiles[k] r = tileScale s.tiles[k] r)))

/-- R69, R71, R74 to R78, R82, R170, R176: an accepted operation that no earlier one on its tile holds is released; a row of a transfer, issued with
the rows before it, moves and counts in TPROG once its writes are visible; TLD, TST, TZERO, TREL and TMOV leave their tile READY (TREL EMPTY, TMOV
with the descriptor and contents of its source) once they are performed and no other writer remains; a stop leaves the tile INCOMPLETE with its
progress and its record, once no request is outstanding. -/
def Obligations.TileOperationsComplete : Prop :=
  (∀ (id : Nat) (o : Op) (s : State), Live s →
    (s.ops.find? fun o => o.id == id && !o.started && !onQueue o && o.kind != .remap && mayWork s o) = some o →
    exec (.heldOpRelease id) s = .next { s with ops := s.ops.map fun y => if y.id = o.id then { y with started := true } else y }) ∧
  (∀ (k : TReg) (row : Nat) (o o1 : Op) (s s1 : State), Live s → liveTransfer s k = some o → row < o.n → isLineMoved o row = false → mayWork s o = true →
    issueTo tileIssuer o.id row 0 (poolSize + 1) s = s1 → s1.ops.find? (·.id == o.id) = some o1 →
    (outOf o1 row = 0 → exec (.tldRowComplete k row) s = .next s1) ∧
    (∀ (s2 s3 : State) (d sc : List Byte), outOf o1 row ≠ 0 → o1.kind = .tld → o1.stop = none → unreported s1 o1.q = none →
      streamRead o1.cap true (rowParts s1.tiles[o1.t] o1 row).1 s1 = .done s2 d → streamRead o1.cap true (rowParts s1.tiles[o1.t] o1 row).2 s2 = .done s3 sc →
      ∃ t, exec (.tldRowComplete k row) s = .next t ∧ t.mem = s3.mem ∧ t.vellum = s3.vellum ∧ t.banks = s.banks ∧
        (∀ j : TReg, j ≠ o1.t → t.tiles[j].rows = s.tiles[j].rows ∧ t.tiles[j].scales = s.tiles[j].scales) ∧
        (noneWritten s1 → t.tiles[o1.t].progRows = BitVec.ofNat 11 (lineDone o1 row).prog) ∧
        (NoInjection s → TilesCanonical s →
          tileRow t.tiles[o1.t] row = BitVec.ofNat 8192 ((ofBytes 8192 d).toNat % 2 ^ (8 * tileBytes s.tiles[o1.t])) ∧
          (s.tiles[o1.t].mx = true → tileScale t.tiles[o1.t] row = keepScales (tileScales s.tiles[o1.t]) (ofBytes 512 sc)) ∧
          ∀ r, r ≠ row → tileRow t.tiles[o1.t] r = tileRow s.tiles[o1.t] r ∧ tileScale t.tiles[o1.t] r = tileScale s.tiles[o1.t] r)) ∧
    (∀ (s2 s3 : State) (f1 f2 : Bool), let x := s1.tiles[o1.t]
      outOf o1 row ≠ 0 → o1.kind = .tst → o1.stop = none → unreported s1 o1.q = none →
      streamWrite o1.cap true (fun j => x.bad.contains (256 * row + j / 8)) (toBytes (tileBytes x) (tileRow x row)) (rowParts x o1 row).1 s1 = .done s2 f1 →
      streamWrite o1.cap true (fun j => x.bad.contains (256 * row + 128 + j / 8)) (toBytes (tileScales x) (tileScale x row)) (rowParts x o1 row).2 s2 = .done s3 f2 →
      ∃ t, exec (.tldRowComplete k row) s = .next t ∧ t.mem = s3.mem ∧ t.vellum = s3.vellum ∧ t.banks = s.banks ∧
        (∀ j : TReg, t.tiles[j].rows = s.tiles[j].rows ∧ t.tiles[j].scales = s.tiles[j].scales) ∧
        (f1 = false → f2 = false → noneWritten s1 → t.tiles[o1.t].progRows = BitVec.ofNat 11 (lineDone o1 row).prog))) ∧
  (∀ (k : TReg) (o : Op) (s : State), Live s → liveTransfer s k = some o → o.kind = .tld →
    (o.prog < o.n → exec (.tldComplete k) s = .next s) ∧
    (o.n ≤ o.prog → ∃ t, exec (.tldComplete k) s = .next t ∧ t.tiles[k].progOp = 0 ∧ t.tiles[k].progRows = BitVec.ofNat 11 o.n ∧
      t.tiles[k].rows = s.tiles[k].rows ∧ otherTilesKept s t k ∧ tileOnly s t ∧ (noOtherWriter s o k → t.tiles[k].st = .ready))) ∧
  (∀ (k : TReg) (o : Op) (s : State), Live s → liveTransfer s k = some o → o.kind = .tst →
    (o.prog < o.n → (∀ x ∈ s.ops, x.written = []) → exec (.tstComplete k) s = .next s) ∧
    (o.prog < o.n → writesVisible s .unit = true → (∀ x ∈ s.ops, x.id ≠ o.id → x.written = []) → onlyOp s o → o.stop = none → unreported s o.q = none → o.written ≠ [] →
      ∃ t, exec (.tstComplete k) s = .next t ∧ tileOnly s t ∧ otherTilesKept s t k ∧ t.tiles[k].rows = s.tiles[k].rows ∧
        t.tiles[k].progRows = BitVec.ofNat 11 (o.written.foldl lineDone o).prog) ∧
    (o.n ≤ o.prog → ∃ t, exec (.tstComplete k) s = .next t ∧ t.tiles[k].progOp = 0 ∧ t.tiles[k].progRows = BitVec.ofNat 11 o.n ∧
      t.tiles[k].rows = s.tiles[k].rows ∧ otherTilesKept s t k ∧ tileOnly s t ∧
      (onlyOp s o → noOtherWriter s o k → t.tiles[k].st = if s.tiles[k].st = .pending then .ready else s.tiles[k].base))) ∧
  (∀ (k : TReg) (o : Op) (c : BitVec 5) (detail : Byte) (va pa : W64) (s : State), Live s → liveTransfer s k = some o →
    (c = 0 ∨ c = 0x09 ∨ c = 0x0A ∨ 14 ≤ c.toNat → exec (.tileTransferFault k c detail va pa) s = .next s) ∧
    (1 ≤ c.toNat → c.toNat ≤ 13 → c ≠ 0x09 → c ≠ 0x0A → s.sq[o.q].recv = false → unreported s o.q = none → onlyOp s o → o.stop = none →
      (o.written = [] → (∀ x ∈ o.out, ∀ y ∈ o.out, x.1 = y.1) →
        ∃ t, exec (.tileTransferFault k c detail va pa) s = .next t ∧ t.sq[o.q].recv = true ∧ fieldN t.sq[o.q].w1 4 0 = c.toNat ∧ t.sq[o.q].w2 = va ∧
          t.sq[o.q].w3 = o.ga ∧ t.sq[o.q].w4 = (if xlateCause c = true then 0 else pa) ∧ isPending t 0x23 = true ∧
          t.tiles[k].st = .incomplete ∧ t.tiles[k].progFault = true ∧ t.tiles[k].progRows = BitVec.ofNat 11 o.prog ∧ t.mem = s.mem) ∧
      (o.written ≠ [] ∨ (∃ x ∈ o.out, ∃ y ∈ o.out, x.1 ≠ y.1) →
        ∃ t, exec (.tileTransferFault k c detail va pa) s = .next t ∧ t.sq = s.sq ∧ t.tiles = s.tiles ∧ t.mem = s.mem ∧
          ∃ x ∈ t.ops, x.id = o.id ∧ ∃ st, x.stop = some st ∧ st.cause = c))) ∧
  (∀ (k : TReg) (o : Op) (s : State), Live s →
    (workingOp s .tzero k = some o → ∃ t, exec (.tzeroPerformed k) s = .next t ∧ tileRecords s t ∧ otherTilesKept s t k ∧
      t.ops = s.ops.filter (fun x => x.id != o.id) ∧ (NoInjection s → t.tiles[k].rows = [] ∧ t.tiles[k].scales = []) ∧
      (noOtherWriter s o k → t.tiles[k].st = .ready)) ∧
    (workingOp s .trel k = some o → ∃ t, exec (.trelPerformed k) s = .next t ∧ tileRecords s t ∧ otherTilesKept s t k ∧
      t.ops = s.ops.filter (fun x => x.id != o.id) ∧ (NoInjection s → t.tiles[k].rows = [] ∧ t.tiles[k].scales = []) ∧
      bit t.c.tdirty k.val = false ∧ (noOtherWriter s o k → t.tiles[k].st = .empty)) ∧
    (workingOp s .tmov k = some o → o.ts ≠ k → ∃ t, exec (.tmovComplete k) s = .next t ∧ tileRecords s t ∧ otherTilesKept s t k ∧
      t.ops = s.ops.filter (fun x => x.id != o.id) ∧ t.tiles[k].rowsm1 = s.tiles[o.ts].rowsm1 ∧ t.tiles[k].rbm1 = s.tiles[o.ts].rbm1 ∧
      t.tiles[k].etype = s.tiles[o.ts].etype ∧ t.tiles[k].mx = s.tiles[o.ts].mx ∧
      (NoInjection s → t.tiles[k].rows = s.tiles[o.ts].rows ∧ t.tiles[k].scales = s.tiles[o.ts].scales) ∧
      (noOtherWriter s o k → t.tiles[k].st = s.tiles[o.ts].base)))

/-- R70, R83, R84, R94, R97 to R100, R102, R119: with no failed check, BPLANE, BSWAP and BRUN retire as they are accepted, and wait while the board
has eight: BPLANE records its tile in the idle record, BSWAP exchanges the records, BRUN keeps its first inkwell row, its rows, its semiring, ACC and
HALF; nothing else changes. A tile of another bank or an INCOMPLETE one, and a failed check of shape, type, plane or range, raise their exception.
R97, R70: a board operation that would be the ninth waits at the head of the reorder buffer; TILE_OP_ACCEPT executes the instruction that waits there
for its unit again, and it retires once its unit accepts it. -/
def Obligations.BoardOperationsAreAccepted : Prop :=
  (∀ s : State, let b := curBank s
     domUse s dBoard = .ready →
     (∀ (i : Instr) (k : TReg) (chk : Option Exc), (i = .bplane k ∧ chk = bplaneFault s k) ∨
         (∃ gr acc half, i = .brun k gr acc half ∧ chk = brunFault s b k gr half) → TileReady i s →
       (¬ tileOwned s k → exec i s = .next (raise (notReady 2 k) s)) ∧
       (tileOwned s k → s.tiles[k].st = .incomplete → exec i s = .next (raise (notReady 1 k) s)) ∧
       (tileOwned s k → s.tiles[k].st ≠ .incomplete → ∀ e, chk = some e → e.code = 0x08 ∧ exec i s = .next (raise e s)) ∧
       (tileOwned s k → s.tiles[k].st ≠ .incomplete → chk = none → boardRoom s = false → exec i s = .next { s with stall := some i })) ∧
     (boardRoom s = true →
       (∀ k : TReg, TileReady (.bplane k) s → tileOwned s k → s.tiles[k].st ≠ .incomplete → bplaneFault s k = none → let x := accTile s k
         ∃ t o, exec (.bplane k) s = .next (after t { b with pc := b.pc + BitVec.ofNat 64 (instrBytes (.bplane k)) }) ∧ accepted s t o ∧ o.kind = .bplane ∧
           o.t = k ∧ o.n = tileRows x ∧ t = { s with ops := t.ops, nextOp := t.nextOp, bd := { s.bd with acc := t.bd.acc } } ∧
           t.bd.acc[s.bd.accActive + 1] = ⟨true, x.etype, x.rbm1, x.mx, tileRows x⟩ ∧
           t.bd.acc[s.bd.accActive] = s.bd.acc[s.bd.accActive]) ∧
       (Ready .bswap s → ∃ t o, exec .bswap s = .next (after t { b with pc := b.pc + BitVec.ofNat 64 (instrBytes .bswap) }) ∧ accepted s t o ∧ o.kind = .bswap ∧
         t = { s with ops := t.ops, nextOp := t.nextOp, bd := { s.bd with accActive := s.bd.accActive + 1 } }) ∧
       (∀ (k : TReg) (gr : GReg) (acc : BitVec 2) (half : Bool), TileReady (.brun k gr acc half) s → tileOwned s k → s.tiles[k].st ≠ .incomplete →
         brunFault s b k gr half = none →
         ∃ t o, exec (.brun k gr acc half) s = .next (after t { b with pc := b.pc + BitVec.ofNat 64 (instrBytes (.brun k gr acc half)) }) ∧ accepted s t o ∧
           o.kind = .brun ∧ o.t = k ∧ o.base = fieldN b.ibase 12 0 + (rg b gr).toNat ∧ o.n = tileRows (accTile s k) ∧ o.semi.toNat = fieldN b.bmode 2 0 ∧
           o.wr = decide (acc = 1) ∧ o.half = half ∧ o.prog = 0 ∧ t = { s with ops := t.ops, nextOp := t.nextOp }))) ∧
  (∀ s : State,
     (Ready .bswap s → domUse s dBoard = .ready → 8 ≤ (s.ops.filter onBoard).length → exec .bswap s = .next { s with stall := some .bswap }) ∧
     (∀ i : Instr, s.stall = some i → waitsForUnit i = true → exec .tileOpAccept s = exec i s) ∧
     (Live s → s.stall = none → exec .tileOpAccept s = .next s) ∧
     (Ready .bswap s → s.stall = some .bswap → domUse s dBoard = .ready → boardRoom s = true → ∃ t, exec .tileOpAccept s = .next t ∧ t.stall = none ∧
       t.bd.accActive = s.bd.accActive + 1 ∧ t.ops.length = s.ops.length + 1 ∧ (curBank t).pc = (curBank s).pc + 8 ∧ (curBank t).g = (curBank s).g))

/-- R98, R99, R102, R105, R106, R112, R114, R133, R137, R329: the board's events: a plane load starts once its tile and the board permit and gives the
idle plane the rows of its tile; the swap token exchanges the planes and leaves; the plane is released; an A-row enters the rank edge with the file
sums of the active plane; a throttle window starts with the duty in force; a spare remap empties both planes. While the inkwell is zeroed, loads and
swaps stand still. R101, R103, R125: the oldest result row on the board is combined into its inkwell row: with WRITE each file's entry takes the
result, with ACCUM the semiring's combination of the old entry with it; every other entry stays, and the last row ends the run. -/
def Obligations.BoardEventsAndResults : Prop :=
  ((∀ (o : Op) (s : State), Live s → (s.ops.find? fun o => o.kind == .bplane && o.port == 0) = some o →
     let held := (earlier s o).any fun e => e.kind == .bplane || e.kind == .remap || (e.kind == .bswap && e.prog == 0)
     exec .bplaneLoadStart s = .next (if o.started = true ∧ s.bd.released = true ∧ held = false ∧ s.inkZeroing = false then
       { s with ops := s.ops.map fun y => if y.id = o.id then { y with port := 1 } else y } else s)) ∧
   (∀ (o : Op) (s : State), Live s → s.inkZeroing = false → (s.ops.find? fun o => o.kind == .bplane && o.port == 1) = some o →
     ∃ t, exec .bplaneComplete s = .next t ∧ t.ops = s.ops.filter (fun y => y.id != o.id) ∧ t.bd = { s.bd with planes := t.bd.planes } ∧
       t.tiles = s.tiles ∧ t.ink = s.ink ∧ t.mem = s.mem ∧ t.banks = s.banks ∧
       t.bd.planes[s.bd.active] = s.bd.planes[s.bd.active] ∧ t.bd.planes[s.bd.active + 1].rows = s.tiles[o.t].rows ∧
       t.bd.planes[s.bd.active + 1].scales = (if s.tiles[o.t].mx = true then s.tiles[o.t].scales else []) ∧
       t.bd.planes[s.bd.active + 1].pr = ⟨true, s.tiles[o.t].etype, s.tiles[o.t].rbm1, s.tiles[o.t].mx, tileRows s.tiles[o.t]⟩) ∧
   (∀ s : State, Live s → s.inkZeroing = true → exec .bplaneComplete s = .next s ∧ exec .swapTokenEntry s = .next s ∧ exec .bswapComplete s = .next s) ∧
   (∀ (o : Op) (s : State), Live s → s.inkZeroing = false → edgeOp s.ops = some o → o.kind = .bswap → ((earlier s o).any fun e => e.kind == .bplane) = false →
     ∃ t, exec .swapTokenEntry s = .next t ∧ t.bd.active = s.bd.active + 1 ∧ t.bd.released = false ∧ t.bd.flight = s.bd.flight ++ [.swap o.id] ∧
       t.bd.planes = s.bd.planes ∧ t.ink = s.ink ∧ t.banks = s.banks) ∧
   (∀ (id : Nat) (l : List InFlight) (s : State), Live s → s.inkZeroing = false → s.bd.flight = .swap id :: l →
     exec .bswapComplete s = .next { s with bd := { s.bd with flight := l }, ops := s.ops.filter fun y => y.id != id }) ∧
   (∀ s : State, Live s → exec .planeRelease s = .next { s with bd := { s.bd with released := true } }) ∧
   (∀ (o : Op) (s : State), Live s → edgeOp s.ops = some o → o.kind = .brun → o.started = true → s.bd.entered ≤ s.bd.duty.toNat → s.inkZeroing = false →
     domRuns s dBoard = true → serviceHolds (earlier (portAdvance s o) o) (o.base + o.prog) = false →
     ∃ t sums, exec .aRowEntry s = .next t ∧ t.bd = { s.bd with entered := s.bd.entered + 1, flight := s.bd.flight ++ [.row o.id o.prog sums] } ∧
       sums.length = s.bd.planes[s.bd.active].pr.n ∧ t.ink = s.ink ∧ t.tiles = (portAdvance s o).tiles ∧ t.banks = s.banks ∧
       t.ops = (portAdvance s o).ops.map (fun y => if y.id = o.id then { y with prog := o.prog + 1 } else y) ∧
       (∀ j, j < s.bd.planes[s.bd.active].pr.n → sums[j]? =
         some (runEntry s o s.tiles[o.t].etype j, rowResult o.semi s.tiles[o.t] s.bd.planes[s.bd.active] o.prog j))) ∧
   (∀ s : State, Live s → ∃ d : Byte, exec .throttleWindowBoundary s = .next { s with bd := { s.bd with duty := d, entered := 0 } } ∧
     d.toNat = min s.c.bthrOs.toNat s.c.bthrHost.toNat) ∧
   (∀ (o : Op) (s : State), Live s → (s.ops.find? fun o => o.kind == .remap) = some o →
     ((earlier s o).any onBoard = true → exec .spareRemapApply s = .next s) ∧
     ((earlier s o).any onBoard = false →
       ∃ t, exec .spareRemapApply s = .next t ∧ t.ops = s.ops.filter (fun y => y.id != o.id) ∧ t.bd.planes = Vector.replicate 2 {} ∧
         t.bd.spareBoard = t.bd.spare ∧ (∀ k f, o.remap = [(k, f)] → t.bd.spare = s.bd.spare.set k.val (some f) k.isLt) ∧ t.ink = s.ink))) ∧
  (∀ (id m : Nat) (sums : List (Nat × Ink)) (chk : Option BoardCheck) (l : List InFlight) (o : Op) (s : State), Live s → s.bd.flight = .row id m sums :: l →
     (s.ops.find? fun o => o.id == id) = some o → (sums.map (·.1)).Nodup → (∀ p ∈ sums, p.1 < 1024) → spWf 0 s.ink = true →
     ∃ t, exec (.resultRowCombine chk) s = .next t ∧ t.bd.flight = l ∧ t.mem = s.mem ∧ t.tiles = s.tiles ∧ t.banks = s.banks ∧
       (NoInjection s →
         (∀ p ∈ sums, spGet 0 t.ink (1024 * (o.base + m) + p.1) =
           (if o.wr = true then p.2 else inkCombine o.semi (inkRead s o.semi (o.base + m) p.1) p.2)) ∧
         (∀ k, (∀ p ∈ sums, k ≠ 1024 * (o.base + m) + p.1) → spGet 0 t.ink k = spGet 0 s.ink k)) ∧
       (o.n ≤ o.combined + 1 → t.ops = s.ops.filter fun y => y.id != id) ∧
       (o.combined + 1 < o.n → t.ops = s.ops.map fun y => if y.id = id then { y with combined := y.combined + 1 } else y))

/-- R96, R119, R120, R126 to R128, R130, R131, R133, R154: BMODE selects the semiring; ICLR, and IDRAIN to a tile or to memory, are accepted with the
rows, the semiring and the conversion that they name, and wait for room; a vector drain converts its entries into the low bits of vd at once, and
waits while an earlier operation has its row still to write; none of them changes the inkwell, and a drain with SR advances the counter half of SRSEED
by its rows. Entries beyond the row are an undefined encoding; another bank's tile, an INCOMPLETE one and a failed check raise their exception. R119,
R83: an ICLR, or a vector or memory drain, whose rows reach beyond the last row raises tile-shape INKRANGE with the first row out of range, and
nothing changes. -/
def Obligations.InkwellInstructions : Prop :=
  (∀ s : State, let b := curBank s
     (∀ semi : BitVec 3, Ready (.bmode semi) s → ∃ b', exec (.bmode semi) s = .next (after s b') ∧
       b' = { b with bmode := semi.setWidth 64, pc := b.pc + BitVec.ofNat 64 (instrBytes (.bmode semi)), dirty := b'.dirty }) ∧
     (∀ gr gc : GReg, Ready (.iclr gr gc) s → domUse s dBoard = .ready →
       (rg b gc = 0 → exec (.iclr gr gc) s = .next (after s { b with pc := b.pc + BitVec.ofNat 64 (instrBytes (.iclr gr gc)) })) ∧
       (rg b gc ≠ 0 → inkBase b gr + (rg b gc).toNat ≤ inkRows s.var →
         (boardRoom s = false → exec (.iclr gr gc) s = .next { s with stall := some (.iclr gr gc) }) ∧
         (boardRoom s = true →
           ∃ t o, exec (.iclr gr gc) s = .next (after t { b with pc := b.pc + BitVec.ofNat 64 (instrBytes (.iclr gr gc)) }) ∧ accepted s t o ∧ o.kind = .iclr ∧
             o.base = fieldN b.ibase 12 0 + (rg b gr).toNat ∧ o.n = (rg b gc).toNat ∧ o.semi.toNat = fieldN b.bmode 2 0 ∧
             t = { s with ops := t.ops, nextOp := t.nextOp }))) ∧
     (∀ (gr : GReg) (k : TReg) (d : DrainOpts), let i : Instr := .idrainTile gr k d
       TileReady i s → domUse s dBoard = .ready →
       (¬ tileOwned s k → exec i s = .next (raise (notReady 2 k) s)) ∧
       (tileOwned s k → s.tiles[k].st = .incomplete → exec i s = .next (raise (notReady 1 k) s)) ∧
       (tileOwned s k → s.tiles[k].st ≠ .incomplete → ∀ e, drainTileFault s b gr k d = some e → e.code = 0x08 ∧ exec i s = .next (raise e s)) ∧
       (tileOwned s k → s.tiles[k].st ≠ .incomplete → drainTileFault s b gr k d = none →
         (boardRoom s = false → exec i s = .next { s with stall := some i }) ∧
         (boardRoom s = true →
           ∃ t o b', exec i s = .next (after t { b' with pc := b.pc + BitVec.ofNat 64 (instrBytes i) }) ∧ tileOnly s t ∧ otherTilesKept s t k ∧
             accepted s t o ∧ o.kind = .idrainT ∧ o.t = k ∧ o.base = inkBase b gr ∧ o.n = tileRows (accTile s k) / rowsPer (accTile s k).etype ∧ o.opts = d ∧
             o.srseed = b.srseed ∧ ((∀ x ∈ s.ops, x.left = false) → t.tiles[k].st = .pending) ∧ bit t.c.tdirty k.val = true ∧
             b' = { b with srseed := b'.srseed, dirty := b'.dirty } ∧ (d.sr = false → b' = b) ∧
             (d.sr = true → fieldN b'.srseed 31 0 = fieldN b.srseed 31 0 ∧ fieldN b'.srseed 63 32 = (fieldN b.srseed 63 32 + o.n) % 2 ^ 32)))) ∧
     (∀ (gr : GReg) (vd : VReg) (d : DrainOpts), let i : Instr := .idrainVector gr vd d
       Ready i s → domUse s dBoard = .ready → domUse s dVec = .ready →
       (drainFits s d = false → exec i s = .next (raise (undefExc i) s)) ∧
       (drainFits s d = true → inkBase b gr < inkRows s.var →
         (s.inkZeroing = true ∨ writeHolds s.ops (inkBase b gr) = true → exec i s = .next { s with stall := some i }) ∧
         (s.inkZeroing = false → writeHolds s.ops (inkBase b gr) = false →
           ∃ b' t, exec i s = .next (after t b') ∧ sampleOnly s t ∧
             b' = { b with v := b'.v, srseed := b'.srseed, pc := b.pc + BitVec.ofNat 64 (instrBytes i), dirty := b'.dirty, longs := b'.longs } ∧
             keepsV b b' [vd] ∧ (d.sr = false → b'.srseed = b.srseed) ∧
             (d.sr = true → fieldN b'.srseed 31 0 = fieldN b.srseed 31 0 ∧ fieldN b'.srseed 63 32 = (fieldN b.srseed 63 32 + 1) % 2 ^ 32) ∧
             let w := etypeBits d.otype
             let n := 64 * (d.nent.toNat + 1)
             (∀ j, j < n → velem w b'.v[vd] j = (drainEntry d.otype false (semiOf b) d (BitVec.ofNat 32 (fieldN b.srseed 31 0))
               (BitVec.ofNat 32 (fieldN b.srseed 63 32)) (64 * d.ecol.toNat + j) (inkRead s (semiOf b) (inkBase b gr) (64 * d.ecol.toNat + j))).code % 2 ^ w) ∧
             (∀ j, n * w ≤ j → bit b'.v[vd] j = bit b.v[vd] j)))) ∧
     (∀ (gr ga gb : GReg) (q : QNum) (d : DrainOpts), let i : Instr := .idrainMemory gr ga gb q d
       Ready i s → domUse s dBoard = .ready → domUse s dStream = .ready →
       (drainFits s d = false → exec i s = .next (raise (undefExc i) s)) ∧
       (drainFits s d = true → inkBase b gr + (fieldN (rg b gb) 44 32 + 1) ≤ inkRows s.var →
         (boardRoom s = false ∨ queueRoom s q = false → exec i s = .next { s with stall := some i }) ∧
         (boardRoom s = true → queueRoom s q = true →
           ∃ t o b', exec i s = .next (after t { b' with pc := b.pc + BitVec.ofNat 64 (instrBytes i) }) ∧
             accepted s t o ∧ o.kind = .idrainM ∧ o.q = q ∧ o.ga = rg b ga ∧ o.gb = ((rg b gb).setWidth 32).signExtend 64 ∧ o.base = inkBase b gr ∧
             o.n = fieldN (rg b gb) 44 32 + 1 ∧ o.opts = d ∧ o.srseed = b.srseed ∧ t = { s with ops := t.ops, nextOp := t.nextOp } ∧
             b' = { b with srseed := b'.srseed, dirty := b'.dirty } ∧ (d.sr = false → b' = b) ∧
             (d.sr = true → fieldN b'.srseed 31 0 = fieldN b.srseed 31 0 ∧ fieldN b'.srseed 63 32 = (fieldN b.srseed 63 32 + o.n) % 2 ^ 32))))) ∧
  (∀ (i : Instr) (gr : GReg) (n : Nat) (s : State), let b := curBank s
     Ready i s → domUse s dBoard = .ready →
     (∃ gc, i = .iclr gr gc ∧ n = (rg b gc).toNat ∧ n ≠ 0) ∨ (∃ vd d, i = .idrainVector gr vd d ∧ n = 1 ∧ domUse s dVec = .ready ∧ drainFits s d = true) ∨
       (∃ ga gb q d, i = .idrainMemory gr ga gb q d ∧ n = fieldN (rg b gb) 44 32 + 1 ∧ domUse s dStream = .ready ∧ drainFits s d = true) →
     inkRows s.var < inkBase b gr + n →
     exec i s = .next (raise
       { code := 0x08, sub := 5, addr := BitVec.ofNat 64 (max (fieldN b.ibase 12 0 + (rg b gr).toNat) (inkRows s.var) % 8192 * 65536) } s))

/-- R126, R128, R129, R131, R133, R137, R418: with nothing before it on its rows an ICLR leaves the identity of its semiring in every entry of its
rows and no other entry changed; a tile drain gives its tile the converted rows and leaves it READY, a memory drain leaves its queue once every row is
written and visible; both leave the inkwell as it was. Memory drains accepted before them issue first. -/
def Obligations.InkwellOperationsComplete : Prop :=
  (∀ (o : Op) (s s0 : State), Live s → (s.ops.find? fun o => o.kind == .iclr) = some o → portAdvance s o = s0 → serviceReady s0 o = true →
    (∀ i, i < o.n → serviceHolds (earlier s0 o) (o.base + i) = false) →
    ∃ t, exec .iclrComplete s = .next t ∧ t.ops = s0.ops.filter (fun y => y.id != o.id) ∧
      (NoInjection s → spWf 0 s.ink = true → ∀ r e, e < 1024 → spGet 0 t.ink (1024 * r + e) =
        if o.base ≤ r ∧ r < o.base + o.n ∧ e < boardB s.var then inkIdentity o.semi else spGet 0 s.ink (1024 * r + e)) ∧
      t = { s0 with ops := t.ops, ink := t.ink, inkBad := t.inkBad, err := t.err, c := { s0.c with errinj := t.c.errinj } }) ∧
  (∀ (k : TReg) (o : Op) (s s0 : State), Live s → workingOp s .idrainT k = some o → portAdvance s o = s0 → serviceReady s0 o = true →
    ∃ t, exec (.idrainTileComplete k) s = .next t ∧ otherTilesKept s0 t k ∧ t.ops = s0.ops.filter (fun y => y.id != o.id) ∧
      t.ink = s.ink ∧ t.mem = s0.mem ∧ t.vellum = s0.vellum ∧ t.banks = s.banks ∧
      ((∀ x ∈ s0.ops, x.id ≠ o.id → opWrites x k = false ∧ x.left = false) → t.tiles[k].st = .ready) ∧
      (NoInjection s → TilesCanonical s → let x := s.tiles[k]
        ∀ r, r < tileRows x →
          let cs := drainRow s x.etype x.mx o.semi o.opts o.srseed (o.base + r / rowsPer x.etype) (r / rowsPer x.etype)
            (64 * o.opts.ecol.toNat + r % rowsPer x.etype * tileElems x) (tileElems x)
          tileRow t.tiles[k] r = BitVec.ofNat 8192 ((BitVec.ofNat 8192 (packCodes (etypeBits x.etype) (cs.map (·.code)))).toNat % 2 ^ (8 * tileBytes x)) ∧
            (x.mx = true → tileScale t.tiles[k] r = keepScales (tileScales x) (drainScales o.opts (tileScales x) cs)))) ∧
  (∀ (q : QNum) (o : Op) (s : State), Live s → liveDrain s q = some o →
    (o.n ≤ o.prog → ∃ t, exec (.idrainMemoryComplete q) s = .next t ∧ t = { s with ops := t.ops, sq := t.sq } ∧ (queueHead s q = some o → ∀ x ∈ t.ops, x.id ≠ o.id)) ∧
    (o.prog < o.n → (∀ x ∈ s.ops, x.written = []) → exec (.idrainMemoryComplete q) s = .next s)) ∧
  (∀ s : State, Live s → s.inkZeroing = true → ∃ t, exec .inkwellZeroingComplete s = .next t ∧ t.inkZeroing = false ∧ t.ink = [] ∧ t.inkBad = [])

/-- R163, R165, R166, R174, R178: SMOVE is accepted on its queue with what it captures; an unaligned descriptor address raises data-alignment and a
full queue makes it wait; SQSTAT writes a word of the queue's state into gd, SQWAIT the status once the queue is empty or FAULTED; none touches
memory. R165, R176, R177: from ring 0 or 1, and from a ring that the record's ring admits, the four forms of SQCTL retire; on a queue that is not
FAULTED each only frees the record; on a FAULTED queue CLEAR has no effect, RESTART and RESTART AT free the record and let the stopped operation go on
from its progress or from the line given (one that stopped on its descriptor reads it again), ABANDON frees the record and abandons it; a stop that
was held is reported then. From another ring they raise privileged-register. -/
def Obligations.StreamInstructionsAndControl : Prop :=
  (∀ (q : QNum) (s : State), let b := curBank s
     domUse s dStream = .ready →
     (∀ ga : GReg, Ready (.smove q ga) s →
       ((rg b ga).toNat % 64 = 0 → queueRoom s q = true → ∃ t o, exec (.smove q ga) s =
           .next (after t { b with pc := b.pc + BitVec.ofNat 64 (instrBytes (.smove q ga)) }) ∧ accepted s t o ∧ o.kind = .smove ∧ o.q = q ∧ o.ga = rg b ga ∧
           o.desc = none ∧ o.started = false ∧ t = { s with ops := t.ops, nextOp := t.nextOp }) ∧
       ((rg b ga).toNat % 64 = 0 → queueRoom s q = false → exec (.smove q ga) s = .next { s with stall := some (.smove q ga) }) ∧
       ((rg b ga).toNat % 64 ≠ 0 → exec (.smove q ga) s = .next (raise { code := 0x04, acc := .read, addr := rg b ga } s))) ∧
     (∀ (gd : GReg) (w : BitVec 3), Ready (.sqstat gd q w) s → ∃ b', exec (.sqstat gd q w) s = .next (after s b') ∧ scalarOnly b b' ∧
       b'.g[gd] = sqWord s q w ∧ keepsG b b' [gd] ∧ b'.fl = b.fl ∧ b'.pc = b.pc + BitVec.ofNat 64 (instrBytes (.sqstat gd q w))) ∧
     (∀ gd : GReg, Ready (.sqwait gd q) s →
       (sqwaitEnds s q = true → ∃ b', exec (.sqwait gd q) s = .next (after s b') ∧ scalarOnly b b' ∧ b'.g[gd] = sqWord s q 0 ∧ keepsG b b' [gd] ∧
         b'.fl = b.fl ∧ b'.pc = b.pc + BitVec.ofNat 64 (instrBytes (.sqwait gd q))) ∧
       (sqwaitEnds s q = false → exec (.sqwait gd q) s = .next { s with stall := some (.sqwait gd q) }))) ∧
  (∀ (i : Instr) (a : SqAct) (q : QNum) (g : GReg) (s : State), let b := curBank s
     let b' : Bank := { b with pc := b.pc + BitVec.ofNat 64 (instrBytes i) }
     (i = .sqctlClear q g ∧ a = .clear ∨ i = .sqctlRestart q g ∧ a = .restart ∨ i = .sqctlRestartAt q g ∧ a = .restartAt ∨
       i = .sqctlAbandon q g ∧ a = .abandon) → Ready i s → domUse s dStream = .ready →
     (1 < (ringOf b).toNat ∨ (s.sq[q].recv = true ∧ fieldN s.sq[q].w1 13 12 < (ringOf b).toNat) → exec i s = .next (raise { code := 0x02 } s)) ∧
     ((ringOf b).toNat ≤ 1 → (s.sq[q].recv = true → (ringOf b).toNat ≤ fieldN s.sq[q].w1 13 12) →
       (s.sq[q].faulted = none → s.sq[q].recv = false → exec i s = .next (after s b')) ∧
       (s.sq[q].faulted = none → s.sq[q].recv = true → unreported s q = none →
         exec i s = .next (after { s with sq := s.sq.set q.val { s.sq[q] with recv := false } q.isLt } b')) ∧
       (∀ o st, unreported s q = some (o, st) → (s.sq[q].faulted = none ∧ s.sq[q].recv = true) ∨ (∃ id, s.sq[q].faulted = some id ∧ id ≠ o.id ∧ a ≠ .clear) →
         ∃ t, exec i s = .next (after t b') ∧ t.sq[q].recv = true ∧ fieldN t.sq[q].w1 4 0 = st.cause.toNat ∧ t.sq[q].w2 = st.addr ∧ t.sq[q].w3 = o.ga ∧
           t.sq[q].w4 = st.phys ∧ isPending t 0x23 = true) ∧
       (∀ id, s.sq[q].faulted = some id → a = .clear → exec i s = .next (after s b')) ∧
       (∀ id, s.sq[q].faulted = some id → unreported s q = none →
         (a = .restart ∨ a = .restartAt → let line := if a = .restartAt then some (fieldN (rg b g) 32 0) else none
           ∃ t, exec i s = .next (after t b') ∧ t.sq[q].recv = false ∧ t.sq[q].faulted = none ∧
           t = { s with sq := t.sq, ops := t.ops } ∧ t.ops = (s.ops.map fun x => if x.id = id then resumeOp line x else x) ∧
           ∀ x ∈ s.ops, ∀ st, x.stop = some st → let y := resumeOp line x
             y.stop = none ∧ y.out = [] ∧ y.ioff = 0 ∧
             (st.early = true → y.desc = none ∧ y.prog = 0 ∧ y.port = line.getD 0) ∧
             (st.early = false → y.desc = x.desc ∧ y.n = x.n ∧ y.prog = (match line with | some l => min l x.n | none => x.prog) ∧ y.iline = y.prog)) ∧
         (a = .abandon → ∃ t, exec i s = .next (after t b') ∧ t.sq[q].recv = false ∧ t.sq[q].faulted = none ∧ t = { s with sq := t.sq, ops := t.ops } ∧
           ∀ x ∈ t.ops, x.id = id → x.abandoned = true ∧ x.stop = none))))

/-- R164, R166, R167, R169 to R177: the descriptor of a queue's first unread SMOVE is read and taken or stops the operation; operations start in
order; a request, issued with those before it, moves the next part of a line; an access that meets a cause writes the queue's record while it is free;
an SMOVE at the head of its queue that is complete or abandoned writes its record, counts, and signals as its descriptor asks. -/
def Obligations.StreamEngineEvents : Prop :=
  (∀ (q : QNum) (o : Op) (s : State), Live s → descNext s q = some o →
    (∀ (s1 : State) (bs : List Byte), streamRead o.cap false (piecesOf o.ga 64) s = .done s1 bs →
      let w : Vector W64 8 := Vector.ofFn fun i => ofBytes 64 ((bs.drop (8 * i.val)).take 8)
      (descCause s1 o w = none → ∃ t, exec (.streamDescriptorRead q) s = .next t ∧ t = { s1 with ops := t.ops } ∧
        t.ops = s1.ops.map fun x => if x.id = o.id then takeDesc x w else x) ∧
      (∀ c a, descCause s1 o w = some (c, a) → s1.sq[q].recv = false → unreported s1 q = none → onlyOp s1 o → o.out = [] → o.written = [] →
        ∃ t, exec (.streamDescriptorRead q) s = .next t ∧ streamStopped s1 t q o c a 0)) ∧
    (∀ (s1 : State) (c : BitVec 5) (va pa : W64), streamRead o.cap false (piecesOf o.ga 64) s = .stop s1 c va pa → s1.sq[q].recv = false → unreported s1 q = none →
      onlyOp s1 o → o.out = [] → o.written = [] → ∃ t, exec (.streamDescriptorRead q) s = .next t ∧ streamStopped s1 t q o c o.ga pa) ∧
    (∀ s1 : State, streamRead o.cap false (piecesOf o.ga 64) s = .wait s1 → exec (.streamDescriptorRead q) s = .next s1)) ∧
  (∀ (q : QNum) (o : Op) (s : State), Live s → (firstOp s q fun o => !o.started && !o.done && !o.abandoned) = some o → s.sq[q].faulted = none → o.stop = none →
    o.kind ≠ .smove ∨ o.desc.isSome = true → mayWork s o = true →
    (∀ w, o.desc = some w → (descOf w).ord = true → ∀ e ∈ queueOps s q, e.qseq < o.qseq → e.done = true ∨ e.abandoned = true ∨ (e.kind = .smove ∧ smoveMoved e = true)) →
    exec (.streamOpStart q) s = .next { s with ops := s.ops.map fun x => if x.id = o.id then { x with started := true } else x }) ∧
  (∀ (q : QNum) (line l : Nat) (o o1 : Op) (s s1 : State), Live s → lineAt (movers s q) line = some (o, l) → isLineMoved o l = false →
    issueTo (issuerOf o) o.id l (movedOf o l) (poolSize + 1) s = s1 → s1.ops.find? (·.id == o.id) = some o1 →
    (outOf o1 l = 0 → exec (.streamRequestComplete q line) s = .next s1) ∧
    (outOf o1 l ≠ 0 → s1.banks = s.banks ∧
      (∀ w, o1.desc = some w → let d := descOf w
        let off := movedOf o1 l
        let k := partLen d l off
        (d.srcInk || d.dstInk) = true →
        (domUse s1 dBoard = .off → exec (.streamRequestComplete q line) s =
          .next (stopLine s1 o1 l 0x08 0 0 d.dstInk (BitVec.ofNat 64 (descRow d + l % d.ny)) 0)) ∧
        (domUse s1 dBoard = .asleep → exec (.streamRequestComplete q line) s = .next (wakeRequest s1 dBoard)) ∧
        (domUse s1 dBoard = .ready → s1.inkZeroing = true → exec (.streamRequestComplete q line) s = .next s1) ∧
        (domUse s1 dBoard = .ready → s1.inkZeroing = false → ∀ (s2 : State) (bs : List Byte) (o2 : Op), smoveRead s1 o1 d l off k = (.done s2 bs, o2) →
          exec (.streamRequestComplete q line) s = .next (smoveWrite s2 o2 d l off bs))) ∧
      (∀ (w : Vector W64 8) (s2 s3 : State) (bs : List Byte) (fab : Bool), o1.desc = some w → let d := descOf w
        let off := movedOf o1 l
        let k := partLen d l off
        (d.srcInk || d.dstInk) = false → streamRead o1.cap true (piecesOf (lineSrc d l off) k) s1 = .done s2 bs →
        (∀ j, j < k → overlaps d (lineSrc d l off + BitVec.ofNat 64 j) (lineDst d l off + BitVec.ofNat 64 j) = false) →
        streamWrite o1.cap true (fun _ => false) bs (piecesOf (lineDst d l off) bs.length) s2 = .done s3 fab →
        ∃ t, exec (.streamRequestComplete q line) s = .next t ∧ t.mem = s3.mem ∧ t.vellum = s3.vellum ∧ t.ink = s.ink ∧ t.banks = s.banks ∧
          (opLive o1 = true → onlyOp s1 o1 → noneWritten s1 → fab = false → ∃ x ∈ t.ops, x.id = o.id ∧
            (d.xlen ≤ off + k → x.prog = (lineDone o1 l).prog) ∧ (off + k < d.xlen → x.prog = o1.prog ∧ movedOf x l = off + k))) ∧
      (∀ (s3 : State) (fab : Bool), o1.desc = none → let bs := carryOf o1 l
        let va := o1.ga + o1.gb * BitVec.ofNat 64 l + BitVec.ofNat 64 (movedOf o1 l)
        let k := min (bs.length - movedOf o1 l) (64 - va.toNat % 64)
        streamWrite o1.cap true (fun _ => false) ((bs.drop (movedOf o1 l)).take k) (piecesOf va k) s1 = .done s3 fab →
        ∃ t, exec (.streamRequestComplete q line) s = .next t ∧ t.mem = s3.mem ∧ t.vellum = s3.vellum ∧ t.banks = s.banks))) ∧
  (∀ (q : QNum) (c : BitVec 5) (detail : Byte) (va pa : W64) (write : Bool) (o : Op) (s : State), Live s →
    (accessCause c = false → exec (.streamFault q c detail va pa write) s = .next s) ∧
    (accessCause c = true → s.sq[q].recv = false → unreported s q = none → onlyOp s o → o.written = [] → (∀ x ∈ o.out, ∀ y ∈ o.out, x.1 = y.1) →
      let post := (queueHead s q).filter fun o => mayPost o && (smoveRecord o).any (·.1 == va)
      let read := (descNext s q).filter fun o => decide ((va - o.ga).toNat < 64)
      (post = some o → o.out = [] → ∃ t, exec (.streamFault q c detail va pa write) s = .next t ∧ streamStopped s t q o c va pa) ∧
      (post = none → read = some o → o.out = [] → ∃ t, exec (.streamFault q c detail va pa write) s = .next t ∧ streamStopped s t q o c o.ga pa) ∧
      (post = none → read = none → (movers s q).head? = some o → o.stop = none →
        ∃ t, exec (.streamFault q c detail va pa write) s = .next t ∧ streamStopped s t q o c va pa))) ∧
  (∀ (q : QNum) (o : Op) (s : State), Live s → queueHead s q = some o →
    (mayPost o = false → (∀ x ∈ s.ops, x.written = []) → exec (.smoveComplete q) s = .next s) ∧
    (mayPost o = true → (∀ x ∈ s.ops, x.id ≠ o.id → x.done = false ∧ x.abandoned = false) → ∀ s1 : State,
      (smoveRecord o = none ∧ s1 = s) ∨ (∃ a x f, smoveRecord o = some (a, x) ∧ streamWrite o.cap false (fun _ => false) (toBytes 8 x) [⟨a, 0, 8⟩] s = .done s1 f) →
      ∃ t, exec (.smoveComplete q) s = .next t ∧ t.ops = s1.ops.filter (fun x => x.id != o.id) ∧
        t.sq = s1.sq.set q.val { s1.sq[q] with done := s1.sq[q].done + 1 } q.isLt ∧ t.mem = s1.mem ∧ t.vellum = s1.vellum ∧
        ((∀ w, o.desc = some w → (descOf w).irq = false) → t = { s1 with ops := t.ops, sq := t.sq }) ∧
        (∀ w, o.desc = some w → (descOf w).irq = true → isPending t 0x24 = true ∧ (s1.banks[o.cap.bank].st ≠ .free → t.banks[o.cap.bank].sev = true))))

/-- R165, R186, R187, R192, R194: SLAUNCH on an enabled ring publishes gn descriptors (none for 0), keeps the bank and TTB of the launch, and waits
while the slots are not free; a disabled ring or more descriptors than slots is undefined; SWCTL.ABORT abandons every unposted descriptor of its ring;
clearing RECV frees the scribe's record and admits a held report; from rings 2 and 3 both raise privileged-register. -/
def Obligations.ScribeLaunchAndControl : Prop :=
  ∀ s : State, let b := curBank s
    (∀ (w : RingNum) (gn : GReg), Ready (.slaunch w gn) s → domUse s dStream = .ready →
      let r := s.rings[w]
      let b' : Bank := { b with pc := b.pc + BitVec.ofNat 64 (instrBytes (.slaunch w gn)) }
      (r.en = false ∨ 2 ^ r.sizelog2.toNat < (rg b gn).toNat → exec (.slaunch w gn) s = .next (raise (undefExc (.slaunch w gn)) s)) ∧
      (r.en = true → rg b gn = 0 → exec (.slaunch w gn) s = .next (after s b')) ∧
      (r.en = true → rg b gn ≠ 0 → (r.tail - r.done).toNat + (rg b gn).toNat ≤ 2 ^ r.sizelog2.toNat → (r.done = r.tail ∨ (fieldN r.capTtb 61 0 = fieldN b.ttb 61 0 ∧ r.capBank = s.c.cur)) →
        exec (.slaunch w gn) s = .next (after { s with rings := s.rings.set w.val { r with capTtb := b.ttb, capBank := s.c.cur, tail := r.tail + (rg b gn).setWidth 16 } w.isLt } b')) ∧
      (r.en = true → rg b gn ≠ 0 → (rg b gn).toNat ≤ 2 ^ r.sizelog2.toNat →
        (2 ^ r.sizelog2.toNat < (r.tail - r.done).toNat + (rg b gn).toNat ∨ (r.done ≠ r.tail ∧ (fieldN r.capTtb 61 0 ≠ fieldN b.ttb 61 0 ∨ r.capBank ≠ s.c.cur))) →
        exec (.slaunch w gn) s = .next { s with stall := some (.slaunch w gn) })) ∧
    (∀ (w : RingNum) (v : W64), Ready (.swctlAbort w v) s →
      (1 < (ringOf b).toNat → exec (.swctlAbort w v) s = .next (raise { code := 0x02, addr := BitVec.ofNat 64 (0x601 + 4 * w.val) } s)) ∧
      ((ringOf b).toNat ≤ 1 →
        ∃ t, exec (.swctlAbort w v) s = .next (after t { b with pc := b.pc + 4 }) ∧ t.rings[w].en = bit v 0 ∧ t.rings[w].done = s.rings[w].done ∧
        t.rings[w].tail = s.rings[w].tail ∧ t = { s with rings := t.rings, placed := t.placed, scribes := t.scribes } ∧
        (s.rings[w].done ≠ s.rings[w].tail → t.rings[w].head = s.rings[w].tail ∧
          (∀ p ∈ t.placed, p.wring = w → p.abandoned = true) ∧
          ∀ k : ScribeNum, ∀ e ∈ t.scribes[k].threads, ∀ x, e.2 = some x → x.wring ≠ w))) ∧
    (∀ k : ScribeNum, Ready (.scrfltRecvClear k) s →
      (scribeCount s.var ≤ k.val → exec (.scrfltRecvClear k) s = .next (raise (undefExc (.scrfltRecvClear k)) s)) ∧
      (k.val < scribeCount s.var → 1 < (ringOf b).toNat →
        exec (.scrfltRecvClear k) s = .next (raise { code := 0x02, addr := BitVec.ofNat 64 (0x680 + 4 * k.val) } s)) ∧
      (k.val < scribeCount s.var → (ringOf b).toNat ≤ 1 →
        (s.scribes[k].waiting = [] →
          exec (.scrfltRecvClear k) s = .next (after { s with scribes := s.scribes.set k.val { s.scribes[k] with recv := false, refusal := false } k.isLt }
            { b with pc := b.pc + 4 })) ∧
        (∀ r l, s.scribes[k].waiting = r :: l →
          ∃ t, exec (.scrfltRecvClear k) s = .next (after t { b with pc := b.pc + 4 }) ∧ t.scribes[k].recv = true ∧ t.scribes[k].waiting = l ∧
            fieldN t.scribes[k].f0 4 0 = r.cause.toNat ∧ t.scribes[k].f1 = r.pc ∧ t.scribes[k].f2 = r.addr ∧ t.scribes[k].f3 = r.phys ∧
            isPending t 0x25 = true)))

/-- R182, R183, R188 to R190, R192, R193: the dispatcher serves the enabled rings in turn: a legal descriptor is placed on the scribe with the most
free threads, another is refused with its cause; its threads start with the registers that R183 and R188 give them; a scribe issues from the first
ready thread behind the last; a cause stops its thread and is reported while the record is free; a complete descriptor posts in order, with record,
interrupt and event as it asks. -/
def Obligations.ScribeEvents : Prop :=
  (∀ (w : RingNum) (s s1 : State) (d : Vector W64 8) (bad : Bool), Live s → nextRing s = some w → domRuns s dVellum = true → s.vellumZeroing = false →
    fetchDescriptor { s with lastRing := w } w = s1 → s1.rings[w].fetched = some (d, bad) →
    let r := s1.rings[w]
    let may := (descScribes s1 r d).filter fun k => domUse s1 (dScribe k) != .off
    let next := s1.rings.set w.val { r with head := r.head + 1, fetched := none } w.isLt
    (bad = false → descOk s1 r d = true → bit d[0] 7 = true → r.done ≠ r.head → exec (.descriptorDispatch w) s = .next s1) ∧
    (∀ k, bad = false → descOk s1 r d = true → (bit d[0] 7 = true → r.done = r.head) → mostFree s1 may = some k →
      (freeThreads s1 k < descNt d → exec (.descriptorDispatch w) s = .next s1) ∧
      (descNt d ≤ freeThreads s1 k → domUse s1 (dScribe k) = .asleep → exec (.descriptorDispatch w) s = .next (wakeRequest s1 (dScribe k))) ∧
      (descNt d ≤ freeThreads s1 k → domUse s1 (dScribe k) = .ready → exec (.descriptorDispatch w) s = .next { s1 with
        rings := next, placed := s1.placed ++ [{ wring := w, index := r.head, scribe := k, words := d, next := 0, nt := descNt d }] })) ∧
    (∀ c : BitVec 5, (bad = true ∧ c = 0x07) ∨ (bad = false ∧ descOk s1 r d = false ∧ c = 0x09) ∨
        (bad = false ∧ descOk s1 r d = true ∧ (bit d[0] 7 = true → r.done = r.head) ∧ mostFree s1 may = none ∧ c = 0x08) →
      let k := (mostFree s1 (descScribes s1 r d)).getD 0
      s1.scribes[k].recv = false → s1.scribes[k].waiting = [] →
      ∃ t, exec (.descriptorDispatch w) s = .next t ∧ t.rings = next ∧ t.scribes[k].recv = true ∧ fieldN t.scribes[k].f0 4 0 = c.toNat ∧ bit t.scribes[k].f0 15 = true ∧
        isPending t 0x25 = true ∧ t.mem = s1.mem ∧ t.banks = s.banks)) ∧
  (∀ (k : ScribeNum) (p : Placed) (j : Fin 128) (s : State), Live s → domRuns s (dScribe k) = true → (s.placed.find? fun p => p.scribe == k && p.next < p.nt) = some p →
    ((List.finRange 128).find? fun t => (threadOf s k t).isNone) = some j → spWf none s.scribes[k].threads = true →
    ∃ t x, exec (.threadStart k) s = .next t ∧ threadOf t k j = some x ∧ x.wring = p.wring ∧ x.dindex = p.index ∧ x.stopped = false ∧
      x.regs.pc = p.words[1] ∧ x.regs.g[0] = BitVec.ofNat 64 p.next ∧ x.regs.g[1] = p.words[3] ∧ x.regs.g[2] = p.words[4] ∧ x.regs.g[3] = p.words[5] ∧
      x.regs.g[4] = BitVec.ofNat 64 p.nt ∧ flRing x.regs.fl = 3 ∧ t = { s with scribes := t.scribes, placed := t.placed }) ∧
  (∀ (k : ScribeNum) (j : Fin 128) (l1 l2 : List (Fin 128)) (x : Thread) (s s1 : State), Live s → domRuns s (dScribe k) = true →
    issueOrder s.scribes[k] = l1 ++ j :: l2 → (∀ i ∈ l1, ∀ y, threadOf s k i = some y → y.stopped = true) →
    threadOf s k j = some x → x.stopped = false → threadIssue k j x s = .yes s1 →
    exec (.threadIssue k) s = .next { s1 with scribes := s1.scribes.set k.val { s1.scribes[k] with last := j } k.isLt }) ∧
  (∀ (k : ScribeNum) (j : Fin 128) (x : Thread) (c : BitVec 5) (va pa : W64) (s : State), Live s → threadOf s k j = some x → x.stopped = false →
    spWf none s.scribes[k].threads = true →
    (c = 3 ∨ c = 5 ∨ c = 6 ∨ c = 7 ∨ c = 0x13 →
      (s.scribes[k].recv = false → s.scribes[k].waiting = [] → ∃ t, exec (.scribeFault k j c va pa) s = .next t ∧ t.scribes[k].recv = true ∧
        fieldN t.scribes[k].f0 4 0 = c.toNat ∧ fieldN t.scribes[k].f0 14 8 = j.val ∧ t.scribes[k].f1 = x.regs.pc ∧ t.scribes[k].f2 = va ∧
        t.scribes[k].f3 = (if c = 3 then 0 else pa) ∧ threadOf t k j = none ∧ isPending t 0x25 = true ∧ t.mem = s.mem ∧ t.banks = s.banks) ∧
      (s.scribes[k].recv = true → ∃ t, exec (.scribeFault k j c va pa) s = .next t ∧ t = { s with scribes := t.scribes } ∧
        threadOf t k j = some { x with stopped := true } ∧ t.scribes[k].f0 = s.scribes[k].f0 ∧ t.scribes[k].waiting = s.scribes[k].waiting ++
          [⟨c, some j, x.wring, x.dindex, x.regs.pc, va, (if c = 3 then 0 else pa), false⟩])) ∧
    (limitOf s x ≠ 0 → s.scribes[k].recv = false → s.scribes[k].waiting = [] →
      ∃ t, exec (.scribeLimitExpiry k j) s = .next t ∧ t.scribes[k].recv = true ∧ fieldN t.scribes[k].f0 4 0 = 0x12 ∧
      t.scribes[k].f1 = x.regs.pc ∧ threadOf t k j = none ∧ isPending t 0x25 = true) ∧
    (limitOf s x = 0 → exec (.scribeLimitExpiry k j) s = .next s)) ∧
  (∀ (w : RingNum) (p : Placed) (s : State), Live s → domRuns s dVellum = true →
    (s.placed.find? fun p => p.wring == w && p.index == s.rings[w].done && descComplete s p) = some p →
    let evt := bit p.words[0] 8 = true ∧ p.refused = false
    let irq := bit p.words[0] 9 = true ∧ p.refused = false
    (evt ∨ irq → writesVisible s .scribe = false → exec (.scribeDescriptorPost w) s = .next (askVisible s .scribe)) ∧
    (∀ s1 : State, (¬ evt ∧ s1 = s) ∨ (evt ∧ storeBytes (.scribe p.scribe 0) { threadRegs s.rings[w] p.words 0 p.nt with pc := 0 } p.words[6] 8 false
        (toBytes 8 (place 64 (descStatus p) 56 ||| (p.words[7] &&& 0x00FFFFFFFFFFFFFF))) s = .done s1) →
      (evt ∨ irq → writesVisible s .scribe = true) →
      ∃ t, exec (.scribeDescriptorPost w) s = .next t ∧ t.rings = s.rings.set w.val { s.rings[w] with done := s.rings[w].done + 1 } w.isLt ∧
        t.placed = s.placed.filter (fun x => !(x.wring == w && x.index == p.index)) ∧ t.mem = s1.mem ∧ t.vellum = s1.vellum ∧
        (¬ irq → t.banks = s.banks) ∧ (irq → isPending t 0x26 = true ∧
          (s.banks[s.rings[w].capBank].st ≠ .free → t.banks[s.rings[w].capBank].bev = true))))

/-- R461, R462, R35, R28: an integer vector instruction writes the elements of vd that VL and its mask select, each with its operation on the elements
of va and vb, and a compare the bits of md; every other element, register, bit of a mask and flag is as it was. With VEC off they are undefined; with
VEC asleep they wake it and wait. -/
def Obligations.IntegerVectorResults : Prop :=
  (∀ (i : Instr) (f : VInt) (vd va vb : VReg) (mk : Option MReg) (wc : BitVec 2) (s : State), vintForm i = some (f, vd, va, vb, mk, wc) → Ready i s →
    let b := curBank s
    (domUse s dVec = .ready → ∃ b', exec i s = .next (after s b') ∧ vregsOnly b b' ∧ keepsV b b' [vd] ∧ b'.pc = b.pc + 4 ∧
      elementsAre (wI wc) b.v[vd] b'.v[vd] (elementActs b mk (wI wc))
        fun j => (vintBits f (BitVec.ofNat (wI wc) (velem (wI wc) b.v[va] j)) (BitVec.ofNat (wI wc) (velem (wI wc) b.v[vb] j))).toNat) ∧
    (domUse s dVec = .off → exec i s = .next (raise (undefExc i) s)) ∧
    (domUse s dVec = .asleep → exec i s = .next { wakeRequest s dVec with stall := some i })) ∧
  (∀ (i : Instr) (f : VCmp) (md : MReg) (va vb : VReg) (mk : Option MReg) (wc : BitVec 2) (s : State), vcmpForm i = some (f, md, va, vb, mk, wc) → VecReady i s →
    let b := curBank s
    ∃ b', exec i s = .next (after s b') ∧ b' = { b with m := b'.m, pc := b.pc + 4, dirty := b'.dirty } ∧ (∀ k : MReg, k ≠ md → b'.m[k] = b.m[k]) ∧
      ∀ j, (elementActs b mk (wI wc) j → bit b'.m[md] j =
          vcmpBits f (BitVec.ofNat (wI wc) (velem (wI wc) b.v[va] j)) (BitVec.ofNat (wI wc) (velem (wI wc) b.v[vb] j))) ∧
        (¬ elementActs b mk (wI wc) j → bit b'.m[md] j = bit b.m[md] j)) ∧
  (∀ (vd va : VReg) (mk : Option MReg) (wc : BitVec 2) (s : State), VecReady (.vradd vd va mk wc) s →
    let b := curBank s
    ∃ b' x, exec (.vradd vd va mk wc) s = .next (after s b') ∧ b' = { b with pc := b.pc + 4, dirty := b'.dirty, longs := b.longs ++ [.v vd x] } ∧
      elementsAre (wI wc) b.v[vd] x (· = 0) fun _ => (((activeList b mk (min (fieldN b.vl 11 0) (16384 / wI wc))).map (velem (wI wc) b.v[va])).sum))

/-- R156, R157, R202, R461, R462: a floating-point vector instruction writes the selected elements of vd and adds its sticky flags to VFST; VFDIV,
VFSQRT and the reductions leave vd on its way (LONG_OP_RESULT brings it), the reductions in element 0 alone; a compare writes bits of md. FL and every
other register are as they were. R36, R156, R462: in FP16, FP32 and BF16 a NaN operand of an addition, product, quotient, root, fused product, minimum
or maximum gives the canonical quiet NaN, without NV unless one signals; the five attributes round a count of quanta up or down as IEEE 754 defines
them. -/
def Obligations.FloatingVectorResults : Prop :=
  ((∀ (i : Instr) (f : VFp) (vd va vb : VReg) (mk : Option MReg) (wc : BitVec 2) (s : State), vfpForm i = some (f, vd, va, vb, mk, wc) → VecReady i s →
     let b := curBank s
     let w := wF wc
     let r := fun j => vfpResult f (wEtype wc) (rmOf b.vfst) (velem w b.v[va] j) (velem w b.v[vb] j) (velem w b.v[vd] j)
     let fl := (allFlags ((activeList b mk (min (fieldN b.vl 11 0) (16384 / w))).map fun j => (r j).2)).apply b.vfst
     ∃ b' x, exec i s = .next (after s b') ∧ b'.vfst = fl ∧ elementsAre w b.v[vd] x (elementActs b mk w) (fun j => (r j).1) ∧
       (f = .div ∨ f = .sqrt → b' = { b with vfst := fl, pc := b.pc + 4, dirty := b'.dirty, longs := b.longs ++ [.v vd x] }) ∧
       (f ≠ .div → f ≠ .sqrt → b' = { b with v := b'.v, vfst := fl, pc := b.pc + 4, dirty := b'.dirty } ∧ b'.v[vd] = x ∧ keepsV b b' [vd])) ∧
   (∀ (i : Instr) (k : Nat) (md : MReg) (va vb : VReg) (mk : Option MReg) (wc : BitVec 2) (s : State), vfcmpForm i = some (k, md, va, vb, mk, wc) → VecReady i s →
     let b := curBank s
     let w := wF wc
     let r := fun j => fCmp k (wEtype wc) (velem w b.v[va] j) (velem w b.v[vb] j)
     let fl := (allFlags ((activeList b mk (min (fieldN b.vl 11 0) (16384 / w))).map fun j => (r j).2)).apply b.vfst
     ∃ b', exec i s = .next (after s b') ∧ b' = { b with m := b'.m, vfst := fl, pc := b.pc + 4, dirty := b'.dirty } ∧ (∀ k : MReg, k ≠ md → b'.m[k] = b.m[k]) ∧
       ∀ j, (elementActs b mk w j → bit b'.m[md] j = (r j).1) ∧ (¬ elementActs b mk w j → bit b'.m[md] j = bit b.m[md] j)) ∧
   (∀ (i : Instr) (f : VRed) (vd va : VReg) (mk : Option MReg) (wc : BitVec 2) (s : State), vredForm i = some (f, vd, va, mk, wc) → VecReady i s →
     let b := curBank s
     let w := wF wc
     let ys := (activeList b mk (min (fieldN b.vl 11 0) (16384 / w))).map (velem w b.v[va])
     ∃ b' x, exec i s = .next (after s b') ∧ b' = { b with vfst := b'.vfst, pc := b.pc + 4, dirty := b'.dirty, longs := b.longs ++ [.v vd x] } ∧
       (∀ i, w ≤ i → bit x i = bit b.v[vd] i) ∧
       (ys = [] → velem w x 0 = redEmpty f (wEtype wc) ∧ b'.vfst = b.vfst) ∧
       (∀ y, ys = [y] → velem w x 0 = (redOne f (wEtype wc) y).1 % 2 ^ w ∧ b'.vfst = (redOne f (wEtype wc) y).2.apply b.vfst) ∧
       (2 ≤ ys.length → let r := reduceTree (redStep f (wEtype wc) (rmOf b.vfst)) ys {} 16
         velem w x 0 = r.1.getD 0 % 2 ^ w ∧ b'.vfst = r.2.apply b.vfst) ∧
       (∀ y z, ys = [y, z] → velem w x 0 = (redStep f (wEtype wc) (rmOf b.vfst) y z).1 % 2 ^ w ∧ b'.vfst = (redStep f (wEtype wc) (rmOf b.vfst) y z).2.apply b.vfst)) ∧
   (∀ (vd va : VReg) (dt st : BitVec 4) (sat : Bool) (mk : Option MReg) (s : State), VecReady (.vcvt vd va dt st sat mk) s →
     let b := curBank s
     let r := fun j => cvtOne dt st sat (rmOf b.vfst) (velem (etypeBits st) b.v[va] j)
     let n := min (fieldN b.vl 11 0) (16384 / max (max (etypeBits st) (etypeBits dt)) 8)
     ∃ b', exec (.vcvt vd va dt st sat mk) s = .next (after s b') ∧ keepsV b b' [vd] ∧
       b' = { b with v := b'.v, vfst := (allFlags ((activeList b mk n).map fun j => (r j).2)).apply b.vfst, pc := b.pc + 4, dirty := b'.dirty } ∧
       elementsAre (etypeBits dt) b.v[vd] b'.v[vd] (fun j => j < n ∧ ∀ m, mk = some m → bit b.m[m] j = true) fun j => (r j).1)) ∧
  ((∀ (f : VFp) (wc : BitVec 2) (rm : Rm) (x y z : Nat), wc ≠ 0 → let e := wEtype wc
     let used := match f with | .sqrt => [x] | .fma | .fnma => [x, y, z] | _ => [x, y]
     (∃ c ∈ used, fv e c = .nan) → vfpResult f e rm x y z = ((if wc = 1 then 0x7E00 else if wc = 2 then 0x7FC00000 else 0x7FC0), { nv := used.any (isSNaN e) })) ∧
   (∀ (rm : Rm) (neg : Bool) (m : Nat) (x qe : Int), let n := roundQ rm neg m x qe
     (qe ≤ x → n = m * 2 ^ (x - qe).toNat) ∧
     (x < qe → let d := 2 ^ (qe - x).toNat
       (rm = .rtz → n = m / d) ∧
       (rm = .rup → n = if neg then m / d else (m + d - 1) / d) ∧
       (rm = .rdn → n = if neg then (m + d - 1) / d else m / d) ∧
       (rm = .rna → n = (2 * m + d) / (2 * d)) ∧
       (rm = .rne → 2 * m ≤ 2 * n * d + d ∧ 2 * n * d ≤ 2 * m + d ∧ (2 * m = 2 * n * d + d ∨ 2 * n * d = 2 * m + d → n % 2 = 0)))))

/-- R35, R45, R208, R225, R464, R465: a vector load writes the selected elements of v from memory and a vector store puts those of v into the store
buffer (of 33 lines the last once the first has drained; in ruled mode they are performed at once), both with the base register updated in the post-
increment and pre-decrement modes; the element moves and the mask operations write their one destination. Nothing else changes. -/
def Obligations.VectorMovesMasksAndMemory : Prop :=
  (∀ (v : VReg) (a : VAddr) (mk : Option MReg) (wc : BitVec 2) (s s1 : State) (l : List Phys), VecReady (.vload v a mk wc) s →
    let b := curBank s
    let na := min (fieldN b.vl 11 0) (16384 / wI wc)
    let n := na * wI wc / 8
    let va := vaddr b n a
    let ps := activePieces va n (wI wc / 8) (activeList b mk na)
    prepare .core .load b va (wI wc / 8) ps s = (s1, .inr l) → loadFree s1 n false l →
    ∃ b' s2, exec (.vload v a mk wc) s = .next (after s2 b') ∧ accessOnly s s2 ∧ s2.ca.sb = s.ca.sb ∧ vecBaseDone n a b b' ∧ keepsV b b' [v] ∧
      b' = { b with g := b'.g, v := b'.v, pc := b'.pc, dirty := b'.dirty, longs := b'.longs } ∧
      (∀ j, ¬ elementActs b mk (wI wc) j → ∀ i, wI wc * j ≤ i → i < wI wc * j + wI wc → bit b'.v[v] i = bit b.v[v] i) ∧
      (∀ (p : Phys) (k : Nat), p ∈ l → k < p.len → elementActs b mk (wI wc) ((p.off + k) / (wI wc / 8)) →
        velem 8 b'.v[v] (p.off + k) = (readByteOf .core s1 p.ty (p.pa + k)).toNat)) ∧
  (∀ (i : Instr) (ak : Ak) (v : VReg) (a : VAddr) (mk : Option MReg) (wc : BitVec 2) (s s1 : State) (e : Exc), VecReady i s → s.ca.sbLast = none →
    (i = .vload v a mk wc ∧ ak = .load) ∨ (i = .vstore v a mk wc ∧ ak = .store) →
    let b := curBank s
    let na := min (fieldN b.vl 11 0) (16384 / wI wc)
    let n := na * wI wc / 8
    let va := vaddr b n a
    prepare .core ak b va (wI wc / 8) (activePieces va n (wI wc / 8) (activeList b mk na)) s = (s1, .inl e) →
    exec i s = .next (if e.code = waitCode then { setCur s1 b with stall := some i } else raise e (setCur s1 b))) ∧
  (∀ (v : VReg) (a : VAddr) (mk : Option MReg) (wc : BitVec 2) (s s1 : State) (l : List Phys), VecReady (.vstore v a mk wc) s →
    let b := curBank s
    let na := min (fieldN b.vl 11 0) (16384 / wI wc)
    let n := na * wI wc / 8
    let va := vaddr b n a
    let act := activeList b mk na
    let bs := (List.range n).map fun i => if i / (wI wc / 8) ∈ act then some (BitVec.ofNat 8 (velem 8 b.v[v] i)) else none
    s.ca.sbLast = none → prepare .core .store b va (wI wc / 8) (activePieces va n (wI wc / 8) act) s = (s1, .inr l) →
    (storeFree s1 l →
      ∃ b', exec (.vstore v a mk wc) s = .next (after (buffered s1 .vector false bs l) b') ∧ scalarOnly b b' ∧ vecBaseDone n a b b' ∧ b'.fl = b.fl) ∧
    (storeRuled s1 l →
      ∃ b', exec (.vstore v a mk wc) s = .next (after (performed s1 bs l) b') ∧ scalarOnly b b' ∧ vecBaseDone n a b b' ∧ b'.fl = b.fl) ∧
    (s1.c.ruledAct = false → (zeroingWaits s1 l || (refusedPart s1 l).isSome) = false → s1.ca.sb = [] → l.length = 33 →
      ∃ e, exec (.vstore v a mk wc) s = .next { s1 with
        ca := { s1.ca with sb := (sbEntries .vector false bs l).take 32, sbLast := some e }, stall := some (.vstore v a mk wc) } ∧
        (sbEntries .vector false bs l).getLast? = some e)) ∧
  (∀ (v : VReg) (a : VAddr) (mk : Option MReg) (wc : BitVec 2) (s : State) (e : SbEntry), VecReady (.vstore v a mk wc) s → s.ca.sbLast = some e →
    let b := curBank s
    let n := min (fieldN b.vl 11 0) (16384 / wI wc) * wI wc / 8
    (s.ca.sb.length < 32 → ∃ b', exec (.vstore v a mk wc) s = .next (after { s with ca := { s.ca with sb := s.ca.sb ++ [e], sbLast := none } } b') ∧
      scalarOnly b b' ∧ vecBaseDone n a b b' ∧ b'.fl = b.fl) ∧
    (32 ≤ s.ca.sb.length → exec (.vstore v a mk wc) s = .next { s with stall := some (.vstore v a mk wc) })) ∧
  (∀ (s : State), let b := curBank s
    (∀ (gd : GReg) (va : VReg) (gb : GReg) (wc : BitVec 2), VecReady (.vext gd va gb wc) s → ∃ b', exec (.vext gd va gb wc) s = .next (after s b') ∧
      scalarOnly b b' ∧ b'.g[gd] = BitVec.ofNat 64 (velem (wI wc) b.v[va] ((rg b gb).toNat % (16384 / wI wc))) ∧ keepsG b b' [gd] ∧ b'.fl = b.fl ∧ b'.pc = b.pc + 4) ∧
    (∀ (vd : VReg) (g gb : GReg) (wc : BitVec 2), VecReady (.vins vd g gb wc) s → ∃ b', exec (.vins vd g gb wc) s = .next (after s b') ∧ vregsOnly b b' ∧
      keepsV b b' [vd] ∧ b'.pc = b.pc + 4 ∧ elementsAre (wI wc) b.v[vd] b'.v[vd] (· = (rg b gb).toNat % (16384 / wI wc)) fun _ => (rg b g).toNat) ∧
    (∀ (vd : VReg) (g : GReg) (wc : BitVec 2), VecReady (.vsplat vd g wc) s → ∃ b', exec (.vsplat vd g wc) s = .next (after s b') ∧ vregsOnly b b' ∧
      keepsV b b' [vd] ∧ b'.pc = b.pc + 4 ∧ elementsAre (wI wc) b.v[vd] b'.v[vd] (elementActs b none (wI wc)) fun _ => (rg b g).toNat) ∧
    (∀ (i : Instr) (md ma mb : MReg) (x : MWord), VecReady i s →
      (i = .mand md ma mb ∧ x = b.m[ma] &&& b.m[mb] ∨ i = .mor md ma mb ∧ x = b.m[ma] ||| b.m[mb] ∨ i = .mxor md ma mb ∧ x = b.m[ma] ^^^ b.m[mb] ∨
        i = .mnot md ma ∧ x = ~~~ b.m[ma] ∨ i = .mset md ∧ x = ~~~ 0) →
      exec i s = .next (after s { b with m := b.m.set md.val x md.isLt, pc := b.pc + 4, dirty := setBit b.dirty 40 true })) ∧
    (∀ (gd : GReg) (ma : MReg), VecReady (.mcnt gd ma) s → ∃ b', exec (.mcnt gd ma) s = .next (after s b') ∧ scalarOnly b b' ∧
      b'.g[gd] = BitVec.ofNat 64 ((List.range (min (fieldN b.vl 11 0) 2048)).countP fun j => bit b.m[ma] j) ∧ keepsG b b' [gd] ∧ b'.fl = b.fl ∧ b'.pc = b.pc + 4))

/-- R28, R346, R347, R356, R357, R361, R424: setting MIRCTL.EN checks the ranges and the map, sets every map bit of both generations, or is refused
with CFGERR; clearing it stops tracking and abandons a running commit without the interrupt; the quill's lock makes both writes ignored. CREDIT adds
credits; a rising link grants 4 once VELLUM runs, a falling one ends the credits and what the port was doing; a word that finds VELLUM asleep wakes
it. R352, R353, R357, R361: a commit reads its next granule, clears the bit of its own generation and sends the granule for one credit; a write to a
granule not yet read is held and the granule asked for; acknowledgements and CRC NACKs act on what is sent; the VALID record's acknowledgement
completes the commit; every cause of R357 abandons it. -/
def Obligations.MirrorControlAndCommit : Prop :=
  (∀ s : State, let b := curBank s
     let b4 : Bank := { b with pc := b.pc + 4 }
     (∀ (i : Instr) (v : W64), i = .mirctlEnSet v ∨ i = .mirctlEnClear v → Ready i s →
       (1 < (ringOf b).toNat → exec i s = .next (raise { code := 0x02, addr := 0x90 } s)) ∧
       ((ringOf b).toNat ≤ 1 → hasPartner s.var = false ∨ s.mir.qlock = true → exec i s = .next (after s b4)) ∧
       ((ringOf b).toNat ≤ 1 → hasPartner s.var = true → s.mir.qlock = false → s.mir.en = decide (i = .mirctlEnSet v) →
         ∃ t, exec i s = .next (after t b4) ∧ t.mir.en = s.mir.en ∧ t.mir.recv = bit v 1 ∧
           t.mir.tmo = (if fieldN v 15 8 = 0 then 1 else BitVec.ofNat 8 (fieldN v 15 8)) ∧ t.banks = s.banks ∧ t.vellum = s.vellum)) ∧
     (∀ v, Ready (.mirctlEnSet v) s → (ringOf b).toNat ≤ 1 → hasPartner s.var = true → s.mir.qlock = false → s.mir.en = false →
       (mirCfgOk s = true → Memory.wf s.vellum = true → ∃ t, exec (.mirctlEnSet v) s = .next (after t b4) ∧
         t.mir.en = true ∧ t.mir.cfgErr = false ∧ t.mir.recv = bit v 1 ∧ (∀ gen g, g < mirTotal s → mapBit t gen g = true) ∧
         (s.mir.commit = none → noTransfer s → t = { s with mir := t.mir, vellum := t.vellum })) ∧
       (mirCfgOk s = false → ∃ t, exec (.mirctlEnSet v) s = .next (after t b4) ∧ t.mir.en = false ∧ t.mir.cfgErr = true ∧ t.mir.recv = s.mir.recv ∧
         t.vellum = s.vellum ∧ (s.mir.commit = none → noTransfer s → t = { s with mir := { s.mir with cfgErr := true, out := [] } }))) ∧
     (∀ v, Ready (.mirctlEnClear v) s → (ringOf b).toNat ≤ 1 → hasPartner s.var = true → s.mir.qlock = false → s.mir.en = true →
       ∃ t, exec (.mirctlEnClear v) s = .next (after t b4) ∧ t.mir.en = false ∧ t.mir.recv = bit v 1 ∧
         t.mir.tmo = (if fieldN v 15 8 = 0 then 1 else BitVec.ofNat 8 (fieldN v 15 8)) ∧ t.mir.commit = none ∧ t.banks = s.banks ∧
         (s.mir.commit = none → t.mir.failed = s.mir.failed ∧ t.mir.aborts = s.mir.aborts) ∧
         (s.mir.commit ≠ none → t.mir.failed = true ∧ t.mir.st = restState s ∧ t.mir.held = [] ∧
           t.mir.aborts = (if s.mir.aborts = 0xFF then 0xFF else s.mir.aborts + 1)) ∧
         (s.mir.held = [] → s.mir.serve = none → t.c = s.c)) ∧
     (∀ n : BitVec 3, PartnerUp s →
       (n = 0 ∨ 4 < n.toNat → exec (.partnerCredit n) s = .next s) ∧
       (s.mir.commit = none → noTransfer s → 1 ≤ n.toNat → n.toNat ≤ 4 →
         exec (.partnerCredit n) s = .next { s with mir := { s.mir with credits := s.mir.credits + n.toNat, out := [] } })) ∧
     (∀ i : Instr, partnerRow i = true → Live s →
       (hasPartner s.var = false ∨ s.mir.link = false ∨ domUse s dVellum = .off → exec i s = .next s) ∧
       (hasPartner s.var = true → s.mir.link = true → domUse s dVellum = .asleep → exec i s = .next (wakeRequest s dVellum))) ∧
     (Live s → hasPartner s.var = false ∨ s.mir.link = true → exec .ppLinkUpRise s = .next s) ∧
     (Live s → hasPartner s.var = true → s.mir.link = false → domUse s dVellum = .ready → s.mir.commit = none → noTransfer s → s.mir.granted = false →
       exec .ppLinkUpRise s = .next { s with mir := { s.mir with link := true, out := [.credit 4], granted := true } }) ∧
     (Live s → hasPartner s.var = true → s.mir.link = false → domUse s dVellum = .asleep →
       exec .ppLinkUpRise s = .next { wakeRequest s dVellum with mir := { s.mir with link := true, out := [] } }) ∧
     (Live s → s.mir.link = false → exec .ppLinkUpFall s = .next s) ∧
     (Live s → s.mir.link = true →
       (s.mir.commit = none → s.mir.fetch = none →
         exec .ppLinkUpFall s = .next { s with mir := { s.mir with link := false, credits := 0, granted := false, serve := none, rx := [], out := [] } }) ∧
       ∃ t, exec .ppLinkUpFall s = .next t ∧ t.mir.link = false ∧ t.mir.commit = none ∧ t.mir.fetch = none ∧ t.mir.serve = none ∧ t.mir.rx = [] ∧
         (s.mir.commit ≠ none → t.mir.failed = true ∧ isPending t 0x22 = true))) ∧
  ((∀ (s : State) (k : Commit), PartnerUp s → noTransfer s → Memory.wf s.vellum = true → s.mir.commit = some k → s.mir.held = [] →
     (∀ (r : Fin 16) (i pa : Nat), let g := (k.urgent.find? (k.tx.todo.contains ·)).getD (k.tx.todo.headD 0)
       maySendGranule s k.tx = true → (∀ u ∈ k.tx.unacked, u.again = false) → granuleAt s g = some (r, i, pa) →
       (mirCheck s pa 65536 = (s, false) → ∃ t k', exec (.mirrorGranuleRead false) s = .next t ∧ t = { s with mir := t.mir, vellum := t.vellum } ∧ t.mir.commit = some k' ∧
         k'.tx.todo = k.tx.todo.filter (· != g) ∧ mapBit t k.tx.gen g = false ∧ t.mir.sent = s.mir.sent + 1 ∧ t.mir.credits = s.mir.credits - 1 ∧
         t.mir.out = [granuleWord r.val i k.tx.gen false k.tx.ply (granuleBytes s pa)]) ∧
       (∀ u, u = true ∨ (mirCheck s pa 65536).2 = true → ∃ t, exec (.mirrorGranuleRead u) s = .next t ∧ commitAbandoned s t k)) ∧
     (∀ (g : BitVec 16), k.closing = true → k.tx.recDue = false → k.tx.recAcked = false →
       exec (.partnerAck g k.tx.gen true) s = .next { s with mir := { s.mir with
         commit := none, st := .idle, failed := false, last := k.tx.ply, out := []
         prev := if k.tx.gen then (s.mir.prev.1, k.tx.ply) else (k.tx.ply, s.mir.prev.2) } }) ∧
     (∀ (g : BitVec 16), g.toNat ∈ k.tx.unacked.map (·.g) → ∃ t k', exec (.partnerAck g k.tx.gen false) s = .next t ∧ t.mir.commit = some k' ∧
       k'.tx.unacked.map (·.g) = (k.tx.unacked.map (·.g)).filter (· != g.toNat) ∧ k'.tx.todo = k.tx.todo ∧ t.mem = s.mem ∧ t.vellum = s.vellum ∧ t.banks = s.banks) ∧
     (∀ (g : BitVec 16) (u : TxGran), k.tx.unacked.filter (·.g == g.toNat) = [u] →
       (u.nacks < 3 → k.tx.recDue = false → (∀ x ∈ k.tx.unacked, x.again = false) → canSend s = true →
         ∃ t, exec (.partnerNack 4 g false) s = .next t ∧ t.mir.out = [u.word] ∧ t.mir.credits = s.mir.credits - 1 ∧
         t.mir.commit.isSome = true ∧ t = { s with mir := t.mir }) ∧
       (∀ code : BitVec 4, code ≠ 4 ∨ 3 ≤ u.nacks → ∃ t, exec (.partnerNack code g false) s = .next t ∧ commitAbandoned s t k)) ∧
     (∀ g : BitVec 16, k.tx.recDue = false → k.tx.recAcked = false →
       (k.tx.recNacks < 3 → ∃ t k', exec (.partnerNack 4 g true) s = .next t ∧ t.mir.commit = some k' ∧ k'.tx.recNacks = k.tx.recNacks + 1 ∧ t = { s with mir := t.mir }) ∧
       (∀ code : BitVec 4, code ≠ 4 ∨ 3 ≤ k.tx.recNacks → ∃ t, exec (.partnerNack code g true) s = .next t ∧ commitAbandoned s t k))) ∧
   (∀ (s : State) (k : Commit), Live s → s.mir.commit = some k → s.mir.held = [] → Memory.wf s.vellum = true →
     (∃ t, exec .mirrorCommitAbandon s = .next t ∧ commitAbandoned s t k) ∧
     (s.mir.fetch = none → ∃ t, exec .mirrorTmoExpiry s = .next t ∧ commitAbandoned s t k)) ∧
   (∀ (s : State) (f : Fetch), Live s → s.mir.fetch = some f → s.mir.commit = none → ∃ t, exec .mirrorTmoExpiry s = .next t ∧ t.mir.fetch = none ∧ t.mir.st = .idle) ∧
   (∀ (pa : BitVec 56) (bytes : List Byte) (s : State), Live s → heldGranules s pa.toNat bytes.length ≠ [] →
     ∃ t k, exec (.mirrorHeldWrite pa bytes) s = .next t ∧ t = { s with mir := t.mir } ∧ t.mir.held = s.mir.held ++ [⟨pa, bytes⟩] ∧ t.mir.commit = some k ∧
       ∀ g ∈ heldGranules s pa.toNat bytes.length, g ∈ k.urgent))

/-- R354 to R356, R359 to R361, R424, R425: the receiver refuses what it may not take with the NACK of R356 and returns the credit, else it writes
into its reserve and acknowledges once the write is visible; it answers a FREQ with its record or a FEND; a fetched granule is written, one of a
verify compared; FEND ends the transfer, and PLY follows only SETPLY. -/
def Obligations.MirrorReceivesAndFetches : Prop :=
  (∀ (s : State), PartnerUp s → s.mir.commit = none → noTransfer s →
    (∀ (range : BitVec 4) (idx : BitVec 16) (gen : Bool) (ply : BitVec 60) (crc : W32) (bytes : List Byte), bytes.length = 65536 → crcInjected s = false →
      let g : BitVec 16 := BitVec.ofNat 16 (countsBelow s.mir.rxN range.toNat + idx.toNat)
      (s.mir.recv = false ∨ fieldN s.mir.resv 17 0 = 0 →
        exec (.partnerGranuleReceive range idx gen ply crc bytes) s = .next { s with mir := { s.mir with out := [.nack 1 g false, .credit 1] } }) ∧
      (s.mir.recv = true → fieldN s.mir.resv 17 0 ≠ 0 →
        (crc32c bytes ≠ crc → ∃ t, exec (.partnerGranuleReceive range idx gen ply crc bytes) s = .next t ∧
          t.mir = { s.mir with out := [.nack 4 g false, .credit 1] } ∧ t.mem = s.mem ∧ t.vellum = s.vellum ∧ t.banks = s.banks) ∧
        (crc32c bytes = crc → s.mir.rxRec = none →
          exec (.partnerGranuleReceive range idx gen ply crc bytes) s = .next { s with mir := { s.mir with out := [.nack 2 g false, .credit 1] } }) ∧
        (∀ rgen label, crc32c bytes = crc → s.mir.rxRec = some (rgen, label) →
          (rgen ≠ gen ∨ label.setWidth 60 ≠ ply ∨ s.mir.rxN.getD range.toNat 0 ≤ idx.toNat →
            exec (.partnerGranuleReceive range idx gen ply crc bytes) s = .next { s with mir := { s.mir with out := [.nack 3 g false, .credit 1] } }) ∧
          (rgen = gen → label.setWidth 60 = ply → idx.toNat < s.mir.rxN.getD range.toNat 0 →
            ∃ t, exec (.partnerGranuleReceive range idx gen ply crc bytes) s = .next t ∧
              t.mir.rx = s.mir.rx ++ [.granule g gen] ∧ t.mir.out = [] ∧ t.banks = s.banks ∧
              t.mem = (receiverWrite s (resvGranule s s.mir.rxN gen range.toNat idx.toNat) bytes).mem)))) ∧
    (∀ bytes : List Byte, bytes.length = 128 → crcInjected s = false →
      (s.mir.recv = false ∨ fieldN s.mir.resv 17 0 = 0 →
        exec (.partnerRecordReceive bytes) s = .next { s with mir := { s.mir with out := [.nack 1 0 true, .credit 1] } }) ∧
      (s.mir.recv = true → fieldN s.mir.resv 17 0 ≠ 0 → recCrcOk bytes = false →
        ∃ t, exec (.partnerRecordReceive bytes) s = .next t ∧ t.mir = { s.mir with out := [.nack 4 0 true, .credit 1] } ∧ t.mem = s.mem ∧ t.banks = s.banks) ∧
      (s.mir.recv = true → fieldN s.mir.resv 17 0 ≠ 0 → recCrcOk bytes = true →
      (recN bytes 8 4 ≠ s.cfg.partner.toNat % 2 ^ 20 →
        exec (.partnerRecordReceive bytes) s = .next { s with mir := { s.mir with out := [.nack 2 0 true, .credit 1] } }) ∧
      (recN bytes 8 4 = s.cfg.partner.toNat % 2 ^ 20 → fieldN s.mir.resv 17 0 < 1 + 2 * (recCounts bytes).sum →
        exec (.partnerRecordReceive bytes) s = .next { s with mir := { s.mir with out := [.nack 3 0 true, .credit 1] } }) ∧
      (recN bytes 8 4 = s.cfg.partner.toNat % 2 ^ 20 → 1 + 2 * (recCounts bytes).sum ≤ fieldN s.mir.resv 17 0 →
        exec (.partnerRecordReceive bytes) s = .next { s with mir := { s.mir with
          out := [], rxN := recCounts bytes, rxRec := some (bbyte bytes 6 == 1, BitVec.ofNat 64 (recN bytes 16 8))
          rx := s.mir.rx ++ [.record (bbyte bytes 6 == 1) bytes false] } }))) ∧
    (∀ (g : BitVec 16) (gen : Bool) (rest : List RxItem), s.mir.rx = .granule g gen :: rest →
      (writesVisible s .other = false → ∃ t, exec .partnerWriteVisible s = .next t ∧ t.mir = { s.mir with out := [] } ∧ t.port = (askVisible s .other).port) ∧
      (writesVisible s .other = true →
        exec .partnerWriteVisible s = .next { s with mir := { s.mir with rx := rest, out := [.ack g gen false, .credit 1] } })) ∧
    (∀ (bs : List Byte) (gen : Bool) (rest : List RxItem), s.mir.rx = .record gen bs false :: rest → ∃ t, exec .partnerWriteVisible s = .next t ∧
      t.mir.rx = .record gen bs true :: rest ∧ t.mem = (receiverWrite s (resvRecord s gen) bs).mem ∧ t.banks = s.banks) ∧
    (∀ (bs : List Byte) (gen : Bool) (rest : List RxItem), s.mir.rx = .record gen bs true :: rest → writesVisible s .other = true →
      exec .partnerWriteVisible s = .next { s with mir := { s.mir with rx := rest, out := [.ack 0 gen true, .credit 1] } }) ∧
    (∀ (rmask : BitVec 16) (gen : BitVec 2) (verify : Bool), gen ≠ 3 →
      (s.mir.recv = false ∨ fieldN s.mir.resv 17 0 = 0 → exec (.partnerFreq rmask gen verify) s = .next { s with mir := { s.mir with out := [.fend 3] } }) ∧
      (s.mir.recv = true → fieldN s.mir.resv 17 0 ≠ 0 →
        ((mirCheck s (resvBase s) 256).2 = true → ∃ t, exec (.partnerFreq rmask gen verify) s = .next t ∧ t.mir.out = [.fend 4] ∧ t.mir.serve = none ∧ t.banks = s.banks) ∧
        (mirCheck s (resvBase s) 256 = (s, false) →
          (∀ st, chooseGen s (if verify then 0 else gen) = .inl st →
            exec (.partnerFreq rmask gen verify) s = .next { s with mir := { s.mir with out := [.fend st] } }) ∧
          (∀ g bs, chooseGen s (if verify then 0 else gen) = .inr (g, bs) → mirCheck s (resvRecord s g) 128 = (s, false) → canSend s = true →
            ∃ t rest, exec (.partnerFreq rmask gen verify) s = .next t ∧ t.banks = s.banks ∧
              t.mir.out = .record g (cohRead s (resvRecord s g) 128) :: rest))))) ∧
  (∀ (s : State) (f : Fetch), PartnerUp s → s.mir.commit = none → s.mir.serve = none → s.mir.fetch = some f → f.freqDue = false → crcInjected s = false →
    (∀ bytes : List Byte, bytes.length = 128 → f.got = none → recN bytes 8 4 = s.cfg.coreid.toNat % 2 ^ 20 →
      (recCrcOk bytes = true → exec (.partnerRecordReceive bytes) s = .next { s with mir := { s.mir with
        fetch := some { f with got := some (bbyte bytes 6 == 1, BitVec.ofNat 64 (recN bytes 16 8)) }, out := [.ack 0 (bbyte bytes 6 == 1) true, .credit 1] } }) ∧
      (recCrcOk bytes = false → ∃ t, exec (.partnerRecordReceive bytes) s = .next t ∧
        (f.recCrcs < 3 → t.mir = { s.mir with fetch := some { f with recCrcs := f.recCrcs + 1 }, out := [.nack 4 0 true, .credit 1] }) ∧
        (3 ≤ f.recCrcs → t.mir.fetch = none ∧ t.mir.st = .idle))) ∧
    (∀ (gen : Bool) (ply : W64), f.got = some (gen, ply) →
      (∀ (range : BitVec 4) (idx : BitVec 16) (crc : W32) (r : Fin 16) (i pa : Nat) (bytes : List Byte), bytes.length = 65536 →
        let g := mirS s range.toNat + idx.toNat
        granuleAt s g = some (r, i, pa) → r.val = range.toNat → i = idx.toNat →
        (crc32c bytes ≠ crc → let n := ((f.crcs.find? (·.1 == g)).map (·.2)).getD 0
          ∃ t, exec (.fetchGranuleReceive range idx crc bytes) s = .next t ∧ t.banks = s.banks ∧
          (n < 3 → t.mir = { s.mir with fetch := some { f with crcs := (g, n + 1) :: f.crcs.filter (·.1 ≠ g) }, out := [.nack 4 (BitVec.ofNat 16 g) false, .credit 1] }) ∧
          (3 ≤ n → t.mir.fetch = none ∧ t.mir.st = .idle)) ∧
        (crc32c bytes = crc → f.verify = false → ∃ t, exec (.fetchGranuleReceive range idx crc bytes) s = .next t ∧
          t.mir.rx = s.mir.rx ++ [.fetched (BitVec.ofNat 16 g) gen] ∧ t.mem = (receiverWrite s pa bytes).mem ∧ t.banks = s.banks) ∧
        (crc32c bytes = crc → f.verify = true → (mapBit s gen g = false → mirCheck s pa 65536 = (s, false)) →
          ∃ t f', exec (.fetchGranuleReceive range idx crc bytes) s = .next t ∧ t = { s with mir := t.mir } ∧
          t.mir.out = [.ack (BitVec.ofNat 16 g) gen false, .credit 1] ∧ t.mir.fetch = some f' ∧
          (mapBit s gen g = true → f'.skipped = f.skipped + 1 ∧ f'.compared = f.compared) ∧
          (mapBit s gen g = false → f'.skipped = f.skipped ∧ f'.compared = f.compared + 1 ∧
            (granuleBytes s pa = bytes → f'.differing = f.differing) ∧ (granuleBytes s pa ≠ bytes → f'.differing = f.differing ++ [g])))) ∧
      (∀ (g : BitVec 16) (gn : Bool) (rest : List RxItem), s.mir.rx = .fetched g gn :: rest → writesVisible s .other = true → f.fend = false →
        exec .partnerWriteVisible s = .next { s with mir := { s.mir with
          rx := rest, fetch := some { f with copied := f.copied + 1 }, out := [.ack g gn false, .credit 1] } }) ∧
      (s.mir.rx.any isFetched = true →
        exec (.partnerFend 0) s = .next { s with mir := { s.mir with fetch := some { f with fend := true }, out := [] } }) ∧
      (∀ st : BitVec 4, 4 < st.toNat → exec (.partnerFend st) s = .next s) ∧
      (∀ st : BitVec 4, st.toNat ≤ 4 → (st = 0 → s.mir.rx.any isFetched = false) → Memory.wf s.vellum = true → ∃ t, exec (.partnerFend st) s = .next t ∧ t.mir.fetch = none ∧
        t.mir.st = .idle ∧ t.mir.rx.any isFetched = false ∧ t.c.ply = (if st = 0 ∧ f.setPly = true ∧ f.verify = false then ply else s.c.ply) ∧
        (f.verify = false → ∀ g ∈ maskGranules (localCounts s) f.rmask, mapBit t false g = true ∧ mapBit t true g = true))))

/-- R270, R273, R274, R280, R281, R284, R285: the interrupt that R281 selects enters with its level and saves pc, FL, cause; a critical one saves into
its own registers and keeps IE and XPC; a takeover undoes the entry whose window is open; a condition found at the head of the reorder buffer enters
its vector, after an interrupt that is due. -/
def Obligations.InterruptsAndConditionsEnter : Prop :=
  ∀ s : State, Live s → coreRuns s = true → let b := curBank s
    (s.ca.sbLast = none →
      (∀ (v : Byte) (l : BitVec 4) (e : W64), selectCrit s = none → bit b.fl 10 = true → s.c.hold = false → selectOrd s = some (v, l) →
        (vecRead (atBoundary s) v).2 = .good e → ∃ t, exec .interruptEntry s = .next t ∧ t.c.xpc = resumePc s ∧ t.c.xfl = b.fl ∧
          t.c.xcause = causeWord v 0 .none s.c.ipl ∧ t.c.xaddr = msiXaddr s v ∧ t.c.ipl = l ∧ t.stall = none ∧
          (curBank t).pc = sext64 57 (fieldN e 56 2 * 4) ∧ (curBank t).g = b.g ∧
          (flRing (curBank t).fl).toNat = min (if bit e 57 = true then 1 else 0) (ringOf b).toNat ∧
          bit (curBank t).fl 10 = (bit e 0 && decide (holdMaxOf s ≠ 0)) ∧ t.c.hold = (bit e 0 && decide (holdMaxOf s ≠ 0)) ∧
          (v.toNat < 0x40 ∨ 0x80 ≤ v.toNat → isPending t v = false) ∧ t.c.cxpc = s.c.cxpc ∧ t.tiles = s.tiles ∧
          ∀ k : BankNum, k ≠ s.c.cur → t.banks[k] = s.banks[k]) ∧
      (∀ (v : Byte) (e : W64), selectCrit s = some v →
        (vecRead { atBoundary s with c := { (atBoundary s).c with cxcause := setBit (atBoundary s).c.cxcause 20 true } } v).2 = .good e →
        ∃ t, exec .criticalEntry s = .next t ∧ t.c.cxpc = resumePc s ∧ t.c.cxfl = b.fl ∧ t.c.cxaddr = 0 ∧
          t.c.cxcause = setBit (causeWord v 0 .none s.c.ipl) 20 true ∧ t.c.xpc = s.c.xpc ∧ t.c.xfl = s.c.xfl ∧ t.c.ipl = s.c.ipl ∧ t.c.hold = s.c.hold ∧
          t.stall = none ∧ (curBank t).pc = sext64 57 (fieldN e 56 2 * 4) ∧ flWith b.fl (curBank t).fl 0 (bit b.fl 10) ∧ (curBank t).g = b.g ∧
          isPending t v = false)) ∧
    ((selectCrit s ≠ none ∨ bit b.fl 10 = false ∨ s.c.hold = true ∨ selectOrd s = none) → exec .interruptEntry s = .next s) ∧
    (selectCrit s = none → exec .criticalEntry s = .next s) ∧
    (s.ca.sbLast ≠ none → exec .interruptEntry s = .next s ∧ exec .criticalEntry s = .next s) ∧
    (∀ (w : EntryWin) (v : Byte) (e : W64), s.c.entry = some w → takeoverVec s w = some v →
      (vecRead { undoEntry s w with c := { (undoEntry s w).c with cxcause := setBit w.cxcause 20 true } } v).2 = .good e →
      ∃ t, exec .entryTakeover s = .next t ∧ t.c.cxpc = w.pc ∧ t.c.cxfl = w.fl ∧ t.c.xpc = w.xpc ∧ t.c.xfl = w.xfl ∧ t.c.ipl = w.ipl ∧ t.c.hold = w.hold ∧
        (curBank t).pc = sext64 57 (fieldN e 56 2 * 4) ∧ flRing (curBank t).fl = 0 ∧ (curBank t).g = b.g) ∧
    (s.c.entry = none → exec .entryTakeover s = .next s) ∧
    (∀ p c, interruptDue s = some p → exec (.exceptionEntry c) s = .next (enterInterrupt s p)) ∧
    (interruptDue s = none →
      (∀ w1 w2 : W32, s.stall = none → decodeWords w1 w2 = none → exec (.exceptionEntry (.undefWords w1 w2)) s =
        .next (raise { code := 0x01, addr := (if twoWords w1 && fieldN w1 31 27 != 0x1C then w2 else 0) ++ w1 } s)) ∧
      (∀ (acc : Acc) (va : W64) (e : Exc) (c : EntryCause), acc = .read ∨ acc = .write →
        (∃ poison, c = .dataError poison acc va ∧ e = { code := 0x0D, sub := if poison then 2 else 1, acc := acc, addr := va }) ∨
        (∃ sub : BitVec 4, 1 ≤ sub.toNat ∧ sub.toNat ≤ 3 ∧ c = .busError sub acc va ∧ e = { code := 0x0E, sub := sub, acc := acc, addr := va }) →
        ((∀ n g, s.stall ≠ some (.repn n g)) → exec (.exceptionEntry c) s = .next (raise e s)) ∧
        (∀ (n : BitVec 6) (g : Governed) (k : Nat) (b1 : Bank) (s1 : State), s.stall = some (.repn n g) →
          ((repnPieces b (n.toNat + 1) g).findIdx? fun p => p.1 == va) = some k → elementsDone g k b s = some (b1, s1) →
          exec (.exceptionEntry c) s = .next (raise e (setCur s1 b1)))) ∧
      (s.c.fresh = none →
        (∀ (second : Bool) (e : Exc) (s1 : State), s.stall = none → fetchExc s (b.pc + if second then 4 else 0) = some (s1, e) → s1.c.fresh = none →
          exec (.exceptionEntry (.fetchFault second)) s = .next (raise e s1)) ∧
        (∀ (poison : Bool) (va : W64), (fetchMeets s).c.fresh = none → exec (.exceptionEntry (.dataError poison .fetch va)) s =
          .next (raise { code := 0x0D, sub := if poison then 2 else 1, acc := .fetch, addr := va } (fetchMeets s))) ∧
        (∀ (sub : BitVec 4) (va : W64), 1 ≤ sub.toNat → sub.toNat ≤ 3 → exec (.exceptionEntry (.busError sub .fetch va)) s =
          .next (raise { code := 0x0E, sub := sub, acc := .fetch, addr := va } s))))

/-- R277, R287, R288, R323, R324: a fault that the vector read or the first fetch of an entry meets is a double fault with the state of before that
entry, or within the double-fault entry a third one with a fatal record and a warm reset; a hold window over MAX closes; the watchdogs and progress
monitors report unless CHKDIS masks them. -/
def Obligations.FaultsOfEntriesAndWatchdogs : Prop :=
  ∀ s : State, Live s →
    (∀ (f : Fresh) (reason : BitVec 4), s.c.fresh = some f → coreRuns s = true → reason = 1 ∨ reason = 3 →
      (s.c.dfOpen = false → ∃ t, exec (.doubleFault reason) s = .next t ∧ doubleFaulted s t reason f.vec f.pc f.fl (if reason = 3 then s.c.ipl else f.ipl) ∧
        (reason = 1 → t.c.hold = f.hold ∧ t.c.cxpc = f.cxpc ∧ t.c.cxfl = f.cxfl ∧ t.c.cxcause = f.cxcause ∧ t.c.cxaddr = f.cxaddr ∧
          (f.pend = true → validVec f.vec.toNat = true → wiredVec f.vec = false → isPending t f.vec = true))) ∧
      (s.c.dfOpen = true → ∃ t, exec (.doubleFault reason) s = .next t ∧ t.win.wrst = true ∧ t.err.fatal = true ∧ isPending t 0x20 = true ∧ t.banks = s.banks)) ∧
    (s.c.fresh = none → ∀ reason, exec (.doubleFault reason) s = .next s) ∧
    (∀ (e : Exc) (r : BitVec 4), (vecRead s e.code).2 = .bad r →
      doubleFaulted s (raise e s) r e.code (curBank s).pc (curBank s).fl s.c.ipl) ∧
    (coreRuns s = true → s.ca.sbLast = none → selectCrit s = none → bit (curBank s).fl 10 = true → s.c.hold = false →
      ∀ (v : Byte) (l r : BitVec 4), selectOrd s = some (v, l) → (vecRead (atBoundary s) v).2 = .bad r →
        ∃ t, exec .interruptEntry s = .next t ∧ doubleFaulted s t r v (resumePc s) (curBank s).fl s.c.ipl ∧ t.c.ipl = s.c.ipl) ∧
    (s.c.hold = true → bit s.c.holdmax 16 = false → exec .holdWindowOverrun s = .next { s with c := { s.c with hold := false } }) ∧
    (s.c.hold = true → bit s.c.holdmax 16 = true → ∃ t, exec .holdWindowOverrun s = .next t ∧ t.c.hold = false ∧
      (isPending t 0x28 = true ∨ isPending t 0x20 = true) ∧ t.banks = s.banks) ∧
    (s.c.hold = false → exec .holdWindowOverrun s = .next s) ∧
    (coreRuns s = true → bit s.c.chkdis 7 = false → (exemptWait s = false → ∃ t, exec .retireWatchdogExpiry s = .next t ∧ t.err.fatal = true ∧
      isPending t 0x21 = true ∧ isPending t 0x20 = true ∧ t.banks = s.banks) ∧ (exemptWait s = true → exec .retireWatchdogExpiry s = .next s)) ∧
    (s.stall = none → exemptWait s = false) ∧
    (∀ c, s.stall = some c → srcPending c (curBank s) = true ∨ (∃ d ∈ gateDoms c, domUse s d = .asleep ∧ s.ca.miss = none) → exemptWait s = false) ∧
    (bit s.c.chkdis 7 = true → exec .retireWatchdogExpiry s = .next s ∧ exec .watchdogHandlerTimeout s = .next s) ∧
    (isPending s 0x21 = true ∨ (∃ f, s.c.fresh = some f ∧ f.vec = 0x21) → bit s.c.chkdis 7 = false → s.dom[dCore].st = .run →
      ∃ t, exec .watchdogHandlerTimeout s = .next t ∧ t.win.wrst = true ∧ t.err.fatal = true ∧ t.banks = s.banks) ∧
    (∀ (unit : Byte) (loc : W64) (what : BitVec 6),
      (bit s.c.chkdis 8 = true ∨ unitWorks s unit (loc &&& locMask unit) = false → exec (.progressMonitorExpiry unit loc what) s = .next s) ∧
      (bit s.c.chkdis 8 = false → unitWorks s unit (loc &&& locMask unit) = true → ∃ t, exec (.progressMonitorExpiry unit loc what) s = .next t ∧
        t.err.fatal = true ∧ isPending t 0x20 = true ∧ t.banks = s.banks ∧ t.c.errlast[1] = loc &&& locMask unit ∧
        fieldN t.c.errlast[0] 7 0 = 0x0B ∧ fieldN t.c.errlast[0] 15 8 = unit.toNat))

/-- R322, R333 to R338, R341, R382: a detection has its outcome and becomes a record at WR with the next SEQ, drives its line and vector, merges with
the newest record of the same place, or is lost in a full FIFO and counted; the pointer, overflow and line registers act as R336 and R338 say; the
error manager moves the oldest record into the log. R162, R227, R327 to R329, R386: a scrub step goes to the next place of its store, posts a
corrected record for a single-bit error and one uncorrectable record for each bad word; tile file and inkwell spend a credit for a row, and wake a
clock-gated domain at a pass of credits. -/
def Obligations.ErrorRecordsAndScrubbers : Prop :=
  ((∀ (u : State) (cls unit : Byte) (sev : BitVec 2) (loc : W64) (synd : BitVec 24) (inj : Bool) (extra : BitVec 16), sev ≠ 3 → cls ≠ 0 →
     let t := postRecord u cls unit sev loc synd inj extra
     t = { u with c := t.c, err := t.err, dom := t.dom } ∧
     t.c = { u.c with errlast := t.c.errlast, ipend := t.c.ipend, l2Check := t.c.l2Check, l1dCheck := t.c.l1dCheck } ∧
     (∀ same : Bool, same = (decide (fifoCount u ≠ 0) && sameDetection (fifoAt u (u.err.wr - 1)) cls unit loc synd) →
       (same = false → t.err.seq = u.err.seq + 1 ∧ (sev = 0 → t.err.corr = true) ∧ (sev = 2 → t.err.fatal = true) ∧
         isPending t (if sev = 2 then 0x20 else 0x28) = true ∧ t.c.errlast[1] = loc ∧
         (fifoCount u ≤ 247 ∨ (sev = 2 ∧ fifoCount u ≤ 255) → t.err.wr = u.err.wr + 1 ∧ t.err.ovf = u.err.ovf ∧
           fifoAt t u.err.wr = mkRecord cls unit sev inj extra (u.err.seq + 1) loc u.win.tick u.c.ply synd) ∧
         (247 < fifoCount u ∧ sev ≠ 2 ∨ 255 < fifoCount u → t.err.wr = u.err.wr ∧ t.err.fifo = u.err.fifo ∧
           t.err.ovf = (if u.err.ovf = 0xFFFFFFFF then u.err.ovf else u.err.ovf + 1) ∧ (sev = 1 → t.err.ovfu = true))) ∧
       (same = true → t.err.wr = u.err.wr ∧ t.err.seq = u.err.seq ∧ fieldN t.c.errlast[0] 7 0 = cls.toNat ∧
         fieldN t.c.errlast[0] 47 32 = min 0xFFFF (fieldN (recDw (fifoAt u (u.err.wr - 1)) 0) 47 32 + 1 + extra.toNat)))) ∧
   ∀ s : State, Live s →
     (∀ (cls unit : Byte) (sev : BitVec 2) (loc : W64) (synd : BitVec 24) (inj : Bool) (extra : BitVec 16), let l := loc &&& locMask unit
       (sev ≠ 3 → cls ≠ 0 → cls.toNat ≤ 0x12 → unit.toNat ≤ 0x23 → silenced s cls unit = false → (inj = true → injMatch s cls unit l = true) →
         let t := postRecord (detected (if inj then disarm s else s) cls unit l) cls unit sev l (synd &&& syndMask cls) inj extra
         exec (.errorRecordPost cls unit sev loc synd inj extra) s = .next (if cls = 2 ∧ unit = 0x20 then sramHandle t (l.toNat / 8) else t)) ∧
       (silenced s cls unit = true ∨ (inj = true ∧ injMatch s cls unit l = false) ∨ sev = 3 ∨ cls = 0 ∨ 0x12 < cls.toNat ∨ 0x23 < unit.toNat →
         exec (.errorRecordPost cls unit sev loc synd inj extra) s = .next s)) ∧
     (∀ loc : W64, (detected s 2 0x09 loc).inkBad.contains (1024 * fieldN loc 12 0 + fieldN loc 25 16) = true ∧
       (loc.toNat < 2 ^ vellumLog2 s.var → (detected s 2 0x0B loc).vellumBad.contains (loc.toNat / 8) = true) ∧
       (detected s 2 0x05 loc).tiles[Fin.ofNat 16 (fieldN loc 3 0)].bad.contains
         (256 * fieldN loc 25 16 + (if bit loc 4 = true then 128 else 0) + fieldN loc 38 32) = true ∧
       (∀ e ∈ (detected s 4 0x02 loc).ca.l1i, e.2 ≠ some (lineNo loc.toNat)) ∧ (detected s 4 0x06 loc).nib.tags[Fin.ofNat 64 loc.toNat] = none ∧
       (detected s 4 0x03 loc).ca.pf.contains (lineNo loc.toNat) = false) ∧
     (∀ (unit : Byte) (loc : W64) (x : Thread), 0x10 ≤ unit.toNat → unit.toNat < 0x20 →
       let k : ScribeNum := Fin.ofNat 16 (unit.toNat - 0x10)
       let n : Fin 128 := Fin.ofNat 128 (fieldN loc 6 0)
       threadOf s k n = some x → x.stopped = false → ∀ cls : Byte, cls = 5 ∨ cls = 7 → detected s cls unit loc = stopThread s k n x 0x13 0 0) ∧
     (∀ (v : W32) (byQuill : Bool), (byQuill = true ∨ s.qu.down = true) → (s.err.wr - BitVec.ofNat 9 (fieldN v 24 16)).toNat ≤ 256 →
       exec (.errPtrRdWrite v byQuill) s = .next { s with err := { s.err with rd := BitVec.ofNat 9 (fieldN v 24 16) } }) ∧
     (∀ v : W32, s.qu.down = false → exec (.errPtrRdWrite v false) s = .next s) ∧
     (∀ v : W32, v ≠ 0 → exec (.errOvfClear v) s = .next { s with err := { s.err with ovf := 0, ovfu := false } }) ∧
     (∀ v : W32, bit v 2 = true → exec (.errLinesFatalClear v) s = .next { s with err := { s.err with fatal := false } }) ∧
     (s.qu.qstate = .run → fifoCount s ≠ 0 → ∃ t, exec .errorManagerConsume s = .next t ∧ t.err.rd = s.err.rd + 1 ∧ t.banks = s.banks ∧
       (badEntries s (0xA000 + 32 * (s.err.rd.toNat % 256)) 32 = [] → t.err = { s.err with rd := s.err.rd + 1 }) ∧
       (∃ x ∈ t.qu.log, x.seq = s.qu.logSeq ∧ x.val = fifoEntry s (s.err.rd.toNat % 256)) ∧
       (2048 ≤ s.qu.log.length → ∃ x ∈ t.qu.log, x.seq = s.qu.logSeq + 1 ∧ fieldN x.val 7 0 = 0x83)) ∧
     (fifoCount s = 0 ∨ s.qu.qstate ≠ .run → exec .errorManagerConsume s = .next s)) ∧
  (∀ s : State, Live s → s.err.spots = [] →
     (∀ (i : Instr) (ce : Ecc) (k : Fin 5) (e : ErrSys) (unit : Byte) (n : Nat) (loc : Nat → Nat), n ≠ 0 →
       (i = .vellumScrubStep ce ∧ k = 0 ∧ e = s.err ∧ bit s.c.chkdis 0 = false ∧ (s.dom[dVellum].st = .run ∨ s.dom[dVellum].st = .gated) ∧
           s.vellumZeroing = false ∧ readError s false (s.cfg.vellumbase.toNat + 128 * s.err.pos[0]) 128 = none ∧
           unit = 0x0B ∧ n = 16 ∧ loc = (fun i => 128 * s.err.pos[0] + 8 * i) ∨
         i = .l2ScrubStep ce ∧ k = 1 ∧ e = s.err ∧ bit s.c.chkdis 1 = false ∧ (s.dom[dVellum].st = .run ∨ s.dom[dVellum].st = .gated) ∧
           (∃ ways : List Nat, ways = (List.range 16).filter (fun w => l2GroupOn s (w / 4)) ∧ unit = 0x04 ∧ n = 8 * ways.length ∧
             loc = fun i => s.err.pos[1] + 4096 * ways.getD (i / 8) 0 + 65536 * (i % 8)) ∨
         i = .tileInkScrubRow false ce ∧ k = 2 ∧ e = { s.err with credTile := s.err.credTile - 1 } ∧ bit s.c.chkdis 2 = false ∧ s.err.credTile ≠ 0 ∧
           domRuns s dTile = true ∧ (∀ t : TReg, s.tiles[t].bad = []) ∧ unit = 0x05 ∧ n = (physWords s.var).length ∧
           loc = (fun i => tileLoc (s.err.pos[2] / boardB s.var % 16) (s.err.pos[2] % boardB s.var) ((physWords s.var).getD i 0)) ∨
         i = .tileInkScrubRow true ce ∧ k = 3 ∧ e = { s.err with credInk := s.err.credInk - 1 } ∧ bit s.c.chkdis 2 = false ∧ s.err.credInk ≠ 0 ∧
           domRuns s dBoard = true ∧ s.inkZeroing = false ∧ s.inkBad = [] ∧ unit = 0x09 ∧ n = boardB s.var ∧ loc = inkLoc s.err.pos[3]) →
       (ce = none → exec i s = .next { s with err := { e with
         pos := e.pos.set k.val ((e.pos[k] + 1) % passSteps s.var k) k.isLt, pass := e.pass.set k.val (e.pass[k].map fun p => (p.1 - 1, p.2)) k.isLt } }) ∧
       (∀ synd, ce = some synd → ∃ (t : State) (j : Nat), j < n ∧ exec i s = .next t ∧ t.err.pos[k] = (s.err.pos[k] + 1) % passSteps s.var k ∧
         t.c.errlast[1] = BitVec.ofNat 64 (loc j) ∧ fieldN t.c.errlast[0] 15 0 = 256 * unit.toNat + 1 ∧
         (isPending t 0x28 = true ∨ isPending t 0x20 = true) ∧ t.banks = s.banks ∧ t.mem = s.mem ∧ t.vellum = s.vellum)) ∧
     (bit s.c.chkdis 1 = false → s.dom[dVellum].st = .run ∨ s.dom[dVellum].st = .gated → (∀ g : Fin 4, l2GroupOn s g = false) →
       ∀ ce, ∃ t, exec (.l2ScrubStep ce) s = .next t ∧ t = { s with err := t.err } ∧ t.err.pos[1] = (s.err.pos[1] + 1) % 4096) ∧
     (s.qu.sramBad = [] → s.qu.blotBad = [] → s.err.fifoBad = [] →
       exec (.quillSramScrubStep none) s = .next { s with err := { s.err with
         pos := s.err.pos.set 4 ((s.err.pos[4] + 1) % 70656), pass := s.err.pass.set 4 (s.err.pass[4].map fun p => (p.1 - 1, p.2)) } } ∧
       ∀ synd, ∃ t, exec (.quillSramScrubStep (some synd)) s = .next t ∧ t.err.pos[4] = (s.err.pos[4] + 1) % 70656 ∧
         (isPending t 0x28 = true ∨ isPending t 0x20 = true) ∧ t.banks = s.banks ∧
         (s.err.pos[4] < 65536 → t.c.errlast[1] = BitVec.ofNat 64 (8 * s.err.pos[4]) ∧ fieldN t.c.errlast[0] 15 0 = 0x2001) ∧
         (65536 ≤ s.err.pos[4] → fieldN t.c.errlast[0] 15 0 = 0x2101)) ∧
     (∀ (w : Nat), bit s.c.chkdis 0 = false → s.dom[dVellum].st = .run → s.vellumZeroing = false → s.err.pos[0] < passSteps s.var 0 →
       s.vellumBad = [w] → w / 16 = s.err.pos[0] →
       ∃ t, exec (.vellumScrubStep none) s = .next t ∧ t.c.errlast[1] = BitVec.ofNat 64 (8 * w) ∧ fieldN t.c.errlast[0] 15 0 = 0x0B02 ∧ t.vellum = s.vellum) ∧
     (bit s.c.chkdis 2 = false → ∃ t, exec .scrubCreditGain s = .next t ∧ t = { s with err := t.err, dom := t.dom } ∧
       t.err = { s.err with credTile := min (16 * boardB s.var) (s.err.credTile + 1), credInk := min (inkRows s.var) (s.err.credInk + 1) } ∧
       (t.err.credTile = 16 * boardB s.var → s.dom[dTile].st = .gated → domUse s dTile = .asleep → t.dom[dTile] = domWake s.dom[dTile]) ∧
       (t.err.credInk = inkRows s.var → s.dom[dBoard].st = .gated → domUse s dBoard = .asleep → t.dom[dBoard] = domWake s.dom[dBoard]) ∧
       (s.dom[dTile].st ≠ .gated → s.dom[dBoard].st ≠ .gated → t.dom = s.dom)) ∧
     (∀ ce, (bit s.c.chkdis 0 = true → exec (.vellumScrubStep ce) s = .next s) ∧ (bit s.c.chkdis 1 = true → exec (.l2ScrubStep ce) s = .next s) ∧
       (bit s.c.chkdis 2 = true → exec .scrubCreditGain s = .next s) ∧ ∀ ink, (bit s.c.chkdis 2 = true → exec (.tileInkScrubRow ink ce) s = .next s)))

/-- R199, R208, R215 to R222, R229, R239, R240, R245, R246: fills bring lines into the caches, the prefetch buffer and the line buffer; a walk starts
where the walk cache lets it, goes down a level for each table, and ends with its entry installed; a finished way-group transition sets its ON bit.
None changes a register of a bank. -/
def Obligations.CacheFillsAndWalks : Prop :=
  ∀ s : State, Live s →
    (∀ va : W64, domRuns s dCore = true →
      (∀ (s1 : State) (pa : Nat) (ty : MType), translate .fetch .fetch (ringOf (curBank s)) (curBank s).ttb va s = .ok s1 pa ty →
        (readError s1 (ty == .cacheable || ruledPast s1 .core ty) (pa / 64 * 64) 64 = none →
          ∃ t, exec (.l1iMissFill va) s = .next t ∧ accessOnly s t ∧ t.ca.lineBuf = some (lineNo pa)) ∧
        (readError s1 (ty == .cacheable || ruledPast s1 .core ty) (pa / 64 * 64) 64 ≠ none → exec (.l1iMissFill va) s = .next s)) ∧
      (∀ s1 code sub, translate .fetch .fetch (ringOf (curBank s)) (curBank s).ttb va s = .bad s1 code sub → exec (.l1iMissFill va) s = .next s)) ∧
    (∀ (la : BitVec 50) (set : BitVec 7) (st : Bool), s.ca.miss = some (la, set, st) → ∃ t, exec .l1dMissFill s = .next t ∧ accessOnly s t ∧ t.ca.miss = none) ∧
    (s.ca.miss = none → exec .l1dMissFill s = .next s) ∧
    (∀ (line : BitVec 56) (err : Bool), let la := lineNo line.toNat
      let s1 := { s with ca := { s.ca with pfOut := s.ca.pfOut.erase la } }
      (la ∉ s.ca.pfOut → exec (.prefetchFill line err) s = .next s) ∧
      (la ∈ s.ca.pfOut → err = true ∨ s.c.ruledAct = true ∨ linePoison s1 true la = true → exec (.prefetchFill line err) s = .next s1) ∧
      (la ∈ s.ca.pfOut → err = false → s.c.ruledAct = false → linePoison s1 true la = false →
        (∀ k l, l2Find (fillL2 s1 la false) la = some (k, l) → l1dFind (fillL2 s1 la false) la = none →
          ∃ t, exec (.prefetchFill line err) s = .next t ∧ accessOnly s t ∧ la ∈ t.ca.pf ∧ t.ca.pf.length ≤ 16) ∧
        (l2Find (fillL2 s1 la false) la = none ∨ l1dFind (fillL2 s1 la false) la ≠ none → exec (.prefetchFill line err) s = .next (fillL2 s1 la false)))) ∧
    (∀ (r : WalkReq) (va : W64) (sel : TlbSel) (ring : BitVec 2) (ttb : W64) (ak : Ak), walkOf s r = some (sel, ring, ttb, ak) →
      (canonical ttb va = true → ttbLevels ttb ≠ 0 → walkHeld s sel ttb va = false → (tlbOf s sel).any (entryHits (tlbSets sel) (ttbAsid ttb) va) = false →
        exec (.pageWalk r va) s = .next { s with ca := { s.ca with
          walks := s.ca.walks ++ [⟨r, va, ttb, ring, (walkStart s ttb va).1, (walkStart s ttb va).2.1, (walkStart s ttb va).2.2⟩] } }) ∧
      (canonical ttb va = false ∨ ttbLevels ttb = 0 ∨ walkHeld s sel ttb va = true ∨
        (tlbOf s sel).any (entryHits (tlbSets sel) (ttbAsid ttb) va) = true → exec (.pageWalk r va) s = .next s)) ∧
    (∀ (i : Nat) (err : Bool) (w : Walk), s.ca.walks[i]? = some w → let a := descAddr w.table w.level w.va
      (walkOf s w.req = none ∨ w.ty = 2 → exec (.walkDescriptorReturn i err) s = .next (walkDrop s i)) ∧
      (∀ (sel : TlbSel) (ring : BitVec 2) (ttb : W64) (ak : Ak), walkOf s w.req = some (sel, ring, ttb, ak) → w.ty ≠ 2 →
        (exec (.walkDescriptorReturn i true) s = .next (walkDrop (portFault s a) i)) ∧
        (∀ (s1 : State), walkRead s a w.ty = (s1, none) → exec (.walkDescriptorReturn i false) s = .next (walkDrop s1 i)) ∧
        (∀ (s1 : State) (d : W64), walkRead s a w.ty = (s1, some d) →
          (∀ sub, walkDesc ak w.ring w.level d = .bad sub → exec (.walkDescriptorReturn i false) s = .next (walkDrop s1 i)) ∧
          (∀ (tab : Nat) (ty : BitVec 2), walkDesc ak w.ring w.level d = .down tab ty → ∃ t, exec (.walkDescriptorReturn i false) s = .next t ∧ accessOnly s t ∧
            t.ca.walks = s.ca.walks.set i { w with level := w.level - 1, table := tab, ty := ty }) ∧
          (∀ (n : W64) (p : Nat), walkDesc ak w.ring w.level d = .leaf n p →
            (walkLeaf w.req d n = d ∨ heldGranules s1 a 8 = [] → ∃ t, exec (.walkDescriptorReturn i false) s = .next t ∧ accessOnly s t ∧
              t.ca.walks = s.ca.walks.eraseIdx i ∧ ∃ e ∈ t.ca.l2tlb, e.leaf = walkLeaf w.req d n ∧ e.p = p ∧ e.asid = if bit e.leaf 6 = true then 0 else ttbAsid w.ttb) ∧
            (walkLeaf w.req d n ≠ d → heldGranules s1 a 8 ≠ [] →
              exec (.walkDescriptorReturn i false) s = .next (askGranules s1 (heldGranules s1 a 8))) ∧
            ((∃ acc, w.req = .core acc) → bit (walkLeaf w.req d n) 8 = bit d 8))))) ∧
    (∀ g : Fin 4, s.c.l2Busy.getLsbD g.val = true → s.pset = none → (∀ d : Fin 32, s.dom[d].after = none) →
      (s.dom[dL2w g].st = .off → s.dom[dL2w g].goal = none → ∃ t, exec (.l2GroupOffComplete g) s = .next t ∧ t.c.l2On.getLsbD g.val = false ∧
        t.c.l2Busy.getLsbD g.val = (s.c.l2En.getLsbD g.val && !s.heldOff.getLsbD (dL2w g).val)) ∧
      (domUpAcked s.dom[dL2w g] = true → s.c.l2En.getLsbD g.val = true → s.heldOff.getLsbD (dL2w g).val = false → ∃ t, exec (.l2GroupOnComplete g) s = .next t ∧
        t.c.l2On.getLsbD g.val = true ∧ t.c.l2Busy.getLsbD g.val = false))

/-- R364, R365, R367 to R373, R385, R394, R426 to R429, R452, R456: the mailbox server takes the request of the next mailbox, journals it if its
command asks for that, and answers what fails a check; during a restart the mailbox hardware answers NOTREADY; the window's words store what their
registers say, and CFG_LOCK locks, raises FWFLOOR and powers VELLUM up. -/
def Obligations.WindowAndMailboxes : Prop :=
  ∀ s : State, Live s →
    (∀ (k : BoxNum) (info : CmdInfo), let r := (requestOf s k).1
      s.win.clearing = false → s.qu.qstate ≠ .restart → s.qu.cur = none → s.upd.st ≠ .handover → nextBox s = some k →
      (∀ st d, headerFault s r (requestOf s k).2 = some (st, d) → mailFree s r → ∃ t, exec .mailboxServe s = .next t ∧ t.qu.hq = setBit s.qu.hq k.val false ∧
        t.qu.lastBox = k ∧ t.qu.cur = none ∧ mailed t r (message r.vmaj r.vmin (r.op ||| 0x8000) r.seq [st, d, 0, 0]) ∧ t.qu.blot = s.qu.blot ∧
        mpuOf t .mailboxServer) ∧
      (headerFault s r (requestOf s k).2 = none → cmdInfo r.op = some info →
        (bodyFault r info = true → mailFree s r → ∃ t, exec .mailboxServe s = .next t ∧ t.qu.hq = setBit s.qu.hq k.val false ∧
          mailed t r (message r.vmaj r.vmin (r.op ||| 0x8000) r.seq [4, 5, 0, 0]) ∧ t.qu.cur = none ∧
          (info.journaled = true → entByte (spGet 0 t.qu.blot s.qu.next.toNat) 7 = 2 ∧ entByte (spGet 0 t.qu.blot s.qu.next.toNat) 24 = 4)) ∧
        (bodyFault r info = false → info.journaled = false → ∃ t, exec .mailboxServe s = .next t ∧ t.qu.hq = setBit s.qu.hq k.val false ∧ t.qu.lastBox = k ∧
          t.qu.cur = some r ∧ t.qu.blot = s.qu.blot ∧ t.banks = s.banks ∧ t.mem = s.mem) ∧
        (bodyFault r info = false → info.journaled = true → ∃ t, exec .mailboxServe s = .next t ∧ t.qu.next = s.qu.next + 1 ∧
          t.qu.cur = some { r with entry := some s.qu.next, atick := s.win.tick, epoch := s.qu.epoch } ∧
          entByte (spGet 0 t.qu.blot s.qu.next.toNat) 7 = 1 ∧ entOk (spGet 0 t.qu.blot s.qu.next.toNat) = true))) ∧
    (s.qu.cur ≠ none ∨ s.qu.qstate = .restart ∨ nextBox s = none ∨ s.upd.st = .handover ∨ s.win.clearing = true → exec .mailboxServe s = .next s) ∧
    (∀ k : BoxNum, s.qu.qstate = .restart → s.qu.hq.getLsbD k.val = true → mailFree s (requestOf s k).1 → let r := (requestOf s k).1
      ∃ t, exec (.mailboxNotreadyReply k) s = .next t ∧ t.qu.hq = setBit s.qu.hq k.val false ∧
        mailed t r (message r.vmaj r.vmin (r.op ||| 0x8000) r.seq [7, 0, 0, 0])) ∧
    (∀ k : BoxNum, s.qu.qstate ≠ .restart ∨ s.qu.hq.getLsbD k.val = false → exec (.mailboxNotreadyReply k) s = .next s) ∧
    (∀ v : W32, s.win.clearing = false → (∀ k : BoxNum, s.qu.outbox[k] = []) → ∃ h : Vector W64 4,
      (∀ k : BoxNum, h[k] = if bit v k.val = true ∧ s.qu.hq.getLsbD k.val = false then s.win.tick else s.qu.hqTick[k]) ∧
      let t : State := { s with qu := { s.qu with
        hq := s.qu.hq ||| BitVec.ofNat 4 (fieldN v 3 0), qh := s.qu.qh &&& ~~~ (BitVec.ofNat 4 (fieldN v 11 8)), hqTick := h } }
      exec (.mbxOwnHqSet v) s = .next t ∧ exec (.mbxOwnQhClear v) s = .next t) ∧
    (∀ (k : BoxNum) (m : List Byte) (ms : List (List Byte)) (v : W32), s.win.clearing = false → s.qu.outbox[k] = m :: ms → fieldN v 11 8 = 2 ^ k.val → fieldN v 3 0 = 0 →
      (∀ j : BoxNum, j ≠ k → s.qu.outbox[j] = []) → spWf 0 s.qu.q2h[k] = true → ∃ t, exec (.mbxOwnQhClear v) s = .next t ∧ t.qu.outbox[k] = ms ∧
        t.qu.qh.getLsbD k.val = true ∧ spGetAll 0 t.qu.q2h[k] 0 m.length = m ∧ t = { s with qu := t.qu }) ∧
    (∀ by_ ply, windowOpen s by_ = true → ∃ t, exec (.tickLoRead by_ ply) s = .next t ∧ t = { s with win := t.win } ∧
      (ply = true → latchOf t.win.plyHi by_ = some (BitVec.ofNat 32 (s.c.ply.toNat >>> 32)) ∧ t.win.tickHi = s.win.tickHi) ∧
      (ply = false → latchOf t.win.tickHi by_ = some (BitVec.ofNat 32 (s.win.tick.toNat >>> 32)) ∧ t.win.plyHi = s.win.plyHi)) ∧
    (∀ v by_, windowOpen s by_ = true → by_ ≠ .quill →
      (s.cfg.lock = true → ∀ off : BitVec 16, 0x1100 ≤ off.toNat → off.toNat < 0x113C → exec (.registerWrite off v by_) s = .next s) ∧
      (s.cfg.lock = false → exec (.registerWrite 0x1100 v by_) s = .next { s with cfg := { s.cfg with coreid := v &&& 0xFFFFF } } ∧
        exec (.registerWrite 0x1138 v by_) s = .next { s with cfg := { s.cfg with fabric := if v &&& 0xFFFF = 0 then 1 else v &&& 0xFFFF } }) ∧
      exec (.registerWrite 0x0804 v by_) s = .next { s with qu := { s.qu with
        ien := BitVec.ofNat 4 (fieldN v 3 0), sien := bit v 4, schg := s.qu.schg && !bit v 8 } } ∧
      (∀ (off : BitVec 16) (k : BoxNum), off.toNat < 0x400 → off.toNat % 4 = 0 → k.val = off.toNat / 256 →
        (s.qu.hq.getLsbD k.val = true → exec (.registerWrite off v by_) s = .next s) ∧
        (s.qu.hq.getLsbD k.val = false → spWf 0 s.qu.h2q[k] = true → ∃ t, exec (.registerWrite off v by_) s = .next t ∧
          t = { s with qu := { s.qu with h2q := t.qu.h2q } } ∧ spGetAll 0 t.qu.h2q[k] (off.toNat % 256) 4 = toBytes 4 v ∧
          ∀ j : BoxNum, j ≠ k → t.qu.h2q[j] = s.qu.h2q[j]))) ∧
    (∀ (off : BitVec 16) v, off ≠ 0x1040 → off ≠ 0x1044 → off ≠ 0x1048 → exec (.registerWrite off v .quill) s = .next s) ∧
    (s.win.clearing = false → s.cfg.lock = true → exec .cfgLockSet s = .next s) ∧
    (s.win.clearing = false → s.cfg.lock = false → s.pset = none → (∀ d : Fin 32, s.dom[d].after = none) → s.dom[dVellum].st = .off → s.dom[dVellum].goal = none →
      ∃ t, exec .cfgLockSet s = .next t ∧ t.cfg = { s.cfg with lock := true } ∧ t.c.fwfloor.toNat = max s.c.fwfloor.toNat s.cfg.floor.toNat ∧
        t.bd.spare = spareFromCfg s ∧ t.dom[dVellum].fclkReq = true ∧ t.dom[dVellum].pwrReq = 2 ∧ t.dom[dVellum].goal = some .run ∧
        t.banks = s.banks ∧ t.mem = s.mem)

/-- R371, R372, R376, R378 to R380, R383, R444, R447 to R450: the configuration, power, throttle, log, scrub, spare, journal, tally and mirror
commands of the quill answer with the status and the results of R379 and do what they say; a command that goes on is answered ACCEPTED. -/
def Obligations.QuillCommandsAnswer : Prop :=
  ∀ (s : State) (r : Req), let b := r.body
    let v8 : W64 := BitVec.ofNat 64 (bnat b 8 8)
    (CmdReady 0x01 r s →
      (∀ x y, chosenVersion b = some (x, y) → (s.qu.hello = false ∨ s.qu.active = [] ∨ (s.qu.vmaj = x ∧ s.qu.vmin = y)) → ∃ t res, exec .hello s = .next t ∧
        t.qu.hello = true ∧ t.qu.vmaj = 1 ∧ t.qu.vmin = 0 ∧ t.qu.cur = none ∧ mailed t r (message 1 0 0x8001 r.seq ([0, 0, 0, 0] ++ res)) ∧ res.length = 24 ∧
        t.qu.trace = s.qu.trace ++ [.hello (BitVec.ofNat 32 (bnat b 4 4))]) ∧
      (chosenVersion b = none → (s.qu.hello = false ∨ s.qu.active = []) → ∃ t res, exec .hello s = .next t ∧ t.qu.hello = false ∧
        mailed t r (message 0 0 0x8001 r.seq ([3, 3, 0, 0] ++ res)) ∧ res.length = 24) ∧
      (s.qu.hello = true → s.qu.active ≠ [] → chosenVersion b ≠ some (s.qu.vmaj, s.qu.vmin) → ∃ t res, exec .hello s = .next t ∧ t.qu.hello = true ∧
        t.qu.active = s.qu.active ∧ mailed t r (message s.qu.vmaj s.qu.vmin 0x8001 r.seq ([2, 0x10, 0, 0] ++ res)) ∧ res.length = 24)) ∧
    (∀ x y, chosenVersion b = some (x, y) ↔ x = 1 ∧ y = 0 ∧ 256 * (bbyte b 0).toNat + (bbyte b 1).toNat ≤ 0x100 ∧ 0x100 ≤ 256 * (bbyte b 2).toNat + (bbyte b 3).toNat) ∧
    (CmdReady 0x02 r s →
      (bnat b 0 2 = 0x200 → ∃ t, exec .configSet s = .next t ∧ t.qu.spareAdv = v8 ∧ replied t r 0 0 (toBytes 8 v8)) ∧
      (bnat b 0 2 = 0x201 → ∃ t, exec .configSet s = .next t ∧ t.qu.qmask = v8.setWidth 7 ∧ replied t r 0 0 (toBytes 8 (v8 &&& 0x7F))) ∧
      (∀ d : Fin 32, bnat b 0 2 = 0x100 + d.val → domPresent s.var d = true → ∃ t, exec .configSet s = .next t ∧
        t.qu.thr[d].toNat = min 10000000 v8.toNat ∧ replied t r 0 0 (toBytes 8 (BitVec.ofNat 64 (min 10000000 v8.toNat)))) ∧
      (bnat b 0 2 < 0x10 → ∃ t, exec .configSet s = .next t ∧ replied t r 5 0x12 [] ∧ t.cfg = s.cfg) ∧
      (configValue s (bnat b 0 2) = none → ∃ t, exec .configSet s = .next t ∧ replied t r 4 6 [])) ∧
    (CmdReady 0x03 r s → (∀ x, configValue s (bnat b 0 2) = some x → ∃ t, exec .configGet s = .next t ∧ replied t r 0 0 (toBytes 8 x) ∧ t.cfg = s.cfg) ∧
      (configValue s (bnat b 0 2) = none → ∃ t, exec .configGet s = .next t ∧ replied t r 4 6 [])) ∧
    (∀ (i : Instr) (tg : Nat), (i = .powerSetOff ∧ tg = 0 ∨ i = .powerSetRetain ∧ tg = 1 ∨ i = .powerSetOn ∧ tg = 2) → CmdReady 0x10 r s → (bbyte b 4).toNat = tg →
      let mask : W32 := BitVec.ofNat 32 (bnat b 0 4)
      (∀ st d, powerFault s mask tg = some (st, d) → ∃ t, exec i s = .next t ∧ t.qu.cur = none ∧ (powerQuiet s → replied t r st d [] ∧ (s.qu.blotBad = [] → t.heldOff = s.heldOff))) ∧
      (powerFault s mask tg = none → (s.mir.fetch = none ∨ mask.getLsbD 0 = false ∨ tg ≠ 0) → s.qu.active.length < 16 → ∃ t, exec i s = .next t ∧ acceptedReply s t r ∧
        ((∀ d : Fin 32, s.dom[d].goal = none) → (othersClocked s = true → s.dom[dVellum].st = .run) →
          ∀ d : Fin 32, mask.getLsbD d.val = true → t.heldOff.getLsbD d.val = decide (tg = 0) ∧ t.heldRet.getLsbD d.val = decide (tg = 1)))) ∧
    (CmdReady 0x10 r s → 2 < (bbyte b 4).toNat → powerQuiet s → ∃ t, exec .powerSetOn s = .next t ∧ replied t r 4 6 []) ∧
    (CmdReady 0x11 r s → ∃ t, exec .powerGet s = .next t ∧ replied t r 0 0 ((List.range 16).flatMap fun i => toBytes 4 (powerWord s (0xC000 + 4 * i))) ∧ t.heldOff = s.heldOff) ∧
    (CmdReady 0x12 r s → ∃ t, exec .throttleSet s = .next t ∧ t.c.bthrHost = bbyte b 0 ∧ replied t r 0 0 []) ∧
    (CmdReady 0x20 r s → let n := (bbyte b 4).toNat
      let recs := (s.qu.log.filter fun x => !x.freed && seqFrom x.seq (BitVec.ofNat 32 (bnat b 0 4))).take n
      let lost : Byte := if s.qu.logLost.isSome then 1 else 0
      (1 ≤ n → n ≤ 7 → ∃ t seq, exec .errlogRead s = .next t ∧ t.qu.log = s.qu.log ∧ (∀ p ∈ recs.head?, seq = p.seq) ∧
        replied t r 0 0 (toBytes 4 seq ++ [BitVec.ofNat 8 recs.length, lost, 0, 0] ++ recs.flatMap fun x => toBytes 32 x.val)) ∧
      (n = 0 ∨ 7 < n → ∃ t, exec .errlogRead s = .next t ∧ replied t r 4 6 [] ∧ t.qu.log = s.qu.log)) ∧
    (CmdReady 0x21 r s → ∃ t, exec .errlogClear s = .next t ∧ replied t r 0 0 [] ∧
      t.qu.log = s.qu.log.map fun p => if seqFrom (BitVec.ofNat 32 (bnat b 0 4)) p.seq then { p with freed := true } else p) ∧
    (∀ k : Fin 5, CmdReady 0x22 r s → (bbyte b 0).toNat = k.val →
      ((bbyte b 1).toNat = 0 → bnat b 4 4 ≠ 0 → bnat b 4 4 < 2 ^ 32 → ∃ t, exec .scrubSetInterval s = .next t ∧ replied t r 0 0 [] ∧
        t.err.interval[k] = BitVec.ofNat 32 (bnat b 4 4) ∧ (intervalReset k < BitVec.ofNat 32 (bnat b 4 4) → t.err.chkoff = true)) ∧
      ((bbyte b 1).toNat = 0 → bnat b 4 4 = 0 → ∃ t, exec .scrubSetInterval s = .next t ∧ replied t r 4 6 [] ∧ t.err.interval = s.err.interval) ∧
      ((bbyte b 1).toNat = 1 → ∃ t, exec .scrubResetInterval s = .next t ∧ replied t r 0 0 [] ∧ t.err.interval[k] = intervalReset k) ∧
      ((bbyte b 1).toNat = 2 → s.err.pass[k] = none → (s.qu.active.length < 16 → ∃ t, exec .scrubPass s = .next t ∧ acceptedReply s t r ∧
          t.err.pass[k] = some (passSteps s.var k, s.qu.nextCmd) ∧ (k = 2 → t.err.credTile = passSteps s.var 2) ∧ (k = 3 → t.err.credInk = passSteps s.var 3)) ∧
        (16 ≤ s.qu.active.length → ∃ t, exec .scrubPass s = .next t ∧ replied t r 2 0x11 [] ∧ t.err.pass = s.err.pass)) ∧
      ((bbyte b 1).toNat = 2 → s.err.pass[k] ≠ none → ∃ t, exec .scrubPass s = .next t ∧ replied t r 2 0x10 [])) ∧
    (CmdReady 0x22 r s → 5 ≤ (bbyte b 0).toNat ∨ 2 < (bbyte b 1).toNat →
      ∃ t i, (i = Instr.scrubSetInterval ∨ i = .scrubResetInterval ∨ i = .scrubPass) ∧ exec i s = .next t ∧ replied t r 4 6 []) ∧
    (∀ (k : Fin 5), Live s → (∀ (id : Nat) (a : Active), s.err.pass[k] = some (0, id) → running s id a →
        ∃ t, exec (.scrubPassComplete k) s = .next t ∧ completed s t id a 0 0 [] ∧ t.err.pass[k] = none) ∧
      ((∀ id, s.err.pass[k] ≠ some (0, id)) → exec (.scrubPassComplete k) s = .next s)) ∧
    (CmdReady 0x23 r s → let f : BitVec 10 := BitVec.ofNat 10 (bnat b 0 2)
      let n := (bbyte b 2).toNat
      (boardB s.var ≤ bnat b 0 2 ∨ (spareCount s.var ≤ n ∧ n ≠ 0xFF) → ∃ t, exec .fileSpare s = .next t ∧ replied t r 4 6 [] ∧ t.bd = s.bd) ∧
      (bnat b 0 2 < boardB s.var → n < spareCount s.var ∨ n = 0xFF →
        (∀ j : Fin 8, spareOf s f = some j → CommandsNumbered s → s.qu.active.length < 16 → ∃ t, exec .fileSpare s = .next t ∧ acceptedReply s t r ∧ t.bd = s.bd ∧
          t.qu.outbox[r.box] = [message r.vmaj r.vmin (r.op ||| 0xC000) r.seq [0, 0, 0, 0, BitVec.ofNat 8 j.val]]) ∧
        (spareOf s f = none → (∀ j ∈ freeSpares s, j.val ≠ n) → n ≠ 0xFF ∨ freeSpares s = [] → ∃ t, exec .fileSpare s = .next t ∧ replied t r 5 0x12 [] ∧ t.bd = s.bd) ∧
        (spareOf s f = none → s.qu.active.length < 16 → (n = 0xFF ∧ freeSpares s ≠ []) ∨ (∃ j ∈ freeSpares s, j.val = n) →
          ∃ t, ∃ j ∈ freeSpares s, exec .fileSpare s = .next t ∧ acceptedReply s t r ∧ (n ≠ 0xFF → j.val = n) ∧ t.bd = { s.bd with remaps := s.bd.remaps ++ [(j, f)] }))) ∧
    (CmdReady 0x30 r s → let n := (bbyte b 2).toNat
      (1024 ≤ bnat b 0 2 ∨ n = 0 ∨ 7 < n → ∃ t, exec .journalRead s = .next t ∧ replied t r 4 6 []) ∧
      (bnat b 0 2 < 1024 → 1 ≤ n → n ≤ 7 → ∃ t res, exec .journalRead s = .next t ∧ res.length = 32 * n ∧
        replied t r 0 0 (toBytes 4 (bltHeadWord s) ++ [bbyte b 2, 0, 0, 0] ++ res) ∧ (∀ j < n, (bnat b 0 2 + j) % 1024 ∉ t.qu.blotBad) ∧
        (s.qu.blotBad = [] → res = (List.range n).flatMap fun j => toBytes 32 (spGet 0 s.qu.blot ((bnat b 0 2 + j) % 1024))))) ∧
    (∀ (i : Instr) (op : BitVec 16), (i = .tallyCfg ∧ op = 0x40 ∨ i = .tallyRead ∧ op = 0x41 ∧ tallyWaits s r = false ∨
        hasPartner s.var = true ∧ (i = .mirrorCfg ∧ op = 0x50 ∨ i = .mirrorFetchMirror ∧ op = 0x51 ∧ bbyte b 2 = 1 ∨
          i = .mirrorFetchPrimary ∧ op = 0x51 ∧ bbyte b 2 = 0 ∨ i = .mirrorVerify ∧ op = 0x52 ∨ i = .mirrorStatus ∧ op = 0x53)) →
      CmdReady op r s → domUse s dVellum = .off → ∃ t, exec i s = .next t ∧ replied t r 5 0x12 [] ∧ t.tal = s.tal ∧ t.mir = s.mir) ∧
    (∀ u : TallyNum, CmdReady 0x40 r s → domUse s dVellum ≠ .off → (bbyte b 0).toNat = u.val → bit (bbyte b 1) 0 = false → bit (bbyte b 1) 1 = false →
      ∃ t, exec .tallyCfg s = .next t ∧ replied t r 0 0 [] ∧
        t.tal[u] = (if bit (bbyte b 1) 3 = true then { s.tal[u] with qlock := bit (bbyte b 1) 2 } else s.tal[u])) ∧
    (CmdReady 0x40 r s → domUse s dVellum ≠ .off → 16 ≤ (bbyte b 0).toNat → ∃ t, exec .tallyCfg s = .next t ∧ replied t r 4 6 [] ∧ t.tal = s.tal) ∧
    (∀ u : TallyNum, CmdReady 0x41 r s → domUse s dVellum ≠ .off → (bbyte b 0).toNat = u.val → let p := (bbyte b 1).toNat
      (s.tal[u].pend = true → exec .tallyRead s = .next s) ∧
      (s.tal[u].pend = false → p ≤ 1 ∨ (p ≤ 3 ∧ s.tal[u].keyed = true ∧ bnat b 2 2 < talKeys s.tal[u]) →
        ∃ t, exec .tallyRead s = .next t ∧ replied t r 0 0 (toBytes 8 s.tal[u].sply ++ tallyPart s s.tal[u] p (bnat b 2 2)) ∧ t.tal = s.tal) ∧
      (s.tal[u].pend = false → 3 < p ∨ (2 ≤ p ∧ (s.tal[u].keyed = false ∨ talKeys s.tal[u] ≤ bnat b 2 2)) → ∃ t, exec .tallyRead s = .next t ∧ replied t r 4 6 [])) ∧
    (CmdReady 0x50 r s → hasPartner s.var = true → domUse s dVellum ≠ .off →
      (s.mir.st = .idle → bnat b 0 2 = 0 → bbyte b 0 = 0 → bbyte b 1 = 0 → bbyte b 2 = 0x18 →
        ∃ t res, exec .mirrorCfg s = .next t ∧ replied t r 0 0 res ∧ res.length = 8 ∧ t.mir.qlock = true ∧ t.mir.cfg = s.mir.cfg ∧ t.mir.en = s.mir.en) ∧
      (s.mir.st ≠ .idle → ∃ t, exec .mirrorCfg s = .next t ∧ replied t r 2 0x10 [] ∧ t.mir = s.mir)) ∧
    (CmdReady 0x51 r s → hasPartner s.var = true → domUse s dVellum ≠ .off → (bbyte b 3).toNat ≤ 2 → (bbyte b 4).toNat ≤ 1 →
      (s.mir.st ≠ .idle → ∀ i, (i = .mirrorFetchMirror ∧ bbyte b 2 = 1 ∨ i = .mirrorFetchPrimary ∧ bbyte b 2 = 0) → ∃ t, exec i s = .next t ∧ replied t r 2 0x10 [] ∧ t.mir = s.mir) ∧
      (s.mir.st = .idle → s.qu.active.length < 16 →
        (bbyte b 2 = 1 → s.mir.commit = none → ∃ t f, exec .mirrorFetchMirror s = .next t ∧ acceptedReply s t r ∧ t.mir.st = .fetch ∧
          t.mir.fetch = some f ∧ f.verify = false ∧ f.cmd = s.qu.nextCmd) ∧
        (bbyte b 2 = 0 → Memory.wf s.vellum = true → CommandsNumbered s → ∃ t res, exec .mirrorFetchPrimary s = .next t ∧ acceptedReply s t r ∧ t.mem = s.mem ∧
          res.length = 16 ∧ res.drop 12 = [0, 0, 0, 0] ∧ t.qu.outbox[r.box] = [message r.vmaj r.vmin (r.op ||| 0xC000) r.seq ([0, 0, 0, 0] ++ res)] ∧
          ∀ g ∈ maskGranules (localCounts s) (BitVec.ofNat 16 (bnat b 0 2)), mapBit t false g = true ∧ mapBit t true g = true))) ∧
    (CmdReady 0x52 r s → hasPartner s.var = true → domUse s dVellum ≠ .off → s.mir.st = .idle → s.mir.fetch = none → s.mir.commit = none →
      s.qu.active.length < 16 → ∃ t f, exec .mirrorVerify s = .next t ∧ acceptedReply s t r ∧ t.mir.st = .verify ∧ t.mir.fetch = some f ∧ f.verify = true) ∧
    (CmdReady 0x53 r s → (hasPartner s.var = false → ∃ t, exec .mirrorStatus s = .next t ∧ replied t r 0 0 (List.replicate 64 0)) ∧
      (hasPartner s.var = true → domUse s dVellum ≠ .off → ∃ t res, exec .mirrorStatus s = .next t ∧ replied t r 0 0 res ∧ res.length = 64 ∧
        res.take 32 = toBytes 8 (mirctlWord s) ++ toBytes 8 (mirstatWord s) ++ toBytes 8 s.mir.last ++ toBytes 8 s.mir.resv ∧ t.mir = s.mir)) ∧
    (∀ (i : Instr) (op : BitVec 16), hasPartner s.var = false →
      (i = .mirrorCfg ∧ op = 0x50 ∨ i = .mirrorFetchMirror ∧ op = 0x51 ∧ bbyte b 2 = 1 ∨ i = .mirrorFetchPrimary ∧ op = 0x51 ∧ bbyte b 2 = 0 ∨ i = .mirrorVerify ∧ op = 0x52) →
      CmdReady op r s → ∃ t, exec i s = .next t ∧ replied t r 5 0x12 [])

/-- R393, R396 to R405, R407: the update commands: UPD_BEGIN checks the window and the manifest and starts a session, UPD_CHUNK copies one chunk or
accepts a request for all, UPD_STATUS reports, UPD_ACTIVATE commits or begins the handover, UPD_ABORT ends the session; the handover commits in a new
epoch or fails with a restart; the session ends when the old banks are free. -/
def Obligations.UpdateCommands : Prop :=
  ∀ (s : State) (r : Req), let b := r.body
    let u := s.upd
    (CmdReady 0x60 r s →
      (s.qu.qstate = .rom → s.cfg.lock = false → ∃ t, exec .updBegin s = .next t ∧ replied t r 7 0x49 [] ∧ t.upd = u) ∧
      (s.qu.qstate = .run ∨ s.cfg.lock = true →
        (u.st ≠ .idle ∨ u.oldInUse = true → ∃ t, exec .updBegin s = .next t ∧ replied t r 2 0x10 [] ∧ t.upd = u) ∧
        (u.st = .idle → u.oldInUse = false →
          let bad := bnat b 0 8 % 4096 ≠ 0 ∨ bnat b 8 8 % 4096 ≠ 0 ∨ 67108864 < bnat b 8 8 ∨ bnat b 8 8 < bnat b 16 4 + bnat b 20 4
          (bad → ∃ t, exec .updBegin s = .next t ∧ replied t r 4 6 [] ∧ t.upd = u) ∧
          (¬ bad → let read := (windowRead { s with upd := { u with base := BitVec.ofNat 64 (bnat b 0 8) } } (bnat b 16 4) (bnat b 20 4)).2
            (read = none → ∃ t, exec .updBegin s = .next t ∧ replied t r 5 0x4A [] ∧ t.upd = u) ∧
            (∀ m, read = some m →
              (∀ d, hdrFields s.var m = some d → ∃ t, exec .updBegin s = .next t ∧ replied t r 8 d [] ∧ t.upd = u) ∧
              (hdrFields s.var m = none → bbyte m 11 = 0x10 → hdrLen m = true → m.length = 512 + hdrBody m →
                (hdrSig m = false → ∃ t, exec .updBegin s = .next t ∧ replied t r 8 0x44 [] ∧ t.upd = u) ∧
                (hdrSig m = true →
                  (hdrFloor m < s.c.fwfloor.toNat → ∃ t, exec .updBegin s = .next t ∧ replied t r 9 0x48 [] ∧ t.upd = u) ∧
                  (s.c.fwfloor.toNat ≤ hdrFloor m → sha384Bytes (m.drop 512) ≠ (m.drop 64).take 48 → ∃ t, exec .updBegin s = .next t ∧ replied t r 8 0x45 [] ∧ t.upd = u) ∧
                  (s.c.fwfloor.toNat ≤ hdrFloor m → sha384Bytes (m.drop 512) = (m.drop 64).take 48 → manOk s (m.drop 512) (bnat b 8 8) = true →
                    (u.everB = true ∨ (manParts (m.drop 512)).length = 4) →
                    ∃ t, exec .updBegin s = .next t ∧ replied t r 0 0 [] ∧ t.upd.st = .staging ∧ t.upd.parts = manParts (m.drop 512) ∧ t.upd.stores = u.stores)))))))) ∧
    (∀ (p : Part), CmdReady 0x61 r s → u.st ≠ .idle → u.parts[(bbyte b 0).toNat]? = some p → (∀ x ∈ u.alls, x.1 ≠ (bbyte b 0).toNat) →
      let k := (bbyte b 0).toNat
      let c := bnat b 4 4
      (chunkAll r = true → s.qu.active.length < 16 → ∃ t, exec .updChunkAll s = .next t ∧ acceptedReply s t r ∧ t.upd.alls = u.alls ++ [(k, s.qu.nextCmd)]) ∧
      (chunkAll r = false →
        (chunkCount p ≤ c → ∃ t, exec .updChunk s = .next t ∧ t.upd = u ∧ replied t r 4 6 []) ∧
        (c < chunkCount p → bit p.bitmap c = true → ∃ t, exec .updChunk s = .next t ∧ t.upd = u ∧
          replied t r 0 0 [partCode p.st, BitVec.ofNat 8 (chunkCount p), BitVec.ofNat 8 (chunksPresent p), 0]) ∧
        (c < chunkCount p → bit p.bitmap c = false → c ≠ 0 → p.st = .empty ∨ p.st = .failed → ∃ t, exec .updChunk s = .next t ∧ t.upd = u ∧
          replied t r 7 0x49 [partCode p.st, BitVec.ofNat 8 (chunkCount p), BitVec.ofNat 8 (chunksPresent p), 0]) ∧
        (c < chunkCount p → bit p.bitmap c = false → (c = 0 ∨ p.st = .staging ∨ p.st = .verified) →
          let read := (windowRead s (p.woffs + 4096 * c) (min 4096 (p.len - 4096 * c))).2
          (read = none → ∃ t, exec .updChunk s = .next t ∧ t.upd = u ∧
            replied t r 5 0x4A [partCode p.st, BitVec.ofNat 8 (chunkCount p), BitVec.ofNat 8 (chunksPresent p), 0]) ∧
          (∀ bs, read = some bs → (c = 0 → chunk0Fault s p (bs.take 512) = none) →
            let p1 := { p with st := .staging, bitmap := setBit p.bitmap c true, data := spSetAll 0 p.data (4096 * c) bs }
            chunksPresent p1 ≠ chunkCount p1 → ∃ t, exec .updChunk s = .next t ∧ t.upd = { u with parts := u.parts.set k p1 } ∧
              replied t r 0 0 [1, BitVec.ofNat 8 (chunkCount p), BitVec.ofNat 8 (chunksPresent p1), 0]) ∧
          (∀ bs st d, read = some bs → c = 0 → chunk0Fault s p (bs.take 512) = some (st, d) → ∃ t, exec .updChunk s = .next t ∧
            t.upd = { u with parts := u.parts.set k { p with st := .empty } } ∧
            replied t r st d [0, BitVec.ofNat 8 (chunkCount p), BitVec.ofNat 8 (chunksPresent p), 0])))) ∧
    (∀ (k id : Nat) (p : Part) (a : Active), Live s → u.alls.head? = some (k, id) → running s id a → u.parts[k]? = some p →
      (∀ c < chunkCount p, bit p.bitmap c = true) → ∃ t, exec .updChunkAllComplete s = .next t ∧ t.upd.alls = u.alls.filter (·.2 != id) ∧
        completed s t id a 0 0 [partCode p.st, BitVec.ofNat 8 (chunkCount p), BitVec.ofNat 8 (chunksPresent p), 0]) ∧
    (Live s → u.alls = [] → exec .updChunkAllComplete s = .next s) ∧
    (CmdReady 0x62 r s → (bbyte b 0 = 0xFF → ∃ t res, exec .updStatus s = .next t ∧ replied t r 0 0 res ∧ res.length = 64 ∧
        res.take 8 = [updCode u.st, BitVec.ofNat 8 u.parts.length, 0, 0] ++ toBytes 4 s.c.fwfloor ∧ t.upd = u) ∧
      (∀ p, bbyte b 0 ≠ 0xFF → u.parts[(bbyte b 0).toNat]? = some p → ∃ t, exec .updStatus s = .next t ∧ t.upd = u ∧
        replied t r 0 0 ([partCode p.st, BitVec.ofNat 8 (chunkCount p), BitVec.ofNat 8 (chunksPresent p), p.cls] ++ toBytes 8 p.bitmap ++ toBytes 8 p.version ++
          toBytes 4 p.floorver))) ∧
    (CmdReady 0x63 r s → let ply : W64 := BitVec.ofNat 64 (bnat b 8 8)
      (∀ st d, activateFault r s = some (st, d) → ∃ t, exec .updActivate s = .next t ∧ replied t r st d [] ∧ t.upd = u) ∧
      (u.st ≠ .ready → activateFault r s = some (7, 0x49)) ∧
      (activateFault r s = none → u.everB = false →
        (s.qu.qstate = .run → ∃ t, exec .updActivate s = .next t ∧ replied t r 0 0 (toBytes 8 ply) ∧ t.upd.st = .idle ∧ t.upd.everB = true) ∧
        (s.qu.qstate = .rom → ∃ t, exec .updActivate s = .next t ∧ replied t r 0 0 (toBytes 8 ply) ∧ t.upd.st = .idle ∧ t.upd.everB = true ∧ t.qu.qstate = .restart)) ∧
      (s.qu.qstate = .run → activateFault r s = none → u.everB = true → bit (bbyte b 0) 0 = true → s.qu.active.length < 16 → ∃ t, exec .updActivate s = .next t ∧
        acceptedReply s t r ∧ t.upd = { u with st := .handover, handover := some (s.qu.nextCmd, ply) }) ∧
      (s.qu.qstate = .run → activateFault r s = none → u.everB = true → bit (bbyte b 0) 0 = false → classBParts u ≠ [] → ∃ t, exec .updActivate s = .next t ∧
        replied t r 0 0 (toBytes 8 ply) ∧ t.upd.st = .scheduled ∧ t.upd.ply = ply ∧ t.c.fwfloor.toNat = max s.c.fwfloor.toNat u.newFloor.toNat)) ∧
    (CmdReady 0x64 r s → u.alls = [] →
      (u.st = .idle → ∃ t, exec .updAbort s = .next t ∧ replied t r 0 0 [] ∧ t.upd = u) ∧
      (u.st = .staging ∨ u.st = .ready → ∃ t, exec .updAbort s = .next t ∧ replied t r 0 0 [] ∧ t.upd.st = .idle ∧ t.upd.parts = [] ∧ t.upd.stores = u.stores) ∧
      (u.st = .handover → ∃ t, exec .updAbort s = .next t ∧ replied t r 2 0x10 [] ∧ t.upd = u) ∧
      (u.st = .scheduled →
        (u.oldInUse = true ∨ (∃ p ∈ u.parts, p.cls = 1) → ∃ t, exec .updAbort s = .next t ∧ replied t r 5 0x12 [] ∧ t.upd = u) ∧
        (u.oldInUse = false → (∀ p ∈ u.parts, p.cls ≠ 1) → ∃ t, exec .updAbort s = .next t ∧ replied t r 0 0 [] ∧ t.upd.st = .idle ∧
          ∀ k : Fin 3, t.upd.stores[k].armed = false ∧ t.upd.stores[k].active = u.stores[k].active))) ∧
    (∀ (id : Nat) (ply : W64) (a : Active), Live s → u.st = .handover → s.qu.qstate = .run → u.handover = some (id, ply) → running s id a →
      ∃ t, exec .handoverCommit s = .next t ∧ t.qu.epoch = s.qu.epoch + 1 ∧ t.qu.hello = false ∧ t.qu.qstate = .run ∧ t.upd.handover = none ∧
        mailed t a.req (message a.req.vmaj a.req.vmin (a.req.op ||| 0xC000) a.req.seq ([0, 0, 0, 0] ++ toBytes 8 ply)) ∧
        (classBParts u = [] → t.upd.st = .idle) ∧ (classBParts u ≠ [] → t.upd.st = .scheduled ∧ t.upd.ply = ply)) ∧
    (Live s → u.handover = none ∨ u.st ≠ .handover ∨ s.qu.qstate ≠ .run → exec .handoverCommit s = .next s) ∧
    (Live s → u.st = .handover → s.qu.qstate = .run → longInRun s → ∃ t, exec .handoverTimeout s = .next t ∧ t.qu.qstate = .restart ∧ t.upd.st = .ready ∧
      t.upd.handover = none ∧ t.qu.hello = false) ∧
    (Live s → u.st ≠ .handover → exec .handoverTimeout s = .next s) ∧
    (Live s → u.oldInUse = true → (∀ o ∈ s.ops, o.id ∉ u.oldOps) → (∀ d ∈ u.oldDescs, d ∉ unposted s d.1) →
      exec .updateBanksReleased s = .next { s with upd := idleSession u }) ∧
    (Live s → u.oldInUse = false ∨ (∃ o ∈ s.ops, o.id ∈ u.oldOps) ∨ (∃ d ∈ u.oldDescs, d ∈ unposted s d.1) → exec .updateBanksReleased s = .next s)

/-- R322, R326, R366, R379, R387 to R390, R408, R449, R458: UNIT_RESET asks for a warm reset, turns a domain off and on, or restarts the quill; a
component that restarts ends its commands as ABORTED; the watchdog and the faults of the quill restart it; a start enters RUN in a new epoch or is
counted as failed, and the third failure takes the quill down. -/
def Obligations.QuillResetsAndRestarts : Prop :=
  ∀ (s : State) (r : Req), let u := (bbyte r.body 0).toNat
    (CmdReady 0x70 r s →
      (u = 0 → s.qu.active.length < 16 → ∃ t, exec .unitResetWarm s = .next t ∧ acceptedReply s t r ∧ t.win.wrst = true) ∧
      (∀ d, unitDom s.var u = some d → s.pset = none → s.qu.active.length < 16 → ∃ t, exec .unitResetDomain s = .next t ∧ acceptedReply s t r) ∧
      (u ≠ 0 → u ≠ 0x20 → unitDom s.var u = none → powerQuiet s → ∃ t, exec .unitResetDomain s = .next t ∧ replied t r 4 6 []) ∧
      (u = 0x20 → (∀ a ∈ s.qu.active, ¬ (a.req.op = 0x70 ∧ bbyte a.req.body 0 = 0x20)) →
        (s.qu.active.length < 16 → ∃ t, exec .unitResetQuill s = .next t ∧ acceptedReply s t r ∧ t.qu.active = s.qu.active ++ [⟨s.qu.nextCmd, r, false⟩] ∧
          t.qu.qstate = s.qu.qstate) ∧
        (16 ≤ s.qu.active.length → ∃ t, exec .unitResetQuill s = .next t ∧ replied t r 2 0x11 []))) ∧
    (∀ a : Active, Live s → s.qu.qstate ≠ .restart → (s.qu.active.find? fun a => a.req.op == 0x70 && bbyte a.req.body 0 == 0x20) = some a → s.qu.down = false →
      spWf 0 s.qu.q2h[a.req.box] = true → ∃ t, exec .unitResetQuill s = .next t ∧ t.qu.qstate = .restart ∧ t.qu.hello = false ∧ t.qu.rcount = s.qu.rcount ∧
        (∀ i, a.req.entry = some i → a.replay = false → entByte (spGet 0 t.qu.blot i.toNat) 7 = 2) ∧
        (s.qu.qh.getLsbD a.req.box.val = false → s.qu.outbox[a.req.box] = [] →
          mailed t a.req (message a.req.vmaj a.req.vmin (a.req.op ||| 0xC000) a.req.seq [0, 0, 0, 0])) ∧
        (s.qu.qh.getLsbD a.req.box.val = true → t.qu.q2h = s.qu.q2h)) ∧
    (∀ (c : Component) (a : Active), Live s → s.qu.qstate = .run → c ≠ .kernel → s.qu.active = [a] → componentOf a.req.op = c → a.replay = false → mailFree s a.req →
      s.qu.cur = none → s.qu.faults = [] → ∃ t, exec (.componentRestart c) s = .next t ∧ t.qu.active = [] ∧ t.qu.qstate = .run ∧ t.qu.faults = [(c, s.win.tick)] ∧
        mailed t a.req (message a.req.vmaj a.req.vmin (a.req.op ||| 0xC000) a.req.seq [6, 0x20, 0, 0]) ∧ mpuOf t c ∧
        (s.qu.logHeadBad = false → ∃ x ∈ t.qu.log, fieldN x.val 7 0 = 0x82) ∧
        (badOf s (componentNum c) = [] → t.qu.thr = s.qu.thr ∧ t.qu.qmask = s.qu.qmask ∧ t.qu.spareAdv = s.qu.spareAdv) ∧
        (badOf s (componentNum c) ≠ [] → (c = .powerManager → t.qu.thr = ({} : Quill).thr) ∧ (c = .mailboxServer → t.qu.qmask = ({} : Quill).qmask) ∧
          t.qu.trace = s.qu.trace ++ [.stateReset c])) ∧
    (∀ c : Component, Live s → s.qu.qstate = .run → longInRun s →
      (c = .kernel ∨ 2 ≤ (s.qu.faults.filter fun f => f.1 == c && decide ((s.win.tick - f.2).toNat < 6000000000)).length) →
      ∃ t, exec (.componentRestart c) s = .next t ∧ t.qu.qstate = .restart ∧ t.qu.hello = false) ∧
    (∀ c : Component, Live s → s.qu.qstate ≠ .run → exec (.componentRestart c) s = .next s) ∧
    (Live s → exec .quillWatchdogKick s = .next { s with qu := { s.qu with wdog := 0 } }) ∧
    (Live s → s.qu.wdog < 100000 → exec .quillWatchdogExpiry s = .next s) ∧
    (Live s → s.win.clearing = false →
      (100000 ≤ s.qu.wdog → ∃ t, exec .quillWatchdogExpiry s = .next t ∧ t.qu.hello = false ∧ t.qu.blot = s.qu.blot ∧ (isPending t 0x28 = true ∨ isPending t 0x20 = true) ∧
        (s.qu.down = true → t.qu.qstate = .rom) ∧ (s.qu.down = false → (s.qu.qstate = .run → longInRun s) → t.qu.qstate = .restart ∧ t.qu.rcount = s.qu.rcount)) ∧
      ∀ c : QRestart,
        (s.qu.down = false → (s.qu.qstate = .run → longInRun s) → ∃ t, exec (.quillRestart c) s = .next t ∧ t.qu.qstate = .restart ∧
          t.qu.hello = false ∧ t.qu.schg = true ∧ t.pset = none ∧ t.qu.blot = s.qu.blot ∧ t.qu.rcount = s.qu.rcount) ∧
        (∀ t0, s.qu.down = false → s.qu.qstate = .run → s.qu.runTick = some t0 → (s.win.tick - t0).toNat < 100000000 → ∃ t, exec (.quillRestart c) s = .next t ∧
          t.qu.hello = false ∧ t.qu.schg = true ∧ (s.qu.rcount.toNat < 2 → t.qu.qstate = .restart ∧ t.qu.rcount = s.qu.rcount + 1 ∧ t.qu.down = false) ∧
          (2 ≤ s.qu.rcount.toNat → t.qu.qstate = .rom ∧ t.qu.rcount = 3 ∧ t.qu.down = true))) ∧
    (Live s → s.qu.qstate = .restart →
      (bit s.cfg.options 0 = true → exec .quillStartComplete s = .next { s with qu := { s.qu with qstate := .rom, schg := true, replaying := false } } ∧
        ∀ why, exec (.quillStartFail why) s = .next s) ∧
      (bit s.cfg.options 0 = false → (s.qu.replaying = true ∨ mayStart s = true) → s.qu.active = [] → ∃ t, exec .quillStartComplete s = .next t ∧ t.qu.qstate = .run ∧
        t.qu.epoch = s.qu.epoch + 1 ∧ t.qu.down = false ∧ t.qu.schg = true ∧ t.qu.hello = false ∧ t.qu.replaying = false) ∧
      (bit s.cfg.options 0 = false → s.qu.replaying = true → s.qu.active ≠ [] → exec .quillStartComplete s = .next s) ∧
      (bit s.cfg.options 0 = false → s.qu.replaying = false → mayStart s = false → exec .quillStartComplete s = .next s) ∧
      (bit s.cfg.options 0 = false → s.qu.replaying = false → mayStart s = true → ∀ (a : Active) (i : BitVec 10) (info : CmdInfo), s.qu.active = [a] →
        a.req.entry = some i → cmdInfo a.req.op = some info → info.rerun = false ∨ replayLost s a = true → ∃ t, exec .quillStartComplete s = .next t ∧ t.qu.qstate = .run ∧
          t.qu.active = [] ∧ entByte (spGet 0 t.qu.blot i.toNat) 7 = 3 ∧ entByte (spGet 0 t.qu.blot i.toNat) 24 = 6 ∧
          entByte (spGet 0 t.qu.blot i.toNat) 25 = if replayLost s a = true then 0x22 else 0x21) ∧
      (∀ why : QFail, bit s.cfg.options 0 = false →
        (s.qu.rcount.toNat < 2 → ∃ t, exec (.quillStartFail why) s = .next t ∧ t.qu.rcount = s.qu.rcount + 1 ∧ t.qu.qstate = .restart ∧ t.pset = none) ∧
        (2 ≤ s.qu.rcount.toNat → ∃ t, exec (.quillStartFail why) s = .next t ∧ t.qu.rcount = 3 ∧ t.qu.down = true ∧ t.qu.qstate = .rom ∧ t.qu.schg = true))) ∧
    (Live s → s.qu.qstate ≠ .restart → exec .quillStartComplete s = .next s ∧ ∀ why, exec (.quillStartFail why) s = .next s) ∧
    (Live s → s.qu.qstate = .run → exec .rcountClear s = .next { s with qu := { s.qu with rcount := 0 } }) ∧
    (Live s → s.qu.qstate ≠ .run → exec .rcountClear s = .next s) ∧
    (∀ (p : PowerSet) (a : Active), Live s → s.pset = some p → p.target = 1 → p.mask.getLsbD 6 = true → s.dom[dBoard].st = .run → s.dom[dBoard].goal = none →
      s.dom[dBoard].after = none → domIdle s dBoard = false → running s p.cmd a → ∃ t, exec .boardRetainTimeout s = .next t ∧ t.pset = none ∧
        t.heldRet = setBit s.heldRet 6 false ∧ completed s t p.cmd a 5 0x12 [] ∧ t.dom[dBoard] = s.dom[dBoard]) ∧
    (Live s → s.pset = none → exec .boardRetainTimeout s = .next s)

/-- R28, R29, R137, R162, R433, R435, R443 to R445, R448: an instruction that reaches a unit whose domain is off is undefined, and one that reaches a
sleeping domain wakes it and waits; an idle domain drops its clock request and leads to its state of idle sleep; acknowledgements end a shutdown, and
with them all, and VELLUM up, a wake ends in RUN, from off with its initialisation. -/
def Obligations.PowerDomainsSleepAndWake : Prop :=
  (∀ (i : Instr) (u : Fin 32) (s : State), Ready i s → (unitDoms i).find? (fun e => !(domUse s e == .ready)) = some u →
    (domUse s u = .off → exec i s = .next (raise (undefExc i) s)) ∧ (domUse s u = .asleep → exec i s = .next { wakeRequest s u with stall := some i })) ∧
  ∀ (d : Fin 32) (s : State), Live s → let x := s.dom[d]
    let may : Prop := domPresent s.var d = true ∧ isL2w d = false ∧ x.st = .run ∧ x.goal = none ∧ s.qu.thr[d] ≠ 0 ∧ (s.c.ruledAct = false ∨ 16 ≤ d.val) ∧
      s.heldOff.getLsbD d.val = false ∧ s.heldRet.getLsbD d.val = false ∧ domIdle s d = true
    (¬ may → exec (.idleThresholdExpiry d) s = .next s) ∧
    (may → x.latched = false → ∃ t, exec (.idleThresholdExpiry d) s = .next t ∧ t = { s with dom := t.dom, ca := t.ca } ∧ t.dom[d].fclkReq = false ∧
      (t.dom[d].goal = some (sleepState d) ∨ (t.dom[d].st = sleepState d ∧ t.dom[d].goal = none)) ∧ (∀ e : Fin 32, e ≠ d → t.dom[e] = s.dom[e]) ∧
      (if d = dStream then t.ca.stlb = [] else if 16 ≤ d.val then t.ca.scrTlb[scribeOf d] = [] ∧ t.ca.scrL1i[scribeOf d] = [] else t.ca = s.ca)) ∧
    (domUse s d = .asleep → ∃ t, exec (.domainWakeRequest d) s = .next t ∧ t = { s with dom := t.dom } ∧ (∀ e : Fin 32, e ≠ d → e ≠ dVellum → t.dom[e] = s.dom[e]) ∧
      (x.goal = none → t.dom[d].goal = some .run ∧ t.dom[d].fclkReq = true ∧ (x.st ≠ .gated → t.dom[d].pwrReq = 2)) ∧
      (x.goal = some .run → t.dom[d] = x) ∧ (∀ g, x.goal = some g → g ≠ .run → t.dom[d] = { x with latched := true }) ∧
      (domUse s dVellum = .asleep → s.dom[dVellum].goal = none → t.dom[dVellum].goal = some .run)) ∧
    (domUse s d ≠ .asleep → exec (.domainWakeRequest d) s = .next s) ∧
    (∀ v : Bool, domPresent s.var d = false ∨ v ≠ x.fclkReq ∨ x.fclkAck = v → exec (.fclkAckChange d v) s = .next s) ∧
    (∀ v : BitVec 2, domPresent s.var d = false ∨ v ≠ x.pwrReq ∨ x.pwrAck = v → exec (.pwrAckChange d v) s = .next s) ∧
    (powerQuiet s → domPresent s.var d = true →
      (∀ v : Bool, v = x.fclkReq → x.fclkAck ≠ v → ∃ t, exec (.fclkAckChange d v) s = .next t ∧ t.dom[d].fclkAck = v ∧
        t = { s with dom := t.dom, heldOff := t.heldOff, heldRet := t.heldRet } ∧
        (∀ g, x.goal = some g → g ≠ .run → x.pwrAck = x.pwrReq → x.latched = false → t.dom[d].st = g ∧ t.dom[d].goal = none)) ∧
      (∀ v : BitVec 2, v = x.pwrReq → x.pwrAck ≠ v → ∃ t, exec (.pwrAckChange d v) s = .next t ∧ t.dom[d].pwrAck = v ∧
        t = { s with dom := t.dom, heldOff := t.heldOff, heldRet := t.heldRet } ∧
        (∀ g, x.goal = some g → g ≠ .run → x.fclkAck = x.fclkReq → x.latched = false → t.dom[d].st = g ∧ t.dom[d].goal = none))) ∧
    (domUpAcked x = false ∨ isL2w d = true ∨ (d ≠ dVellum ∧ s.dom[dVellum].st ≠ .run) → exec (.domainWakeComplete d) s = .next s) ∧
    (powerQuiet s → domPresent s.var d = true → isL2w d = false → domUpAcked x = true → d = dVellum ∨ (s.dom[dVellum].st = .run ∧ s.dom[dVellum].goal = none) →
      ∃ t, exec (.domainWakeComplete d) s = .next t ∧ t.dom[d] = { x with st := .run, goal := none, init := false } ∧ (d ≠ dVellum → t.mem = s.mem) ∧
        (x.init = false → d ≠ dVellum → t = { s with dom := t.dom }) ∧
        (x.init = false → d = dVellum → t.banks = s.banks ∧ (s.mir.link = false → t = { s with dom := t.dom, port := t.port } ∧
          ∀ p : PortNum, x.st = .retained → s.port[p].up = true → t.port[p].snoopCr = 32 ∧ t.port[p].targetCr = 16)) ∧
        (x.init = true → d = dVellum → t.vellum = [] ∧ t.vellumBad = [] ∧ t.vellumZeroing = true ∧ t.tal = Vector.replicate 16 {} ∧ t.banks = s.banks) ∧
        (x.init = true → d = dTile → (∀ k : TReg, t.tiles[k] = freshTile s.var) ∧ t.c.tdirty = 0 ∧ t.banks = s.banks) ∧
        (x.init = true → d = dBoard → t.inkZeroing = true ∧ t.bd.planes = Vector.replicate 2 {} ∧ t.bd.acc = Vector.replicate 2 {} ∧ t.bd.flight = [] ∧ t.banks = s.banks) ∧
        (x.init = true → d = dStream → t.sq = Vector.replicate 64 {} ∧ t.ca.stlb = [] ∧ t.banks = s.banks) ∧
        (x.init = true → d = dVec → ∀ k : BankNum, t.banks[k] = { s.banks[k] with v := Vector.replicate 32 0, m := Vector.replicate 8 0 }) ∧
        (x.init = true → 16 ≤ d.val → t.scribes[scribeOf d].threads = [] ∧ t.ca.scrTlb[scribeOf d] = [] ∧ t.banks = s.banks) ∧
        (x.init = true → d = dCore → t.c.cur = 0 ∧ t.banks[(0 : BankNum)].pc = s.cfg.resetpc ∧ t.banks[(0 : BankNum)].fl = 0 ∧ t.banks[(0 : BankNum)].st = .run ∧
          (∀ k : BankNum, k ≠ 0 → t.banks[k].st = .free) ∧ t.ca.sb = [] ∧ t.ca.l1d = [] ∧ t.ca.itlb = [] ∧ t.ca.dtlb = [] ∧ t.c.ply = s.c.ply)) ∧
    (s.vellumZeroing = false → exec .vellumZeroingComplete s = .next s) ∧ (s.inkZeroing = false → exec .inkwellZeroingComplete s = .next s) ∧
    (powerQuiet s → (s.vellumZeroing = true → ∃ t, exec .vellumZeroingComplete s = .next t ∧ t = { s with vellumZeroing := false, port := t.port } ∧
        ∀ p : PortNum, s.port[p].up = true → t.port[p].snoopCr = 32 ∧ t.port[p].targetCr = 16) ∧
      (s.inkZeroing = true → exec .inkwellZeroingComplete s = .next { s with inkZeroing := false, ink := [], inkBad := [] }))

/-- R250, R280, R411, R413 to R422: the core answers probes by the table of R415, broadcast invalidations once they are done, interrupt messages by
setting their vector, and requests to its vellum and its alias; a message whose CRC fails gets its error form and a record; a response that reports an
error is recorded and stops its requester; tokens, credits and the ports' link states act as R413, R418 and R421 say. -/
def Obligations.FabricMessages : Prop :=
  ∀ (p : PortNum) (tag : BitVec 12) (s : State), Live s → let me : BitVec 20 := BitVec.ofNat 20 s.cfg.coreid.toNat
    let ans (o : Byte) (r : BitVec 4) (po : Bool) (d : Option LineWord) : Option Msg := some ⟨o, tag, me, r, po, 0, d⟩
    let sends (m : Option Msg) : State := { s with port := s.port.set p.val { s.port[p] with orsp := m } p.isLt }
    (∀ (i : Instr) (ok : Bool) (o : Byte), snoopOn i = some (p, tag, ok, o) →
      (domUse s dVellum = .off ∨ (domUse s dVellum = .ready ∧ s.port[p].snoopCr = 0) → exec i s = .next s) ∧
      (domUse s dVellum = .asleep → exec i s = .next (wakeRequest s dVellum)) ∧
      (domUse s dVellum = .ready → s.port[p].snoopCr ≠ 0 → ok = false → ∃ t src, exec i s = .next t ∧ t.port[p].orsp = some ⟨o, tag, src, 5, false, 0, none⟩ ∧
        fieldN t.c.errlast[0] 15 0 = 0x0D09 ∧ recordOnly s { t with port := s.port })) ∧
    (domUse s dVellum = .ready → s.port[p].snoopCr ≠ 0 →
      (∀ pa : BitVec 56, let la := lineNo pa.toNat
        let s1 := dropInner (flushL1d s la) la
        (inVellum s pa.toNat = true → exec (.probeShr p tag pa true) s = .next (sends (ans 0xC1 0 false none)) ∧
          (∀ new, exec (.probeOwn p tag pa true new) s = .next (sends (ans 0xC1 0 false none))) ∧
          ∀ new, exec (.probeKill p tag pa true new) s = .next (sends (ans 0xC1 0 false none))) ∧
        (inVellum s pa.toNat = false → ∀ w : WbLine, s.ca.wb.find? (·.la == la) = some w → let answer := ans 0xC3 (if w.poison then 2 else 0) w.poison (some w.data)
          (∀ i, (i = .probeShr p tag pa true ∨ i = .probeOwn p tag pa true none) → ∃ t, exec i s = .next t ∧ t = { discardLine s la with port := t.port } ∧
            t.port[p].orsp = answer) ∧
          ∀ new, ∃ t, exec (.probeKill p tag pa true new) s = .next t ∧ t.port[p].orsp = answer) ∧
        (inVellum s pa.toNat = false → s.ca.wb.find? (·.la == la) = none → l2Find s1 la = none →
          (∃ t, exec (.probeShr p tag pa true) s = .next t ∧ t = { s1 with port := t.port } ∧ t.port[p].orsp = ans 0xC1 0 false none) ∧
          ∃ t, exec (.probeOwn p tag pa true none) s = .next t ∧ t = { s1 with port := t.port } ∧ t.port[p].orsp = ans 0xC1 0 false none) ∧
        (inVellum s pa.toNat = false → s.ca.wb.find? (·.la == la) = none → ∀ (i : Nat) (l : L2Line), l2Find s1 la = some (i, l) →
          (∃ t, exec (.probeShr p tag pa true) s = .next t ∧ spGet none t.ca.l2 i = some { l with st := .s } ∧ t.banks = s.banks ∧
            t.port[p].orsp = (if l.poison then ans 0xC4 2 true (some l.data) else if l.st = .m then ans 0xC4 0 false (some l.data) else ans 0xC2 0 false none)) ∧
          (spWf none s1.ca.l2 = true → ∃ t, exec (.probeOwn p tag pa true none) s = .next t ∧ spGet none t.ca.l2 i = none ∧ t.banks = s.banks ∧
            t.port[p].orsp = (if l.poison then ans 0xC3 2 true (some l.data) else if l.st = .m then ans 0xC3 0 false (some l.data) else ans 0xC1 0 false none))) ∧
        (inVellum s pa.toNat = false → s.ca.wb.find? (·.la == la) = none → ∀ new : LineWord, Memory.wf s1.mem = true →
          (∃ t, exec (.probeKill p tag pa true new) s = .next t ∧ t.port[p].orsp = ans 0xC1 0 false none ∧ ∀ i < 64, spGet 0 t.mem (64 * la.toNat + i) = lineByte new i) ∧
          ∃ t, exec (.probeOwn p tag pa true (some new)) s = .next t ∧ ∀ i < 64, spGet 0 t.mem (64 * la.toNat + i) = lineByte new i)) ∧
      (∀ (src : BitVec 20) (ga : W64) (asid : BitVec 16) (ty : BitVec 2),
        (src = me → exec (.tlbiMsg p tag src ga asid ty true) s = .next (sends (ans 0xC5 0 false none))) ∧
        (src ≠ me → ∃ t, exec (.tlbiMsg p tag src ga asid ty true) s = .next t ∧ tlbiDone (tlbiForm ga asid ty) s t ∧ t.tlbiRx = s.tlbiRx ++ [⟨p, tag, src⟩] ∧
          t.port[p].snoopCr = s.port[p].snoopCr - 1 ∧ t.banks = s.banks ∧ t.c = s.c ∧
          (coreTlbUsed s = true → domUse s dCore = .asleep → t.dom[dCore] = domWake s.dom[dCore]))) ∧
      (∀ (id : BitVec 20) (vec : Byte) (data : W32),
        (id = me → 0x80 ≤ vec.toNat → ∃ t, exec (.intMsg p tag id vec data true) s = .next t ∧ isPending t vec = true ∧ t.banks = s.banks ∧
          t.c.msiData[Fin.ofNat 128 (vec.toNat - 0x80)] = data ∧ t.port[p].orsp = ans 0xC7 0 false none ∧
          (domUse s dCore = .asleep → t.dom[dCore] = domWake s.dom[dCore])) ∧
        (id ≠ me ∨ vec.toNat < 0x80 → exec (.intMsg p tag id vec data true) s = .next (sends (ans 0xC7 3 false none))))) ∧
    (∀ (op : TgtOp) (pa : BitVec 56) (size : BitVec 2) (d : LineWord) (mask : W64) (poison : Bool), let o := vOff s pa.toNat / 64 * 64
      let m : W64 := if op = .readLine ∨ op = .writeLine then BitVec.allOnes 64 else mask
      let n : Nat := if size = 2 then 4 else if size = 3 then 8 else 0
      let req := Instr.targetRequest p tag op pa size d mask poison
      (∀ ok, domUse s dVellum = .off → exec (req ok) s = .next (if inVellum s pa.toNat then sends (ans (tgtAnswer op) 4 false none) else s)) ∧
      (∀ ok, domUse s dVellum = .asleep → exec (req ok) s = .next (wakeRequest s dVellum)) ∧
      (∀ ok, domUse s dVellum = .ready → s.port[p].targetCr = 0 ∨ s.vellumZeroing = true → exec (req ok) s = .next s) ∧
      (domUse s dVellum = .ready → s.port[p].targetCr ≠ 0 → s.vellumZeroing = false →
        (∃ t src, exec (req false) s = .next t ∧ t.port[p].orsp = some ⟨tgtAnswer op, tag, src, 5, false, 0, none⟩ ∧ fieldN t.c.errlast[0] 15 0 = 0x0D09 ∧
          recordOnly s { t with port := s.port }) ∧
        (inVellum s pa.toNat = false → inAlias s pa.toNat = false → exec (req true) s = .next (sends (ans (tgtAnswer op) 1 false none))) ∧
        (inVellum s pa.toNat = false → inAlias s pa.toNat = true → (op = .readStream ∨ op = .writeStream → maskedWord mask = none) →
          exec (req true) s = .next (sends (ans (tgtAnswer op) 3 false none))) ∧
        (inVellum s pa.toNat = true → NoInjection s →
          (op = .readLine ∨ op = .readStream → ∃ t x, exec (req true) s = .next t ∧ t.port[p].orsp = ans 0xC6 0 (!(badWords s o m).isEmpty) (some x) ∧
            (∀ i < 64, bit m i = true → lineByte x i = spGet 0 s.vellum (o + i)) ∧ t.vellum = s.vellum ∧ recordOnly s { t with port := s.port } ∧
            (badWords s o m ≠ [] → fieldN t.c.errlast[0] 15 0 = 0x0B02)) ∧
          (op = .writeLine ∨ op = .writeStream → Memory.wf s.vellum = true → ∃ t, exec (req true) s = .next t ∧ t.port[p].orsp = ans 0xC7 0 false none ∧
            t.banks = s.banks ∧ ∀ a, spGet 0 t.vellum a = if a / 64 = vOff s pa.toNat / 64 ∧ bit m (a % 64) = true then lineByte d (a % 64) else spGet 0 s.vellum a) ∧
          (op = .other ∨ ((op = .atomicCas ∨ op = .atomicAdd) ∧ (n = 0 ∨ pa.toNat % n ≠ 0)) → exec (req true) s = .next (sends (ans 0xC6 3 false none))) ∧
          (op = .atomicCas ∨ op = .atomicAdd → n ≠ 0 → pa.toNat % n = 0 → let old := bytesNat (spGetAll 0 s.vellum (vOff s pa.toNat) n)
            let v := fieldN d (8 * n - 1) 0
            (readError s false pa.toNat n ≠ none → ∃ t, exec (req true) s = .next t ∧ t.port[p].orsp = ans 0xC6 2 false none ∧ t.vellum = s.vellum ∧
              recordOnly s { t with port := s.port }) ∧
            (readError s false pa.toNat n = none → Memory.wf s.vellum = true → ∃ t x, exec (req true) s = .next t ∧ t.port[p].orsp = ans 0xC6 0 false (some x) ∧
              fieldN x (8 * n - 1) 0 = old ∧ t.banks = s.banks ∧ bytesNat (spGetAll 0 t.vellum (vOff s pa.toNat) n) =
                (if op = .atomicAdd then (old + v) % 2 ^ (8 * n) else if old = v then fieldN d (64 + 8 * n - 1) 64 else old)))))) ∧
    (∀ (pa : BitVec 56) (size : BitVec 2) (d : LineWord) (mask : W64) (poison : Bool) (i : Nat), domUse s dVellum = .ready → s.port[p].targetCr ≠ 0 → s.vellumZeroing = false →
      s.win.clearing = false → inVellum s pa.toNat = false → inAlias s pa.toNat = true → maskedWord mask = some i → let off := BitVec.ofNat 16 (pa.toNat % 65536 / 64 * 64 + i)
      exec (.targetRequest p tag .readStream pa size d mask poison true) s = exec (.mgmtAliasAccess p tag false off (BitVec.ofNat 32 (d.toNat >>> (8 * i)))) s ∧
      exec (.targetRequest p tag .writeStream pa size d mask poison true) s = exec (.mgmtAliasAccess p tag true off (BitVec.ofNat 32 (d.toNat >>> (8 * i)))) s) ∧
    (∀ (off : BitVec 16) (v : W32), let lo := off.toNat % 64
      let pa := fieldN s.cfg.mgmtbase 55 16 * 65536 + off.toNat
      (∀ w, domUse s dVellum = .asleep → exec (.mgmtAliasAccess p tag w off v) s = .next (wakeRequest s dVellum)) ∧
      (∀ w, domUse s dVellum = .off ∨ (domUse s dVellum = .ready ∧ (s.port[p].targetCr = 0 ∨ s.win.clearing = true ∨ inAlias s pa = false ∨ off.toNat % 4 ≠ 0)) →
        exec (.mgmtAliasAccess p tag w off v) s = .next s) ∧
      (domUse s dVellum = .ready → s.port[p].targetCr ≠ 0 → s.win.clearing = false → off.toNat % 4 = 0 → inAlias s pa = true →
        (let w := winWrite s off.toNat v .alias_;
          exec (.mgmtAliasAccess p tag true off v) s = .next { w with port := w.port.set p.val { w.port[p] with orsp := some ⟨0xC7, tag, BitVec.ofNat 20 w.cfg.coreid.toNat, 0, false, 0, none⟩ } p.isLt }) ∧
        (badEntries s off.toNat 4 = [] → ∃ t x, exec (.mgmtAliasAccess p tag false off v) s = .next t ∧ t.port[p].orsp = ans 0xC6 0 false (some x) ∧ t.vellum = s.vellum ∧
          t.banks = s.banks ∧ fieldN x (8 * lo + 31) (8 * lo) = (winRead s off.toNat .alias_).1.toNat))) ∧
    (∀ (c : ReqCtx) (pa : BitVec 56) (crc : W32) (resp : BitVec 4) (crcOk poison : Bool), crcStruck s p = false →
      let cls : Byte := if crcOk = false ∨ resp = 5 then 0x09 else if resp ≠ 0 then 0x12 else 0x03
      let synd : BitVec 24 := if crcOk = false ∨ resp = 5 then crc.setWidth 24 else if resp ≠ 0 then place 24 resp.toNat 0 ||| place 24 p.val 4 else 0
      let r := postRecord s cls 0x0D 1 (pa.setWidth 64) synd false 0
      let l := postRecord (setPort s p { s.port[p] with reserved := s.port[p].reserved ++ [tag] }) 0x0A 0x0D 1 (pa.setWidth 64) (BitVec.ofNat 24 p.val) false 0
      let cause : BitVec 5 := if crcOk = false ∨ resp ≠ 0 then 5 else 7
      let det : Byte := if crcOk = false then 0xFE else resp.setWidth 8
      let answer := fun c => exec (.fabricResponse p tag c pa resp crc crcOk poison) s
      let silent := fun c => exec (.fabricTimeout p tag c pa) s
      (tag ∈ s.port[p].reserved → silent c = .next s ∧
        answer c = .next { s with port := s.port.set p.val { s.port[p] with reserved := s.port[p].reserved.erase tag } p.isLt }) ∧
      (tag ∉ s.port[p].reserved → crcOk = true → resp = 0 → poison = false → answer .l2 = .next (unbuffer s (lineNo pa.toNat)) ∧ (c ≠ .l2 → answer c = .next s)) ∧
      (tag ∉ s.port[p].reserved → silent .store = .next l ∧ silent .l2 = .next (unbuffer l (lineNo pa.toNat)) ∧ l.port[p].reserved = s.port[p].reserved ++ [tag] ∧ fieldN l.c.errlast[0] 15 0 = 0x0D0A ∧
        l.c.errlast[1] = pa.setWidth 64 ∧ l.banks = s.banks ∧
        (∀ (q : QNum) (va : W64) (w : Bool), silent (.stream q va w) = exec (.streamFault q 6 0 va (pa.setWidth 64) w) l ∧
          silent (.walkStream q va) = exec (.streamFault q 3 0 va 0 false) (endWalks l (fun x => match x with | .stream j _ => j == q | _ => false) va)) ∧
        (∀ (k : TReg) (va : W64) (w : Bool), silent (.tile k va w) = exec (.tileTransferFault k 6 0 va (pa.setWidth 64)) l ∧
          silent (.walkTile k va) = exec (.tileTransferFault k 3 0 va 0) (endWalks l (fun x => match x with | .tile j _ => j == k | _ => false) va)) ∧
        (∀ (k : ScribeNum) (j : Fin 128) (va : W64), silent (.scribe k j va) = exec (.scribeFault k j 6 va (pa.setWidth 64)) l ∧
          silent (.walkScribe k j va) = exec (.scribeFault k j 3 va 0) (endWalks l (fun x => match x with | .scribe a b _ => a == k && b == j | _ => false) va)) ∧
        (∀ (acc : Acc) (va : W64), acc ≠ .none → acc ≠ .fetch → coreRuns l = true → interruptDue l = none → s.stall = none →
          silent (.core acc va) = .next (raise { code := 0x0E, sub := 3, acc := acc, addr := va } l)) ∧
        (∀ (acc : Acc) (va : W64), acc ≠ .fetch → coreRuns l = true → s.ca.walks = [] → silent (.walkCore acc va) = .next (raise { code := 0x06, acc := acc, addr := va } l)) ∧
        (∀ k, s.mir.commit = some k → ∃ t, silent .mirror = .next t ∧ t.mir.commit = none ∧ t.mir.failed = true) ∧
        silent .quillDma = .next (dmaFail l pa.toNat)) ∧
      (tag ∉ s.port[p].reserved → crcOk = false ∨ resp ≠ 0 ∨ poison = true → answer .store = .next r ∧ answer .l2 = .next (unbuffer r (lineNo pa.toNat)) ∧ fieldN r.c.errlast[0] 15 0 = 0x0D00 + cls.toNat ∧
        r.c.errlast[1] = pa.setWidth 64 ∧ recordOnly s r ∧
        (∀ (q : QNum) (va : W64) (w : Bool), answer (.stream q va w) = exec (.streamFault q cause det va (pa.setWidth 64) w) r ∧
          answer (.walkStream q va) = exec (.streamFault q 3 0 va 0 false) (endWalks r (fun x => match x with | .stream j _ => j == q | _ => false) va)) ∧
        (∀ (k : TReg) (va : W64) (w : Bool), answer (.tile k va w) = exec (.tileTransferFault k cause det va (pa.setWidth 64)) r ∧
          answer (.walkTile k va) = exec (.tileTransferFault k 3 0 va 0) (endWalks r (fun x => match x with | .tile j _ => j == k | _ => false) va)) ∧
        (∀ (k : ScribeNum) (j : Fin 128) (va : W64), answer (.scribe k j va) = exec (.scribeFault k j cause va (pa.setWidth 64)) r ∧
          answer (.walkScribe k j va) = exec (.scribeFault k j 3 va 0) (endWalks r (fun x => match x with | .scribe a b _ => a == k && b == j | _ => false) va)) ∧
        (∀ (acc : Acc) (va : W64), acc ≠ .none → acc ≠ .fetch → coreRuns r = true → interruptDue r = none → s.stall = none →
          answer (.core acc va) = .next (raise (if crcOk = false then { code := 0x0E, sub := 2, acc := acc, addr := va }
            else if resp ≠ 0 then { code := 0x0E, sub := 1, acc := acc, addr := va } else { code := 0x0D, sub := 2, acc := acc, addr := va }) r)) ∧
        (∀ (acc : Acc) (va : W64), acc ≠ .fetch → coreRuns r = true → s.ca.walks = [] → answer (.walkCore acc va) = .next (raise { code := 0x06, acc := acc, addr := va } r)) ∧
        (∀ k, s.mir.commit = some k → ∃ t, answer .mirror = .next t ∧ t.mir.commit = none ∧ t.mir.failed = true) ∧
        answer .quillDma = .next (dmaFail r pa.toNat))) ∧
    (s.tlbiRx = [] ∨ domRuns s dVellum = false ∨ accessesOut s = true → exec .tlbiAck s = .next s) ∧
    (∀ (m : TlbiRx) (ms : List TlbiRx), s.tlbiRx = m :: ms → domRuns s dVellum = true → accessesOut s = false → s.dom[dCore].goal ≠ some .run ∨ coreTlbUsed s = false →
      ∃ t, exec .tlbiAck s = .next t ∧ t = { s with tlbiRx := ms, port := t.port } ∧ t.port[m.port].orsp = some ⟨0xC5, m.tag, me, 0, false, 0, none⟩ ∧
        t.port[m.port].snoopCr = s.port[m.port].snoopCr + 1) ∧
    (s.port[p].token = false → exec (.ordDone p) s = .next s) ∧
    (s.port[p].token = true → noneWritten s → exec (.ordDone p) s = .next { s with port := s.port.set p.val { s.port[p] with token := false, cover := 0 } p.isLt }) ∧
    exec .tlbiDone s = .next { s with tlbiOut := s.tlbiOut - 1 } ∧
    (∀ n : BitVec 2, exec (.oreqCredit p n) s = .next (if s.port[p].up = true ∧ n.toNat ≤ 2 then
      { s with port := s.port.set p.val { s.port[p] with credits := s.port[p].credits + n.toNat } p.isLt } else s)) ∧
    exec (.fabricPortUp p) s = .next (if s.port[p].up = true then s else { s with
      port := s.port.set p.val (if vellumUp s = true then { s.port[p] with up := true, snoopCr := 32, targetCr := 16 } else { s.port[p] with up := true }) p.isLt }) ∧
    exec (.fppUpFall p) s = .next (if s.port[p].up = true then
      { s with port := s.port.set p.val { s.port[p] with up := false, credits := 0, snoopCr := 0, targetCr := 0 } p.isLt } else s) ∧
    (∀ (i : Fin 64) (v : Bool), ∃ t, exec (.intInChange i v) s = .next t ∧ t = { s with win := { s.win with intIn := setBit s.win.intIn i.val v }, c := { s.c with ipend := t.c.ipend }, dom := t.dom } ∧
      isPending t (BitVec.ofNat 8 (0x40 + i.val)) = v)

/-- R24, R429, R436, R457 to R459: RST_COLD_N low puts the core into its reset state at once and keeps memory behind the fabric; its release starts
the clearing of the stores. A warm reset keeps PLY, FWFLOOR and the registers of bank 0, discards all work, and starts bank 0 in ring 0 at
CFG_RESETPC. R437 to R439: the wrapper's instructions are selected in every state; EXTEST, INTEST_SCAN and SAFE leave the functional state undefined,
so that functional commands fault until a cold reset; an instrument starts where its conditions hold, refuses where they do not, and leaves its
result. -/
def Obligations.ResetsAndTestPort : Prop :=
  (∀ s : State,
     (∃ t, exec .rstColdAssert s = .next t ∧ t.win.coldLow = true ∧ t.mem = s.mem ∧ t.var = s.var ∧ t.c = ({} : Ctl) ∧ t.ops = [] ∧ t.cfg = ({} : Cfg) ∧ t.err.wr = 0 ∧ t.err.rd = 0 ∧
       t.qu.qstate = State.reset.qu.qstate ∧ (∀ d : Fin 32, t.dom[d].st = .off ∧ t.dom[d].goal = none ∧ t.dom[d].fclkReq = false ∧ t.dom[d].pwrReq = 0 ∧
         t.dom[d].fclkAck = s.dom[d].fclkAck ∧ t.dom[d].pwrAck = s.dom[d].pwrAck ∧ (domPresent s.var d = true → domUse t d = .off)) ∧
       t.banks = State.reset.banks ∧ t.vellum = [] ∧ t.ink = [] ∧ t.ca = ({} : Caches) ∧ (∀ k : TReg, t.tiles[k] = freshTile s.var) ∧ t.test.undef = false) ∧
     (s.win.coldLow = true → ∃ t, exec .rstColdRelease s = .next t ∧ t = { s with win := { s.win with coldLow := false, clearing := true, tick := 0 }, dom := t.dom } ∧
       ∀ d : Fin 32, t.dom[d] = if s.dom[d].fclkAck = true ∨ s.dom[d].pwrAck ≠ 0 then { s.dom[d] with goal := some .off } else s.dom[d]) ∧
     (s.win.coldLow = false → exec .rstColdRelease s = .next s) ∧
     (Live s → exec .coldClearComplete s = .next { s with win := { s.win with clearing := false } }) ∧
     (Live s → exec .rstWarmRise s = .next (if s.win.warmHigh = true then s else { s with win := { s.win with warmHigh := true, wrst := true } })) ∧
     (Live s → exec .rstWarmFall s = .next { s with win := { s.win with warmHigh := false } }) ∧
     (Live s → s.win.wrst = false ∨ s.win.warmDone = true → exec .warmReset s = .next s) ∧
     (Live s → s.win.wrst = true → s.win.warmDone = false → ∃ t, exec .warmReset s = .next t ∧ t.c.ply = s.c.ply ∧ t.c.fwfloor = s.c.fwfloor ∧ t.c.cur = 0 ∧ t.stall = none ∧
       t.c.ruledEn = false ∧ t.c.ruledAct = false ∧ t.banks[(0 : BankNum)].st = .run ∧ t.banks[(0 : BankNum)].pc = s.cfg.resetpc ∧ t.banks[(0 : BankNum)].fl = 0 ∧
       t.banks[(0 : BankNum)].ttb = 0 ∧ t.banks[(0 : BankNum)].g = s.banks[(0 : BankNum)].g ∧ t.banks[(0 : BankNum)].v = s.banks[(0 : BankNum)].v ∧
       (∀ k : BankNum, t.banks[k].longs = [] ∧ (k ≠ 0 → t.banks[k].st = .free)) ∧ t.ops = [] ∧ t.placed = [] ∧ t.sq = Vector.replicate 64 {} ∧ t.rings = Vector.replicate 32 {} ∧
       t.scribes = Vector.replicate 16 {} ∧ t.bd.planes = Vector.replicate 2 {} ∧ t.bd.acc = Vector.replicate 2 {} ∧ t.bd.flight = [] ∧
       (∀ k : TReg, t.tiles[k] = freshTile s.var) ∧ t.ca.l1d = [] ∧ t.ca.l1i = [] ∧ t.ca.pf = [] ∧ t.ca.sb = [] ∧ t.ca.dtlb = [] ∧ t.ca.itlb = [] ∧ t.ca.l2tlb = [] ∧ t.ca.walks = [] ∧
       (∀ u : TallyNum, t.tal[u].queue = []) ∧ t.mir.commit = none ∧ t.mir.fetch = none ∧ t.win.warmDone = true) ∧
     (Live s → exec .warmResetComplete s = .next (if s.win.wrst = true ∧ s.win.warmDone = true ∧ s.win.warmHigh = false ∧ domRuns s dCore = true then
       { s with win := { s.win with wrst := false, warmDone := false } } else s))) ∧
  (∀ s : State,
     (∀ (i : Instr) (w : BitVec 4) (u : Bool), (i = .wsBypass ∧ w = 0 ∧ u = false ∨ i = .wsExtest ∧ w = 1 ∧ u = true ∨ i = .wsIntestScan ∧ w = 2 ∧ u = true ∨
         i = .wsSafe ∧ w = 3 ∧ u = true ∨ i = .wsPreload ∧ w = 4 ∧ u = false ∨ i = .cwNet ∧ w = 8 ∧ u = false) →
       exec i s = .next { s with test := { s.test with wir := w, undef := s.test.undef || u } }) ∧
     (exec .wrstnReset s = .next { s with test := { ({} : Test) with undef := s.test.undef, failed := s.test.failed } }) ∧
     (s.test.undef = true → exec .holdend s = .fault .functionalStateUndefined ∧ exec .storeBufferDrain s = .fault .functionalStateUndefined ∧
       ∃ t, exec .rstColdAssert s = .next t ∧ t.test.undef = false) ∧
     (∀ (k : Fin 12) (mode : BitVec 3), s.test.wir ≠ 8 ∨ fieldN s.test.regs[k] 7 4 = 1 → exec (.instrumentStart k mode) s = .next s) ∧
     (∀ (k : Fin 12) (mode : BitVec 3), s.test.wir = 8 → fieldN s.test.regs[k] 7 4 ≠ 1 → ∃ t, exec (.instrumentStart k mode) s = .next t ∧
       fieldN t.test.regs[k] 7 4 = (if instrReady s k then 1 else 4) ∧ fieldN t.test.regs[k] 3 1 = mode.toNat ∧ bit t.test.sib (sibOf k) = true ∧
       (∀ j : Fin 12, j ≠ k → t.test.regs[j] = s.test.regs[j]) ∧ t = { s with test := { s.test with regs := t.test.regs, sib := t.test.sib } }) ∧
     (∀ (k : Fin 12) (fails : Byte) (first : BitVec 16), fieldN s.test.regs[k] 7 4 ≠ 1 → exec (.instrumentComplete k fails first) s = .next s) ∧
     (∀ (k : Fin 12) (fails : Byte) (first : BitVec 16), fieldN s.test.regs[k] 7 4 = 1 → ∃ t, exec (.instrumentComplete k fails first) s = .next t ∧
       fieldN t.test.regs[k] 7 4 = (if fails = 0 then 2 else 3) ∧ fieldN t.test.regs[k] 15 8 = fails.toNat ∧ bit t.test.failed k.val = (fails != 0) ∧
       (fails ≠ 0 → fieldN t.test.regs[k] 31 16 = first.toNat) ∧ (∀ j : Fin 12, j ≠ k → t.test.regs[j] = s.test.regs[j]) ∧ t.banks = s.banks ∧ t.mem = s.mem ∧ t.c = s.c))

/-- R440 to R442: with debug enabled a halt request, a breakpoint and the end of a step halt the core and record cause, bank and pc; RESUME lets it go
on; a register command reads or writes the item of its bank or a control register, a memory command a doubleword, and ends with its error code; none
retires an instruction. -/
def Obligations.DebugModuleHaltsAndAccesses : Prop :=
  ∀ s : State, Live s → let d := s.dbg
    let ends (e : BitVec 3) : State := { s with dbg := { d with busy := false, started := none, err := e } }
    (exec .dbgHaltreq s = .next (if dbgEn s = true ∧ s.win.clearing = false then { s with dbg := { d with haltReq := true } } else s)) ∧
    (∀ (i : Instr) (cause bp : BitVec 2), (i = .dbgHalt ∧ d.haltReq = true ∧ cause = 0 ∧ bp = d.bp ∨
        (∃ k : Fin 4, i = .breakpointHalt k ∧ d.skip = false ∧ s.stall = none ∧ breakpointAt s k = true ∧ cause = 2 ∧ bp = BitVec.ofNat 2 k.val) ∨
        i = .stepHalt ∧ d.stepDone = true ∧ cause = 1 ∧ bp = d.bp) →
      (haltPoint s = true → ∃ t, exec i s = .next t ∧ t.dbg.halted = true ∧ t.dbg.haltReq = false ∧ t.dbg.cause = cause ∧ t.dbg.bp = bp ∧ t.dbg.bank = s.c.cur ∧
        t.dbg.pc = (curBank s).pc ∧ t.stall = none ∧ t.banks = s.banks ∧ t = { keepXfer s with stall := none, ca := { s.ca with lineBuf := none }, dbg := t.dbg }) ∧
      (haltPoint s = false → i ≠ .dbgHalt → exec i s = .next s)) ∧
    (d.haltReq = false → exec .dbgHalt s = .next s) ∧ (d.stepDone = false → exec .stepHalt s = .next s) ∧
    (d.haltReq = true → d.halted = false → domUse s dCore = .asleep → exec .dbgHalt s = .next (wakeRequest s dCore)) ∧
    (∀ k : Fin 4, d.skip = true ∨ s.stall ≠ none ∨ breakpointAt s k = false → exec (.breakpointHalt k) s = .next s) ∧
    (dbgEn s = false ∨ s.win.clearing = true → exec .dbgResume s = .next s) ∧
    (dbgEn s = true → s.win.clearing = false →
      (d.halted = false → exec .dbgResume s = .next { s with dbg := { d with resume := true } }) ∧
      (d.halted = true → domUse s dCore ≠ .asleep → ∃ t, exec .dbgResume s = .next t ∧ t.dbg.halted = false ∧ t.dbg.resume = false ∧ t.dbg.skip = true ∧ t.dbg.stepping = d.step ∧
        t = { setCur s { curBank s with pc := (curBank s).pc &&& ~~~ 3 } with dbg := t.dbg })) ∧
    (d.busy = true → d.mem = false → ∀ i, (i = .dbgCmdRegRead ∧ d.write = false ∨ i = .dbgCmdRegWrite ∧ d.write = true) → let n := d.item.toNat
      (d.halted = false → exec i s = .next (ends 1)) ∧
      (d.halted = true → bankItem n = false → regRings s.var n = none → exec i s = .next (ends 2)) ∧
      (d.halted = true → bankItem n = true ∨ regRings s.var n ≠ none → dbgWaits s = true → exec i s = .next (wakeRequest s dCore)) ∧
      (d.halted = true → dbgWaits s = false → d.write = false →
        (∀ r : GReg, n = 0xF00 + r.val → exec i s = .next { ends 0 with dbg := { (ends 0).dbg with data := s.banks[d.cbank].g[r] } }) ∧
        (n = 0xF20 → exec i s = .next { ends 0 with dbg := { (ends 0).dbg with data := s.banks[d.cbank].pc } }) ∧
        (bankedReg n = true → exec i s = .next { ends 0 with dbg := { (ends 0).dbg with data := bankedRead n s.banks[d.cbank] } }) ∧
        (bankItem n = false → regRings s.var n ≠ none → exec i s = .next { ends 0 with dbg := { (ends 0).dbg with data := regRead n (curBank s) s } })) ∧
      (d.halted = true → dbgWaits s = false → d.write = true →
        (∀ r : GReg, n = 0xF00 + r.val → ∃ t, exec i s = .next t ∧ t = { ends 0 with banks := t.banks } ∧ t.banks[d.cbank].g[r] = d.data ∧
          (∀ q : GReg, q ≠ r → t.banks[d.cbank].g[q] = s.banks[d.cbank].g[q]) ∧ t.banks[d.cbank].pc = s.banks[d.cbank].pc ∧ ∀ k : BankNum, k ≠ d.cbank → t.banks[k] = s.banks[k]) ∧
        (n = 0xF20 → ∃ t, exec i s = .next t ∧ t.banks[d.cbank].pc = d.data ∧ t.banks[d.cbank].g = s.banks[d.cbank].g ∧ (∀ k : BankNum, k ≠ d.cbank → t.banks[k] = s.banks[k]) ∧
          t.dbg.err = 0 ∧ t.dbg.busy = false ∧ (d.cbank = s.c.cur → t.dbg.pc = d.data)) ∧
        (n = 1 → ∃ t, exec i s = .next t ∧ t = { ends 0 with banks := t.banks } ∧ t.banks[d.cbank].fl = d.data &&& 0x70F ∧ t.banks[d.cbank].g = s.banks[d.cbank].g ∧
          ∀ k : BankNum, k ≠ d.cbank → t.banks[k] = s.banks[k]) ∧
        (n ≠ 1 → bankedReg n = true → exec i s = .next { ends 0 with banks := s.banks.set d.cbank.val (bankedWrite n d.data 0 true s.banks[d.cbank]) d.cbank.isLt }) ∧
        (bankItem n = false → regRings s.var n = some (3, none) ∨ regRings s.var n = some (1, none) → exec i s = .next (ends 0)) ∧
        (bankItem n = false → regRings s.var n ≠ none → regRings s.var n ≠ some (3, none) → regRings s.var n ≠ some (1, none) → n ≠ 0x30 → ∀ b1 s1,
          regWrite n d.data (curBank s) s = .ok b1 s1 → exec i s = .next { setCur s1 { b1 with pc := (curBank s).pc } with dbg := { s1.dbg with busy := false, started := none, err := 0 } }))) ∧
    (d.busy = false ∨ d.mem = true → exec .dbgCmdRegRead s = .next s ∧ exec .dbgCmdRegWrite s = .next s) ∧
    (d.busy = true → d.mem = true → d.started = none → ∀ i, (i = .dbgCmdMemRead ∧ d.write = false ∨ i = .dbgCmdMemWrite ∧ d.write = true) → let a := fieldN d.addr 55 0
      (a % 8 ≠ 0 → exec i s = .next (ends 4)) ∧
      (a % 8 = 0 → domUse s dVellum = .off → exec i s = .next (ends 3)) ∧
      (a % 8 = 0 → domUse s dVellum = .asleep → exec i s = .next (wakeRequest s dVellum)) ∧
      (a % 8 = 0 → domUse s dVellum = .ready → s.vellumZeroing = true → inVellum s a = true → exec i s = .next s) ∧
      (a % 8 = 0 → domUse s dVellum = .ready → s.vellumZeroing = false ∨ inVellum s a = false →
        (d.write = false → exec i s = .next { s with dbg := { d with started := some (false, BitVec.ofNat 64 a) } }) ∧
        (d.write = true → inAlias s a = true → exec i s = .next (ends 3)) ∧
        (d.write = true → inAlias s a = false → heldGranules s a 8 = [] →
          exec i s = .next { agentWrite s .other .cacheable a (toBytes 8 d.data) with dbg := { d with started := some (true, BitVec.ofNat 64 a) } }) ∧
        (d.write = true → inAlias s a = false → heldGranules s a 8 ≠ [] → exec i s = .next (askGranules s (heldGranules s a 8))))) ∧
    (d.busy = false ∨ d.mem = false ∨ d.started ≠ none → exec .dbgCmdMemRead s = .next s ∧ exec .dbgCmdMemWrite s = .next s) ∧
    (∀ e, d.started = none ∨ d.busy = false → exec (.dbgCmdDone e) s = .next s) ∧
    (∀ (write : Bool) (a : W64), d.busy = true → d.started = some (write, a) →
      exec (.dbgCmdDone true) s = .next (ends 3) ∧
      (write = true → exec (.dbgCmdDone false) s = .next (if writesVisible s .other = true then ends 0 else askVisible s .other)) ∧
      (write = false → NoInjection s → inAlias s a.toNat = false → readError s true a.toNat 8 = none → exec (.dbgCmdDone false) s = .next
        { ends 0 with dbg := { (ends 0).dbg with data := ofBytes 64 ((List.range 8).map fun i => ownByte s true (a.toNat + i)) } }) ∧
      (write = false → NoInjection s → inAlias s a.toNat = false → readError s true a.toNat 8 ≠ none → ∃ t, exec (.dbgCmdDone false) s = .next t ∧ t.dbg.err = 3 ∧ t.dbg.busy = false ∧
        t.dbg.data = d.data ∧ t.banks = s.banks))
end

