-- ==== Sys2Proof/Laws/State.lean ====
section
/-! SUPPORT. What each small update of the state leaves as it was, field by field, so that no proof unfolds a record update. -/
namespace Sys2Proof.Machine

/-! setCur -/
@[simp] theorem setCur_var (s : State) (b : Bank) : (setCur s b).var = s.var := rfl
@[simp] theorem setCur_freeCtr (s : State) (b : Bank) : (setCur s b).freeCtr = s.freeCtr := rfl
@[simp] theorem setCur_pending (s : State) (b : Bank) : (setCur s b).pending = s.pending := rfl
@[simp] theorem setCur_stall (s : State) (b : Bank) : (setCur s b).stall = s.stall := rfl
@[simp] theorem setCur_c (s : State) (b : Bank) : (setCur s b).c = s.c := rfl
@[simp] theorem setCur_tiles (s : State) (b : Bank) : (setCur s b).tiles = s.tiles := rfl
@[simp] theorem setCur_nib (s : State) (b : Bank) : (setCur s b).nib = s.nib := rfl
@[simp] theorem setCur_ops (s : State) (b : Bank) : (setCur s b).ops = s.ops := rfl
@[simp] theorem setCur_nextOp (s : State) (b : Bank) : (setCur s b).nextOp = s.nextOp := rfl
@[simp] theorem setCur_bd (s : State) (b : Bank) : (setCur s b).bd = s.bd := rfl
@[simp] theorem setCur_ink (s : State) (b : Bank) : (setCur s b).ink = s.ink := rfl
@[simp] theorem setCur_inkBad (s : State) (b : Bank) : (setCur s b).inkBad = s.inkBad := rfl
@[simp] theorem setCur_inkZeroing (s : State) (b : Bank) : (setCur s b).inkZeroing = s.inkZeroing := rfl
@[simp] theorem setCur_sq (s : State) (b : Bank) : (setCur s b).sq = s.sq := rfl
@[simp] theorem setCur_scribes (s : State) (b : Bank) : (setCur s b).scribes = s.scribes := rfl
@[simp] theorem setCur_rings (s : State) (b : Bank) : (setCur s b).rings = s.rings := rfl
@[simp] theorem setCur_lastRing (s : State) (b : Bank) : (setCur s b).lastRing = s.lastRing := rfl
@[simp] theorem setCur_placed (s : State) (b : Bank) : (setCur s b).placed = s.placed := rfl
@[simp] theorem setCur_vellum (s : State) (b : Bank) : (setCur s b).vellum = s.vellum := rfl
@[simp] theorem setCur_vellumBad (s : State) (b : Bank) : (setCur s b).vellumBad = s.vellumBad := rfl
@[simp] theorem setCur_vellumZeroing (s : State) (b : Bank) : (setCur s b).vellumZeroing = s.vellumZeroing := rfl
@[simp] theorem setCur_mem (s : State) (b : Bank) : (setCur s b).mem = s.mem := rfl
@[simp] theorem setCur_memBad (s : State) (b : Bank) : (setCur s b).memBad = s.memBad := rfl
@[simp] theorem setCur_ca (s : State) (b : Bank) : (setCur s b).ca = s.ca := rfl
@[simp] theorem setCur_tal (s : State) (b : Bank) : (setCur s b).tal = s.tal := rfl
@[simp] theorem setCur_mir (s : State) (b : Bank) : (setCur s b).mir = s.mir := rfl
@[simp] theorem setCur_err (s : State) (b : Bank) : (setCur s b).err = s.err := rfl
@[simp] theorem setCur_qu (s : State) (b : Bank) : (setCur s b).qu = s.qu := rfl
@[simp] theorem setCur_upd (s : State) (b : Bank) : (setCur s b).upd = s.upd := rfl
@[simp] theorem setCur_port (s : State) (b : Bank) : (setCur s b).port = s.port := rfl
@[simp] theorem setCur_tlbiRx (s : State) (b : Bank) : (setCur s b).tlbiRx = s.tlbiRx := rfl
@[simp] theorem setCur_tlbiOut (s : State) (b : Bank) : (setCur s b).tlbiOut = s.tlbiOut := rfl
@[simp] theorem setCur_win (s : State) (b : Bank) : (setCur s b).win = s.win := rfl
@[simp] theorem setCur_dbg (s : State) (b : Bank) : (setCur s b).dbg = s.dbg := rfl
@[simp] theorem setCur_test (s : State) (b : Bank) : (setCur s b).test = s.test := rfl
@[simp] theorem setCur_cfg (s : State) (b : Bank) : (setCur s b).cfg = s.cfg := rfl
@[simp] theorem setCur_dom (s : State) (b : Bank) : (setCur s b).dom = s.dom := rfl
@[simp] theorem setCur_heldOff (s : State) (b : Bank) : (setCur s b).heldOff = s.heldOff := rfl
@[simp] theorem setCur_heldRet (s : State) (b : Bank) : (setCur s b).heldRet = s.heldRet := rfl
@[simp] theorem setCur_pset (s : State) (b : Bank) : (setCur s b).pset = s.pset := rfl

/-! setBank -/
@[simp] theorem setBank_var (s : State) (k : BankNum) (b : Bank) : (setBank s k b).var = s.var := rfl
@[simp] theorem setBank_freeCtr (s : State) (k : BankNum) (b : Bank) : (setBank s k b).freeCtr = s.freeCtr := rfl
@[simp] theorem setBank_pending (s : State) (k : BankNum) (b : Bank) : (setBank s k b).pending = s.pending := rfl
@[simp] theorem setBank_stall (s : State) (k : BankNum) (b : Bank) : (setBank s k b).stall = s.stall := rfl
@[simp] theorem setBank_c (s : State) (k : BankNum) (b : Bank) : (setBank s k b).c = s.c := rfl
@[simp] theorem setBank_tiles (s : State) (k : BankNum) (b : Bank) : (setBank s k b).tiles = s.tiles := rfl
@[simp] theorem setBank_nib (s : State) (k : BankNum) (b : Bank) : (setBank s k b).nib = s.nib := rfl
@[simp] theorem setBank_ops (s : State) (k : BankNum) (b : Bank) : (setBank s k b).ops = s.ops := rfl
@[simp] theorem setBank_nextOp (s : State) (k : BankNum) (b : Bank) : (setBank s k b).nextOp = s.nextOp := rfl
@[simp] theorem setBank_bd (s : State) (k : BankNum) (b : Bank) : (setBank s k b).bd = s.bd := rfl
@[simp] theorem setBank_ink (s : State) (k : BankNum) (b : Bank) : (setBank s k b).ink = s.ink := rfl
@[simp] theorem setBank_inkBad (s : State) (k : BankNum) (b : Bank) : (setBank s k b).inkBad = s.inkBad := rfl
@[simp] theorem setBank_inkZeroing (s : State) (k : BankNum) (b : Bank) : (setBank s k b).inkZeroing = s.inkZeroing := rfl
@[simp] theorem setBank_sq (s : State) (k : BankNum) (b : Bank) : (setBank s k b).sq = s.sq := rfl
@[simp] theorem setBank_scribes (s : State) (k : BankNum) (b : Bank) : (setBank s k b).scribes = s.scribes := rfl
@[simp] theorem setBank_rings (s : State) (k : BankNum) (b : Bank) : (setBank s k b).rings = s.rings := rfl
@[simp] theorem setBank_lastRing (s : State) (k : BankNum) (b : Bank) : (setBank s k b).lastRing = s.lastRing := rfl
@[simp] theorem setBank_placed (s : State) (k : BankNum) (b : Bank) : (setBank s k b).placed = s.placed := rfl
@[simp] theorem setBank_vellum (s : State) (k : BankNum) (b : Bank) : (setBank s k b).vellum = s.vellum := rfl
@[simp] theorem setBank_vellumBad (s : State) (k : BankNum) (b : Bank) : (setBank s k b).vellumBad = s.vellumBad := rfl
@[simp] theorem setBank_vellumZeroing (s : State) (k : BankNum) (b : Bank) : (setBank s k b).vellumZeroing = s.vellumZeroing := rfl
@[simp] theorem setBank_mem (s : State) (k : BankNum) (b : Bank) : (setBank s k b).mem = s.mem := rfl
@[simp] theorem setBank_memBad (s : State) (k : BankNum) (b : Bank) : (setBank s k b).memBad = s.memBad := rfl
@[simp] theorem setBank_ca (s : State) (k : BankNum) (b : Bank) : (setBank s k b).ca = s.ca := rfl
@[simp] theorem setBank_tal (s : State) (k : BankNum) (b : Bank) : (setBank s k b).tal = s.tal := rfl
@[simp] theorem setBank_mir (s : State) (k : BankNum) (b : Bank) : (setBank s k b).mir = s.mir := rfl
@[simp] theorem setBank_err (s : State) (k : BankNum) (b : Bank) : (setBank s k b).err = s.err := rfl
@[simp] theorem setBank_qu (s : State) (k : BankNum) (b : Bank) : (setBank s k b).qu = s.qu := rfl
@[simp] theorem setBank_upd (s : State) (k : BankNum) (b : Bank) : (setBank s k b).upd = s.upd := rfl
@[simp] theorem setBank_port (s : State) (k : BankNum) (b : Bank) : (setBank s k b).port = s.port := rfl
@[simp] theorem setBank_tlbiRx (s : State) (k : BankNum) (b : Bank) : (setBank s k b).tlbiRx = s.tlbiRx := rfl
@[simp] theorem setBank_tlbiOut (s : State) (k : BankNum) (b : Bank) : (setBank s k b).tlbiOut = s.tlbiOut := rfl
@[simp] theorem setBank_win (s : State) (k : BankNum) (b : Bank) : (setBank s k b).win = s.win := rfl
@[simp] theorem setBank_dbg (s : State) (k : BankNum) (b : Bank) : (setBank s k b).dbg = s.dbg := rfl
@[simp] theorem setBank_test (s : State) (k : BankNum) (b : Bank) : (setBank s k b).test = s.test := rfl
@[simp] theorem setBank_cfg (s : State) (k : BankNum) (b : Bank) : (setBank s k b).cfg = s.cfg := rfl
@[simp] theorem setBank_dom (s : State) (k : BankNum) (b : Bank) : (setBank s k b).dom = s.dom := rfl
@[simp] theorem setBank_heldOff (s : State) (k : BankNum) (b : Bank) : (setBank s k b).heldOff = s.heldOff := rfl
@[simp] theorem setBank_heldRet (s : State) (k : BankNum) (b : Bank) : (setBank s k b).heldRet = s.heldRet := rfl
@[simp] theorem setBank_pset (s : State) (k : BankNum) (b : Bank) : (setBank s k b).pset = s.pset := rfl

/-! retire -/
@[simp] theorem retire_var (s : State) : (retire s).var = s.var := rfl
@[simp] theorem retire_freeCtr (s : State) : (retire s).freeCtr = s.freeCtr := rfl
@[simp] theorem retire_pending (s : State) : (retire s).pending = s.pending := rfl
@[simp] theorem retire_banks (s : State) : (retire s).banks = s.banks := rfl
@[simp] theorem retire_tiles (s : State) : (retire s).tiles = s.tiles := rfl
@[simp] theorem retire_nib (s : State) : (retire s).nib = s.nib := rfl
@[simp] theorem retire_ops (s : State) : (retire s).ops = s.ops := rfl
@[simp] theorem retire_nextOp (s : State) : (retire s).nextOp = s.nextOp := rfl
@[simp] theorem retire_bd (s : State) : (retire s).bd = s.bd := rfl
@[simp] theorem retire_ink (s : State) : (retire s).ink = s.ink := rfl
@[simp] theorem retire_inkBad (s : State) : (retire s).inkBad = s.inkBad := rfl
@[simp] theorem retire_inkZeroing (s : State) : (retire s).inkZeroing = s.inkZeroing := rfl
@[simp] theorem retire_sq (s : State) : (retire s).sq = s.sq := rfl
@[simp] theorem retire_scribes (s : State) : (retire s).scribes = s.scribes := rfl
@[simp] theorem retire_rings (s : State) : (retire s).rings = s.rings := rfl
@[simp] theorem retire_lastRing (s : State) : (retire s).lastRing = s.lastRing := rfl
@[simp] theorem retire_placed (s : State) : (retire s).placed = s.placed := rfl
@[simp] theorem retire_vellum (s : State) : (retire s).vellum = s.vellum := rfl
@[simp] theorem retire_vellumBad (s : State) : (retire s).vellumBad = s.vellumBad := rfl
@[simp] theorem retire_vellumZeroing (s : State) : (retire s).vellumZeroing = s.vellumZeroing := rfl
@[simp] theorem retire_mem (s : State) : (retire s).mem = s.mem := rfl
@[simp] theorem retire_memBad (s : State) : (retire s).memBad = s.memBad := rfl
@[simp] theorem retire_ca (s : State) : (retire s).ca = s.ca := rfl
@[simp] theorem retire_tal (s : State) : (retire s).tal = s.tal := rfl
@[simp] theorem retire_mir (s : State) : (retire s).mir = s.mir := rfl
@[simp] theorem retire_err (s : State) : (retire s).err = s.err := rfl
@[simp] theorem retire_qu (s : State) : (retire s).qu = s.qu := rfl
@[simp] theorem retire_upd (s : State) : (retire s).upd = s.upd := rfl
@[simp] theorem retire_port (s : State) : (retire s).port = s.port := rfl
@[simp] theorem retire_tlbiRx (s : State) : (retire s).tlbiRx = s.tlbiRx := rfl
@[simp] theorem retire_tlbiOut (s : State) : (retire s).tlbiOut = s.tlbiOut := rfl
@[simp] theorem retire_win (s : State) : (retire s).win = s.win := rfl
@[simp] theorem retire_test (s : State) : (retire s).test = s.test := rfl
@[simp] theorem retire_cfg (s : State) : (retire s).cfg = s.cfg := rfl
@[simp] theorem retire_dom (s : State) : (retire s).dom = s.dom := rfl
@[simp] theorem retire_heldOff (s : State) : (retire s).heldOff = s.heldOff := rfl
@[simp] theorem retire_heldRet (s : State) : (retire s).heldRet = s.heldRet := rfl
@[simp] theorem retire_pset (s : State) : (retire s).pset = s.pset := rfl

/-! requestWarm -/
@[simp] theorem requestWarm_var (s : State) : (requestWarm s).var = s.var := rfl
@[simp] theorem requestWarm_freeCtr (s : State) : (requestWarm s).freeCtr = s.freeCtr := rfl
@[simp] theorem requestWarm_pending (s : State) : (requestWarm s).pending = s.pending := rfl
@[simp] theorem requestWarm_stall (s : State) : (requestWarm s).stall = s.stall := rfl
@[simp] theorem requestWarm_banks (s : State) : (requestWarm s).banks = s.banks := rfl
@[simp] theorem requestWarm_c (s : State) : (requestWarm s).c = s.c := rfl
@[simp] theorem requestWarm_tiles (s : State) : (requestWarm s).tiles = s.tiles := rfl
@[simp] theorem requestWarm_nib (s : State) : (requestWarm s).nib = s.nib := rfl
@[simp] theorem requestWarm_ops (s : State) : (requestWarm s).ops = s.ops := rfl
@[simp] theorem requestWarm_nextOp (s : State) : (requestWarm s).nextOp = s.nextOp := rfl
@[simp] theorem requestWarm_bd (s : State) : (requestWarm s).bd = s.bd := rfl
@[simp] theorem requestWarm_ink (s : State) : (requestWarm s).ink = s.ink := rfl
@[simp] theorem requestWarm_inkBad (s : State) : (requestWarm s).inkBad = s.inkBad := rfl
@[simp] theorem requestWarm_inkZeroing (s : State) : (requestWarm s).inkZeroing = s.inkZeroing := rfl
@[simp] theorem requestWarm_sq (s : State) : (requestWarm s).sq = s.sq := rfl
@[simp] theorem requestWarm_scribes (s : State) : (requestWarm s).scribes = s.scribes := rfl
@[simp] theorem requestWarm_rings (s : State) : (requestWarm s).rings = s.rings := rfl
@[simp] theorem requestWarm_lastRing (s : State) : (requestWarm s).lastRing = s.lastRing := rfl
@[simp] theorem requestWarm_placed (s : State) : (requestWarm s).placed = s.placed := rfl
@[simp] theorem requestWarm_vellum (s : State) : (requestWarm s).vellum = s.vellum := rfl
@[simp] theorem requestWarm_vellumBad (s : State) : (requestWarm s).vellumBad = s.vellumBad := rfl
@[simp] theorem requestWarm_vellumZeroing (s : State) : (requestWarm s).vellumZeroing = s.vellumZeroing := rfl
@[simp] theorem requestWarm_mem (s : State) : (requestWarm s).mem = s.mem := rfl
@[simp] theorem requestWarm_memBad (s : State) : (requestWarm s).memBad = s.memBad := rfl
@[simp] theorem requestWarm_ca (s : State) : (requestWarm s).ca = s.ca := rfl
@[simp] theorem requestWarm_tal (s : State) : (requestWarm s).tal = s.tal := rfl
@[simp] theorem requestWarm_mir (s : State) : (requestWarm s).mir = s.mir := rfl
@[simp] theorem requestWarm_err (s : State) : (requestWarm s).err = s.err := rfl
@[simp] theorem requestWarm_qu (s : State) : (requestWarm s).qu = s.qu := rfl
@[simp] theorem requestWarm_upd (s : State) : (requestWarm s).upd = s.upd := rfl
@[simp] theorem requestWarm_port (s : State) : (requestWarm s).port = s.port := rfl
@[simp] theorem requestWarm_tlbiRx (s : State) : (requestWarm s).tlbiRx = s.tlbiRx := rfl
@[simp] theorem requestWarm_tlbiOut (s : State) : (requestWarm s).tlbiOut = s.tlbiOut := rfl
@[simp] theorem requestWarm_dbg (s : State) : (requestWarm s).dbg = s.dbg := rfl
@[simp] theorem requestWarm_test (s : State) : (requestWarm s).test = s.test := rfl
@[simp] theorem requestWarm_cfg (s : State) : (requestWarm s).cfg = s.cfg := rfl
@[simp] theorem requestWarm_dom (s : State) : (requestWarm s).dom = s.dom := rfl
@[simp] theorem requestWarm_heldOff (s : State) : (requestWarm s).heldOff = s.heldOff := rfl
@[simp] theorem requestWarm_heldRet (s : State) : (requestWarm s).heldRet = s.heldRet := rfl
@[simp] theorem requestWarm_pset (s : State) : (requestWarm s).pset = s.pset := rfl

/-! setPending -/
@[simp] theorem setPending_var (s : State) (v : Byte) (on : Bool) : (setPending s v on).var = s.var := rfl
@[simp] theorem setPending_freeCtr (s : State) (v : Byte) (on : Bool) : (setPending s v on).freeCtr = s.freeCtr := rfl
@[simp] theorem setPending_pending (s : State) (v : Byte) (on : Bool) : (setPending s v on).pending = s.pending := rfl
@[simp] theorem setPending_stall (s : State) (v : Byte) (on : Bool) : (setPending s v on).stall = s.stall := rfl
@[simp] theorem setPending_banks (s : State) (v : Byte) (on : Bool) : (setPending s v on).banks = s.banks := rfl
@[simp] theorem setPending_tiles (s : State) (v : Byte) (on : Bool) : (setPending s v on).tiles = s.tiles := rfl
@[simp] theorem setPending_nib (s : State) (v : Byte) (on : Bool) : (setPending s v on).nib = s.nib := rfl
@[simp] theorem setPending_ops (s : State) (v : Byte) (on : Bool) : (setPending s v on).ops = s.ops := rfl
@[simp] theorem setPending_nextOp (s : State) (v : Byte) (on : Bool) : (setPending s v on).nextOp = s.nextOp := rfl
@[simp] theorem setPending_bd (s : State) (v : Byte) (on : Bool) : (setPending s v on).bd = s.bd := rfl
@[simp] theorem setPending_ink (s : State) (v : Byte) (on : Bool) : (setPending s v on).ink = s.ink := rfl
@[simp] theorem setPending_inkBad (s : State) (v : Byte) (on : Bool) : (setPending s v on).inkBad = s.inkBad := rfl
@[simp] theorem setPending_inkZeroing (s : State) (v : Byte) (on : Bool) : (setPending s v on).inkZeroing = s.inkZeroing := rfl
@[simp] theorem setPending_sq (s : State) (v : Byte) (on : Bool) : (setPending s v on).sq = s.sq := rfl
@[simp] theorem setPending_scribes (s : State) (v : Byte) (on : Bool) : (setPending s v on).scribes = s.scribes := rfl
@[simp] theorem setPending_rings (s : State) (v : Byte) (on : Bool) : (setPending s v on).rings = s.rings := rfl
@[simp] theorem setPending_lastRing (s : State) (v : Byte) (on : Bool) : (setPending s v on).lastRing = s.lastRing := rfl
@[simp] theorem setPending_placed (s : State) (v : Byte) (on : Bool) : (setPending s v on).placed = s.placed := rfl
@[simp] theorem setPending_vellum (s : State) (v : Byte) (on : Bool) : (setPending s v on).vellum = s.vellum := rfl
@[simp] theorem setPending_vellumBad (s : State) (v : Byte) (on : Bool) : (setPending s v on).vellumBad = s.vellumBad := rfl
@[simp] theorem setPending_vellumZeroing (s : State) (v : Byte) (on : Bool) : (setPending s v on).vellumZeroing = s.vellumZeroing := rfl
@[simp] theorem setPending_mem (s : State) (v : Byte) (on : Bool) : (setPending s v on).mem = s.mem := rfl
@[simp] theorem setPending_memBad (s : State) (v : Byte) (on : Bool) : (setPending s v on).memBad = s.memBad := rfl
@[simp] theorem setPending_ca (s : State) (v : Byte) (on : Bool) : (setPending s v on).ca = s.ca := rfl
@[simp] theorem setPending_tal (s : State) (v : Byte) (on : Bool) : (setPending s v on).tal = s.tal := rfl
@[simp] theorem setPending_mir (s : State) (v : Byte) (on : Bool) : (setPending s v on).mir = s.mir := rfl
@[simp] theorem setPending_err (s : State) (v : Byte) (on : Bool) : (setPending s v on).err = s.err := rfl
@[simp] theorem setPending_qu (s : State) (v : Byte) (on : Bool) : (setPending s v on).qu = s.qu := rfl
@[simp] theorem setPending_upd (s : State) (v : Byte) (on : Bool) : (setPending s v on).upd = s.upd := rfl
@[simp] theorem setPending_port (s : State) (v : Byte) (on : Bool) : (setPending s v on).port = s.port := rfl
@[simp] theorem setPending_tlbiRx (s : State) (v : Byte) (on : Bool) : (setPending s v on).tlbiRx = s.tlbiRx := rfl
@[simp] theorem setPending_tlbiOut (s : State) (v : Byte) (on : Bool) : (setPending s v on).tlbiOut = s.tlbiOut := rfl
@[simp] theorem setPending_win (s : State) (v : Byte) (on : Bool) : (setPending s v on).win = s.win := rfl
@[simp] theorem setPending_dbg (s : State) (v : Byte) (on : Bool) : (setPending s v on).dbg = s.dbg := rfl
@[simp] theorem setPending_test (s : State) (v : Byte) (on : Bool) : (setPending s v on).test = s.test := rfl
@[simp] theorem setPending_cfg (s : State) (v : Byte) (on : Bool) : (setPending s v on).cfg = s.cfg := rfl
@[simp] theorem setPending_dom (s : State) (v : Byte) (on : Bool) : (setPending s v on).dom = s.dom := rfl
@[simp] theorem setPending_heldOff (s : State) (v : Byte) (on : Bool) : (setPending s v on).heldOff = s.heldOff := rfl
@[simp] theorem setPending_heldRet (s : State) (v : Byte) (on : Bool) : (setPending s v on).heldRet = s.heldRet := rfl
@[simp] theorem setPending_pset (s : State) (v : Byte) (on : Bool) : (setPending s v on).pset = s.pset := rfl

/-! setTile -/
@[simp] theorem setTile_var (s : State) (t : TReg) (x : Tile) : (setTile s t x).var = s.var := rfl
@[simp] theorem setTile_freeCtr (s : State) (t : TReg) (x : Tile) : (setTile s t x).freeCtr = s.freeCtr := rfl
@[simp] theorem setTile_pending (s : State) (t : TReg) (x : Tile) : (setTile s t x).pending = s.pending := rfl
@[simp] theorem setTile_stall (s : State) (t : TReg) (x : Tile) : (setTile s t x).stall = s.stall := rfl
@[simp] theorem setTile_banks (s : State) (t : TReg) (x : Tile) : (setTile s t x).banks = s.banks := rfl
@[simp] theorem setTile_c (s : State) (t : TReg) (x : Tile) : (setTile s t x).c = s.c := rfl
@[simp] theorem setTile_nib (s : State) (t : TReg) (x : Tile) : (setTile s t x).nib = s.nib := rfl
@[simp] theorem setTile_ops (s : State) (t : TReg) (x : Tile) : (setTile s t x).ops = s.ops := rfl
@[simp] theorem setTile_nextOp (s : State) (t : TReg) (x : Tile) : (setTile s t x).nextOp = s.nextOp := rfl
@[simp] theorem setTile_bd (s : State) (t : TReg) (x : Tile) : (setTile s t x).bd = s.bd := rfl
@[simp] theorem setTile_ink (s : State) (t : TReg) (x : Tile) : (setTile s t x).ink = s.ink := rfl
@[simp] theorem setTile_inkBad (s : State) (t : TReg) (x : Tile) : (setTile s t x).inkBad = s.inkBad := rfl
@[simp] theorem setTile_inkZeroing (s : State) (t : TReg) (x : Tile) : (setTile s t x).inkZeroing = s.inkZeroing := rfl
@[simp] theorem setTile_sq (s : State) (t : TReg) (x : Tile) : (setTile s t x).sq = s.sq := rfl
@[simp] theorem setTile_scribes (s : State) (t : TReg) (x : Tile) : (setTile s t x).scribes = s.scribes := rfl
@[simp] theorem setTile_rings (s : State) (t : TReg) (x : Tile) : (setTile s t x).rings = s.rings := rfl
@[simp] theorem setTile_lastRing (s : State) (t : TReg) (x : Tile) : (setTile s t x).lastRing = s.lastRing := rfl
@[simp] theorem setTile_placed (s : State) (t : TReg) (x : Tile) : (setTile s t x).placed = s.placed := rfl
@[simp] theorem setTile_vellum (s : State) (t : TReg) (x : Tile) : (setTile s t x).vellum = s.vellum := rfl
@[simp] theorem setTile_vellumBad (s : State) (t : TReg) (x : Tile) : (setTile s t x).vellumBad = s.vellumBad := rfl
@[simp] theorem setTile_vellumZeroing (s : State) (t : TReg) (x : Tile) : (setTile s t x).vellumZeroing = s.vellumZeroing := rfl
@[simp] theorem setTile_mem (s : State) (t : TReg) (x : Tile) : (setTile s t x).mem = s.mem := rfl
@[simp] theorem setTile_memBad (s : State) (t : TReg) (x : Tile) : (setTile s t x).memBad = s.memBad := rfl
@[simp] theorem setTile_ca (s : State) (t : TReg) (x : Tile) : (setTile s t x).ca = s.ca := rfl
@[simp] theorem setTile_tal (s : State) (t : TReg) (x : Tile) : (setTile s t x).tal = s.tal := rfl
@[simp] theorem setTile_mir (s : State) (t : TReg) (x : Tile) : (setTile s t x).mir = s.mir := rfl
@[simp] theorem setTile_err (s : State) (t : TReg) (x : Tile) : (setTile s t x).err = s.err := rfl
@[simp] theorem setTile_qu (s : State) (t : TReg) (x : Tile) : (setTile s t x).qu = s.qu := rfl
@[simp] theorem setTile_upd (s : State) (t : TReg) (x : Tile) : (setTile s t x).upd = s.upd := rfl
@[simp] theorem setTile_port (s : State) (t : TReg) (x : Tile) : (setTile s t x).port = s.port := rfl
@[simp] theorem setTile_tlbiRx (s : State) (t : TReg) (x : Tile) : (setTile s t x).tlbiRx = s.tlbiRx := rfl
@[simp] theorem setTile_tlbiOut (s : State) (t : TReg) (x : Tile) : (setTile s t x).tlbiOut = s.tlbiOut := rfl
@[simp] theorem setTile_win (s : State) (t : TReg) (x : Tile) : (setTile s t x).win = s.win := rfl
@[simp] theorem setTile_dbg (s : State) (t : TReg) (x : Tile) : (setTile s t x).dbg = s.dbg := rfl
@[simp] theorem setTile_test (s : State) (t : TReg) (x : Tile) : (setTile s t x).test = s.test := rfl
@[simp] theorem setTile_cfg (s : State) (t : TReg) (x : Tile) : (setTile s t x).cfg = s.cfg := rfl
@[simp] theorem setTile_dom (s : State) (t : TReg) (x : Tile) : (setTile s t x).dom = s.dom := rfl
@[simp] theorem setTile_heldOff (s : State) (t : TReg) (x : Tile) : (setTile s t x).heldOff = s.heldOff := rfl
@[simp] theorem setTile_heldRet (s : State) (t : TReg) (x : Tile) : (setTile s t x).heldRet = s.heldRet := rfl
@[simp] theorem setTile_pset (s : State) (t : TReg) (x : Tile) : (setTile s t x).pset = s.pset := rfl

/-! setDirty -/
@[simp] theorem setDirty_var (s : State) (t : TReg) : (setDirty s t).var = s.var := rfl
@[simp] theorem setDirty_freeCtr (s : State) (t : TReg) : (setDirty s t).freeCtr = s.freeCtr := rfl
@[simp] theorem setDirty_pending (s : State) (t : TReg) : (setDirty s t).pending = s.pending := rfl
@[simp] theorem setDirty_stall (s : State) (t : TReg) : (setDirty s t).stall = s.stall := rfl
@[simp] theorem setDirty_banks (s : State) (t : TReg) : (setDirty s t).banks = s.banks := rfl
@[simp] theorem setDirty_tiles (s : State) (t : TReg) : (setDirty s t).tiles = s.tiles := rfl
@[simp] theorem setDirty_nib (s : State) (t : TReg) : (setDirty s t).nib = s.nib := rfl
@[simp] theorem setDirty_ops (s : State) (t : TReg) : (setDirty s t).ops = s.ops := rfl
@[simp] theorem setDirty_nextOp (s : State) (t : TReg) : (setDirty s t).nextOp = s.nextOp := rfl
@[simp] theorem setDirty_bd (s : State) (t : TReg) : (setDirty s t).bd = s.bd := rfl
@[simp] theorem setDirty_ink (s : State) (t : TReg) : (setDirty s t).ink = s.ink := rfl
@[simp] theorem setDirty_inkBad (s : State) (t : TReg) : (setDirty s t).inkBad = s.inkBad := rfl
@[simp] theorem setDirty_inkZeroing (s : State) (t : TReg) : (setDirty s t).inkZeroing = s.inkZeroing := rfl
@[simp] theorem setDirty_sq (s : State) (t : TReg) : (setDirty s t).sq = s.sq := rfl
@[simp] theorem setDirty_scribes (s : State) (t : TReg) : (setDirty s t).scribes = s.scribes := rfl
@[simp] theorem setDirty_rings (s : State) (t : TReg) : (setDirty s t).rings = s.rings := rfl
@[simp] theorem setDirty_lastRing (s : State) (t : TReg) : (setDirty s t).lastRing = s.lastRing := rfl
@[simp] theorem setDirty_placed (s : State) (t : TReg) : (setDirty s t).placed = s.placed := rfl
@[simp] theorem setDirty_vellum (s : State) (t : TReg) : (setDirty s t).vellum = s.vellum := rfl
@[simp] theorem setDirty_vellumBad (s : State) (t : TReg) : (setDirty s t).vellumBad = s.vellumBad := rfl
@[simp] theorem setDirty_vellumZeroing (s : State) (t : TReg) : (setDirty s t).vellumZeroing = s.vellumZeroing := rfl
@[simp] theorem setDirty_mem (s : State) (t : TReg) : (setDirty s t).mem = s.mem := rfl
@[simp] theorem setDirty_memBad (s : State) (t : TReg) : (setDirty s t).memBad = s.memBad := rfl
@[simp] theorem setDirty_ca (s : State) (t : TReg) : (setDirty s t).ca = s.ca := rfl
@[simp] theorem setDirty_tal (s : State) (t : TReg) : (setDirty s t).tal = s.tal := rfl
@[simp] theorem setDirty_mir (s : State) (t : TReg) : (setDirty s t).mir = s.mir := rfl
@[simp] theorem setDirty_err (s : State) (t : TReg) : (setDirty s t).err = s.err := rfl
@[simp] theorem setDirty_qu (s : State) (t : TReg) : (setDirty s t).qu = s.qu := rfl
@[simp] theorem setDirty_upd (s : State) (t : TReg) : (setDirty s t).upd = s.upd := rfl
@[simp] theorem setDirty_port (s : State) (t : TReg) : (setDirty s t).port = s.port := rfl
@[simp] theorem setDirty_tlbiRx (s : State) (t : TReg) : (setDirty s t).tlbiRx = s.tlbiRx := rfl
@[simp] theorem setDirty_tlbiOut (s : State) (t : TReg) : (setDirty s t).tlbiOut = s.tlbiOut := rfl
@[simp] theorem setDirty_win (s : State) (t : TReg) : (setDirty s t).win = s.win := rfl
@[simp] theorem setDirty_dbg (s : State) (t : TReg) : (setDirty s t).dbg = s.dbg := rfl
@[simp] theorem setDirty_test (s : State) (t : TReg) : (setDirty s t).test = s.test := rfl
@[simp] theorem setDirty_cfg (s : State) (t : TReg) : (setDirty s t).cfg = s.cfg := rfl
@[simp] theorem setDirty_dom (s : State) (t : TReg) : (setDirty s t).dom = s.dom := rfl
@[simp] theorem setDirty_heldOff (s : State) (t : TReg) : (setDirty s t).heldOff = s.heldOff := rfl
@[simp] theorem setDirty_heldRet (s : State) (t : TReg) : (setDirty s t).heldRet = s.heldRet := rfl
@[simp] theorem setDirty_pset (s : State) (t : TReg) : (setDirty s t).pset = s.pset := rfl

/-! updOp -/
@[simp] theorem updOp_var (s : State) (id : Nat) (f : Op → Op) : (updOp s id f).var = s.var := rfl
@[simp] theorem updOp_freeCtr (s : State) (id : Nat) (f : Op → Op) : (updOp s id f).freeCtr = s.freeCtr := rfl
@[simp] theorem updOp_pending (s : State) (id : Nat) (f : Op → Op) : (updOp s id f).pending = s.pending := rfl
@[simp] theorem updOp_stall (s : State) (id : Nat) (f : Op → Op) : (updOp s id f).stall = s.stall := rfl
@[simp] theorem updOp_banks (s : State) (id : Nat) (f : Op → Op) : (updOp s id f).banks = s.banks := rfl
@[simp] theorem updOp_c (s : State) (id : Nat) (f : Op → Op) : (updOp s id f).c = s.c := rfl
@[simp] theorem updOp_tiles (s : State) (id : Nat) (f : Op → Op) : (updOp s id f).tiles = s.tiles := rfl
@[simp] theorem updOp_nib (s : State) (id : Nat) (f : Op → Op) : (updOp s id f).nib = s.nib := rfl
@[simp] theorem updOp_nextOp (s : State) (id : Nat) (f : Op → Op) : (updOp s id f).nextOp = s.nextOp := rfl
@[simp] theorem updOp_bd (s : State) (id : Nat) (f : Op → Op) : (updOp s id f).bd = s.bd := rfl
@[simp] theorem updOp_ink (s : State) (id : Nat) (f : Op → Op) : (updOp s id f).ink = s.ink := rfl
@[simp] theorem updOp_inkBad (s : State) (id : Nat) (f : Op → Op) : (updOp s id f).inkBad = s.inkBad := rfl
@[simp] theorem updOp_inkZeroing (s : State) (id : Nat) (f : Op → Op) : (updOp s id f).inkZeroing = s.inkZeroing := rfl
@[simp] theorem updOp_sq (s : State) (id : Nat) (f : Op → Op) : (updOp s id f).sq = s.sq := rfl
@[simp] theorem updOp_scribes (s : State) (id : Nat) (f : Op → Op) : (updOp s id f).scribes = s.scribes := rfl
@[simp] theorem updOp_rings (s : State) (id : Nat) (f : Op → Op) : (updOp s id f).rings = s.rings := rfl
@[simp] theorem updOp_lastRing (s : State) (id : Nat) (f : Op → Op) : (updOp s id f).lastRing = s.lastRing := rfl
@[simp] theorem updOp_placed (s : State) (id : Nat) (f : Op → Op) : (updOp s id f).placed = s.placed := rfl
@[simp] theorem updOp_vellum (s : State) (id : Nat) (f : Op → Op) : (updOp s id f).vellum = s.vellum := rfl
@[simp] theorem updOp_vellumBad (s : State) (id : Nat) (f : Op → Op) : (updOp s id f).vellumBad = s.vellumBad := rfl
@[simp] theorem updOp_vellumZeroing (s : State) (id : Nat) (f : Op → Op) : (updOp s id f).vellumZeroing = s.vellumZeroing := rfl
@[simp] theorem updOp_mem (s : State) (id : Nat) (f : Op → Op) : (updOp s id f).mem = s.mem := rfl
@[simp] theorem updOp_memBad (s : State) (id : Nat) (f : Op → Op) : (updOp s id f).memBad = s.memBad := rfl
@[simp] theorem updOp_ca (s : State) (id : Nat) (f : Op → Op) : (updOp s id f).ca = s.ca := rfl
@[simp] theorem updOp_tal (s : State) (id : Nat) (f : Op → Op) : (updOp s id f).tal = s.tal := rfl
@[simp] theorem updOp_mir (s : State) (id : Nat) (f : Op → Op) : (updOp s id f).mir = s.mir := rfl
@[simp] theorem updOp_err (s : State) (id : Nat) (f : Op → Op) : (updOp s id f).err = s.err := rfl
@[simp] theorem updOp_qu (s : State) (id : Nat) (f : Op → Op) : (updOp s id f).qu = s.qu := rfl
@[simp] theorem updOp_upd (s : State) (id : Nat) (f : Op → Op) : (updOp s id f).upd = s.upd := rfl
@[simp] theorem updOp_port (s : State) (id : Nat) (f : Op → Op) : (updOp s id f).port = s.port := rfl
@[simp] theorem updOp_tlbiRx (s : State) (id : Nat) (f : Op → Op) : (updOp s id f).tlbiRx = s.tlbiRx := rfl
@[simp] theorem updOp_tlbiOut (s : State) (id : Nat) (f : Op → Op) : (updOp s id f).tlbiOut = s.tlbiOut := rfl
@[simp] theorem updOp_win (s : State) (id : Nat) (f : Op → Op) : (updOp s id f).win = s.win := rfl
@[simp] theorem updOp_dbg (s : State) (id : Nat) (f : Op → Op) : (updOp s id f).dbg = s.dbg := rfl
@[simp] theorem updOp_test (s : State) (id : Nat) (f : Op → Op) : (updOp s id f).test = s.test := rfl
@[simp] theorem updOp_cfg (s : State) (id : Nat) (f : Op → Op) : (updOp s id f).cfg = s.cfg := rfl
@[simp] theorem updOp_dom (s : State) (id : Nat) (f : Op → Op) : (updOp s id f).dom = s.dom := rfl
@[simp] theorem updOp_heldOff (s : State) (id : Nat) (f : Op → Op) : (updOp s id f).heldOff = s.heldOff := rfl
@[simp] theorem updOp_heldRet (s : State) (id : Nat) (f : Op → Op) : (updOp s id f).heldRet = s.heldRet := rfl
@[simp] theorem updOp_pset (s : State) (id : Nat) (f : Op → Op) : (updOp s id f).pset = s.pset := rfl

/-! dropOp -/
@[simp] theorem dropOp_var (s : State) (id : Nat) : (dropOp s id).var = s.var := rfl
@[simp] theorem dropOp_freeCtr (s : State) (id : Nat) : (dropOp s id).freeCtr = s.freeCtr := rfl
@[simp] theorem dropOp_pending (s : State) (id : Nat) : (dropOp s id).pending = s.pending := rfl
@[simp] theorem dropOp_stall (s : State) (id : Nat) : (dropOp s id).stall = s.stall := rfl
@[simp] theorem dropOp_banks (s : State) (id : Nat) : (dropOp s id).banks = s.banks := rfl
@[simp] theorem dropOp_c (s : State) (id : Nat) : (dropOp s id).c = s.c := rfl
@[simp] theorem dropOp_tiles (s : State) (id : Nat) : (dropOp s id).tiles = s.tiles := rfl
@[simp] theorem dropOp_nib (s : State) (id : Nat) : (dropOp s id).nib = s.nib := rfl
@[simp] theorem dropOp_nextOp (s : State) (id : Nat) : (dropOp s id).nextOp = s.nextOp := rfl
@[simp] theorem dropOp_bd (s : State) (id : Nat) : (dropOp s id).bd = s.bd := rfl
@[simp] theorem dropOp_ink (s : State) (id : Nat) : (dropOp s id).ink = s.ink := rfl
@[simp] theorem dropOp_inkBad (s : State) (id : Nat) : (dropOp s id).inkBad = s.inkBad := rfl
@[simp] theorem dropOp_inkZeroing (s : State) (id : Nat) : (dropOp s id).inkZeroing = s.inkZeroing := rfl
@[simp] theorem dropOp_sq (s : State) (id : Nat) : (dropOp s id).sq = s.sq := rfl
@[simp] theorem dropOp_scribes (s : State) (id : Nat) : (dropOp s id).scribes = s.scribes := rfl
@[simp] theorem dropOp_rings (s : State) (id : Nat) : (dropOp s id).rings = s.rings := rfl
@[simp] theorem dropOp_lastRing (s : State) (id : Nat) : (dropOp s id).lastRing = s.lastRing := rfl
@[simp] theorem dropOp_placed (s : State) (id : Nat) : (dropOp s id).placed = s.placed := rfl
@[simp] theorem dropOp_vellum (s : State) (id : Nat) : (dropOp s id).vellum = s.vellum := rfl
@[simp] theorem dropOp_vellumBad (s : State) (id : Nat) : (dropOp s id).vellumBad = s.vellumBad := rfl
@[simp] theorem dropOp_vellumZeroing (s : State) (id : Nat) : (dropOp s id).vellumZeroing = s.vellumZeroing := rfl
@[simp] theorem dropOp_mem (s : State) (id : Nat) : (dropOp s id).mem = s.mem := rfl
@[simp] theorem dropOp_memBad (s : State) (id : Nat) : (dropOp s id).memBad = s.memBad := rfl
@[simp] theorem dropOp_ca (s : State) (id : Nat) : (dropOp s id).ca = s.ca := rfl
@[simp] theorem dropOp_tal (s : State) (id : Nat) : (dropOp s id).tal = s.tal := rfl
@[simp] theorem dropOp_mir (s : State) (id : Nat) : (dropOp s id).mir = s.mir := rfl
@[simp] theorem dropOp_err (s : State) (id : Nat) : (dropOp s id).err = s.err := rfl
@[simp] theorem dropOp_qu (s : State) (id : Nat) : (dropOp s id).qu = s.qu := rfl
@[simp] theorem dropOp_upd (s : State) (id : Nat) : (dropOp s id).upd = s.upd := rfl
@[simp] theorem dropOp_port (s : State) (id : Nat) : (dropOp s id).port = s.port := rfl
@[simp] theorem dropOp_tlbiRx (s : State) (id : Nat) : (dropOp s id).tlbiRx = s.tlbiRx := rfl
@[simp] theorem dropOp_tlbiOut (s : State) (id : Nat) : (dropOp s id).tlbiOut = s.tlbiOut := rfl
@[simp] theorem dropOp_win (s : State) (id : Nat) : (dropOp s id).win = s.win := rfl
@[simp] theorem dropOp_dbg (s : State) (id : Nat) : (dropOp s id).dbg = s.dbg := rfl
@[simp] theorem dropOp_test (s : State) (id : Nat) : (dropOp s id).test = s.test := rfl
@[simp] theorem dropOp_cfg (s : State) (id : Nat) : (dropOp s id).cfg = s.cfg := rfl
@[simp] theorem dropOp_dom (s : State) (id : Nat) : (dropOp s id).dom = s.dom := rfl
@[simp] theorem dropOp_heldOff (s : State) (id : Nat) : (dropOp s id).heldOff = s.heldOff := rfl
@[simp] theorem dropOp_heldRet (s : State) (id : Nat) : (dropOp s id).heldRet = s.heldRet := rfl
@[simp] theorem dropOp_pset (s : State) (id : Nat) : (dropOp s id).pset = s.pset := rfl

/-! setDom -/
@[simp] theorem setDom_var (s : State) (d : Fin 32) (x : Dom) : (setDom s d x).var = s.var := rfl
@[simp] theorem setDom_freeCtr (s : State) (d : Fin 32) (x : Dom) : (setDom s d x).freeCtr = s.freeCtr := rfl
@[simp] theorem setDom_pending (s : State) (d : Fin 32) (x : Dom) : (setDom s d x).pending = s.pending := rfl
@[simp] theorem setDom_stall (s : State) (d : Fin 32) (x : Dom) : (setDom s d x).stall = s.stall := rfl
@[simp] theorem setDom_banks (s : State) (d : Fin 32) (x : Dom) : (setDom s d x).banks = s.banks := rfl
@[simp] theorem setDom_c (s : State) (d : Fin 32) (x : Dom) : (setDom s d x).c = s.c := rfl
@[simp] theorem setDom_tiles (s : State) (d : Fin 32) (x : Dom) : (setDom s d x).tiles = s.tiles := rfl
@[simp] theorem setDom_nib (s : State) (d : Fin 32) (x : Dom) : (setDom s d x).nib = s.nib := rfl
@[simp] theorem setDom_ops (s : State) (d : Fin 32) (x : Dom) : (setDom s d x).ops = s.ops := rfl
@[simp] theorem setDom_nextOp (s : State) (d : Fin 32) (x : Dom) : (setDom s d x).nextOp = s.nextOp := rfl
@[simp] theorem setDom_bd (s : State) (d : Fin 32) (x : Dom) : (setDom s d x).bd = s.bd := rfl
@[simp] theorem setDom_ink (s : State) (d : Fin 32) (x : Dom) : (setDom s d x).ink = s.ink := rfl
@[simp] theorem setDom_inkBad (s : State) (d : Fin 32) (x : Dom) : (setDom s d x).inkBad = s.inkBad := rfl
@[simp] theorem setDom_inkZeroing (s : State) (d : Fin 32) (x : Dom) : (setDom s d x).inkZeroing = s.inkZeroing := rfl
@[simp] theorem setDom_sq (s : State) (d : Fin 32) (x : Dom) : (setDom s d x).sq = s.sq := rfl
@[simp] theorem setDom_scribes (s : State) (d : Fin 32) (x : Dom) : (setDom s d x).scribes = s.scribes := rfl
@[simp] theorem setDom_rings (s : State) (d : Fin 32) (x : Dom) : (setDom s d x).rings = s.rings := rfl
@[simp] theorem setDom_lastRing (s : State) (d : Fin 32) (x : Dom) : (setDom s d x).lastRing = s.lastRing := rfl
@[simp] theorem setDom_placed (s : State) (d : Fin 32) (x : Dom) : (setDom s d x).placed = s.placed := rfl
@[simp] theorem setDom_vellum (s : State) (d : Fin 32) (x : Dom) : (setDom s d x).vellum = s.vellum := rfl
@[simp] theorem setDom_vellumBad (s : State) (d : Fin 32) (x : Dom) : (setDom s d x).vellumBad = s.vellumBad := rfl
@[simp] theorem setDom_vellumZeroing (s : State) (d : Fin 32) (x : Dom) : (setDom s d x).vellumZeroing = s.vellumZeroing := rfl
@[simp] theorem setDom_mem (s : State) (d : Fin 32) (x : Dom) : (setDom s d x).mem = s.mem := rfl
@[simp] theorem setDom_memBad (s : State) (d : Fin 32) (x : Dom) : (setDom s d x).memBad = s.memBad := rfl
@[simp] theorem setDom_ca (s : State) (d : Fin 32) (x : Dom) : (setDom s d x).ca = s.ca := rfl
@[simp] theorem setDom_tal (s : State) (d : Fin 32) (x : Dom) : (setDom s d x).tal = s.tal := rfl
@[simp] theorem setDom_mir (s : State) (d : Fin 32) (x : Dom) : (setDom s d x).mir = s.mir := rfl
@[simp] theorem setDom_err (s : State) (d : Fin 32) (x : Dom) : (setDom s d x).err = s.err := rfl
@[simp] theorem setDom_qu (s : State) (d : Fin 32) (x : Dom) : (setDom s d x).qu = s.qu := rfl
@[simp] theorem setDom_upd (s : State) (d : Fin 32) (x : Dom) : (setDom s d x).upd = s.upd := rfl
@[simp] theorem setDom_port (s : State) (d : Fin 32) (x : Dom) : (setDom s d x).port = s.port := rfl
@[simp] theorem setDom_tlbiRx (s : State) (d : Fin 32) (x : Dom) : (setDom s d x).tlbiRx = s.tlbiRx := rfl
@[simp] theorem setDom_tlbiOut (s : State) (d : Fin 32) (x : Dom) : (setDom s d x).tlbiOut = s.tlbiOut := rfl
@[simp] theorem setDom_win (s : State) (d : Fin 32) (x : Dom) : (setDom s d x).win = s.win := rfl
@[simp] theorem setDom_dbg (s : State) (d : Fin 32) (x : Dom) : (setDom s d x).dbg = s.dbg := rfl
@[simp] theorem setDom_test (s : State) (d : Fin 32) (x : Dom) : (setDom s d x).test = s.test := rfl
@[simp] theorem setDom_cfg (s : State) (d : Fin 32) (x : Dom) : (setDom s d x).cfg = s.cfg := rfl
@[simp] theorem setDom_heldOff (s : State) (d : Fin 32) (x : Dom) : (setDom s d x).heldOff = s.heldOff := rfl
@[simp] theorem setDom_heldRet (s : State) (d : Fin 32) (x : Dom) : (setDom s d x).heldRet = s.heldRet := rfl
@[simp] theorem setDom_pset (s : State) (d : Fin 32) (x : Dom) : (setDom s d x).pset = s.pset := rfl

/-! setPort -/
@[simp] theorem setPort_var (s : State) (p : PortNum) (x : Port) : (setPort s p x).var = s.var := rfl
@[simp] theorem setPort_freeCtr (s : State) (p : PortNum) (x : Port) : (setPort s p x).freeCtr = s.freeCtr := rfl
@[simp] theorem setPort_pending (s : State) (p : PortNum) (x : Port) : (setPort s p x).pending = s.pending := rfl
@[simp] theorem setPort_stall (s : State) (p : PortNum) (x : Port) : (setPort s p x).stall = s.stall := rfl
@[simp] theorem setPort_banks (s : State) (p : PortNum) (x : Port) : (setPort s p x).banks = s.banks := rfl
@[simp] theorem setPort_c (s : State) (p : PortNum) (x : Port) : (setPort s p x).c = s.c := rfl
@[simp] theorem setPort_tiles (s : State) (p : PortNum) (x : Port) : (setPort s p x).tiles = s.tiles := rfl
@[simp] theorem setPort_nib (s : State) (p : PortNum) (x : Port) : (setPort s p x).nib = s.nib := rfl
@[simp] theorem setPort_ops (s : State) (p : PortNum) (x : Port) : (setPort s p x).ops = s.ops := rfl
@[simp] theorem setPort_nextOp (s : State) (p : PortNum) (x : Port) : (setPort s p x).nextOp = s.nextOp := rfl
@[simp] theorem setPort_bd (s : State) (p : PortNum) (x : Port) : (setPort s p x).bd = s.bd := rfl
@[simp] theorem setPort_ink (s : State) (p : PortNum) (x : Port) : (setPort s p x).ink = s.ink := rfl
@[simp] theorem setPort_inkBad (s : State) (p : PortNum) (x : Port) : (setPort s p x).inkBad = s.inkBad := rfl
@[simp] theorem setPort_inkZeroing (s : State) (p : PortNum) (x : Port) : (setPort s p x).inkZeroing = s.inkZeroing := rfl
@[simp] theorem setPort_sq (s : State) (p : PortNum) (x : Port) : (setPort s p x).sq = s.sq := rfl
@[simp] theorem setPort_scribes (s : State) (p : PortNum) (x : Port) : (setPort s p x).scribes = s.scribes := rfl
@[simp] theorem setPort_rings (s : State) (p : PortNum) (x : Port) : (setPort s p x).rings = s.rings := rfl
@[simp] theorem setPort_lastRing (s : State) (p : PortNum) (x : Port) : (setPort s p x).lastRing = s.lastRing := rfl
@[simp] theorem setPort_placed (s : State) (p : PortNum) (x : Port) : (setPort s p x).placed = s.placed := rfl
@[simp] theorem setPort_vellum (s : State) (p : PortNum) (x : Port) : (setPort s p x).vellum = s.vellum := rfl
@[simp] theorem setPort_vellumBad (s : State) (p : PortNum) (x : Port) : (setPort s p x).vellumBad = s.vellumBad := rfl
@[simp] theorem setPort_vellumZeroing (s : State) (p : PortNum) (x : Port) : (setPort s p x).vellumZeroing = s.vellumZeroing := rfl
@[simp] theorem setPort_mem (s : State) (p : PortNum) (x : Port) : (setPort s p x).mem = s.mem := rfl
@[simp] theorem setPort_memBad (s : State) (p : PortNum) (x : Port) : (setPort s p x).memBad = s.memBad := rfl
@[simp] theorem setPort_ca (s : State) (p : PortNum) (x : Port) : (setPort s p x).ca = s.ca := rfl
@[simp] theorem setPort_tal (s : State) (p : PortNum) (x : Port) : (setPort s p x).tal = s.tal := rfl
@[simp] theorem setPort_mir (s : State) (p : PortNum) (x : Port) : (setPort s p x).mir = s.mir := rfl
@[simp] theorem setPort_err (s : State) (p : PortNum) (x : Port) : (setPort s p x).err = s.err := rfl
@[simp] theorem setPort_qu (s : State) (p : PortNum) (x : Port) : (setPort s p x).qu = s.qu := rfl
@[simp] theorem setPort_upd (s : State) (p : PortNum) (x : Port) : (setPort s p x).upd = s.upd := rfl
@[simp] theorem setPort_tlbiRx (s : State) (p : PortNum) (x : Port) : (setPort s p x).tlbiRx = s.tlbiRx := rfl
@[simp] theorem setPort_tlbiOut (s : State) (p : PortNum) (x : Port) : (setPort s p x).tlbiOut = s.tlbiOut := rfl
@[simp] theorem setPort_win (s : State) (p : PortNum) (x : Port) : (setPort s p x).win = s.win := rfl
@[simp] theorem setPort_dbg (s : State) (p : PortNum) (x : Port) : (setPort s p x).dbg = s.dbg := rfl
@[simp] theorem setPort_test (s : State) (p : PortNum) (x : Port) : (setPort s p x).test = s.test := rfl
@[simp] theorem setPort_cfg (s : State) (p : PortNum) (x : Port) : (setPort s p x).cfg = s.cfg := rfl
@[simp] theorem setPort_dom (s : State) (p : PortNum) (x : Port) : (setPort s p x).dom = s.dom := rfl
@[simp] theorem setPort_heldOff (s : State) (p : PortNum) (x : Port) : (setPort s p x).heldOff = s.heldOff := rfl
@[simp] theorem setPort_heldRet (s : State) (p : PortNum) (x : Port) : (setPort s p x).heldRet = s.heldRet := rfl
@[simp] theorem setPort_pset (s : State) (p : PortNum) (x : Port) : (setPort s p x).pset = s.pset := rfl

/-! setErrLast -/
@[simp] theorem setErrLast_var (s : State) (r : BitVec 256) : (setErrLast s r).var = s.var := rfl
@[simp] theorem setErrLast_freeCtr (s : State) (r : BitVec 256) : (setErrLast s r).freeCtr = s.freeCtr := rfl
@[simp] theorem setErrLast_pending (s : State) (r : BitVec 256) : (setErrLast s r).pending = s.pending := rfl
@[simp] theorem setErrLast_stall (s : State) (r : BitVec 256) : (setErrLast s r).stall = s.stall := rfl
@[simp] theorem setErrLast_banks (s : State) (r : BitVec 256) : (setErrLast s r).banks = s.banks := rfl
@[simp] theorem setErrLast_tiles (s : State) (r : BitVec 256) : (setErrLast s r).tiles = s.tiles := rfl
@[simp] theorem setErrLast_nib (s : State) (r : BitVec 256) : (setErrLast s r).nib = s.nib := rfl
@[simp] theorem setErrLast_ops (s : State) (r : BitVec 256) : (setErrLast s r).ops = s.ops := rfl
@[simp] theorem setErrLast_nextOp (s : State) (r : BitVec 256) : (setErrLast s r).nextOp = s.nextOp := rfl
@[simp] theorem setErrLast_bd (s : State) (r : BitVec 256) : (setErrLast s r).bd = s.bd := rfl
@[simp] theorem setErrLast_ink (s : State) (r : BitVec 256) : (setErrLast s r).ink = s.ink := rfl
@[simp] theorem setErrLast_inkBad (s : State) (r : BitVec 256) : (setErrLast s r).inkBad = s.inkBad := rfl
@[simp] theorem setErrLast_inkZeroing (s : State) (r : BitVec 256) : (setErrLast s r).inkZeroing = s.inkZeroing := rfl
@[simp] theorem setErrLast_sq (s : State) (r : BitVec 256) : (setErrLast s r).sq = s.sq := rfl
@[simp] theorem setErrLast_scribes (s : State) (r : BitVec 256) : (setErrLast s r).scribes = s.scribes := rfl
@[simp] theorem setErrLast_rings (s : State) (r : BitVec 256) : (setErrLast s r).rings = s.rings := rfl
@[simp] theorem setErrLast_lastRing (s : State) (r : BitVec 256) : (setErrLast s r).lastRing = s.lastRing := rfl
@[simp] theorem setErrLast_placed (s : State) (r : BitVec 256) : (setErrLast s r).placed = s.placed := rfl
@[simp] theorem setErrLast_vellum (s : State) (r : BitVec 256) : (setErrLast s r).vellum = s.vellum := rfl
@[simp] theorem setErrLast_vellumBad (s : State) (r : BitVec 256) : (setErrLast s r).vellumBad = s.vellumBad := rfl
@[simp] theorem setErrLast_vellumZeroing (s : State) (r : BitVec 256) : (setErrLast s r).vellumZeroing = s.vellumZeroing := rfl
@[simp] theorem setErrLast_mem (s : State) (r : BitVec 256) : (setErrLast s r).mem = s.mem := rfl
@[simp] theorem setErrLast_memBad (s : State) (r : BitVec 256) : (setErrLast s r).memBad = s.memBad := rfl
@[simp] theorem setErrLast_ca (s : State) (r : BitVec 256) : (setErrLast s r).ca = s.ca := rfl
@[simp] theorem setErrLast_tal (s : State) (r : BitVec 256) : (setErrLast s r).tal = s.tal := rfl
@[simp] theorem setErrLast_mir (s : State) (r : BitVec 256) : (setErrLast s r).mir = s.mir := rfl
@[simp] theorem setErrLast_err (s : State) (r : BitVec 256) : (setErrLast s r).err = s.err := rfl
@[simp] theorem setErrLast_qu (s : State) (r : BitVec 256) : (setErrLast s r).qu = s.qu := rfl
@[simp] theorem setErrLast_upd (s : State) (r : BitVec 256) : (setErrLast s r).upd = s.upd := rfl
@[simp] theorem setErrLast_port (s : State) (r : BitVec 256) : (setErrLast s r).port = s.port := rfl
@[simp] theorem setErrLast_tlbiRx (s : State) (r : BitVec 256) : (setErrLast s r).tlbiRx = s.tlbiRx := rfl
@[simp] theorem setErrLast_tlbiOut (s : State) (r : BitVec 256) : (setErrLast s r).tlbiOut = s.tlbiOut := rfl
@[simp] theorem setErrLast_win (s : State) (r : BitVec 256) : (setErrLast s r).win = s.win := rfl
@[simp] theorem setErrLast_dbg (s : State) (r : BitVec 256) : (setErrLast s r).dbg = s.dbg := rfl
@[simp] theorem setErrLast_test (s : State) (r : BitVec 256) : (setErrLast s r).test = s.test := rfl
@[simp] theorem setErrLast_cfg (s : State) (r : BitVec 256) : (setErrLast s r).cfg = s.cfg := rfl
@[simp] theorem setErrLast_dom (s : State) (r : BitVec 256) : (setErrLast s r).dom = s.dom := rfl
@[simp] theorem setErrLast_heldOff (s : State) (r : BitVec 256) : (setErrLast s r).heldOff = s.heldOff := rfl
@[simp] theorem setErrLast_heldRet (s : State) (r : BitVec 256) : (setErrLast s r).heldRet = s.heldRet := rfl
@[simp] theorem setErrLast_pset (s : State) (r : BitVec 256) : (setErrLast s r).pset = s.pset := rfl

/-- All that an injection that strikes an inkwell entry can change. -/
theorem inkStrike_only (s : State) (r e : Nat) :
    ∃ i b x k, inkStrike s r e = { s with ink := i, inkBad := b, err := x, c := k } := by
  unfold inkStrike
  dsimp only
  split
  · split
    · exact ⟨_, _, _, _, rfl⟩
    · exact ⟨_, _, _, _, rfl⟩
  · exact ⟨_, _, _, _, rfl⟩

/-- All that a write of an inkwell entry can change: the entries, their codes, the injection and its flips. -/
theorem inkWrite_only (s : State) (r e : Nat) (x : Ink) :
    ∃ i b y k, inkWrite s r e x = { s with ink := i, inkBad := b, err := y, c := k } := by
  unfold inkWrite
  dsimp only
  have h1 : ∀ t : State, ∃ y, (if t.err.spots.isEmpty = true then t else clearSpot t 9 (inkLoc r e)) = { t with err := y } := by
    intro t
    split
    · exact ⟨_, rfl⟩
    · exact ⟨_, rfl⟩
  have h2 : ∀ t : State, ∃ i b y k, (if bit t.c.errinj 12 = true then inkStrike t r e else t) = { t with ink := i, inkBad := b, err := y, c := k } := by
    intro t
    split
    · exact inkStrike_only t r e
    · exact ⟨_, _, _, _, rfl⟩
  obtain ⟨y, h⟩ := h1 { s with ink := spSet 0 s.ink (1024 * r + e) x, inkBad := s.inkBad.filter (· ≠ 1024 * r + e) }
  rw [h]
  obtain ⟨i, b, z, k, h⟩ := h2 { s with ink := spSet 0 s.ink (1024 * r + e) x, inkBad := s.inkBad.filter (· ≠ 1024 * r + e), err := y }
  exact ⟨i, b, z, k, h⟩

/-- All that an injection that strikes the vellum can change. -/
theorem injVellum_only (s : State) (o n : Nat) :
    ∃ v b x k, injVellum s o n = { s with vellum := v, vellumBad := b, err := x, c := k } := by
  unfold injVellum
  dsimp only
  split
  · split
    · exact ⟨_, _, _, _, rfl⟩
    · exact ⟨_, _, _, _, rfl⟩
  · exact ⟨_, _, _, _, rfl⟩

/-- All that a write of vellum bytes can change: the bytes, the codes of words, the injection and its flips. -/
theorem writeVellum_only (s : State) (o : Nat) (bs : List Byte) :
    ∃ v b x k, writeVellum s o bs = { s with vellum := v, vellumBad := b, err := x, c := k } := by
  obtain ⟨v, b, x, k, h⟩ := injVellum_only (freshVellum { s with
    vellum := spSetAll 0 s.vellum o bs
    vellumBad := s.vellumBad.filter fun w => !(o ≤ 8 * w && 8 * w + 8 ≤ o + bs.length) } o bs.length) o bs.length
  exact ⟨v, b, x, k, h⟩


@[simp] theorem inkWrite_var (s : State) (r e : Nat) (x : Ink) : (inkWrite s r e x).var = s.var := by
  obtain ⟨_, _, _, _, h⟩ := inkWrite_only s r e x
  rw [h]
@[simp] theorem inkWrite_freeCtr (s : State) (r e : Nat) (x : Ink) : (inkWrite s r e x).freeCtr = s.freeCtr := by
  obtain ⟨_, _, _, _, h⟩ := inkWrite_only s r e x
  rw [h]
@[simp] theorem inkWrite_pending (s : State) (r e : Nat) (x : Ink) : (inkWrite s r e x).pending = s.pending := by
  obtain ⟨_, _, _, _, h⟩ := inkWrite_only s r e x
  rw [h]
@[simp] theorem inkWrite_stall (s : State) (r e : Nat) (x : Ink) : (inkWrite s r e x).stall = s.stall := by
  obtain ⟨_, _, _, _, h⟩ := inkWrite_only s r e x
  rw [h]
@[simp] theorem inkWrite_banks (s : State) (r e : Nat) (x : Ink) : (inkWrite s r e x).banks = s.banks := by
  obtain ⟨_, _, _, _, h⟩ := inkWrite_only s r e x
  rw [h]
@[simp] theorem inkWrite_tiles (s : State) (r e : Nat) (x : Ink) : (inkWrite s r e x).tiles = s.tiles := by
  obtain ⟨_, _, _, _, h⟩ := inkWrite_only s r e x
  rw [h]
@[simp] theorem inkWrite_nib (s : State) (r e : Nat) (x : Ink) : (inkWrite s r e x).nib = s.nib := by
  obtain ⟨_, _, _, _, h⟩ := inkWrite_only s r e x
  rw [h]
@[simp] theorem inkWrite_ops (s : State) (r e : Nat) (x : Ink) : (inkWrite s r e x).ops = s.ops := by
  obtain ⟨_, _, _, _, h⟩ := inkWrite_only s r e x
  rw [h]
@[simp] theorem inkWrite_nextOp (s : State) (r e : Nat) (x : Ink) : (inkWrite s r e x).nextOp = s.nextOp := by
  obtain ⟨_, _, _, _, h⟩ := inkWrite_only s r e x
  rw [h]
@[simp] theorem inkWrite_bd (s : State) (r e : Nat) (x : Ink) : (inkWrite s r e x).bd = s.bd := by
  obtain ⟨_, _, _, _, h⟩ := inkWrite_only s r e x
  rw [h]
@[simp] theorem inkWrite_inkZeroing (s : State) (r e : Nat) (x : Ink) : (inkWrite s r e x).inkZeroing = s.inkZeroing := by
  obtain ⟨_, _, _, _, h⟩ := inkWrite_only s r e x
  rw [h]
@[simp] theorem inkWrite_sq (s : State) (r e : Nat) (x : Ink) : (inkWrite s r e x).sq = s.sq := by
  obtain ⟨_, _, _, _, h⟩ := inkWrite_only s r e x
  rw [h]
@[simp] theorem inkWrite_scribes (s : State) (r e : Nat) (x : Ink) : (inkWrite s r e x).scribes = s.scribes := by
  obtain ⟨_, _, _, _, h⟩ := inkWrite_only s r e x
  rw [h]
@[simp] theorem inkWrite_rings (s : State) (r e : Nat) (x : Ink) : (inkWrite s r e x).rings = s.rings := by
  obtain ⟨_, _, _, _, h⟩ := inkWrite_only s r e x
  rw [h]
@[simp] theorem inkWrite_lastRing (s : State) (r e : Nat) (x : Ink) : (inkWrite s r e x).lastRing = s.lastRing := by
  obtain ⟨_, _, _, _, h⟩ := inkWrite_only s r e x
  rw [h]
@[simp] theorem inkWrite_placed (s : State) (r e : Nat) (x : Ink) : (inkWrite s r e x).placed = s.placed := by
  obtain ⟨_, _, _, _, h⟩ := inkWrite_only s r e x
  rw [h]
@[simp] theorem inkWrite_vellum (s : State) (r e : Nat) (x : Ink) : (inkWrite s r e x).vellum = s.vellum := by
  obtain ⟨_, _, _, _, h⟩ := inkWrite_only s r e x
  rw [h]
@[simp] theorem inkWrite_vellumBad (s : State) (r e : Nat) (x : Ink) : (inkWrite s r e x).vellumBad = s.vellumBad := by
  obtain ⟨_, _, _, _, h⟩ := inkWrite_only s r e x
  rw [h]
@[simp] theorem inkWrite_vellumZeroing (s : State) (r e : Nat) (x : Ink) : (inkWrite s r e x).vellumZeroing = s.vellumZeroing := by
  obtain ⟨_, _, _, _, h⟩ := inkWrite_only s r e x
  rw [h]
@[simp] theorem inkWrite_mem (s : State) (r e : Nat) (x : Ink) : (inkWrite s r e x).mem = s.mem := by
  obtain ⟨_, _, _, _, h⟩ := inkWrite_only s r e x
  rw [h]
@[simp] theorem inkWrite_memBad (s : State) (r e : Nat) (x : Ink) : (inkWrite s r e x).memBad = s.memBad := by
  obtain ⟨_, _, _, _, h⟩ := inkWrite_only s r e x
  rw [h]
@[simp] theorem inkWrite_ca (s : State) (r e : Nat) (x : Ink) : (inkWrite s r e x).ca = s.ca := by
  obtain ⟨_, _, _, _, h⟩ := inkWrite_only s r e x
  rw [h]
@[simp] theorem inkWrite_tal (s : State) (r e : Nat) (x : Ink) : (inkWrite s r e x).tal = s.tal := by
  obtain ⟨_, _, _, _, h⟩ := inkWrite_only s r e x
  rw [h]
@[simp] theorem inkWrite_mir (s : State) (r e : Nat) (x : Ink) : (inkWrite s r e x).mir = s.mir := by
  obtain ⟨_, _, _, _, h⟩ := inkWrite_only s r e x
  rw [h]
@[simp] theorem inkWrite_qu (s : State) (r e : Nat) (x : Ink) : (inkWrite s r e x).qu = s.qu := by
  obtain ⟨_, _, _, _, h⟩ := inkWrite_only s r e x
  rw [h]
@[simp] theorem inkWrite_upd (s : State) (r e : Nat) (x : Ink) : (inkWrite s r e x).upd = s.upd := by
  obtain ⟨_, _, _, _, h⟩ := inkWrite_only s r e x
  rw [h]
@[simp] theorem inkWrite_port (s : State) (r e : Nat) (x : Ink) : (inkWrite s r e x).port = s.port := by
  obtain ⟨_, _, _, _, h⟩ := inkWrite_only s r e x
  rw [h]
@[simp] theorem inkWrite_tlbiRx (s : State) (r e : Nat) (x : Ink) : (inkWrite s r e x).tlbiRx = s.tlbiRx := by
  obtain ⟨_, _, _, _, h⟩ := inkWrite_only s r e x
  rw [h]
@[simp] theorem inkWrite_tlbiOut (s : State) (r e : Nat) (x : Ink) : (inkWrite s r e x).tlbiOut = s.tlbiOut := by
  obtain ⟨_, _, _, _, h⟩ := inkWrite_only s r e x
  rw [h]
@[simp] theorem inkWrite_win (s : State) (r e : Nat) (x : Ink) : (inkWrite s r e x).win = s.win := by
  obtain ⟨_, _, _, _, h⟩ := inkWrite_only s r e x
  rw [h]
@[simp] theorem inkWrite_dbg (s : State) (r e : Nat) (x : Ink) : (inkWrite s r e x).dbg = s.dbg := by
  obtain ⟨_, _, _, _, h⟩ := inkWrite_only s r e x
  rw [h]
@[simp] theorem inkWrite_test (s : State) (r e : Nat) (x : Ink) : (inkWrite s r e x).test = s.test := by
  obtain ⟨_, _, _, _, h⟩ := inkWrite_only s r e x
  rw [h]
@[simp] theorem inkWrite_cfg (s : State) (r e : Nat) (x : Ink) : (inkWrite s r e x).cfg = s.cfg := by
  obtain ⟨_, _, _, _, h⟩ := inkWrite_only s r e x
  rw [h]
@[simp] theorem inkWrite_dom (s : State) (r e : Nat) (x : Ink) : (inkWrite s r e x).dom = s.dom := by
  obtain ⟨_, _, _, _, h⟩ := inkWrite_only s r e x
  rw [h]
@[simp] theorem inkWrite_heldOff (s : State) (r e : Nat) (x : Ink) : (inkWrite s r e x).heldOff = s.heldOff := by
  obtain ⟨_, _, _, _, h⟩ := inkWrite_only s r e x
  rw [h]
@[simp] theorem inkWrite_heldRet (s : State) (r e : Nat) (x : Ink) : (inkWrite s r e x).heldRet = s.heldRet := by
  obtain ⟨_, _, _, _, h⟩ := inkWrite_only s r e x
  rw [h]
@[simp] theorem inkWrite_pset (s : State) (r e : Nat) (x : Ink) : (inkWrite s r e x).pset = s.pset := by
  obtain ⟨_, _, _, _, h⟩ := inkWrite_only s r e x
  rw [h]

@[simp] theorem writeVellum_var (s : State) (o : Nat) (bs : List Byte) : (writeVellum s o bs).var = s.var := by
  obtain ⟨_, _, _, _, h⟩ := writeVellum_only s o bs
  rw [h]
@[simp] theorem writeVellum_freeCtr (s : State) (o : Nat) (bs : List Byte) : (writeVellum s o bs).freeCtr = s.freeCtr := by
  obtain ⟨_, _, _, _, h⟩ := writeVellum_only s o bs
  rw [h]
@[simp] theorem writeVellum_pending (s : State) (o : Nat) (bs : List Byte) : (writeVellum s o bs).pending = s.pending := by
  obtain ⟨_, _, _, _, h⟩ := writeVellum_only s o bs
  rw [h]
@[simp] theorem writeVellum_stall (s : State) (o : Nat) (bs : List Byte) : (writeVellum s o bs).stall = s.stall := by
  obtain ⟨_, _, _, _, h⟩ := writeVellum_only s o bs
  rw [h]
@[simp] theorem writeVellum_banks (s : State) (o : Nat) (bs : List Byte) : (writeVellum s o bs).banks = s.banks := by
  obtain ⟨_, _, _, _, h⟩ := writeVellum_only s o bs
  rw [h]
@[simp] theorem writeVellum_tiles (s : State) (o : Nat) (bs : List Byte) : (writeVellum s o bs).tiles = s.tiles := by
  obtain ⟨_, _, _, _, h⟩ := writeVellum_only s o bs
  rw [h]
@[simp] theorem writeVellum_nib (s : State) (o : Nat) (bs : List Byte) : (writeVellum s o bs).nib = s.nib := by
  obtain ⟨_, _, _, _, h⟩ := writeVellum_only s o bs
  rw [h]
@[simp] theorem writeVellum_ops (s : State) (o : Nat) (bs : List Byte) : (writeVellum s o bs).ops = s.ops := by
  obtain ⟨_, _, _, _, h⟩ := writeVellum_only s o bs
  rw [h]
@[simp] theorem writeVellum_nextOp (s : State) (o : Nat) (bs : List Byte) : (writeVellum s o bs).nextOp = s.nextOp := by
  obtain ⟨_, _, _, _, h⟩ := writeVellum_only s o bs
  rw [h]
@[simp] theorem writeVellum_bd (s : State) (o : Nat) (bs : List Byte) : (writeVellum s o bs).bd = s.bd := by
  obtain ⟨_, _, _, _, h⟩ := writeVellum_only s o bs
  rw [h]
@[simp] theorem writeVellum_ink (s : State) (o : Nat) (bs : List Byte) : (writeVellum s o bs).ink = s.ink := by
  obtain ⟨_, _, _, _, h⟩ := writeVellum_only s o bs
  rw [h]
@[simp] theorem writeVellum_inkBad (s : State) (o : Nat) (bs : List Byte) : (writeVellum s o bs).inkBad = s.inkBad := by
  obtain ⟨_, _, _, _, h⟩ := writeVellum_only s o bs
  rw [h]
@[simp] theorem writeVellum_inkZeroing (s : State) (o : Nat) (bs : List Byte) : (writeVellum s o bs).inkZeroing = s.inkZeroing := by
  obtain ⟨_, _, _, _, h⟩ := writeVellum_only s o bs
  rw [h]
@[simp] theorem writeVellum_sq (s : State) (o : Nat) (bs : List Byte) : (writeVellum s o bs).sq = s.sq := by
  obtain ⟨_, _, _, _, h⟩ := writeVellum_only s o bs
  rw [h]
@[simp] theorem writeVellum_scribes (s : State) (o : Nat) (bs : List Byte) : (writeVellum s o bs).scribes = s.scribes := by
  obtain ⟨_, _, _, _, h⟩ := writeVellum_only s o bs
  rw [h]
@[simp] theorem writeVellum_rings (s : State) (o : Nat) (bs : List Byte) : (writeVellum s o bs).rings = s.rings := by
  obtain ⟨_, _, _, _, h⟩ := writeVellum_only s o bs
  rw [h]
@[simp] theorem writeVellum_lastRing (s : State) (o : Nat) (bs : List Byte) : (writeVellum s o bs).lastRing = s.lastRing := by
  obtain ⟨_, _, _, _, h⟩ := writeVellum_only s o bs
  rw [h]
@[simp] theorem writeVellum_placed (s : State) (o : Nat) (bs : List Byte) : (writeVellum s o bs).placed = s.placed := by
  obtain ⟨_, _, _, _, h⟩ := writeVellum_only s o bs
  rw [h]
@[simp] theorem writeVellum_vellumZeroing (s : State) (o : Nat) (bs : List Byte) : (writeVellum s o bs).vellumZeroing = s.vellumZeroing := by
  obtain ⟨_, _, _, _, h⟩ := writeVellum_only s o bs
  rw [h]
@[simp] theorem writeVellum_mem (s : State) (o : Nat) (bs : List Byte) : (writeVellum s o bs).mem = s.mem := by
  obtain ⟨_, _, _, _, h⟩ := writeVellum_only s o bs
  rw [h]
@[simp] theorem writeVellum_memBad (s : State) (o : Nat) (bs : List Byte) : (writeVellum s o bs).memBad = s.memBad := by
  obtain ⟨_, _, _, _, h⟩ := writeVellum_only s o bs
  rw [h]
@[simp] theorem writeVellum_ca (s : State) (o : Nat) (bs : List Byte) : (writeVellum s o bs).ca = s.ca := by
  obtain ⟨_, _, _, _, h⟩ := writeVellum_only s o bs
  rw [h]
@[simp] theorem writeVellum_tal (s : State) (o : Nat) (bs : List Byte) : (writeVellum s o bs).tal = s.tal := by
  obtain ⟨_, _, _, _, h⟩ := writeVellum_only s o bs
  rw [h]
@[simp] theorem writeVellum_mir (s : State) (o : Nat) (bs : List Byte) : (writeVellum s o bs).mir = s.mir := by
  obtain ⟨_, _, _, _, h⟩ := writeVellum_only s o bs
  rw [h]
@[simp] theorem writeVellum_qu (s : State) (o : Nat) (bs : List Byte) : (writeVellum s o bs).qu = s.qu := by
  obtain ⟨_, _, _, _, h⟩ := writeVellum_only s o bs
  rw [h]
@[simp] theorem writeVellum_upd (s : State) (o : Nat) (bs : List Byte) : (writeVellum s o bs).upd = s.upd := by
  obtain ⟨_, _, _, _, h⟩ := writeVellum_only s o bs
  rw [h]
@[simp] theorem writeVellum_port (s : State) (o : Nat) (bs : List Byte) : (writeVellum s o bs).port = s.port := by
  obtain ⟨_, _, _, _, h⟩ := writeVellum_only s o bs
  rw [h]
@[simp] theorem writeVellum_tlbiRx (s : State) (o : Nat) (bs : List Byte) : (writeVellum s o bs).tlbiRx = s.tlbiRx := by
  obtain ⟨_, _, _, _, h⟩ := writeVellum_only s o bs
  rw [h]
@[simp] theorem writeVellum_tlbiOut (s : State) (o : Nat) (bs : List Byte) : (writeVellum s o bs).tlbiOut = s.tlbiOut := by
  obtain ⟨_, _, _, _, h⟩ := writeVellum_only s o bs
  rw [h]
@[simp] theorem writeVellum_win (s : State) (o : Nat) (bs : List Byte) : (writeVellum s o bs).win = s.win := by
  obtain ⟨_, _, _, _, h⟩ := writeVellum_only s o bs
  rw [h]
@[simp] theorem writeVellum_dbg (s : State) (o : Nat) (bs : List Byte) : (writeVellum s o bs).dbg = s.dbg := by
  obtain ⟨_, _, _, _, h⟩ := writeVellum_only s o bs
  rw [h]
@[simp] theorem writeVellum_test (s : State) (o : Nat) (bs : List Byte) : (writeVellum s o bs).test = s.test := by
  obtain ⟨_, _, _, _, h⟩ := writeVellum_only s o bs
  rw [h]
@[simp] theorem writeVellum_cfg (s : State) (o : Nat) (bs : List Byte) : (writeVellum s o bs).cfg = s.cfg := by
  obtain ⟨_, _, _, _, h⟩ := writeVellum_only s o bs
  rw [h]
@[simp] theorem writeVellum_dom (s : State) (o : Nat) (bs : List Byte) : (writeVellum s o bs).dom = s.dom := by
  obtain ⟨_, _, _, _, h⟩ := writeVellum_only s o bs
  rw [h]
@[simp] theorem writeVellum_heldOff (s : State) (o : Nat) (bs : List Byte) : (writeVellum s o bs).heldOff = s.heldOff := by
  obtain ⟨_, _, _, _, h⟩ := writeVellum_only s o bs
  rw [h]
@[simp] theorem writeVellum_heldRet (s : State) (o : Nat) (bs : List Byte) : (writeVellum s o bs).heldRet = s.heldRet := by
  obtain ⟨_, _, _, _, h⟩ := writeVellum_only s o bs
  rw [h]
@[simp] theorem writeVellum_pset (s : State) (o : Nat) (bs : List Byte) : (writeVellum s o bs).pset = s.pset := by
  obtain ⟨_, _, _, _, h⟩ := writeVellum_only s o bs
  rw [h]

/-! wg -/
@[simp] theorem wg_pc (b : Bank) (r : GReg) (x : W64) : (wg b r x).pc = b.pc := rfl
@[simp] theorem wg_fl (b : Bank) (r : GReg) (x : W64) : (wg b r x).fl = b.fl := rfl
@[simp] theorem wg_vl (b : Bank) (r : GReg) (x : W64) : (wg b r x).vl = b.vl := rfl
@[simp] theorem wg_vfst (b : Bank) (r : GReg) (x : W64) : (wg b r x).vfst = b.vfst := rfl
@[simp] theorem wg_ssp (b : Bank) (r : GReg) (x : W64) : (wg b r x).ssp = b.ssp := rfl
@[simp] theorem wg_sysrpc (b : Bank) (r : GReg) (x : W64) : (wg b r x).sysrpc = b.sysrpc := rfl
@[simp] theorem wg_sysrfl (b : Bank) (r : GReg) (x : W64) : (wg b r x).sysrfl = b.sysrfl := rfl
@[simp] theorem wg_ttb (b : Bank) (r : GReg) (x : W64) : (wg b r x).ttb = b.ttb := rfl
@[simp] theorem wg_ibase (b : Bank) (r : GReg) (x : W64) : (wg b r x).ibase = b.ibase := rfl
@[simp] theorem wg_bmode (b : Bank) (r : GReg) (x : W64) : (wg b r x).bmode = b.bmode := rfl
@[simp] theorem wg_srseed (b : Bank) (r : GReg) (x : W64) : (wg b r x).srseed = b.srseed := rfl
@[simp] theorem wg_v (b : Bank) (r : GReg) (x : W64) : (wg b r x).v = b.v := rfl
@[simp] theorem wg_m (b : Bank) (r : GReg) (x : W64) : (wg b r x).m = b.m := rfl
@[simp] theorem wg_st (b : Bank) (r : GReg) (x : W64) : (wg b r x).st = b.st := rfl
@[simp] theorem wg_sev (b : Bank) (r : GReg) (x : W64) : (wg b r x).sev = b.sev := rfl
@[simp] theorem wg_bev (b : Bank) (r : GReg) (x : W64) : (wg b r x).bev = b.bev := rfl
@[simp] theorem wg_mev (b : Bank) (r : GReg) (x : W64) : (wg b r x).mev = b.mev := rfl
@[simp] theorem wg_tnr (b : Bank) (r : GReg) (x : W64) : (wg b r x).tnr = b.tnr := rfl
@[simp] theorem wg_tnrTiles (b : Bank) (r : GReg) (x : W64) : (wg b r x).tnrTiles = b.tnrTiles := rfl
@[simp] theorem wg_tnrCfg (b : Bank) (r : GReg) (x : W64) : (wg b r x).tnrCfg = b.tnrCfg := rfl

/-! wv -/
@[simp] theorem wv_g (b : Bank) (r : VReg) (x : VWord) : (wv b r x).g = b.g := rfl
@[simp] theorem wv_pc (b : Bank) (r : VReg) (x : VWord) : (wv b r x).pc = b.pc := rfl
@[simp] theorem wv_fl (b : Bank) (r : VReg) (x : VWord) : (wv b r x).fl = b.fl := rfl
@[simp] theorem wv_vl (b : Bank) (r : VReg) (x : VWord) : (wv b r x).vl = b.vl := rfl
@[simp] theorem wv_vfst (b : Bank) (r : VReg) (x : VWord) : (wv b r x).vfst = b.vfst := rfl
@[simp] theorem wv_ssp (b : Bank) (r : VReg) (x : VWord) : (wv b r x).ssp = b.ssp := rfl
@[simp] theorem wv_sysrpc (b : Bank) (r : VReg) (x : VWord) : (wv b r x).sysrpc = b.sysrpc := rfl
@[simp] theorem wv_sysrfl (b : Bank) (r : VReg) (x : VWord) : (wv b r x).sysrfl = b.sysrfl := rfl
@[simp] theorem wv_ttb (b : Bank) (r : VReg) (x : VWord) : (wv b r x).ttb = b.ttb := rfl
@[simp] theorem wv_ibase (b : Bank) (r : VReg) (x : VWord) : (wv b r x).ibase = b.ibase := rfl
@[simp] theorem wv_bmode (b : Bank) (r : VReg) (x : VWord) : (wv b r x).bmode = b.bmode := rfl
@[simp] theorem wv_srseed (b : Bank) (r : VReg) (x : VWord) : (wv b r x).srseed = b.srseed := rfl
@[simp] theorem wv_m (b : Bank) (r : VReg) (x : VWord) : (wv b r x).m = b.m := rfl
@[simp] theorem wv_st (b : Bank) (r : VReg) (x : VWord) : (wv b r x).st = b.st := rfl
@[simp] theorem wv_sev (b : Bank) (r : VReg) (x : VWord) : (wv b r x).sev = b.sev := rfl
@[simp] theorem wv_bev (b : Bank) (r : VReg) (x : VWord) : (wv b r x).bev = b.bev := rfl
@[simp] theorem wv_mev (b : Bank) (r : VReg) (x : VWord) : (wv b r x).mev = b.mev := rfl
@[simp] theorem wv_tnr (b : Bank) (r : VReg) (x : VWord) : (wv b r x).tnr = b.tnr := rfl
@[simp] theorem wv_tnrTiles (b : Bank) (r : VReg) (x : VWord) : (wv b r x).tnrTiles = b.tnrTiles := rfl
@[simp] theorem wv_tnrCfg (b : Bank) (r : VReg) (x : VWord) : (wv b r x).tnrCfg = b.tnrCfg := rfl

/-! wm -/
@[simp] theorem wm_g (b : Bank) (r : MReg) (x : MWord) : (wm b r x).g = b.g := rfl
@[simp] theorem wm_pc (b : Bank) (r : MReg) (x : MWord) : (wm b r x).pc = b.pc := rfl
@[simp] theorem wm_fl (b : Bank) (r : MReg) (x : MWord) : (wm b r x).fl = b.fl := rfl
@[simp] theorem wm_vl (b : Bank) (r : MReg) (x : MWord) : (wm b r x).vl = b.vl := rfl
@[simp] theorem wm_vfst (b : Bank) (r : MReg) (x : MWord) : (wm b r x).vfst = b.vfst := rfl
@[simp] theorem wm_ssp (b : Bank) (r : MReg) (x : MWord) : (wm b r x).ssp = b.ssp := rfl
@[simp] theorem wm_sysrpc (b : Bank) (r : MReg) (x : MWord) : (wm b r x).sysrpc = b.sysrpc := rfl
@[simp] theorem wm_sysrfl (b : Bank) (r : MReg) (x : MWord) : (wm b r x).sysrfl = b.sysrfl := rfl
@[simp] theorem wm_ttb (b : Bank) (r : MReg) (x : MWord) : (wm b r x).ttb = b.ttb := rfl
@[simp] theorem wm_ibase (b : Bank) (r : MReg) (x : MWord) : (wm b r x).ibase = b.ibase := rfl
@[simp] theorem wm_bmode (b : Bank) (r : MReg) (x : MWord) : (wm b r x).bmode = b.bmode := rfl
@[simp] theorem wm_srseed (b : Bank) (r : MReg) (x : MWord) : (wm b r x).srseed = b.srseed := rfl
@[simp] theorem wm_v (b : Bank) (r : MReg) (x : MWord) : (wm b r x).v = b.v := rfl
@[simp] theorem wm_st (b : Bank) (r : MReg) (x : MWord) : (wm b r x).st = b.st := rfl
@[simp] theorem wm_sev (b : Bank) (r : MReg) (x : MWord) : (wm b r x).sev = b.sev := rfl
@[simp] theorem wm_bev (b : Bank) (r : MReg) (x : MWord) : (wm b r x).bev = b.bev := rfl
@[simp] theorem wm_mev (b : Bank) (r : MReg) (x : MWord) : (wm b r x).mev = b.mev := rfl
@[simp] theorem wm_tnr (b : Bank) (r : MReg) (x : MWord) : (wm b r x).tnr = b.tnr := rfl
@[simp] theorem wm_longs (b : Bank) (r : MReg) (x : MWord) : (wm b r x).longs = b.longs := rfl
@[simp] theorem wm_tnrTiles (b : Bank) (r : MReg) (x : MWord) : (wm b r x).tnrTiles = b.tnrTiles := rfl
@[simp] theorem wm_tnrCfg (b : Bank) (r : MReg) (x : MWord) : (wm b r x).tnrCfg = b.tnrCfg := rfl

/-! wfl -/
@[simp] theorem wfl_g (b : Bank) (x : W64) : (wfl b x).g = b.g := rfl
@[simp] theorem wfl_pc (b : Bank) (x : W64) : (wfl b x).pc = b.pc := rfl
@[simp] theorem wfl_vl (b : Bank) (x : W64) : (wfl b x).vl = b.vl := rfl
@[simp] theorem wfl_vfst (b : Bank) (x : W64) : (wfl b x).vfst = b.vfst := rfl
@[simp] theorem wfl_ssp (b : Bank) (x : W64) : (wfl b x).ssp = b.ssp := rfl
@[simp] theorem wfl_sysrpc (b : Bank) (x : W64) : (wfl b x).sysrpc = b.sysrpc := rfl
@[simp] theorem wfl_sysrfl (b : Bank) (x : W64) : (wfl b x).sysrfl = b.sysrfl := rfl
@[simp] theorem wfl_ttb (b : Bank) (x : W64) : (wfl b x).ttb = b.ttb := rfl
@[simp] theorem wfl_ibase (b : Bank) (x : W64) : (wfl b x).ibase = b.ibase := rfl
@[simp] theorem wfl_bmode (b : Bank) (x : W64) : (wfl b x).bmode = b.bmode := rfl
@[simp] theorem wfl_srseed (b : Bank) (x : W64) : (wfl b x).srseed = b.srseed := rfl
@[simp] theorem wfl_v (b : Bank) (x : W64) : (wfl b x).v = b.v := rfl
@[simp] theorem wfl_m (b : Bank) (x : W64) : (wfl b x).m = b.m := rfl
@[simp] theorem wfl_st (b : Bank) (x : W64) : (wfl b x).st = b.st := rfl
@[simp] theorem wfl_sev (b : Bank) (x : W64) : (wfl b x).sev = b.sev := rfl
@[simp] theorem wfl_bev (b : Bank) (x : W64) : (wfl b x).bev = b.bev := rfl
@[simp] theorem wfl_mev (b : Bank) (x : W64) : (wfl b x).mev = b.mev := rfl
@[simp] theorem wfl_tnr (b : Bank) (x : W64) : (wfl b x).tnr = b.tnr := rfl
@[simp] theorem wfl_longs (b : Bank) (x : W64) : (wfl b x).longs = b.longs := rfl
@[simp] theorem wfl_tnrTiles (b : Bank) (x : W64) : (wfl b x).tnrTiles = b.tnrTiles := rfl
@[simp] theorem wfl_tnrCfg (b : Bank) (x : W64) : (wfl b x).tnrCfg = b.tnrCfg := rfl

/-! touchCtl -/
@[simp] theorem touchCtl_g (b : Bank) : (touchCtl b).g = b.g := rfl
@[simp] theorem touchCtl_pc (b : Bank) : (touchCtl b).pc = b.pc := rfl
@[simp] theorem touchCtl_fl (b : Bank) : (touchCtl b).fl = b.fl := rfl
@[simp] theorem touchCtl_vl (b : Bank) : (touchCtl b).vl = b.vl := rfl
@[simp] theorem touchCtl_vfst (b : Bank) : (touchCtl b).vfst = b.vfst := rfl
@[simp] theorem touchCtl_ssp (b : Bank) : (touchCtl b).ssp = b.ssp := rfl
@[simp] theorem touchCtl_sysrpc (b : Bank) : (touchCtl b).sysrpc = b.sysrpc := rfl
@[simp] theorem touchCtl_sysrfl (b : Bank) : (touchCtl b).sysrfl = b.sysrfl := rfl
@[simp] theorem touchCtl_ttb (b : Bank) : (touchCtl b).ttb = b.ttb := rfl
@[simp] theorem touchCtl_ibase (b : Bank) : (touchCtl b).ibase = b.ibase := rfl
@[simp] theorem touchCtl_bmode (b : Bank) : (touchCtl b).bmode = b.bmode := rfl
@[simp] theorem touchCtl_srseed (b : Bank) : (touchCtl b).srseed = b.srseed := rfl
@[simp] theorem touchCtl_v (b : Bank) : (touchCtl b).v = b.v := rfl
@[simp] theorem touchCtl_m (b : Bank) : (touchCtl b).m = b.m := rfl
@[simp] theorem touchCtl_st (b : Bank) : (touchCtl b).st = b.st := rfl
@[simp] theorem touchCtl_sev (b : Bank) : (touchCtl b).sev = b.sev := rfl
@[simp] theorem touchCtl_bev (b : Bank) : (touchCtl b).bev = b.bev := rfl
@[simp] theorem touchCtl_mev (b : Bank) : (touchCtl b).mev = b.mev := rfl
@[simp] theorem touchCtl_tnr (b : Bank) : (touchCtl b).tnr = b.tnr := rfl
@[simp] theorem touchCtl_longs (b : Bank) : (touchCtl b).longs = b.longs := rfl
@[simp] theorem touchCtl_tnrTiles (b : Bank) : (touchCtl b).tnrTiles = b.tnrTiles := rfl
@[simp] theorem touchCtl_tnrCfg (b : Bank) : (touchCtl b).tnrCfg = b.tnrCfg := rfl

/-! What the updates write -/
@[simp] theorem setCur_banks (s : State) (b : Bank) : (setCur s b).banks = s.banks.set s.c.cur.val b s.c.cur.isLt := rfl
@[simp] theorem setBank_banks (s : State) (k : BankNum) (b : Bank) : (setBank s k b).banks = s.banks.set k.val b k.isLt := rfl
@[simp] theorem retire_stall (s : State) : (retire s).stall = none := rfl
@[simp] theorem retire_cur (s : State) : (retire s).c.cur = s.c.cur := rfl
@[simp] theorem requestWarm_wrst (s : State) : (requestWarm s).win.wrst = true := rfl
@[simp] theorem setTile_tiles (s : State) (t : TReg) (x : Tile) : (setTile s t x).tiles = s.tiles.set t.val x t.isLt := rfl
@[simp] theorem setDom_dom (s : State) (d : Fin 32) (x : Dom) : (setDom s d x).dom = s.dom.set d.val x d.isLt := rfl
@[simp] theorem setPort_port (s : State) (p : PortNum) (x : Port) : (setPort s p x).port = s.port.set p.val x p.isLt := rfl
@[simp] theorem wg_g (b : Bank) (r : GReg) (x : W64) : (wg b r x).g = b.g.set r.val x r.isLt := rfl
@[simp] theorem wv_v (b : Bank) (r : VReg) (x : VWord) : (wv b r x).v = b.v.set r.val x r.isLt := rfl
@[simp] theorem wm_m (b : Bank) (r : MReg) (x : MWord) : (wm b r x).m = b.m.set r.val x r.isLt := rfl
@[simp] theorem wfl_fl (b : Bank) (x : W64) : (wfl b x).fl = x := rfl

/-- The executing bank after it is replaced. -/
@[simp] theorem curBank_setCur (s : State) (b : Bank) : curBank (setCur s b) = b := by
  simp [curBank, setCur]

/-- Replacing the executing bank leaves the others. -/
theorem setCur_other (s : State) (b : Bank) (k : BankNum) (h : k ≠ s.c.cur) : (setCur s b).banks[k] = s.banks[k] := by
  have h' : s.c.cur.val ≠ k.val := fun e => h (Fin.ext e.symm)
  simp [setCur, h']

/-- The executing bank does not change as an instruction retires. -/
@[simp] theorem curBank_retire (s : State) : curBank (retire s) = curBank s := rfl

/-- A general register reads as it was written. -/
@[simp] theorem rg_wg_same (b : Bank) (r : GReg) (x : W64) : rg (wg b r x) r = x := by
  simp [rg, wg]

/-- A write of another general register. -/
theorem rg_wg_other (b : Bank) (r k : GReg) (x : W64) (h : k ≠ r) : rg (wg b r x) k = rg b k := by
  have h' : r.val ≠ k.val := fun e => h (Fin.ext e.symm)
  simp [rg, wg, h']

end Sys2Proof.Machine
end

