-- ==== Sys2Proof/Laws/Ops.lean ====
section
/-! SUPPORT. What the shared frames answer: the step, events, the frame of an instruction, and its results; and what the operations on lines, the posting of a record and the reading of a vector entry may change. -/
namespace Sys2Proof.Machine

/-- A step with a command at the front of the queue. -/
theorem step_cons {s : State} {c : Instr} {cs : List Instr} (h : s.pending = c :: cs) : step s = exec c { s with pending := cs } := by
  unfold step
  rw [h]

/-- A step on an empty queue. -/
theorem step_nil {s : State} (h : s.pending = []) : step s = .next (idleTick s) := by
  unfold step
  rw [h]

/-- An event in a live machine answers the state that it makes, or the state as it was. -/
@[simp] theorem event_live {s : State} (h : Live s) (r : Option State) : event s r = .next (r.getD s) := by
  simp [event, h.1, h.2]

/-- A change of a pin in a live machine. -/
@[simp] theorem pinEvent_live {s : State} (h : Live s) (low : State) (r : Option State) : pinEvent s low r = .next (r.getD s) := by
  simp [pinEvent, h.1, h.2]

/-- Whatever an event answers: never a refusal, a fault only with the functional state undefined, and a state that its row makes. -/
theorem event_cases {s t : State} {r : Option State} (h : event s r = .next t) : t = s ∨ r = some t := by
  unfold event at h
  split at h
  · cases h
  · split at h
    · cases h; exact .inl rfl
    · cases r with
      | none => cases h; exact .inl rfl
      | some x => cases h; exact .inr rfl

/-- Whatever a change of a pin answers. -/
theorem pinEvent_cases {s low t : State} {r : Option State} (h : pinEvent s low r = .next t) : t = s ∨ t = low ∨ r = some t := by
  unfold pinEvent at h
  split at h
  · cases h
  · split at h
    · cases h; exact .inr (.inl rfl)
    · cases r with
      | none => cases h; exact .inl rfl
      | some x => cases h; exact .inr (.inr rfl)

/-- An instruction that is ready comes to the result of its body. -/
theorem issue_ready {c : Instr} {s : State} (body : Body) (h : Ready c s) :
    issue c body s = .next (settle c (curBank s) (body .core (curBank s) s)) := by
  obtain ⟨⟨h1, h2⟩, h3, h4, h5, h6, h7⟩ := h
  simp [issue, h1, h2, h3, h4, h5, h6, h7]

/-- The results of a body. -/
@[simp] theorem settle_ok (c : Instr) (b b' : Bank) (s : State) :
    settle c b (.ok b' s) = after s { b' with pc := b.pc + BitVec.ofNat 64 (instrBytes c) } := rfl
@[simp] theorem settle_jump (c : Instr) (b b' : Bank) (s : State) : settle c b (.jump b' s) = after s b' := rfl
@[simp] theorem settle_done (c : Instr) (b : Bank) (s : State) : settle c b (.done s) = retire s := rfl
@[simp] theorem settle_wait (c : Instr) (b : Bank) (s : State) : settle c b (.wait s) = { s with stall := some c } := rfl
@[simp] theorem settle_trap (c : Instr) (b : Bank) (s : State) : settle c b (.trap s) = s := rfl

/-- An exception of an instruction is raised with the progress made. -/
theorem settle_exc {c : Instr} {b b' : Bank} {s : State} {e : Exc} (h : e.code ≠ waitCode) : settle c b (.exc e b' s) = raise e (setCur s b') := by
  simp [settle, h]

/-- What a state differs in from another: the caches, the memory behind the fabric, and what posting a record and an injected flip touch, at
most. -/
def sideOnly (s t : State) : Prop :=
  ∃ ca mem bad err c dom, t = { s with ca := ca, mem := mem, memBad := bad, err := err, c := c, dom := dom }

/-- Nothing differs. -/
theorem sideOnly_refl (s : State) : sideOnly s s := ⟨_, _, _, _, _, _, rfl⟩

/-- One after another. -/
theorem sideOnly_trans {s t u : State} (h1 : sideOnly s t) (h2 : sideOnly t u) : sideOnly s u := by
  obtain ⟨_, _, _, _, _, _, rfl⟩ := h1
  obtain ⟨_, _, _, _, _, _, rfl⟩ := h2
  exact ⟨_, _, _, _, _, _, rfl⟩

/-- Whichever of two states it is. -/
theorem sideOnly_ite {s t u : State} {p : Prop} [Decidable p] (h1 : sideOnly s t) (h2 : sideOnly s u) : sideOnly s (if p then t else u) := by
  split
  · exact h1
  · exact h2

/-- A fold whose every step differs so. -/
theorem sideOnly_foldl {α : Type} (f : State → α → State) (hf : ∀ s a, sideOnly s (f s a)) : ∀ (l : List α) (s : State), sideOnly s (l.foldl f s)
  | [], s => sideOnly_refl s
  | a :: l, s => sideOnly_trans (hf s a) (sideOnly_foldl f hf l (f s a))

/-- What posting a record can change: the error system, the control registers and the domains at most. -/
def recordsOnly (s t : State) : Prop := ∃ err c dom, t = { s with err := err, c := c, dom := dom }

/-- It is no more than the caches and memory may change besides. -/
theorem recordsOnly.side {s t : State} (h : recordsOnly s t) : sideOnly s t := by
  obtain ⟨_, _, _, rfl⟩ := h
  exact ⟨_, _, _, _, _, _, rfl⟩

/-- Nothing differs. -/
theorem recordsOnly_refl (s : State) : recordsOnly s s := ⟨_, _, _, rfl⟩

/-- One after another. -/
theorem recordsOnly_trans {s t u : State} (h1 : recordsOnly s t) (h2 : recordsOnly t u) : recordsOnly s u := by
  obtain ⟨_, _, _, rfl⟩ := h1
  obtain ⟨_, _, _, rfl⟩ := h2
  exact ⟨_, _, _, rfl⟩

/-- Whichever of two states it is. -/
theorem recordsOnly_ite {s t u : State} {p : Prop} [Decidable p] (h1 : recordsOnly s t) (h2 : recordsOnly s u) :
    recordsOnly s (if p then t else u) := by
  split
  · exact h1
  · exact h2

/-- Putting a record into ERRLAST. -/
theorem setErrLast_only (s : State) (r : BitVec 256) : recordsOnly s (setErrLast s r) := ⟨_, _, _, rfl⟩

/-- A wake request changes the domains alone. -/
theorem wakeRequest_only (s : State) (d : Fin 32) : recordsOnly s (wakeRequest s d) := by
  unfold wakeRequest setDom
  dsimp only
  split
  · split
    · exact ⟨_, _, _, rfl⟩
    · exact ⟨_, _, _, rfl⟩
  · exact recordsOnly_refl s

/-- Making a vector pending. -/
theorem pend_only (s : State) (v : Byte) : recordsOnly s (pend s v) :=
  recordsOnly_trans ⟨_, _, _, rfl⟩ (wakeRequest_only _ _)

/-- Noting a machine check. -/
theorem noteCheck_only (s : State) (unit : Byte) (sev : Nat) (loc : W64) : recordsOnly s (noteCheck s unit sev loc) := by
  unfold noteCheck
  split
  · exact recordsOnly_refl s
  · split
    · exact ⟨_, _, _, rfl⟩
    · split
      · exact ⟨_, _, _, rfl⟩
      · exact recordsOnly_refl s

/-- Driving the line and the vector of a record. -/
theorem driveLine_only (s : State) (sev : Nat) : recordsOnly s (driveLine s sev) := by
  unfold driveLine
  dsimp only
  exact recordsOnly_trans ⟨_, _, _, rfl⟩ (pend_only _ _)

/-- All that posting a record can change. -/
theorem postRecord_only (s : State) (cls unit : Byte) (sev : BitVec 2) (loc : W64) (synd : BitVec 24) (inj : Bool) (extra : BitVec 16) :
    recordsOnly s (postRecord s cls unit sev loc synd inj extra) := by
  unfold postRecord
  dsimp only
  split
  · exact recordsOnly_trans (recordsOnly_trans ⟨_, _, _, rfl⟩ (noteCheck_only _ _ _ _)) (driveLine_only _ _)
  · refine recordsOnly_trans (recordsOnly_trans (recordsOnly_trans ?_ (setErrLast_only _ _)) (noteCheck_only _ _ _ _)) (driveLine_only _ _)
    exact recordsOnly_ite ⟨_, _, _, rfl⟩ ⟨_, _, _, rfl⟩

/-- A line handed to memory. -/
theorem putMemLine_only (s : State) (la : BitVec 50) (p : Bool) (d : LineWord) : sideOnly s (putMemLine s la p d) := by
  unfold putMemLine writeMem
  dsimp only
  split
  · exact ⟨_, _, _, _, _, _, rfl⟩
  · exact ⟨_, _, _, _, _, _, rfl⟩

/-- Dropping the inner copies of a line. -/
theorem dropInner_only (s : State) (la : BitVec 50) : sideOnly s (dropInner s la) := ⟨_, _, _, _, _, _, rfl⟩

/-- A line stored in L2. -/
theorem setL2Line_only (s : State) (k : Nat) (l : L2Line) (dws : List Nat) : sideOnly s (setL2Line s k l dws) := by
  unfold setL2Line
  dsimp only
  have h1 : ∀ t : State, sideOnly t (if t.err.spots.isEmpty = true then t else dws.foldl (fun s d => clearSpot s 0x04 (l2Loc k d)) t) := by
    intro t
    split
    · exact sideOnly_refl t
    · exact sideOnly_foldl _ (fun s d => ⟨_, _, _, _, _, _, rfl⟩) _ _
  have h2 := sideOnly_trans ⟨_, _, _, _, _, _, rfl⟩ (h1 { s with ca := { s.ca with l2 := spSet none s.ca.l2 k (some l) } })
  generalize (if ({ s with ca := { s.ca with l2 := spSet none s.ca.l2 k (some l) } } : State).err.spots.isEmpty = true
    then ({ s with ca := { s.ca with l2 := spSet none s.ca.l2 k (some l) } } : State)
    else dws.foldl (fun s d => clearSpot s 0x04 (l2Loc k d)) { s with ca := { s.ca with l2 := spSet none s.ca.l2 k (some l) } }) = x at h2 ⊢
  refine sideOnly_trans h2 ?_
  split
  · exact sideOnly_refl x
  · split
    · exact ⟨_, _, _, _, _, _, rfl⟩
    · exact ⟨_, _, _, _, _, _, rfl⟩

/-- Removing a line's L1D copy. -/
theorem flushL1d_only (s : State) (la : BitVec 50) : sideOnly s (flushL1d s la) := by
  unfold flushL1d
  split
  · exact sideOnly_refl s
  · dsimp only
    split
    · split
      · exact sideOnly_trans ⟨_, _, _, _, _, _, rfl⟩ (setL2Line_only _ _ _ _)
      · exact sideOnly_trans ⟨_, _, _, _, _, _, rfl⟩ (putMemLine_only _ _ _ _)
    · exact ⟨_, _, _, _, _, _, rfl⟩

/-- Evicting a line. -/
theorem evictL2_only (s : State) (la : BitVec 50) : sideOnly s (evictL2 s la) := by
  have h1 := sideOnly_trans (flushL1d_only s la) (dropInner_only _ la)
  unfold evictL2
  dsimp only
  generalize dropInner (flushL1d s la) la = x at h1 ⊢
  split
  · exact h1
  · refine sideOnly_trans h1 ?_
    split
    · exact sideOnly_trans ⟨_, _, _, _, _, _, rfl⟩ (putMemLine_only _ _ _ _)
    · exact ⟨_, _, _, _, _, _, rfl⟩

/-- A line leaves the write-back buffer. -/
theorem unbuffer_only (s : State) (la : BitVec 50) : sideOnly s (unbuffer s la) := ⟨_, _, _, _, _, _, rfl⟩

/-- Bringing a line into L2. -/
theorem bringL2_only (s : State) (la : BitVec 50) (own : Bool) : sideOnly s (bringL2 s la own) := by
  unfold bringL2 touchL2
  split
  · exact ⟨_, _, _, _, _, _, rfl⟩
  · split
    · dsimp only
      split
      · rename_i old _
        exact sideOnly_trans (sideOnly_trans (sideOnly_trans (evictL2_only s old.la) (unbuffer_only _ la)) (setL2Line_only _ _ _ _)) ⟨_, _, _, _, _, _, rfl⟩
      · exact sideOnly_trans (sideOnly_trans (unbuffer_only s la) (setL2Line_only _ _ _ _)) ⟨_, _, _, _, _, _, rfl⟩
    · exact sideOnly_refl s

/-- Filling L2 for a requester. -/
theorem fillL2_only (s : State) (la : BitVec 50) (own : Bool) : sideOnly s (fillL2 s la own) := by
  unfold fillL2
  split
  · exact sideOnly_trans (dropInner_only s la) (bringL2_only _ _ _)
  · exact bringL2_only _ _ _

/-- Removing a line without a write-back. -/
theorem discardLine_only (s : State) (la : BitVec 50) : sideOnly s (discardLine s la) := by
  unfold discardLine
  dsimp only
  refine sideOnly_trans (dropInner_only s la) ?_
  generalize dropInner s la = x
  split
  · split
    · exact ⟨_, _, _, _, _, _, rfl⟩
    · exact ⟨_, _, _, _, _, _, rfl⟩
  · split
    · exact ⟨_, _, _, _, _, _, rfl⟩
    · exact sideOnly_refl _

/-- A single-bit flip that is met. -/
theorem meetSingle_only (s : State) (unit : Byte) (spot loc : Nat) : recordsOnly s (meetSingle s unit spot loc) := by
  unfold meetSingle postCe
  split
  · exact recordsOnly_trans ⟨_, _, _, rfl⟩ (postRecord_only _ _ _ _ _ _ _ _)
  · exact recordsOnly_refl s

/-- A flip in L2 that is met. -/
theorem meetL2_only (s : State) (k d : Nat) : sideOnly s (meetL2 s k d) := by
  unfold meetL2 postUe doubleBitL2
  split
  · refine sideOnly_trans ?_ (postRecord_only _ _ _ _ _ _ _ _).side
    refine sideOnly_trans (t := clearSpot s 0x04 (l2Loc k d)) ⟨_, _, _, _, _, _, rfl⟩ ?_
    split
    · exact sideOnly_refl _
    · split
      · exact ⟨_, _, _, _, _, _, rfl⟩
      · exact discardLine_only _ _
  · exact (meetSingle_only _ _ _ _).side

/-- A read finds nothing wrong where no injected flip waits, no vellum word and no line is bad, and L2 holds no line. -/
theorem readCheck_clean {s : State} {coh : Bool} {pa n : Nat} (hs : s.err.spots = []) (hv : s.vellumBad = []) (hl : s.ca.l2 = []) (hm : s.memBad = []) :
    readCheck s coh pa n = (s, none) := by
  have hp : ∀ k, linePoison s coh k = false := by
    intro k
    simp [linePoison, l2Find, hl, hm]
  simp [readCheck, meetSpots, readError, hs, hv, hp]

/-- What the checks of a read can change. -/
theorem readCheck_only (s : State) (coh : Bool) (pa n : Nat) : sideOnly s (readCheck s coh pa n).1 := by
  have h1 : sideOnly s (meetSpots s coh pa n) := by
    unfold meetSpots
    split
    · exact sideOnly_refl s
    · split
      · exact sideOnly_foldl _ (fun s w => (meetSingle_only _ _ _ _).side) _ _
      · split
        · refine sideOnly_foldl _ (fun s w => ?_) _ _
          split
          · exact meetL2_only _ _ _
          · exact sideOnly_refl s
        · exact sideOnly_refl s
  have h2 : ∀ t : State, sideOnly t (postBad t coh pa n) := by
    intro t
    unfold postBad
    split
    · exact sideOnly_foldl _ (fun s w => (postRecord_only _ _ _ _ _ _ _ _).side) _ _
    · refine sideOnly_foldl _ (fun s la => ?_) _ _
      unfold postLine
      split
      · exact (postRecord_only _ _ _ _ _ _ _ _).side
      · exact (postRecord_only _ _ _ _ _ _ _ _).side
  unfold readCheck
  dsimp only
  split
  · exact h1
  · exact sideOnly_trans h1 (h2 _)

/-- What reading a vector entry can change. -/
theorem vecRead_only (s : State) (v : Byte) : sideOnly s (vecRead s v).1 := by
  unfold vecRead
  dsimp only
  have h := readCheck_only s (!bit s.c.vtbase 0 || s.c.ruledAct) (vecAddr s v) 8
  split
  · rename_i s0 _ heq
    rw [heq] at h
    exact h
  · rename_i s0 heq
    rw [heq] at h
    refine sideOnly_trans h ?_
    split
    · exact sideOnly_refl s0
    · exact fillL2_only _ _ _

/-- What an ordinary entry may change where its vector entry is legal: banks and the stall, besides what reading the entry changes. -/
theorem ordinaryEntry_only (s : State) (q : EntryReq) (s1 : State) (e : W64) (h : vecRead s q.vec = (s1, .good e)) :
    let t := ordinaryEntry s q
    t = { s with banks := t.banks, c := t.c, ca := t.ca, mem := t.mem, memBad := t.memBad, err := t.err, dom := t.dom, stall := t.stall } := by
  have h1 := vecRead_only s q.vec
  rw [h] at h1
  obtain ⟨_, _, _, _, _, _, rfl⟩ := h1
  simp only [ordinaryEntry, h, setCur]

end Sys2Proof.Machine
end

