-- ==== Sys2Proof/Laws/Sparse.lean ====
section
/-! SUPPORT. The laws of sparse arrays: their canonical form is kept, and a read after a write. -/
namespace Sys2Proof.Machine

/-- A function mapped over a vector applies to each element. -/
@[simp] theorem vmap_get {α β : Type} {n : Nat} (f : α → β) (v : Vector α n) (i : Nat) (h : i < n) : (vmap f v)[i] = f v[i] := by
  simp [vmap]

/-- A function of the place mapped over a vector applies to each element. -/
@[simp] theorem vmapIdx_get {α β : Type} {n : Nat} (f : Nat → α → β) (v : Vector α n) (i : Nat) (h : i < n) : (vmapIdx f v)[i] = f i v[i] := by
  simp [vmapIdx]

variable {α : Type} [DecidableEq α] {d : α}

/-- A canonical form from a bound on is one from any lower bound on. -/
theorem spWfFrom_mono {lo lo' : Nat} (h : lo' ≤ lo) : ∀ {m : Sparse α}, spWfFrom d lo m = true → spWfFrom d lo' m = true
  | [], _ => rfl
  | (k, v) :: m, hm => by
    simp only [spWfFrom, Bool.and_eq_true, decide_eq_true_eq] at hm ⊢
    exact ⟨⟨by omega, hm.1.2⟩, hm.2⟩

/-- Below the first key every key reads as an unlisted one. -/
theorem spGet_below {lo k : Nat} (hk : k < lo) : ∀ {m : Sparse α}, spWfFrom d lo m = true → spGet d m k = d
  | [], _ => rfl
  | (k', v) :: m, hm => by
    simp only [spWfFrom, Bool.and_eq_true, decide_eq_true_eq] at hm
    simp only [spGet]
    rw [if_neg (by omega), if_pos (by omega)]

/-- A write keeps the canonical form. -/
theorem spSet_wfFrom {lo k : Nat} {v : α} (hk : lo ≤ k) : ∀ {m : Sparse α}, spWfFrom d lo m = true → spWfFrom d lo (spSet d m k v) = true
  | [], _ => by
    by_cases hv : v = d <;> simp [spSet, spWfFrom, hv, hk]
  | (k', v') :: m, hm => by
    simp only [spWfFrom, Bool.and_eq_true, decide_eq_true_eq] at hm
    obtain ⟨⟨h1, h2⟩, h3⟩ := hm
    simp only [spSet]
    split
    · by_cases hv : v = d
      · simp [hv, spWfFrom, h1, h3, h2]
      · simp only [hv, if_false, spWfFrom, Bool.and_eq_true, decide_eq_true_eq]
        exact ⟨⟨hk, by simp⟩, ⟨by omega, h2⟩, h3⟩
    · split
      · by_cases hv : v = d
        · simp only [hv, if_true]
          exact spWfFrom_mono (by omega) h3
        · simp only [hv, if_false, spWfFrom, Bool.and_eq_true, decide_eq_true_eq]
          exact ⟨⟨hk, by simp⟩, by subst_vars; exact h3⟩
      · simp only [spWfFrom, Bool.and_eq_true, decide_eq_true_eq]
        exact ⟨⟨h1, h2⟩, spSet_wfFrom (by omega) h3⟩

/-- A write keeps the canonical form. -/
theorem spSet_wf {m : Sparse α} {k : Nat} {v : α} (h : spWf d m = true) : spWf d (spSet d m k v) = true :=
  spSet_wfFrom (Nat.zero_le _) h

/-- Writing a list keeps the canonical form. -/
theorem spSetAll_wf : ∀ {vs : List α} {m : Sparse α} {k : Nat}, spWf d m = true → spWf d (spSetAll d m k vs) = true
  | [], _, _, h => h
  | _ :: vs, _, _, h => by
    simp only [spSetAll]
    exact spSetAll_wf (spSet_wf h)

/-- A read of the key written gives what was written. -/
theorem spGet_set_same_from {lo k : Nat} {v : α} : ∀ {m : Sparse α}, spWfFrom d lo m = true → spGet d (spSet d m k v) k = v
  | [], _ => by by_cases hv : v = d <;> simp [spSet, spGet, hv]
  | (k', v') :: m, hm => by
    simp only [spWfFrom, Bool.and_eq_true, decide_eq_true_eq] at hm
    obtain ⟨⟨h1, h2⟩, h3⟩ := hm
    simp only [spSet]
    split
    · rename_i hlt
      by_cases hv : v = d
      · subst hv
        simp only [if_true, spGet]
        rw [if_neg (by omega), if_pos hlt]
      · simp [hv, spGet]
    · split
      · rename_i heq
        by_cases hv : v = d
        · subst hv
          simp only [if_true]
          exact spGet_below (by omega) h3
        · simp [hv, spGet]
      · simp only [spGet]
        rw [if_neg (by omega), if_neg (by omega)]
        exact spGet_set_same_from h3

/-- A read of the key written gives what was written. -/
theorem spGet_set_same {m : Sparse α} {k : Nat} {v : α} (h : spWf d m = true) : spGet d (spSet d m k v) k = v :=
  spGet_set_same_from h

/-- A read of another key gives what was there. -/
theorem spGet_set_other_from {lo k j : Nat} {v : α} (hj : j ≠ k) :
    ∀ {m : Sparse α}, spWfFrom d lo m = true → spGet d (spSet d m k v) j = spGet d m j
  | [], _ => by by_cases hv : v = d <;> simp [spSet, spGet, hv, hj]
  | (k', v') :: m, hm => by
    simp only [spWfFrom, Bool.and_eq_true, decide_eq_true_eq] at hm
    obtain ⟨⟨h1, h2⟩, h3⟩ := hm
    simp only [spSet]
    split
    · by_cases hv : v = d
      · simp [hv]
      · simp only [hv, if_false, spGet, hj]
        split
        · rw [if_neg (by omega), if_pos (by omega)]
        · rfl
    · split
      · rename_i heq
        by_cases hv : v = d
        · simp only [hv, if_true, spGet]
          rw [if_neg (by omega)]
          split
          · exact spGet_below (by omega) h3
          · rfl
        · simp only [hv, if_false, spGet]
          subst heq
          rw [if_neg hj, if_neg hj]
      · simp only [spGet]
        split
        · rfl
        · split
          · rfl
          · exact spGet_set_other_from hj h3

/-- A read of another key gives what was there. -/
theorem spGet_set_other {m : Sparse α} {k j : Nat} {v : α} (h : spWf d m = true) (hj : j ≠ k) : spGet d (spSet d m k v) j = spGet d m j :=
  spGet_set_other_from hj h

/-- Reads after a list is written: the list where it lies, what was there elsewhere. -/
theorem spGet_setAll : ∀ {vs : List α} {m : Sparse α} {k j : Nat}, spWf d m = true →
    spGet d (spSetAll d m k vs) j = if k ≤ j then (vs[j - k]?).getD (spGet d m j) else spGet d m j
  | [], m, k, j, _ => by simp [spSetAll]
  | v :: vs, m, k, j, h => by
    simp only [spSetAll]
    rw [spGet_setAll (spSet_wf h)]
    by_cases hjk : j = k
    · subst hjk
      rw [if_neg (by omega), spGet_set_same h]
      simp
    · rw [spGet_set_other h hjk]
      by_cases hlt : k ≤ j
      · rw [if_pos (by omega), if_pos hlt]
        have e : j - k = (j - (k + 1)) + 1 := by omega
        rw [e, List.getElem?_cons_succ]
      · rw [if_neg (by omega), if_neg hlt]

/-- Keeping some entries keeps the canonical form. -/
theorem spKeep_wfFrom (p : Nat → Bool) : ∀ {m : Sparse α} {lo : Nat}, spWfFrom d lo m = true → spWfFrom d lo (spKeep p m) = true
  | [], _, _ => rfl
  | (k, v) :: m, lo, hm => by
    simp only [spWfFrom, Bool.and_eq_true, decide_eq_true_eq] at hm
    obtain ⟨⟨h1, h2⟩, h3⟩ := hm
    have ih := spKeep_wfFrom p h3
    simp only [spKeep] at ih ⊢
    rw [List.filter_cons]
    split
    · simp only [spWfFrom, Bool.and_eq_true, decide_eq_true_eq]
      exact ⟨⟨h1, h2⟩, ih⟩
    · exact spWfFrom_mono (by omega) ih

/-- Changing entries and dropping those that read as unlisted keeps the canonical form. -/
theorem spMap_wfFrom (f : Nat → α → α) : ∀ {m : Sparse α} {lo : Nat}, spWfFrom d lo m = true → spWfFrom d lo (spMap d f m) = true
  | [], _, _ => rfl
  | (k, v) :: m, lo, hm => by
    simp only [spWfFrom, Bool.and_eq_true, decide_eq_true_eq] at hm
    obtain ⟨⟨h1, h2⟩, h3⟩ := hm
    have ih := spMap_wfFrom f h3
    simp only [spMap] at ih ⊢
    rw [List.map_cons, List.filter_cons]
    split
    · rename_i hp
      simp only [spWfFrom, Bool.and_eq_true, decide_eq_true_eq]
      exact ⟨⟨h1, hp⟩, ih⟩
    · exact spWfFrom_mono (by omega) ih

end Sys2Proof.Machine
end

