-- ==== Sys2Proof/Laws/Memory.lean ====
section
/-! SUPPORT. Every operation on memory keeps the canonical form of the stores, reset has it, and what a write to memory changes. -/
namespace Sys2Proof.Machine

/-- The stores of a state are those of another. -/
def sameStores (s t : State) : Prop := t.mem = s.mem ∧ t.vellum = s.vellum ∧ t.ink = s.ink

/-- A state has its own stores. -/
theorem sameStores_refl (s : State) : sameStores s s := ⟨rfl, rfl, rfl⟩

/-- One after another. -/
theorem sameStores_trans {s t u : State} (h1 : sameStores s t) (h2 : sameStores t u) : sameStores s u :=
  ⟨h2.1.trans h1.1, h2.2.1.trans h1.2.1, h2.2.2.trans h1.2.2⟩

/-- The same stores are as canonical. -/
theorem StoresCanonical.of_same {s t : State} (h : StoresCanonical s) (e : sameStores s t) : StoresCanonical t := by
  unfold StoresCanonical at *
  rw [e.1, e.2.1, e.2.2]
  exact h

/-- A fold over a list keeps what each of its steps keeps. -/
theorem foldl_keeps {α β : Type} (P : β → Prop) (f : β → α → β) (hf : ∀ b a, P b → P (f b a)) : ∀ (l : List α) (b : β), P b → P (l.foldl f b)
  | [], _, h => h
  | a :: l, b, h => foldl_keeps P f hf l (f b a) (hf b a h)

/-- The machine after reset has canonical stores. -/
theorem reset_stores_canonical : StoresCanonical State.reset := by
  refine ⟨?_, ?_, ?_⟩ <;> rfl

/-- An injection that strikes the vellum keeps the canonical form. -/
theorem injVellum_canonical {s : State} (o n : Nat) (h : StoresCanonical s) : StoresCanonical (injVellum s o n) := by
  unfold injVellum
  dsimp only
  split
  · split
    · exact ⟨h.1, spSet_wf h.2.1, h.2.2⟩
    · exact h
  · exact h

/-- Bytes written into the vellum keep the canonical form. -/
theorem writeVellum_canonical {s : State} (o : Nat) (bs : List Byte) (h : StoresCanonical s) : StoresCanonical (writeVellum s o bs) :=
  injVellum_canonical _ _ ⟨h.1, spSetAll_wf h.2.1, h.2.2⟩

/-- An injection that strikes an inkwell entry keeps the canonical form. -/
theorem inkStrike_canonical {s : State} (r e : Nat) (h : StoresCanonical s) : StoresCanonical (inkStrike s r e) := by
  unfold inkStrike
  dsimp only
  split
  · split
    · exact ⟨h.1, h.2.1, spSet_wf h.2.2⟩
    · exact h
  · exact h

/-- An entry written into the inkwell keeps the canonical form. -/
theorem inkWrite_canonical {s : State} (r e : Nat) (x : Ink) (h : StoresCanonical s) : StoresCanonical (inkWrite s r e x) := by
  have h1 : ∀ t : State, StoresCanonical t → StoresCanonical (if t.err.spots.isEmpty = true then t else clearSpot t 9 (inkLoc r e)) := by
    intro t ht
    split
    · exact ht
    · exact ht
  have h2 : ∀ t : State, StoresCanonical t → StoresCanonical (if bit t.c.errinj 12 = true then inkStrike t r e else t) := by
    intro t ht
    split
    · exact inkStrike_canonical r e ht
    · exact ht
  exact h2 _ (h1 { s with ink := spSet 0 s.ink (1024 * r + e) x, inkBad := s.inkBad.filter (· ≠ 1024 * r + e) } ⟨h.1, h.2.1, spSet_wf h.2.2⟩)

/-- Bytes written to memory keep the canonical form. -/
theorem writeMem_canonical {s : State} (pa : Nat) (bs : List Byte) (h : StoresCanonical s) : StoresCanonical (writeMem s pa bs) :=
  ⟨spSetAll_wf h.1, h.2.1, h.2.2⟩

/-- A line given to memory keeps the canonical form. -/
theorem putMemLine_canonical {s : State} (la : BitVec 50) (p : Bool) (d : LineWord) (h : StoresCanonical s) :
    StoresCanonical (putMemLine s la p d) := by
  have h1 := writeMem_canonical (64 * la.toNat) ((List.range 64).map (lineByte d)) h
  unfold putMemLine
  dsimp only
  generalize writeMem s (64 * la.toNat) ((List.range 64).map (lineByte d)) = x at h1 ⊢
  split
  · exact StoresCanonical.of_same h1 ⟨rfl, rfl, rfl⟩
  · exact h1

/-- A line stored in L2 writes no store. -/
theorem setL2Line_same (s : State) (k : Nat) (l : L2Line) (dws : List Nat) : sameStores s (setL2Line s k l dws) := by
  unfold setL2Line
  dsimp only
  have h1 : ∀ t : State, sameStores t (if t.err.spots.isEmpty = true then t else dws.foldl (fun s d => clearSpot s 0x04 (l2Loc k d)) t) := by
    intro t
    split
    · exact sameStores_refl t
    · exact foldl_keeps (sameStores t) (fun s d => clearSpot s 0x04 (l2Loc k d)) (fun _ _ hb => sameStores_trans hb ⟨rfl, rfl, rfl⟩) _ _
        (sameStores_refl t)
  have h2 := sameStores_trans (s := s) ⟨rfl, rfl, rfl⟩ (h1 { s with ca := { s.ca with l2 := spSet none s.ca.l2 k (some l) } })
  generalize (if ({ s with ca := { s.ca with l2 := spSet none s.ca.l2 k (some l) } } : State).err.spots.isEmpty = true
    then ({ s with ca := { s.ca with l2 := spSet none s.ca.l2 k (some l) } } : State)
    else dws.foldl (fun s d => clearSpot s 0x04 (l2Loc k d)) { s with ca := { s.ca with l2 := spSet none s.ca.l2 k (some l) } }) = x at h2 ⊢
  refine sameStores_trans h2 ?_
  split
  · exact sameStores_refl x
  · split
    · exact ⟨rfl, rfl, rfl⟩
    · exact ⟨rfl, rfl, rfl⟩

/-- Dropping the inner copies of a line writes no store. -/
theorem dropInner_same (s : State) (la : BitVec 50) : sameStores s (dropInner s la) := ⟨rfl, rfl, rfl⟩

/-- Removing a line's L1D copy keeps the canonical form. -/
theorem flushL1d_canonical {s : State} (la : BitVec 50) (h : StoresCanonical s) : StoresCanonical (flushL1d s la) := by
  unfold flushL1d
  split
  · exact h
  · rename_i k l _
    have h1 : StoresCanonical { s with ca := { s.ca with l1d := spSet none s.ca.l1d k none } } := StoresCanonical.of_same h ⟨rfl, rfl, rfl⟩
    dsimp only
    generalize ({ s with ca := { s.ca with l1d := spSet none s.ca.l1d k none } } : State) = x at h1 ⊢
    split
    · split
      · exact StoresCanonical.of_same h1 (setL2Line_same _ _ _ _)
      · exact putMemLine_canonical _ _ _ h1
    · exact h1

/-- Evicting an L2 line keeps the canonical form. -/
theorem evictL2_canonical {s : State} (la : BitVec 50) (h : StoresCanonical s) : StoresCanonical (evictL2 s la) := by
  have h1 := StoresCanonical.of_same (flushL1d_canonical la h) (dropInner_same _ la)
  unfold evictL2
  dsimp only
  generalize dropInner (flushL1d s la) la = x at h1 ⊢
  split
  · exact h1
  · split
    · exact putMemLine_canonical _ _ _ (StoresCanonical.of_same h1 ⟨rfl, rfl, rfl⟩)
    · exact StoresCanonical.of_same h1 ⟨rfl, rfl, rfl⟩

/-- A line that leaves the write-back buffer changes no store. -/
theorem unbuffer_same (s : State) (la : BitVec 50) : sameStores s (unbuffer s la) := ⟨rfl, rfl, rfl⟩

/-- Bringing a line into L2 keeps the canonical form. -/
theorem bringL2_canonical {s : State} (la : BitVec 50) (own : Bool) (h : StoresCanonical s) : StoresCanonical (bringL2 s la own) := by
  unfold bringL2 touchL2
  split
  · exact StoresCanonical.of_same h ⟨rfl, rfl, rfl⟩
  · split
    · dsimp only
      split
      · rename_i old _
        exact StoresCanonical.of_same (evictL2_canonical old.la h)
          (sameStores_trans (unbuffer_same _ la) (sameStores_trans (setL2Line_same _ _ _ _) ⟨rfl, rfl, rfl⟩))
      · exact StoresCanonical.of_same h (sameStores_trans (unbuffer_same _ la) (sameStores_trans (setL2Line_same _ _ _ _) ⟨rfl, rfl, rfl⟩))
    · exact h

/-- Filling L2 keeps the canonical form. -/
theorem fillL2_canonical {s : State} (la : BitVec 50) (own : Bool) (h : StoresCanonical s) : StoresCanonical (fillL2 s la own) := by
  unfold fillL2
  split
  · exact bringL2_canonical _ _ (StoresCanonical.of_same h (dropInner_same _ _))
  · exact bringL2_canonical _ _ h

/-- Writing bytes of one line keeps the canonical form. -/
theorem writeLine_canonical {s : State} (pa : Nat) (bs : List Byte) (h : StoresCanonical s) : StoresCanonical (writeLine s pa bs) := by
  have h1 := StoresCanonical.of_same (flushL1d_canonical (lineNo pa) h) (dropInner_same _ (lineNo pa))
  unfold writeLine touchL2
  dsimp only
  generalize dropInner (flushL1d s (lineNo pa)) (lineNo pa) = x at h1 ⊢
  split
  · exact StoresCanonical.of_same h1 (sameStores_trans (setL2Line_same _ _ _ _) ⟨rfl, rfl, rfl⟩)
  · exact writeMem_canonical _ _ h1

/-- A coherent write keeps the canonical form. -/
theorem cohWrite_canonical {s : State} (pa : Nat) (bs : List Byte) (h : StoresCanonical s) : StoresCanonical (cohWrite s pa bs) := by
  unfold cohWrite
  refine foldl_keeps StoresCanonical _ ?_ _ _ h
  intro b a hb
  obtain ⟨x, o, k⟩ := a
  simp only
  split
  · exact writeVellum_canonical _ _ hb
  · exact writeLine_canonical _ _ hb

/-- A write past the caches keeps the canonical form. -/
theorem rawWrite_canonical {s : State} (pa : Nat) (bs : List Byte) (h : StoresCanonical s) : StoresCanonical (rawWrite s pa bs) := by
  unfold rawWrite
  split
  · exact writeVellum_canonical _ _ h
  · exact writeMem_canonical _ _ h

/-- A write of any agent and memory type keeps the canonical form. -/
theorem typedWrite_canonical {s : State} (ag : Agent) (ty : MType) (pa : Nat) (bs : List Byte) (h : StoresCanonical s) :
    StoresCanonical (typedWrite s ag ty pa bs) := by
  unfold typedWrite
  split
  · exact rawWrite_canonical _ _ (foldl_keeps StoresCanonical _ (fun _ _ hb => evictL2_canonical _ hb) _ _ h)
  · split
    · exact cohWrite_canonical _ _ h
    · exact rawWrite_canonical _ _ h

/-- Writing a map bit keeps the canonical form. -/
theorem setMapBit_canonical {s : State} (gen v : Bool) (g : Nat) (h : StoresCanonical s) : StoresCanonical (setMapBit s gen v g) :=
  ⟨h.1, spSet_wf h.2.1, h.2.2⟩

/-- Tracking a write for the mirror keeps the canonical form. -/
theorem markDirty_canonical {s : State} (pa n : Nat) (h : StoresCanonical s) : StoresCanonical (markDirty s pa n) := by
  unfold markDirty
  split
  · exact foldl_keeps StoresCanonical _ (fun b a hb => setMapBit_canonical _ _ _ (setMapBit_canonical _ _ _ hb)) _ _ h
  · exact h

/-- Posting a record writes no store. -/
theorem postRecord_same (s : State) (cls unit : Byte) (sev : BitVec 2) (loc : W64) (synd : BitVec 24) (inj : Bool) (extra : BitVec 16) :
    sameStores s (postRecord s cls unit sev loc synd inj extra) := by
  obtain ⟨_, _, _, h⟩ := postRecord_only s cls unit sev loc synd inj extra
  rw [h]
  exact ⟨rfl, rfl, rfl⟩

/-- A flip that is met writes no store. -/
theorem meetSingle_same (s : State) (unit : Byte) (spot loc : Nat) : sameStores s (meetSingle s unit spot loc) := by
  obtain ⟨_, _, _, h⟩ := meetSingle_only s unit spot loc
  rw [h]
  exact ⟨rfl, rfl, rfl⟩

/-- What a merge into vellum words meets writes no store. -/
theorem meetMerge_same (s : State) (o n : Nat) : sameStores s (meetMerge s o n) := by
  unfold meetMerge
  refine foldl_keeps (sameStores s) _ (fun b w hb => sameStores_trans hb ?_) _ _ (sameStores_refl s)
  split
  · exact postRecord_same _ _ _ _ _ _ _ _
  · exact meetSingle_same _ _ _ _

/-- A write of one of the core's agents keeps the canonical form. -/
theorem agentWrite_canonical {s : State} (ag : Agent) (ty : MType) (pa : Nat) (bs : List Byte) (h : StoresCanonical s) :
    StoresCanonical (agentWrite s ag ty pa bs) := by
  have h0 : StoresCanonical (if inVellum s pa = true then meetMerge s (vOff s pa) bs.length else s) := by
    split
    · exact StoresCanonical.of_same h (meetMerge_same _ _ _)
    · exact h
  have h1 := markDirty_canonical pa bs.length (typedWrite_canonical ag ty pa bs h0)
  unfold agentWrite
  dsimp only
  split
  · unfold noteFabricWrite
    exact foldl_keeps StoresCanonical (fun s p => notePort s ag p) (fun b p hb => StoresCanonical.of_same hb ⟨rfl, rfl, rfl⟩) _ _ h1
  · exact h1

/-- What a write past the caches leaves in memory: the bytes where they lie, every other byte as it was. -/
theorem rawWrite_reads {s : State} (pa : Nat) (bs : List Byte) (h : StoresCanonical s) (hv : inVellum s pa = false) (a : Nat) :
    spGet 0 (rawWrite s pa bs).mem a = if pa ≤ a then (bs[a - pa]?).getD (spGet 0 s.mem a) else spGet 0 s.mem a := by
  unfold rawWrite writeMem
  simp only [hv, if_false, Bool.false_eq_true]
  exact spGet_setAll h.1

/-- With no injection armed a write of the vellum is the write alone. -/
theorem injVellum_free {s : State} (o n : Nat) (h : bit s.c.errinj 12 = false) : injVellum s o n = s := by
  simp [injVellum, injKind, h]

/-- What a write into the vellum leaves there, with no injection armed. -/
theorem writeVellum_reads {s : State} (o : Nat) (bs : List Byte) (h : StoresCanonical s) (hi : bit s.c.errinj 12 = false) (a : Nat) :
    spGet 0 (writeVellum s o bs).vellum a = if o ≤ a then (bs[a - o]?).getD (spGet 0 s.vellum a) else spGet 0 s.vellum a := by
  have h1 : writeVellum s o bs = freshVellum { s with
      vellum := spSetAll 0 s.vellum o bs
      vellumBad := s.vellumBad.filter fun w => !(o ≤ 8 * w && 8 * w + 8 ≤ o + bs.length) } o bs.length :=
    injVellum_free o bs.length hi
  rw [h1]
  exact spGet_setAll h.2.1

end Sys2Proof.Machine
end

