-- ==== Sys2Proof/Tests/Slice0.lean ====
section
/-! SUPPORT. Tests: ill-formed terms that the check refuses, words written out from the spec, single commands with results computed by hand, and for each statement with hypotheses states and operands that meet them. -/
open Sys2Proof Sys2Proof.Machine
namespace Sys2Proof.Tests
set_option Elab.async false
/-- A Marsor-1024 whose domains all run, with everything else as reset leaves it: bank 0 executes in ring 0 with translation off. -/
def up : State :=
  { State.reset with
    dom := Vector.replicate 32 { st := .run, fclkReq := true, fclkAck := true, pwrReq := 2, pwrAck := 2 }
    heldOff := 0
    win := { ({} : Win) with clearing := false } }

/-- The executing bank changed. -/
def upB (f : Bank → Bank) : State := setCur up (f (curBank up))

/-- What Ready says, as a test that evaluates. -/
def readyB (c : Instr) (s : State) : Bool :=
  !s.test.undef && !s.win.coldLow && coreRuns s && !stalledOther s c && (interruptDue s).isNone && wellFormed c && !srcPending c (curBank s)

theorem ready_of {c : Instr} {s : State} (h : readyB c s = true) : Ready c s := by
  simp only [readyB, Bool.and_eq_true, Bool.not_eq_true'] at h
  exact ⟨⟨h.1.1.1.1.1.1, h.1.1.1.1.1.2⟩, h.1.1.1.1.2, h.1.1.1.2, Option.isNone_iff_eq_none.mp h.1.1.2, h.1.2, h.2⟩


/-! ### Ill-formed terms: each check refuses one. -/

theorem test_wf_alu : wellFormed (.add 1 2 (.imm 3) false true) = false := by decide
theorem test_wf_cmp : wellFormed (.cmp 2 (.imm 3) false true) = false := by decide
theorem test_wf_load_size : wellFormed (.load 1 (.base 2 0) 7) = false := by decide
theorem test_wf_load_post : wellFormed (.load 2 (.post 2) 6) = false := by decide
theorem test_wf_load_pre : wellFormed (.load 2 (.pre 2) 6) = false := by decide
theorem test_wf_store_size : wellFormed (.store 1 (.base 2 0) 5) = false := by decide
theorem test_wf_lda_size : wellFormed (.lda 1 2 0) = false := by decide
theorem test_wf_stl_size : wellFormed (.stl 1 2 5) = false := by decide
theorem test_wf_fence : wellFormed (.fence 0) = false := by decide
theorem test_wf_cond : wellFormed (.bCond 14 0) = false := by decide
theorem test_wf_rep_count : wellFormed (.rep 4 (.mu true 4 2 false 6)) = false := by decide
theorem test_wf_rep_base : wellFormed (.rep 2 (.mu false 4 2 false 6)) = false := by decide
theorem test_wf_rep_other : wellFormed (.rep 1 (.other 0)) = false := by decide
theorem test_wf_repn_vector : wellFormed (.repn 4 (.vec true 1 (.post 2) none 0)) = false := by decide
theorem test_wf_brun : wellFormed (.brun 1 2 2 false) = false := by decide
theorem test_wf_bmode : wellFormed (.bmode 6) = false := by decide
theorem test_wf_drain_tile : wellFormed (.idrainTile 1 2 ⟨1, false, false, false, 0, 0, 0⟩) = false := by decide
theorem test_wf_drain_vector : wellFormed (.idrainVector 1 2 ⟨0, false, false, false, 0, 0, 0⟩) = false := by decide
theorem test_wf_drain_memory : wellFormed (.idrainMemory 1 2 3 4 ⟨0, true, false, false, 0, 0, 0⟩) = false := by decide
theorem test_wf_drain_scale : wellFormed (.idrainTile 1 2 ⟨0, false, false, true, 0xFF, 0, 0⟩) = false := by decide
theorem test_wf_sqstat : wellFormed (.sqstat 1 2 5) = false := by decide
theorem test_wf_vadd : wellFormed (.vadd 1 2 3 none 3) = false := by decide
theorem test_wf_vfadd : wellFormed (.vfadd 1 2 3 none 0) = false := by decide
theorem test_wf_vfsqrt : wellFormed (.vfsqrt 1 2 none 0) = false := by decide
theorem test_wf_vcmpeq : wellFormed (.vcmpeq 1 2 3 none 3) = false := by decide
theorem test_wf_vfcmpeq : wellFormed (.vfcmpeq 1 2 3 none 0) = false := by decide
theorem test_wf_vrsum : wellFormed (.vrsum 1 2 none 0) = false := by decide
theorem test_wf_vradd : wellFormed (.vradd 1 2 none 3) = false := by decide
theorem test_wf_vcvt : wellFormed (.vcvt 1 2 1 2 false none) = false := by decide
theorem test_wf_vload : wellFormed (.vload 1 (.base 2 0) none 3) = false := by decide
theorem test_wf_vext : wellFormed (.vext 1 2 3 3) = false := by decide

/-! ### Words written out from R40 to R48, R72, R96, R165, R187 and R461 to R465. -/

theorem test_decode_add : decodeWords 0x04430800 0 = some (.add 2 3 (.reg 1) false false) := by decide +kernel
theorem test_decode_add_imm : decodeWords 0x08220FFF 0 = some (.add 1 2 (.imm 0xFFF) false false) := by decide +kernel
theorem test_decode_imz : decodeWords 0x10B8BEEF 0 = some (.imz 5 3 0xBEEF) := by decide +kernel
theorem test_decode_load : decodeWords 0x2087C008 0 = some (.load 4 (.base 7 8) 6) := by decide +kernel
theorem test_decode_stl : decodeWords 0x3022C000 0 = some (.stl 1 2 6) := by decide +kernel
theorem test_decode_cas : decodeWords 0x34221928 0 = some (.cas 1 2 3 4 true false true) := by decide +kernel
theorem test_decode_fence : decodeWords 0x380F0000 0 = some (.fence 0xF) := by decide +kernel
theorem test_decode_tlbi : decodeWords 0x38100080 0 = some (.tlbiAll true) := by decide +kernel
theorem test_decode_b : decodeWords 0x43FFFFFF 0 = some (.b 0x3FFFFFF) := by decide +kernel
theorem test_decode_bcond : decodeWords 0x44400004 0 = some (.bCond 1 4) := by decide +kernel
theorem test_decode_mfc : decodeWords 0x54600052 0 = some (.mfc 3 0x52) := by decide +kernel
theorem test_decode_svm : decodeWords 0x58010C00 0 = some (.svm 2 3) := by decide +kernel
theorem test_decode_plyc : decodeWords 0x5C000000 0 = some .plyc := by decide +kernel
theorem test_decode_tld : decodeWords 0xF42110C8 5 = some (.tld 1 2 3 4 5) := by decide +kernel
theorem test_decode_brun : decodeWords 0xF8232200 0 = some (.brun 3 4 1 false) := by decide +kernel
theorem test_decode_smove : decodeWords 0xFC008000 5 = some (.smove 5 1) := by decide +kernel
theorem test_decode_slaunch : decodeWords 0xFD048800 0 = some (.slaunch 2 9) := by decide +kernel
theorem test_decode_rep : decodeWords 0xE0200000 0x2843D000 = some (.rep 1 (.mu true 2 3 false 6)) := by decide +kernel
theorem test_decode_vadd : decodeWords 0x60221840 0 = some (.vadd 1 2 3 none 2) := by decide +kernel
theorem test_decode_vfma : decodeWords 0x64821CC7 0 = some (.vfma 4 2 3 (some 1) 2) := by decide +kernel
theorem test_decode_vload : decodeWords 0x70220010 0 = some (.vload 1 (.base 2 0) none 0) := by decide +kernel
theorem test_decode_mand : decodeWords 0x74298000 0 = some (.mand 1 2 3) := by decide +kernel
theorem test_decode_vtrd : decodeWords 0x7CC95000 0 = some (.vtrd 6 5 9) := by decide +kernel
theorem test_decode_tcfg : decodeWords 0xF4000000 0x00113FFF = some (.tcfgImm 0 0x3FF 0xF 1 true) := by decide +kernel
theorem test_decode_none : decodeWords 0x04000016 0 = none := by decide +kernel
theorem test_bytes_long : instrBytes (.bswap) = 8 := by decide +kernel
theorem test_bytes_short : instrBytes (.add 1 2 (.reg 3) false false) = 4 := by decide +kernel

/-! ### The host's interface: no row of the table gives bits, so no word spells a command. -/

theorem test_table_word : decodeTableWord 32 0x04430800 = none := rfl
theorem test_fetch_word : State.reset.withFetchWord 32 0x04430800 = State.reset := rfl
theorem test_step_takes_front : step { up with pending := [.holdend, .plyc] } = exec .holdend { up with pending := [.plyc] } := rfl

/-! ### Commands, with results computed by hand from the spec. -/

/-- Bank 0 after a command. -/
def bankAfter (c : Instr) (s : State) : Option Bank :=
  match exec c s with
  | .next t => some (curBank t)
  | _ => none
/-- Bank 0 with g1 and g2 as given. -/
def g12 (x y : W64) : State := upB fun b => { b with g := (b.g.set 1 x).set 2 y }
/-- R43, R33: 2^64 - 1 + 1 = 0, with Z and C set. -/
theorem test_add_carry : (bankAfter (.add 3 1 (.reg 2) true false) (g12 0xFFFFFFFFFFFFFFFF 1)).map (fun b => (b.g[3], b.fl, b.pc)) = some (0, 6, 4) := by decide +kernel
/-- R43: a W form zero-extends its 32-bit result. -/
theorem test_sub_w : (bankAfter (.sub 1 1 (.reg 2) false true) (g12 0 1)).map (fun b => b.g[1]) = some 0xFFFFFFFF := by decide +kernel
/-- R43: a zero has 64 leading zeros. -/
theorem test_clz_zero : (bankAfter (.clz 3 1 false false) (g12 0 0)).map (fun b => b.g[3]) = some 64 := by decide +kernel
/-- R43: SAR keeps the sign. -/
theorem test_sar : (bankAfter (.sar 3 1 (.imm 4) false false) (g12 0x8000000000000000 0)).map (fun b => b.g[3]) = some 0xF800000000000000 := by decide +kernel
/-- R42, R46: the offset of a doubleword load is scaled by 8, here from an empty vellum. -/
theorem test_load_zero : (bankAfter (.load 1 (.base 2 1) 6) (g12 7 0x100)).map (fun b => (b.g[1], b.pc)) = some (0, 4) := by decide +kernel
/-- R54: a branch goes to pc plus four times its offset. -/
theorem test_b_back : (bankAfter (.b 0x3FFFFFF) (upB fun b => { b with pc := 0x100 })).map (·.pc) = some 0xFC := by decide +kernel

/-! ### Witnesses of the statements. -/

theorem live_up : Live up := ⟨rfl, rfl⟩

/-! Witnesses: states and operands that meet the hypotheses of each statement, by clause. -/

theorem witness_StepRunsFrontCommand :
    ({ up with pending := [.holdend, .waiti] } : State).pending = .holdend :: [.waiti] ∧ up.pending = [] ∧ Live up ∧
    ¬ Live { up with test := { up.test with undef := true } } :=
  ⟨rfl, rfl, live_up, fun h => Bool.noConfusion h.1⟩
theorem witness_StepConsumesOneCommand : ∃ t, step { up with pending := [.rstWarmFall, .holdend] } = .next t := ⟨_, rfl⟩
theorem witness_StepKeepsStoresCanonical : StoresCanonical State.reset ∧ PartsCanonical State.reset ∧ OpsNumbered State.reset ∧ CommandsNumbered State.reset ∧
    ∃ t, step { State.reset with pending := [.rstColdRelease] } = .next t :=
  ⟨⟨rfl, rfl, rfl⟩, ⟨by unfold TilesCanonical; decide, by decide, by decide, rfl, by decide⟩, ⟨by decide, by decide⟩, ⟨by decide, by decide⟩, _, rfl⟩
theorem witness_StepKeepsBankFieldsLegal :
    (∀ k : BankNum, up.banks[k].fl &&& ~~~ 0x70F = 0) ∧ up.c.entry = none ∧ up.c.fresh = none ∧ ShadowStacksAligned up ∧
    ∃ t, step { up with pending := [.holdend] } = .next t :=
  ⟨by decide, rfl, rfl, by unfold ShadowStacksAligned; decide, _, rfl⟩
theorem witness_DecodeOfEncodeIsIdentity :
    wellFormed (.bCond 13 0x3FFFFF) = true ∧ encodeWords (.bCond 13 0x3FFFFF) = some (0x477FFFFF, 0) := by decide
theorem witness_AluResultAndFrame :
    aluForm (.ror 31 0 (.imm 0x800) true false) = some (.ror, 31, 0, .imm 0x800, true, false) ∧ Ready (.ror 31 0 (.imm 0x800) true false) up ∧
    Ready (.cmp 0 (.reg 31) true true) up ∧ Ready (.clz 0 31 false true) up ∧ Ready (.popc 31 0 true false) up ∧
    Ready (.imz 31 3 0xFFFF) up ∧ Ready (.imi 0 0 0) up :=
  ⟨rfl, ready_of (by decide), ready_of (by decide), ready_of (by decide), ready_of (by decide), ready_of (by decide), ready_of (by decide)⟩
theorem witness_DivisionsAndLongResults :
    divForm (.remu 31 1 2 true true) = some (.remu, 31, 1, 2, true, true) ∧ Ready (.remu 31 1 2 true true) up ∧ divBusy (curBank up) = false ∧
    Ready (.remu 31 1 2 true true) (upB fun b => { b with longs := [.g 5 7] }) ∧ divBusy { curBank up with longs := [.g 5 7] } = true :=
  ⟨rfl, ready_of (by decide), rfl, ready_of (by decide), rfl⟩
theorem witness_DivisionsAndLongResults_arrival :
    (upB fun b => { b with longs := [.g 31 7] }).banks[(0 : BankNum)].longs.find? (longFor (.g 31)) = some (.g 31 7) ∧
    (upB fun b => { b with longs := [.v 31 7] }).banks[(0 : BankNum)].longs.find? (longFor (.v 31)) = some (.v 31 7) ∧
    up.banks[(3 : BankNum)].longs.find? (longFor (.g 0)) = none := ⟨rfl, rfl, rfl⟩
theorem witness_LoadsWriteTheirRegister : ∃ s1 l, Ready (.load 1 (.post 2) 6) up ∧
    prepare .core .load (curBank up) (saddr (curBank up) (sizeBytes 6) (.post 2)) (sizeBytes 6)
      (piecesOf (saddr (curBank up) (sizeBytes 6) (.post 2)) (sizeBytes 6)) up = (s1, .inr l) ∧ loadFree s1 (sizeBytes 6) false l ∧ nothingPrefetched s1 l :=
  ⟨_, _, ready_of (by decide), rfl, ⟨rfl, rfl, rfl, rfl, rfl⟩, by unfold nothingPrefetched; decide⟩
theorem witness_LoadsWriteTheirRegister_lda : ∃ s1 l, Ready (.lda 1 1 4) up ∧ (rg (curBank up) 1).toNat % sizeBytes 4 = 0 ∧
    prepare .core .load (curBank up) (rg (curBank up) 1) (sizeBytes 4) (piecesOf (rg (curBank up) 1) (sizeBytes 4)) up = (s1, .inr l) ∧
    loadFree s1 (sizeBytes 4) true l ∧ nothingPrefetched s1 l :=
  ⟨_, _, ready_of (by decide), rfl, rfl, ⟨rfl, rfl, rfl, rfl, rfl⟩, by unfold nothingPrefetched; decide⟩
def farAway : State := upB fun b => wg b 2 0x8000000000000000
theorem witness_LoadsWriteTheirRegister_fault : ∃ s1 e s2 e2, Ready (.load 1 (.base 2 0) 6) farAway ∧ Ready (.lda 1 2 6) farAway ∧ Ready (.store 1 (.base 2 0) 6) farAway ∧
    saddr (curBank farAway) (sizeBytes 6) (.base 2 0) = rg (curBank farAway) 2 ∧ (rg (curBank farAway) 2).toNat % sizeBytes 6 = 0 ∧ storesVisible farAway = true ∧
    prepare .core .load (curBank farAway) (rg (curBank farAway) 2) (sizeBytes 6) (piecesOf (rg (curBank farAway) 2) (sizeBytes 6)) farAway = (s1, .inl e) ∧
    prepare .core .store (curBank farAway) (rg (curBank farAway) 2) (sizeBytes 6) (piecesOf (rg (curBank farAway) 2) (sizeBytes 6)) farAway = (s2, .inl e2) :=
  ⟨_, _, _, _, ready_of (by decide), ready_of (by decide), ready_of (by decide), by decide, by decide, by decide, rfl, rfl⟩
theorem witness_StoresAndTheStoreBuffer : ∃ s1 l s2 l2, Ready (.store 1 (.base 2 0x1FFF) 6) (upB fun b => wg b 2 64) ∧
    prepare .core .store (curBank (upB fun b => wg b 2 64)) 56 8 (piecesOf 56 8) (upB fun b => wg b 2 64) = (s1, .inr l) ∧ storeFree s1 l ∧
    saddr (curBank (upB fun b => wg b 2 64)) (sizeBytes 6) (.base 2 0x1FFF) = 56 ∧
    Ready (.stl 1 2 6) up ∧ storesVisible up = true ∧ prepare .core .store (curBank up) 0 8 (piecesOf 0 8) up = (s2, .inr l2) ∧ storeFree s2 l2 :=
  ⟨_, _, _, _, ready_of (by decide), rfl, ⟨rfl, rfl, by decide⟩, by decide, ready_of (by decide), by decide, rfl, ⟨rfl, rfl, by decide⟩⟩
def ruledUp : State := { up with c := { up.c with ruledEn := true, ruledAct := true } }
theorem witness_StoresAndTheStoreBuffer_ruled : ∃ s1 l, Ready (.store 1 (.base 2 0) 6) ruledUp ∧ Ready (.stl 1 2 6) ruledUp ∧ storesVisible ruledUp = true ∧
    prepare .core .store (curBank ruledUp) (saddr (curBank ruledUp) (sizeBytes 6) (.base 2 0)) (sizeBytes 6)
      (piecesOf (saddr (curBank ruledUp) (sizeBytes 6) (.base 2 0)) (sizeBytes 6)) ruledUp = (s1, .inr l) ∧ storeRuled s1 l :=
  ⟨_, _, ready_of (by decide), ready_of (by decide), by decide, rfl, ⟨rfl, rfl, rfl⟩⟩
def sbUp (l : List SbEntry) : State := { up with ca := { up.ca with sb := l } }
def held1 (ty : MType) : SbEntry := { pa := 0x12345678, bytes := [some 7], ty := ty, part := false }
theorem witness_StoresAndTheStoreBuffer_waits : Ready (.stl 1 2 6) (sbUp [held1 .device]) ∧ (rg (curBank (sbUp [held1 .device])) 2).toNat % sizeBytes 6 = 0 ∧
    storesVisible (sbUp [held1 .device]) = false := ⟨ready_of (by decide), by decide, by decide⟩
theorem witness_StoresAndTheStoreBuffer_drain : let e := held1 .device
    let s := sbUp [e]
    headHold s = .free ∧ StoresCanonical s ∧ heldGranules s 0x12345678 1 = [] ∧ inAlias s 0x12345678 = false ∧ s.mir.en = false ∧ bit s.c.errinj 12 = false ∧
    s.c.ruledAct = false ∧ headHold (sbUp [held1 .cacheable]) = .line (lineNo 0x12345678) 0 ∧ (sbUp [held1 .cacheable]).ca.miss = none ∧
    headHold (sbUp [{ e with pair := true }, { e with pa := 0x12345680 }]) = .free ∧ (sbUp []).ca.sb = [] :=
  ⟨by decide, ⟨rfl, rfl, rfl⟩, by decide, by decide, rfl, rfl, rfl, by decide, rfl, by decide, rfl⟩
def granuleHeld : State := { sbUp [{ held1 .device with pa := 0x10020 }] with
  mir := { up.mir with en := true, cfg := (Vector.replicate 16 0).set 0 0x1010000, commit := some { tx := { ply := 1, gen := true, todo := [0] }, total := 1, tick := 0 } } }
theorem witness_StoresAndTheStoreBuffer_granule : headHold granuleHeld = .granules [0] := by decide
def aliased : State := { up with
  cfg := { up.cfg with mgmtbase := 0x20000001 }, ca := { up.ca with sb := [{ held1 .device with pa := 0x20001000 }] } }
theorem witness_StoresAndTheStoreBuffer_alias :
    headHold aliased = .free ∧ inAlias aliased 0x20001000 = true := ⟨by decide, by decide⟩
def atAlias : State := { upB (fun b => wg b 2 0x2000FFF8) with cfg := { up.cfg with mgmtbase := 0x20000001 }, vellum := [(0x71, 0x10), (0x77, 0x80)] }
theorem witness_StoresAndTheStoreBuffer_refused : ∃ s1 l p, Ready (.store 1 (.base 2 0) 6) atAlias ∧
    prepare .core .store (curBank atAlias) (saddr (curBank atAlias) (sizeBytes 6) (.base 2 0)) (sizeBytes 6)
      (piecesOf (saddr (curBank atAlias) (sizeBytes 6) (.base 2 0)) (sizeBytes 6)) atAlias = (s1, .inr l) ∧ zeroingWaits s1 l = false ∧
    refusedPart s1 l = some p :=
  ⟨_, _, _, ready_of (by decide), rfl, rfl, rfl⟩
theorem test_device_store_to_alias : (match exec (.store 1 (.base 2 0) 6) atAlias with
    | .next t => t.err.seq == 1 && fieldN t.c.xcause 7 0 == 0x0E && (curBank t).pc == 0x1000 && t.c.xaddr == 0x2000FFF8
    | _ => false) = true := by decide +kernel
theorem witness_AtomicsReadModifyWrite_alias : ∃ s1 p, Ready (.cas 1 2 3 4 true true true) atAlias ∧ Ready (.aadd 1 2 3 0 true false true) atAlias ∧
    (rg (curBank atAlias) 2).toNat % atomSize true = 0 ∧
    prepare .core .atomic (curBank atAlias) (rg (curBank atAlias) 2) (atomSize true) (piecesOf (rg (curBank atAlias) 2) (atomSize true)) atAlias =
      (s1, .inr [p]) ∧ atomFree s1 p (atomSize true) true true ∧ inAlias s1 p.pa = true :=
  ⟨_, _, ready_of (by decide), ready_of (by decide), by decide, rfl, ⟨rfl, rfl, rfl, rfl⟩, by decide⟩
theorem test_store_to_alias_is_recorded : (match exec .storeBufferDrain aliased with
    | .next t => decide (t.ca.sb = []) && isPending t 0x28 && t.err.seq == 1
    | _ => false) = true := by decide +kernel
theorem test_atomic_on_alias_bus_error : (match exec (.aadd 1 2 3 0 true false true) atAlias with
    | .next t => t.err.seq == 1 && fieldN t.c.xcause 7 0 == 0x0E && (curBank t).pc == 0x1000 && t.c.xaddr == 0x2000FFF8
    | _ => false) = true := by decide +kernel
theorem witness_AtomicsReadModifyWrite : ∃ s1 p, Ready (.cas 1 2 3 4 true true true) up ∧
    prepare .core .atomic (curBank up) (rg (curBank up) 2) (atomSize true) (piecesOf (rg (curBank up) 2) (atomSize true)) up = (s1, .inr [p]) ∧
    atomFree s1 p (atomSize true) true true ∧ inAlias s1 p.pa = false ∧ Ready (.aadd 1 2 3 0 true false true) up :=
  ⟨_, _, ready_of (by decide), rfl, ⟨rfl, rfl, rfl, rfl⟩, rfl, ready_of (by decide)⟩
theorem witness_MisalignedOrderedAccessTraps :
    let s := upB fun b => wg b 2 4
    Ready (.lda 1 2 6) s ∧ (rg (curBank s) 2).toNat % sizeBytes 6 ≠ 0 ∧ Ready (.stl 1 2 6) s ∧ Ready (.cas 1 2 3 4 true false false) s ∧
    Ready (.aadd 1 2 3 0 true false false) s ∧ (rg (curBank s) 2).toNat % 8 ≠ 0 :=
  ⟨ready_of (by decide), by decide, ready_of (by decide), ready_of (by decide), ready_of (by decide), by decide⟩
def rep2 (n : W64) : State := upB fun b => wg b 1 n
theorem witness_RepeatsPerformTheirElements : ∃ b1 s1, Ready (.rep 1 (.mu true 3 2 false 6)) (rep2 2) ∧ governsVec (.mu true 3 2 false 6) = false ∧
    rg (curBank (rep2 2)) 1 ≠ 0 ∧ rg (curBank (rep2 2)) 1 ≠ 1 ∧ governedOnce .core (.mu true 3 2 false 6) (curBank (rep2 2)) (rep2 2) = .ok b1 s1 ∧ s1.dbg.stepping = false :=
  ⟨_, _, ready_of (by decide), rfl, by decide, by decide, rfl, rfl⟩
theorem witness_RepeatsPerformTheirElements_ends : ∃ b1 s1, Ready (.rep 1 (.mu true 3 2 false 6)) (rep2 0) ∧ rg (curBank (rep2 0)) 1 = 0 ∧
    Ready (.rep 1 (.mu true 3 2 false 6)) (rep2 1) ∧ rg (curBank (rep2 1)) 1 = 1 ∧
    governedOnce .core (.mu true 3 2 false 6) (curBank (rep2 1)) (rep2 1) = .ok b1 s1 :=
  ⟨_, _, ready_of (by decide), by decide, ready_of (by decide), by decide, rfl⟩
def stepping2 : State := { rep2 2 with dbg := { up.dbg with stepping := true } }
theorem witness_RepeatsPerformTheirElements_step : ∃ b1 s1, Ready (.rep 1 (.mu true 3 2 false 6)) stepping2 ∧
    governedOnce .core (.mu true 3 2 false 6) (curBank stepping2) stepping2 = .ok b1 s1 ∧ s1.dbg.stepping = true :=
  ⟨_, _, ready_of (by decide), rfl, rfl⟩
theorem witness_RepeatsPerformTheirElements_fault : let s := upB fun b => wg (wg b 1 1) 2 0x8000000000000000
    ∃ e bx s1, governedOnce .core (.mu true 3 2 false 6) (curBank s) s = .exc e bx s1 ∧ e.code ≠ waitCode ∧ Ready (.rep 1 (.mu true 3 2 false 6)) s :=
  ⟨_, _, _, rfl, by decide, ready_of (by decide)⟩
theorem witness_RepeatsPerformTheirElements_repn : ∃ s1 b' s', Ready (.repn 1 (.mu false 3 2 false 6)) up ∧
    repnCheck .core .store (curBank up) (repnPieces (curBank up) 2 (.mu false 3 2 false 6)) up = (s1, none) ∧
    elementsDone (.mu false 3 2 false 6) 2 (curBank up) s1 = some (b', s') :=
  ⟨_, _, _, ready_of (by decide), rfl, rfl⟩

def ring (n : W64) : State := upB fun b => { b with fl := n <<< 8, g := b.g.set 31 0x100, ssp := 0x200 }
def waiting1 : State := { up with ca := { up.ca with sb := [{ pa := 0, bytes := [some 1], ty := .device, part := false }] } }
theorem witness_FencesAndInvalidations :
    Ready (.fence 15) up ∧ up.ca.sb = [] ∧ up.ca.sbLast = none ∧ seenByAll .core up ∧ up.ops = [] ∧ seenByAll .unit up ∧ scribeWork up = false ∧ seenByAll .scribe up ∧
    up.tlbiOut = 0 ∧ Ready (.fence 15) { up with stall := some (.fence 15) } :=
  ⟨ready_of (by decide), rfl, rfl, by unfold seenByAll; decide, rfl, by unfold seenByAll; decide, by decide, by unfold seenByAll; decide, rfl, ready_of (by decide)⟩
theorem witness_FencesAndInvalidations_wait : Ready (.fence 1) waiting1 ∧ bit (1 : BitVec 4) 0 = true ∧ waiting1.ca.sb ≠ [] :=
  ⟨ready_of (by decide), by decide, by decide⟩
def portOn : State := { up with port := up.port.set 0 { up := true, credits := 1, snoopCr := 32, targetCr := 16 } }
theorem witness_FencesAndInvalidations_tlbi :
    Ready (.tlbiVaall 0 true) up ∧ tlbiOf (curBank up) (.tlbiVaall 0 true) = some (.vaall 0, true) ∧ (ringOf (curBank up)).toNat ≤ 1 ∧
    storesVisible up = true ∧ Ready (.tlbiAll false) portOn ∧ tlbiOf (curBank portOn) (.tlbiAll false) = some (.all, false) ∧
    storesVisible portOn = true ∧ portOn.tlbiOut < 8 ∧ portOn.port[0].up = true ∧ portOn.port[0].credits ≠ 0 ∧
    Ready (.tlbiAll false) waiting1 ∧ storesVisible waiting1 = false ∧ up.port[0].up = false :=
  ⟨ready_of (by decide), rfl, by decide, by decide, ready_of (by decide), rfl, by decide, by decide, rfl, by decide, ready_of (by decide), by decide, rfl⟩
theorem witness_PrivilegedInstructionsTrap :
    Ready .retxC (ring 1) ∧ ringLimit .retxC = some 1 ∧ 1 ≤ (ringOf (curBank (ring 1))).toNat ∧ Ready .sysr (ring 2) ∧ ringLimit .sysr = some 2 ∧
    2 ≤ (ringOf (curBank (ring 2))).toNat ∧ Ready (.tlbiAll true) (ring 3) ∧ ringLimit (.tlbiAll true) = some 2 :=
  ⟨ready_of (by decide), rfl, by decide, ready_of (by decide), rfl, by decide, ready_of (by decide), rfl⟩
theorem witness_ConditionsAndBranches :
    flagsOf .cmp false 0x8000000000000000 1 0 0x1 ∧ Ready (.b 0x3FFFFFF) up ∧ Ready (.bCond 13 0x200000) up ∧ Ready (.br 0) up ∧
    (rg (curBank up) 0).toNat % 4 = 0 ∧ Ready (.br 1) (upB fun b => wg b 1 2) ∧ (rg (curBank (upB fun b => wg b 1 2)) 1).toNat % 4 ≠ 0 := by
  refine ⟨⟨by decide, by decide, by decide, by decide, ?_⟩, ready_of (by decide), ready_of (by decide), ready_of (by decide), by decide, ready_of (by decide), by decide⟩
  intro i hi
  simp only [bit]
  rcases Nat.lt_or_ge i 64 with h | h
  · have : ∀ j : Fin 64, 4 ≤ j.val → BitVec.getLsbD (1 : W64) j.val = BitVec.getLsbD (0 : W64) j.val := by decide
    exact this ⟨i, h⟩ hi
  · simp [BitVec.getLsbD_of_ge _ _ h]
theorem witness_CallsAndReturnsUseBothStacks : ∃ s1 l s2 l2, Ready (.call 0x2000000) (ring 0) ∧ Ready (.callr 0) (ring 0) ∧
    (rg (curBank (ring 0)) 0).toNat % 4 = 0 ∧
    stackPair .core .store .shadowW (curBank (ring 0)) (rg (curBank (ring 0)) 31 - 8) ((curBank (ring 0)).ssp - 8) (ring 0) = (s1, .inr l) ∧ storeFree s1 l ∧
    Ready .ret (ring 0) ∧ stackPair .core .load .shadowR (curBank (ring 0)) (rg (curBank (ring 0)) 31) (curBank (ring 0)).ssp (ring 0) = (s2, .inr l2) ∧
    loadFree s2 8 false l2 ∧ ofBytes 64 ((readPhys .core s2 l2).take 8) = ofBytes 64 ((readPhys .core s2 l2).drop 8) ∧
    (ofBytes 64 ((readPhys .core s2 l2).take 8)).toNat % 4 = 0 :=
  ⟨_, _, _, _, ready_of (by decide), ready_of (by decide), by decide, rfl, ⟨rfl, rfl, by decide⟩, ready_of (by decide), rfl, ⟨rfl, rfl, rfl, rfl, rfl⟩, rfl, rfl⟩
def stack (a b : Byte) : State := { ring 0 with vellum := spSet 0 (spSet 0 [] 0x100 a) 0x200 b }
theorem witness_CallsAndReturnsUseBothStacks_faults : ∃ s1 l s2 l2,
    stackPair .core .load .shadowR (curBank (stack 4 8)) (rg (curBank (stack 4 8)) 31) (curBank (stack 4 8)).ssp (stack 4 8) = (s1, .inr l) ∧
    ofBytes 64 ((readPhys .core s1 l).take 8) ≠ ofBytes 64 ((readPhys .core s1 l).drop 8) ∧
    stackPair .core .load .shadowR (curBank (stack 2 2)) (rg (curBank (stack 2 2)) 31) (curBank (stack 2 2)).ssp (stack 2 2) = (s2, .inr l2) ∧
    ofBytes 64 ((readPhys .core s2 l2).take 8) = ofBytes 64 ((readPhys .core s2 l2).drop 8) ∧
    (ofBytes 64 ((readPhys .core s2 l2).take 8)).toNat % 4 ≠ 0 ∧ Ready .ret (stack 4 8) ∧ Ready .ret (stack 2 2) :=
  ⟨_, _, _, _, rfl, by decide, rfl, rfl, by decide, ready_of (by decide), ready_of (by decide)⟩
theorem witness_SystemCallsAndReturns :
    Ready .sysc (ring 3) ∧ ringOf (curBank (ring 3)) ≠ 0 ∧ Ready .sysc (ring 0) ∧ ringOf (curBank (ring 0)) = 0 ∧
    Ready .sysr (ring 1) ∧ (ringOf (curBank (ring 1))).toNat ≤ 1 ∧ (flRing (curBank (ring 1)).sysrfl).toNat < (ringOf (curBank (ring 1))).toNat ∧
    Ready .sysr (ring 0) ∧ (ringOf (curBank (ring 0))).toNat ≤ (flRing (curBank (ring 0)).sysrfl).toNat ∧
    Ready .retx (ring 1) ∧ (flRing (ring 1).c.xfl).toNat < (ringOf (curBank (ring 1))).toNat ∧ Ready .retx (ring 0) ∧ Ready .retxC (ring 0) ∧
    fieldN (ring 0).c.sysstack 4 0 = 0 ∧ fieldN ({ ring 0 with c := { (ring 0).c with sysstack := 0x1010 } } : State).c.sysstack 4 0 ≠ 0 :=
  ⟨ready_of (by decide), by decide, ready_of (by decide), by decide, ready_of (by decide), by decide, by decide, ready_of (by decide), by decide,
    ready_of (by decide), by decide, ready_of (by decide), ready_of (by decide), by decide, by decide⟩
/-- Vector 0x23 is pending at level 5, with FL.IE = 0. -/
def woken : State := pend { up with c := { up.c with ilevel := up.c.ilevel.set 0 0x5000 } } 0x23
theorem witness_HoldShadowAndWaitInstructions : ∃ s1 l, Ready .holdend up ∧ Ready (.sspinc 31) up ∧ Ready (.sspush 0) (ring 1) ∧
    (ringOf (curBank (ring 1))).toNat ≤ 1 ∧ xlateAll .core .shadowW (curBank (ring 1)) (ring 1) [⟨(curBank (ring 1)).ssp - 8, 0, 8⟩] = (s1, .inr l) ∧
    storeFree s1 l ∧ Ready .waiti up ∧ waitiEnds up = false ∧ waitiEnds woken = true ∧ Ready .waiti woken :=
  ⟨_, _, ready_of (by decide), ready_of (by decide), ready_of (by decide), by decide, rfl, ⟨rfl, rfl, by decide⟩, ready_of (by decide), by decide, by decide,
    ready_of (by decide)⟩
/-- Gate 0 of a table at vellum offset 0x1000: target 0x2000, ring 0, callable from every ring. -/
def gates : State := { ring 0 with c := { (ring 0).c with gatebase := 0x8000000000001000 }, vellum := spSet 0 (spSet 0 [] 0x1001 0x20) 0x1008 0x19 }
theorem witness_GatesEnterAndReturn : ∃ s1 l1 s2 l2, Ready (.callg 0) gates ∧
    prepare .core .store (curBank gates) (rg (curBank gates) 31 - 16) 8 (piecesOf (rg (curBank gates) 31 - 16) 16) gates = (s1, .inr l1) ∧
    xlateAll .core .shadowW (curBank gates) s1 [⟨(curBank gates).ssp - 8, 16, 8⟩] = (s2, .inr l2) ∧ gateInRange s2 0 = true ∧ (rg (curBank gates) 31 - 16).toNat % 8 = 0 ∧
    fieldN s2.c.gatebase 55 12 * 4096 = 0x1000 ∧ inVellum s2 0x1000 = true ∧ readCheck s2 true 0x1000 16 = (s2, none) ∧ read64 s2 true 0x1000 = 0x2000 ∧
    gateFault (curBank gates) (read64 s2 true 0x1000) (read64 s2 true 0x1008) = none ∧ storeFree s2 (l1 ++ l2) :=
  ⟨_, _, _, _, ready_of (by decide), rfl, rfl, rfl, by decide, by decide, by decide, rfl, by decide, by decide, ⟨rfl, rfl, by decide⟩⟩
theorem witness_GatesEnterAndReturn_retg : ∃ s1 l1 s2 l2, Ready .retg (ring 0) ∧ (rg (curBank (ring 0)) 31).toNat % 8 = 0 ∧
    prepare .core .load (curBank (ring 0)) (rg (curBank (ring 0)) 31) 8 (piecesOf (rg (curBank (ring 0)) 31) 16) (ring 0) = (s1, .inr l1) ∧
    xlateAll .core .shadowR (curBank (ring 0)) s1 [⟨(curBank (ring 0)).ssp, 16, 8⟩] = (s2, .inr l2) ∧ loadFree s2 8 false (l1 ++ l2) ∧
    ofBytes 64 ((readPhys .core s2 (l1 ++ l2)).take 8) = ofBytes 64 ((readPhys .core s2 (l1 ++ l2)).drop 16) ∧
    (ringOf (curBank (ring 0))).toNat ≤ (flRing (ofBytes 64 (((readPhys .core s2 (l1 ++ l2)).drop 8).take 8))).toNat :=
  ⟨_, _, _, _, ready_of (by decide), by decide, rfl, rfl, ⟨rfl, rfl, rfl, rfl, rfl⟩, by decide, by decide⟩
/-- A vector table at vellum offset 0x800 whose entry 4 is valid, for ring 1, with the handler at 0x3000. -/
def vectors : State :=
  { ring 3 with c := { (ring 3).c with vtbase := 0x800 }
                vellum := spSet 0 (spSet 0 [] 0x821 0x30) 0x827 0x82 }
theorem witness_ExceptionEntries : ∃ s1 e, (4 : Byte) ≠ 0x0B ∧ vecRead vectors 4 = (s1, .good e) ∧ bit e 57 = true ∧ bit e 0 = false :=
  ⟨_, _, by decide, rfl, by decide, by decide⟩

theorem witness_ControlRegisterAccess :
    Ready (.mfc 3 0x52) (ring 3) ∧ regRings (ring 3).var 0x52 = some (3, none) ∧ (ringOf (curBank (ring 3))).toNat ≤ 3 ∧
    Ready (.mtc 3 0x10) (ring 1) ∧ regRings (ring 1).var 0x10 = some (0, some 0) ∧ 0 < (ringOf (curBank (ring 1))).toNat ∧
    Ready (.mfc 3 0x10) (ring 1) ∧ Ready (.mtc 3 0x52) up ∧ regRings up.var 0xFFF = none ∧ Ready (.mtc 0 0xFFF) up ∧ Ready (.mfc 0 0xFFF) up ∧
    Ready (.mtc 3 0x01) up ∧ bankedReg 0x01 = true ∧ Ready (.mtc 3 0x14) up ∧ bankedReg 0x14 = false ∧ regRings up.var 0x14 = some (1, some 1) :=
  ⟨ready_of (by decide), by decide, by decide, ready_of (by decide), by decide, by decide, ready_of (by decide), ready_of (by decide), by decide,
    ready_of (by decide), ready_of (by decide), ready_of (by decide), by decide, ready_of (by decide), by decide, by decide⟩
theorem witness_ControlRegistersReadBack :
    (0x11 : Nat) ∈ [0x11, 0x12, 0x14, 0x15, 0x1C, 0x1D, 0x1F, 0x36, 0x37] ∧ (0x10 : Nat) ≠ 0x37 := by decide
/-- The window bank is bank 2. -/
def win2 : State := { up with c := { up.c with bankwin := 2 } }
theorem witness_WindowBankAccess :
    win2.c.bankwin ≠ win2.c.cur ∧ (ringOf (curBank win2)).toNat ≤ 1 ∧ Ready (.mfb 3 0xF20) win2 ∧ win2.banks[win2.c.bankwin].longs = [] ∧
    Ready (.mfb 3 0xF1F) win2 ∧ Ready (.mfb 3 0x01) win2 ∧ bankedReg 0x01 = true ∧ Ready (.mfb 3 0xF21) win2 ∧ bankedReg 0xF21 = false ∧
    Ready (.mtb 3 0xF00) win2 ∧ Ready (.mtb 3 0xF20) win2 ∧ Ready (.mtb 3 0x46) win2 ∧ Ready (.mtb 3 0xEFF) win2 ∧ bankedReg 0xEFF = false :=
  ⟨by decide, by decide, ready_of (by decide), rfl, ready_of (by decide), ready_of (by decide), rfl, ready_of (by decide), rfl,
    ready_of (by decide), ready_of (by decide), ready_of (by decide), ready_of (by decide), rfl⟩
theorem witness_SavedGroupsLoadBack : ∃ r : GReg, r.val / 8 ≠ (3 : Fin 4).val := ⟨23, by decide⟩
/-- The window bank is bank 2, and register 3 holds a mask. -/
def save (m : W64) : State := setCur win2 (wg (curBank win2) 3 m)
theorem witness_BankSavesAndLoadsComplete : ∃ j gr va rest b2 s2 j2 gr2 va2 rest2 b4 s4, let s := save 3
    saveForm (.svm 2 3) = some (false, 2, false) ∧ saveForm (.ldm 2 3) = some (true, 2, false) ∧ Ready (.svm 2 3) s ∧ Ready (.ldm 2 3) s ∧
    saveUndef (.svm 2 3) false false (curBank s) s = false ∧ saveUndef (.ldm 2 3) true false (curBank s) s = false ∧ (ringOf (curBank s)).toNat ≤ 1 ∧
    (rg (curBank s) 2).toNat % 256 = 0 ∧ savesVec (curBank s) (.svm 2 3) = false ∧ (winBank (curBank s) s).longs = [] ∧ s.dbg.stepping = false ∧
    (saveGroups (curBank s) 0 (.svm 2 3)).filter (fun e => svmStart s false ≤ e.1) = (j, gr, va) :: rest ∧ rest ≠ [] ∧
    groupMoved false gr va (curBank s) s = some (b2, s2) ∧
    (saveGroups (curBank s) 0 (.ldm 2 3)).filter (fun e => svmStart s true ≤ e.1) = (j2, gr2, va2) :: rest2 ∧ rest2 ≠ [] ∧
    groupMoved true gr2 va2 (curBank s) (parkFree s) = some (b4, s4) :=
  ⟨_, _, _, _, _, _, _, _, _, _, _, _, rfl, rfl, ready_of (by decide), ready_of (by decide), by decide, by decide, by decide, by decide, by decide, rfl, rfl, rfl, List.cons_ne_nil _ _, rfl, rfl,
    List.cons_ne_nil _ _, rfl⟩
theorem witness_BankSavesAndLoadsComplete_last : ∃ j gr va b2 s2, let s := save 1
    Ready (.svm 2 3) s ∧ (saveGroups (curBank s) 0 (.svm 2 3)).filter (fun e => svmStart s false ≤ e.1) = [(j, gr, va)] ∧
    groupMoved false gr va (curBank s) s = some (b2, s2) ∧ Ready (.svm 2 3) (save 0) ∧
    (saveGroups (curBank (save 0)) 0 (.svm 2 3)).filter (fun e => svmStart (save 0) false ≤ e.1) = [] :=
  ⟨_, _, _, _, _, ready_of (by decide), rfl, rfl, ready_of (by decide), rfl⟩
def asleepVec : State := { save (1 <<< 8) with dom := up.dom.set 8 { up.dom[(8 : Fin 32)] with st := .gated } }
theorem witness_BankSavesAndLoadsComplete_traps :
    Ready (.svh 2 true) win2 ∧ saveUndef (.svh 2 true) false true (curBank win2) win2 = true ∧
    Ready (.svm 2 3) { ring 2 with c := win2.c } ∧ saveUndef (.svm 2 3) false false (curBank (ring 2)) { ring 2 with c := win2.c } = false ∧
    2 ≤ (ringOf (curBank (ring 2))).toNat ∧ Ready (.svm 3 2) (save 3) ∧ (rg (curBank (save 3)) 3).toNat % 256 ≠ 0 ∧
    Ready (.svm 2 3) asleepVec ∧ savesVec (curBank asleepVec) (.svm 2 3) = true ∧ domUse asleepVec dVec = .asleep ∧
    saveUndef (.svm 2 3) false false (curBank asleepVec) asleepVec = false ∧
    Ready (.svm 2 3) (setBank (save 3) 2 { longs := [.g 1 0] }) ∧ (winBank (curBank (save 3)) (setBank (save 3) 2 { longs := [.g 1 0] })).longs ≠ [] :=
  ⟨ready_of (by decide), by decide, ready_of (by decide), by decide, by decide, ready_of (by decide), by decide, ready_of (by decide), by decide, by decide, by decide,
    ready_of (by decide), by decide⟩
/-- A Marsor-512 with bank 2 as the window bank. -/
def half : State := { win2 with var := .m512 }
set_option maxRecDepth 8000 in
theorem witness_BankSavesAndLoadsComplete_halves : ∃ s1 j gr va rest b2 s2 s3 nx j2 gr2 va2 rest2 b4 s4,
    Ready (.svh 2 false) half ∧ saveUndef (.svh 2 false) false true (curBank half) half = false ∧ half.c.xfer = none ∧ svmStart half false = 0 ∧
    storeBytes .core (curBank half) (rg (curBank half) 2 + 8) 8 false (toBytes 8 (0 : W64)) half = .done s1 ∧
    (let s : State := { half with c := { half.c with xfer := some (0, 0) } }
     Ready (.svh 2 false) s ∧ (saveGroups (curBank s) 0 (.svh 2 false)).filter (fun e => svmStart s false ≤ e.1) = (j, gr, va) :: rest ∧
     groupMoved false gr va (curBank s) s = some (b2, s2)) ∧
    Ready (.ldh 2 false) half ∧ saveUndef (.ldh 2 false) true true (curBank half) half = false ∧
    ldhOther .core (curBank half) (rg (curBank half) 2) false (parkFree half) = .inr (s3, nx) ∧
    (saveGroups (curBank half) nx (.ldh 2 false)).filter (fun e => svmStart half true ≤ e.1) = (j2, gr2, va2) :: rest2 ∧
    groupMoved true gr2 va2 (curBank half) s3 = some (b4, s4) :=
  ⟨_, _, _, _, _, _, _, _, _, _, _, _, _, _, _, ready_of (by decide), by decide, rfl, rfl, rfl, ⟨ready_of (by decide), rfl, rfl⟩, ready_of (by decide), by decide, rfl, rfl, rfl⟩
/-- Bank n executes, the other banks have the state st. -/
def inBank (n : BankNum) (st : BankState) : State :=
  { up with c := { up.c with cur := n }, banks := (Vector.replicate 4 { st := st }).set n.val { st := .run } n.isLt }
theorem witness_BankActionsFollowR292 :
    (ringOf (curBank (inBank 1 .free))).toNat ≤ 1 ∧ Ready (.bankAlloc 0) (inBank 1 .free) ∧ freeBank (inBank 1 .free) = some 2 ∧
    Ready (.bankAlloc 0) (inBank 0 .ready) ∧ freeBank (inBank 0 .ready) = none ∧ (inBank 0 .ready).c.cur = 0 ∧
    Ready (.bankAlloc 0) (inBank 3 .ready) ∧ freeBank (inBank 3 .ready) = none ∧ (inBank 3 .ready).c.cur ≠ 0 ∧
    (curBank (inBank 3 .ready)).longs = [] ∧ Ready (.bankFree 2) (inBank 3 .ready) ∧ Ready (.bankPark 2) (inBank 3 .ready) ∧
    (inBank 3 .ready).banks[(2 : BankNum)].st ≠ .free ∧ Ready (.bankReady 2) (inBank 0 .wait) ∧ (inBank 0 .wait).banks[(2 : BankNum)].st = .wait ∧
    Ready (.bankClrev 2) (inBank 0 .wait) ∧ Ready (.bankSwitch 2) (inBank 0 .ready) ∧ (inBank 0 .ready).banks[(2 : BankNum)].st = .ready ∧
    Ready (.bankReturn 3) (inBank 0 .ready) :=
  ⟨by decide, ready_of (by decide), by decide, ready_of (by decide), by decide, rfl, ready_of (by decide), by decide, by decide, rfl,
    ready_of (by decide), ready_of (by decide), by decide, ready_of (by decide), by decide, ready_of (by decide), ready_of (by decide), by decide,
    ready_of (by decide)⟩
/-- The scheduler is on in bank 1, which runs with interrupts enabled and a stall; the other banks have the state st. -/
def sched (st : BankState) (w : Option Instr) : State :=
  let s : State := { inBank 1 st with tiles := up.tiles.set 5 { up.tiles[(5 : TReg)] with st := .pending } }
  setCur { s with stall := w, c := { s.c with schedctl := 0x103107F } } { curBank s with fl := 0x400 }
theorem witness_HardwareSchedulerSwitches :
    Live (sched .ready (some (.vtrd 1 5 2))) ∧ schedOpen (sched .ready (some (.vtrd 1 5 2))) = true ∧
    nextBank (sched .ready (some (.vtrd 1 5 2))) = some 2 ∧ tnrWait (sched .ready (some (.vtrd 1 5 2))) = some ([5], false) ∧
    bit (sched .ready none).c.schedctl 1 = true ∧ Live (sched .ready (some .waiti)) ∧ schedOpen (sched .ready (some .waiti)) = true ∧
    nextBank (sched .ready (some .waiti)) = some 2 ∧ waitiEnds (sched .ready (some .waiti)) = false ∧
    bit (sched .ready none).c.schedctl 5 = true ∧ bit (sched .ready none).c.schedctl 6 = true ∧ schedOpen (sched .ready none) = true ∧
    nextBank (sched .ready none) = some 2 ∧ bankPrio (sched .ready none) 1 < bankPrio (sched .ready none) 2 ∧ schedOpen up = false :=
  ⟨⟨rfl, rfl⟩, by decide, by decide, by decide, by decide, ⟨rfl, rfl⟩, by decide, by decide, by decide, by decide, by decide, by decide, by decide, by decide, by decide⟩
theorem witness_HardwareSchedulerSwitches_wake :
    let s := setBank up 2 { st := .wait, tnr := true, tnrTiles := [0, 15] }
    Live s ∧ s.banks[(2 : BankNum)].st = .wait ∧ s.banks[(2 : BankNum)].tnr = true ∧ tnrOver s s.banks[(2 : BankNum)] = true :=
  ⟨⟨rfl, rfl⟩, rfl, rfl, by decide⟩
theorem witness_SystemRegisterWrites :
    let s : State := { up with c := { up.c with ruledEn := true } }
    ringOf (curBank up) = 0 ∧ Ready (.ruledEnter true) up ∧ up.c.ruledEn = false ∧ up.ca.sb = [] ∧ (∀ d ∈ ruledDoms, domUse up d ≠ .asleep) ∧
    up.ca.l1d.Pairwise (fun x y => x.1 < y.1) ∧ Ready (.ruledExit false) s ∧ s.c.ruledEn = true ∧ Ready (.l2wayctlWrite 0) up ∧
    Ready .rstctlWarm up ∧ Ready (.isetWrite 3 1) up ∧ Ready (.errinjArm 0) up :=
  ⟨by decide, ready_of (by decide), rfl, rfl, by decide, by decide, ready_of (by decide), rfl, ready_of (by decide), ready_of (by decide),
    ready_of (by decide), ready_of (by decide)⟩
theorem witness_ControlRegisterAccess_windows :
    Ready (.mtc 3 0x30) up ∧ regRings up.var 0x30 = some (1, some 1) ∧ fieldN (rg (curBank up) 3) 4 2 = 0 ∧ Ready (.mtc 3 0x32) win2 ∧ win2.c.bankwin ≠ win2.c.cur ∧
    Ready (.mtc 3 0x32) up ∧ up.c.bankwin = up.c.cur ∧ Ready (.mtc 3 0x50) up ∧ bit (rg (curBank up) 3) 0 = up.c.ruledEn :=
  ⟨ready_of (by decide), by decide, by decide, ready_of (by decide), by decide, ready_of (by decide), rfl, ready_of (by decide), by decide⟩
theorem witness_WindowBankAccess_own :
    up.c.bankwin = up.c.cur ∧ Ready (.mfb 3 0xF20) up ∧ (winBank (curBank up) up).longs = [] ∧ Ready (.mtb 3 0x02) up ∧ bankedReg 0x02 = true ∧ Ready (.mtb 3 0xF01) up ∧
    Ready (.mtb 3 0xF20) up ∧ Ready (.mfb 3 0xF01) (ring 2) ∧ Ready (.mtb 3 0xF01) (ring 2) ∧ 2 ≤ (ringOf (curBank (ring 2))).toNat ∧
    Ready (.mfb 3 0xF01) (upB fun b => { b with longs := [.g 5 7] }) ∧ (curBank (upB fun b => { b with longs := [.g 5 7] })).longs ≠ [] :=
  ⟨rfl, ready_of (by decide), rfl, ready_of (by decide), rfl, ready_of (by decide), ready_of (by decide), ready_of (by decide), ready_of (by decide), by decide,
    ready_of (by decide), by decide⟩
theorem witness_BankActionsFollowR292_more :
    Ready (.bankAlloc 0) (ring 2) ∧ 2 ≤ (ringOf (curBank (ring 2))).toNat ∧ Ready (.bankReturn 3) (inBank 1 .ready) ∧ Ready (.bankClrev 0) up ∧ up.c.cur = 0 ∧
    Ready (.bankSwitch 2) (setCur (inBank 0 .ready) { curBank (inBank 0 .ready) with longs := [.g 5 7] }) :=
  ⟨ready_of (by decide), by decide, ready_of (by decide), ready_of (by decide), rfl, ready_of (by decide)⟩
theorem witness_SystemRegisterWrites_traps :
    systemRow (.ruledEnter true) = some 0x50 ∧ Ready (.ruledEnter true) (ring 1) ∧ 0 < (ringOf (curBank (ring 1))).toNat ∧ Ready (.ruledEnter true) waiting1 ∧
    waiting1.ca.sb ≠ [] ∧ waiting1.c.ruledEn = false ∧ Ready (.ruledEnter true) { up with c := { up.c with ruledEn := true } } ∧ Ready (.ruledExit true) up :=
  ⟨by decide, ready_of (by decide), by decide, ready_of (by decide), by decide, rfl, ready_of (by decide), ready_of (by decide)⟩

/-- Tally 15 as given. -/
def tally15 (x : Tally) : State := { up with tal := up.tal.set 15 x }
theorem witness_PlycAdvancesThePly :
    Ready .plyc up ∧ plycWaits up = false ∧ up.mir.en = false ∧ Ready .plyc (tally15 { pend := true }) ∧ plycWaits (tally15 { pend := true }) = true :=
  ⟨ready_of (by decide), by decide, rfl, ready_of (by decide), by decide⟩
theorem witness_TallySamplesAreQueued :
    let x : Tally := { src := 0x46 }
    let y : Tally := { src := 6, queue := List.replicate 64 ⟨0, none, 0⟩ }
    Ready (.tally 15 31 0) up ∧ fieldN up.tal[(15 : TallyNum)].src 3 0 ≠ 6 ∧
    Ready (.tally 15 31 0) (tally15 x) ∧ fieldN (tally15 x).tal[(15 : TallyNum)].src 3 0 = 6 ∧ (tally15 x).tal[(15 : TallyNum)].queue.length < 64 ∧
    Ready (.tally 15 31 0) (tally15 y) ∧ fieldN (tally15 y).tal[(15 : TallyNum)].src 3 0 = 6 ∧ 64 ≤ (tally15 y).tal[(15 : TallyNum)].queue.length :=
  ⟨ready_of (by decide), by decide, ready_of (by decide), by decide, by decide, ready_of (by decide), by decide, by decide⟩
theorem witness_TallySamplesAreQueued_hardware :
    Live (tally15 { src := 5 }) ∧ domUse (tally15 { src := 5 }) dVellum = .ready ∧ selects (tally15 { src := 5 }).tal[(15 : TallyNum)].src .boardIdle = true ∧
    selects (tally15 { src := 0x3F01 }).tal[(15 : TallyNum)].src (.request 63) = true ∧ selects (tally15 { src := 0x802 }).tal[(15 : TallyNum)].src (.fabricRead 3) = true ∧
    selects (tally15 { src := 0x802 }).tal[(15 : TallyNum)].src (.fabricRead 0) = false ∧ domUse State.reset dVellum = .off :=
  ⟨⟨rfl, rfl⟩, by decide, by decide, by decide, by decide, by decide, by decide⟩
theorem witness_TallySamplesAreQueued_key : let s := setCur (tally15 { src := 0x46 }) { curBank up with longs := [.g 3 0] }
    Ready (.tally 15 31 3) s ∧ fieldN s.tal[(15 : TallyNum)].src 3 0 = 6 ∧ bit s.tal[(15 : TallyNum)].src 6 = true ∧ gPending (curBank s) 3 = true :=
  ⟨ready_of (by decide), by decide, by decide, by decide⟩
theorem witness_TallyFoldsItsSamples :
    let s := tally15 { queue := [⟨0, none, 0⟩], pend := true }
    Live s ∧ domRuns s dVellum = true ∧ s.vellumZeroing = false ∧ s.tal[(15 : TallyNum)].queue = (⟨0, none, 0⟩ : Sample) :: [] ∧
    bit s.tal[(15 : TallyNum)].src 4 = false ∧ bit s.tal[(15 : TallyNum)].src 5 = false ∧ spWf 0 s.tal[(15 : TallyNum)].live.hist = true ∧
    s.tal[(15 : TallyNum)].pend = true ∧ (∀ p ∈ s.tal[(15 : TallyNum)].queue, p.ply = s.c.ply) ∧ up.tal[(15 : TallyNum)].queue = [] :=
  ⟨⟨rfl, rfl⟩, by decide, rfl, rfl, by decide, by decide, rfl, rfl, by decide, rfl⟩
theorem witness_TalsrcWrites :
    Ready (.talsrcClr 15 0x87) (ring 2) ∧ (ringOf (curBank (ring 2))).toNat ≤ 2 ∧ (ring 2).tal[(15 : TallyNum)].qlock = false ∧
    Ready (.talsrcReconfig 15 0x36) up ∧ Ready (.talsrcReconfig 15 0x36) (tally15 { qlock := true }) ∧
    (tally15 { qlock := true }).tal[(15 : TallyNum)].qlock = true ∧ Ready (.talsrcClr 15 0x87) (ring 3) ∧ (ringOf (curBank (ring 3))).toNat = 3 :=
  ⟨ready_of (by decide), by decide, rfl, ready_of (by decide), ready_of (by decide), rfl, ready_of (by decide), by decide⟩

/-- An operation of bank 0 on tile 5, numbered 7. -/
def op5 (kind : OpKind) : Op := { id := 7, kind := kind, cap := ⟨0, 0, 0, false⟩, t := 5, n := 1, started := true, qseq := 7 }
/-- Tile 5 as given, with the accepted operations. -/
def tile5 (x : Tile) (l : List Op) : State := { up with tiles := up.tiles.set 5 x, ops := l, nextOp := 8 }
def tile1 : Tile := { rowsm1 := 0, rbm1 := 0, etype := 1, mx := true, st := .ready, base := .ready }
theorem tile_ready {c : Instr} {s : State} (h : readyB c s = true) (h2 : domUse s dTile = .ready) : TileReady c s := ⟨ready_of h, h2⟩
theorem witness_TileConfiguration :
    TileReady (.tcfgImm 15 0x3FF 0xF 0 false) up ∧ tileOwned up 15 ∧ descFault up.var 0x3FF 0xF 0 false = none ∧ tileIdle up 15 ∧
    up.tiles[(15 : TReg)].st ≠ .incomplete ∧ TilesCanonical up ∧
    TileReady (.tcfgReg 15 2) up ∧ (rg (curBank up) 2).setWidth 10 = (0 : BitVec 10) ∧ fieldN (rg (curBank up) 2) 13 10 = 0 ∧
    descFault up.var 0 0 12 false = some 3 ∧ descFault up.var 0 0 3 false = some 2 ∧ descFault up.var 0x3FF 0xF 0 true = some 3 ∧
    TileReady (.tcfgImm 15 0 0 12 false) up ∧ TileReady (.tcfgRead 31 15) up :=
  ⟨tile_ready (by decide) (by decide), .inl rfl, by decide, by intro o h; simp [up, State.reset] at h, by decide, by unfold TilesCanonical; decide,
    tile_ready (by decide) (by decide), by decide, by decide, by decide, by decide, by decide, tile_ready (by decide) (by decide),
    tile_ready (by decide) (by decide)⟩
/-- Tile 5 belongs to bank 2. -/
def others5 : State := { up with tiles := up.tiles.set 5 { up.tiles[(5 : TReg)] with ownAny := false, ownBank := 2 } }
theorem witness_TileConfiguration_owner : TileReady (.tcfgImm 5 0 0 0 false) others5 ∧ ¬ tileOwned others5 5 ∧ TileReady (.tld 5 0 1 2 3) others5 ∧
    TileReady (.tzero 5) others5 ∧ TileReady (.tmov 5 1) others5 ∧ TileReady (.tmov 1 5) others5 ∧ tileOwned others5 1 ∧ TileReady (.vtrd 1 5 2) others5 ∧
    TileReady (.tcfgImm 5 0 0 0 false) (tile5 tile1 [op5 .tld]) ∧ ¬ tileIdle (tile5 tile1 [op5 .tld]) 5 :=
  ⟨tile_ready (by decide) (by decide), by unfold tileOwned; decide, tile_ready (by decide) (by decide), tile_ready (by decide) (by decide), tile_ready (by decide) (by decide),
    tile_ready (by decide) (by decide), .inl rfl, tile_ready (by decide) (by decide), tile_ready (by decide) (by decide), fun h => absurd (h _ (List.mem_singleton.2 rfl)) (by decide)⟩
theorem witness_TileOperationsAreAccepted :
    TileReady (.tld 15 0 1 2 63) up ∧ TileReady (.tst 0 0 1 2 63) up ∧ domUse up dStream = .ready ∧ tileOwned up 15 ∧
    up.tiles[(15 : TReg)].st ≠ .incomplete ∧ queueRoom up 63 = true ∧ (∀ x ∈ up.ops, x.left = false) ∧ TileReady (.trel 15) up ∧
    TileReady (.tzero 15) up ∧ TileReady (.tmov 15 0) up ∧ TileReady (.tmov 15 15) up :=
  ⟨tile_ready (by decide) (by decide), tile_ready (by decide) (by decide), by decide, .inl rfl, by decide, by decide, by decide,
    tile_ready (by decide) (by decide), tile_ready (by decide) (by decide), tile_ready (by decide) (by decide), tile_ready (by decide) (by decide)⟩
/-- Tile 5 after a transfer that failed. -/
def failed5 : State := tile5 { tile1 with st := .incomplete, progFault := true } [{ op5 .tld with started := false, left := true }]
theorem witness_TileStatesAndResumption :
    TileReady (.trdyW 1 0x8001) up ∧ (∀ k : TReg, bit (0x8001 : BitVec 16) k.val = true → up.tiles[k].st ≠ .pending) ∧
    TileReady (.trdyW 1 0x20) (tile5 { tile1 with st := .pending } []) ∧ bit (0x20 : BitVec 16) 5 = true ∧
    (tile5 { tile1 with st := .pending } []).tiles[(5 : TReg)].st = .pending ∧ TileReady (.trdy 1 0xFFFF) up ∧
    TileReady (.tresume 15) up ∧ up.tiles[(15 : TReg)].st ≠ .incomplete ∧ TileReady (.tresume 5) failed5 ∧
    failed5.tiles[(5 : TReg)].st = .incomplete ∧ tileOwned failed5 5 ∧
    (failed5.ops.find? fun o => o.left && o.t == 5) = some { op5 .tld with started := false, left := true } ∧
    (ringOf (curBank failed5)).toNat ≤ 0 ∧ domUse failed5 dStream = .ready ∧ queueRoom failed5 0 = true :=
  ⟨tile_ready (by decide) (by decide), by decide, tile_ready (by decide) (by decide), by decide, rfl, tile_ready (by decide) (by decide),
    tile_ready (by decide) (by decide), by decide, tile_ready (by decide) (by decide), rfl, .inl rfl, rfl, by decide, by decide, by decide⟩
theorem witness_TileOperationsAreAccepted_incomplete : let s := tile5 { tile1 with st := .incomplete } [{ op5 .tld with left := true }]
    TileReady (.tld 5 0 1 2 3) s ∧ tileOwned s 5 ∧ s.tiles[(5 : TReg)].st = .incomplete ∧ TileReady (.tzero 5) s ∧ (∃ x ∈ s.ops, x.left = true ∧ x.t = 5 ∧ x.kind = .tld) ∧
    NoInjection s ∧ TileReady (.tmov 5 1) s ∧ TileReady (.tmov 1 5) s ∧ tileOwned s 1 ∧ s.tiles[(1 : TReg)].st ≠ .incomplete ∧ TileReady (.vtrd 1 5 2) s :=
  ⟨tile_ready (by decide) (by decide), .inl rfl, rfl, tile_ready (by decide) (by decide), ⟨_, List.mem_singleton.2 rfl, rfl, rfl, rfl⟩, ⟨rfl, rfl⟩, tile_ready (by decide) (by decide),
    tile_ready (by decide) (by decide), .inl rfl, by decide, tile_ready (by decide) (by decide)⟩
def streamOff (s : State) : State := { s with heldOff := 0x80, dom := s.dom.set 7 {} }
theorem witness_TileStatesAndResumption_more :
    TileReady (.tresume 5) (streamOff failed5) ∧ domUse (streamOff failed5) dStream = .off ∧ tileOp (op5 .tld) = true ∧ onlyOp (streamOff failed5) { op5 .tld with started := false, left := true } ∧
    (streamOff failed5).sq[(0 : QNum)].recv = false ∧ TileReady (.tresume 5) { failed5 with banks := (ring 2).banks } ∧ 0 < (ringOf (curBank { failed5 with banks := (ring 2).banks })).toNat ∧
    TileReady (.tresume 5) { failed5 with dom := up.dom.set 7 { up.dom[(7 : Fin 32)] with st := .sleepDown } } ∧
    domUse { failed5 with dom := up.dom.set 7 { up.dom[(7 : Fin 32)] with st := .sleepDown } } dStream = .asleep :=
  ⟨tile_ready (by decide) (by decide), by decide, rfl, by unfold onlyOp; decide, rfl, tile_ready (by decide) (by decide), by decide, tile_ready (by decide) (by decide), by decide⟩
theorem witness_VectorTileRows :
    let s := tile5 tile1 []
    TileReady (.vtrdS 31 5 0) s ∧ domUse s dVec = .ready ∧ tileOwned s 5 ∧ s.tiles[(5 : TReg)].st ≠ .incomplete ∧
    (∀ o ∈ s.ops, opWrites o 5 = false ∧ (opReads o 5 = true → readDone o = true)) ∧ (rg (curBank s) 0).toNat < tileRows (accTile s 5) ∧ (accTile s 5).mx = true ∧
    s.tiles[(5 : TReg)].st ≠ .pending ∧ TileReady (.vtwrS 31 5 0) s ∧ TileReady (.vtrd 31 5 0) s ∧ TileReady (.vtwr 31 5 0) s ∧ NoInjection s ∧ TilesCanonical s ∧
    tileRows (accTile s 5) ≤ (rg (curBank (setCur s (wg (curBank s) 0 1))) 0).toNat :=
  ⟨tile_ready (by decide) (by decide), by decide, .inl rfl, by decide, by intro o h; simp [tile5] at h, by decide, rfl,
    by decide, tile_ready (by decide) (by decide), tile_ready (by decide) (by decide), tile_ready (by decide) (by decide), ⟨rfl, rfl⟩, by unfold TilesCanonical; decide, by decide⟩
theorem witness_VectorTileRows_traps : let s := tile5 { tile1 with mx := false } []
    TileReady (.vtrdS 31 5 0) s ∧ (rg (curBank s) 0).toNat < tileRows (accTile s 5) ∧ (accTile s 5).mx = false ∧
    TileReady (.vtrd 1 5 2) (tile5 { tile1 with st := .pending } [op5 .tld]) ∧ (tile5 { tile1 with st := .pending } [op5 .tld]).tiles[(5 : TReg)].st = .pending ∧
    TileReady (.vtwr 1 5 2) (tile5 { tile1 with st := .pending } [op5 .tld]) ∧
    ¬ (∀ o ∈ (tile5 { tile1 with st := .pending } [op5 .tld]).ops, opWrites o 5 = false ∧ (opReads o 5 = true → readDone o = true)) :=
  ⟨tile_ready (by decide) (by decide), by decide, rfl, tile_ready (by decide) (by decide), rfl, tile_ready (by decide) (by decide), by decide⟩
theorem witness_TileOperationsComplete_release :
    let s := tile5 tile1 [{ op5 .tzero with started := false }]
    Live s ∧ (s.ops.find? fun o => o.id == 7 && !o.started && !onQueue o && o.kind != .remap && mayWork s o) =
      some { op5 .tzero with started := false } := ⟨⟨rfl, rfl⟩, by decide⟩
/-- A translation of page 0 to itself, cached for the stream engine, and a context that uses it. -/
def ttb1 : W64 := 0x1000000000000000
def paged (s : State) : State :=
  { s with ca := { s.ca with stlb := [⟨0, 12, 0x0C000000000001FD, 0, 0⟩], scrTlb := Vector.replicate 16 [⟨0, 12, 0x0C000000000001FD, 0, 0⟩] } }
def opP (kind : OpKind) : Op := { op5 kind with cap := ⟨0, 0, ttb1, false⟩ }
set_option maxRecDepth 20000 in
theorem witness_TileOperationsComplete_row : ∃ s1 o1 s2 s3 d sc,
    let s := paged (tile5 tile1 [opP .tld])
    Live s ∧ liveTransfer s 5 = some (opP .tld) ∧ 0 < (opP .tld).n ∧ isLineMoved (opP .tld) 0 = false ∧ mayWork s (opP .tld) = true ∧
    issueTo tileIssuer 7 0 0 (poolSize + 1) s = s1 ∧ s1.ops.find? (·.id == 7) = some o1 ∧ outOf o1 0 ≠ 0 ∧ o1.kind = .tld ∧ o1.stop = none ∧ unreported s1 o1.q = none ∧
    streamRead o1.cap true (rowParts s1.tiles[o1.t] o1 0).1 s1 = .done s2 d ∧ streamRead o1.cap true (rowParts s1.tiles[o1.t] o1 0).2 s2 = .done s3 sc ∧
    noneWritten s1 ∧ NoInjection s ∧ TilesCanonical s := by
  refine ⟨_, _, _, _, _, _, ⟨rfl, rfl⟩, by decide, by decide, by decide, by decide, rfl, rfl, by decide, rfl, rfl, by decide, rfl, rfl, ?_, ⟨rfl, rfl⟩, by unfold TilesCanonical; decide⟩
  unfold noneWritten; decide
set_option maxRecDepth 20000 in
theorem witness_TileOperationsComplete_rowOut : ∃ s1 o1 s2 s3 f1 f2,
    let s := paged (tile5 tile1 [opP .tst])
    Live s ∧ liveTransfer s 5 = some (opP .tst) ∧ isLineMoved (opP .tst) 0 = false ∧ mayWork s (opP .tst) = true ∧
    issueTo tileIssuer 7 0 0 (poolSize + 1) s = s1 ∧ s1.ops.find? (·.id == 7) = some o1 ∧ outOf o1 0 ≠ 0 ∧ o1.kind = .tst ∧ o1.stop = none ∧ unreported s1 o1.q = none ∧
    (let x := s1.tiles[o1.t]
     streamWrite o1.cap true (fun j => x.bad.contains (256 * 0 + j / 8)) (toBytes (tileBytes x) (tileRow x 0)) (rowParts x o1 0).1 s1 = .done s2 f1 ∧
     streamWrite o1.cap true (fun j => x.bad.contains (256 * 0 + 128 + j / 8)) (toBytes (tileScales x) (tileScale x 0)) (rowParts x o1 0).2 s2 = .done s3 f2) :=
  ⟨_, _, _, _, _, _, ⟨rfl, rfl⟩, by decide, by decide, by decide, rfl, rfl, by decide, rfl, rfl, by decide, rfl, rfl⟩
theorem witness_TileOperationsComplete_transfer : ∀ k ∈ [OpKind.tld, OpKind.tst],
    let s := tile5 tile1 [{ op5 k with prog := 1 }]
    Live s ∧ liveTransfer s 5 = some { op5 k with prog := 1 } ∧ ({ op5 k with prog := 1 } : Op).n ≤ 1 ∧ writesVisible s .unit = true ∧
    (∀ x ∈ s.ops, x.id ≠ 7 → opWrites x 5 = false ∧ x.left = false) ∧ s.tiles[(5 : TReg)].st ≠ .incomplete ∧ s.sq[(0 : QNum)].recv = false ∧
    unreported s 0 = none ∧ { op5 k with prog := 1 } ∈ queueOps s 0 ∧ (∀ x ∈ s.ops, x.id = 7 → x = { op5 k with prog := 1 }) ∧
    ({ op5 k with prog := 1 } : Op).stop = none ∧ ({ op5 k with prog := 1 } : Op).written = [] ∧ ({ op5 k with prog := 1 } : Op).out = [] := by
  intro k hk
  rcases List.mem_cons.1 hk with rfl | hk
  · exact ⟨⟨rfl, rfl⟩, by decide, by decide, by decide, by decide, by decide, rfl, by decide, by decide, by decide, rfl, rfl, rfl⟩
  · rcases List.mem_singleton.1 hk with rfl
    exact ⟨⟨rfl, rfl⟩, by decide, by decide, by decide, by decide, by decide, rfl, by decide, by decide, by decide, rfl, rfl, rfl⟩
theorem witness_TileOperationsComplete_waiting : let o := { op5 .tst with written := [0] }
    let s := tile5 tile1 [o]
    liveTransfer s 5 = some o ∧ o.prog < o.n ∧ writesVisible s .unit = true ∧ (∀ x ∈ s.ops, x.id ≠ o.id → x.written = []) ∧ onlyOp s o ∧ o.stop = none ∧ unreported s o.q = none ∧
    liveTransfer (tile5 tile1 [{ op5 .tld with out := [(0, 1), (1, 1)], n := 2 }]) 5 = some { op5 .tld with out := [(0, 1), (1, 1)], n := 2 } :=
  ⟨by decide, by decide, by decide, by decide, by unfold onlyOp; decide, rfl, by decide, by decide⟩
theorem witness_TileOperationsComplete_performed :
    Live up ∧ workingOp (tile5 tile1 [op5 .tzero]) .tzero 5 = some (op5 .tzero) ∧ workingOp (tile5 tile1 [op5 .trel]) .trel 5 = some (op5 .trel) ∧
    workingOp (tile5 tile1 [op5 .tmov]) .tmov 5 = some (op5 .tmov) ∧ (op5 .tmov).ts ≠ 5 ∧
    (∀ x ∈ (tile5 tile1 [op5 .tzero]).ops, x.id ≠ 7 → opWrites x 5 = false ∧ x.left = false) :=
  ⟨⟨rfl, rfl⟩, by decide, by decide, by decide, by decide, by decide⟩

/-- Tile 5 as given, the board's accepted operations, and the board as changed. -/
def board5 (x : Tile) (l : List Op) (f : Board → Board) : State := { tile5 x l with bd := f up.bd }
def i8 : Tile := { rowsm1 := 0, rbm1 := 0, etype := 8, st := .ready, base := .ready }
def loaded (b : Board) : Board := { b with acc := b.acc.set 0 ⟨true, 8, 0, false, 1⟩ }
theorem witness_BoardOperationsAreAccepted :
    let s := board5 i8 [] loaded
    domUse s dBoard = .ready ∧ boardRoom s = true ∧ TileReady (.bplane 5) s ∧ tileOwned s 5 ∧ s.tiles[(5 : TReg)].st ≠ .incomplete ∧
    bplaneFault s 5 = none ∧ (∀ o ∈ s.ops, o.kind ≠ .tmov) ∧ Ready .bswap s ∧ TileReady (.brun 5 0 1 true) s ∧
    brunFault s (curBank s) 5 0 true = none :=
  ⟨by decide, by decide, tile_ready (by decide) (by decide), .inl rfl, by decide, by decide, by intro o h; simp [board5, tile5] at h,
    ready_of (by decide), tile_ready (by decide) (by decide), by decide⟩
theorem witness_BoardOperationsAreAccepted_turnedAway :
    let s := board5 { i8 with st := .incomplete } [] loaded
    let f := board5 i8 (List.replicate 8 (op5 .bswap)) loaded
    let b := board5 { i8 with ownAny := false, ownBank := 3 } [] id
    TileReady (.bplane 5) s ∧ tileOwned s 5 ∧ s.tiles[(5 : TReg)].st = .incomplete ∧ TileReady (.brun 5 0 1 true) s ∧
    TileReady (.bplane 5) f ∧ bplaneFault f 5 = none ∧ boardRoom f = false ∧ f.tiles[(5 : TReg)].st ≠ .incomplete ∧
    TileReady (.brun 5 0 1 false) (board5 i8 [] id) ∧ (brunFault (board5 i8 [] id) (curBank up) 5 0 false).isSome = true ∧
    TileReady (.bplane 5) b ∧ ¬ tileOwned b 5 :=
  ⟨tile_ready (by decide) (by decide), .inl rfl, rfl, tile_ready (by decide) (by decide), tile_ready (by decide) (by decide), by decide, by decide, by decide,
    tile_ready (by decide) (by decide), by decide, tile_ready (by decide) (by decide), by unfold tileOwned; decide⟩
def full : State := { up with ops := List.replicate 8 (op5 .bswap), stall := some .bswap }
theorem witness_NinthBoardOperationWaits :
    Ready .bswap full ∧ domUse full dBoard = .ready ∧ 8 ≤ (full.ops.filter onBoard).length ∧ full.stall = some .bswap ∧ waitsForUnit .bswap = true ∧
    Live up ∧ up.stall = none ∧ Ready .bswap { up with stall := some .bswap } ∧ boardRoom up = true :=
  ⟨ready_of (by decide), by decide, by decide, rfl, rfl, ⟨rfl, rfl⟩, rfl, ready_of (by decide), by decide⟩
theorem witness_BoardEvents :
    let p : Op := op5 .bplane
    let w : Op := { op5 .bswap with prog := 0 }
    let r : Op := { op5 .brun with n := 1 }
    Live up ∧ ((board5 i8 [p] id).ops.find? fun o => o.kind == .bplane && o.port == 0) = some p ∧ p.started = true ∧ (board5 i8 [p] id).bd.released = true ∧
    ((earlier (board5 i8 [p] id) p).any fun e => e.kind == .bplane || e.kind == .remap || (e.kind == .bswap && e.prog == 0)) = false ∧
    ((board5 i8 [{ p with port := 1 }] id).ops.find? fun o => o.kind == .bplane && o.port == 1) = some { p with port := 1 } ∧
    edgeOp (board5 i8 [w] id).ops = some w ∧ ((earlier (board5 i8 [w] id) w).any fun e => e.kind == .bplane) = false ∧
    (board5 i8 [w] fun b => { b with flight := [.swap 7] }).bd.flight = .swap 7 :: [] ∧
    (board5 i8 [] fun b => { b with released := false }).bd.released = false ∧
    edgeOp (board5 i8 [r] id).ops = some r ∧ (board5 i8 [r] id).bd.entered ≤ (board5 i8 [r] id).bd.duty.toNat ∧ (board5 i8 [r] id).inkZeroing = false ∧
    domRuns (board5 i8 [r] id) dBoard = true ∧ serviceHolds (earlier (board5 i8 [r] id) r) 0 = false ∧
    ((board5 i8 [{ op5 .remap with remap := [(7, 5)] }] id).ops.find? fun o => o.kind == .remap) = some { op5 .remap with remap := [(7, 5)] } ∧
    (earlier (board5 i8 [{ op5 .remap with remap := [(7, 5)] }] id) { op5 .remap with remap := [(7, 5)] }).any onBoard = false :=
  ⟨⟨rfl, rfl⟩, by decide, rfl, rfl, by decide, by decide, by decide, by decide, rfl, rfl, by decide, by decide, rfl, by decide, by decide, by decide, by decide⟩
theorem witness_ResultRowsAreCombined :
    let s := board5 i8 [{ op5 .brun with prog := 1 }] fun b => { b with flight := [.row 7 0 [(1023, 5)]] }
    Live s ∧ s.bd.flight = .row 7 0 [(1023, 5)] :: [] ∧ (s.ops.find? fun o => o.id == 7) = some { op5 .brun with prog := 1 } ∧ spWf 0 s.ink = true :=
  ⟨⟨rfl, rfl⟩, rfl, by decide, rfl⟩
/-- An output type of one byte, 64 entries from the first on. -/
def bytes64 : DrainOpts := ⟨8, false, false, false, 0, 0, 0⟩
theorem witness_InkwellInstructions :
    let s := board5 i8 [] id
    let s1 := setCur s (wg (curBank s) 1 0x1000)
    Ready (.bmode 5) s ∧ Ready (.iclr 0 0) s ∧ domUse s dBoard = .ready ∧ rg (curBank s) 0 = 0 ∧ Ready (.iclr 0 1) s1 ∧ rg (curBank s1) 1 ≠ 0 ∧
    inkBase (curBank s1) 0 + (rg (curBank s1) 1).toNat ≤ inkRows s1.var ∧ boardRoom s = true ∧
    TileReady (.idrainTile 0 5 { bytes64 with otype := 0, sr := true }) (board5 { i8 with rowsm1 := 1 } [] id) ∧ tileOwned s 5 ∧
    drainTileFault (board5 { i8 with rowsm1 := 1 } [] id) (curBank s) 0 5 { bytes64 with otype := 0, sr := true } = none ∧
    (∀ o ∈ s.ops, o.kind ≠ .tmov ∧ o.left = false) ∧ Ready (.idrainVector 0 31 bytes64) s ∧ domUse s dVec = .ready ∧ drainFits s bytes64 = true ∧
    inkBase (curBank s) 0 < inkRows s.var ∧ s.inkZeroing = false ∧ writeHolds s.ops (inkBase (curBank s) 0) = false ∧
    Ready (.idrainMemory 0 1 2 63 bytes64) s ∧ domUse s dStream = .ready ∧ inkBase (curBank s) 0 + (fieldN (rg (curBank s) 2) 44 32 + 1) ≤ inkRows s.var ∧
    queueRoom s 63 = true :=
  ⟨ready_of (by decide), ready_of (by decide), by decide, by decide, ready_of (by decide), by decide, by decide, by decide,
    tile_ready (by decide) (by decide), .inl rfl, by decide, by intro o h; simp [board5, tile5] at h, ready_of (by decide), by decide, by decide,
    by decide, rfl, by decide, ready_of (by decide), by decide, by decide, by decide⟩
theorem witness_InkwellInstructions_waiting :
    let z := { board5 i8 [] id with inkZeroing := true }
    let f := board5 i8 (List.replicate 8 (op5 .bswap)) id
    let w : DrainOpts := { bytes64 with nent := 1, ecol := 15 }
    Ready (.idrainVector 0 31 bytes64) z ∧ z.inkZeroing = true ∧ Ready (.iclr 0 1) (setCur f (wg (curBank f) 1 1)) ∧ boardRoom f = false ∧
    Ready (.idrainMemory 0 1 2 63 bytes64) f ∧ Ready (.idrainVector 0 31 w) up ∧ drainFits up w = false ∧ Ready (.idrainMemory 0 1 2 0 w) up ∧
    TileReady (.idrainTile 0 5 { bytes64 with otype := 0 }) (board5 { i8 with st := .incomplete } [] id) ∧
    TileReady (.idrainTile 0 5 { bytes64 with otype := 0 }) (board5 i8 [] id) ∧ (drainTileFault (board5 i8 [] id) (curBank up) 0 5 { bytes64 with otype := 0 }).isSome = true :=
  ⟨ready_of (by decide), rfl, ready_of (by decide), by decide, ready_of (by decide), ready_of (by decide), by decide, ready_of (by decide),
    tile_ready (by decide) (by decide), tile_ready (by decide) (by decide), by decide⟩
theorem witness_InkwellRangeFaults :
    let s := setCur up (wg (curBank up) 1 0xFFFFFFFFFFFFFFFF)
    Ready (.iclr 0 1) s ∧ domUse s dBoard = .ready ∧ rg (curBank s) 1 ≠ 0 ∧ inkRows s.var < inkBase (curBank s) 0 + (rg (curBank s) 1).toNat :=
  ⟨ready_of (by decide), by decide, by decide, by decide⟩
theorem witness_InkwellOperationsComplete :
    let c : Op := op5 .iclr
    let d : Op := op5 .idrainT
    let m : Op := { op5 .idrainM with prog := 1 }
    Live up ∧ ((board5 i8 [c] id).ops.find? fun o => o.kind == .iclr) = some c ∧ serviceReady (board5 i8 [c] id) c = true ∧
    (∀ i, i < c.n → serviceHolds (earlier (board5 i8 [c] id) c) (c.base + i) = false) ∧ spWf 0 (board5 i8 [c] id).ink = true ∧
    workingOp (board5 i8 [d] id) .idrainT 5 = some d ∧ serviceReady (board5 i8 [d] id) d = true ∧
    (∀ x ∈ (board5 i8 [d] id).ops, x.id ≠ d.id → opWrites x 5 = false ∧ x.left = false) ∧ liveDrain (board5 i8 [m] id) 0 = some m ∧ m.n ≤ m.prog ∧
    writesVisible (board5 i8 [m] id) .unit = true ∧ queueHead (board5 i8 [m] id) 0 = some m ∧ ({ up with inkZeroing := true } : State).inkZeroing = true :=
  ⟨⟨rfl, rfl⟩, by decide, by decide, by decide, rfl, by decide, by decide, by decide, by decide, by decide, by decide, by decide, rfl⟩
theorem witness_InkwellOperationsComplete_waiting : let m : Op := op5 .idrainM
    liveDrain (board5 i8 [m] id) 0 = some m ∧ m.prog < m.n ∧ (∀ x ∈ (board5 i8 [m] id).ops, x.written = []) ∧ NoInjection (board5 i8 [m] id) ∧
    portAdvance (board5 i8 [op5 .iclr] id) (op5 .iclr) = board5 i8 [op5 .iclr] id ∧ TilesCanonical (board5 i8 [] id) :=
  ⟨by decide, by decide, by decide, ⟨rfl, rfl⟩, rfl, by unfold TilesCanonical; decide⟩

def queue5 (x : SQueue) (l : List Op) : State := paged { tile5 i8 l with sq := up.sq.set 5 x }
def smove5 : Op := { op5 .smove with q := 5, started := false }
theorem witness_StreamInstructions :
    let s := setCur up (wg (curBank up) 2 0x7F)
    domUse up dStream = .ready ∧ Ready (.smove 63 0) up ∧ (rg (curBank up) 0).toNat % 64 = 0 ∧ queueRoom up 63 = true ∧ domUse s dStream = .ready ∧
    Ready (.smove 5 2) s ∧ (rg (curBank s) 2).toNat % 64 ≠ 0 ∧ Ready (.smove 5 0) (queue5 {} (List.replicate 32 smove5)) ∧
    queueRoom (queue5 {} (List.replicate 32 smove5)) 5 = false ∧ Ready (.sqstat 31 63 4) up ∧ Ready (.sqwait 31 63) up ∧ sqwaitEnds up 63 = true ∧
    Ready (.sqwait 31 5) (queue5 {} [smove5]) ∧ sqwaitEnds (queue5 {} [smove5]) 5 = false :=
  ⟨by decide, ready_of (by decide), by decide, by decide, by decide, ready_of (by decide), by decide, ready_of (by decide), by decide,
    ready_of (by decide), ready_of (by decide), by decide, ready_of (by decide), by decide⟩
def stopped5 : State :=
  queue5 { recv := true, faulted := some 7 } [{ smove5 with started := true, stop := some ⟨7, 0, 0, false, 0, 0, true, false⟩, n := 3, prog := 1 }]
theorem witness_StreamQueueControl :
    let s := setCur stopped5 { curBank stopped5 with fl := 0x100 }
    Ready (.sqctlRestart 5 0) s ∧ domUse s dStream = .ready ∧ s.sq[(5 : QNum)].recv = true ∧ fieldN s.sq[(5 : QNum)].w1 13 12 < (ringOf (curBank s)).toNat ∧
    Ready (.sqctlRestartAt 5 0) stopped5 ∧ domUse stopped5 dStream = .ready ∧ (ringOf (curBank stopped5)).toNat ≤ 1 ∧
    (ringOf (curBank stopped5)).toNat ≤ fieldN stopped5.sq[(5 : QNum)].w1 13 12 ∧ stopped5.sq[(5 : QNum)].faulted = some 7 ∧ unreported stopped5 5 = none ∧
    (∀ x ∈ stopped5.ops, x.id = 7 → ∀ st, x.stop = some st → st.early = false) ∧ Ready (.sqctlClear 5 0) up ∧ up.sq[(5 : QNum)].faulted = none ∧
    up.sq[(5 : QNum)].recv = false ∧ Ready (.sqctlAbandon 5 0) (queue5 { recv := true } []) ∧ (queue5 { recv := true } []).sq[(5 : QNum)].recv = true ∧
    (queue5 { recv := true } []).sq[(5 : QNum)].faulted = none ∧ unreported (queue5 { recv := true } []) 5 = none :=
  ⟨ready_of (by decide), by decide, rfl, by decide, ready_of (by decide), by decide, by decide, by decide, rfl, by decide,
    by intro x hx _ st hs; rcases List.mem_singleton.1 hx with rfl; cases hs; rfl, ready_of (by decide), rfl, rfl, ready_of (by decide), rfl, rfl, by decide⟩
theorem witness_StreamQueueControl_held :
    let st : Stop := ⟨7, 0, 0, false, 0x40, 0, false, false⟩
    let o : Op := { smove5 with stop := some st }
    let h := queue5 { recv := true } [o]
    let k := queue5 { recv := true, faulted := some 6 } [{ smove5 with id := 6, stop := some { st with recorded := true } }, o]
    Ready (.sqctlClear 5 0) h ∧ unreported h 5 = some (o, st) ∧ h.sq[(5 : QNum)].faulted = none ∧ h.sq[(5 : QNum)].recv = true ∧
    Ready (.sqctlRestart 5 0) k ∧ unreported k 5 = some (o, st) ∧ k.sq[(5 : QNum)].faulted = some 6 ∧ (6 : Nat) ≠ o.id ∧
    Ready (.sqctlClear 5 0) stopped5 ∧ Ready (.sqctlAbandon 5 0) stopped5 ∧ unreported stopped5 5 = none ∧ 1 < (ringOf (curBank (ring 2))).toNat ∧ Ready (.sqctlClear 5 0) (ring 2) :=
  ⟨ready_of (by decide), by decide, rfl, rfl, ready_of (by decide), by decide, rfl, by decide, ready_of (by decide), ready_of (by decide), by decide,
    by decide, ready_of (by decide)⟩
def zeros8 : Vector W64 8 := Vector.replicate 8 0
def smoveX : Op := { smove5 with cap := ⟨0, 0, ttb1, false⟩ }
set_option maxRecDepth 20000 in
theorem witness_StreamEngineEvents_taken : ∃ s1 bs,
    let s := queue5 {} [smoveX]
    streamRead smoveX.cap false (piecesOf smoveX.ga 64) s = .done s1 bs ∧
    descCause s1 smoveX (Vector.ofFn fun i => ofBytes 64 ((bs.drop (8 * i.val)).take 8)) = none := by
  refine ⟨_, _, rfl, ?_⟩
  decide
set_option maxRecDepth 20000 in
theorem witness_StreamEngineEvents_descriptor : ∃ s1 bs,
    let s := { queue5 {} [smoveX] with vellum := [(1, 2)] }
    let w : Vector W64 8 := Vector.ofFn fun i => ofBytes 64 ((bs.drop (8 * i.val)).take 8)
    Live s ∧ descNext s 5 = some smoveX ∧ streamRead smoveX.cap false (piecesOf smoveX.ga 64) s = .done s1 bs ∧ descCause s1 smoveX w = some (0x09, 0) ∧
    s1.sq[(5 : QNum)].recv = false ∧ unreported s1 5 = none ∧ onlyOp s1 smoveX ∧ smoveX.out = [] ∧ smoveX.written = [] := by
  refine ⟨_, _, ⟨rfl, rfl⟩, by decide, rfl, ?_, rfl, by decide, ?_, rfl, rfl⟩
  · decide
  · unfold onlyOp; decide
theorem witness_StreamEngineEvents_stop : ∃ s1 c va pa,
    let o : Op := { smoveX with ga := 0x8000000000000000 }
    let s := queue5 {} [o]
    descNext s 5 = some o ∧ streamRead o.cap false (piecesOf o.ga 64) s = .stop s1 c va pa ∧ s1.sq[(5 : QNum)].recv = false ∧ unreported s1 5 = none := by
  refine ⟨_, _, _, _, by decide, rfl, rfl, by decide⟩
def drain5 : Op := { op5 .idrainM with q := 5, cap := ⟨0, 0, ttb1, false⟩ }
theorem witness_StreamEngineEvents_start :
    let m : Op := { drain5 with started := false }
    let g : Op := { smove5 with desc := some (zeros8.set 0 0x40), n := 1 }
    Live up ∧ (firstOp (queue5 {} [m]) 5 fun o => !o.started && !o.done && !o.abandoned) = some m ∧ (queue5 {} [m]).sq[(5 : QNum)].faulted = none ∧
    m.stop = none ∧ m.desc = none ∧ mayWork (queue5 {} [m]) m = true ∧
    (firstOp (queue5 {} [g]) 5 fun o => !o.started && !o.done && !o.abandoned) = some g ∧ mayWork (queue5 {} [g]) g = true ∧ g.desc.isSome = true ∧
    (descOf (zeros8.set 0 0x40)).ord = true ∧ (∀ e ∈ queueOps (queue5 {} [g]) 5, e.qseq < g.qseq → e.done = true) :=
  ⟨⟨rfl, rfl⟩, by decide, rfl, rfl, rfl, by decide, by decide, by decide, rfl, by decide, by decide⟩
/-- A one-line SMOVE of eight bytes, from address 0 to address 0x100, and one from the inkwell. -/
def move8 : Op := { smoveX with desc := some ((zeros8.set 2 0x100).set 3 8), n := 1, started := true }
def moveInk : Op := { move8 with desc := some (((zeros8.set 0 1).set 2 0x100).set 3 320) }
set_option maxRecDepth 20000 in
theorem witness_StreamEngineEvents_request : ∃ s1 o1 s2 s3 bs fab,
    let s := queue5 {} [move8]
    let d := descOf ((zeros8.set 2 0x100).set 3 8)
    let off := movedOf o1 0
    let k := partLen d 0 off
    lineAt (movers s 5) 0 = some (move8, 0) ∧ isLineMoved move8 0 = false ∧ issueTo (issuerOf move8) move8.id 0 (movedOf move8 0) (poolSize + 1) s = s1 ∧
    s1.ops.find? (·.id == move8.id) = some o1 ∧ outOf o1 0 ≠ 0 ∧ o1.desc = some ((zeros8.set 2 0x100).set 3 8) ∧ (d.srcInk || d.dstInk) = false ∧
    streamRead o1.cap true (piecesOf (lineSrc d 0 off) k) s1 = .done s2 bs ∧
    (∀ j, j < k → overlaps d (lineSrc d 0 off + BitVec.ofNat 64 j) (lineDst d 0 off + BitVec.ofNat 64 j) = false) ∧
    streamWrite o1.cap true (fun _ => false) bs (piecesOf (lineDst d 0 off) bs.length) s2 = .done s3 fab ∧ opLive o1 = true ∧ onlyOp s1 o1 ∧ noneWritten s1 ∧ fab = false := by
  refine ⟨_, _, _, _, _, _, by decide, by decide, rfl, rfl, by decide, rfl, rfl, rfl, by decide, rfl, by decide, ?_, ?_, by decide⟩
  · unfold onlyOp; decide
  · unfold noneWritten; decide
theorem witness_StreamEngineEvents_inkwell : ∃ s1 o1,
    let s := queue5 {} [moveInk]
    let d := descOf (((zeros8.set 0 1).set 2 0x100).set 3 320)
    lineAt (movers s 5) 0 = some (moveInk, 0) ∧ isLineMoved moveInk 0 = false ∧ issueTo (issuerOf moveInk) moveInk.id 0 (movedOf moveInk 0) (poolSize + 1) s = s1 ∧
    s1.ops.find? (·.id == moveInk.id) = some o1 ∧ outOf o1 0 ≠ 0 ∧ o1.desc = some (((zeros8.set 0 1).set 2 0x100).set 3 320) ∧ d.srcInk = true ∧
    domUse s1 dBoard = .ready ∧ s1.inkZeroing = false ∧ ∃ s2 bs o2, smoveRead s1 o1 d 0 (movedOf o1 0) (partLen d 0 (movedOf o1 0)) = (.done s2 bs, o2) :=
  ⟨_, _, by decide, by decide, rfl, rfl, by decide, rfl, rfl, by decide, rfl, _, _, _, rfl⟩
/-- The same with the BOARD off, and with its inkwell being zeroed. -/
theorem witness_StreamEngineEvents_noInkwell :
    let s := queue5 {} [moveInk]
    let f := { s with heldOff := 0x40 }
    domUse f dBoard = .off ∧ lineAt (movers f 5) 0 = some (moveInk, 0) ∧ { s with inkZeroing := true }.inkZeroing = true ∧
    lineAt (movers { s with inkZeroing := true } 5) 0 = some (moveInk, 0) := ⟨by decide, by decide, rfl, by decide⟩
set_option maxRecDepth 20000 in
theorem witness_StreamEngineEvents_drain : ∃ s1 o1 s3 fab,
    let s := queue5 {} [drain5]
    let bs := carryOf o1 0
    let va := o1.ga + o1.gb * BitVec.ofNat 64 0 + BitVec.ofNat 64 (movedOf o1 0)
    let k := min (bs.length - movedOf o1 0) (64 - va.toNat % 64)
    lineAt (movers s 5) 0 = some (drain5, 0) ∧ isLineMoved drain5 0 = false ∧ issueTo (issuerOf drain5) drain5.id 0 (movedOf drain5 0) (poolSize + 1) s = s1 ∧
    s1.ops.find? (·.id == drain5.id) = some o1 ∧ outOf o1 0 ≠ 0 ∧ o1.desc = none ∧
    streamWrite o1.cap true (fun _ => false) ((bs.drop (movedOf o1 0)).take k) (piecesOf va k) s1 = .done s3 fab :=
  ⟨_, _, _, _, by decide, by decide, rfl, rfl, by decide, rfl, rfl⟩
theorem witness_StreamEngineEvents_fault : let s := queue5 {} [move8]
    accessCause 7 = true ∧ accessCause 9 = false ∧ s.sq[(5 : QNum)].recv = false ∧ unreported s 5 = none ∧ onlyOp s move8 ∧
    ((queueHead s 5).filter fun o => mayPost o && (smoveRecord o).any (·.1 == 0)) = none ∧
    ((descNext s 5).filter fun o => decide (((0 : W64) - o.ga).toNat < 64)) = none ∧ (movers s 5).head? = some move8 ∧ move8.stop = none ∧
    ((descNext (queue5 {} [smoveX]) 5).filter fun o => decide (((0 : W64) - o.ga).toNat < 64)) = some smoveX := by
  refine ⟨by decide, by decide, rfl, by decide, by unfold onlyOp; decide, by decide, by decide, by decide, rfl, by decide⟩
/-- An SMOVE that is complete, with a record to write at address 0x40 and an interrupt to raise. -/
def moved5 : Op := { smoveX with desc := some ((zeros8.set 0 0x180).set 6 0x40), n := 1, prog := 1, started := true }
set_option maxRecDepth 20000 in
theorem witness_StreamEngineEvents_posting : ∃ a x s1 f, let s := queue5 {} [moved5]
    Live s ∧ queueHead s 5 = some moved5 ∧ mayPost moved5 = true ∧ (∀ x ∈ s.ops, x.id ≠ moved5.id → x.done = false ∧ x.abandoned = false) ∧
    smoveRecord moved5 = some (a, x) ∧ streamWrite moved5.cap false (fun _ => false) (toBytes 8 x) [⟨a, 0, 8⟩] s = .done s1 f ∧
    (descOf ((zeros8.set 0 0x180).set 6 0x40)).irq = true ∧
    ((queueHead s 5).filter fun o => mayPost o && (smoveRecord o).any (·.1 == 0x40)) = some moved5 ∧
    smoveRecord { moved5 with desc := some zeros8 } = none ∧ mayPost { moved5 with desc := some zeros8 } = true ∧ (descOf zeros8).irq = false ∧
    mayPost { moved5 with prog := 0 } = false := by
  refine ⟨_, _, _, _, ⟨rfl, rfl⟩, by decide, by decide, by decide, rfl, rfl, rfl, by decide, rfl, by decide, rfl, by decide⟩
/-- Ring 31 as given. -/
def ring31 (r : Ring) : State := { up with rings := up.rings.set 31 r }
theorem witness_ScribeLaunchAndControl :
    let on := fun n : W64 => setCur (ring31 { en := true }) (wg (curBank up) 1 n)
    Ready (.slaunch 31 1) up ∧ up.rings[(31 : RingNum)].en = false ∧ Ready (.slaunch 31 1) (on 17) ∧
    2 ^ (on 17).rings[(31 : RingNum)].sizelog2.toNat < (rg (curBank (on 17)) 1).toNat ∧ Ready (.slaunch 31 1) (on 0) ∧ rg (curBank (on 0)) 1 = 0 ∧
    Ready (.slaunch 31 1) (on 16) ∧ (on 16).rings[(31 : RingNum)].en = true ∧ rg (curBank (on 16)) 1 ≠ 0 ∧
    ((on 16).rings[(31 : RingNum)].tail - (on 16).rings[(31 : RingNum)].done).toNat + (rg (curBank (on 16)) 1).toNat ≤
      2 ^ (on 16).rings[(31 : RingNum)].sizelog2.toNat ∧ (on 16).rings[(31 : RingNum)].done = (on 16).rings[(31 : RingNum)].tail :=
  ⟨ready_of (by decide), rfl, ready_of (by decide), by decide, ready_of (by decide), by decide, ready_of (by decide), rfl, by decide, by decide, rfl⟩
theorem witness_ScribeLaunchAndControl_waits :
    let s := setCur (ring31 { en := true, tail := 16 }) (wg (curBank up) 1 1)
    Ready (.slaunch 31 1) s ∧ s.rings[(31 : RingNum)].en = true ∧ rg (curBank s) 1 ≠ 0 ∧ (rg (curBank s) 1).toNat ≤ 2 ^ s.rings[(31 : RingNum)].sizelog2.toNat ∧
    2 ^ s.rings[(31 : RingNum)].sizelog2.toNat < (s.rings[(31 : RingNum)].tail - s.rings[(31 : RingNum)].done).toNat + (rg (curBank s) 1).toNat ∧
    Ready (.swctlAbort 31 0) s ∧ (ringOf (curBank s)).toNat ≤ 1 ∧ s.rings[(31 : RingNum)].done ≠ s.rings[(31 : RingNum)].tail ∧ Ready (.scrfltRecvClear 0) s ∧
    (0 : ScribeNum).val < scribeCount s.var ∧ s.scribes[(0 : ScribeNum)].waiting = [] :=
  ⟨ready_of (by decide), rfl, by decide, by decide, by decide, ready_of (by decide), by decide, by decide, ready_of (by decide), by decide, rfl⟩
/-- Ring 31 with one descriptor at HEAD, whose first word is given, dispatched by a machine whose domains are as given. -/
def head31 (w0 : W64) : State := ring31 { en := true, tail := 1, fetched := some ((Vector.replicate 8 0).set 0 w0, false) }
set_option maxRecDepth 20000 in
theorem witness_ScribeEvents_dispatch : ∃ s1,
    let s := ring31 { en := true, tail := 1 }
    Live s ∧ nextRing s = some 31 ∧ domRuns s dVellum = true ∧ s.vellumZeroing = false ∧ fetchDescriptor { s with lastRing := 31 } 31 = s1 ∧
    s1.rings[(31 : RingNum)].fetched = some (Vector.replicate 8 0, false) ∧ descOk s1 s1.rings[(31 : RingNum)] (Vector.replicate 8 0) = true ∧
    mostFree s1 ((descScribes s1 s1.rings[(31 : RingNum)] (Vector.replicate 8 0)).filter fun k => domUse s1 (dScribe k) != .off) = some 0 ∧
    descNt (Vector.replicate 8 0) ≤ freeThreads s1 0 ∧ domUse s1 (dScribe 0) = .ready := by
  refine ⟨_, ⟨rfl, rfl⟩, by decide, by decide, rfl, rfl, by decide, by decide, by decide, by decide, by decide⟩
theorem witness_ScribeEvents_turnedAway :
    let s := head31 0x400
    let u := { head31 0 with heldOff := 0xFFFF0000 }
    let z := { head31 0 with dom := up.dom.set 16 {} }
    nextRing s = some 31 ∧ (head31 0x400).rings[(31 : RingNum)].fetched.isSome = true ∧ fetchDescriptor { s with lastRing := 31 } 31 = { s with lastRing := 31 } ∧
    descOk s s.rings[(31 : RingNum)] ((Vector.replicate 8 0).set 0 0x400) = false ∧ s.scribes[(0 : ScribeNum)].recv = false ∧ s.scribes[(0 : ScribeNum)].waiting = [] ∧
    nextRing u = some 31 ∧ mostFree u ((descScribes u u.rings[(31 : RingNum)] (Vector.replicate 8 0)).filter fun k => domUse u (dScribe k) != .off) = none ∧
    nextRing z = some 31 ∧ domUse z (dScribe 0) = .asleep :=
  ⟨by decide, by decide, rfl, by decide, rfl, rfl, by decide, by decide, by decide, by decide⟩
def placed31 : Placed := { wring := 31, index := 0, scribe := 0, words := zeros8, next := 0, nt := 1 }
def thread31 : Thread := ⟨{ ttb := ttb1, fl := 0x300, st := .run }, 31, 0, false⟩
def scribe0 (l : List Placed) : State :=
  { paged (ring31 { en := true, tail := 1, head := 1 }) with
    placed := l, scribes := up.scribes.set 0 { threads := spSet none [] 127 (some thread31) } }
theorem witness_ScribeEvents_start :
    let s := scribe0 [placed31]
    Live s ∧ domRuns s (dScribe 0) = true ∧ (s.placed.find? fun p => p.scribe == 0 && p.next < p.nt) = some placed31 ∧
    ((List.finRange 128).find? fun t => (threadOf s 0 t).isNone) = some 0 ∧ spWf none s.scribes[(0 : ScribeNum)].threads = true :=
  ⟨⟨rfl, rfl⟩, by decide, by decide, by decide, by decide⟩
theorem witness_ScribeEvents_issue : ∃ s1,
    let s := scribe0 []
    threadIssue 0 127 thread31 s = .yes s1 ∧ Live s ∧ domRuns s (dScribe 0) = true ∧
    issueOrder { s.scribes[(0 : ScribeNum)] with last := 126 } = 127 :: (issueOrder { s.scribes[(0 : ScribeNum)] with last := 126 }).tail ∧
    threadOf s 0 127 = some thread31 ∧ thread31.stopped = false ∧ s.scribes[(0 : ScribeNum)].recv = false ∧ s.scribes[(0 : ScribeNum)].waiting = [] ∧
    limitOf (scribe0 [{ placed31 with words := zeros8.set 0 0x100000000 }]) thread31 = 1 :=
  ⟨_, rfl, ⟨rfl, rfl⟩, by decide, by decide, rfl, rfl, rfl, rfl, by decide⟩
theorem witness_ScribeEvents_fault :
    let s := scribe0 []
    let h := { s with scribes := up.scribes.set 0 { threads := spSet none [] 127 (some thread31), recv := true } }
    Live s ∧ threadOf s 0 127 = some thread31 ∧ thread31.stopped = false ∧ spWf none s.scribes[(0 : ScribeNum)].threads = true ∧ s.scribes[(0 : ScribeNum)].recv = false ∧
    s.scribes[(0 : ScribeNum)].waiting = [] ∧ threadOf h 0 127 = some thread31 ∧ h.scribes[(0 : ScribeNum)].recv = true ∧ limitOf (scribe0 [placed31]) thread31 = 0 ∧
    limitOf (scribe0 [{ placed31 with words := zeros8.set 0 0x100000000 }]) thread31 ≠ 0 :=
  ⟨⟨rfl, rfl⟩, rfl, rfl, rfl, rfl, rfl, rfl, rfl, by decide, by decide⟩
/-- A complete descriptor that asks for its record at address 0x40 and for its interrupt. -/
def done31 : Placed := { placed31 with words := (zeros8.set 0 0x300).set 6 0x40, next := 1 }
set_option maxRecDepth 20000 in
theorem witness_ScribeEvents_recorded : ∃ s1,
    let s := { scribe0 [done31] with scribes := up.scribes }
    let s := { s with rings := s.rings.set 31 { s.rings[(31 : RingNum)] with capTtb := ttb1 } }
    Live s ∧ domRuns s dVellum = true ∧ (s.placed.find? fun p => p.wring == 31 && p.index == s.rings[(31 : RingNum)].done && descComplete s p) = some done31 ∧
    bit done31.words[0] 8 = true ∧ bit done31.words[0] 9 = true ∧ done31.refused = false ∧ writesVisible s .scribe = true ∧
    storeBytes (.scribe 0 0) { threadRegs s.rings[(31 : RingNum)] done31.words 0 done31.nt with pc := 0 } done31.words[6] 8 false
      (toBytes 8 (place 64 (descStatus done31) 56 ||| (done31.words[7] &&& 0x00FFFFFFFFFFFFFF))) s = .done s1 ∧
    writesVisible { s with port := s.port.set 0 { s.port[0] with unconf := 0xF } } .scribe = false := by
  refine ⟨_, ⟨rfl, rfl⟩, by decide, by decide, by decide, by decide, rfl, by decide, rfl, by decide⟩
theorem witness_ScribeEvents_post :
    let s := { scribe0 [{ placed31 with next := 1 }] with scribes := up.scribes }
    Live s ∧ domRuns s dVellum = true ∧
    (s.placed.find? fun p => p.wring == 31 && p.index == s.rings[(31 : RingNum)].done && descComplete s p) = some { placed31 with next := 1 } ∧
    bit placed31.words[0] 8 = false ∧ bit placed31.words[0] 9 = false := ⟨⟨rfl, rfl⟩, by decide, by decide, by decide, by decide⟩

theorem vec_ready {c : Instr} {s : State} (h : readyB c s = true) (h2 : domUse s dVec = .ready) : VecReady c s := ⟨ready_of h, h2⟩
/-- The executing bank with VL = n and mask register 7 selecting element 1 alone. -/
def vl (n : W64) : State := upB fun b => { b with vl := n, m := b.m.set 7 2 }
/-- VEC in another state. -/
def vecIn (st : DomSt) : State := { up with heldOff := if st = .off then 0x100 else 0, dom := up.dom.set 8 { st := st } }
theorem witness_IntegerVectorResults :
    vintForm (.vsar 31 0 31 (some 7) 2) = some (.sar, 31, 0, 31, some 7, 2) ∧ Ready (.vsar 31 0 31 (some 7) 2) (vl 2048) ∧ domUse (vl 2048) dVec = .ready ∧
    Ready (.vsar 31 0 31 (some 7) 2) (vecIn .off) ∧ domUse (vecIn .off) dVec = .off ∧ Ready (.vsar 31 0 31 (some 7) 2) (vecIn .sleepRet) ∧
    domUse (vecIn .sleepRet) dVec = .asleep ∧ vcmpForm (.vcmpltu 7 31 0 (some 7) 0) = some (.ltu, 7, 31, 0, some 7, 0) ∧
    VecReady (.vcmpltu 7 31 0 (some 7) 0) (vl 2048) ∧ VecReady (.vradd 31 31 none 2) (vl 0) :=
  ⟨rfl, ready_of (by decide), by decide, ready_of (by decide), by decide, ready_of (by decide), by decide, rfl,
    vec_ready (by decide) (by decide), vec_ready (by decide) (by decide)⟩
theorem witness_FloatingVectorResults :
    vfpForm (.vfdiv 31 0 31 none 3) = some (.div, 31, 0, 31, none, 3) ∧ VecReady (.vfdiv 31 0 31 none 3) (vl 2048) ∧
    vfpForm (.vfma 31 0 31 (some 7) 2) = some (.fma, 31, 0, 31, some 7, 2) ∧ VecReady (.vfma 31 0 31 (some 7) 2) (vl 512) ∧
    vfcmpForm (.vfcmple 0 1 2 none 1) = some (2, 0, 1, 2, none, 1) ∧ VecReady (.vfcmple 0 1 2 none 1) (vl 1) ∧
    vredForm (.vrmax 0 1 none 1) = some (.max, 0, 1, none, 1) ∧ VecReady (.vrmax 0 1 none 1) (vl 2) ∧
    (∃ y z, (activeList (curBank (vl 2)) none (min (fieldN (curBank (vl 2)).vl 11 0) (16384 / wF 1))).map (velem (wF 1) (curBank (vl 2)).v[(1 : VReg)]) = [y, z]) ∧
    activeList (curBank (vl 0)) none (min (fieldN (curBank (vl 0)).vl 11 0) (16384 / wF 1)) = [] ∧
    VecReady (.vcvt 31 31 10 9 true (some 7)) (vl 2048) :=
  ⟨rfl, vec_ready (by decide) (by decide), rfl, vec_ready (by decide) (by decide), rfl, vec_ready (by decide) (by decide), rfl,
    vec_ready (by decide) (by decide), ⟨_, _, rfl⟩, rfl, vec_ready (by decide) (by decide)⟩
theorem witness_NaNsAndRoundingAttributes :
    fv (wEtype 1) 0x7C01 = .nan ∧ isSNaN (wEtype 1) 0x7C01 = true ∧ fv (wEtype 2) 0xFF800001 = .nan ∧ fv (wEtype 3) 0xFFFF = .nan ∧
    isSNaN (wEtype 3) 0xFFFF = false ∧ ((0 : Int) ≤ 0) ∧ ((-2 : Int) < 0) ∧ roundQ .rne false 3 (-1) 0 = 2 ∧ roundQ .rdn true 1 (-2) 0 = 1 := by decide
theorem witness_VectorMovesMasksAndMemory_memory : ∃ s1 l s2 l2,
    let s := setCur (vl 2) (wg (curBank (vl 2)) 1 80)
    let ps := activePieces (vaddr (curBank s) 8 (.pre 1)) 8 4 (activeList (curBank s) none 2)
    prepare .core .load (curBank s) (vaddr (curBank s) 8 (.pre 1)) 4 ps s = (s1, .inr l) ∧
    prepare .core .store (curBank s) (vaddr (curBank s) 8 (.pre 1)) 4 ps s = (s2, .inr l2) ∧
    VecReady (.vload 31 (.pre 1) none 2) s ∧ VecReady (.vstore 31 (.pre 1) none 2) s ∧ min (fieldN (curBank s).vl 11 0) (16384 / wI 2) = 2 ∧
    loadFree s1 8 false l ∧ storeFree s2 l2 ∧ l.map (fun p => (p.off, p.len, p.pa)) = [(0, 8, 72)] := by
  refine ⟨_, _, _, _, rfl, rfl, vec_ready (by decide) (by decide), vec_ready (by decide) (by decide), by decide, ⟨rfl, rfl, rfl, by decide, rfl⟩, ⟨rfl, by decide, by decide⟩, by decide⟩
theorem witness_VectorMovesMasksAndMemory_moves :
    VecReady (.vext 31 0 31 2) (vl 1) ∧ VecReady (.vins 31 0 1 0) (vl 1) ∧ VecReady (.vsplat 31 0 1) (vl 2048) ∧ VecReady (.mnot 7 7) (vl 0) ∧
    VecReady (.mand 0 7 7) (vl 0) ∧ VecReady (.mor 0 7 7) (vl 0) ∧ VecReady (.mxor 0 7 7) (vl 0) ∧ VecReady (.mset 7) (vl 0) ∧ VecReady (.mcnt 31 7) (vl 2048) :=
  ⟨vec_ready (by decide) (by decide), vec_ready (by decide) (by decide), vec_ready (by decide) (by decide), vec_ready (by decide) (by decide),
    vec_ready (by decide) (by decide), vec_ready (by decide) (by decide), vec_ready (by decide) (by decide), vec_ready (by decide) (by decide),
    vec_ready (by decide) (by decide)⟩
/-- A vector store of 2,048 bytes of which the mask selects byte 0 and one byte of each further line. -/
def wide : State := setCur up { wg (curBank up) 1 0x3F with vl := 2048, m := (curBank up).m.set 7 (BitVec.ofNat 2048 (((2 ^ 2048 - 1) / (2 ^ 64 - 1)) * 2 + 1)) }
set_option maxRecDepth 40000 in
theorem witness_VectorMovesMasksAndMemory_wide : ∃ s1 l,
    let ps := activePieces (vaddr (curBank wide) 2048 (.base 1 0)) 2048 1 (activeList (curBank wide) (some 7) 2048)
    prepare .core .store (curBank wide) (vaddr (curBank wide) 2048 (.base 1 0)) 1 ps wide = (s1, .inr l) ∧ VecReady (.vstore 31 (.base 1 0) (some 7) 0) wide ∧
    s1.c.ruledAct = false ∧ s1.ca.sb = [] ∧ l.length = 33 := by
  refine ⟨_, _, rfl, vec_ready (by decide) (by decide), rfl, rfl, ?_⟩
  decide
/-- The last entry of a vector store on its way: with room in the store buffer, and with none. -/
theorem witness_VectorMovesMasksAndMemory_last :
    let e : SbEntry := { pa := 64, bytes := [some 0], ty := .cacheable, part := true }
    let s := { vl 1 with ca := { up.ca with sbLast := some e } }
    let f := { vl 1 with ca := { up.ca with sb := List.replicate 32 e, sbLast := some e } }
    VecReady (.vstore 31 (.base 1 0) none 0) s ∧ s.ca.sbLast = some e ∧ s.ca.sb.length < 32 ∧ VecReady (.vstore 31 (.base 1 0) none 0) f ∧ 32 ≤ f.ca.sb.length :=
  ⟨vec_ready (by decide) (by decide), rfl, by decide, vec_ready (by decide) (by decide), by decide⟩
theorem witness_VectorMovesMasksAndMemory_ruled : ∃ s1 l s2 c e,
    let s := setCur up { wg (curBank up) 1 0x100 with vl := 1 }
    let r := { s with c := { s.c with ruledAct := true } }
    let x := setCur up { wg (curBank up) 1 0x101 with vl := 1 }
    prepare .core .store (curBank r) (vaddr (curBank r) 2 (.base 1 0)) 2 (activePieces (vaddr (curBank r) 2 (.base 1 0)) 2 2 (activeList (curBank r) none 1)) r = (s1, .inr l) ∧
    storeRuled s1 l ∧ VecReady (.vstore 31 (.base 1 0) none 1) r ∧ VecReady (.vload 31 (.base 1 0) none 1) x ∧ x.ca.sbLast = none ∧
    prepare .core .load (curBank x) (vaddr (curBank x) 2 (.base 1 0)) 2 (activePieces (vaddr (curBank x) 2 (.base 1 0)) 2 2 (activeList (curBank x) none 1)) x = (s2, .inl { code := c, acc := .read, addr := e }) :=
  ⟨_, _, _, _, _, rfl, ⟨rfl, by decide, by decide⟩, vec_ready (by decide) (by decide), vec_ready (by decide) (by decide), rfl, rfl⟩

theorem mirCheck_clean {s : State} {pa n : Nat} (h : s.err.spots = []) (h2 : s.vellumBad = []) (h3 : s.ca.l2 = []) (h4 : s.memBad = []) : mirCheck s pa n = (s, false) := by
  simp [mirCheck, readCheck_clean h h2 h3 h4]
/-- The partner port's link is up, with credits, and the mirror engine as given; a vellum at the bottom of memory. -/
def mirOf (m : Mir) : State := { up with mir := { m with link := true, credits := 8 } }
def mirOn : Mir := { en := true, cfg := (Vector.replicate 16 0).set 0 0x1010000 }
theorem witness_MirrorControlAndLink :
    let bad : State := { up with mir := { up.mir with cfg := (Vector.replicate 16 0x10000) } }
    Ready (.mirctlEnSet 3) up ∧ (ringOf (curBank up)).toNat ≤ 1 ∧ up.mir.qlock = false ∧ up.mir.en = false ∧ mirCfgOk up = true ∧ Memory.wf up.vellum = true ∧
    Ready (.mirctlEnSet 3) bad ∧ mirCfgOk bad = false ∧ Ready (.mirctlEnClear 2) (mirOf mirOn) ∧ (mirOf mirOn).mir.en = true ∧
    PartnerUp (mirOf {}) ∧ (mirOf {}).mir.commit = none ∧ noTransfer (mirOf {}) ∧ (4 : BitVec 3).toNat ≤ 4 ∧ Live up ∧ hasPartner up.var = true ∧
    up.mir.link = false ∧ domUse up dVellum = .ready ∧ noTransfer up ∧ (mirOf {}).mir.link = true ∧ (mirOf {}).mir.fetch = none :=
  ⟨ready_of (by decide), by decide, rfl, rfl, by decide, rfl, ready_of (by decide), by decide, ready_of (by decide), rfl,
    ⟨⟨rfl, rfl⟩, by decide, rfl, by decide⟩, rfl, ⟨rfl, rfl⟩, by decide, ⟨rfl, rfl⟩, by decide, rfl, by decide, ⟨rfl, rfl⟩, rfl, rfl⟩
def sent0 : TxGran := { g := 5, word := .fend 0 }
def commit0 : Commit := { tx := { ply := 1, gen := true, todo := [0], unacked := [sent0], recDue := false }, total := 2, tick := 0 }
def committing (k : Commit) : State := mirOf { mirOn with commit := some k }
theorem witness_MirrorCommitProceeds : ∃ r i pa,
    let s := committing commit0
    granuleAt s ((commit0.urgent.find? (commit0.tx.todo.contains ·)).getD (commit0.tx.todo.headD 0)) = some (r, i, pa) ∧
    mirCheck s 0x10000 65536 = (s, false) ∧ pa = 0x10000 ∧ PartnerUp s ∧ noTransfer s ∧ Memory.wf s.vellum = true ∧ s.mir.commit = some commit0 ∧ s.mir.held = [] ∧
    maySendGranule s commit0.tx = true ∧ (∀ u ∈ commit0.tx.unacked, u.again = false) ∧ commit0.tx.unacked.filter (·.g == (5 : BitVec 16).toNat) = [sent0] ∧
    sent0.nacks < 3 ∧ canSend s = true ∧ (5 : BitVec 16).toNat ∈ commit0.tx.unacked.map (·.g) ∧ heldGranules s 0x1FFFF 1 ≠ [] :=
  ⟨0, 0, 0x10000, by decide, mirCheck_clean rfl rfl rfl rfl, rfl, ⟨⟨rfl, rfl⟩, by decide, rfl, by decide⟩, ⟨rfl, rfl⟩, rfl, rfl, rfl, by decide, by decide, rfl,
    by decide, by decide, by decide, by decide⟩
theorem witness_MirrorCommitProceeds_closing :
    let k : Commit := { commit0 with closing := true, tx := { commit0.tx with todo := [], unacked := [{ sent0 with nacks := 3 }] } }
    PartnerUp (committing k) ∧ noTransfer (committing k) ∧ k.closing = true ∧ k.tx.recDue = false ∧ k.tx.recAcked = false ∧
    k.tx.unacked.filter (·.g == (5 : BitVec 16).toNat) = [{ sent0 with nacks := 3 }] := ⟨⟨⟨rfl, rfl⟩, by decide, rfl, by decide⟩, ⟨rfl, rfl⟩, rfl, rfl, rfl, rfl⟩
/-- The receiving side, with a reserve of 31 granules at 0x20000000000. -/
def rxOf (m : Mir) : State := mirOf { m with recv := true, resv := 0x200000000001F }
theorem witness_MirrorReceivesAndFetches :
    PartnerUp (mirOf {}) ∧ noTransfer (mirOf {}) ∧ (mirOf {}).mir.recv = false ∧ PartnerUp (rxOf {}) ∧ noTransfer (rxOf {}) ∧ (rxOf {}).mir.recv = true ∧
    fieldN (rxOf {}).mir.resv 17 0 ≠ 0 ∧ (rxOf {}).mir.rxRec = none ∧ (List.replicate 65536 (0 : Byte)).length = 65536 ∧
    (rxOf { rxRec := some (true, 0x1000000000000001), rxN := [1] }).mir.rxRec = some (true, 0x1000000000000001) ∧
    (0x1000000000000001 : W64).setWidth 60 = (1 : BitVec 60) ∧ (0 : BitVec 16).toNat < [1].getD (0 : BitVec 4).toNat 0 ∧
    (rxOf { rx := [.granule 0 true] }).mir.rx = .granule 0 true :: [] ∧ writesVisible (rxOf { rx := [.granule 0 true] }) .other = true ∧
    (rxOf { rx := [.record true [] false] }).mir.rx = .record true [] false :: [] ∧ (rxOf { rx := [.record true [] true] }).mir.rx = .record true [] true :: [] ∧
    (2 : BitVec 2) ≠ 3 ∧ mirCheck (rxOf {}) (resvBase (rxOf {})) 256 = (rxOf {}, false) :=
  ⟨⟨⟨rfl, rfl⟩, by decide, rfl, by decide⟩, ⟨rfl, rfl⟩, rfl, ⟨⟨rfl, rfl⟩, by decide, rfl, by decide⟩, ⟨rfl, rfl⟩, rfl, by decide, rfl, List.length_replicate,
    rfl, by decide, by decide, rfl, by decide, rfl, rfl, by decide, mirCheck_clean rfl rfl rfl rfl⟩
/-- A record of 128 zeros but for its counts, its sender 0 and its CRC. -/
def record0 (n : Byte) : List Byte :=
  let l := (List.replicate 128 (0 : Byte)).set 48 n
  l.take 124 ++ toBytes 4 (crc32c (l.take 124))
set_option maxRecDepth 100000 in
theorem witness_MirrorReceivesAndFetches_record :
    (record0 15).length = 128 ∧ recCrcOk (record0 15) = true ∧ recN (record0 15) 8 4 = (rxOf {}).cfg.partner.toNat % 2 ^ 20 ∧
    1 + 2 * (recCounts (record0 15)).sum ≤ fieldN (rxOf {}).mir.resv 17 0 ∧ fieldN (rxOf {}).mir.resv 17 0 < 1 + 2 * (recCounts (record0 16)).sum ∧
    recCrcOk (record0 16) = true ∧ recN (record0 16) 8 4 ≠ ({ rxOf {} with cfg := { up.cfg with partner := 1 } } : State).cfg.partner.toNat % 2 ^ 20 := by
  decide +kernel
/-- A valid record of generation 1 stands in the reserve. -/
def served : State :=
  let l := toBytes 4 (0x4D524331 : W32) ++ [1, 0, 1, 2] ++ List.replicate 116 (0 : Byte)
  { rxOf {} with mem := spSetAll 0 [] (resvRecord (rxOf {}) true) (l ++ toBytes 4 (crc32c l)) }
set_option maxRecDepth 100000 in
theorem witness_MirrorReceivesAndFetches_freq :
    (∃ st, chooseGen (rxOf {}) 0 = .inl st) ∧ (∃ bs, chooseGen served 2 = .inr (true, bs)) ∧ mirCheck served (resvRecord served true) 128 = (served, false) ∧
    canSend served = true := ⟨⟨1, by decide +kernel⟩, ⟨cohRead served (resvRecord served true) 128, by decide +kernel⟩, mirCheck_clean rfl rfl rfl rfl, by decide⟩
def fetching (verify : Bool) : Fetch :=
  { verify := verify, rmask := 1, want := 0, setPly := true, freqDue := false, got := some (true, 9), copied := 0, compared := 0, skipped := 0, differing := [],
    cmd := 3 }
theorem witness_MirrorReceivesAndFetches_fetch :
    let s := mirOf { mirOn with fetch := some (fetching true) }
    PartnerUp s ∧ s.mir.commit = none ∧ s.mir.serve = none ∧ s.mir.fetch = some (fetching true) ∧ (fetching true).freqDue = false ∧
    (fetching true).got = some (true, 9) ∧ Memory.wf s.vellum = true ∧ granuleAt s (mirS s (0 : BitVec 4).toNat + (0 : BitVec 16).toNat) = some (0, 0, 0x10000) ∧
    mapBit s true 0 = false ∧ mirCheck s 0x10000 65536 = (s, false) ∧ (∀ y ∈ s.mir.rx, ∀ g gen, y ≠ .fetched g gen) ∧ (4 : BitVec 4).toNat ≤ 4 :=
  ⟨⟨⟨rfl, rfl⟩, by decide, rfl, by decide⟩, rfl, rfl, rfl, rfl, rfl, rfl, by decide, by decide, mirCheck_clean rfl rfl rfl rfl, by intro y hy; simp [mirOf, mirOn] at hy, by decide⟩
theorem witness_MirrorControlAndLink_asleep :
    let d := { mirOf {} with dom := up.dom.set 0 {} }
    let l := { d with mir := { d.mir with link := false } }
    partnerRow (.partnerCredit 1) = true ∧ Live d ∧ d.mir.link = true ∧ hasPartner d.var = true ∧ domUse d dVellum = .asleep ∧ domUse l dVellum = .asleep ∧
    l.mir.link = false ∧ domUse { d with heldOff := 1 } dVellum = .off ∧ (committing commit0).mir.held = [] ∧ (committing commit0).mir.commit ≠ none ∧ (mirOf {}).mir.granted = false :=
  ⟨rfl, ⟨rfl, rfl⟩, rfl, by decide, by decide, by decide, rfl, by decide, rfl, by decide, rfl⟩
theorem witness_MirrorCommitProceeds_retries :
    let k : Commit := { commit0 with tx := { commit0.tx with recNacks := 3 } }
    k.tx.recDue = false ∧ k.tx.recAcked = false ∧ 3 ≤ k.tx.recNacks ∧ commit0.tx.recNacks < 3 ∧ PartnerUp (committing k) ∧ (4 : BitVec 4) ≠ 1 ∧
    (mirOf { mirOn with fetch := some (fetching false) }).mir.commit = none :=
  ⟨rfl, rfl, by decide, by decide, ⟨⟨rfl, rfl⟩, by decide, rfl, by decide⟩, by decide, rfl⟩
set_option maxRecDepth 100000 in
theorem witness_MirrorReceivesAndFetches_bad :
    let b := (record0 15).set 0 (0x55 : Byte)
    b.length = 128 ∧ recCrcOk b = false ∧ crcInjected (rxOf {}) = false ∧
    writesVisible { rxOf { rx := [.granule 0 true] } with port := (rxOf {}).port.set 0 { (rxOf {}).port[0] with unconf := 0xF } } .other = false := by
  decide +kernel
theorem witness_MirrorReceivesAndFetches_ending :
    let f := { fetching false with crcs := [(0, 3)], recCrcs := 3 }
    let s := mirOf { mirOn with fetch := some f, rx := [.fetched 0 true] }
    PartnerUp s ∧ s.mir.commit = none ∧ s.mir.serve = none ∧ f.freqDue = false ∧ crcInjected s = false ∧ s.mir.rx = .fetched 0 true :: [] ∧ writesVisible s .other = true ∧
    f.fend = false ∧ s.mir.rx.any isFetched = true ∧ 3 ≤ ((f.crcs.find? (·.1 == 0)).map (·.2)).getD 0 ∧ f.verify = false ∧ ({ f with got := none } : Fetch).got = none ∧
    recN (record0 15) 8 4 = s.cfg.coreid.toNat % 2 ^ 20 ∧ 4 < (5 : BitVec 4).toNat :=
  ⟨⟨⟨rfl, rfl⟩, by decide, rfl, by decide⟩, rfl, rfl, rfl, by decide, rfl, by decide, rfl, by decide, by decide, rfl, rfl, by decide +kernel, by decide⟩

/-- A vector table at vellum offset 0x800 with valid entries 0x11, 0x20 and 0x28; vector 0x28 has level 3; interrupts are enabled in ring 3. -/
def irq (v : Byte) : State :=
  let s := ring 3
  pend (setCur { s with c := { s.c with vtbase := 0x800, ilevel := s.c.ilevel.set 0 0x300000EEF }
                        vellum := [(0x889, 0x40), (0x88F, 0x80), (0x901, 0x30), (0x907, 0x82), (0x941, 0x20), (0x947, 0x82)] } { curBank s with fl := 0x700 }) v
def window : EntryWin := ⟨0x28, false, 0x40, 0x700, 2, 0, 0, 0, 0, 0, 0, 0, 0, false, true⟩
theorem witness_InterruptsAndConditionsEnter : ∃ s1 e, Live (irq 0x28) ∧ coreRuns (irq 0x28) = true ∧ (irq 0x28).stall ≠ some .waiti ∧
    selectCrit (irq 0x28) = none ∧ bit (curBank (irq 0x28)).fl 10 = true ∧ (irq 0x28).c.hold = false ∧ selectOrd (irq 0x28) = some (0x28, 3) ∧
    vecRead (irq 0x28) 0x28 = (s1, .good e) ∧ selectOrd up = none ∧ (irq 0x28).c.entry = none ∧ selectCrit up = none :=
  ⟨_, _, ⟨rfl, rfl⟩, by decide, by decide, by decide, by decide, rfl, by decide, rfl, by decide, rfl, by decide⟩
theorem witness_InterruptsAndConditionsEnter_critical : ∃ s1 e, Live (irq 0x20) ∧ coreRuns (irq 0x20) = true ∧ selectCrit (irq 0x20) = some 0x20 ∧
    vecRead { irq 0x20 with c := { (irq 0x20).c with cxcause := setBit (irq 0x20).c.cxcause 20 true } } 0x20 = (s1, .good e) :=
  ⟨_, _, ⟨rfl, rfl⟩, by decide, by decide, rfl⟩
def windowed : State := { irq 0x20 with c := { (irq 0x20).c with entry := some window } }
theorem witness_InterruptsAndConditionsEnter_takeover : ∃ s1 e, Live windowed ∧ coreRuns windowed = true ∧ windowed.stall ≠ some .waiti ∧
    windowed.c.entry = some window ∧ takeoverVec windowed window = some 0x20 ∧
    vecRead { undoEntry windowed window with c := { (undoEntry windowed window).c with cxcause := setBit window.cxcause 20 true } } 0x20 = (s1, .good e) :=
  ⟨_, _, ⟨rfl, rfl⟩, by decide, by decide, rfl, by decide, rfl⟩
theorem witness_InterruptsAndConditionsEnter_conditions : ∃ s1 e, up.stall = none ∧ decodeWords 0x04000016 0 = none ∧ (1 : Nat) ≤ (3 : BitVec 4).toNat ∧
    let s := setCur up { curBank up with pc := 0xFF00000000000000 }
    fetchExc s ((curBank s).pc + 4) = some (s1, e) ∧ s1.c.fresh = none ∧ coreRuns s = true :=
  ⟨_, _, rfl, by decide, by decide, rfl, rfl, by decide⟩
/-- A REPN of two loads at addresses 0 and 8 waits for a store to drain. -/
def repeating : State := { setCur up (wg (curBank up) 1 0) with stall := some (.repn 1 (.mu true 2 1 false 3)) }
theorem witness_InterruptsAndConditionsEnter_order : ∃ p b1 s1, interruptDue (irq 0x28) = some p ∧ interruptDue up = none ∧ interruptDue repeating = none ∧
    Live repeating ∧ coreRuns repeating = true ∧ repeating.stall = some (.repn 1 (.mu true 2 1 false 3)) ∧
    ((repnPieces (curBank repeating) 2 (.mu true 2 1 false 3)).findIdx? fun p => p.1 == BitVec.ofNat 64 (sizeBytes 3)) = some 1 ∧
    elementsDone (.mu true 2 1 false 3) 1 (curBank repeating) repeating = some (b1, s1) ∧ (irq 0x28).ca.sbLast = none ∧
    ({ up with ca := { up.ca with sbLast := some { pa := 64, bytes := [some 0], ty := .cacheable, part := true } } } : State).ca.sbLast ≠ none ∧ (fetchMeets up).c.fresh = none := by
  refine ⟨_, _, _, rfl, by decide, by decide, ⟨rfl, rfl⟩, by decide, rfl, by decide, rfl, rfl, by decide, by decide⟩
def entered : Fresh := ⟨0x28, 0x40, 0x700, 2, false, true, 0, 0, 0, 0⟩
def fresh (df : Bool) : State := { irq 0x28 with c := { (irq 0x28).c with fresh := some entered, dfOpen := df } }
theorem witness_FaultsOfEntriesAndWatchdogs :
    Live (fresh true) ∧ (fresh true).c.fresh = some entered ∧ coreRuns (fresh true) = true ∧ (fresh true).c.dfOpen = true ∧
    (fresh false).c.dfOpen = false ∧ up.c.fresh = none ∧ ({ up with c := { up.c with hold := true } } : State).c.hold = true ∧ bit up.c.holdmax 16 = true ∧
    bit ({ up with c := { up.c with hold := true, holdmax := 0x400 } } : State).c.holdmax 16 = false ∧ up.c.hold = false ∧ coreRuns up = true ∧
    up.stall = none ∧ bit up.c.chkdis 7 = false ∧ bit ({ up with c := { up.c with chkdis := 0x180 } } : State).c.chkdis 7 = true ∧
    isPending (pend up 0x21) 0x21 = true ∧ (pend up 0x21).dom[dCore].st = .run ∧ bit up.c.chkdis 8 = false :=
  ⟨⟨rfl, rfl⟩, rfl, by decide, rfl, rfl, rfl, rfl, by decide, by decide, rfl, by decide, rfl, by decide, by decide, by decide, rfl, by decide⟩
theorem witness_FaultsOfEntriesAndWatchdogs_waits : ∃ r r2,
    let w : State := { up with ops := List.replicate 8 { op5 .bswap with started := true }, stall := some .bswap }
    let z : State := { up with dom := up.dom.set 6 {}, stall := some .bswap }
    let a : State := setCur { up with stall := some (.add 2 3 (.imm 1) false false) } { curBank up with longs := [.g 3 0] }
    let n := setCur { irq 0x28 with vellum := [] } { curBank (irq 0x28) with fl := 0x700 }
    (vecRead up 0x01).2 = .bad r ∧ exemptWait w = true ∧ coreRuns w = true ∧ exemptWait up = false ∧ domUse z dBoard = .asleep ∧ dBoard ∈ gateDoms .bswap ∧
    z.ca.miss = none ∧ srcPending (.add 2 3 (.imm 1) false false) (curBank a) = true ∧ selectOrd n = some (0x28, 3) ∧ selectCrit n = none ∧ (vecRead (atBoundary n) 0x28).2 = .bad r2 ∧
    unitWorks w 0x07 0 = true ∧ unitWorks up 0x07 0 = false ∧ bit up.c.chkdis 8 = false := by
  refine ⟨_, _, rfl, by decide, by decide, by decide, by decide, by decide, rfl, by decide, by decide, by decide, rfl, by decide, by decide, by decide⟩
theorem witness_ErrorRecordsArePosted :
    let one := postRecord up 2 9 1 5 7 false 0
    let full : State := { up with err := { up.err with wr := 248 } }
    Live up ∧ (2 : BitVec 2) ≠ 3 ∧ (0x12 : Byte).toNat ≤ 0x12 ∧ (0x23 : Byte).toNat ≤ 0x23 ∧
    (decide (fifoCount up ≠ 0) && sameDetection (fifoAt up (up.err.wr - 1)) 2 9 5 7) = false ∧
    (decide (fifoCount one ≠ 0) && sameDetection (fifoAt one (one.err.wr - 1)) 2 9 5 7) = true ∧ fifoCount up ≤ 247 ∧ 247 < fifoCount full ∧ fifoCount full ≤ 255 ∧
    bit up.c.errinj 12 = false ∧ (full.err.wr - BitVec.ofNat 9 (fieldN (0x00F80000 : W32) 24 16)).toNat ≤ 256 ∧ up.qu.down = false ∧ bit (4 : W32) 2 = true ∧
    ({ one with qu := { one.qu with qstate := .run } } : State).qu.qstate = .run ∧ fifoCount one ≠ 0 ∧ one.err.fifoBad = [] ∧ one.qu.log.length < 2048 :=
  ⟨⟨rfl, rfl⟩, by decide, by decide, by decide, by decide, by decide, by decide, by decide, by decide, by decide, by decide, rfl, by decide, rfl, by decide, rfl, by decide⟩
theorem witness_ErrorRecordsArePosted_kinds :
    let j : State := { up with c := { up.c with errinj := 0x1703 } }
    let r : State := { up with c := { up.c with chkdis := 8 } }
    let x : Thread := ⟨{ fl := 0x300, st := .run }, 31, 0, false⟩
    let s : State := { up with scribes := up.scribes.set 0 { threads := spSet none [] 127 (some x) } }
    silenced up 4 7 = false ∧ silenced r 4 7 = true ∧ injMatch up 4 7 0 = false ∧ bit j.c.errinj 12 = true ∧ threadOf s 0 127 = some x ∧ x.stopped = false ∧
    (7 : W64).toNat < 2 ^ vellumLog2 up.var ∧ badEntries up (0xA000 + 32 * (up.err.rd.toNat % 256)) 32 = [] :=
  ⟨by decide, by decide, by decide, by decide, rfl, rfl, by decide, by decide⟩
theorem witness_ScrubbersStepAndReport :
    let s : State := { up with err := { up.err with credTile := 1, credInk := 1 } }
    Live s ∧ bit s.c.chkdis 0 = false ∧ bit s.c.chkdis 1 = false ∧ bit s.c.chkdis 2 = false ∧ s.dom[dVellum].st = .run ∧ s.vellumZeroing = false ∧ s.vellumBad = [] ∧
    l2GroupOn s 0 = true ∧ s.err.credTile ≠ 0 ∧ domRuns s dTile = true ∧ (∀ t : TReg, s.tiles[t].bad = []) ∧ s.err.credInk ≠ 0 ∧ domRuns s dBoard = true ∧
    s.inkZeroing = false ∧ s.inkBad = [] ∧ s.qu.sramBad = [] ∧ s.qu.blotBad = [] ∧ s.err.fifoBad = [] ∧
    ({ up with vellumBad := [15] } : State).vellumBad = [15] ∧ 15 / 16 = up.err.pos[0] ∧ s.dom[dTile].st ≠ .gated ∧ s.dom[dBoard].st ≠ .gated :=
  ⟨⟨rfl, rfl⟩, by decide, by decide, by decide, rfl, rfl, rfl, by decide, by decide, by decide, by decide, by decide, by decide, rfl, rfl, rfl, rfl, rfl, rfl,
    rfl, by decide, by decide⟩
theorem witness_CacheFillsAndWalks : ∃ s1 pa ty, translate .fetch .fetch (ringOf (curBank up)) (curBank up).ttb 0x1234 up = .ok s1 pa ty ∧
    readError s1 (ty == .cacheable || ruledPast s1 .core ty) (pa / 64 * 64) 64 = none ∧ Live up ∧ domRuns up dCore = true ∧ up.ca.miss = none ∧ lineNo (0 : BitVec 56).toNat ∉ up.ca.pfOut ∧
    ({ up with ca := { up.ca with miss := some (5, 0, false) } } : State).ca.miss = some (5, 0, false) :=
  ⟨_, _, _, rfl, by decide, ⟨rfl, rfl⟩, by decide, rfl, by decide, rfl⟩
theorem witness_CacheFillsAndWalks_prefetch : ∃ k l,
    let s : State := { up with ca := { up.ca with pfOut := [0x2000000] } }
    l2Find (fillL2 { s with ca := { s.ca with pfOut := s.ca.pfOut.erase 0x2000000 } } 0x2000000 false) 0x2000000 = some (k, l) ∧ l.poison = false ∧
    l1dFind (fillL2 { s with ca := { s.ca with pfOut := s.ca.pfOut.erase 0x2000000 } } 0x2000000 false) 0x2000000 = none ∧
    lineNo (0x80000000 : BitVec 56).toNat = 0x2000000 ∧ (0x2000000 : BitVec 50) ∈ s.ca.pfOut ∧ s.c.ruledAct = false :=
  ⟨_, _, rfl, rfl, by decide, by decide, by decide, rfl⟩
theorem witness_CacheFillsAndWalks_walk : ∃ sel ring ttb ak,
    let s := upB fun b => { b with ttb := ttb1 }
    walkOf s (.core .read) = some (sel, ring, ttb, ak) ∧ canonical ttb 0 = true ∧ ttbLevels ttb ≠ 0 ∧
    walkHeld s sel ttb 0 = false ∧
    (tlbOf s sel).any (entryHits (tlbSets sel) (ttbAsid ttb) 0) = false :=
  ⟨_, _, _, _, rfl, by decide, by decide, by decide, by decide⟩
/-- Two walks of the core run: one at level 1, whose descriptor at 0x1000 points to the table 0x2000, and one at level 0, whose descriptor at 0x2008 is a leaf. -/
def walking : State :=
  let s := upB fun b => { b with ttb := ttb1 }
  { s with ca := { s.ca with walks := [⟨.core .read, 0, ttb1, 0, 1, 0x1000, 0⟩, ⟨.core .read, 0x1000, ttb1, 0, 0, 0x2000, 0⟩] }
           vellum := [(0x1000, 0x03), (0x1001, 0x20), (0x2008, 0x35), (0x200F, 0x0C)] }
theorem witness_CacheFillsAndWalks_busy : ∃ sel ring ttb ak, walkOf walking (.core .read) = some (sel, ring, ttb, ak) ∧ walkHeld walking sel ttb 0x1FFF = true ∧ walkHeld walking sel ttb 0x100000 = true :=
  ⟨_, _, _, _, rfl, by decide, by decide⟩
theorem witness_CacheFillsAndWalks_down : ∃ w sel ring ttb ak s1 d a ty, walking.ca.walks[0]? = some w ∧ walkOf walking w.req = some (sel, ring, ttb, ak) ∧ w.ty ≠ 2 ∧
    walkRead walking (descAddr w.table w.level w.va) w.ty = (s1, some d) ∧ walkDesc ak w.ring w.level d = .down a ty :=
  ⟨_, _, _, _, _, _, _, _, _, rfl, rfl, by decide, rfl, rfl⟩
theorem witness_CacheFillsAndWalks_leaf : ∃ w sel ring ttb ak s1 d n p, walking.ca.walks[1]? = some w ∧ walkOf walking w.req = some (sel, ring, ttb, ak) ∧ w.ty ≠ 2 ∧
    walkRead walking (descAddr w.table w.level w.va) w.ty = (s1, some d) ∧ walkDesc ak w.ring w.level d = .leaf n p ∧
    (n = d ∨ heldGranules s1 (descAddr w.table w.level w.va) 8 = []) :=
  ⟨_, _, _, _, _, _, _, _, _, rfl, rfl, by decide, rfl, rfl, .inr rfl⟩
theorem witness_CacheFillsAndWalks_groups :
    let s : State := { up with c := { up.c with l2Busy := 3, l2En := 2 }
                               dom := (up.dom.set 1 { up.dom[1] with st := .off }).set 2 { up.dom[2] with goal := some .run } }
    Live s ∧ s.c.l2Busy.getLsbD 0 = true ∧ s.pset = none ∧ (∀ d : Fin 32, s.dom[d].after = none) ∧ s.dom[dL2w 0].st = .off ∧ s.dom[dL2w 0].goal = none ∧
    s.c.l2En.getLsbD 0 = false ∧ s.c.l2Busy.getLsbD 1 = true ∧ domUpAcked s.dom[dL2w 1] = true ∧ s.c.l2En.getLsbD 1 = true ∧ s.heldOff.getLsbD (dL2w 1).val = false :=
  ⟨⟨rfl, rfl⟩, rfl, rfl, by decide, rfl, rfl, rfl, rfl, by decide, rfl, rfl⟩

/-- A request in mailbox 0 with an opcode and a body, in protocol version 1.0; the quill that executes it runs firmware and has nothing else to do. -/
def req (op : BitVec 16) (body : List Byte) : Req := ⟨0, 1, 0, op, 5, body, none, 0, 0⟩
def onCmd (op : BitVec 16) (body : List Byte) (s : State) : State := { s with qu := { s.qu with qstate := .run, hello := true, vmaj := 1, cur := some (req op body) } }
theorem cmd_ready {s : State} (op : BitVec 16) (body : List Byte) (h : Live s) (q : s.qu = up.qu) : CmdReady op (req op body) (onCmd op body s) := by
  refine ⟨h, rfl, rfl, fun h => (nomatch h), ?_, ?_, ?_⟩
  · show s.qu.qh.getLsbD 0 = false
    rw [q]; rfl
  · show s.qu.outbox[(0 : BoxNum)] = []
    rw [q]; rfl
  · show spWf 0 s.qu.q2h[(0 : BoxNum)] = true
    rw [q]; rfl
theorem up_ready (op : BitVec 16) (body : List Byte) : CmdReady op (req op body) (onCmd op body up) := cmd_ready op body ⟨rfl, rfl⟩ rfl
/-- The first request mailbox holds a message and belongs to the quill. -/
def boxed (m : List Byte) : State := { up with qu := { up.qu with qstate := .run, hello := true, vmaj := 1, hq := 1, h2q := up.qu.h2q.set 0 (spSetAll 0 [] 0 m) } }
def toServe (s : State) (k : BoxNum) : Prop := s.win.clearing = false ∧ s.qu.qstate ≠ .restart ∧ s.qu.cur = none ∧ s.upd.st ≠ .handover ∧ nextBox s = some k
theorem witness_WindowAndMailboxes : Live (boxed []) ∧ toServe (boxed []) 0 ∧
    headerFault (boxed []) (requestOf (boxed []) 0).1 (requestOf (boxed []) 0).2 = some (4, 1) ∧ mailFree (boxed []) (requestOf (boxed []) 0).1 :=
  ⟨⟨rfl, rfl⟩, ⟨rfl, by decide, rfl, by decide, by decide⟩, by decide +kernel, by decide +kernel, by decide +kernel, by decide +kernel⟩
theorem witness_WindowAndMailboxes_body : ∃ info, let s := boxed (message 1 0 0x12 5 [1])
    toServe s 0 ∧ headerFault s (requestOf s 0).1 (requestOf s 0).2 = none ∧ cmdInfo (requestOf s 0).1.op = some info ∧ bodyFault (requestOf s 0).1 info = true ∧
    mailFree s (requestOf s 0).1 :=
  ⟨⟨4, true, true, [1, 2, 3]⟩, ⟨rfl, by decide, rfl, by decide, by decide⟩, by decide +kernel, by decide +kernel, by decide +kernel, by decide +kernel, by decide +kernel,
    by decide +kernel⟩
theorem witness_WindowAndMailboxes_journaled : ∃ info, let s := boxed (message 1 0 0x12 5 [1, 0, 0, 0])
    toServe s 0 ∧ headerFault s (requestOf s 0).1 (requestOf s 0).2 = none ∧ cmdInfo (requestOf s 0).1.op = some info ∧ bodyFault (requestOf s 0).1 info = false ∧
    info.journaled = true :=
  ⟨⟨4, true, true, [1, 2, 3]⟩, ⟨rfl, by decide, rfl, by decide, by decide⟩, by decide +kernel, by decide +kernel, by decide +kernel, rfl⟩
theorem witness_WindowAndMailboxes_plain : ∃ info, let s := boxed (message 1 0 0x11 5 [])
    toServe s 0 ∧ headerFault s (requestOf s 0).1 (requestOf s 0).2 = none ∧ cmdInfo (requestOf s 0).1.op = some info ∧ bodyFault (requestOf s 0).1 info = false ∧
    info.journaled = false :=
  ⟨⟨0, false, false, []⟩, ⟨rfl, by decide, rfl, by decide, by decide⟩, by decide +kernel, by decide +kernel, by decide +kernel, rfl⟩
theorem witness_WindowAndMailboxes_registers :
    let r : State := { boxed [] with qu := { (boxed []).qu with qstate := .restart } }
    let o : State := { up with qu := { up.qu with outbox := up.qu.outbox.set 2 [[1, 2]] } }
    let l : State := { up with cfg := { up.cfg with lock := true } }
    let v : State := { up with dom := up.dom.set 0 { up.dom[0] with st := .off } }
    r.qu.qstate = .restart ∧ r.qu.hq.getLsbD 0 = true ∧ mailFree r (requestOf r 0).1 ∧ up.win.clearing = false ∧ (∀ k : BoxNum, up.qu.outbox[k] = []) ∧
    o.qu.outbox[(2 : BoxNum)] = [1, 2] :: [] ∧ fieldN (0x400 : W32) 11 8 = 2 ^ (2 : BoxNum).val ∧ fieldN (0x400 : W32) 3 0 = 0 ∧
    (∀ j : BoxNum, j ≠ 2 → o.qu.outbox[j] = []) ∧ spWf 0 o.qu.q2h[(2 : BoxNum)] = true ∧ windowOpen up .port = true ∧ windowOpen l .port = true ∧ l.cfg.lock = true ∧
    0x1100 ≤ (0x1138 : BitVec 16).toNat ∧ (0x1138 : BitVec 16).toNat < 0x113C ∧ up.cfg.lock = false ∧ v.cfg.lock = false ∧ v.pset = none ∧
    (∀ d : Fin 32, v.dom[d].after = none) ∧ v.dom[dVellum].st = .off ∧ v.dom[dVellum].goal = none :=
  ⟨rfl, rfl, ⟨by decide +kernel, by decide +kernel, by decide +kernel⟩, rfl, by decide, rfl, by decide, by decide, by decide, by decide, by decide, by decide, rfl, by decide, by decide, rfl, rfl, rfl, by decide,
    rfl, rfl⟩
theorem witness_QuillCommandsAnswer : (∀ op b, CmdReady op (req op b) (onCmd op b up)) ∧ (onCmd 1 [1, 0, 1, 0] up).qu.active = [] ∧
    chosenVersion [1, 0, 1, 0] = some (1, 0) ∧ chosenVersion [2, 0, 2, 0] = none ∧ bnat [1, 2] 0 2 = 0x201 ∧ bnat [4, 0] 0 2 < 0x10 ∧
    configValue up (bnat [0x13, 0] 0 2) = none ∧ configValue up 0xA = some 0 ∧ powerFault up 0 2 = some (4, 6) ∧ powerFault up 0x40 0 = none ∧
    powerFault up 0x40 1 = none ∧ powerFault up 0x40 2 = none ∧ up.pset = none ∧ up.mir.fetch = none ∧ (∀ d : Fin 32, up.dom[d].after = none) ∧
    (let s : State := { up with qu := { up.qu with log := [⟨3, 1, false⟩, ⟨4, 2, false⟩, ⟨5, 3, true⟩] } }
     (s.qu.log.filter fun x => !x.freed && seqFrom x.seq (BitVec.ofNat 32 (bnat [4, 0, 0, 0, 2] 0 4))).take 2 = [⟨4, 2, false⟩]) ∧ up.err.pass[(4 : Fin 5)] = none ∧
    bnat [0, 0, 0, 0, 7] 4 4 ≠ 0 ∧ bnat [255, 3, 5] 0 2 < boardB up.var ∧ spareOf up 1023 = none ∧ (5 : Fin 8) ∈ freeSpares up ∧ domUse up dVellum = .ready ∧
    up.tal[(15 : TallyNum)].pend = false ∧ hasPartner up.var = true ∧ up.mir.st = .idle ∧ up.mir.serve = none ∧ up.mir.commit = none ∧ Memory.wf up.vellum = true ∧
    hasPartner .m256np = false :=
  ⟨up_ready, rfl, by decide, by decide, by decide, by decide, by decide, by decide, by decide, by decide, by decide, by decide, rfl, rfl, by decide, by decide, rfl,
    by decide, by decide, by decide, by decide, by decide, rfl, rfl, rfl, rfl, rfl, rfl, rfl⟩
def active0 (op : BitVec 16) : Active := ⟨3, req op [], false⟩
theorem witness_QuillCommandsAnswer_pass :
    let s : State := { up with err := { up.err with pass := up.err.pass.set 4 (some (0, 3)) }, qu := { up.qu with active := [active0 0x22] } }
    Live s ∧ s.err.pass[(4 : Fin 5)] = some (0, 3) ∧ running s 3 (active0 0x22) :=
  ⟨⟨rfl, rfl⟩, rfl, by decide, rfl, by decide, rfl, rfl, rfl⟩
theorem witness_QuillCommandsAnswer_noPartner : let s := onCmd 0x53 [] { up with var := .m256np }
    CmdReady 0x53 (req 0x53 []) s ∧ hasPartner s.var = false := ⟨cmd_ready _ _ ⟨rfl, rfl⟩ rfl, rfl⟩
/-- A manifest of one class A part of 513 bytes at window offset 0x1000, with the digest of its body and no signature. -/
def manBody : List Byte := [1, 0, 0, 0] ++ List.replicate 12 0 ++ ([1, 0, 0, 0, 0, 0x10, 0, 0, 1, 2, 0, 0] ++ List.replicate 68 0)
/-- The numbers of its signature by the private key 1, computed outside the model by the steps of FIPS 186-5. -/
def manR : Nat := 0x8d999057ba3d2d969260045c55b97f089025959a6f434d651d207d19fb96e9e4fe0e86ebe0e64f85b96a9c75295df61
def manS : Nat := 0x43c2e98e826561a80bbdfe4d1e32247a64df71a9ff9eb74c457be754ae94b45542afdd2e40f39a88360f7b5599115ff3
def manHead : List Byte :=
  [0x4D, 0x49, 0x51, 0x4B, 1, 0, 0, 2, 1, 0x4D, 1, 0x10] ++ List.replicate 12 0 ++ [96] ++ List.replicate 39 0 ++ sha384Bytes manBody ++ List.replicate 272 0
def manifest : List Byte :=
  manHead ++ (toBytes 48 (BitVec.ofNat 384 manR)).reverse ++ (toBytes 48 (BitVec.ofNat 384 manS)).reverse ++ List.replicate 32 0 ++ manBody
def manE : Nat := 0x7eac3a178926f076ae55fc547708b10440bc89fa584939c23925c6d7bd6ffa0c357ed1edc3d8d01810884ce3df8ce085
theorem manifest_digest : beNat (sha384Bytes (manifest.take 384)) = manE := by decide +kernel
theorem manifest_signed : P384.verify P384.base manE manR manS = true := by decide +kernel
theorem manifest_sig (h : Config.signKey 0 = P384.base) : hdrSig manifest = true := by
  have k : (bbyte manifest 32).toNat = 0 := by decide +kernel
  have r : beNat (((manifest.drop 384).take 96).take 48) = manR := by decide +kernel
  have s : beNat ((((manifest.drop 384).take 96).drop 48).take 48) = manS := by decide +kernel
  unfold hdrSig sigValid
  simp only [k, h, r, s, manifest_digest, manifest_signed]
  rfl
def staged : State := { up with vellum := spSetAll 0 [] 0 manifest, upd := { up.upd with everB := true } }
theorem witness_UpdateCommands (h : Config.signKey 0 = P384.base) : (windowRead staged 0 608).2 = some manifest ∧ hdrFields staged.var manifest = none ∧
    bbyte manifest 11 = 0x10 ∧ hdrLen manifest = true ∧ manifest.length = 512 + hdrBody manifest ∧ hdrSig manifest = true ∧
    staged.c.fwfloor.toNat ≤ hdrFloor manifest ∧ sha384Bytes (manifest.drop 512) = (manifest.drop 64).take 48 ∧ manOk staged (manifest.drop 512) 0x2000 = true ∧
    staged.upd.everB = true ∧ staged.upd.st = .idle ∧ staged.upd.oldInUse = false ∧ (608 : Nat) ≤ 0x2000 ∧ 0x2000 ≤ 67108864 :=
  ⟨by decide +kernel, by decide +kernel, by decide +kernel, by decide +kernel, by decide +kernel, manifest_sig h,
    by decide +kernel, by decide +kernel, by decide +kernel, rfl, rfl, rfl, by decide, by decide⟩
def part1 : Part := { cls := 2, woffs := 0, len := 5000, floorver := 0, version := 0, digest := 0 }
def session (st : UpdSt) (p : Part) (bits : Byte) : State :=
  onCmd 0x63 [bits, 0, 0, 0, 0, 0, 0, 0, 9] { up with upd := { up.upd with st := st, parts := [p], everB := true } }
theorem witness_UpdateCommands_chunks :
    let s (p : Part) (c : Byte) : State := onCmd 0x61 [0, 0, 0, 0, c] { up with upd := { up.upd with st := .staging, parts := [p] } }
    let p2 : Part := { part1 with st := .staging, bitmap := 2 }
    let all : List Byte := [0, 0, 0, 0, 255, 255, 255, 255]
    CmdReady 0x61 (req 0x61 [0, 0, 0, 0, 1]) (s part1 1) ∧ CmdReady 0x61 (req 0x61 [0, 0, 0, 0, 1]) (s p2 1) ∧ (s part1 1).upd.st ≠ .idle ∧
    (s part1 1).upd.parts[(0 : Byte).toNat]? = some part1 ∧ (s part1 1).upd.alls = [] ∧ chunkAll (req 0x61 [0, 0, 0, 0, 1]) = false ∧ 1 < chunkCount part1 ∧
    bit part1.bitmap 1 = false ∧ bit p2.bitmap 1 = true ∧ part1.st = .empty ∧ chunkAll (req 0x61 all) = true :=
  ⟨cmd_ready _ _ ⟨rfl, rfl⟩ rfl, cmd_ready _ _ ⟨rfl, rfl⟩ rfl, fun h => (nomatch h), rfl, rfl, by decide, by decide, by decide, by decide, rfl, by decide⟩
theorem witness_UpdateCommands_chunkAll :
    let p : Part := { part1 with st := .verified, bitmap := 3 }
    let s : State := { up with upd := { up.upd with st := .staging, parts := [p], alls := [(0, 3)] }, qu := { up.qu with active := [active0 0x61] } }
    Live s ∧ s.qu.qstate ≠ .restart ∧ s.upd.alls = [(0, 3)] ∧ running s 3 (active0 0x61) ∧ s.upd.parts[0]? = some p ∧ ∀ c < chunkCount p, bit p.bitmap c = true :=
  ⟨⟨rfl, rfl⟩, by decide, rfl, ⟨by decide, rfl, by decide, rfl, rfl, rfl⟩, rfl, by decide⟩
theorem witness_UpdateCommands_activate : ∃ r1 r2, CmdReady 0x63 r1 (session .ready { part1 with cls := 1 } 1) ∧ CmdReady 0x63 r2 (session .ready part1 2) ∧
    CmdReady 0x63 r1 (session .staging part1 1) ∧ activateFault r1 (session .ready { part1 with cls := 1 } 1) = none ∧ bit (bbyte r1.body 0) 0 = true ∧
    activateFault r2 (session .ready part1 2) = none ∧ bit (bbyte r2.body 0) 0 = false ∧ classBParts (session .ready part1 2).upd ≠ [] ∧
    (session .staging part1 1).upd.st ≠ .ready ∧ (session .ready part1 2).qu.qstate = .run ∧ (session .ready part1 2).upd.everB = true :=
  ⟨_, _, cmd_ready _ _ ⟨rfl, rfl⟩ rfl, cmd_ready _ _ ⟨rfl, rfl⟩ rfl, cmd_ready _ _ ⟨rfl, rfl⟩ rfl, by decide, by decide, by decide, by decide, by decide,
    fun h => (nomatch h), rfl, rfl⟩
theorem witness_UpdateCommands_handover :
    let s : State := { up with upd := { up.upd with st := .handover, parts := [part1], handover := some (3, 9) }
                               qu := { up.qu with qstate := .run, active := [active0 0x63], runTick := some 0 }, win := { up.win with tick := 200000000 } }
    let o : State := { up with upd := { up.upd with oldInUse := true, oldOps := [4], oldDescs := [(3, 0)] } }
    Live s ∧ s.upd.st = .handover ∧ s.qu.qstate = .run ∧ s.upd.handover = some (3, 9) ∧ running s 3 (active0 0x63) ∧ (active0 0x63).req.entry = none ∧
    classBParts s.upd ≠ [] ∧ longInRun s ∧ Live o ∧ o.upd.oldInUse = true ∧ (∀ p ∈ o.ops, p.id ∉ o.upd.oldOps) ∧ ∀ d ∈ o.upd.oldDescs, d ∉ unposted o d.1 :=
  ⟨⟨rfl, rfl⟩, rfl, rfl, rfl, ⟨by decide, rfl, by decide, rfl, rfl, rfl⟩, rfl, by decide, ⟨rfl, 0, rfl, by decide⟩, ⟨rfl, rfl⟩, rfl, fun _ h => absurd h List.not_mem_nil,
    fun d hd => by cases List.mem_singleton.1 hd; exact List.not_mem_nil⟩
theorem witness_UpdateCommands_abort (st : UpdSt) :
    let s := onCmd 0x64 [] { up with upd := { up.upd with st := st } }
    CmdReady 0x64 (req 0x64 []) s ∧ s.upd.alls = [] ∧ s.upd.st = st := ⟨cmd_ready _ _ ⟨rfl, rfl⟩ rfl, rfl, rfl⟩
/-- A firmware image of four bytes, signed by the private key 1 as above. -/
def imgE : Nat := 0x8254096612be1d5a501aca9f9a83d724b08fe7a5f3879e5b3888dc1ac4bf38a9536a63abf049619bb2f5548b5f692dc2
def imgS : Nat := 0xc596d135c730f819dca06572afefb78a9cc9207fcd3de998a8df18b72c57ea937db2ace67b8437077dbc0bdebf621b4b
def image : List Byte :=
  [0x4D, 0x49, 0x51, 0x4B, 1, 0, 0, 2, 1, 0x4D, 1, 1] ++ List.replicate 12 0 ++ [4] ++ List.replicate 39 0 ++ sha384Bytes [0, 0, 0, 0] ++ List.replicate 272 0 ++
    (toBytes 48 (BitVec.ofNat 384 manR)).reverse ++ (toBytes 48 (BitVec.ofNat 384 imgS)).reverse ++ List.replicate 36 0
def rom : Image := ⟨516, 0, 0, spSetAll 0 [] 0 image⟩
theorem image_read : spGetAll 0 rom.data 0 516 = image := by decide +kernel
theorem image_digest : beNat (sha384Bytes ((image.take 512).take 384)) = imgE := by decide +kernel
theorem image_signed : P384.verify P384.base imgE manR imgS = true := by decide +kernel
theorem image_sig (h : Config.signKey 0 = P384.base) : hdrSig (image.take 512) = true := by
  have k : (bbyte (image.take 512) 32).toNat = 0 := by decide +kernel
  have r : beNat ((((image.take 512).drop 384).take 96).take 48) = manR := by decide +kernel
  have s : beNat (((((image.take 512).drop 384).take 96).drop 48).take 48) = imgS := by decide +kernel
  unfold hdrSig sigValid
  simp only [k, h, r, s, image_digest, image_signed]
  rfl
def restarting : State := { up with qu := { up.qu with qstate := .restart, rcount := 2 }, upd := { up.upd with halves := (some rom, none) } }
theorem image_starts (h : Config.signKey 0 = P384.base) : mayStart restarting = true := by
  have c : ((hdrFields restarting.var (image.take 512)).isNone && bbyte (image.take 512) 11 == 1 && hdrLen (image.take 512) &&
      (516 : Nat) == 512 + hdrBody (image.take 512) && decide (restarting.c.fwfloor.toNat ≤ hdrFloor (image.take 512)) &&
      sha384Bytes (image.drop 512) == ((image.take 512).drop 64).take 48) = true := by decide +kernel
  have i : imageChecks restarting rom = true := by
    unfold imageChecks
    rw [show spGetAll 0 rom.data 0 rom.len = image from image_read]
    exact Bool.and_eq_true_iff.2 ⟨c, image_sig h⟩
  have b : badOf restarting 0 = [] := rfl
  show (imageChecks restarting rom && (badOf restarting 0).all _) = true
  rw [i, b]
  rfl
theorem witness_QuillResetsAndRestarts (h : Config.signKey 0 = P384.base) :
    let s : State := { up with qu := { up.qu with qstate := .run, active := [active0 0x60], runTick := some 0, wdog := 100000 }, win := { up.win with tick := 200000000 } }
    let b : State := { restarting with cfg := { restarting.cfg with options := 1 } }
    CmdReady 0x70 (req 0x70 [0x14]) (onCmd 0x70 [0x14] up) ∧ up.pset = none ∧ up.qu.down = false ∧ Live s ∧ s.qu.qstate = .run ∧ (Component.updater ≠ .kernel) ∧
    s.qu.active = [active0 0x60] ∧ componentOf (active0 0x60).req.op = .updater ∧ (active0 0x60).replay = false ∧ mailFree s (active0 0x60).req ∧ s.qu.cur = none ∧
    s.qu.faults = [] ∧ 100000 ≤ s.qu.wdog ∧ up.qu.wdog < 100000 ∧ longInRun s ∧ s.win.clearing = false ∧ Live restarting ∧ restarting.qu.qstate = .restart ∧
    bit restarting.cfg.options 0 = false ∧ mayStart restarting = true ∧ restarting.qu.active = [] ∧ restarting.pset = none ∧ bit b.cfg.options 0 = true ∧
    2 ≤ restarting.qu.rcount.toNat ∧ up.qu.rcount.toNat < 2 ∧ s.qu.logHeadBad = false ∧ badOf s (componentNum .updater) = [] :=
  ⟨up_ready _ _, rfl, rfl, ⟨rfl, rfl⟩, rfl, by decide, rfl, by decide, rfl, ⟨by decide, rfl, rfl⟩, rfl, rfl, by decide, by decide, ⟨rfl, 0, rfl, by decide⟩, rfl,
    ⟨rfl, rfl⟩, rfl, by decide, image_starts h, rfl, rfl, by decide, by decide, by decide, rfl, rfl⟩
/-- A UNIT_RESET of the quill and a CONFIG_SET accepted in the epoch that a restart has closed. -/
def active70 : Active := ⟨3, { req 0x70 [0x20] with entry := some 5 }, false⟩
theorem witness_QuillResetsAndRestarts_twice (h : Config.signKey 0 = P384.base) : ∃ info,
    let s : State := { up with qu := { up.qu with qstate := .run, active := [active70] } }
    let r : State := { restarting with qu := { restarting.qu with active := [active70] } }
    let n : State := { r with qu := { r.qu with replaying := true } }
    let w : State := { s with qu := { s.qu with active := [], runTick := some 0 }, win := { up.win with tick := 5 } }
    Live s ∧ s.qu.qstate ≠ .restart ∧ (s.qu.active.find? fun a => a.req.op == 0x70 && bbyte a.req.body 0 == 0x20) = some active70 ∧ s.qu.down = false ∧
    spWf 0 s.qu.q2h[active70.req.box] = true ∧ s.qu.qh.getLsbD active70.req.box.val = false ∧ s.qu.outbox[active70.req.box] = [] ∧ active70.req.entry = some 5 ∧
    active70.replay = false ∧ bit r.cfg.options 0 = false ∧ r.qu.replaying = false ∧ mayStart r = true ∧ r.qu.active = [active70] ∧ cmdInfo 0x70 = some info ∧
    info.rerun = false ∧ n.qu.replaying = true ∧ n.qu.active ≠ [] ∧ mayStart { restarting with upd := up.upd } = false ∧
    w.qu.runTick = some 0 ∧ (w.win.tick - 0).toNat < 100000000 ∧ w.qu.qstate = .run :=
  ⟨_, ⟨rfl, rfl⟩, by decide, by decide, rfl, rfl, rfl, rfl, rfl, rfl, by decide, rfl, image_starts h, rfl, rfl, rfl, rfl, by decide, rfl, rfl, by decide, rfl⟩
theorem witness_QuillResetsAndRestarts_retain :
    let p : PowerSet := ⟨0x40, 1, 3, false⟩
    let s : State := { up with pset := some p, ops := [op5 .bswap], qu := { up.qu with active := [active0 0x10] } }
    Live s ∧ s.pset = some p ∧ p.mask.getLsbD 6 = true ∧ s.dom[dBoard].st = .run ∧ s.dom[dBoard].goal = none ∧ s.dom[dBoard].after = none ∧
    domIdle s dBoard = false ∧ running s p.cmd (active0 0x10) :=
  ⟨⟨rfl, rfl⟩, rfl, rfl, rfl, rfl, rfl, by decide, by decide, rfl, by decide, rfl, rfl, rfl⟩
/-- Sixteen commands run, the most that the quill holds (R378). -/
def busy16 (s : State) : State := { s with qu := { s.qu with active := List.replicate 16 (active0 0x60) } }
theorem witness_QuillCommandsAnswer_turnedAway :
    let o : State := { up with heldOff := 1 }
    let p : State := { up with bd := { up.bd with spare := up.bd.spare.set 5 (some 9) } }
    let q : State := { up with bd := { up.bd with spare := Vector.replicate 8 (some 0) } }
    let m : State := { up with mir := { up.mir with st := .commit } }
    let t : State := { up with tal := up.tal.set 15 { pend := true, keyed := false } }
    CmdReady 1 (req 1 [1, 0, 1, 0]) (busy16 (onCmd 1 [1, 0, 1, 0] up)) ∧ (busy16 (onCmd 1 [1, 0, 1, 0] up)).qu.active ≠ [] ∧ 16 ≤ (busy16 up).qu.active.length ∧
    domUse o dVellum = .off ∧ CmdReady 0x40 (req 0x40 []) (onCmd 0x40 [] o) ∧ spareOf p 9 = some 5 ∧ CommandsNumbered p ∧ freeSpares q = [] ∧ spareOf q 1 = none ∧
    m.mir.st ≠ .idle ∧ t.tal[(15 : TallyNum)].pend = true ∧ t.tal[(15 : TallyNum)].keyed = false ∧ tallyWaits up (req 0x41 [0, 0, 0, 0]) = false ∧
    1024 ≤ bnat [0, 4, 1] 0 2 ∧ (7 : Nat) < (bbyte [0, 0, 8] 2).toNat ∧ up.qu.blotBad = [] ∧ powerQuiet up ∧ 5 ≤ (bbyte [5] 0).toNat :=
  ⟨⟨⟨rfl, rfl⟩, rfl, rfl, fun h => (nomatch h), rfl, rfl, rfl⟩, by decide, by decide, by decide, cmd_ready _ _ ⟨rfl, rfl⟩ rfl, by decide,
    (by unfold CommandsNumbered; decide), by decide, by decide, fun h => (nomatch h), rfl, rfl, by decide, by decide, by decide, rfl, ⟨rfl, by decide, by decide⟩, by decide⟩

/-- One domain as given. -/
def domAs (d : Fin 32) (f : Dom → Dom) : State := { up with dom := up.dom.set d.val (f up.dom[d]) d.isLt }
theorem witness_PowerDomainsSleepAndWake :
    let asleep := domAs dVec fun x => { x with st := .gated, fclkReq := false, fclkAck := false }
    let busy : State := { up with banks := up.banks.set 0 { up.banks[0] with longs := [.v 1 0] } }
    let going := domAs dVec fun x => { x with goal := some .gated, fclkReq := false }
    let downing := domAs dStream fun x => { x with goal := some .sleepDown, fclkReq := false, fclkAck := false, pwrReq := 0 }
    Live up ∧ domPresent up.var dVec = true ∧ isL2w dVec = false ∧ up.dom[dVec].st = .run ∧ up.dom[dVec].goal = none ∧ up.dom[dVec].latched = false ∧ up.qu.thr[dVec] ≠ 0 ∧
    up.c.ruledAct = false ∧ up.heldOff.getLsbD dVec.val = false ∧ up.heldRet.getLsbD dVec.val = false ∧ domIdle up dVec = true ∧ domIdle busy dVec = false ∧
    domUse asleep dVec = .asleep ∧ asleep.dom[dVec].goal = none ∧ asleep.dom[dVec].st ≠ .run ∧ domUse up dVec ≠ .asleep ∧ up.pset = none ∧
    (∀ e : Fin 32, going.dom[e].after = none) ∧ going.dom[dVec].fclkAck ≠ going.dom[dVec].fclkReq ∧ dVec ≠ dVellum ∧ going.dom[dVec].goal = some .gated ∧
    going.dom[dVec].pwrAck = going.dom[dVec].pwrReq ∧ downing.dom[dStream].pwrAck ≠ downing.dom[dStream].pwrReq ∧ downing.dom[dStream].goal = some .sleepDown ∧
    downing.dom[dStream].fclkAck = downing.dom[dStream].fclkReq ∧ (1 : BitVec 2) ≠ up.dom[dVec].pwrReq ∧ true ≠ asleep.dom[dVec].fclkReq :=
  ⟨⟨rfl, rfl⟩, by decide, by decide, rfl, rfl, rfl, by decide, rfl, rfl, rfl, by decide, by decide, by decide, rfl, by decide, by decide, rfl, by decide, by decide, by decide,
    rfl, rfl, by decide, rfl, rfl, by decide, by decide⟩
theorem witness_PowerDomainsSleepAndWake_wake : ∀ d ∈ [dVec, dTile, dCore], ∀ i : Bool,
    let s := domAs d fun x => { x with st := .off, goal := some .run, init := i }
    Live s ∧ s.pset = none ∧ (∀ e : Fin 32, s.dom[e].after = none) ∧ domPresent s.var d = true ∧ isL2w d = false ∧ domUpAcked s.dom[d] = true ∧ s.dom[d].init = i := by
  have h : ∀ d ∈ [dVec, dTile, dCore], ∀ i : Bool,
      let s := domAs d fun x => { x with st := .off, goal := some .run, init := i }
      (∀ e : Fin 32, s.dom[e].after = none) ∧ domPresent s.var d = true ∧ isL2w d = false ∧ domUpAcked s.dom[d] = true ∧ s.dom[d].init = i := by decide +kernel
  exact fun d hd i => ⟨⟨rfl, rfl⟩, rfl, h d hd i⟩
theorem witness_PowerDomainsSleepAndWake_zeroing :
    let s : State := { up with vellumZeroing := true, port := up.port.set 3 { up.port[3] with up := true } }
    Live s ∧ s.vellumZeroing = true ∧ s.pset = none ∧ s.port[(3 : PortNum)].up = true ∧ up.vellumZeroing = false := ⟨⟨rfl, rfl⟩, rfl, rfl, rfl, rfl⟩
theorem witness_PowerDomainsSleepAndWake_quiet :
    let s := domAs dVec fun x => { x with fclkAck := false, goal := some .gated, fclkReq := true }
    let g := domAs dVec fun x => { x with goal := some .gated, fclkReq := false }
    let w := domAs dVec fun x => { x with goal := some .run, st := .off }
    let v : State := { w with dom := w.dom.set 0 { w.dom[0] with st := .gated } }
    powerQuiet s ∧ powerQuiet g ∧ powerQuiet w ∧ g.dom[dVec].fclkAck ≠ g.dom[dVec].fclkReq ∧ g.dom[dVec].goal = some .gated ∧ domUpAcked w.dom[dVec] = true ∧
    v.dom[dVellum].st ≠ .run ∧ (unitDoms .bswap).find? (fun e => !(domUse { up with heldOff := 0x40 } e == .ready)) = some dBoard ∧
    domUse { up with heldOff := 0x40 } dBoard = .off ∧ Ready .bswap { up with heldOff := 0x40 } ∧ Ready .bswap { up with dom := up.dom.set 6 {} } ∧
    domUse { up with dom := up.dom.set 6 {} } dBoard = .asleep ∧ domUse v dVellum = .asleep ∧ v.dom[dVellum].goal = none ∧
    domUpAcked (domAs dVellum fun x => { x with goal := some .run, st := .gated }).dom[dVellum] = true ∧ up.mir.link = false :=
  ⟨⟨rfl, by decide, by decide⟩, ⟨rfl, by decide, by decide⟩, ⟨rfl, by decide, by decide⟩, by decide, rfl, by decide, by decide, by decide, by decide, ready_of (by decide),
    ready_of (by decide), by decide, by decide, rfl, by decide, rfl⟩
/-- All ports up with credits; the alias at 0x10000000000; L2 as given. -/
def ports (l : List (Nat × Option L2Line)) : State :=
  { up with port := Vector.replicate 4 { ({} : Port) with up := true, snoopCr := 32, targetCr := 16, credits := 4 }, cfg := { up.cfg with mgmtbase := 0x10000000001 }
            ca := { up.ca with l2 := l } }
theorem witness_FabricMessages :
    Live (ports []) ∧ domUse (ports []) dVellum = .ready ∧ (ports []).port[(3 : PortNum)].snoopCr ≠ 0 ∧ inVellum (ports []) (0x80000000 : BitVec 56).toNat = false ∧
    l2Find (dropInner (flushL1d (ports []) (lineNo 0x80000000)) (lineNo 0x80000000)) (lineNo 0x80000000) = none ∧ Memory.wf (ports []).mem = true ∧
    (0x80 : Nat) ≤ (0xFF : Byte).toNat ∧ (ports []).port[(3 : PortNum)].targetCr ≠ 0 ∧ (ports []).vellumZeroing = false ∧ inVellum (ports []) (0x40 : BitVec 56).toNat = true ∧
    (ports []).vellumBad = [] ∧ Memory.wf (ports []).vellum = true ∧ inAlias (ports []) (0x80000000 : BitVec 56).toNat = false ∧ (ports []).win.clearing = false ∧
    inAlias (ports []) (fieldN (ports []).cfg.mgmtbase 55 16 * 65536 + (0x1068 : BitVec 16).toNat) = true ∧ (7 : BitVec 12) ∉ (ports []).port[(3 : PortNum)].reserved ∧
    coreRuns (ports []) = true ∧ (ports []).tlbiRx = [] ∧ (2 : BitVec 2).toNat ≤ 2 ∧ vellumUp up = true ∧ up.port[(3 : PortNum)].up = false ∧
    (ports []).port[(3 : PortNum)].up = true :=
  ⟨⟨rfl, rfl⟩, by decide, by decide, by decide, by decide, rfl, by decide, by decide, rfl, by decide, rfl, rfl, by decide, rfl, by decide, by decide, by decide, rfl, by decide,
    by decide, rfl, rfl⟩
/-- A line in the write-back buffer: a probe of it meets it there, and no other line. -/
theorem witness_FabricMessages_buffered :
    let s : State := { ports [] with ca := { (ports []).ca with wb := [⟨0x2000000, 5, true⟩] } }
    Live s ∧ domUse s dVellum = .ready ∧ s.port[(3 : PortNum)].snoopCr ≠ 0 ∧ inVellum s (0x80000000 : BitVec 56).toNat = false ∧
    s.ca.wb.find? (·.la == lineNo 0x80000000) = some ⟨0x2000000, 5, true⟩ ∧ s.ca.wb.find? (·.la == lineNo 0x80000040) = none ∧
    (ports []).ca.wb.find? (·.la == lineNo 0x80000000) = none :=
  ⟨⟨rfl, rfl⟩, by decide, by decide, by decide, rfl, rfl, rfl⟩
/-- Line 0x2000000 modified in L2. -/
def dirtyLine : L2Line := ⟨0x2000000, .m, false, 5⟩
theorem witness_FabricMessages_messages :
    let s := { ports [] with heldOff := 1 }
    let z := { ports [] with dom := up.dom.set 0 {} }
    snoopOn (.probeShr 3 9 0x40 false) = some (3, 9, false, 0xC1) ∧ domUse s dVellum = .off ∧ domUse z dVellum = .asleep ∧ NoInjection (ports []) ∧
    maskedWord 0xF0 = some 4 ∧ maskedWord 0xFF = none ∧ fieldN (0x10000001068 : W64) 15 0 % 4 = 0 ∧ badEntries (ports []) 0x1068 4 = [] ∧ (0x1001 : Nat) % 4 ≠ 0 ∧
    badWords { ports [] with vellumBad := [8] } 0x40 0xFF = [0] ∧ readError (ports []) false 0x40 8 = none ∧ readError { ports [] with vellumBad := [8] } false 0x40 8 ≠ none ∧
    crcStruck (ports []) 3 = false ∧ (7 : BitVec 12) ∉ (ports []).port[(3 : PortNum)].reserved ∧ interruptDue (ports []) = none ∧ (ports []).stall = none ∧
    (ports []).ca.walks = [] ∧ accessesOut (ports []) = false ∧ noneWritten (ports []) ∧
    accessesOut { ports [] with ca := { up.ca with sb := [{ pa := 64, bytes := [some 0], ty := .cacheable, part := false }] } } = true ∧
    coreTlbUsed (ports []) = false ∧ inAlias (ports []) (0x10000001068 : BitVec 56).toNat = true :=
  ⟨rfl, by decide, by decide, ⟨rfl, rfl⟩, by decide, by decide, by decide, by decide, by decide, by decide, by decide, by decide, by decide, by decide, by decide, rfl, rfl, by decide,
    (by unfold noneWritten; decide), by decide, by decide, by decide⟩
theorem witness_FabricMessages_failed :
    let r := postRecord (ports []) 0x12 0x0D 1 (0x40 : W64) (place 24 3 0 ||| place 24 3 4) false 0
    let l := postRecord (setPort (ports []) 3 { (ports []).port[3] with reserved := [7] }) 0x0A 0x0D 1 (0x40 : W64) 3 false 0
    coreRuns r = true ∧ interruptDue r = none ∧ coreRuns l = true ∧ interruptDue l = none := by decide +kernel
theorem witness_FabricMessages_line : ∃ i l, let s := fillL2 (ports []) 0x2000000 false
    l2Find (dropInner (flushL1d s (lineNo 0x80000000)) (lineNo 0x80000000)) (lineNo 0x80000000) = some (i, l) ∧ l.poison = false ∧
    inVellum s (0x80000000 : BitVec 56).toNat = false ∧ spWf none (dropInner (flushL1d s (lineNo 0x80000000)) (lineNo 0x80000000)).ca.l2 = true :=
  ⟨_, _, rfl, rfl, by decide, by decide⟩
theorem witness_FabricMessages_answers :
    let s : State := { ports [] with tlbiRx := [⟨3, 7, 1⟩], tlbiOut := 1, port := (ports []).port.set 3 { (ports []).port[3] with reserved := [7], token := true } }
    Live s ∧ s.tlbiRx = [⟨3, 7, 1⟩] ∧ domRuns s dVellum = true ∧ s.ca.sb = [] ∧ s.dom[dCore].goal ≠ some .run ∧ (7 : BitVec 12) ∈ s.port[(3 : PortNum)].reserved ∧
    s.port[(3 : PortNum)].token = true ∧ s.tlbiOut ≠ 0 := ⟨⟨rfl, rfl⟩, rfl, by decide, rfl, by decide, by decide, rfl, by decide⟩
theorem witness_ResetsLeaveTheResetState :
    let cold : State := { up with win := { up.win with coldLow := true } }
    let asked : State := { up with win := { up.win with wrst := true } }
    let done : State := { up with win := { up.win with wrst := true, warmDone := true } }
    cold.win.coldLow = true ∧ up.win.coldLow = false ∧ Live ({ up with win := { up.win with clearing := true } } : State) ∧ up.win.warmHigh = false ∧ Live asked ∧
    asked.win.wrst = true ∧ asked.win.warmDone = false ∧ Live done ∧ done.win.warmDone = true ∧ done.win.warmHigh = false ∧ domRuns done dCore = true :=
  ⟨rfl, rfl, ⟨rfl, rfl⟩, rfl, ⟨rfl, rfl⟩, rfl, rfl, ⟨rfl, rfl⟩, rfl, rfl, by decide⟩
/-- Debug enabled, the debug module as given. -/
def dbgOf (d : Dbg) : State := { up with dbg := d, cfg := { up.cfg with options := 2 } }
theorem witness_DebugModuleHaltsAndAccesses :
    let bp := dbgOf { bpen := true, bps := (Vector.replicate 4 0).set 3 1 }
    Live up ∧ dbgEn (dbgOf {}) = true ∧ up.win.clearing = false ∧ haltPoint (dbgOf { haltReq := true }) = true ∧ haltPoint bp = true ∧ bp.dbg.skip = false ∧ bp.stall = none ∧
    breakpointAt bp 3 = true ∧ haltPoint (dbgOf { stepDone := true }) = true ∧ domUse (dbgOf { halted := true }) dCore ≠ .asleep ∧
    ({ busy := true, halted := true, item := 0xF1F } : Dbg).item.toNat = 0xF00 + (31 : GReg).val ∧ up.banks[(0 : BankNum)].longs = [] ∧ domUse up dVellum = .ready ∧
    up.vellumZeroing = false ∧ fieldN (0x1000004 : W64) 55 0 % 8 ≠ 0 ∧ fieldN (0x1000008 : W64) 55 0 % 8 = 0 ∧ inAlias up 0x1000008 = false ∧
    heldGranules up 0x1000008 8 = [] ∧ readError up true (0x1000008 : W64).toNat 8 = none :=
  ⟨⟨rfl, rfl⟩, by decide, rfl, by decide, by decide, rfl, rfl, by decide, by decide, by decide, by decide, rfl, by decide, rfl, by decide, by decide, by decide, rfl,
    by decide⟩
theorem witness_TestWrapperAndInstruments :
    let s : State := { up with test := { up.test with wir := 8, regs := up.test.regs.set 11 0x10 } }
    let u : State := { up with test := { up.test with undef := true } }
    u.test.undef = true ∧ s.test.wir = 8 ∧ fieldN s.test.regs[(0 : Fin 12)] 7 4 ≠ 1 ∧ fieldN s.test.regs[(11 : Fin 12)] 7 4 = 1 := ⟨rfl, rfl, by decide, by decide⟩
theorem witness_DebugModuleHaltsAndAccesses_commands :
    let c (n : BitVec 12) (w : Bool) : State := dbgOf { halted := true, busy := true, write := w, item := n, cbank := 3, data := 5 }
    let m (w : Bool) (a : W64) : State := dbgOf { busy := true, mem := true, write := w, addr := a }
    let z : State := { m false 8 with dom := up.dom.set 0 {} }
    (c 0xF1F true).dbg.item.toNat = 0xF00 + (31 : GReg).val ∧ dbgWaits (c 0xF1F true) = false ∧
    dbgWaits { c 0xF00 false with banks := up.banks.set 3 { up.banks[3] with longs := [.g 3 0] } } = true ∧
    bankItem 0xF20 = true ∧ bankItem 0xEFF = false ∧ regRings up.var 0xEFF = none ∧ bankedReg 1 = true ∧ bankItem 0x90 = false ∧ regRings up.var 0x90 ≠ none ∧
    (m false 4).dbg.busy = true ∧ fieldN (m false 4).dbg.addr 55 0 % 8 ≠ 0 ∧ fieldN (m true 8).dbg.addr 55 0 % 8 = 0 ∧ domUse z dVellum = .asleep ∧
    domUse { m false 8 with heldOff := 1 } dVellum = .off ∧ inVellum (m true 8) 8 = true ∧ (m true 8).dbg.started = none ∧
    (dbgOf { busy := true, mem := true, started := some (false, 8) }).dbg.started = some (false, 8) ∧ NoInjection (dbgOf {}) ∧ readError (dbgOf {}) true 8 8 = none ∧
    readError { dbgOf {} with vellumBad := [1] } true 8 8 ≠ none :=
  ⟨by decide, by decide, by decide, by decide, by decide, by decide, by decide, by decide, by decide, rfl, by decide, by decide, by decide, by decide, by decide, rfl, rfl, ⟨rfl, rfl⟩,
    by decide, by decide⟩
theorem witness_DebugModuleHaltsAndAccesses_write :
    let s := dbgOf { busy := true, mem := true, write := true, started := some (true, 8) }
    let u : State := { s with port := s.port.set 3 { s.port[3] with unconf := 15 } }
    Live s ∧ s.dbg.busy = true ∧ s.dbg.started = some (true, 8) ∧ writesVisible s .other = true ∧ u.dbg.started = some (true, 8) ∧ writesVisible u .other = false :=
  ⟨⟨rfl, rfl⟩, rfl, rfl, by decide, rfl, by decide⟩
theorem witness_TestWrapperAndInstruments_ready :
    let s : State := { up with win := { up.win with warmHigh := true } }
    instrReady s 0 = true ∧ instrReady up 0 = false ∧ instrReady { up with win := { up.win with coldLow := true } } 6 = true ∧ instrReady up 6 = false := by decide +kernel

end Sys2Proof.Tests
end

namespace Sys2Proof

/-! SUPPORT. The decoder reads back what the encoder writes: the fields of a word, what reading finds in each format, and every instruction
(R40 to R48, R461 to R465). -/

/-! Fields of a word as numbers, and what it takes for a field to read as a given operand -/

/-- A field of a word is a digit of the number that its major opcode and the bits below it make. -/
theorem fld_word (major low lo n : Nat) : fld (word major low) lo n = (major * 67108864 + low) % 4294967296 / 2 ^ lo % 2 ^ n := by
  rw [fld, word, BitVec.toNat_ofNat]

/-- A field of a second word. -/
theorem fld_ofNat (x lo n : Nat) : fld (BitVec.ofNat 32 x) lo n = x % 4294967296 / 2 ^ lo % 2 ^ n := by
  rw [fld, BitVec.toNat_ofNat]

theorem fldR_eq_iff {w : W32} {lo : Nat} {r : Fin 32} : fldR w lo = r ↔ fld w lo 5 = r.val := by
  have : fld w lo 5 < 32 := Nat.mod_lt _ (by decide)
  rw [fldR, Fin.ext_iff, Fin.val_ofNat, Nat.mod_eq_of_lt this]
theorem fldT_eq_iff {w : W32} {lo : Nat} {r : Fin 16} : fldT w lo = r ↔ fld w lo 4 = r.val := by
  have : fld w lo 4 < 16 := Nat.mod_lt _ (by decide)
  rw [fldT, Fin.ext_iff, Fin.val_ofNat, Nat.mod_eq_of_lt this]
theorem fldM_eq_iff {w : W32} {lo : Nat} {r : MReg} : fldM w lo = r ↔ fld w lo 3 = r.val := by
  have : fld w lo 3 < 8 := Nat.mod_lt _ (by decide)
  rw [fldM, Fin.ext_iff, Fin.val_ofNat, Nat.mod_eq_of_lt this]
theorem fldV_eq_iff {w : W32} {lo n : Nat} {v : BitVec n} : fldV w lo n = v ↔ fld w lo n = v.toNat := by
  have : fld w lo n < 2 ^ n := Nat.mod_lt _ (by positivity)
  rw [fldV, ← BitVec.toNat_inj, BitVec.toNat_ofNat, Nat.mod_eq_of_lt this]
theorem fldB_eq_iff {w : W32} {lo : Nat} {b : Bool} : fldB w lo = b ↔ fld w lo 1 = b.toNat := by
  have : fld w lo 1 < 2 := Nat.mod_lt _ (by decide)
  cases b with
  | true => simp [fldB]
  | false => simp [fldB]; omega

/-- MK and m are read back from their place. -/
theorem fldMk_eq {w : W32} {mk : Option MReg} (h : fld w 7 4 = maskField mk / 128) : fldMk w = mk := by
  have h1 : fld w 10 1 = fld w 7 4 / 8 := by simp only [fld]; omega
  have h2 : fld w 7 3 = fld w 7 4 % 8 := by simp only [fld]; omega
  cases mk with
  | none =>
    have hb : fldB w 10 = false := fldB_eq_iff.2 (by rw [h1, h]; rfl)
    simp [fldMk, hb]
  | some m =>
    simp only [maskField] at h
    have hb : fldB w 10 = true := fldB_eq_iff.2 (by rw [h1, h, Bool.toNat_true]; omega)
    have hm : fldM w 7 = m := fldM_eq_iff.2 (by omega)
    simp [fldMk, hb, hm]

theorem maskField_lt (mk : Option MReg) : maskField mk < 2048 ∧ maskField mk % 128 = 0 := by
  cases mk with
  | none => decide
  | some m => simp only [maskField]; omega


/-! What reading finds in each format -/

section Formats
variable (rd ra rb rc : GReg) (sf wf load pre : Bool) (sz : BitVec 3) (mk : Option MReg) (w : BitVec 2) {low : Nat} (v : W32)

theorem readWords_aluWord_reg {func : Nat} (hf : func < 512) :
    readWords (aluWord func rd ra sf wf (.reg rb)) v = readAluR func rd ra rb sf wf := by
  have hs := sf.toNat_lt
  have hw := wf.toNat_lt
  have hm : fld (aluWord func rd ra sf wf (.reg rb)) 26 6 = 0x01 := by
    simp only [aluWord, fld_word, at21, at16, at11]; omega
  simp only [readWords, hm]
  congr 1
  all_goals
    simp only [fldR_eq_iff, fldB_eq_iff, aluWord, fld_word, at21, at16, at11]
    omega

theorem readWords_aluWord_imm {func : Nat} (i : BitVec 12) (hf : func < 16) :
    readWords (aluWord func rd ra sf false (.imm i)) v = readAlu func rd ra (.imm i) sf false := by
  have hm : fld (aluWord func rd ra sf false (.imm i)) 26 6 = if sf then 0x03 else 0x02 := by
    simp only [aluWord, fld_word, at21, at16]; split <;> omega
  cases sf
  all_goals
    simp only [readWords, hm, Bool.false_eq_true, if_true, if_false]
    congr 1
    all_goals
      simp only [fldR_eq_iff, fldV_eq_iff, Opnd.imm.injEq, aluWord, fld_word, at21, at16, Bool.false_eq_true, if_true, if_false]
      omega

/-- The functions that formats R and I share. -/
theorem readWords_aluWord {func : Nat} {op : Opnd} (hf : func < 16) (h : aluOk op wf = true) :
    readWords (aluWord func rd ra sf wf op) v = readAlu func rd ra op sf wf := by
  cases op with
  | reg rb =>
    rw [readWords_aluWord_reg _ _ _ _ _ _ (by omega), readAluR]
    all_goals omega
  | imm i =>
    obtain rfl : wf = false := by simpa [aluOk] using h
    exact readWords_aluWord_imm _ _ _ _ _ hf

theorem readWords_wideWord (ins : Bool) (rd : GReg) (lane : BitVec 2) (imm : BitVec 16) :
    readWords (wideWord ins.toNat rd lane imm) v = some (if ins then .imi rd lane imm else .imz rd lane imm) := by
  have hi := ins.toNat_lt
  have hm : fld (wideWord ins.toNat rd lane imm) 26 6 = 0x04 := by
    simp only [wideWord, fld_word, at21]; omega
  have hb : fldB (wideWord ins.toNat rd lane imm) 18 = ins := by
    simp only [fldB_eq_iff, wideWord, fld_word, at21]; omega
  have hr : fldR (wideWord ins.toNat rd lane imm) 21 = rd := by
    simp only [fldR_eq_iff, wideWord, fld_word, at21]; omega
  have hl : fldV (wideWord ins.toNat rd lane imm) 19 2 = lane := by
    simp only [fldV_eq_iff, wideWord, fld_word, at21]; omega
  have hv : fldV (wideWord ins.toNat rd lane imm) 0 16 = imm := by
    simp only [fldV_eq_iff, wideWord, fld_word, at21]; omega
  simp only [readWords, hm, hb, hr, hl, hv]
  cases ins <;> rfl

/-- The scalar access that a load bit tells. -/
def accessOf (load : Bool) (r : GReg) (a : SAddr) (sz : BitVec 3) : Instr := if load then .load r a sz else .store r a sz

theorem readWords_memWord_base (ga : GReg) (imm : BitVec 13) :
    readWords (memWord load rd sz (.base ga imm)) v = some (accessOf load rd (.base ga imm) sz) := by
  have hm : fld (memWord load rd sz (.base ga imm)) 26 6 = if load then 0x08 else 0x09 := by
    simp only [memWord, fld_word, at21, at16]; split <;> omega
  have hr : fldR (memWord load rd sz (.base ga imm)) 21 = rd := by
    simp only [fldR_eq_iff, memWord, fld_word, at21, at16]; split <;> omega
  have ha : fldR (memWord load rd sz (.base ga imm)) 16 = ga := by
    simp only [fldR_eq_iff, memWord, fld_word, at21, at16]; split <;> omega
  have hi : fldV (memWord load rd sz (.base ga imm)) 0 13 = imm := by
    simp only [fldV_eq_iff, memWord, fld_word, at21, at16]; split <;> omega
  have hs : fldV (memWord load rd sz (.base ga imm)) 13 3 = sz := by
    simp only [fldV_eq_iff, memWord, fld_word, at21, at16]; split <;> omega
  simp only [readWords, hm, hr, ha, hi, hs]
  cases load <;> rfl

/-! The fields of format MU, which a repeat may govern. -/

theorem muWord_major : fld (muWord load rd ra pre sz) 26 6 = 0x0A := by
  have hl := load.toNat_lt
  have hp := pre.toNat_lt
  simp only [muWord, fld_word, at21, at16]; omega

theorem muWord_load : fldB (muWord load rd ra pre sz) 12 = load := by
  have hl := load.toNat_lt
  have hp := pre.toNat_lt
  simp only [fldB_eq_iff, muWord, fld_word, at21, at16]; omega

theorem muWord_reg : fldR (muWord load rd ra pre sz) 21 = rd := by
  have hl := load.toNat_lt
  have hp := pre.toNat_lt
  simp only [fldR_eq_iff, muWord, fld_word, at21, at16]; omega

theorem muWord_base : fldR (muWord load rd ra pre sz) 16 = ra := by
  have hl := load.toNat_lt
  have hp := pre.toNat_lt
  simp only [fldR_eq_iff, muWord, fld_word, at21, at16]; omega

theorem muWord_pre : fldB (muWord load rd ra pre sz) 11 = pre := by
  have hl := load.toNat_lt
  have hp := pre.toNat_lt
  simp only [fldB_eq_iff, muWord, fld_word, at21, at16]; omega

theorem muWord_size : fldV (muWord load rd ra pre sz) 13 3 = sz := by
  have hl := load.toNat_lt
  have hp := pre.toNat_lt
  simp only [fldV_eq_iff, muWord, fld_word, at21, at16]; omega

theorem readWords_muWord :
    readWords (muWord load rd ra pre sz) v = some (accessOf load rd (if pre then .pre ra else .post ra) sz) := by
  simp only [readWords, muWord_major, muWord_load, muWord_reg, muWord_base, muWord_pre, muWord_size]
  cases load <;> rfl

theorem readWords_memWord_idx (ga gb : GReg) (s : BitVec 2) :
    readWords (memWord load rd sz (.idx ga gb s)) v = some (accessOf load rd (.idx ga gb s) sz) := by
  have hl := load.toNat_lt
  have hm : fld (memWord load rd sz (.idx ga gb s)) 26 6 = 0x0B := by
    simp only [memWord, fld_word, at21, at16, at11]; omega
  have hb : fldB (memWord load rd sz (.idx ga gb s)) 7 = load := by
    simp only [fldB_eq_iff, memWord, fld_word, at21, at16, at11]; omega
  have hr : fldR (memWord load rd sz (.idx ga gb s)) 21 = rd := by
    simp only [fldR_eq_iff, memWord, fld_word, at21, at16, at11]; omega
  have ha : fldR (memWord load rd sz (.idx ga gb s)) 16 = ga := by
    simp only [fldR_eq_iff, memWord, fld_word, at21, at16, at11]; omega
  have hg : fldR (memWord load rd sz (.idx ga gb s)) 11 = gb := by
    simp only [fldR_eq_iff, memWord, fld_word, at21, at16, at11]; omega
  have hs : fldV (memWord load rd sz (.idx ga gb s)) 5 2 = s := by
    simp only [fldV_eq_iff, memWord, fld_word, at21, at16, at11]; omega
  have hz : fldV (memWord load rd sz (.idx ga gb s)) 8 3 = sz := by
    simp only [fldV_eq_iff, memWord, fld_word, at21, at16, at11]; omega
  simp only [readWords, hm, hb, hr, ha, hg, hs, hz]
  cases load <;> rfl

/-- Scalar loads and stores in every addressing mode. -/
theorem readWords_memWord (a : SAddr) : readWords (memWord load rd sz a) v = some (accessOf load rd a sz) := by
  cases a with
  | base ga imm => exact readWords_memWord_base rd load sz v ga imm
  | post ga => exact readWords_muWord rd ga load false sz v
  | pre ga => exact readWords_muWord rd ga load true sz v
  | idx ga gb s => exact readWords_memWord_idx rd load sz v ga gb s

theorem readWords_moWord : readWords (moWord load rd ra sz) v = some (if load then .lda rd ra sz else .stl rd ra sz) := by
  have hl := load.toNat_lt
  have hm : fld (moWord load rd ra sz) 26 6 = 0x0C := by
    simp only [moWord, fld_word, at21, at16]; omega
  have hb : fldB (moWord load rd ra sz) 12 = load := by
    simp only [fldB_eq_iff, moWord, fld_word, at21, at16]; omega
  have hr : fldR (moWord load rd ra sz) 21 = rd := by
    simp only [fldR_eq_iff, moWord, fld_word, at21, at16]; omega
  have ha : fldR (moWord load rd ra sz) 16 = ra := by
    simp only [fldR_eq_iff, moWord, fld_word, at21, at16]; omega
  have hz : fldV (moWord load rd ra sz) 13 3 = sz := by
    simp only [fldV_eq_iff, moWord, fld_word, at21, at16]; omega
  simp only [readWords, hm, hb, hr, ha, hz]
  cases load <;> rfl

theorem readWords_atomWord (add d a l : Bool) :
    readWords (atomWord add.toNat rd ra rb rc d a l) v = some (if add then .aadd rd ra rb rc d a l else .cas rd ra rb rc d a l) := by
  have hx := add.toNat_lt
  have hd := d.toNat_lt
  have ha := a.toNat_lt
  have hl := l.toNat_lt
  have hm : fld (atomWord add.toNat rd ra rb rc d a l) 26 6 = 0x0D := by
    simp only [atomWord, fld_word, at21, at16, at11]; omega
  have hop : fld (atomWord add.toNat rd ra rb rc d a l) 1 2 = add.toNat := by
    simp only [atomWord, fld_word, at21, at16, at11]; omega
  have hrd : fldR (atomWord add.toNat rd ra rb rc d a l) 21 = rd := by
    simp only [fldR_eq_iff, atomWord, fld_word, at21, at16, at11]; omega
  have hra : fldR (atomWord add.toNat rd ra rb rc d a l) 16 = ra := by
    simp only [fldR_eq_iff, atomWord, fld_word, at21, at16, at11]; omega
  have hrb : fldR (atomWord add.toNat rd ra rb rc d a l) 11 = rb := by
    simp only [fldR_eq_iff, atomWord, fld_word, at21, at16, at11]; omega
  have hrc : fldR (atomWord add.toNat rd ra rb rc d a l) 6 = rc := by
    simp only [fldR_eq_iff, atomWord, fld_word, at21, at16, at11]; omega
  have hbd : fldB (atomWord add.toNat rd ra rb rc d a l) 5 = d := by
    simp only [fldB_eq_iff, atomWord, fld_word, at21, at16, at11]; omega
  have hba : fldB (atomWord add.toNat rd ra rb rc d a l) 4 = a := by
    simp only [fldB_eq_iff, atomWord, fld_word, at21, at16, at11]; omega
  have hbl : fldB (atomWord add.toNat rd ra rb rc d a l) 3 = l := by
    simp only [fldB_eq_iff, atomWord, fld_word, at21, at16, at11]; omega
  simp only [readWords, hm, hop, hrd, hra, hrb, hrc, hbd, hba, hbl]
  cases add <;> rfl

/-! Branches (R44) and control registers (R37) -/

theorem readWords_b (off : BitVec 26) : readWords (word 0x10 off.toNat) v = some (.b off) := by
  have hm : fld (word 0x10 off.toNat) 26 6 = 0x10 := by rw [fld_word]; omega
  have ho : fldV (word 0x10 off.toNat) 0 26 = off := by rw [fldV_eq_iff, fld_word]; omega
  simp only [readWords, hm, ho]

theorem readWords_call (off : BitVec 26) : readWords (word 0x12 off.toNat) v = some (.call off) := by
  have hm : fld (word 0x12 off.toNat) 26 6 = 0x12 := by rw [fld_word]; omega
  have ho : fldV (word 0x12 off.toNat) 0 26 = off := by rw [fldV_eq_iff, fld_word]; omega
  simp only [readWords, hm, ho]

theorem readWords_bCond (cond : BitVec 4) (off : BitVec 22) :
    readWords (word 0x11 (cond.toNat * 4194304 + off.toNat)) v = some (.bCond cond off) := by
  have hm : fld (word 0x11 (cond.toNat * 4194304 + off.toNat)) 26 6 = 0x11 := by rw [fld_word]; omega
  have hc : fldV (word 0x11 (cond.toNat * 4194304 + off.toNat)) 22 4 = cond := by rw [fldV_eq_iff, fld_word]; omega
  have ho : fldV (word 0x11 (cond.toNat * 4194304 + off.toNat)) 0 22 = off := by rw [fldV_eq_iff, fld_word]; omega
  simp only [readWords, hm, hc, ho]

/-- The branches through a register, told apart by [20:16]. -/
def branchOf (ra : GReg) : Nat → Option Instr
  | 0 => some (.br ra)
  | 1 => some (.callr ra)
  | 2 => some .ret
  | _ => none

theorem readWords_branchWord {op : Nat} (ho : op < 32) (hx : low = at21 ra + op * 65536) :
    readWords (word 0x13 low) v = branchOf ra op := by
  subst hx
  have hm : fld (word 0x13 (at21 ra + op * 65536)) 26 6 = 0x13 := by rw [fld_word, at21]; omega
  have hop : fld (word 0x13 (at21 ra + op * 65536)) 16 5 = op := by rw [fld_word, at21]; omega
  have hr : fldR (word 0x13 (at21 ra + op * 65536)) 21 = ra := by rw [fldR_eq_iff, fld_word, at21]; omega
  simp only [readWords, hm, hop, hr]
  rfl

/-- The accesses of control registers and bank items, told apart by [20:19]. -/
def controlOf (r : GReg) (n : BitVec 12) : Nat → Option Instr
  | 0 => some (.mfc r n)
  | 2 => some (.mtc r n)
  | 1 => some (.mfb r n)
  | _ => some (.mtb r n)

theorem readWords_controlWord {op : Nat} (n : BitVec 12) (ho : op < 4) (hx : low = at21 rd + op * 524288 + n.toNat) :
    readWords (word 0x15 low) v = controlOf rd n op := by
  subst hx
  have hm : fld (word 0x15 (at21 rd + op * 524288 + n.toNat)) 26 6 = 0x15 := by rw [fld_word, at21]; omega
  have hop : fld (word 0x15 (at21 rd + op * 524288 + n.toNat)) 19 2 = op := by rw [fld_word, at21]; omega
  have hr : fldR (word 0x15 (at21 rd + op * 524288 + n.toNat)) 21 = rd := by rw [fldR_eq_iff, fld_word, at21]; omega
  have hn : fldV (word 0x15 (at21 rd + op * 524288 + n.toNat)) 0 12 = n := by rw [fldV_eq_iff, fld_word, at21]; omega
  simp only [readWords, hm, hop, hr, hn]
  rfl

/-! The vector formats (R461 to R465) -/

/-- The fields of format V as numbers. -/
theorem vWord_fields {major func vd va vb : Nat} (hj : major < 64) (hf : func < 32) (hd : vd < 32) (ha : va < 32) (hb : vb < 32) :
    fld (vWord major func vd va vb mk w) 26 6 = major ∧ fld (vWord major func vd va vb mk w) 0 5 = func ∧
    fld (vWord major func vd va vb mk w) 21 5 = vd ∧ fld (vWord major func vd va vb mk w) 16 5 = va ∧
    fld (vWord major func vd va vb mk w) 11 5 = vb ∧ fld (vWord major func vd va vb mk w) 5 2 = w.toNat ∧
    fld (vWord major func vd va vb mk w) 7 4 = maskField mk / 128 := by
  obtain ⟨hk, hk'⟩ := maskField_lt mk
  simp only [vWord, fld_word]
  omega

/-- Majors 0x18 and 0x19. -/
theorem readWords_vWord1 {major func : Nat} (vd va vb : VReg) (hj : major = 0x18 ∨ major = 0x19) (hf : func < 32) :
    readWords (vWord major func vd.val va.val vb.val mk w) v = readV1 major func vd va vb mk w := by
  obtain ⟨hm, hfn, hd, ha, hb, hw, hk⟩ := vWord_fields mk w (show major < 64 by omega) hf vd.isLt va.isLt vb.isLt
  obtain rfl | rfl := hj
  all_goals simp only [readWords, hm, hfn, fldR_eq_iff.2 hd, fldR_eq_iff.2 ha, fldR_eq_iff.2 hb, fldV_eq_iff.2 hw, fldMk_eq hk]

/-- Majors 0x1A and 0x1E, whose [25:21] name a mask or a vector register. -/
theorem readWords_vWord2 {major func vd : Nat} (va vb : VReg) (hj : major = 0x1A ∨ major = 0x1E) (hf : func < 32) (hd : vd < 32) :
    readWords (vWord major func vd va.val vb.val mk w) v = readV2 major func (vWord major func vd va.val vb.val mk w) va vb mk w := by
  obtain ⟨hm, hfn, -, ha, hb, hw, hk⟩ := vWord_fields mk w (show major < 64 by omega) hf hd va.isLt vb.isLt
  obtain rfl | rfl := hj
  all_goals simp only [readWords, hm, hfn, fldR_eq_iff.2 ha, fldR_eq_iff.2 hb, fldV_eq_iff.2 hw, fldMk_eq hk]

/-- The mask register at [23:21] of format V. -/
theorem vWord_mask {major func va vb : Nat} (md : MReg) (hj : major < 64) (hf : func < 32) (ha : va < 32) (hb : vb < 32) :
    fldM (vWord major func md.val va vb mk w) 21 = md := by
  obtain ⟨-, -, hd, -⟩ := vWord_fields mk w hj hf (show md.val < 32 by omega) ha hb
  rw [fldM_eq_iff]
  simp only [fld] at hd ⊢
  omega

/-- The vector register at [25:21] of format V. -/
theorem vWord_dest {major func va vb : Nat} (vd : VReg) (hj : major < 64) (hf : func < 32) (ha : va < 32) (hb : vb < 32) :
    fldR (vWord major func vd.val va vb mk w) 21 = vd := by
  obtain ⟨-, -, hd, -⟩ := vWord_fields mk w hj hf vd.isLt ha hb
  exact fldR_eq_iff.2 hd

theorem readWords_vcvt (vd va : VReg) (dt st : BitVec 4) (sat : Bool) :
    readWords (word 0x1B (at21 vd + at16 va + dt.toNat * 4096 + sat.toNat * 2048 + maskField mk + st.toNat)) v =
      some (.vcvt vd va dt st sat mk) := by
  obtain ⟨hk, hk'⟩ := maskField_lt mk
  have hs := sat.toNat_lt
  generalize hx : word 0x1B (at21 vd + at16 va + dt.toNat * 4096 + sat.toNat * 2048 + maskField mk + st.toNat) = x
  have hm : fld x 26 6 = 0x1B := by simp only [← hx, fld_word, at21, at16]; omega
  have hd : fldR x 21 = vd := by simp only [← hx, fldR_eq_iff, fld_word, at21, at16]; omega
  have ha : fldR x 16 = va := by simp only [← hx, fldR_eq_iff, fld_word, at21, at16]; omega
  have hdt : fldV x 12 4 = dt := by simp only [← hx, fldV_eq_iff, fld_word, at21, at16]; omega
  have hst : fldV x 0 4 = st := by simp only [← hx, fldV_eq_iff, fld_word, at21, at16]; omega
  have hb : fldB x 11 = sat := by simp only [← hx, fldB_eq_iff, fld_word, at21, at16]; omega
  have hmk : fldMk x = mk := fldMk_eq (by simp only [← hx, fld_word, at21, at16]; omega)
  simp only [readWords, hm, hd, ha, hdt, hst, hb, hmk]

/-- The fields of major 0x1C beside the addressing mode. -/
theorem vmemWord_fields (r : VReg) (a : VAddr) :
    fld (vmemWord load r mk w a) 26 6 = 0x1C ∧ fldB (vmemWord load r mk w a) 4 = load ∧ fldR (vmemWord load r mk w a) 21 = r ∧
    fldV (vmemWord load r mk w a) 5 2 = w ∧ fldMk (vmemWord load r mk w a) = mk := by
  obtain ⟨hk, hk'⟩ := maskField_lt mk
  have hl := load.toNat_lt
  refine ⟨?_, fldB_eq_iff.2 ?_, fldR_eq_iff.2 ?_, fldV_eq_iff.2 ?_, fldMk_eq ?_⟩
  all_goals
    cases a
    all_goals
      simp only [vmemWord, fld_word, at21, at16, at11]
      omega

/-- The addressing mode of major 0x1C. -/
theorem readVAddr_vmemWord (r : VReg) (a : VAddr) : readVAddr (vmemWord load r mk w a) = a := by
  obtain ⟨hk, hk'⟩ := maskField_lt mk
  have hl := load.toNat_lt
  generalize hx : vmemWord load r mk w a = x
  cases a with
  | base ga imm =>
    have hmode : fld x 2 2 = 0 := by simp only [← hx, vmemWord, fld_word, at21, at16]; omega
    have ha : fldR x 16 = ga := by simp only [← hx, vmemWord, fldR_eq_iff, fld_word, at21, at16]; omega
    have hi : fldV x 11 5 = imm := by simp only [← hx, vmemWord, fldV_eq_iff, fld_word, at21, at16]; omega
    simp only [readVAddr, hmode, ha, hi]
  | post ga =>
    have hmode : fld x 2 2 = 1 := by simp only [← hx, vmemWord, fld_word, at21, at16]; omega
    have ha : fldR x 16 = ga := by simp only [← hx, vmemWord, fldR_eq_iff, fld_word, at21, at16]; omega
    simp only [readVAddr, hmode, ha]
  | pre ga =>
    have hmode : fld x 2 2 = 2 := by simp only [← hx, vmemWord, fld_word, at21, at16]; omega
    have ha : fldR x 16 = ga := by simp only [← hx, vmemWord, fldR_eq_iff, fld_word, at21, at16]; omega
    simp only [readVAddr, hmode, ha]
  | idx ga gb s =>
    have hmode : fld x 2 2 = 3 := by simp only [← hx, vmemWord, fld_word, at21, at16, at11]; omega
    have ha : fldR x 16 = ga := by simp only [← hx, vmemWord, fldR_eq_iff, fld_word, at21, at16, at11]; omega
    have hb : fldR x 11 = gb := by simp only [← hx, vmemWord, fldR_eq_iff, fld_word, at21, at16, at11]; omega
    have hs : fldV x 0 2 = s := by simp only [← hx, vmemWord, fldV_eq_iff, fld_word, at21, at16, at11]; omega
    simp only [readVAddr, hmode, ha, hb, hs]

theorem readWords_vmemWord (r : VReg) (a : VAddr) :
    readWords (vmemWord load r mk w a) v = some (if load then .vload r a mk w else .vstore r a mk w) := by
  obtain ⟨hm, hl, hr, hw, hk⟩ := vmemWord_fields load mk w r a
  simp only [readWords, hm, hl, hr, hw, hk, readVAddr_vmemWord]
  cases load <;> rfl

theorem readWords_maskWord {func d ma mb : Nat} (hf : func < 32) (hd : d < 32) (ha : ma < 8) (hb : mb < 8) :
    readWords (maskWord func d ma mb) v = readV3 0x1D func (maskWord func d ma mb) := by
  have hm : fld (maskWord func d ma mb) 26 6 = 0x1D := by simp only [maskWord, fld_word]; omega
  have hfn : fld (maskWord func d ma mb) 0 5 = func := by simp only [maskWord, fld_word]; omega
  simp only [readWords, hm, hfn]

theorem readWords_rowWord {func d g t gb : Nat} (hf : func < 32) (hd : d < 32) (hg : g < 32) (ht : t < 16) (hb : gb < 32) :
    readWords (rowWord func d g t gb w) v = readV3 0x1F func (rowWord func d g t gb w) := by
  have hm : fld (rowWord func d g t gb w) 26 6 = 0x1F := by simp only [rowWord, fld_word]; omega
  have hfn : fld (rowWord func d g t gb w) 0 5 = func := by simp only [rowWord, fld_word]; omega
  simp only [readWords, hm, hfn]

/-! Format S and the long forms -/

theorem opWord_major_op {major op low : Nat} (hj : major < 64) (ho : op < 64) (hl : low < 1048576) :
    fld (opWord major op low) 26 6 = major ∧ fld (opWord major op low) 20 6 = op := by
  simp only [opWord, fld_word]
  omega

theorem readWords_opWord {major op low : Nat} (hj : major = 0x0E ∨ major = 0x14 ∨ major = 0x16 ∨ major = 0x17) (ho : op < 64)
    (hl : low < 1048576) : readWords (opWord major op low) v = readOp major op (opWord major op low) := by
  obtain ⟨hm, hop⟩ := opWord_major_op (show major < 64 by omega) ho hl
  obtain rfl | rfl | rfl | rfl := hj
  all_goals simp only [readWords, hm, hop]

theorem readWords_opWord_long {major op low : Nat} (hj : major = 0x3D ∨ major = 0x3E ∨ major = 0x3F) (ho : op < 64)
    (hl : low < 1048576) : readWords (opWord major op low) v = readLong major op (opWord major op low) v := by
  obtain ⟨hm, hop⟩ := opWord_major_op (show major < 64 by omega) ho hl
  obtain rfl | rfl | rfl := hj
  all_goals simp only [readWords, hm, hop]

/-- The TLBI instructions, told apart by [9:8]. -/
def tlbiOf (ga gb : GReg) (loc : Bool) : Nat → Option Instr
  | 0 => some (.tlbiAll loc)
  | 1 => some (.tlbiAsid gb loc)
  | 2 => some (.tlbiVa ga gb loc)
  | _ => some (.tlbiVaall ga loc)

theorem readWords_tlbiWord {ty : Nat} (ga gb : GReg) (loc : Bool) (ht : ty < 4) :
    readWords (tlbiWord ga.val gb.val ty loc) v = tlbiOf ga gb loc ty := by
  have hc := loc.toNat_lt
  generalize hx : tlbiWord ga.val gb.val ty loc = x
  have hm : fld x 26 6 = 0x0E := by simp only [← hx, tlbiWord, opWord, fld_word]; omega
  have hop : fld x 20 6 = 1 := by simp only [← hx, tlbiWord, opWord, fld_word]; omega
  have hty : fld x 8 2 = ty := by simp only [← hx, tlbiWord, opWord, fld_word]; omega
  have ha : fldR x 15 = ga := by simp only [← hx, fldR_eq_iff, tlbiWord, opWord, fld_word]; omega
  have hb : fldR x 10 = gb := by simp only [← hx, fldR_eq_iff, tlbiWord, opWord, fld_word]; omega
  have hl : fldB x 7 = loc := by simp only [← hx, fldB_eq_iff, tlbiWord, opWord, fld_word]; omega
  simp only [readWords, readOp, hm, hop, hty, ha, hb, hl]
  rfl

/-- The options in word 2 of IDRAIN, whatever the queue above them (R127). -/
theorem readDrain_drainWord {q : Nat} (o : DrainOpts) : readDrain (drainWord o q) = o := by
  obtain ⟨otype, sr, sat, osc, scale, ecol, nent⟩ := o
  have h1 := sr.toNat_lt
  have h2 := sat.toNat_lt
  have h3 := osc.toNat_lt
  simp only [readDrain, DrainOpts.mk.injEq, fldV_eq_iff, fldB_eq_iff, drainWord, fld_ofNat]
  omega

/-- The queue in word 2 of IDRAIN. -/
theorem queue_drainWord (o : DrainOpts) (q : QNum) : Fin.ofNat 64 (fld (drainWord o q.val) 24 6) = q := by
  have h1 := o.sr.toNat_lt
  have h2 := o.sat.toNat_lt
  have h3 := o.osc.toNat_lt
  simp only [Fin.ext_iff, Fin.val_ofNat, drainWord, fld_ofNat]
  omega

/-- The queue number in word 2. -/
theorem queue_ofNat (q : QNum) : Fin.ofNat 64 (fld (BitVec.ofNat 32 q.val) 0 6) = q := by
  simp only [Fin.ext_iff, Fin.val_ofNat, fld_ofNat]
  omega

/-- What a repeat may govern is read back from its word (R48). -/
theorem readGoverned_governedWord {gc : Option GReg} {vecOk : Bool} {i : Governed} (h : governedOk gc vecOk i = true) :
    readGoverned (governedWord i) = some i := by
  cases i with
  | mu load r ga pre sz =>
    simp only [readGoverned, governedWord, muWord_major, muWord_load, muWord_reg, muWord_base, muWord_pre, muWord_size]
  | vec load r a mk w =>
    obtain ⟨hm, hl, hr, hw, hk⟩ := vmemWord_fields load mk w r a
    simp only [readGoverned, governedWord, hm, hl, hr, hw, hk, readVAddr_vmemWord]
  | other x => cases h

theorem readWords_rep {gc : GReg} {i : Governed} (h : governedOk (some gc) true i = true) :
    readWords (word 0x38 (at21 gc)) (governedWord i) = some (.rep gc i) := by
  have hm : fld (word 0x38 (at21 gc)) 26 6 = 0x38 := by rw [fld_word, at21]; omega
  have hr : fldR (word 0x38 (at21 gc)) 21 = gc := by rw [fldR_eq_iff, fld_word, at21]; omega
  simp only [readWords, hm, hr, readGoverned_governedWord h, Option.map_some]

theorem readWords_repn {n : BitVec 6} {i : Governed} (h : governedOk none false i = true) :
    readWords (word 0x39 (n.toNat * 1048576)) (governedWord i) = some (.repn n i) := by
  have hm : fld (word 0x39 (n.toNat * 1048576)) 26 6 = 0x39 := by rw [fld_word]; omega
  have hn : fldV (word 0x39 (n.toNat * 1048576)) 20 6 = n := by rw [fldV_eq_iff, fld_word]; omega
  simp only [readWords, hm, hn, readGoverned_governedWord h, Option.map_some]

end Formats

/-! The instructions of format S and the long forms -/

section Forms
variable (t t' : TReg) (ga gb gc : GReg) (q : QNum) {low : Nat} (v : W32)

theorem readWords_retx (c : Bool) (hx : low = c.toNat) :
    readWords (opWord 0x14 0x04 low) v = some (if c then .retxC else .retx) := by
  subst hx
  have hc := c.toNat_lt
  have hb : fldB (opWord 0x14 0x04 c.toNat) 0 = c := by simp only [fldB_eq_iff, opWord, fld_word]; omega
  rw [readWords_opWord _ (by decide) (by decide) (by omega)]
  simp only [readOp, hb]
  cases c <;> rfl

theorem readWords_tcfgImm (rowsm1 : BitVec 10) (rbm1 etype : BitVec 4) (mx : Bool) :
    readWords (opWord 0x3D 0x00 (t.val * 65536)) (BitVec.ofNat 32 (rowsm1.toNat + rbm1.toNat * 1024 + etype.toNat * 65536 + mx.toNat * 1048576)) =
      some (.tcfgImm t rowsm1 rbm1 etype mx) := by
  have hx := mx.toNat_lt
  rw [readWords_opWord_long _ (by decide) (by decide) (by omega)]
  simp only [readLong, Option.some.injEq, Instr.tcfgImm.injEq, fldT_eq_iff, fldV_eq_iff, fldB_eq_iff, opWord, fld_word, fld_ofNat]
  omega

/-- TCFG with a register, told apart by bit 10. -/
theorem readWords_tcfg (read : Bool) (hx : low = t.val * 65536 + at11 ga + read.toNat * 1024) :
    readWords (opWord 0x3D 0x01 low) v = some (if read then .tcfgRead ga t else .tcfgReg t ga) := by
  subst hx
  have hr := read.toNat_lt
  generalize hx : opWord 0x3D 0x01 (t.val * 65536 + at11 ga + read.toNat * 1024) = x
  have hb : fldB x 10 = read := by simp only [← hx, fldB_eq_iff, opWord, fld_word, at11]; omega
  have ht : fldT x 16 = t := by simp only [← hx, fldT_eq_iff, opWord, fld_word, at11]; omega
  have ha : fldR x 11 = ga := by simp only [← hx, fldR_eq_iff, opWord, fld_word, at11]; omega
  rw [← hx, readWords_opWord_long _ (by decide) (by decide) (by simp only [at11]; omega), hx]
  simp only [readLong, hb, ht, ha]
  cases read <;> rfl

/-- TLD and TST. -/
theorem readWords_transfer (st : Bool) :
    readWords (opWord 0x3D (2 + st.toNat) (t.val * 65536 + at11 ga + gb.val * 64 + gc.val * 2)) (BitVec.ofNat 32 q.val) =
      some (if st then .tst t ga gb gc q else .tld t ga gb gc q) := by
  generalize hx : opWord 0x3D (2 + st.toNat) (t.val * 65536 + at11 ga + gb.val * 64 + gc.val * 2) = x
  have hs := st.toNat_lt
  have ht : fldT x 16 = t := by simp only [← hx, fldT_eq_iff, opWord, fld_word, at11]; omega
  have ha : fldR x 11 = ga := by simp only [← hx, fldR_eq_iff, opWord, fld_word, at11]; omega
  have hb : fldR x 6 = gb := by simp only [← hx, fldR_eq_iff, opWord, fld_word, at11]; omega
  have hc : fldR x 1 = gc := by simp only [← hx, fldR_eq_iff, opWord, fld_word, at11]; omega
  rw [← hx, readWords_opWord_long _ (by decide) (by omega) (by simp only [at11]; omega), hx]
  cases st <;> simp only [readLong, Bool.toNat_true, Bool.toNat_false, ht, ha, hb, hc, queue_ofNat] <;> rfl

/-- The tile instructions that name one tile, each with its operation. -/
theorem tileWord_reg {major op : Nat} : fldT (opWord major op (t.val * 65536)) 16 = t := by
  simp only [fldT_eq_iff, opWord, fld_word]; omega

theorem readWords_tmov : readWords (opWord 0x3D 0x05 (t.val * 65536 + t'.val * 4096)) v = some (.tmov t t') := by
  rw [readWords_opWord_long _ (by decide) (by decide) (by omega)]
  simp only [readLong, Option.some.injEq, Instr.tmov.injEq, fldT_eq_iff, opWord, fld_word]
  omega

/-- TRDY, told apart by bit 10. -/
theorem readWords_trdy (wait : Bool) (mask : BitVec 16) (hx : low = at11 ga + wait.toNat * 1024) :
    readWords (opWord 0x3D 0x07 low) (BitVec.ofNat 32 mask.toNat) =
      some (if wait then .trdyW ga mask else .trdy ga mask) := by
  subst hx
  have hw := wait.toNat_lt
  generalize hx : opWord 0x3D 0x07 (at11 ga + wait.toNat * 1024) = x
  have hb : fldB x 10 = wait := by simp only [← hx, fldB_eq_iff, opWord, fld_word, at11]; omega
  have ha : fldR x 11 = ga := by simp only [← hx, fldR_eq_iff, opWord, fld_word, at11]; omega
  have hm : fldV (BitVec.ofNat 32 mask.toNat) 0 16 = mask := by simp only [fldV_eq_iff, fld_ofNat]; omega
  rw [← hx, readWords_opWord_long _ (by decide) (by decide) (by simp only [at11]; omega), hx]
  simp only [readLong, hb, ha, hm]
  cases wait <;> rfl

theorem readWords_brun (acc : BitVec 2) (half : Bool) :
    readWords (opWord 0x3E 0x02 (t.val * 65536 + at11 ga + acc.toNat * 512 + half.toNat * 256)) v = some (.brun t ga acc half) := by
  have hh := half.toNat_lt
  rw [readWords_opWord_long _ (by decide) (by decide) (by simp only [at11]; omega)]
  simp only [readLong, Option.some.injEq, Instr.brun.injEq, fldT_eq_iff, fldR_eq_iff, fldV_eq_iff, fldB_eq_iff, opWord, fld_word, at11]
  omega

theorem readWords_bmode (semi : BitVec 3) : readWords (opWord 0x3E 0x03 (semi.toNat * 131072)) v = some (.bmode semi) := by
  rw [readWords_opWord_long _ (by decide) (by decide) (by omega)]
  simp only [readLong, Option.some.injEq, Instr.bmode.injEq, fldV_eq_iff, opWord, fld_word]
  omega

/-- Two registers at [19:15] and [14:10]. -/
theorem pairWord_regs {major op : Nat} :
    fldR (opWord major op (ga.val * 32768 + gb.val * 1024)) 15 = ga ∧ fldR (opWord major op (ga.val * 32768 + gb.val * 1024)) 10 = gb := by
  simp only [fldR_eq_iff, opWord, fld_word]
  omega

/-- A register at [19:15] and a bit at 14. -/
theorem flagWord_fields {major op : Nat} (h : Bool) :
    fldR (opWord major op (ga.val * 32768 + h.toNat * 16384)) 15 = ga ∧ fldB (opWord major op (ga.val * 32768 + h.toNat * 16384)) 14 = h := by
  have hh := h.toNat_lt
  simp only [fldR_eq_iff, fldB_eq_iff, opWord, fld_word]
  omega

/-- A register at [19:15] alone. -/
theorem oneWord_reg {major op : Nat} : fldR (opWord major op (ga.val * 32768)) 15 = ga := by
  simp only [fldR_eq_iff, opWord, fld_word]
  omega

/-- The operands of the three drains, told apart by [19:18]. -/
theorem readWords_idrainTile (o : DrainOpts) :
    readWords (opWord 0x3E 0x05 (ga.val * 8192 + t.val * 512)) (drainWord o 0) = some (.idrainTile ga t o) := by
  generalize hx : opWord 0x3E 0x05 (ga.val * 8192 + t.val * 512) = x
  have hk : fld x 18 2 = 0 := by simp only [← hx, opWord, fld_word]; omega
  have ha : fldR x 13 = ga := by simp only [← hx, fldR_eq_iff, opWord, fld_word]; omega
  have ht : fldT x 9 = t := by simp only [← hx, fldT_eq_iff, opWord, fld_word]; omega
  rw [← hx, readWords_opWord_long _ (by decide) (by decide) (by omega), hx]
  simp only [readLong, hk, ha, ht, readDrain_drainWord]

theorem readWords_idrainVector (vd : VReg) (o : DrainOpts) :
    readWords (opWord 0x3E 0x05 (262144 + ga.val * 8192 + vd.val * 256)) (drainWord o 0) = some (.idrainVector ga vd o) := by
  generalize hx : opWord 0x3E 0x05 (262144 + ga.val * 8192 + vd.val * 256) = x
  have hk : fld x 18 2 = 1 := by simp only [← hx, opWord, fld_word]; omega
  have ha : fldR x 13 = ga := by simp only [← hx, fldR_eq_iff, opWord, fld_word]; omega
  have hd : fldR x 8 = vd := by simp only [← hx, fldR_eq_iff, opWord, fld_word]; omega
  rw [← hx, readWords_opWord_long _ (by decide) (by decide) (by omega), hx]
  simp only [readLong, hk, ha, hd, readDrain_drainWord]

theorem readWords_idrainMemory (o : DrainOpts) :
    readWords (opWord 0x3E 0x05 (524288 + ga.val * 8192 + gb.val * 256 + gc.val * 8)) (drainWord o q.val) = some (.idrainMemory ga gb gc q o) := by
  generalize hx : opWord 0x3E 0x05 (524288 + ga.val * 8192 + gb.val * 256 + gc.val * 8) = x
  have hk : fld x 18 2 = 2 := by simp only [← hx, opWord, fld_word]; omega
  have ha : fldR x 13 = ga := by simp only [← hx, fldR_eq_iff, opWord, fld_word]; omega
  have hb : fldR x 8 = gb := by simp only [← hx, fldR_eq_iff, opWord, fld_word]; omega
  have hc : fldR x 3 = gc := by simp only [← hx, fldR_eq_iff, opWord, fld_word]; omega
  rw [← hx, readWords_opWord_long _ (by decide) (by decide) (by omega), hx]
  simp only [readLong, hk, ha, hb, hc, readDrain_drainWord, queue_drainWord]

theorem readWords_sqstat (w : BitVec 3) :
    readWords (opWord 0x3F 0x01 (ga.val * 32768 + w.toNat * 4096)) (BitVec.ofNat 32 q.val) = some (.sqstat ga q w) := by
  rw [readWords_opWord_long _ (by decide) (by decide) (by omega)]
  simp only [readLong, queue_ofNat, Option.some.injEq, Instr.sqstat.injEq, true_and, fldR_eq_iff, fldV_eq_iff, opWord, fld_word]
  omega

/-- The SQCTL instructions, told apart by [14:13]. -/
def sqctlOf (q : QNum) (gs : GReg) : Nat → Option Instr
  | 0 => some (.sqctlClear q gs)
  | 1 => some (.sqctlRestart q gs)
  | 2 => some (.sqctlRestartAt q gs)
  | _ => some (.sqctlAbandon q gs)

theorem readWords_sqctl {k : Nat} (hk : k < 4) (hx : low = ga.val * 32768 + k * 8192) :
    readWords (opWord 0x3F 0x03 low) (BitVec.ofNat 32 q.val) = sqctlOf q ga k := by
  subst hx
  generalize hx : opWord 0x3F 0x03 (ga.val * 32768 + k * 8192) = x
  have ho : fld x 13 2 = k := by simp only [← hx, opWord, fld_word]; omega
  have ha : fldR x 15 = ga := by simp only [← hx, fldR_eq_iff, opWord, fld_word]; omega
  rw [← hx, readWords_opWord_long _ (by decide) (by decide) (by omega), hx]
  simp only [readLong, queue_ofNat, ho, ha]
  rfl

theorem readWords_fence (mask : BitVec 4) : readWords (opWord 0x0E 0x00 (mask.toNat * 65536)) v = some (.fence mask) := by
  rw [readWords_opWord _ (by decide) (by decide) (by omega)]
  simp only [readOp, Option.some.injEq, Instr.fence.injEq, fldV_eq_iff, opWord, fld_word]
  omega

theorem readWords_callg (gate : BitVec 12) : readWords (opWord 0x14 0x00 (gate.toNat * 256)) v = some (.callg gate) := by
  rw [readWords_opWord _ (by decide) (by decide) (by omega)]
  simp only [readOp, Option.some.injEq, Instr.callg.injEq, fldV_eq_iff, opWord, fld_word]
  omega

theorem readWords_tally (u : TallyNum) :
    readWords (opWord 0x17 0x01 (ga.val * 32768 + gb.val * 1024 + u.val * 64)) v = some (.tally u ga gb) := by
  rw [readWords_opWord _ (by decide) (by decide) (by omega)]
  simp only [readOp, Option.some.injEq, Instr.tally.injEq, fldT_eq_iff, fldR_eq_iff, opWord, fld_word]
  omega

end Forms

/-! Every instruction -/

/-- What reading finds, given what an instruction is encoded as. -/
theorem reads_of_encodes {i : Instr} {a b : W32} {w : W32 × W32} (h : some (a, b) = some w) (hr : readWords a b = some i) :
    readWords w.1 w.2 = some i := by
  cases h
  exact hr

/-- Reading finds in the words of a legal instruction that instruction. -/
theorem readWords_encodeWords {i : Instr} {w : W32 × W32} (hi : wellFormed i = true) (h : encodeWords i = some w) :
    readWords w.1 w.2 = some i := by
  cases i with
  | add rd ra op sf wf | sub rd ra op sf wf | and rd ra op sf wf | or rd ra op sf wf | xor rd ra op sf wf | andn rd ra op sf wf
  | shl rd ra op sf wf | shr rd ra op sf wf | sar rd ra op sf wf | ror rd ra op sf wf | mul rd ra op sf wf | mulh rd ra op sf wf
  | mulhu rd ra op sf wf | min rd ra op sf wf | max rd ra op sf wf | cmp ra op sf wf =>
    exact reads_of_encodes h (readWords_aluWord _ _ _ _ _ (by decide) hi)
  | div rd ra rb sf wf | divu rd ra rb sf wf | rem rd ra rb sf wf | remu rd ra rb sf wf | clz rd ra sf wf | popc rd ra sf wf =>
    exact reads_of_encodes h (readWords_aluWord_reg _ _ _ _ _ _ (by decide))
  | imz rd lane imm => exact reads_of_encodes h (readWords_wideWord 0 false rd lane imm)
  | imi rd lane imm => exact reads_of_encodes h (readWords_wideWord 0 true rd lane imm)
  | load rd a sz => exact reads_of_encodes h (readWords_memWord rd true sz 0 a)
  | store rs a sz => exact reads_of_encodes h (readWords_memWord rs false sz 0 a)
  | lda rd ga sz => exact reads_of_encodes h (readWords_moWord rd ga true sz 0)
  | stl rs ga sz => exact reads_of_encodes h (readWords_moWord rs ga false sz 0)
  | cas rd ga rb rc d a l => exact reads_of_encodes h (readWords_atomWord rd ga rb rc 0 false d a l)
  | aadd rd ga rb rc d a l => exact reads_of_encodes h (readWords_atomWord rd ga rb rc 0 true d a l)
  | fence mask => exact reads_of_encodes h (readWords_fence 0 mask)
  | tlbiAll loc => exact reads_of_encodes h (readWords_tlbiWord 0 0 0 loc (by decide))
  | tlbiAsid gb loc => exact reads_of_encodes h (readWords_tlbiWord 0 0 gb loc (by decide))
  | tlbiVa ga gb loc => exact reads_of_encodes h (readWords_tlbiWord 0 ga gb loc (by decide))
  | tlbiVaall ga loc => exact reads_of_encodes h (readWords_tlbiWord 0 ga 0 loc (by decide))
  | b off => exact reads_of_encodes h (readWords_b 0 off)
  | bCond cond off => exact reads_of_encodes h (readWords_bCond 0 cond off)
  | call off => exact reads_of_encodes h (readWords_call 0 off)
  | br ra => exact reads_of_encodes h (readWords_branchWord (op := 0) ra 0 (by decide) (by simp))
  | callr ra => exact reads_of_encodes h (readWords_branchWord (op := 1) ra 0 (by decide) (by simp))
  | ret => exact reads_of_encodes h (readWords_branchWord (op := 2) 0 0 (by decide) rfl)
  | mfc rd n => exact reads_of_encodes h (readWords_controlWord (op := 0) rd 0 n (by decide) (by simp))
  | mfb rd n => exact reads_of_encodes h (readWords_controlWord (op := 1) rd 0 n (by decide) (by simp))
  | mtc rs n => exact reads_of_encodes h (readWords_controlWord (op := 2) rs 0 n (by decide) (by simp))
  | mtb rs n => exact reads_of_encodes h (readWords_controlWord (op := 3) rs 0 n (by decide) (by simp))
  | callg gate => exact reads_of_encodes h (readWords_callg 0 gate)
  | retx => exact reads_of_encodes h (readWords_retx 0 false (by simp))
  | retxC => exact reads_of_encodes h (readWords_retx 0 true (by simp))
  | retg | sysc | sysr | holdend | waiti | plyc =>
    exact reads_of_encodes h (readWords_opWord _ (by decide) (by decide) (by decide))
  | sspush g | sspinc g =>
    refine reads_of_encodes h ?_
    rw [readWords_opWord _ (by decide) (by decide) (by omega)]
    simp only [readOp, oneWord_reg]
  | svm ga gm | ldm ga gm =>
    refine reads_of_encodes h ?_
    rw [readWords_opWord _ (by decide) (by decide) (by omega)]
    simp only [readOp, pairWord_regs]
  | svh ga k | ldh ga k =>
    refine reads_of_encodes h ?_
    have hk := k.toNat_lt
    rw [readWords_opWord _ (by decide) (by decide) (by omega)]
    simp only [readOp, flagWord_fields]
  | tally u gs gk => exact reads_of_encodes h (readWords_tally gs gk 0 u)
  | rep gc k => exact reads_of_encodes h (readWords_rep hi)
  | repn n k => exact reads_of_encodes h (readWords_repn hi)
  | tcfgImm t rowsm1 rbm1 etype mx => exact reads_of_encodes h (readWords_tcfgImm t rowsm1 rbm1 etype mx)
  | tcfgReg t ga => exact reads_of_encodes h (readWords_tcfg t ga 0 false (by simp))
  | tcfgRead gd t => exact reads_of_encodes h (readWords_tcfg t gd 0 true (by simp))
  | tld t ga gb gc q => exact reads_of_encodes h (readWords_transfer t ga gb gc q false)
  | tst t ga gb gc q => exact reads_of_encodes h (readWords_transfer t ga gb gc q true)
  | tzero t | trel t | tresume t | bplane t =>
    refine reads_of_encodes h ?_
    rw [readWords_opWord_long _ (by decide) (by decide) (by omega)]
    simp only [readLong, tileWord_reg]
  | tmov td ts => exact reads_of_encodes h (readWords_tmov td ts 0)
  | trdy gd mask => exact reads_of_encodes h (readWords_trdy gd false mask (by simp))
  | trdyW gd mask => exact reads_of_encodes h (readWords_trdy gd true mask (by simp))
  | bswap => exact reads_of_encodes h (readWords_opWord_long _ (by decide) (by decide) (by decide))
  | brun t gr acc half => exact reads_of_encodes h (readWords_brun t gr 0 acc half)
  | bmode semi => exact reads_of_encodes h (readWords_bmode 0 semi)
  | iclr gr gc | slaunch gr gc =>
    refine reads_of_encodes h ?_
    rw [readWords_opWord_long _ (by decide) (by decide) (by omega)]
    simp only [readLong, pairWord_regs]
  | idrainTile gr t o => exact reads_of_encodes h (readWords_idrainTile t gr o)
  | idrainVector gr vd o => exact reads_of_encodes h (readWords_idrainVector gr vd o)
  | idrainMemory gr ga gb q o => exact reads_of_encodes h (readWords_idrainMemory gr ga gb q o)
  | smove q g | sqwait g q =>
    refine reads_of_encodes h ?_
    rw [readWords_opWord_long _ (by decide) (by decide) (by omega)]
    simp only [readLong, oneWord_reg, queue_ofNat]
  | sqstat gd q x => exact reads_of_encodes h (readWords_sqstat gd q x)
  | sqctlClear q gs => exact reads_of_encodes h (readWords_sqctl (k := 0) gs q (by decide) (by simp))
  | sqctlRestart q gs => exact reads_of_encodes h (readWords_sqctl (k := 1) gs q (by decide) (by simp))
  | sqctlRestartAt q gs => exact reads_of_encodes h (readWords_sqctl (k := 2) gs q (by decide) (by simp))
  | sqctlAbandon q gs => exact reads_of_encodes h (readWords_sqctl (k := 3) gs q (by decide) (by simp))
  | vadd vd va vb mk x | vsub vd va vb mk x | vmul vd va vb mk x | vmin vd va vb mk x | vmax vd va vb mk x | vminu vd va vb mk x
  | vmaxu vd va vb mk x | vand vd va vb mk x | vor vd va vb mk x | vxor vd va vb mk x | vshl vd va vb mk x | vshr vd va vb mk x
  | vsar vd va vb mk x | vfadd vd va vb mk x | vfsub vd va vb mk x | vfmul vd va vb mk x | vfdiv vd va vb mk x | vfmin vd va vb mk x
  | vfmax vd va vb mk x | vfma vd va vb mk x | vfnma vd va vb mk x =>
    exact reads_of_encodes h (readWords_vWord1 mk x 0 vd va vb (by decide) (by decide))
  | vfsqrt vd va mk x => exact reads_of_encodes h (readWords_vWord1 mk x 0 vd va 0 (by decide) (by decide))
  | vcmpeq md va vb mk x | vcmplt md va vb mk x | vcmpltu md va vb mk x | vfcmpeq md va vb mk x | vfcmplt md va vb mk x
  | vfcmple md va vb mk x =>
    refine reads_of_encodes h ((readWords_vWord2 mk x 0 va vb (by decide) (by decide) (by omega)).trans ?_)
    simp only [readV2]
    rw [vWord_mask mk x md (by decide) (by decide) va.isLt vb.isLt]
  | vrsum vd va mk x | vrmax vd va mk x | vrmin vd va mk x | vradd vd va mk x =>
    refine reads_of_encodes h ((readWords_vWord2 mk x 0 va 0 (by decide) (by decide) vd.isLt).trans ?_)
    simp only [readV2]
    rw [vWord_dest mk x vd (by decide) (by decide) va.isLt (by decide)]
  | vcvt vd va dt st sat mk => exact reads_of_encodes h (readWords_vcvt mk 0 vd va dt st sat)
  | vload r a mk x => exact reads_of_encodes h (readWords_vmemWord true mk x 0 r a)
  | vstore r a mk x => exact reads_of_encodes h (readWords_vmemWord false mk x 0 r a)
  | mand md ma mb | mor md ma mb | mxor md ma mb =>
    refine reads_of_encodes h ((readWords_maskWord 0 (by decide) (by omega) ma.isLt mb.isLt).trans ?_)
    simp only [readV3, Option.some.injEq, Instr.mand.injEq, Instr.mor.injEq, Instr.mxor.injEq, fldM_eq_iff, maskWord, fld_word]
    omega
  | mnot md ma =>
    refine reads_of_encodes h ((readWords_maskWord 0 (by decide) (by omega) ma.isLt (by decide)).trans ?_)
    simp only [readV3, Option.some.injEq, Instr.mnot.injEq, fldM_eq_iff, maskWord, fld_word]
    omega
  | mset md =>
    refine reads_of_encodes h ((readWords_maskWord 0 (by decide) (by omega) (by decide) (by decide)).trans ?_)
    simp only [readV3, Option.some.injEq, Instr.mset.injEq, fldM_eq_iff, maskWord, fld_word]
    omega
  | mcnt gd ma =>
    refine reads_of_encodes h ((readWords_maskWord 0 (by decide) gd.isLt ma.isLt (by decide)).trans ?_)
    simp only [readV3, Option.some.injEq, Instr.mcnt.injEq, fldR_eq_iff, fldM_eq_iff, maskWord, fld_word]
    omega
  | vtrd d t g | vtwr d t g | vtrdS d t g | vtwrS d t g =>
    refine reads_of_encodes h ((readWords_rowWord 0 0 (by decide) d.isLt g.isLt t.isLt (by decide)).trans ?_)
    simp only [readV3, Option.some.injEq, Instr.vtrd.injEq, Instr.vtwr.injEq, Instr.vtrdS.injEq, Instr.vtwrS.injEq, fldR_eq_iff,
      fldT_eq_iff, rowWord, fld_word]
    omega
  | vext d g b x | vins d g b x =>
    refine reads_of_encodes h ((readWords_rowWord x 0 (by decide) d.isLt g.isLt (by decide) b.isLt).trans ?_)
    simp only [readV3, Option.some.injEq, Instr.vext.injEq, Instr.vins.injEq, fldR_eq_iff, fldV_eq_iff, rowWord, fld_word]
    omega
  | vsplat d g x =>
    refine reads_of_encodes h ((readWords_rowWord x 0 (by decide) d.isLt g.isLt (by decide) (by decide)).trans ?_)
    simp only [readV3, Option.some.injEq, Instr.vsplat.injEq, fldR_eq_iff, fldV_eq_iff, rowWord, fld_word]
    omega
  | _ => cases h

/-- The majors of the long forms open a form of two words. -/
theorem twoWords_opWord {major op low : Nat} (hj : major = 0x3D ∨ major = 0x3E ∨ major = 0x3F) (ho : op < 64) (hl : low < 1048576) :
    twoWords (opWord major op low) = true := by
  have h : (opWord major op low).toNat / 67108864 = major := by
    simp only [opWord, word, BitVec.toNat_ofNat]
    omega
  obtain rfl | rfl | rfl := hj
  all_goals simp only [twoWords, h, beq_self_eq_true, Bool.or_true, Bool.true_or]

/-- So do the repeat instructions (R48). -/
theorem twoWords_repeat {major low : Nat} (hj : major = 0x38 ∨ major = 0x39) (hl : low < 67108864) : twoWords (word major low) = true := by
  have h : (word major low).toNat / 67108864 = major := by
    simp only [word, BitVec.toNat_ofNat]
    omega
  obtain rfl | rfl := hj
  all_goals simp only [twoWords, h, beq_self_eq_true, Bool.or_true, Bool.true_or]

/-- A first word, given what an instruction is encoded as. -/
theorem twoWords_of_encodes {a b : W32} {w : W32 × W32} (h : some (a, b) = some w) (ha : twoWords a = true) : twoWords w.1 = true := by
  cases h
  exact ha

/-- A second word of 0, where the encoding has one at all. -/
theorem second_eq_zero {i : Instr} {w : W32 × W32} (h : encodeWords i = some w) (hz : ((encodeWords i).map Prod.snd).getD 0 = 0) : w.2 = 0 := by
  rw [h] at hz
  exact hz

/-- The second word of an encoding is 0 where the first opens a form of one word. -/
theorem second_word_counts {i : Instr} {w : W32 × W32} (h : encodeWords i = some w) : twoWords w.1 = true ∨ w.2 = 0 := by
  cases i with
  | rep gc k => exact .inl (twoWords_of_encodes h (twoWords_repeat (by decide) (by simp only [at21]; omega)))
  | repn n k => exact .inl (twoWords_of_encodes h (twoWords_repeat (by decide) (by omega)))
  | tld t ga gb gc q | tst t ga gb gc q | trdyW gd mask | trdy gd mask =>
    exact .inl (twoWords_of_encodes h (twoWords_opWord (by decide) (by decide) (by simp only [at11]; omega)))
  | tcfgImm t rowsm1 rbm1 etype mx | idrainTile gr t o | idrainVector gr vd o | idrainMemory gr ga gb q o | smove q ga | sqstat gd q x
  | sqwait gd q | sqctlClear q gs | sqctlRestart q gs | sqctlRestartAt q gs | sqctlAbandon q gs =>
    exact .inl (twoWords_of_encodes h (twoWords_opWord (by decide) (by decide) (by omega)))
  | _ => exact .inr (second_eq_zero h rfl)

/-- Settles O6: reading finds the instruction in its words, and the second word counts wherever it is not 0, so the decoder sees both. -/
theorem decodeOfEncodeIsIdentity : Obligations.DecodeOfEncodeIsIdentity := by
  intro i w hi h
  have hv : (if twoWords w.1 = true then w.2 else 0) = w.2 := by
    split
    · rfl
    · next h1 => exact ((second_word_counts h).resolve_left h1).symm
  simp only [decodeWords, hv, readWords_encodeWords hi h]
  rw [if_pos ⟨hi, h⟩]
end Sys2Proof

namespace Sys2Proof.Machine

/-! SUPPORT. What no command changes. The lemma `f_kept` says that the function `f` of the model leaves the queue of commands that wait and the
variant as they are; for an answer that carries a state it speaks of that state. Each goes along the branches of its `f` and cites the lemmas of
the functions that `f` calls, so `exec` comes last. `↓` has `simp only` use a lemma before it looks into the state that the call was made on; where
`f` tells the answers of a call apart, `grind` gets the lemma of that call with `!`, which makes it speak of the answer as a whole. -/

/-- What no command changes: the queue of commands that wait, and the variant. -/
def State.kept (s : State) : List Instr × Variant := (s.pending, s.var)

/-- The two fields of a state, gathered again. -/
theorem State.kept_pair (s : State) : (s.pending, s.var) = s.kept := rfl

/-- No other field of a record of the state matters. -/
theorem State.kept_mk (var freeCtr pending stall banks c tiles nib ops nextOp bd ink inkBad inkZeroing sq scribes rings lastRing placed vellum
    vellumBad vellumZeroing mem memBad ca tal mir err qu upd port tlbiRx tlbiOut win dbg test cfg dom heldOff heldRet pset) :
    State.kept (State.mk var freeCtr pending stall banks c tiles nib ops nextOp bd ink inkBad inkZeroing sq scribes rings lastRing placed vellum
      vellumBad vellumZeroing mem memBad ca tal mir err qu upd port tlbiRx tlbiOut win dbg test cfg dom heldOff heldRet pset) = (pending, var) :=
  rfl

/-! The state in an answer -/

def Res.state : Res → State
  | .ok _ s | .jump _ s | .done s | .exc _ _ s | .wait s | .trap s => s

def CmdOut.state : CmdOut → State
  | .fin _ _ _ s | .hello _ _ _ _ _ s | .acc s | .accEnd _ _ _ s => s

def Tr.state : Tr → State
  | .ok s _ _ | .bad s _ _ => s

def LoadOut.state : LoadOut → State
  | .bytes s _ | .fault s _ | .wait s => s

def StoreOut.state : StoreOut → State
  | .done s | .fault s _ | .wait s => s

def SOut.state : SOut → State
  | .done s _ | .stop s _ _ _ | .wait s => s

def WOut.state : WOut → State
  | .done s _ | .stop s _ _ _ | .wait s => s

def Issued.state : Issued → State
  | .yes s | .no s => s

/-- The next state of an outcome; the state as it was where there is none. -/
def outState (s : State) : Host.Outcome State Fault Refusal → State
  | .next t => t
  | _ => s

/-- A fold keeps what each of its steps keeps. -/
theorem foldl_kept {α : Type} (f : State → α → State) (hf : ∀ s a, (f s a).kept = s.kept) (l : List α) (s : State) :
    (l.foldl f s).kept = s.kept :=
  foldl_keeps (fun t => t.kept = s.kept) f (fun t a h => (hf t a).trans h) l s rfl

/-! ### Configuration constants, and physical memory: the vellum, the memory behind the fabric, the caches and the store buffer as the agents see
them -/

theorem disarm_kept (s : State) : (disarm s).kept = s.kept := rfl

theorem plant_kept (s : State) (unit : Byte) (kind : Nat) : (plant s unit kind).kept = s.kept := rfl

theorem clearSpot_kept (s : State) (unit : Byte) (loc : Nat) : (clearSpot s unit loc).kept = s.kept := rfl

theorem injVellum_kept (s : State) (o n : Nat) : (injVellum s o n).kept = s.kept := by
  simp only [injVellum, ↓State.kept_mk, State.kept_pair, apply_ite State.kept, ite_self, ↓plant_kept]

theorem freshVellum_kept (s : State) (o n : Nat) : (freshVellum s o n).kept = s.kept := rfl

theorem writeVellum_kept (s : State) (o : Nat) (bs : List Byte) : (writeVellum s o bs).kept = s.kept := by
  simp only [writeVellum, ↓State.kept_mk, State.kept_pair, ↓freshVellum_kept, ↓injVellum_kept]

theorem writeMem_kept (s : State) (pa : Nat) (bs : List Byte) : (writeMem s pa bs).kept = s.kept := rfl

theorem putMemLine_kept (s : State) (la : BitVec 50) (poison : Bool) (d : LineWord) : (putMemLine s la poison d).kept = s.kept := by
  simp only [putMemLine, ↓State.kept_mk, State.kept_pair, apply_ite State.kept, ite_self, ↓writeMem_kept]

theorem dropInner_kept (s : State) (la : BitVec 50) : (dropInner s la).kept = s.kept := rfl

theorem setL2Line_kept (s : State) (k : Nat) (l : L2Line) (dws : List Nat) : (setL2Line s k l dws).kept = s.kept := by
  have clears (s : State) : (dws.foldl (fun s d => clearSpot s 0x04 (l2Loc k d)) s).kept = s.kept :=
    foldl_kept _ (fun s d => clearSpot_kept s 0x04 (l2Loc k d)) dws s
  simp only [setL2Line]
  split <;> simp only [↓State.kept_mk, State.kept_pair, apply_ite State.kept, ite_self, clears, ↓plant_kept]

theorem flushL1d_kept (s : State) (la : BitVec 50) : (flushL1d s la).kept = s.kept := by
  unfold flushL1d
  split
  · rfl
  · dsimp only
    split
    · split
      · exact setL2Line_kept ..
      · exact putMemLine_kept ..
    · rfl

theorem unbuffer_kept (s : State) (la : BitVec 50) : (unbuffer s la).kept = s.kept := rfl

theorem evictL2_kept (s : State) (la : BitVec 50) : (evictL2 s la).kept = s.kept := by
  dsimp only [evictL2]
  split <;> simp only [↓State.kept_mk, State.kept_pair, apply_ite State.kept, ite_self, ↓putMemLine_kept, ↓flushL1d_kept, ↓dropInner_kept]

theorem touchL2_kept (s : State) (k : Nat) : (touchL2 s k).kept = s.kept := rfl

theorem touchHit_kept (s : State) (la : BitVec 50) : (touchHit s la).kept = s.kept := by
  unfold touchHit
  split <;> simp only [↓touchL2_kept]

theorem bringL2_kept (s : State) (la : BitVec 50) (own : Bool) : (bringL2 s la own).kept = s.kept := by
  dsimp only [bringL2]
  repeat' split
  all_goals simp only [↓State.kept_mk, State.kept_pair, ↓setL2Line_kept, ↓evictL2_kept, ↓unbuffer_kept, ↓touchL2_kept]

theorem fillL2_kept (s : State) (la : BitVec 50) (own : Bool) : (fillL2 s la own).kept = s.kept := by
  simp only [fillL2, apply_ite State.kept, ite_self, ↓dropInner_kept, ↓bringL2_kept]

theorem writeLine_kept (s : State) (pa : Nat) (bs : List Byte) : (writeLine s pa bs).kept = s.kept := by
  dsimp only [writeLine]
  split <;> simp only [↓writeMem_kept, ↓setL2Line_kept, ↓touchL2_kept, ↓flushL1d_kept, ↓dropInner_kept]

theorem cohWrite_kept (s : State) (pa : Nat) (bs : List Byte) : (cohWrite s pa bs).kept = s.kept := by
  simp only [cohWrite, apply_ite State.kept, ite_self, foldl_kept, implies_true, ↓writeLine_kept, ↓writeVellum_kept]

theorem rawWrite_kept (s : State) (pa : Nat) (bs : List Byte) : (rawWrite s pa bs).kept = s.kept := by
  simp only [rawWrite, apply_ite State.kept, ite_self, ↓writeMem_kept, ↓writeVellum_kept]

theorem typedWrite_kept (s : State) (ag : Agent) (ty : MType) (pa : Nat) (bs : List Byte) : (typedWrite s ag ty pa bs).kept = s.kept := by
  simp only [typedWrite, apply_ite State.kept, ite_self, foldl_kept, implies_true, ↓cohWrite_kept, ↓evictL2_kept, ↓rawWrite_kept]

/-! ### The fast domains: presence, use, and the handshakes of clocks and power -/

theorem setDom_kept (s : State) (d : Fin 32) (x : Dom) : (setDom s d x).kept = s.kept := rfl

theorem wakeRequest_kept (s : State) (d : Fin 32) : (wakeRequest s d).kept = s.kept := by
  simp only [wakeRequest, apply_ite State.kept, ite_self, ↓setDom_kept]

/-! ### The mirrored ranges, their granules, the maps of changed granules, and the granules that a running commit holds -/

theorem setMapBit_kept (s : State) (gen v : Bool) (g : Nat) : (setMapBit s gen v g).kept = s.kept := rfl

theorem markDirty_kept (s : State) (pa n : Nat) : (markDirty s pa n).kept = s.kept := by
  unfold markDirty
  split
  · exact foldl_kept _ (fun s g => (setMapBit_kept (setMapBit s false true g) true true g).trans (setMapBit_kept s false true g)) _ s
  · rfl

theorem askGranules_kept (s : State) (gs : List Nat) : (askGranules s gs).kept = s.kept := by
  unfold askGranules
  split <;> simp only [↓State.kept_mk, State.kept_pair]

/-! ### Interrupt pending bits, error records and their posting, what a read of the stores meets, and the writes of the core's own agents -/

theorem setPending_kept (s : State) (v : Byte) (on : Bool) : (setPending s v on).kept = s.kept := rfl

theorem pend_kept (s : State) (v : Byte) : (pend s v).kept = s.kept := by
  simp only [pend, ↓setPending_kept, ↓wakeRequest_kept]

theorem draw_kept (w : Nat) (s : State) : (draw w s).2.kept = s.kept := rfl

theorem setErrLast_kept (s : State) (r : BitVec 256) : (setErrLast s r).kept = s.kept := rfl

theorem driveLine_kept (s : State) (sev : Nat) : (driveLine s sev).kept = s.kept := by
  simp only [driveLine, ↓State.kept_mk, State.kept_pair, ↓pend_kept]

theorem noteCheck_kept (s : State) (unit : Byte) (sev : Nat) (loc : W64) : (noteCheck s unit sev loc).kept = s.kept := by
  simp only [noteCheck, ↓State.kept_mk, State.kept_pair, apply_ite State.kept, ite_self]

theorem postRecord_kept (s : State) (cls unit : Byte) (sev : BitVec 2) (loc : W64) (synd : BitVec 24) (inj : Bool) (extra : BitVec 16) :
    (postRecord s cls unit sev loc synd inj extra).kept = s.kept := by
  simp only [postRecord, ↓State.kept_mk, State.kept_pair, apply_ite State.kept, ite_self, ↓setErrLast_kept, ↓noteCheck_kept, ↓driveLine_kept]

theorem freeClass_kept (s : State) : (freeClass s).2.kept = s.kept := rfl

theorem postCe_kept (s : State) (unit : Byte) (loc : Nat) (synd : Byte) (inj : Bool) : (postCe s unit loc synd inj).kept = s.kept := by
  simp only [postCe, ↓postRecord_kept]

theorem postUe_kept (s : State) (unit : Byte) (loc : Nat) (inj : Bool) : (postUe s unit loc inj).kept = s.kept := by
  simp only [postUe, ↓postRecord_kept]

theorem postPoison_kept (s : State) (unit : Byte) (loc : Nat) (inj : Bool) : (postPoison s unit loc inj).kept = s.kept := by
  simp only [postPoison, ↓postRecord_kept]

theorem meetSingle_kept (s : State) (unit : Byte) (spot loc : Nat) : (meetSingle s unit spot loc).kept = s.kept := by
  simp only [meetSingle, apply_ite State.kept, ite_self, ↓clearSpot_kept, ↓postCe_kept]

theorem discardLine_kept (s : State) (la : BitVec 50) : (discardLine s la).kept = s.kept := by
  dsimp only [discardLine]
  repeat' split
  all_goals simp only [↓State.kept_mk, State.kept_pair, ↓dropInner_kept]

theorem doubleBitL2_kept (s : State) (k : Nat) : (doubleBitL2 s k).kept = s.kept := by
  unfold doubleBitL2
  split <;> simp only [↓State.kept_mk, State.kept_pair, apply_ite State.kept, ite_self, ↓discardLine_kept]

theorem meetL2_kept (s : State) (k d : Nat) : (meetL2 s k d).kept = s.kept := by
  simp only [meetL2, apply_ite State.kept, ite_self, ↓meetSingle_kept, ↓clearSpot_kept, ↓doubleBitL2_kept, ↓postUe_kept]

theorem meetSpot_kept (s : State) (w : Nat) :
    (match l2Find s (lineNo (8 * w)) with
      | some (k, _) => meetL2 s k (w % 8)
      | none => s).kept = s.kept := by
  split
  · exact meetL2_kept ..
  · rfl

theorem meetSpots_kept (s : State) (coh : Bool) (pa n : Nat) : (meetSpots s coh pa n).kept = s.kept := by
  unfold meetSpots
  split
  · rfl
  split
  · exact foldl_kept _ (fun s w => meetSingle_kept s 0x0B (8 * w) (8 * w)) _ s
  split
  · exact foldl_kept _ meetSpot_kept _ s
  · rfl

theorem postLine_kept (s : State) (coh : Bool) (pa : Nat) (la : BitVec 50) : (postLine s coh pa la).kept = s.kept := by
  unfold postLine
  split <;> simp only [↓postPoison_kept]

theorem postBad_kept (s : State) (coh : Bool) (pa n : Nat) : (postBad s coh pa n).kept = s.kept := by
  simp only [postBad, apply_ite State.kept, ite_self, foldl_kept, implies_true, ↓postLine_kept, ↓postUe_kept]

theorem readCheck_kept (s : State) (coh : Bool) (pa n : Nat) : (readCheck s coh pa n).1.kept = s.kept := by
  dsimp only [readCheck]
  split <;> simp only [↓postBad_kept, ↓meetSpots_kept]

theorem meetMerge_kept (s : State) (o n : Nat) : (meetMerge s o n).kept = s.kept := by
  simp only [meetMerge, apply_ite State.kept, ite_self, foldl_kept, implies_true, ↓meetSingle_kept, ↓postUe_kept]

theorem notePort_kept (s : State) (ag : Agent) (p : PortNum) : (notePort s ag p).kept = s.kept := rfl

theorem noteFabricWrite_kept (s : State) (ag : Agent) (pa n : Nat) : (noteFabricWrite s ag pa n).kept = s.kept :=
  foldl_kept _ (notePort_kept · ag ·) _ s

theorem agentWrite_kept (s : State) (ag : Agent) (ty : MType) (pa : Nat) (bs : List Byte) : (agentWrite s ag ty pa bs).kept = s.kept := by
  simp only [agentWrite, apply_ite State.kept, ite_self, ↓noteFabricWrite_kept, ↓typedWrite_kept, ↓markDirty_kept, ↓meetMerge_kept]

/-! ### Address translation: canonical addresses, the walk, the rights, the translation caches and their invalidation -/

theorem setTlb_kept (s : State) (sel : TlbSel) (l : List TlbEntry) : (setTlb s sel l).kept = s.kept := by
  unfold setTlb
  split <;> simp only [↓State.kept_mk, State.kept_pair]

theorem installIn_kept (s : State) (sel : TlbSel) (e : TlbEntry) (va : W64) : (installIn s sel e va).kept = s.kept := by
  unfold installIn
  split <;> simp only [↓setTlb_kept]

theorem installL2_kept (s : State) (e : TlbEntry) (va : W64) : (installL2 s e va).kept = s.kept := rfl

theorem walkCacheAdd_kept (s : State) (asid : BitVec 16) (level : Nat) (va d : W64) : (walkCacheAdd s asid level va d).kept = s.kept := by
  simp only [walkCacheAdd, ↓State.kept_mk, State.kept_pair, apply_ite State.kept, ite_self]

theorem walkRead_kept (s : State) (a : Nat) (ty : BitVec 2) : (walkRead s a ty).1.kept = s.kept := by
  grind [walkRead, fillL2_kept, !readCheck_kept]

theorem walkWrite_kept (s : State) (a : Nat) (ty : BitVec 2) (d : W64) : (walkWrite s a ty d).kept = s.kept := by
  simp only [walkWrite, ↓agentWrite_kept]

/-- What a walk leaves: the state in its answer, of either kind. -/
def walkState : Tr ⊕ (State × W64 × Nat) → State
  | .inl r => r.state
  | .inr r => r.1

theorem walkFrom_kept (ak : Ak) (ring : BitVec 2) (ttb va : W64) (level table : Nat) (ty : BitVec 2) (s : State) (n : Nat) :
    (walkState (walkFrom ak ring ttb va level table ty s n)).kept = s.kept := by
  induction n generalizing level table ty s with
  | zero => rfl
  | succ n ih =>
    have hr := walkRead_kept s (descAddr table level va) ty
    unfold walkFrom
    split
    · rfl
    dsimp only
    split
    · next h => rw [h] at hr; exact hr
    · next s1 d h =>
      rw [h] at hr
      split
      · exact hr
      · exact (ih ..).trans ((walkCacheAdd_kept ..).trans hr)
      · split
        · exact hr
        split
        · exact (walkWrite_kept ..).trans hr
        · exact (askGranules_kept ..).trans hr

theorem walk_kept (sel : TlbSel) (ak : Ak) (ring : BitVec 2) (ttb va : W64) (s : State) : (walk sel ak ring ttb va s).state.kept = s.kept := by
  have hw (level table : Nat) (ty : BitVec 2) (n : Nat) := walkFrom_kept ak ring ttb va level table ty s n
  unfold walk
  split
  · rfl
  dsimp only
  split
  · next h => exact (congrArg (State.kept ∘ walkState) h).symm.trans (hw ..)
  · next h => exact (installL2_kept ..).trans ((installIn_kept ..).trans ((congrArg (State.kept ∘ walkState) h).symm.trans (hw ..)))

theorem translate_kept (sel : TlbSel) (ak : Ak) (ring : BitVec 2) (ttb va : W64) (s : State) :
    (translate sel ak ring ttb va s).state.kept = s.kept := by
  grind [translate, State.kept_mk, State.kept_pair, Tr.state, installIn_kept, setTlb_kept, !walk_kept]

theorem tlbiRemove_kept (f : TlbiForm) (s : State) : (tlbiRemove f s).kept = s.kept := rfl

/-! ### The shared operations of the general core: registers, taking an exception or an interrupt, double and third faults, the returns, and the
frame in which every instruction runs -/

theorem event_kept (s : State) (r : Option State) (h : (r.getD s).kept = s.kept) : (outState s (event s r)).kept = s.kept := by
  unfold event
  split
  · rfl
  split
  · rfl
  · exact h

theorem map_kept {α : Type} {s : State} (o : Option α) (f : α → State) (h : ∀ a, (f a).kept = s.kept) : ((o.map f).getD s).kept = s.kept := by
  cases o with
  | none => rfl
  | some a => exact h a

theorem bind_kept {α : Type} {s : State} (o : Option α) (f : α → Option State) (h : ∀ a, ((f a).getD s).kept = s.kept) :
    ((o.bind f).getD s).kept = s.kept := by
  cases o with
  | none => rfl
  | some a => exact h a

theorem pinEvent_kept (s low : State) (r : Option State) (hlow : low.kept = s.kept) (h : (r.getD s).kept = s.kept) :
    (outState s (pinEvent s low r)).kept = s.kept := by
  unfold pinEvent
  split
  · rfl
  split
  · exact hlow
  · exact h

theorem setCur_kept (s : State) (b : Bank) : (setCur s b).kept = s.kept := rfl

theorem setBank_kept (s : State) (k : BankNum) (b : Bank) : (setBank s k b).kept = s.kept := rfl

theorem requestWarm_kept (s : State) : (requestWarm s).kept = s.kept := rfl

theorem vecRead_kept (s : State) (v : Byte) : (vecRead s v).1.kept = s.kept := by
  grind [vecRead, fillL2_kept, !readCheck_kept]

theorem thirdFaultOf_kept (s : State) (pc : W64) (vec : Byte) : (thirdFaultOf s pc vec).kept = s.kept := by
  simp only [thirdFaultOf, ↓postRecord_kept, ↓requestWarm_kept]

theorem thirdFault_kept (s : State) : (thirdFault s).kept = s.kept := by
  simp only [thirdFault, ↓thirdFaultOf_kept]

theorem doubleFaultAt_kept (s : State) (reason : BitVec 4) (vec : Byte) (pc fl : W64) : (doubleFaultAt s reason vec pc fl).kept = s.kept := by
  grind [doubleFaultAt, State.kept_mk, State.kept_pair, thirdFault_kept, !vecRead_kept, setCur_kept]

theorem ordinaryEntry_kept (s : State) (q : EntryReq) : (ordinaryEntry s q).kept = s.kept := by
  grind [ordinaryEntry, State.kept_mk, State.kept_pair, setCur_kept, doubleFaultAt_kept, !vecRead_kept]

theorem raise_kept (e : Exc) (s : State) : (raise e s).kept = s.kept := by
  simp only [raise, ↓ordinaryEntry_kept]

theorem criticalEntryOf_kept (s : State) (v : Byte) : (criticalEntryOf s v).kept = s.kept := by
  grind [criticalEntryOf, State.kept_mk, State.kept_pair, setCur_kept, setPending_kept, doubleFaultAt_kept, !vecRead_kept]

theorem retire_kept (s : State) : (retire s).kept = s.kept := rfl

theorem begun_kept (s : State) : (begun s).kept = s.kept := rfl

theorem svmStop_kept (s : State) (load : Bool) (i : Nat) : (svmStop s load i).kept = s.kept := rfl

theorem keepXfer_kept (s : State) : (keepXfer s).kept = s.kept := by
  unfold keepXfer
  split <;> simp only [↓svmStop_kept]

theorem atBoundary_kept (s : State) : (atBoundary s).kept = s.kept := by
  simp only [atBoundary, apply_ite State.kept, ite_self, ↓keepXfer_kept, ↓setCur_kept, ↓retire_kept]

theorem interruptEntryOf_kept (s : State) (v : Byte) (l : BitVec 4) : (interruptEntryOf s v l).kept = s.kept := by
  simp only [interruptEntryOf, ↓State.kept_mk, State.kept_pair, apply_ite State.kept, ite_self, ↓setPending_kept, ↓ordinaryEntry_kept,
    ↓atBoundary_kept]

theorem criticalEntryWin_kept (s : State) (v : Byte) : (criticalEntryWin s v).kept = s.kept := by
  simp only [criticalEntryWin, ↓State.kept_mk, State.kept_pair, apply_ite State.kept, ite_self, ↓criticalEntryOf_kept, ↓atBoundary_kept]

theorem enterInterrupt_kept (s : State) (x1' : Byte × Option (BitVec 4)) : (enterInterrupt s x1').kept = s.kept := by
  unfold enterInterrupt
  split <;> simp only [↓interruptEntryOf_kept, ↓criticalEntryWin_kept]

theorem settle_kept (c : Instr) (b : Bank) (r : Res) : (settle c b r).kept = r.state.kept := by
  cases r with
  | ok b' s => exact (retire_kept _).trans (setCur_kept s _)
  | jump b' s => exact (retire_kept _).trans (setCur_kept s b')
  | done s => exact retire_kept s
  | exc e b' s =>
    dsimp only [settle]
    split
    · exact setCur_kept s b'
    · exact (raise_kept ..).trans (setCur_kept s b')
  | wait s => rfl
  | trap s => rfl

/-! ### Operand forms: the registers that an instruction reads, the second ALU operand, effective addresses, vector elements and masks, and the frame
of an instruction of the general core -/

/-- A body that leaves the queue and the variant as they are, in every answer. -/
def BodyKeeps (body : Body) : Prop := ∀ k b s, (body k b s).state.kept = s.kept

theorem issue_kept (c : Instr) (body : Body) (s : State) (h : BodyKeeps body) : (outState s (issue c body s)).kept = s.kept := by
  have hb := (settle_kept c (curBank s) _).trans (h .core (curBank s) s)
  unfold issue
  repeat' split
  · rfl
  · rfl
  · exact enterInterrupt_kept ..
  · exact raise_kept ..
  · rfl
  · exact hb

/-! ### The ALU instructions, the wide immediates, and the arrival of long results -/

theorem aluBody_kept (f : Alu) (rd ra : GReg) (op : Opnd) (sf wf : Bool) (k : Who) (b : Bank) (s : State) :
    (aluBody f rd ra op sf wf k b s).state.kept = s.kept := rfl

theorem cmpBody_kept (ra : GReg) (op : Opnd) (wf : Bool) (k : Who) (b : Bank) (s : State) : (cmpBody ra op wf k b s).state.kept = s.kept := rfl

theorem divBody_kept (f : Alu) (rd ra rb : GReg) (sf wf : Bool) (k : Who) (b : Bank) (s : State) :
    (divBody f rd ra rb sf wf k b s).state.kept = s.kept := by
  unfold divBody
  split <;> simp only [Res.state]

theorem countBody_kept (f : Alu) (rd ra : GReg) (sf wf : Bool) (k : Who) (b : Bank) (s : State) :
    (countBody f rd ra sf wf k b s).state.kept = s.kept := rfl

theorem imzBody_kept (rd : GReg) (lane : BitVec 2) (imm : BitVec 16) (k : Who) (b : Bank) (s : State) :
    (imzBody rd lane imm k b s).state.kept = s.kept := rfl

theorem imiBody_kept (rd : GReg) (lane : BitVec 2) (imm : BitVec 16) (k : Who) (b : Bank) (s : State) :
    (imiBody rd lane imm k b s).state.kept = s.kept := rfl

theorem execLongOpResult_kept (b : BankNum) (d : LongDst) (s : State) : (outState s (execLongOpResult b d s)).kept = s.kept :=
  event_kept s _ (map_kept _ _ fun _ => setBank_kept s b _)

/-! ### The management window as it reads -/

theorem windowMeet_kept (s : State) (off n : Nat) : (windowMeet s off n).kept = s.kept := by
  simp only [windowMeet, foldl_kept, implies_true, ↓postUe_kept]

theorem accessCheck_kept (s : State) (coh : Bool) (pa n : Nat) : (accessCheck s coh pa n).1.kept = s.kept := by
  unfold accessCheck
  split <;> simp only [↓readCheck_kept, ↓windowMeet_kept]

theorem aliasRefused_kept (s : State) (pa : Nat) : (aliasRefused s pa).kept = s.kept := by
  simp only [aliasRefused, ↓postRecord_kept, ↓draw_kept]

theorem ownWrite_kept (s : State) (ag : Agent) (ty : MType) (pa : Nat) (bs : List Byte) : (ownWrite s ag ty pa bs).kept = s.kept := by
  simp only [ownWrite, apply_ite State.kept, ite_self, ↓agentWrite_kept]

/-! ### The accesses of instructions to memory: translation of every part before any is performed, loads, stores and atomics of the core and of the
scribes -/

theorem xlate_kept (k : Who) (ak : Ak) (b : Bank) (va : W64) (s : State) : (xlate k ak b va s).1.kept = s.kept := by
  grind [xlate, Tr.state, !translate_kept]

theorem xlateAll_kept (k : Who) (ak : Ak) (b : Bank) (s : State) (l : List Piece) : (xlateAll k ak b s l).1.kept = s.kept := by
  induction l generalizing s with
  | nil => rfl
  | cons p ps ih => grind [xlateAll, !xlate_kept]

theorem prepare_kept (k : Who) (ak : Ak) (b : Bank) (va : W64) (n : Nat) (ps : List Piece) (s : State) :
    (prepare k ak b va n ps s).1.kept = s.kept := by
  grind [prepare, !xlateAll_kept]

theorem touchL1d_kept (s : State) (k : Nat) : (touchL1d s k).kept = s.kept := rfl

theorem evictL1d_kept (s : State) (k : Nat) : (evictL1d s k).kept = s.kept := by
  unfold evictL1d
  split <;> simp only [↓flushL1d_kept]

theorem injFill_kept (s : State) (unit : Byte) (loc : Nat) : (injFill s unit loc).kept = s.kept := by
  simp only [injFill, apply_ite State.kept, ite_self, ↓plant_kept, ↓clearSpot_kept]

theorem dropL1d_kept (s : State) (la : BitVec 50) : (dropL1d s la).kept = s.kept := by
  unfold dropL1d
  split <;> simp only [↓State.kept_mk, State.kept_pair]

theorem meetL1d_kept (s : State) (p : Phys) : (meetL1d s p).kept = s.kept := by
  dsimp only [meetL1d]
  repeat' split
  all_goals simp only [↓clearSpot_kept, ↓dropL1d_kept, ↓postRecord_kept]

theorem fillL1d_kept (s : State) (la : BitVec 50) (set : BitVec 7) : (fillL1d s la set).kept = s.kept := by
  dsimp only [fillL1d]
  split <;> simp only [↓State.kept_mk, State.kept_pair, ↓touchL1d_kept, ↓injFill_kept, ↓evictL1d_kept, ↓fillL2_kept, ↓flushL1d_kept]

theorem observeMiss_kept (s : State) (la : BitVec 50) : (observeMiss s la).kept = s.kept := by
  dsimp only [observeMiss]
  repeat' split
  all_goals simp only [↓State.kept_mk, State.kept_pair]

theorem missFill_kept (s : State) : (missFill s).kept = s.kept := by
  unfold missFill
  split <;> simp only [↓State.kept_mk, State.kept_pair, apply_ite State.kept, ite_self, ↓fillL1d_kept, ↓observeMiss_kept]

theorem loadTouch_kept (s : State) (p : Phys) : (loadTouch s p).kept = s.kept := by
  unfold loadTouch
  repeat' split
  all_goals simp only [↓State.kept_mk, State.kept_pair, ↓fillL1d_kept, ↓touchL1d_kept]

theorem askLine_kept (s : State) (l : List Phys) : (askLine s l).kept = s.kept := by
  unfold askLine
  split <;> simp only [↓State.kept_mk, State.kept_pair]

theorem checkParts_kept (k : Who) (whole : Nat) (l : List Phys) (s : State) : (checkParts k whole l s).1.kept = s.kept := by
  induction l generalizing s with
  | nil => rfl
  | cons p ps ih =>
    have hc := accessCheck_kept s (cohRead? k s p.ty) p.pa p.len
    simp only [checkParts, apply_ite Prod.fst, apply_ite State.kept, ih]
    refine ite_eq_left_iff.2 fun _ => ?_
    split
    · next h => rw [h] at hc; exact (ih _).trans hc
    · next h => rw [h] at hc; exact hc

theorem loadPhys_kept (k : Who) (n : Nat) (acq : Bool) (s0 : State) (l : List Phys) : (loadPhys k n acq s0 l).state.kept = s0.kept := by
  have meets (s : State) : (l.foldl meetL1d s).kept = s.kept := foldl_kept _ meetL1d_kept l s
  have touches (s : State) : (l.foldl loadTouch s).kept = s.kept := foldl_kept _ loadTouch_kept l s
  have fills (s : State) : (l.foldl (fun s p => if p.ty = .cacheable ∧ ¬ inVellum s p.pa ∧ ¬ inAlias s p.pa then fillL2 s (lineNo p.pa) false else s)
      s).kept = s.kept := by
    refine foldl_kept _ (fun s p => ?_) l s
    split
    · exact fillL2_kept ..
    · rfl
  cases k with
  | core =>
    have hm : (if s0.err.spots.isEmpty then s0 else l.foldl meetL1d s0).kept = s0.kept := by
      simp only [apply_ite State.kept, meets, ite_self]
    simp only [loadPhys]
    generalize (if s0.err.spots.isEmpty = true then s0 else l.foldl meetL1d s0) = s1 at hm ⊢
    have hc := (checkParts_kept .core n l s1).trans hm
    split
    · exact hm
    split
    · exact (askLine_kept ..).trans hm
    split
    · next h => rw [h] at hc; exact hc
    · next h => rw [h] at hc; exact (touches _).trans hc
  | scribe j t =>
    have hc := checkParts_kept (.scribe j t) n l s0
    simp only [loadPhys]
    split
    · rfl
    split
    · next h => rw [h] at hc; exact hc
    · next h => rw [h] at hc; exact (fills _).trans hc

theorem loadPieces_kept (k : Who) (b : Bank) (va : W64) (n al : Nat) (acq : Bool) (ps : List Piece) (s : State) :
    (loadPieces k b va n al acq ps s).state.kept = s.kept := by
  grind [loadPieces, LoadOut.state, !loadPhys_kept, !prepare_kept]

theorem loadBytes_kept (k : Who) (b : Bank) (va : W64) (n al : Nat) (acq : Bool) (s : State) : (loadBytes k b va n al acq s).state.kept = s.kept := by
  unfold loadBytes
  simp only [↓loadPieces_kept]

theorem performPart_kept (s : State) (ag : Agent) (ty : MType) (pa : Nat) (bs : List (Option Byte)) : (performPart s ag ty pa bs).kept = s.kept := by
  unfold performPart
  split
  · exact aliasRefused_kept s pa
  split
  · exact ownWrite_kept ..
  · refine foldl_kept _ (fun s p => ?_) _ s
    obtain ⟨_ | x, i⟩ := p
    · rfl
    · exact ownWrite_kept ..

theorem scribeOwn_kept (s : State) (p : Phys) : (scribeOwn s p).kept = s.kept := by
  simp only [scribeOwn, apply_ite State.kept, ite_self, ↓fillL2_kept]

theorem enterBuffer_kept (m : StoreMode) (es : List SbEntry) (s : State) : (enterBuffer m es s).state.kept = s.kept := by
  unfold enterBuffer
  repeat' split
  all_goals simp only [↓State.kept_mk, State.kept_pair, StoreOut.state]

theorem storeParts_kept (k : Who) (bs : List (Option Byte)) (l : List Phys) (s : State) :
    (l.foldl (fun s p =>
      let s := match k with
        | .core => s
        | .scribe _ _ => scribeOwn s p
      performPart s (agentOf k) p.ty p.pa (partBytes bs p)) s).kept = s.kept := by
  refine foldl_kept _ (fun s p => ?_) l s
  cases k with
  | core => exact performPart_kept ..
  | scribe _ _ => exact (performPart_kept ..).trans (scribeOwn_kept s p)

theorem storePhys_kept (k : Who) (m : StoreMode) (rel : Bool) (bs : List (Option Byte)) (s1 : State) (l : List Phys) :
    (storePhys k m rel bs s1 l).state.kept = s1.kept := by
  have parts := storeParts_kept k bs l s1
  unfold storePhys
  split
  · rfl
  split
  · exact aliasRefused_kept ..
  split
  · exact enterBuffer_kept ..
  split
  · cases k with
    | core => exact parts
    | scribe _ _ =>
      dsimp only at parts ⊢
      split <;> exact parts
  · exact askGranules_kept ..

theorem storeRest_kept (e : SbEntry) (s : State) : (storeRest e s).state.kept = s.kept := by
  unfold storeRest
  split <;> simp only [↓State.kept_mk, State.kept_pair, StoreOut.state]

theorem storePieces_kept (k : Who) (b : Bank) (va : W64) (al : Nat) (vec rel : Bool) (bs : List (Option Byte)) (ps : List Piece) (s : State) :
    (storePieces k b va al vec rel bs ps s).state.kept = s.kept := by
  grind [storePieces, StoreOut.state, !storePhys_kept, !prepare_kept, !storeRest_kept]

theorem storeBytes_kept (k : Who) (b : Bank) (va : W64) (al : Nat) (rel : Bool) (bs : List Byte) (s : State) :
    (storeBytes k b va al rel bs s).state.kept = s.kept := by
  unfold storeBytes
  simp only [↓storePieces_kept]

theorem sendTokens_kept (s : State) : (sendTokens s).kept = s.kept := rfl

theorem askVisible_kept (s : State) (ag : Agent) : (askVisible s ag).kept = s.kept := by
  simp only [askVisible, apply_ite State.kept, ite_self, ↓sendTokens_kept]

theorem awaitStores_kept (s : State) : (awaitStores s).kept = s.kept := by
  simp only [awaitStores, apply_ite State.kept, ite_self, ↓askVisible_kept]

theorem awaitRelease_kept (k : Who) (s : State) : (awaitRelease k s).kept = s.kept := by
  unfold awaitRelease
  split <;> simp only [↓askVisible_kept, ↓awaitStores_kept]

theorem atomReady_kept (k : Who) (s : State) (p : Phys) : (atomReady k s p).kept = s.kept := by
  simp only [atomReady, apply_ite State.kept, ite_self, ↓flushL1d_kept, ↓fillL2_kept]

theorem atomicOf_kept (k : Who) (b : Bank) (va : W64) (n : Nat) (acq rel : Bool) (f : Nat → Option Nat) (s : State) :
    (atomicOf k b va n acq rel f s).state.kept = s.kept := by
  have hp := prepare_kept k .atomic b va n (piecesOf va n) s
  unfold atomicOf
  split
  · rfl
  split
  · next h => rw [h] at hp; exact hp
  next s1 l h =>
  rw [h] at hp
  split
  · next p =>
    have hc := (checkParts_kept k 0 [p] s1).trans hp
    grind [LoadOut.state, awaitRelease_kept, askGranules_kept, aliasRefused_kept, atomReady_kept, ownWrite_kept]
  · exact hp

/-! ### Scalar and vector loads and stores, acquire and release, the atomics, the repeat prefixes, and the draining of the store buffer -/

theorem loadOnce_kept (k : Who) (rd : GReg) (a : SAddr) (sz : BitVec 3) (b : Bank) (s : State) : (loadOnce k rd a sz b s).state.kept = s.kept := by
  grind [loadOnce, LoadOut.state, Res.state, !loadBytes_kept]

theorem storeOnce_kept (k : Who) (rs : GReg) (a : SAddr) (sz : BitVec 3) (b : Bank) (s : State) : (storeOnce k rs a sz b s).state.kept = s.kept := by
  grind [storeOnce, Res.state, StoreOut.state, !storeBytes_kept]

theorem vloadOnce_kept (k : Who) (v : VReg) (a : VAddr) (mk : Option MReg) (w : BitVec 2) (b : Bank) (s : State) :
    (vloadOnce k v a mk w b s).state.kept = s.kept := by
  grind [vloadOnce, LoadOut.state, Res.state, !loadPieces_kept]

theorem vstoreOnce_kept (k : Who) (v : VReg) (a : VAddr) (mk : Option MReg) (w : BitVec 2) (b : Bank) (s : State) :
    (vstoreOnce k v a mk w b s).state.kept = s.kept := by
  grind [vstoreOnce, Res.state, StoreOut.state, !storePieces_kept]

theorem vecGate_kept (c : Instr) (body : Body) (h : BodyKeeps body) : BodyKeeps (vecGate c body) := by
  intro k b s
  unfold vecGate
  split
  · exact h ..
  split
  · exact h ..
  · exact wakeRequest_kept s dVec
  · rfl

theorem ldaBody_kept (rd ga : GReg) (sz : BitVec 3) (k : Who) (b : Bank) (s : State) : (ldaBody rd ga sz k b s).state.kept = s.kept := by
  grind [ldaBody, LoadOut.state, Res.state, !loadBytes_kept]

theorem stlBody_kept (rs ga : GReg) (sz : BitVec 3) (k : Who) (b : Bank) (s : State) : (stlBody rs ga sz k b s).state.kept = s.kept := by
  grind [stlBody, Res.state, StoreOut.state, !storeBytes_kept, awaitRelease_kept]

theorem casBody_kept (rd ga rb rc : GReg) (d a l : Bool) (k : Who) (b : Bank) (s : State) :
    (casBody rd ga rb rc d a l k b s).state.kept = s.kept := by
  grind [casBody, LoadOut.state, Res.state, !atomicOf_kept]

theorem aaddBody_kept (rd ga rb : GReg) (d a l : Bool) (k : Who) (b : Bank) (s : State) : (aaddBody rd ga rb d a l k b s).state.kept = s.kept := by
  grind [aaddBody, LoadOut.state, Res.state, !atomicOf_kept]

theorem governedOnce_kept (k : Who) (x1' : Governed) (b : Bank) (s : State) : (governedOnce k x1' b s).state.kept = s.kept := by
  unfold governedOnce
  repeat' split
  all_goals simp only [Res.state, ↓vstoreOnce_kept, ↓vloadOnce_kept, ↓storeOnce_kept, ↓loadOnce_kept]

theorem repNext_kept (k : Who) (b : Bank) (s : State) : (repNext k b s).state.kept = s.kept := by
  unfold repNext
  repeat' split
  all_goals simp only [Res.state, ↓begun_kept, ↓setCur_kept]

theorem repElement_kept (k : Who) (gc : GReg) (g : Governed) (b : Bank) (s : State) : (repElement k gc g b s).state.kept = s.kept := by
  grind [repElement, Res.state, !repNext_kept, !governedOnce_kept]

theorem repBody_kept (gc : GReg) (g : Governed) (k : Who) (b : Bank) (s : State) : (repBody gc g k b s).state.kept = s.kept := by
  unfold repBody
  split <;> simp only [Res.state, ↓repElement_kept]

theorem repnCheck_kept (k : Who) (ak : Ak) (b : Bank) (l : List (W64 × Nat)) (s : State) : (repnCheck k ak b l s).1.kept = s.kept := by
  induction l generalizing s with
  | nil => rfl
  | cons p l ih =>
    obtain ⟨va, n⟩ := p
    grind [repnCheck, !prepare_kept]

theorem cleanPoison_kept (s : State) (la : BitVec 50) : (cleanPoison s la).kept = s.kept := by
  unfold cleanPoison
  split <;> simp only [↓State.kept_mk, State.kept_pair]

theorem performEntry_kept (s : State) (e : SbEntry) : (performEntry s e).kept = s.kept := by
  dsimp only [performEntry]
  repeat' split
  all_goals simp only [↓State.kept_mk, State.kept_pair, ↓performPart_kept, ↓markDirty_kept, ↓touchL1d_kept, ↓cleanPoison_kept, ↓fillL2_kept]

theorem drainFree_kept (s : State) (e : SbEntry) (rest : List SbEntry) : (drainFree s e rest).kept = s.kept := by
  simp only [drainFree, ↓State.kept_mk, State.kept_pair, apply_ite State.kept, ite_self, ↓performEntry_kept, ↓fillL1d_kept]

theorem drainNow_kept (s : State) : (drainNow s).kept = s.kept := by
  unfold drainNow
  split <;> simp only [apply_ite State.kept, ite_self, ↓drainFree_kept]

theorem drainHead_kept (s : State) : (drainHead s).kept = s.kept := by
  unfold drainHead
  split <;> simp only [↓State.kept_mk, State.kept_pair, apply_ite State.kept, ite_self, ↓askGranules_kept, ↓drainNow_kept]

theorem drainAll_kept (n : Nat) (s : State) : (drainAll n s).1.kept = s.kept := by
  induction n generalizing s with
  | zero => rfl
  | succ n ih => grind [drainAll, askGranules_kept, drainNow_kept, missFill_kept, drainHead_kept]

theorem repnTry_kept (k : Who) (g : Governed) (s0 : State) (b : Bank) (n : Nat) (s : State) (h : s.kept = s0.kept) :
    (repnTry k g s0 b n s).state.kept = s0.kept := by
  induction n generalizing s with
  | zero => rfl
  | succ n ih => grind [repnTry, Res.state, State.kept_mk, State.kept_pair, !governedOnce_kept, !drainAll_kept, missFill_kept]

theorem repnLoop_kept (k : Who) (g : Governed) (s0 : State) (n : Nat) (b : Bank) (s : State) (h : s.kept = s0.kept) :
    (repnLoop k g s0 n b s).state.kept = s0.kept := by
  induction n generalizing b s with
  | zero => exact h
  | succ n ih => grind [repnLoop, Res.state, !repnTry_kept]

theorem repnBody_kept (n : BitVec 6) (g : Governed) (k : Who) (b : Bank) (s : State) : (repnBody n g k b s).state.kept = s.kept := by
  unfold repnBody
  cases g <;>
    grind [Res.state, !repnCheck_kept, !repnLoop_kept]

theorem execLoad_kept (rd : GReg) (a : SAddr) (sz : BitVec 3) (s : State) : (outState s (execLoad rd a sz s)).kept = s.kept :=
  issue_kept _ _ s fun _ _ _ => loadOnce_kept ..

theorem execStore_kept (rs : GReg) (a : SAddr) (sz : BitVec 3) (s : State) : (outState s (execStore rs a sz s)).kept = s.kept :=
  issue_kept _ _ s fun _ _ _ => storeOnce_kept ..

theorem execRep_kept (gc : GReg) (i : Governed) (s : State) : (outState s (execRep gc i s)).kept = s.kept := by
  refine issue_kept _ _ s ?_
  split
  · exact vecGate_kept _ _ fun _ _ _ => repBody_kept ..
  · exact fun _ _ _ => repBody_kept ..

theorem execVload_kept (v : VReg) (a : VAddr) (mk : Option MReg) (w : BitVec 2) (s : State) : (outState s (execVload v a mk w s)).kept = s.kept :=
  issue_kept _ _ s (vecGate_kept _ _ fun _ _ _ => vloadOnce_kept ..)

theorem execVstore_kept (v : VReg) (a : VAddr) (mk : Option MReg) (w : BitVec 2) (s : State) : (outState s (execVstore v a mk w s)).kept = s.kept :=
  issue_kept _ _ s (vecGate_kept _ _ fun _ _ _ => vstoreOnce_kept ..)

theorem execStoreBufferDrain_kept (s : State) : (outState s (execStoreBufferDrain s)).kept = s.kept := by
  refine event_kept s _ ?_
  simp only [Option.getD_some, ↓drainHead_kept]

/-! ### Branches, calls and returns with their two stacks -/

theorem bBody_kept (off : BitVec 26) (k : Who) (b : Bank) (s : State) : (bBody off k b s).state.kept = s.kept := rfl

theorem bCondBody_kept (cond : BitVec 4) (off : BitVec 22) (k : Who) (b : Bank) (s : State) : (bCondBody cond off k b s).state.kept = s.kept := by
  unfold bCondBody
  split <;> simp only [Res.state]

theorem brBody_kept (ra : GReg) (k : Who) (b : Bank) (s : State) : (brBody ra k b s).state.kept = s.kept := by
  grind [brBody, Res.state]

theorem stackPair_kept (k : Who) (akM akS : Ak) (b : Bank) (ms ss : W64) (s : State) : (stackPair k akM akS b ms ss s).1.kept = s.kept := by
  grind [stackPair, !xlateAll_kept]

theorem callTo_kept (k : Who) (target : W64) (b : Bank) (s : State) : (callTo k target b s).state.kept = s.kept := by
  grind [callTo, Res.state, StoreOut.state, !storePhys_kept, !stackPair_kept]

theorem callBody_kept (off : BitVec 26) (k : Who) (b : Bank) (s : State) : (callBody off k b s).state.kept = s.kept := by
  unfold callBody
  simp only [↓callTo_kept]

theorem callrBody_kept (ra : GReg) (k : Who) (b : Bank) (s : State) : (callrBody ra k b s).state.kept = s.kept := by
  grind [callrBody, Res.state, !callTo_kept]

theorem retBody_kept (k : Who) (b : Bank) (s : State) : (retBody k b s).state.kept = s.kept := by
  grind [retBody, LoadOut.state, Res.state, !loadPhys_kept, !stackPair_kept]

/-! ### The instructions of major 0x14: gates, fast calls, returns from entries, hold windows, the shadow stack and WAITI -/

theorem ringGate_kept (r : Nat) (body : Body) (h : BodyKeeps body) : BodyKeeps (ringGate r body) := by
  intro k b s
  unfold ringGate
  split
  · rfl
  · exact h k b s

theorem callgBody_kept (gate : BitVec 12) (k : Who) (b : Bank) (s : State) : (callgBody gate k b s).state.kept = s.kept := by
  have hp (ms : W64) := prepare_kept k .store b ms 8 (piecesOf ms 16) s
  dsimp only [callgBody]
  split
  · rfl
  split
  · next h => exact (congrArg (State.kept ∘ Prod.fst) h).symm.trans (hp _)
  next s1 l1 h =>
  have h1 : s1.kept = s.kept := (congrArg (State.kept ∘ Prod.fst) h).symm.trans (hp _)
  have hx (ps : List Piece) := (xlateAll_kept k .shadowW b s1 ps).trans h1
  split
  · next h => exact (congrArg (State.kept ∘ Prod.fst) h).symm.trans (hx _)
  next s2 l2 h =>
  have h2 : s2.kept = s.kept := (congrArg (State.kept ∘ Prod.fst) h).symm.trans (hx _)
  split
  · exact h2
  have hc (a : Nat) := (readCheck_kept s2 true a 16).trans h2
  split
  · next h => exact (congrArg (State.kept ∘ Prod.fst) h).symm.trans (hc _)
  next s2 h =>
  have h2 : s2.kept = s.kept := (congrArg (State.kept ∘ Prod.fst) h).symm.trans (hc _)
  have hf (p : Prop) [Decidable p] (la : BitVec 50) : (if p then s2 else fillL2 s2 la false).kept = s.kept := by
    simp only [apply_ite State.kept, ↓fillL2_kept, ite_self, h2]
  split
  · exact hf ..
  have hst (bs : List (Option Byte)) (t : State) (l : List Phys) := storePhys_kept k .single false bs t l
  split
  all_goals
    next h => exact (congrArg (State.kept ∘ StoreOut.state) h).symm.trans ((hst ..).trans (hf ..))

theorem retgBody_kept (k : Who) (b : Bank) (s : State) : (retgBody k b s).state.kept = s.kept := by
  grind [retgBody, LoadOut.state, Res.state, !loadPhys_kept, !xlateAll_kept, !prepare_kept]

theorem syscBody_kept (k : Who) (b : Bank) (s : State) : (syscBody k b s).state.kept = s.kept := by
  unfold syscBody
  split <;> simp only [Res.state]

theorem sysrBody_kept (k : Who) (b : Bank) (s : State) : (sysrBody k b s).state.kept = s.kept := by
  unfold sysrBody
  split <;> simp only [Res.state]

theorem retxBody_kept (k : Who) (b : Bank) (s : State) : (retxBody k b s).state.kept = s.kept := by
  unfold retxBody
  split <;> simp only [↓State.kept_mk, State.kept_pair, Res.state]

theorem retxCBody_kept (k : Who) (b : Bank) (s : State) : (retxCBody k b s).state.kept = s.kept := by
  unfold retxCBody
  split <;> simp only [↓State.kept_mk, State.kept_pair, Res.state]

theorem holdendBody_kept (k : Who) (b : Bank) (s : State) : (holdendBody k b s).state.kept = s.kept := rfl

theorem sspushBody_kept (ga : GReg) (k : Who) (b : Bank) (s : State) : (sspushBody ga k b s).state.kept = s.kept := by
  grind [sspushBody, Res.state, StoreOut.state, !storePhys_kept, !xlateAll_kept]

theorem sspincBody_kept (gb : GReg) (k : Who) (b : Bank) (s : State) : (sspincBody gb k b s).state.kept = s.kept := rfl

theorem waitiBody_kept (k : Who) (b : Bank) (s : State) : (waitiBody k b s).state.kept = s.kept := by
  unfold waitiBody
  split <;> simp only [Res.state]

/-! ### Acceptance of operations by the tile unit, the board and the stream engine, their order on a tile and on a queue, and the events that they
post to banks -/

theorem domGate_kept (d : Fin 32) (c : Instr) (body : Body) (h : BodyKeeps body) : BodyKeeps (domGate d c body) := by
  intro k b s
  unfold domGate
  split
  · exact h k b s
  · exact wakeRequest_kept s d
  · rfl

theorem acceptOp_kept (s : State) (o : Op) : (acceptOp s o).kept = s.kept := rfl

theorem updOp_kept (s : State) (id : Nat) (f : Op → Op) : (updOp s id f).kept = s.kept := rfl

theorem dropOp_kept (s : State) (id : Nat) : (dropOp s id).kept = s.kept := rfl

theorem setTile_kept (s : State) (t : TReg) (x : Tile) : (setTile s t x).kept = s.kept := rfl

theorem setDirty_kept (s : State) (t : TReg) : (setDirty s t).kept = s.kept := rfl

theorem settleTile_kept (s : State) (t : TReg) (base : TileState) : (settleTile s t base).kept = s.kept := rfl

theorem postEvent_kept (s : State) (k : BankNum) (e : BankEvent) : (postEvent s k e).kept = s.kept := by
  simp only [postEvent, apply_ite State.kept, ite_self, ↓setBank_kept]

theorem countDone_kept (s : State) (q : QNum) : (countDone s q).kept = s.kept := rfl

theorem postQueue_kept (q : QNum) (n : Nat) (s : State) : (postQueue q n s).kept = s.kept := by
  induction n generalizing s with
  | zero => rfl
  | succ n ih =>
    unfold postQueue
    split
    · split
      · exact (ih _).trans ((countDone_kept _ q).trans (dropOp_kept s _))
      · rfl
    · rfl

/-! ### The memory accesses of the stream engine, the stops of its operations and their reports -/

theorem finishQueued_kept (s : State) (o : Op) : (finishQueued s o).kept = s.kept := by
  simp only [finishQueued, ↓updOp_kept, ↓postQueue_kept]

theorem streamXlate_kept (cap : Capture) (data write : Bool) (va : W64) (s : State) : (streamXlate cap data write va s).1.kept = s.kept := by
  grind [streamXlate, Tr.state, wakeRequest_kept, !translate_kept]

theorem streamRead_kept (cap : Capture) (data : Bool) (l : List Piece) (s : State) : (streamRead cap data l s).state.kept = s.kept := by
  induction l generalizing s with
  | nil => rfl
  | cons p ps ih => grind [streamRead, SOut.state, !streamXlate_kept, !accessCheck_kept, touchHit_kept]

theorem streamPrep_kept (cap : Capture) (data : Bool) (l : List Piece) (s : State) : (streamPrep cap data l s).1.kept = s.kept := by
  induction l generalizing s with
  | nil => rfl
  | cons p ps ih => grind [streamPrep, !streamXlate_kept]

theorem markPoison_kept (s : State) (coh : Bool) (pa n : Nat) : (markPoison s coh pa n).kept = s.kept := by
  unfold markPoison
  repeat' split
  all_goals simp only [↓State.kept_mk, State.kept_pair]

theorem streamWrite_kept (cap : Capture) (data : Bool) (bad : Nat → Bool) (bs : List Byte) (ps : List Piece) (s : State) :
    (streamWrite cap data bad bs ps s).state.kept = s.kept := by
  have poisons (ty : MType) (p : Phys) (l : List Nat) (s : State) :
      (l.foldl (fun s i => if bad (p.off + i) then markPoison s (ty = .cacheable) (p.pa + i) 1 else s) s).kept = s.kept := by
    refine foldl_kept _ (fun s i => ?_) l s
    split
    · exact markPoison_kept ..
    · rfl
  have writes (l : List Phys) (s : State) : (l.foldl (fun s p =>
      let s2 := ownWrite s .unit p.ty p.pa ((bs.drop p.off).take p.len)
      (List.range p.len).foldl (fun s i => if bad (p.off + i) then markPoison s (p.ty = .cacheable) (p.pa + i) 1 else s) s2) s).kept = s.kept :=
    foldl_kept _ (fun s (p : Phys) => (poisons p.ty p _ _).trans (ownWrite_kept ..)) l s
  have hp := streamPrep_kept cap data ps s
  unfold streamWrite
  split
  · next h =>
    rw [h] at hp
    split <;> exact hp
  next s1 l h =>
  rw [h] at hp
  split
  · exact hp
  split
  · exact (askGranules_kept ..).trans hp
  dsimp only
  split
  · exact (aliasRefused_kept ..).trans ((writes l s1).trans hp)
  · exact (writes l s1).trans hp

theorem passToTile_kept (s : State) (o : Op) : (passToTile s o).kept = s.kept := by
  simp only [passToTile, ↓updOp_kept, ↓postQueue_kept, ↓setTile_kept]

theorem recordStop_kept (s : State) (o : Op) (st : Stop) : (recordStop s o st).kept = s.kept := by
  simp only [recordStop, ↓State.kept_mk, State.kept_pair, apply_ite State.kept, ite_self, ↓passToTile_kept, ↓updOp_kept, ↓pend_kept]

theorem reportStop_kept (s : State) (q : QNum) : (reportStop s q).kept = s.kept := by
  unfold reportStop
  repeat' split
  all_goals simp only [↓recordStop_kept]

theorem stopOp_kept (s : State) (o : Op) (cause : BitVec 5) (kind : BitVec 3) (detail : Byte) (write : Bool) (addr phys : W64) (early : Bool) :
    (stopOp s o cause kind detail write addr phys early).kept = s.kept := by
  simp only [stopOp, ↓updOp_kept, ↓reportStop_kept]

theorem issueCheck_kept (cap : Capture) (l : List (Bool × W64)) (s : State) : (issueCheck cap l s).1.kept = s.kept := by
  induction l generalizing s with
  | nil => rfl
  | cons p l ih =>
    obtain ⟨w, a⟩ := p
    grind [issueCheck, !streamXlate_kept]

/-- An issuer whose first step on a line leaves the queue and the variant as they are. -/
def IssuerKeeps (x : Issuer) : Prop := ∀ s o, (x.take s o).kept = s.kept

theorem issueTo_kept (x : Issuer) (hx : IssuerKeeps x) (id line off : Nat) (n : Nat) (s : State) : (issueTo x id line off n s).kept = s.kept := by
  induction n generalizing s with
  | zero => rfl
  | succ n ih => grind [issueTo, IssuerKeeps, !issueCheck_kept, stopOp_kept, updOp_kept]

theorem stopLine_kept (s : State) (o : Op) (l : Nat) (cause : BitVec 5) (kind : BitVec 3) (detail : Byte) (write : Bool) (addr phys : W64) :
    (stopLine s o l cause kind detail write addr phys).kept = s.kept := by
  simp only [stopLine, ↓updOp_kept, ↓stopOp_kept]

theorem showProg_kept (s : State) (o : Op) : (showProg s o).kept = s.kept := rfl

theorem settleLines_kept (s : State) : (settleLines s).kept = s.kept := by
  simp only [settleLines, apply_ite State.kept, ite_self, foldl_kept, implies_true, ↓askVisible_kept, ↓showProg_kept, ↓reportStop_kept, ↓updOp_kept]

theorem lineMade_kept (s : State) (o : Op) (l : Nat) (fab : Bool) : (lineMade s o l fab).kept = s.kept := by
  simp only [lineMade, apply_ite State.kept, ite_self, ↓showProg_kept, ↓settleLines_kept, ↓reportStop_kept, ↓updOp_kept]

/-! ### The tile file: descriptors, TCFG, TLD, TST, TZERO, TREL, TMOV, TRDY, TRESUME, the row accesses of the vector unit, the nib cache, and the
events of accepted tile operations -/

theorem checked_kept (l : State → List (Option Exc)) (body : Body) (h : BodyKeeps body) : BodyKeeps (checked l body) := by
  intro k b s
  unfold checked
  split
  · rfl
  · exact h k b s

theorem nibDrop_kept (s : State) (t : TReg) (p : BitVec 10 → Bool) : (nibDrop s t p).kept = s.kept := rfl

theorem nibFill_kept (s : State) (w : Fin 64) (t : TReg) (r : BitVec 10) : (nibFill s w t r).kept = s.kept := by
  simp only [nibFill, ↓State.kept_mk, State.kept_pair, apply_ite State.kept, ite_self, ↓plant_kept, ↓clearSpot_kept]

theorem nibParity_kept (s : State) (w : Fin 64) : (nibParity s w).kept = s.kept := by
  simp only [nibParity, ↓State.kept_mk, State.kept_pair, ↓postRecord_kept, ↓clearSpot_kept]

theorem nibRead_kept (s : State) (t : TReg) (r : BitVec 10) : (nibRead s t r).kept = s.kept := by
  dsimp only [nibRead]
  split <;> simp only [↓State.kept_mk, State.kept_pair, apply_ite State.kept, ite_self, ↓nibParity_kept, ↓nibFill_kept]

theorem tileMeet_kept (s : State) (t : TReg) (row : Nat) (ws : List Nat) : (tileMeet s t row ws).kept = s.kept := by
  simp only [tileMeet, apply_ite State.kept, ite_self, foldl_kept, implies_true, ↓meetSingle_kept, ↓postUe_kept]

theorem tileStrike_kept (s2 : State) (t : TReg) (row : Nat) (ws : List Nat) : (tileStrike s2 t row ws).kept = s2.kept := by
  dsimp only [tileStrike]
  split <;> simp only [apply_ite State.kept, ite_self, ↓setTile_kept, ↓plant_kept]

theorem tileFresh_kept (s : State) (t : TReg) (row : Nat) (ws : List Nat) : (tileFresh s t row ws).kept = s.kept := by
  have clears (s : State) : (ws.foldl (fun s d => clearSpot s 0x05 (tileSel t.val row d)) s).kept = s.kept :=
    foldl_kept _ (fun s d => clearSpot_kept s 0x05 (tileSel t.val row d)) ws s
  simp only [tileFresh, apply_ite State.kept, ite_self, clears, ↓tileStrike_kept, ↓setTile_kept]

theorem rowRead_kept (s : State) (t : TReg) (r : BitVec 10) : (rowRead s t r).kept = s.kept := by
  simp only [rowRead, apply_ite State.kept, ite_self, ↓tileMeet_kept, ↓nibRead_kept]

theorem tileMeetRows_kept (s : State) (t : TReg) (rows : List Nat) : (tileMeetRows s t rows).kept = s.kept := by
  simp only [tileMeetRows, apply_ite State.kept, ite_self, foldl_kept, implies_true, ↓tileMeet_kept]

theorem putRow_kept (s : State) (t : TReg) (r : Nat) (d : RowWord) : (putRow s t r d).kept = s.kept := by
  simp only [putRow, ↓setTile_kept, ↓nibDrop_kept, ↓tileFresh_kept]

theorem putScale_kept (s : State) (t : TReg) (r : Nat) (d : ScaleWord) : (putScale s t r d).kept = s.kept := by
  simp only [putScale, ↓setTile_kept, ↓nibDrop_kept, ↓tileFresh_kept]

theorem clearTile_kept (s : State) (t : TReg) : (clearTile s t).kept = s.kept := by
  simp only [clearTile, apply_ite State.kept, ite_self, foldl_kept, implies_true, ↓tileFresh_kept, ↓setTile_kept, ↓nibDrop_kept]

theorem tcfgBody_kept (t : TReg) (rowsm1 : BitVec 10) (rbm1 e : BitVec 4) (mx : Bool) (k : Who) (b : Bank) (s : State) :
    (tcfgBody t rowsm1 rbm1 e mx k b s).state.kept = s.kept := by
  refine checked_kept _ _ (fun k b s => ?_) ..
  split
  · rfl
  · exact (nibDrop_kept ..).trans ((setDirty_kept ..).trans (setTile_kept ..))

theorem tcfgRegBody_kept (t : TReg) (ga : GReg) (k : Who) (b : Bank) (s : State) : (tcfgRegBody t ga k b s).state.kept = s.kept := by
  unfold tcfgRegBody
  simp only [↓tcfgBody_kept]

theorem tldBody_kept (load : Bool) (t : TReg) (ga gb gc : GReg) (q : QNum) (k : Who) (b : Bank) (s : State) :
    (tldBody load t ga gb gc q k b s).state.kept = s.kept := by
  refine checked_kept _ _ (fun k b s => ?_) ..
  dsimp only
  split
  · simp only [Res.state, apply_ite State.kept, ite_self, settleTile_kept, ↓setDirty_kept, ↓acceptOp_kept, ↓setTile_kept]
  · rfl

theorem endFailed_kept (s : State) (t : TReg) : (endFailed s t).kept = s.kept := by
  simp only [endFailed, ↓State.kept_mk, State.kept_pair, apply_ite State.kept, ite_self, ↓clearTile_kept, ↓setTile_kept]

theorem tclearBody_kept (rel : Bool) (t : TReg) (k : Who) (b : Bank) (s : State) : (tclearBody rel t k b s).state.kept = s.kept := by
  refine checked_kept _ _ (fun k b s => ?_) ..
  simp only [Res.state, apply_ite State.kept, ite_self, ↓settleTile_kept, ↓setDirty_kept, ↓acceptOp_kept, ↓endFailed_kept]

theorem tmovBody_kept (td ts : TReg) (k : Who) (b : Bank) (s : State) : (tmovBody td ts k b s).state.kept = s.kept := by
  refine checked_kept _ _ (fun k b s => ?_) ..
  dsimp only
  split
  · exact setDirty_kept ..
  · exact (settleTile_kept ..).trans ((setDirty_kept ..).trans (acceptOp_kept ..))

theorem trdyBody_kept (w : Bool) (gd : GReg) (mask : BitVec 16) (k : Who) (b : Bank) (s : State) :
    (trdyBody w gd mask k b s).state.kept = s.kept := by
  unfold trdyBody
  split <;> simp only [Res.state]

theorem retake_kept (s : State) (t : TReg) (o : Op) : (retake s t o).kept = s.kept := rfl

theorem offStop_kept (s : State) (o : Op) : (offStop s o).kept = s.kept := by
  simp only [offStop, apply_ite State.kept, ite_self, ↓recordStop_kept, ↓passToTile_kept, ↓pend_kept, ↓updOp_kept]

theorem tresumeBody_kept (t : TReg) (k : Who) (b : Bank) (s : State) : (tresumeBody t k b s).state.kept = s.kept := by
  unfold tresumeBody
  split
  · rfl
  split
  · exact checked_kept _ _ (fun _ _ _ => rfl) ..
  refine checked_kept _ _ (fun k b s => ?_) ..
  dsimp only
  split
  · exact wakeRequest_kept ..
  · split
    · exact (offStop_kept ..).trans (retake_kept ..)
    · exact retake_kept ..
  · split
    · rfl
    · exact retake_kept ..

theorem vtrdBody_kept (side : Bool) (vd : VReg) (t : TReg) (gr : GReg) (k : Who) (b : Bank) (s : State) :
    (vtrdBody side vd t gr k b s).state.kept = s.kept := by
  refine checked_kept _ _ (fun k b s => ?_) ..
  dsimp only
  split
  · rfl
  · exact rowRead_kept ..

theorem vtwrBody_kept (side : Bool) (v : VReg) (t : TReg) (gr : GReg) (k : Who) (b : Bank) (s : State) :
    (vtwrBody side v t gr k b s).state.kept = s.kept := by
  refine checked_kept _ _ (fun k b s => ?_) ..
  dsimp only
  split
  · simp only [Res.state, settleTile_kept, ↓setDirty_kept, apply_ite State.kept, ↓putScale_kept, ↓putRow_kept, ite_self]
  · rfl

theorem tileIssuer_kept : IssuerKeeps tileIssuer := fun _ _ => rfl

theorem rowStop_kept (s : State) (o : Op) (r : Nat) (c : BitVec 5) (va pa : W64) : (rowStop s o r c va pa).kept = s.kept := by
  simp only [rowStop, ↓stopLine_kept]

theorem tldRow_kept (s : State) (o : Op) (r : Nat) : (tldRow s o r).kept = s.kept := by
  grind [tldRow, SOut.state, putScale_kept, lineMade_kept, putRow_kept, rowStop_kept, !streamRead_kept]

theorem tstRow_kept (s : State) (o : Op) (r : Nat) : (tstRow s o r).kept = s.kept := by
  grind [tstRow, WOut.state, lineMade_kept, rowStop_kept, !streamWrite_kept, tileMeet_kept]

theorem tileInstr_kept (c : Instr) (body : Body) (s : State) (h : BodyKeeps body) : (outState s (tileInstr c body s)).kept = s.kept :=
  issue_kept c _ s (domGate_kept dTile c body h)

theorem execTcfgRead_kept (gd : GReg) (t : TReg) (s : State) : (outState s (execTcfgRead gd t s)).kept = s.kept :=
  tileInstr_kept _ _ s fun _ _ _ => rfl

theorem execTld_kept (t : TReg) (ga gb gc : GReg) (q : QNum) (s : State) : (outState s (execTld t ga gb gc q s)).kept = s.kept :=
  tileInstr_kept _ _ s (domGate_kept _ _ _ fun _ _ _ => tldBody_kept ..)

theorem execTst_kept (t : TReg) (ga gb gc : GReg) (q : QNum) (s : State) : (outState s (execTst t ga gb gc q s)).kept = s.kept :=
  tileInstr_kept _ _ s (domGate_kept _ _ _ fun _ _ _ => tldBody_kept ..)

theorem execTresume_kept (t : TReg) (s : State) : (outState s (execTresume t s)).kept = s.kept :=
  tileInstr_kept _ _ s fun _ _ _ => tresumeBody_kept ..

theorem execHeldOpRelease_kept (id : Nat) (s : State) : (outState s (execHeldOpRelease id s)).kept = s.kept := by
  refine event_kept s _ (map_kept _ _ fun o => ?_)
  rfl

theorem execTldRowComplete_kept (t : TReg) (row : Nat) (s : State) : (outState s (execTldRowComplete t row s)).kept = s.kept := by
  refine event_kept s _ (bind_kept _ _ fun o => ?_)
  have hi (n : Nat) := issueTo_kept tileIssuer tileIssuer_kept o.id row 0 n s
  split
  · dsimp only
    split
    · split
      · exact hi _
      · split
        · exact (tldRow_kept ..).trans (hi _)
        · exact (tstRow_kept ..).trans (hi _)
    · exact hi _
  · rfl

theorem endTransfer_kept (s : State) (t : TReg) (o : Op) : (endTransfer s t o).kept = s.kept := by
  simp only [endTransfer, ↓setTile_kept, ↓finishQueued_kept]

theorem execTldComplete_kept (t : TReg) (s : State) : (outState s (execTldComplete t s)).kept = s.kept := by
  refine event_kept s _ (bind_kept _ _ fun o => ?_)
  split <;> simp only [Option.getD_some, Option.getD_none, ↓endTransfer_kept, ↓nibDrop_kept, ↓settleTile_kept]

theorem execTstComplete_kept (t : TReg) (s : State) : (outState s (execTstComplete t s)).kept = s.kept := by
  refine event_kept s _ (bind_kept _ _ fun o => ?_)
  split <;> simp only [Option.getD_some, ↓settleLines_kept, ↓endTransfer_kept, ↓settleTile_kept]

theorem failTransfer_kept (s : State) (o : Op) (cause : BitVec 5) (detail : Byte) (va pa : W64) :
    (failTransfer s o cause detail va pa).kept = s.kept := by
  unfold failTransfer
  split <;> simp only [↓stopOp_kept, ↓stopLine_kept]

theorem execTileTransferFault_kept (t : TReg) (cause : BitVec 5) (detail : Byte) (va pa : W64) (s : State) :
    (outState s (execTileTransferFault t cause detail va pa s)).kept = s.kept := by
  refine event_kept s _ (bind_kept _ _ fun o => ?_)
  split <;> simp only [Option.getD_some, Option.getD_none, ↓failTransfer_kept]

theorem execTzeroPerformed_kept (t : TReg) (s : State) : (outState s (execTzeroPerformed t s)).kept = s.kept := by
  refine event_kept s _ (map_kept _ _ fun o => ?_)
  simp only [↓dropOp_kept, ↓clearTile_kept, ↓settleTile_kept]

theorem execTrelPerformed_kept (t : TReg) (s : State) : (outState s (execTrelPerformed t s)).kept = s.kept := by
  refine event_kept s _ (map_kept _ _ fun o => ?_)
  simp only [↓State.kept_mk, State.kept_pair, ↓dropOp_kept, ↓clearTile_kept, ↓settleTile_kept]

theorem execTmovComplete_kept (td : TReg) (s : State) : (outState s (execTmovComplete td s)).kept = s.kept := by
  refine event_kept s _ (map_kept _ _ fun o => ?_)
  have strikes (rows : Nat) (ws : List Nat) (s : State) : ((List.range rows).foldl (fun s r => tileStrike s td r ws) s).kept = s.kept :=
    foldl_kept _ (fun s r => tileStrike_kept s td r ws) _ s
  simp only [↓settleTile_kept, ↓nibDrop_kept, apply_ite State.kept, strikes, ↓setTile_kept, ↓dropOp_kept, ↓tileMeetRows_kept, ite_self]

/-! ### The register banks: their banked registers, the bank actions, the overflow trap, saving and loading, and the hardware scheduler -/

theorem putWin_kept (b : Bank) (s : State) (x : Bank) : (putWin b s x).2.kept = s.kept := by
  unfold putWin
  split <;> simp only [↓setBank_kept]

theorem runBank_kept (s : State) (b : Bank) (dst : BankNum) : (runBank s b dst).kept = s.kept := rfl

theorem bankOverflow_kept (b : Bank) (s : State) : (bankOverflow b s).kept = s.kept := rfl

theorem spent_kept (s : State) (k : Nat) : (spent s k).kept = s.kept := rfl

theorem bankwinWrite_kept (v : W64) (b : Bank) (s : State) : (bankwinWrite v b s).state.kept = s.kept := by
  dsimp only [bankwinWrite]
  repeat' split
  all_goals simp only [Res.state, ↓State.kept_mk, State.kept_pair, ↓runBank_kept, ↓spent_kept, ↓bankOverflow_kept, ↓setBank_kept]

theorem xferHold_kept (x : Xfer) (i : Nat) (b : Bank) (s : State) : (xferHold x i b s).state.kept = s.kept := by
  unfold xferHold
  split <;> simp only [↓State.kept_mk, State.kept_pair, Res.state, ↓begun_kept, ↓setCur_kept, ↓svmStop_kept]

theorem xferNext_kept (x : Xfer) (l : List (Nat × Group × W64)) (b : Bank) (s : State) : (xferNext x l b s).state.kept = s.kept := by
  unfold xferNext
  split <;> simp only [Res.state, ↓xferHold_kept]

theorem xferGroup_kept (k : Who) (x : Xfer) (l : List (Nat × Group × W64)) (b : Bank) (s : State) : (xferGroup k x l b s).state.kept = s.kept := by
  cases l with
  | nil => rfl
  | cons p l =>
    obtain ⟨i, gr, va⟩ := p
    have hl := loadBytes_kept k b va (groupSize gr) 8 false s
    dsimp only [xferGroup]
    split
    · split
      · next h => rw [h] at hl; exact (xferNext_kept ..).trans ((putWin_kept ..).trans hl)
      · next h =>
        rw [h] at hl
        simp only [Res.state, apply_ite State.kept, ↓State.kept_mk, State.kept_pair, ↓svmStop_kept, ite_self]
        exact hl
      · next h => rw [h] at hl; exact hl
    · have hs (bs : List (Option Byte)) (ps : List Piece) := storePieces_kept k b va 8 true false bs ps s
      split
      · next h => exact (xferNext_kept ..).trans ((putWin_kept ..).trans ((congrArg (State.kept ∘ StoreOut.state) h).symm.trans (hs ..)))
      · next h =>
        simp only [Res.state, apply_ite State.kept, ↓State.kept_mk, State.kept_pair, ↓svmStop_kept, ite_self]
        exact (congrArg (State.kept ∘ StoreOut.state) h).symm.trans (hs ..)
      · next h => exact (congrArg (State.kept ∘ StoreOut.state) h).symm.trans (hs ..)

theorem xferEnd_kept (r : Res) (f : Bank → State → Bank × State) (h : ∀ b s, (f b s).2.kept = s.kept) :
    (xferEnd r f).state.kept = r.state.kept := by
  cases r with
  | ok b s => exact h b _
  | _ => rfl

theorem parkFree_kept (s : State) : (parkFree s).kept = s.kept := by
  simp only [parkFree, apply_ite State.kept, ite_self, ↓setBank_kept]

theorem xferGate_kept (c : Instr) (undef load vec : Bool) (ga : GReg) (body : Bool → Body) (h : ∀ off, BodyKeeps (body off)) :
    BodyKeeps (xferGate c undef load vec ga body) := by
  intro k b s
  dsimp only [xferGate]
  split
  · rfl
  refine ringGate_kept _ _ (fun k b s => ?_) ..
  split
  · rfl
  split
  · exact wakeRequest_kept ..
  split
  · rfl
  refine (h ..).trans ?_
  split
  · exact parkFree_kept s
  · rfl

theorem svmBody_kept (c : Instr) (load : Bool) (ga gm : GReg) (k : Who) (b : Bank) (s : State) :
    (svmBody c load ga gm k b s).state.kept = s.kept := by
  unfold svmBody
  extract_lets m named bad
  refine xferGate_kept _ _ _ _ _ _ (fun off k b s => ?_) ..
  refine (xferEnd_kept _ _ fun b s => ?_).trans (xferGroup_kept ..)
  dsimp only
  split
  · rfl
  split
  · exact putWin_kept ..
  · exact (putWin_kept ..).trans (spent_kept ..)

theorem svhBody_kept (c : Instr) (ga : GReg) (h : Bool) (k : Who) (b : Bank) (s : State) : (svhBody c ga h k b s).state.kept = s.kept := by
  refine xferGate_kept _ _ _ _ _ _ (fun off k b s => ?_) ..
  have hst := storeBytes_kept k b (rg b ga + 8) 8 false (toBytes 8 (BitVec.ofNat 64 h.toNat)) s
  dsimp only
  split
  · split
    · next e =>
      rw [e] at hst
      simp only [Res.state, apply_ite State.kept, ↓svmStop_kept, ite_self]
      exact hst
    · next e => rw [e] at hst; exact hst
    · next e => rw [e] at hst; exact (xferHold_kept ..).trans hst
  · exact (xferEnd_kept _ _ fun _ _ => rfl).trans (xferGroup_kept ..)

/-- What LDH's look at the other window leaves, in either answer. -/
def ldhState : LoadOut ⊕ (State × W64) → State
  | .inl r => r.state
  | .inr r => r.1

theorem ldhOther_kept (k : Who) (b : Bank) (ga : W64) (h : Bool) (s : State) : (ldhState (ldhOther k b ga h s)).kept = s.kept := by
  grind [ldhOther, ldhState, LoadOut.state, !loadBytes_kept]

theorem ldhBody_kept (c : Instr) (ga : GReg) (h : Bool) (k : Who) (b : Bank) (s : State) : (ldhBody c ga h k b s).state.kept = s.kept := by
  refine xferGate_kept _ _ _ _ _ _ (fun off k b s => ?_) ..
  have hl := ldhOther_kept k b (rg b ga) h s
  dsimp only
  split
  · next e =>
    rw [e] at hl
    simp only [Res.state, apply_ite State.kept, ↓svmStop_kept, ite_self]
    exact hl
  · next e => rw [e] at hl; exact hl
  · next e => rw [e] at hl; exact hl
  · next e =>
    rw [e] at hl
    exact (xferEnd_kept _ _ fun _ _ => rfl).trans ((xferGroup_kept ..).trans hl)

theorem mfbBody_kept (rd : GReg) (n : BitVec 12) (k : Who) (b : Bank) (s : State) : (mfbBody rd n k b s).state.kept = s.kept := by
  unfold mfbBody
  extract_lets w x
  clear_value x
  cases x with
  | none => rfl
  | some v =>
    refine ringGate_kept _ _ (fun k b s => ?_) ..
    split <;> rfl

theorem mtbBody_kept (rs : GReg) (n : BitVec 12) (k : Who) (b : Bank) (s : State) : (mtbBody rs n k b s).state.kept = s.kept := by
  unfold mtbBody
  extract_lets own w v x
  clear_value x
  cases x with
  | none => rfl
  | some y =>
    refine ringGate_kept _ _ (fun k b s => ?_) ..
    exact putWin_kept b s y

theorem schedTo_kept (s : State) (b : Bank) (dst : BankNum) : (schedTo s b dst).kept = s.kept := rfl

theorem execSchedSwitch_kept (why : SwitchWhy) (s : State) : (outState s (execSchedSwitch why s)).kept = s.kept := by
  refine event_kept s _ ?_
  repeat' split
  all_goals simp only [Option.getD_some, Option.getD_none, ↓schedTo_kept]

theorem execTnrBankReady_kept (b : BankNum) (s : State) : (outState s (execTnrBankReady b s)).kept = s.kept := by
  refine event_kept s _ ?_
  dsimp only
  repeat' split
  all_goals simp only [Option.getD_some, Option.getD_none, ↓setBank_kept]

/-! ### The tallies: their sources, folding, snapshots and key tables -/

theorem setTally_kept (s : State) (u : TallyNum) (x : Tally) : (setTally s u x).kept = s.kept := rfl

theorem writeTalsrc_kept (s : State) (u : TallyNum) (v : W64) (byQuill : Bool) : (writeTalsrc s u v byQuill).kept = s.kept := by
  simp only [writeTalsrc, apply_ite State.kept, ite_self, ↓setTally_kept]

theorem writeTalkbase_kept (s : State) (u : TallyNum) (v : W64) (byQuill : Bool) : (writeTalkbase s u v byQuill).kept = s.kept := by
  simp only [writeTalkbase, apply_ite State.kept, ite_self, ↓setTally_kept]

theorem talMeet_kept (s : State) (o n : Nat) : (talMeet s o n).kept = s.kept := by
  simp only [talMeet, apply_ite State.kept, ite_self, ↓readCheck_kept]

theorem writeHeader_kept (s : State) (k : KeyBuf) : (writeHeader s k).kept = s.kept := by
  simp only [writeHeader, ↓writeVellum_kept]

theorem readHeader_kept (s : State) (o : Nat) : (readHeader s o).1.kept = s.kept := by
  simp only [readHeader, ↓talMeet_kept]

theorem openHeader_kept (s : State) (x : Tally) (o : Nat) : (openHeader s x o).1.kept = s.kept := by
  unfold openHeader
  repeat' split
  all_goals simp only [↓writeHeader_kept, ↓readHeader_kept]

theorem keyFold_kept (s : State) (u : TallyNum) (key : Nat) (p : Sample) : (keyFold s u key p).kept = s.kept := by
  simp only [keyFold, apply_ite State.kept, ite_self, ↓talMeet_kept, ↓setTally_kept, ↓writeVellum_kept, ↓openHeader_kept]

theorem foldSample_kept (s : State) (u : TallyNum) (p : Sample) : (foldSample s u p).kept = s.kept := by
  unfold foldSample
  repeat' split
  all_goals simp only [apply_ite State.kept, ite_self, ↓keyFold_kept, ↓setTally_kept]

theorem tallyBody_kept (u : TallyNum) (g k : GReg) (k' : Who) (b : Bank) (s : State) : (tallyBody u g k k' b s).state.kept = s.kept := by
  grind [tallyBody, Res.state, setTally_kept]

theorem offerSample_kept (s : State) (u : TallyNum) (v : W32) (more : Nat) : (offerSample s u v more).kept = s.kept := by
  simp only [offerSample, apply_ite State.kept, ite_self, ↓setTally_kept, ↓wakeRequest_kept]

theorem offerAll_kept (s : State) (p : W64 → Bool) (v : W32) : (offerAll s p v).kept = s.kept := by
  simp only [offerAll, apply_ite State.kept, ite_self, foldl_kept, implies_true, ↓offerSample_kept]

theorem rowSample_kept (s : State) (drain : Bool) (semi : BitVec 3) (xs : List Ink) : (rowSample s drain semi xs).kept = s.kept := by
  simp only [rowSample, apply_ite State.kept, ite_self, ↓offerAll_kept]

theorem boxSample_kept (s : State) (m : BoxNum) (sc : W64) : (boxSample s m sc).kept = s.kept := by
  unfold boxSample
  exact offerAll_kept ..

theorem execTallySample_kept (u : TallyNum) (v : SampleIn) (more : Nat) (s : State) : (outState s (execTallySample u v more s)).kept = s.kept := by
  refine event_kept s _ ?_
  split <;> simp only [Option.getD_some, Option.getD_none, ↓offerSample_kept]

theorem execTallyFold_kept (u : TallyNum) (s : State) : (outState s (execTallyFold u s)).kept = s.kept := by
  refine event_kept s _ ?_
  dsimp only
  repeat' split
  all_goals simp only [Option.getD_some, Option.getD_none, ↓setTally_kept, ↓foldSample_kept]

theorem execTallyPendClear_kept (u : TallyNum) (s : State) : (outState s (execTallyPendClear u s)).kept = s.kept := by
  refine event_kept s _ ?_
  dsimp only
  repeat' split
  all_goals simp only [Option.getD_some, Option.getD_none, ↓setTally_kept, ↓writeHeader_kept]

/-! ### The board: plane records, BPLANE, BSWAP, BRUN, the rank edge, the result rows, the duty and the spare map; and the order of board and inkwell
operations -/

theorem boardAccept_kept (body : Body) (h : BodyKeeps body) : BodyKeeps (boardAccept body) := by
  intro k b s
  unfold boardAccept
  split
  · exact h k b s
  · rfl

theorem bplaneBody_kept (t : TReg) (k : Who) (b : Bank) (s : State) : (bplaneBody t k b s).state.kept = s.kept := by
  refine checked_kept _ _ (boardAccept_kept _ fun k b s => ?_) ..
  simp only [Res.state, ↓acceptOp_kept, ↓State.kept_mk, State.kept_pair]

theorem bswapBody_kept (k : Who) (b : Bank) (s : State) : (bswapBody k b s).state.kept = s.kept := by
  refine boardAccept_kept _ (fun k b s => ?_) ..
  simp only [Res.state, ↓acceptOp_kept, ↓State.kept_mk, State.kept_pair]

theorem brunBody_kept (t : TReg) (gr : GReg) (acc : BitVec 2) (half : Bool) (k : Who) (b : Bank) (s : State) :
    (brunBody t gr acc half k b s).state.kept = s.kept := by
  refine checked_kept _ _ (boardAccept_kept _ fun k b s => ?_) ..
  simp only [Res.state, ↓acceptOp_kept]

theorem inkStrike_kept (s : State) (r e : Nat) : (inkStrike s r e).kept = s.kept := by
  simp only [inkStrike, ↓State.kept_mk, State.kept_pair, apply_ite State.kept, ite_self, ↓plant_kept]

theorem inkWrite_kept (s : State) (r e : Nat) (x : Ink) : (inkWrite s r e x).kept = s.kept := by
  simp only [inkWrite, ↓State.kept_mk, State.kept_pair, apply_ite State.kept, ite_self, ↓inkStrike_kept, ↓clearSpot_kept]

theorem inkMeet_kept (s : State) (r e : Nat) : (inkMeet s r e).kept = s.kept := by
  simp only [inkMeet, apply_ite State.kept, ite_self, ↓meetSingle_kept, ↓postUe_kept]

theorem inkMeetRow_kept (s : State) (r first n : Nat) : (inkMeetRow s r first n).kept = s.kept := by
  simp only [inkMeetRow, apply_ite State.kept, ite_self, foldl_kept, implies_true, ↓inkMeet_kept]

theorem postBoardCheck_kept (s : State) (chk : Option BoardCheck) (row : Nat) : (postBoardCheck s chk row).kept = s.kept := by
  unfold postBoardCheck
  split <;> simp only [apply_ite State.kept, ite_self, ↓postRecord_kept]

theorem injResidue_kept (s : State) (n row : Nat) : (injResidue s n row).kept = s.kept := by
  dsimp only [injResidue]
  split <;> simp only [apply_ite State.kept, ite_self, ↓postRecord_kept, ↓disarm_kept, ↓draw_kept]

theorem injRail_kept (s : State) (n row : Nat) (acc : Bool) : (injRail s n row acc).kept = s.kept := by
  dsimp only [injRail]
  split <;> simp only [apply_ite State.kept, ite_self, ↓disarm_kept, ↓postRecord_kept]

theorem combineRow_kept (s : State) (o : Op) (m : Nat) (sums : List (Nat × Ink)) : (combineRow s o m sums).kept = s.kept := by
  simp only [combineRow, apply_ite State.kept, ite_self, foldl_kept, implies_true, ↓inkWrite_kept, ↓inkMeet_kept]

theorem resultRow_kept (s : State) (o : Op) (m : Nat) (sums : List (Nat × Ink)) : (resultRow s o m sums).kept = s.kept := by
  simp only [resultRow, ↓injResidue_kept, ↓injRail_kept, ↓rowSample_kept, ↓combineRow_kept]

theorem boardInstr_kept (c : Instr) (body : Body) (s : State) (h : BodyKeeps body) : (outState s (boardInstr c body s)).kept = s.kept :=
  issue_kept c _ s (domGate_kept dBoard c body h)

theorem execBplane_kept (t : TReg) (s : State) : (outState s (execBplane t s)).kept = s.kept :=
  boardInstr_kept _ _ s (domGate_kept _ _ _ fun _ _ _ => bplaneBody_kept ..)

theorem execBswap_kept (s : State) : (outState s (execBswap s)).kept = s.kept :=
  boardInstr_kept _ _ s bswapBody_kept

theorem execBrun_kept (t : TReg) (gr : GReg) (acc : BitVec 2) (half : Bool) (s : State) : (outState s (execBrun t gr acc half s)).kept = s.kept :=
  boardInstr_kept _ _ s (domGate_kept _ _ _ fun _ _ _ => brunBody_kept ..)

theorem execBplaneLoadStart_kept (s : State) : (outState s (execBplaneLoadStart s)).kept = s.kept := by
  refine event_kept s _ (bind_kept _ _ fun o => ?_)
  dsimp only
  repeat' split
  all_goals simp only [Option.getD_some, Option.getD_none, ↓updOp_kept]

theorem execBplaneComplete_kept (s : State) : (outState s (execBplaneComplete s)).kept = s.kept := by
  refine event_kept s _ (map_kept _ _ fun o => ?_)
  simp only [↓State.kept_mk, State.kept_pair, ↓tileMeetRows_kept, ↓dropOp_kept]

theorem execSwapTokenEntry_kept (s : State) : (outState s (execSwapTokenEntry s)).kept = s.kept := by
  refine event_kept s _ (bind_kept _ _ fun o => ?_)
  split <;> simp only [↓State.kept_mk, State.kept_pair, Option.getD_some, Option.getD_none, ↓updOp_kept]

theorem execBswapComplete_kept (s : State) : (outState s (execBswapComplete s)).kept = s.kept := by
  refine event_kept s _ ?_
  split <;> simp only [↓State.kept_mk, State.kept_pair, Option.getD_some, Option.getD_none, ↓dropOp_kept]

theorem execPlaneRelease_kept (s : State) : (outState s (execPlaneRelease s)).kept = s.kept := by
  refine event_kept s _ ?_
  split <;> simp only [↓State.kept_mk, State.kept_pair, Option.getD_some, Option.getD_none]

theorem execResultRowCombine_kept (chk : Option BoardCheck) (s : State) : (outState s (execResultRowCombine chk s)).kept = s.kept := by
  refine event_kept s _ ?_
  split
  · refine map_kept _ _ fun o => ?_
    simp only [apply_ite State.kept, ↓dropOp_kept, ↓updOp_kept, ↓postBoardCheck_kept, ↓resultRow_kept, ↓State.kept_mk, State.kept_pair, ite_self]
  · rfl

theorem execThrottleWindowBoundary_kept (s : State) : (outState s (execThrottleWindowBoundary s)).kept = s.kept := by
  refine event_kept s _ ?_
  rfl

theorem applyRemap_kept (s : State) (l : List (Fin 8 × BitVec 10)) : (applyRemap s l).kept = s.kept := rfl

theorem execSpareRemapApply_kept (s : State) : (outState s (execSpareRemapApply s)).kept = s.kept := by
  refine event_kept s _ (bind_kept _ _ fun o => ?_)
  split <;> simp only [Option.getD_some, Option.getD_none, ↓dropOp_kept, ↓applyRemap_kept]

/-! ### The quill's message layer, its blotter, its log, its events, and the accepted commands -/

theorem qevent_kept (s : State) (i : Nat) : (qevent s i).kept = s.kept := by
  simp only [qevent, ↓State.kept_mk, State.kept_pair, apply_ite State.kept, ite_self, ↓postEvent_kept, ↓wakeRequest_kept, ↓pend_kept]

theorem setQu_kept (s : State) (q : Quill) : (setQu s q).kept = s.kept := rfl

theorem logPush_kept (s : State) (r : BitVec 256) : (logPush s r).kept = s.kept := rfl

theorem logRecord_kept (s : State) (r : BitVec 256) : (logRecord s r).kept = s.kept := by
  simp only [logRecord, apply_ite State.kept, ite_self, ↓logPush_kept]

theorem putQ2h_kept (s : State) (k : BoxNum) (m : List Byte) : (putQ2h s k m).kept = s.kept := rfl

theorem postMsg_kept (s : State) (k : BoxNum) (m : List Byte) : (postMsg s k m).kept = s.kept := by
  simp only [postMsg, apply_ite State.kept, ite_self, ↓putQ2h_kept, ↓setQu_kept]

theorem flushBox_kept (s : State) (k : BoxNum) : (flushBox s k).kept = s.kept := by
  unfold flushBox
  split <;> simp only [apply_ite State.kept, ite_self, ↓setQu_kept, ↓putQ2h_kept]

theorem setEntry_kept (s : State) (i : BitVec 10) (x : BitVec 256) : (setEntry s i x).kept = s.kept := rfl

theorem journal_kept (s : State) (r : Req) : (journal s r).1.kept = s.kept := rfl

theorem meetEntry_kept (s : State) (i : BitVec 10) : (meetEntry s i).kept = s.kept := by
  simp only [meetEntry, apply_ite State.kept, ite_self, ↓windowMeet_kept]

theorem keeperRead_kept (s : State) (i : BitVec 10) : (keeperRead s i).kept = s.kept := by
  unfold keeperRead
  repeat' split
  all_goals simp only [↓setEntry_kept, ↓meetEntry_kept]

theorem endEntry_kept (s : State) (r : Req) (st det : Byte) (replay : Bool) : (endEntry s r st det replay).kept = s.kept := by
  unfold endEntry
  split <;> simp only [↓meetEntry_kept, ↓setEntry_kept]

theorem respondV_kept (s : State) (r : Req) (vmaj vmin st det : Byte) (res : List Byte) : (respondV s r vmaj vmin st det res).kept = s.kept := by
  simp only [respondV, ↓postMsg_kept]

theorem answer_kept (s : State) (r : Req) (replay : Bool) (st det : Byte) (res : List Byte) : (answer s r replay st det res).kept = s.kept := by
  simp only [answer, apply_ite State.kept, ite_self, ↓respondV_kept, ↓endEntry_kept]

theorem complete_kept (s : State) (id : Nat) (st det : Byte) (res : List Byte) : (complete s id st det res).kept = s.kept := by
  unfold complete
  split <;> simp only [apply_ite State.kept, ite_self, ↓postMsg_kept, ↓endEntry_kept, ↓setQu_kept]

theorem refuseCmd_kept (st det : Byte) (s : State) : (refuseCmd st det s).state.kept = s.kept := rfl

theorem acceptCmd_kept (s0 s : State) (id : Nat) (r : Req) (replay : Bool) (h : s.kept = s0.kept) :
    (acceptCmd s0 s id r replay).1.kept = s0.kept := by
  unfold acceptCmd
  split
  · exact answer_kept ..
  · simp only [apply_ite State.kept, ↓respondV_kept, ↓setQu_kept, ite_self, h]

/-- A command that leaves the queue and the variant as they are. -/
def CmdKeeps (f : Cmd) : Prop := ∀ id r s, (f id r s).state.kept = s.kept

theorem runCmd_kept (f : Cmd) (h : CmdKeeps f) (r : Req) (replay : Bool) (s : State) : (runCmd f r replay s).kept = s.kept := by
  have hf := h s.qu.nextCmd r s
  unfold runCmd
  dsimp only
  grind [CmdOut.state, answer_kept, respondV_kept, !acceptCmd_kept, complete_kept]

/-! ### Partner mirroring: the mirror engine's commits, the receiving side, fetch and verify, and the partner port -/

theorem setMir_kept (s : State) (m : Mir) : (setMir s m).kept = s.kept := rfl

theorem mirCheck_kept (s : State) (pa n : Nat) : (mirCheck s pa n).1.kept = s.kept := by
  simp only [mirCheck, ↓readCheck_kept]

theorem emit_kept (s : State) (w : PWord) (cost : Nat) : (emit s w cost).kept = s.kept := rfl

theorem resendGranules_kept (l : List TxGran) (s : State) : (resendGranules l s).2.kept = s.kept := by
  induction l generalizing s with
  | nil => rfl
  | cons t ts ih =>
    unfold resendGranules
    split
    · exact (ih _).trans (emit_kept s t.word 1)
    · exact ih s

theorem pumpSend_kept (record : List Byte) (x : Send) (s : State) : (pumpSend record x s).2.kept = s.kept := by
  dsimp only [pumpSend]
  split <;> simp only [↓resendGranules_kept, ↓emit_kept]

theorem advanceCommit_kept (s : State) : (advanceCommit s).kept = s.kept := by
  unfold advanceCommit
  split <;> simp only [↓setMir_kept, ↓pumpSend_kept]

theorem endServe_kept (s : State) (st : BitVec 4) : (endServe s st).kept = s.kept := rfl

theorem serveGranule_kept (s : State) (x : Send) (n : List Nat) (g : Nat) (gs : List Nat) : (serveGranule s x n g gs).1.kept = s.kept := by
  grind [serveGranule, setMir_kept, emit_kept, endServe_kept, !mirCheck_kept]

theorem serveCheck_kept (s : State) (x : Send) (a : Nat) : (serveCheck s x a).1.kept = s.kept := by
  unfold serveCheck
  split <;> simp only [↓mirCheck_kept]

theorem advanceServe_kept (n : Nat) (s : State) : (advanceServe n s).kept = s.kept := by
  induction n generalizing s with
  | zero => rfl
  | succ n ih => grind [advanceServe, !serveCheck_kept, !pumpSend_kept, !serveGranule_kept, endServe_kept, setMir_kept]

theorem advanceFetch_kept (s : State) : (advanceFetch s).kept = s.kept := by
  unfold advanceFetch
  split <;> simp only [apply_ite State.kept, ite_self, ↓setMir_kept, ↓emit_kept]

theorem mirAdvance_kept (s : State) : (mirAdvance s).kept = s.kept := by
  simp only [mirAdvance, ↓advanceCommit_kept, ↓advanceServe_kept, ↓advanceFetch_kept]

theorem setBothBits_kept (s : State) (l : List Nat) : (setBothBits s l).kept = s.kept :=
  foldl_kept _ (fun s g => (setMapBit_kept (setMapBit s false true g) true true g).trans (setMapBit_kept s false true g)) l s

theorem releaseHeld_kept (s : State) : (releaseHeld s).kept = s.kept := by
  simp only [releaseHeld, foldl_kept, implies_true, ↓setMir_kept, ↓agentWrite_kept]

theorem mirrorRecord_kept (s : State) (g : Option Nat) : (mirrorRecord s g).kept = s.kept := by
  dsimp only [mirrorRecord]
  split <;> simp only [↓postRecord_kept, ↓draw_kept, ↓freeClass_kept]

theorem abandonCommit_kept (quiet : Bool) (g : Option Nat) (s : State) : (abandonCommit quiet g s).kept = s.kept := by
  have marks (gen : Bool) (l : List Nat) (s : State) : (l.foldl (fun s g => setMapBit s gen true g) s).kept = s.kept :=
    foldl_kept _ (fun s g => setMapBit_kept s gen true g) l s
  unfold abandonCommit
  split
  · rfl
  · simp only [apply_ite State.kept, ite_self, marks, ↓pend_kept, ↓mirrorRecord_kept, ↓releaseHeld_kept, ↓setMir_kept]

theorem commitDone_kept (s : State) (k : Commit) : (commitDone s k).kept = s.kept := by
  simp only [commitDone, ↓setMir_kept, ↓releaseHeld_kept]

theorem startCommit_kept (s : State) (p : W64) : (startCommit s p).kept = s.kept := by
  simp only [startCommit, apply_ite State.kept, ite_self, ↓abandonCommit_kept, ↓mirAdvance_kept, ↓setMir_kept]

theorem fetchResults_kept (s : State) (f : Fetch) : (fetchResults s f).1.kept = s.kept := rfl

theorem freeCredits_kept (s : State) : (freeCredits s).kept = s.kept :=
  (foldl_kept _ (fun s _ => emit_kept s (.credit 1) 0) _ _).trans (setMir_kept s _)

theorem endFetch_kept (s : State) (f : Fetch) (st det : Byte) (record : Bool) (g : Option Nat) : (endFetch s f st det record g).kept = s.kept := by
  simp only [endFetch, apply_ite State.kept, ite_self, ↓complete_kept, ↓qevent_kept, ↓fetchResults_kept, ↓mirrorRecord_kept, ↓setBothBits_kept,
    ↓setMir_kept, ↓freeCredits_kept]

theorem abortFetch_kept (s : State) (det : Byte) (g : Option Nat) : (abortFetch s det g).kept = s.kept := by
  unfold abortFetch
  split <;> simp only [↓endFetch_kept]

theorem fetchDone_kept (s : State) (f : Fetch) : (fetchDone s f).kept = s.kept := by
  simp only [fetchDone, ↓State.kept_mk, State.kept_pair, apply_ite State.kept, ite_self, ↓endFetch_kept]

theorem mirctlRest_kept (s : State) (v : W64) : (mirctlRest s v).kept = s.kept := rfl

theorem mirctlWrite_kept (s : State) (v : W64) : (mirctlWrite s v).kept = s.kept := by
  simp only [mirctlWrite, apply_ite State.kept, ite_self, ↓abandonCommit_kept, ↓setBothBits_kept, ↓mirctlRest_kept, ↓setMir_kept]

theorem mircfgWrite_kept (s : State) (r : Fin 16) (v : W64) : (mircfgWrite s r v).kept = s.kept := by
  simp only [mircfgWrite, apply_ite State.kept, ite_self, ↓setMir_kept]

theorem mirmapWrite_kept (s : State) (v : W64) : (mirmapWrite s v).kept = s.kept := by
  simp only [mirmapWrite, apply_ite State.kept, ite_self, ↓setMir_kept]

theorem mirresvWrite_kept (s : State) (v : W64) : (mirresvWrite s v).kept = s.kept := by
  simp only [mirresvWrite, apply_ite State.kept, ite_self, ↓setMir_kept]

theorem partnerEvent_kept (s : State) (f : State → Option State) (h : ∀ s, ((f s).getD s).kept = s.kept) :
    (outState s (partnerEvent s f)).kept = s.kept := by
  refine event_kept s _ ?_
  split
  · rfl
  split
  · have hf := h (setMir s { s.mir with out := [] })
    cases hs : f (setMir s { s.mir with out := [] }) with
    | none => rfl
    | some s1 => rw [hs] at hf; exact (mirAdvance_kept s1).trans (hf.trans (setMir_kept ..))
  · exact wakeRequest_kept s dVellum
  · rfl

theorem sendAck_kept (s : State) (g : BitVec 16) (gen isRec : Bool) : (sendAck s g gen isRec).kept = s.kept := rfl

theorem sendNack_kept (s : State) (code : BitVec 4) (g : BitVec 16) (isRec : Bool) : (sendNack s code g isRec).kept = s.kept := rfl

theorem crcRecord_kept (s : State) (range : BitVec 4) (idx : BitVec 16) (crc : W32) (inj : Bool) : (crcRecord s range idx crc inj).kept = s.kept := by
  simp only [crcRecord, ↓postRecord_kept]

theorem execMirrorGranuleRead_kept (uncorrectable : Bool) (s : State) : (outState s (execMirrorGranuleRead uncorrectable s)).kept = s.kept := by
  refine partnerEvent_kept s _ fun s => ?_
  grind [setMir_kept, releaseHeld_kept, setMapBit_kept, emit_kept, abandonCommit_kept, !mirCheck_kept]

theorem execMirrorHeldWrite_kept (pa : BitVec 56) (bytes : List Byte) (s : State) : (outState s (execMirrorHeldWrite pa bytes s)).kept = s.kept := by
  refine event_kept s _ ?_
  dsimp only
  repeat' split
  all_goals simp only [Option.getD_some, Option.getD_none, ↓setMir_kept, ↓askGranules_kept]

theorem execPartnerAck_kept (g : BitVec 16) (gen isRec : Bool) (s : State) : (outState s (execPartnerAck g gen isRec s)).kept = s.kept := by
  refine partnerEvent_kept s _ fun s => ?_
  repeat' split
  all_goals simp only [Option.getD_some, Option.getD_none, ↓setMir_kept, ↓commitDone_kept]

theorem execPartnerNack_kept (code : BitVec 4) (g : BitVec 16) (isRec : Bool) (s : State) :
    (outState s (execPartnerNack code g isRec s)).kept = s.kept := by
  refine partnerEvent_kept s _ fun s => ?_
  repeat' split
  all_goals simp only [Option.getD_some, Option.getD_none, ↓abandonCommit_kept, ↓setMir_kept]

theorem execPartnerCredit_kept (n : BitVec 3) (s : State) : (outState s (execPartnerCredit n s)).kept = s.kept := by
  refine partnerEvent_kept s _ fun s => ?_
  split <;> simp only [Option.getD_some, Option.getD_none, ↓setMir_kept]

theorem execMirrorCommitAbandon_kept (s : State) : (outState s (execMirrorCommitAbandon s)).kept = s.kept := by
  refine event_kept s _ ?_
  split <;> simp only [Option.getD_some, Option.getD_none, ↓abandonCommit_kept, ↓mirAdvance_kept]

theorem receiverWrite_kept (s : State) (pa : Nat) (bs : List Byte) : (receiverWrite s pa bs).kept = s.kept := by
  simp only [receiverWrite, apply_ite State.kept, ite_self, ↓noteFabricWrite_kept, ↓cohWrite_kept]

theorem execPartnerGranuleReceive_kept (range : BitVec 4) (idx : BitVec 16) (gen : Bool) (ply : BitVec 60) (crc : W32) (bytes : List Byte)
    (s : State) :
    (outState s (execPartnerGranuleReceive range idx gen ply crc bytes s)).kept = s.kept := by
  refine partnerEvent_kept s _ fun s => ?_
  dsimp only
  repeat' split
  all_goals simp only [Option.getD_some, Option.getD_none, ↓setMir_kept, ↓askVisible_kept, ↓receiverWrite_kept, ↓crcRecord_kept, ↓sendNack_kept,
    ↓disarm_kept]

theorem fetchRecord_kept (s : State) (f : Fetch) (b : List Byte) (inj : Bool) : (fetchRecord s f b inj).kept = s.kept := by
  simp only [fetchRecord, apply_ite State.kept, ite_self, ↓abortFetch_kept, ↓crcRecord_kept, ↓sendNack_kept, ↓setMir_kept, ↓sendAck_kept]

theorem execPartnerRecordReceive_kept (bytes : List Byte) (s : State) : (outState s (execPartnerRecordReceive bytes s)).kept = s.kept := by
  refine partnerEvent_kept s _ fun s => ?_
  dsimp only
  repeat' split
  all_goals simp only [Option.getD_some, Option.getD_none, ↓setMir_kept, ↓crcRecord_kept, ↓sendNack_kept, ↓fetchRecord_kept, ↓disarm_kept]

theorem execPartnerWriteVisible_kept (s : State) : (outState s (execPartnerWriteVisible s)).kept = s.kept := by
  refine partnerEvent_kept s _ fun s => ?_
  dsimp only
  repeat' split
  all_goals simp only [Option.getD_some, Option.getD_none, ↓fetchDone_kept, ↓sendAck_kept, ↓setMir_kept, ↓askVisible_kept, ↓receiverWrite_kept]

theorem execPartnerFreq_kept (rmask : BitVec 16) (gen : BitVec 2) (verify : Bool) (s : State) :
    (outState s (execPartnerFreq rmask gen verify s)).kept = s.kept := by
  refine partnerEvent_kept s _ fun s => ?_
  grind [setMir_kept, !mirCheck_kept, endServe_kept]

theorem verifyGranule_kept (s : State) (f : Fetch) (gen : Bool) (g pa : Nat) (bs : List Byte) : (verifyGranule s f gen g pa bs).kept = s.kept := by
  grind [verifyGranule, abortFetch_kept, !mirCheck_kept, setMir_kept, sendAck_kept]

theorem fetchCrc_kept (s : State) (f : Fetch) (g : Nat) : (fetchCrc s f g).kept = s.kept := by
  simp only [fetchCrc, apply_ite State.kept, ite_self, ↓setMir_kept, ↓abortFetch_kept]

theorem execFetchGranuleReceive_kept (range : BitVec 4) (idx : BitVec 16) (crc : W32) (bytes : List Byte) (s : State) :
    (outState s (execFetchGranuleReceive range idx crc bytes s)).kept = s.kept := by
  refine partnerEvent_kept s _ fun s => ?_
  dsimp only
  repeat' split
  all_goals simp only [Option.getD_some, Option.getD_none, ↓setMir_kept, ↓askVisible_kept, ↓receiverWrite_kept, ↓verifyGranule_kept, ↓crcRecord_kept,
    ↓sendNack_kept, ↓fetchCrc_kept, ↓disarm_kept]

theorem execPartnerFend_kept (st : BitVec 4) (s : State) : (outState s (execPartnerFend st s)).kept = s.kept := by
  refine partnerEvent_kept s _ fun s => ?_
  repeat' split
  all_goals simp only [Option.getD_some, Option.getD_none, ↓abortFetch_kept, ↓endFetch_kept, ↓fetchDone_kept, ↓setMir_kept]

theorem grantPartner_kept (s : State) : (grantPartner s).kept = s.kept := by
  simp only [grantPartner, apply_ite State.kept, ite_self, ↓setMir_kept, ↓mirAdvance_kept, ↓emit_kept]

theorem execPpLinkUpRise_kept (s : State) : (outState s (execPpLinkUpRise s)).kept = s.kept := by
  refine pinEvent_kept s _ _ ?_ ?_
  repeat' split
  all_goals simp only [Option.getD_some, Option.getD_none, ↓wakeRequest_kept, ↓grantPartner_kept, ↓setMir_kept]

theorem execPpLinkUpFall_kept (s : State) : (outState s (execPpLinkUpFall s)).kept = s.kept := by
  refine pinEvent_kept s _ _ ?_ ?_
  repeat' split
  all_goals simp only [Option.getD_some, Option.getD_none, ↓abandonCommit_kept, ↓abortFetch_kept, ↓setMir_kept]

theorem execMirrorTmoExpiry_kept (s : State) : (outState s (execMirrorTmoExpiry s)).kept = s.kept := by
  refine event_kept s _ ?_
  split <;> simp only [Option.getD_some, Option.getD_none, ↓abandonCommit_kept, ↓abortFetch_kept]

/-! ### The L2 way groups, ruled mode, the fills of the caches, the prefetcher and the walks -/

theorem cleanStep_kept (s : State) (g : Fin 4) : (cleanStep s g).kept = s.kept := by
  dsimp only [cleanStep]
  split
  · split
    · exact (setDom_kept ..).trans (foldl_kept _ discardLine_kept _ s)
    split
    · exact foldl_kept _ evictL2_kept _ s
    · exact setDom_kept ..
  · rfl

theorem cleanSteps_kept (s : State) : (cleanSteps s).kept = s.kept := by
  simp only [cleanSteps, foldl_kept, implies_true, ↓cleanStep_kept]

theorem setBusy_kept (s : State) (g : Fin 4) (v : Bool) : (setBusy s g v).kept = s.kept := rfl

theorem driveGroup_kept (s : State) (g : Fin 4) : (driveGroup s g).kept = s.kept := by
  simp only [driveGroup, ↓State.kept_mk, State.kept_pair, apply_ite State.kept, ite_self, ↓setDom_kept, ↓setBusy_kept]

theorem driveGroups_kept (s : State) : (driveGroups s).kept = s.kept := by
  simp only [driveGroups, foldl_kept, implies_true, ↓driveGroup_kept]

theorem l2wayWrite_kept (v : W64) (s : State) : (l2wayWrite v s).kept = s.kept := by
  simp only [l2wayWrite, ↓State.kept_mk, State.kept_pair, ↓driveGroups_kept]

theorem cleanL1d_kept (s : State) : (cleanL1d s).kept = s.kept := by
  simp only [cleanL1d, foldl_kept, implies_true, ↓flushL1d_kept]

theorem ruledWrite_kept (v : W64) (b : Bank) (s : State) : (ruledWrite v b s).state.kept = s.kept := by
  have wakes (l : List (Fin 32)) (s : State) : (l.foldl wakeRequest s).kept = s.kept := foldl_kept _ wakeRequest_kept l s
  dsimp only [ruledWrite]
  repeat' split
  all_goals simp only [Res.state, ↓State.kept_mk, State.kept_pair, wakes, ↓cleanL1d_kept]

theorem dropL1i_kept (s : State) (la : BitVec 50) : (dropL1i s la).kept = s.kept := rfl

theorem meetL1i_kept (s : State) (la : BitVec 50) : (meetL1i s la).kept = s.kept := by
  unfold meetL1i
  repeat' split
  all_goals simp only [↓clearSpot_kept, ↓dropL1i_kept, ↓postRecord_kept]

theorem fillL1i_kept (s0 : State) (la : BitVec 50) (va : W64) : (fillL1i s0 la va).kept = s0.kept := by
  simp only [fillL1i, ↓State.kept_mk, State.kept_pair, apply_ite State.kept, ite_self, ↓injFill_kept, ↓fillL2_kept, ↓meetL1i_kept]

theorem fetchLine_kept (s : State) (va : W64) : ((fetchLine s va).getD s).kept = s.kept := by
  grind [fetchLine, State.kept_mk, State.kept_pair, Tr.state, fillL1i_kept, !translate_kept]

theorem walkBegin_kept (s : State) (r : WalkReq) (va : W64) : ((walkBegin s r va).getD s).kept = s.kept := by
  unfold walkBegin
  repeat' split
  all_goals simp only [↓State.kept_mk, State.kept_pair, Option.getD_some, Option.getD_none]

theorem walkDrop_kept (s : State) (i : Nat) : (walkDrop s i).kept = s.kept := rfl

theorem portFault_kept (s : State) (a : Nat) : (portFault s a).kept = s.kept := by
  simp only [portFault, ↓postRecord_kept, ↓draw_kept]

theorem walkReturn_kept (s : State) (i : Nat) (err : Bool) : ((walkReturn s i err).getD s).kept = s.kept := by
  unfold walkReturn
  split
  · rfl
  next w _ =>
  split
  · exact walkDrop_kept s i
  dsimp only
  split
  · exact walkDrop_kept s i
  split
  · exact (walkDrop_kept ..).trans (portFault_kept ..)
  have hr := walkRead_kept s (descAddr w.table w.level w.va) w.ty
  split
  · next h => rw [h] at hr; exact (walkDrop_kept ..).trans hr
  next s1 d h =>
  rw [h] at hr
  split
  · exact (walkDrop_kept ..).trans hr
  · exact (walkCacheAdd_kept ..).trans hr
  split
  · exact (askGranules_kept ..).trans hr
  · simp only [Option.getD_some, apply_ite State.kept, ↓walkDrop_kept, ↓installL2_kept, ↓installIn_kept, ↓walkWrite_kept, ite_self]
    exact hr

theorem execL1iMissFill_kept (va : W64) (s : State) : (outState s (execL1iMissFill va s)).kept = s.kept := by
  refine event_kept s _ ?_
  split <;> simp only [Option.getD_none, ↓fetchLine_kept]

theorem execL1dMissFill_kept (s : State) : (outState s (execL1dMissFill s)).kept = s.kept := by
  refine event_kept s _ ?_
  simp only [Option.getD_some, ↓missFill_kept]

theorem execPrefetchFill_kept (line : BitVec 56) (err : Bool) (s : State) : (outState s (execPrefetchFill line err s)).kept = s.kept := by
  refine event_kept s _ ?_
  dsimp only
  repeat' split
  all_goals simp only [↓State.kept_mk, State.kept_pair, Option.getD_some, Option.getD_none, ↓fillL2_kept]

theorem execPageWalk_kept (r : WalkReq) (va : W64) (s : State) : (outState s (execPageWalk r va s)).kept = s.kept := by
  refine event_kept s _ ?_
  simp only [↓walkBegin_kept]

/-! ### The inkwell: BMODE, ICLR, the three forms of IDRAIN with their conversions, and the power-up zeroing -/

theorem execWalkDescriptorReturn_kept (i : Nat) (err : Bool) (s : State) : (outState s (execWalkDescriptorReturn i err s)).kept = s.kept := by
  refine event_kept s _ ?_
  simp only [↓walkReturn_kept]

theorem bmodeBody_kept (semi : BitVec 3) (k : Who) (b : Bank) (s : State) : (bmodeBody semi k b s).state.kept = s.kept := rfl

theorem iclrBody_kept (gr gc : GReg) (k : Who) (b : Bank) (s : State) : (iclrBody gr gc k b s).state.kept = s.kept := by
  dsimp only [iclrBody]
  split
  · rfl
  refine checked_kept _ _ (boardAccept_kept _ fun k b s => ?_) ..
  simp only [Res.state, ↓acceptOp_kept]

theorem idrainTileBody_kept (gr : GReg) (t : TReg) (o : DrainOpts) (k : Who) (b : Bank) (s : State) :
    (idrainTileBody gr t o k b s).state.kept = s.kept := by
  refine checked_kept _ _ (boardAccept_kept _ fun k b s => ?_) ..
  exact (settleTile_kept ..).trans ((setDirty_kept ..).trans (acceptOp_kept ..))

theorem drainMeet_kept (s : State) (semi : BitVec 3) (row first n : Nat) : (drainMeet s semi row first n).kept = s.kept := by
  simp only [drainMeet, ↓inkMeetRow_kept, ↓rowSample_kept]

theorem drainTileRow_kept (o : Op) (s : State) (r : Nat) : (drainTileRow o s r).kept = s.kept := by
  simp only [drainTileRow, apply_ite State.kept, ite_self, ↓putScale_kept, ↓putRow_kept, ↓drainMeet_kept]

theorem idrainVectorBody_kept (c : Instr) (gr : GReg) (vd : VReg) (o : DrainOpts) (k : Who) (b : Bank) (s : State) :
    (idrainVectorBody c gr vd o k b s).state.kept = s.kept := by
  dsimp only [idrainVectorBody]
  split
  · rfl
  refine checked_kept _ _ (fun k b s => ?_) ..
  split
  · rfl
  · exact drainMeet_kept s ..

theorem idrainMemoryBody_kept (c : Instr) (gr ga gb : GReg) (q : QNum) (o : DrainOpts) (k : Who) (b : Bank) (s : State) :
    (idrainMemoryBody c gr ga gb q o k b s).state.kept = s.kept := by
  dsimp only [idrainMemoryBody]
  split
  · rfl
  refine checked_kept _ _ (boardAccept_kept _ fun k b s => ?_) ..
  split
  · exact acceptOp_kept s _
  · rfl

theorem drainTake_kept (s : State) (o : Op) (l : Nat) : (drainTake s o l).kept = s.kept := by
  simp only [drainTake, apply_ite State.kept, ite_self, ↓drainMeet_kept, ↓updOp_kept]

theorem drainIssuer_kept : IssuerKeeps drainIssuer := fun s o => drainTake_kept s o o.iline

theorem portAdvance_kept (s : State) (o : Op) : (portAdvance s o).kept = s.kept := by
  refine foldl_kept _ (fun s e => ?_) _ s
  split
  · exact issueTo_kept _ drainIssuer_kept ..
  · rfl

theorem execARowEntry_kept (s : State) : (outState s (execARowEntry s)).kept = s.kept := by
  refine event_kept s _ (bind_kept _ _ fun o => ?_)
  dsimp only
  repeat' split
  all_goals simp only [↓State.kept_mk, State.kept_pair, Option.getD_some, Option.getD_none, ↓updOp_kept, ↓rowRead_kept, ↓portAdvance_kept]

theorem execIclr_kept (gr gc : GReg) (s : State) : (outState s (execIclr gr gc s)).kept = s.kept :=
  boardInstr_kept _ _ s fun _ _ _ => iclrBody_kept ..

theorem execIdrainTile_kept (gr : GReg) (t : TReg) (o : DrainOpts) (s : State) : (outState s (execIdrainTile gr t o s)).kept = s.kept :=
  boardInstr_kept _ _ s (domGate_kept _ _ _ fun _ _ _ => idrainTileBody_kept ..)

theorem execIdrainMemory_kept (gr ga gb : GReg) (q : QNum) (o : DrainOpts) (s : State) :
    (outState s (execIdrainMemory gr ga gb q o s)).kept = s.kept :=
  boardInstr_kept _ _ s (domGate_kept _ _ _ fun _ _ _ => idrainMemoryBody_kept ..)

theorem execIclrComplete_kept (s : State) : (outState s (execIclrComplete s)).kept = s.kept := by
  refine event_kept s _ (bind_kept _ _ fun o => ?_)
  have row (base i entries : Nat) (v : Ink) (s : State) : ((List.range entries).foldl (fun s e => inkWrite s (base + i) e v) s).kept = s.kept :=
    foldl_kept _ (fun s e => inkWrite_kept s (base + i) e v) _ s
  dsimp only
  split
  · exact (dropOp_kept ..).trans ((foldl_kept _ (fun s i => row _ i _ _ s) _ _).trans (portAdvance_kept s o))
  · rfl

theorem execIdrainTileComplete_kept (t : TReg) (s : State) : (outState s (execIdrainTileComplete t s)).kept = s.kept := by
  refine event_kept s _ (bind_kept _ _ fun o => ?_)
  dsimp only
  split
  · exact (settleTile_kept ..).trans ((dropOp_kept ..).trans ((foldl_kept _ (drainTileRow_kept o) _ _).trans (portAdvance_kept s o)))
  · rfl

theorem execIdrainMemoryComplete_kept (q : QNum) (s : State) : (outState s (execIdrainMemoryComplete q s)).kept = s.kept := by
  refine event_kept s _ (map_kept _ _ fun o => ?_)
  simp only [apply_ite State.kept, ite_self, ↓settleLines_kept, ↓finishQueued_kept]

/-! ### The stream engine: SMOVE with its descriptor and its lines, the memory drain's rows, completion, faults and restart -/

theorem smoveBody_kept (q : QNum) (ga : GReg) (k : Who) (b : Bank) (s : State) : (smoveBody q ga k b s).state.kept = s.kept := by
  unfold smoveBody
  repeat' split
  all_goals simp only [Res.state, ↓acceptOp_kept]

theorem clearRecord_kept (s : State) (q : QNum) : (clearRecord s q).kept = s.kept := by
  simp only [clearRecord, ↓State.kept_mk, State.kept_pair, ↓reportStop_kept]

theorem sqctlBody_kept (a : SqAct) (q : QNum) (g : GReg) (k : Who) (b : Bank) (s : State) : (sqctlBody a q g k b s).state.kept = s.kept := by
  grind [sqctlBody, Res.state, postQueue_kept, updOp_kept, clearRecord_kept]

theorem putInkBytes_kept (s : State) (row e : Nat) (bs : List Byte) : (putInkBytes s row e bs).kept = s.kept := by
  simp only [putInkBytes, foldl_kept, implies_true, ↓inkWrite_kept]

theorem partMade_kept (s : State) (o : Op) (l n off : Nat) (fab : Bool) : (partMade s o l n off fab).kept = s.kept := by
  simp only [partMade, apply_ite State.kept, ite_self, ↓updOp_kept, ↓reportStop_kept, ↓lineMade_kept]

theorem movedBytes_kept (d : Desc) (src dst : W64) (bs : List Byte) (s : State) : (movedBytes d src dst bs s).2.kept = s.kept := by
  unfold movedBytes
  split <;> simp only [↓spent_kept]

theorem smoveIssuer_kept (d : Desc) : IssuerKeeps (smoveIssuer d) := fun _ _ => rfl

theorem smoveRead_kept (s : State) (o : Op) (d : Desc) (l off k : Nat) : (smoveRead s o d l off k).1.state.kept = s.kept := by
  grind [smoveRead, SOut.state, !streamRead_kept, inkMeetRow_kept]

theorem smoveWrite_kept (s : State) (o : Op) (d : Desc) (l off : Nat) (bs : List Byte) : (smoveWrite s o d l off bs).kept = s.kept := by
  grind [smoveWrite, WOut.state, stopLine_kept, !streamWrite_kept, putInkBytes_kept, partMade_kept]

theorem smoveStep_kept (s : State) (o : Op) (d : Desc) (l : Nat) : (smoveStep s o d l).kept = s.kept := by
  grind [smoveStep, SOut.state, smoveWrite_kept, !movedBytes_kept, !smoveRead_kept, wakeRequest_kept, stopLine_kept]

theorem drainStep_kept (s : State) (o : Op) (l : Nat) : (drainStep s o l).kept = s.kept := by
  grind [drainStep, WOut.state, partMade_kept, stopLine_kept, !streamWrite_kept]

theorem postSmove_kept (s : State) (o : Op) : (postSmove s o).kept = s.kept := by
  simp only [postSmove, apply_ite State.kept, ite_self, ↓dropOp_kept, ↓countDone_kept, ↓postQueue_kept, ↓pend_kept, ↓postEvent_kept]

theorem stopPost_kept (s : State) (o : Op) (c : BitVec 5) (detail : Byte) (va pa : W64) : (stopPost s o c detail va pa).kept = s.kept := by
  simp only [stopPost, ↓updOp_kept, ↓stopOp_kept]

theorem stopDesc_kept (s : State) (o : Op) (c : BitVec 5) (detail : Byte) (a pa : W64) : (stopDesc s o c detail a pa).kept = s.kept := by
  simp only [stopDesc, ↓stopOp_kept]

theorem issuerOf_kept (o : Op) : IssuerKeeps (issuerOf o) := by
  unfold issuerOf
  split
  · exact smoveIssuer_kept _
  · exact drainIssuer_kept

theorem queueFault_kept (s : State) (q : QNum) (c : BitVec 5) (detail : Byte) (va pa : W64) (write : Bool) :
    ((queueFault s q c detail va pa write).getD s).kept = s.kept := by
  unfold queueFault
  split
  · exact stopPost_kept ..
  split
  · exact stopDesc_kept ..
  cases (movers s q).head? with
  | none => rfl
  | some o =>
    dsimp only [Option.map_some, Option.getD_some]
    split
    · exact stopLine_kept ..
    · exact stopOp_kept ..

theorem streamInstr_kept (c : Instr) (body : Body) (s : State) (h : BodyKeeps body) : (outState s (streamInstr c body s)).kept = s.kept :=
  issue_kept c _ s (domGate_kept dStream c body h)

theorem execSmove_kept (q : QNum) (ga : GReg) (s : State) : (outState s (execSmove q ga s)).kept = s.kept :=
  streamInstr_kept _ _ s fun _ _ _ => smoveBody_kept ..

theorem execStreamDescriptorRead_kept (q : QNum) (s : State) : (outState s (execStreamDescriptorRead q s)).kept = s.kept := by
  refine event_kept s _ (map_kept _ _ fun o => ?_)
  grind [SOut.state, updOp_kept, stopDesc_kept, !streamRead_kept]

theorem execStreamOpStart_kept (q : QNum) (s : State) : (outState s (execStreamOpStart q s)).kept = s.kept := by
  refine event_kept s _ (bind_kept _ _ fun o => ?_)
  dsimp only
  repeat' split
  all_goals simp only [Option.getD_some, Option.getD_none, ↓updOp_kept]

theorem execStreamRequestComplete_kept (q : QNum) (line : Nat) (s : State) : (outState s (execStreamRequestComplete q line s)).kept = s.kept := by
  refine event_kept s _ (bind_kept _ _ fun p => ?_)
  obtain ⟨o, l⟩ := p
  have hi (n : Nat) := issueTo_kept (issuerOf o) (issuerOf_kept o) o.id l (movedOf o l) n s
  dsimp only
  split
  · rfl
  dsimp only [Option.getD_some]
  split
  · split
    · exact hi _
    split
    · exact (smoveStep_kept ..).trans (hi _)
    · exact (drainStep_kept ..).trans (hi _)
  · exact hi _

theorem execStreamFault_kept (q : QNum) (cause : BitVec 5) (detail : Byte) (va pa : W64) (write : Bool) (s : State) :
    (outState s (execStreamFault q cause detail va pa write s)).kept = s.kept := by
  refine event_kept s _ ?_
  split <;> simp only [Option.getD_none, ↓queueFault_kept]

theorem execSmoveComplete_kept (q : QNum) (s : State) : (outState s (execSmoveComplete q s)).kept = s.kept := by
  refine event_kept s _ (map_kept _ _ fun o => ?_)
  grind [WOut.state, settleLines_kept, stopPost_kept, !streamWrite_kept, postSmove_kept]

theorem execSqstat_kept (gd : GReg) (q : QNum) (w : BitVec 3) (s : State) : (outState s (execSqstat gd q w s)).kept = s.kept :=
  streamInstr_kept _ _ s fun _ _ _ => rfl

theorem execSqwait_kept (gd : GReg) (q : QNum) (s : State) : (outState s (execSqwait gd q s)).kept = s.kept := by
  refine streamInstr_kept _ _ s fun k b s => ?_
  split <;> rfl

/-! ### The vector instructions: integer, floating point, compares, reductions, conversions, element moves and masks -/

theorem vintBody_kept (f : VInt) (vd va vb : VReg) (mk : Option MReg) (wc : BitVec 2) (k : Who) (b : Bank) (s : State) :
    (vintBody f vd va vb mk wc k b s).state.kept = s.kept := rfl

theorem vfpBody_kept (f : VFp) (vd va vb : VReg) (mk : Option MReg) (wc : BitVec 2) (k : Who) (b : Bank) (s : State) :
    (vfpBody f vd va vb mk wc k b s).state.kept = s.kept := rfl

theorem vcmpBody_kept (f : VCmp) (md : MReg) (va vb : VReg) (mk : Option MReg) (wc : BitVec 2) (k : Who) (b : Bank) (s : State) :
    (vcmpBody f md va vb mk wc k b s).state.kept = s.kept := rfl

theorem vfcmpBody_kept (f : Nat) (md : MReg) (va vb : VReg) (mk : Option MReg) (wc : BitVec 2) (k : Who) (b : Bank) (s : State) :
    (vfcmpBody f md va vb mk wc k b s).state.kept = s.kept := rfl

theorem vredBody_kept (f : VRed) (vd va : VReg) (mk : Option MReg) (wc : BitVec 2) (k : Who) (b : Bank) (s : State) :
    (vredBody f vd va mk wc k b s).state.kept = s.kept := rfl

theorem vraddBody_kept (vd va : VReg) (mk : Option MReg) (wc : BitVec 2) (k : Who) (b : Bank) (s : State) :
    (vraddBody vd va mk wc k b s).state.kept = s.kept := rfl

theorem vcvtBody_kept (vd va : VReg) (dt st : BitVec 4) (sat : Bool) (mk : Option MReg) (k : Who) (b : Bank) (s : State) :
    (vcvtBody vd va dt st sat mk k b s).state.kept = s.kept := rfl

theorem vextBody_kept (gd : GReg) (va : VReg) (gb : GReg) (wc : BitVec 2) (k : Who) (b : Bank) (s : State) :
    (vextBody gd va gb wc k b s).state.kept = s.kept := rfl

theorem vinsBody_kept (vd : VReg) (gs gb : GReg) (wc : BitVec 2) (k : Who) (b : Bank) (s : State) :
    (vinsBody vd gs gb wc k b s).state.kept = s.kept := rfl

theorem vsplatBody_kept (vd : VReg) (gs : GReg) (wc : BitVec 2) (k : Who) (b : Bank) (s : State) :
    (vsplatBody vd gs wc k b s).state.kept = s.kept := rfl

theorem maskBody_kept (md : MReg) (f : Bank → MWord) (k : Who) (b : Bank) (s : State) : (maskBody md f k b s).state.kept = s.kept := rfl

theorem mcntBody_kept (gd : GReg) (ma : MReg) (k : Who) (b : Bank) (s : State) : (mcntBody gd ma k b s).state.kept = s.kept := rfl

theorem vecInstr_kept (c : Instr) (body : Body) (s : State) (h : BodyKeeps body) : (outState s (vecInstr c body s)).kept = s.kept :=
  issue_kept c _ s (vecGate_kept c body h)

/-! ### The scribes: work rings, dispatch, threads and the Kodom that they execute, posting, faults and abandoning -/

theorem setScribe_kept (s : State) (k : ScribeNum) (x : Scribe) : (setScribe s k x).kept = s.kept := rfl

theorem setRing'_kept (s : State) (w : RingNum) (x : Ring) : (setRing' s w x).kept = s.kept := rfl

theorem setThread_kept (s : State) (k : ScribeNum) (t : Fin 128) (x : Option Thread) : (setThread s k t x).kept = s.kept := rfl

theorem updPlaced_kept (s : State) (w : RingNum) (i : BitVec 16) (f : Placed → Placed) : (updPlaced s w i f).kept = s.kept := rfl

theorem writeReport_kept (s : State) (k : ScribeNum) (r : Report) : (writeReport s k r).kept = s.kept := by
  unfold writeReport
  split <;> simp only [apply_ite State.kept, ite_self, ↓pend_kept, ↓setThread_kept, ↓updPlaced_kept, ↓setScribe_kept]

theorem reportScribe_kept (s : State) (k : ScribeNum) : (reportScribe s k).kept = s.kept := by
  dsimp only [reportScribe]
  split <;> simp only [apply_ite State.kept, ite_self, ↓setScribe_kept, ↓writeReport_kept]

theorem addReport_kept (s : State) (k : ScribeNum) (r : Report) : (addReport s k r).kept = s.kept := by
  simp only [addReport, ↓setScribe_kept, ↓reportScribe_kept]

theorem stopThread_kept (s : State) (k : ScribeNum) (t : Fin 128) (x : Thread) (cause : BitVec 5) (addr phys : W64) :
    (stopThread s k t x cause addr phys).kept = s.kept := by
  simp only [stopThread, ↓setThread_kept, ↓addReport_kept]

theorem stopAll_kept (s : State) (k : ScribeNum) (cause : BitVec 5) : (stopAll s k cause).kept = s.kept := by
  refine foldl_kept _ (fun s t => ?_) _ s
  split
  · split
    · rfl
    · exact stopThread_kept ..
  · rfl

theorem scrFltWrite_kept (s : State) (k : ScribeNum) (v : W64) : (scrFltWrite s k v).kept = s.kept := by
  simp only [scrFltWrite, apply_ite State.kept, ite_self, ↓setScribe_kept, ↓reportScribe_kept]

theorem refuse_kept (s : State) (w : RingNum) (d : Vector W64 8) (cause : BitVec 5) : (refuse s w d cause).kept = s.kept := by
  simp only [refuse, ↓State.kept_mk, State.kept_pair, ↓addReport_kept, ↓setRing'_kept]

theorem fetchDescriptor_kept (s : State) (w : RingNum) : (fetchDescriptor s w).kept = s.kept := by
  simp only [fetchDescriptor, apply_ite State.kept, ite_self, ↓setRing'_kept, ↓readCheck_kept]

theorem placeDescriptor_kept (s : State) (w : RingNum) (d : Vector W64 8) (bad : Bool) : (placeDescriptor s w d bad).kept = s.kept := by
  dsimp only [placeDescriptor]
  repeat' split
  all_goals simp only [↓State.kept_mk, State.kept_pair, ↓setRing'_kept, ↓wakeRequest_kept, ↓refuse_kept]

theorem dispatch_kept (s : State) (w : RingNum) : (dispatch s w).kept = s.kept := by
  dsimp only [dispatch]
  split <;> simp only [↓State.kept_mk, State.kept_pair, ↓placeDescriptor_kept, ↓fetchDescriptor_kept]

theorem startThread_kept (s : State) (k : ScribeNum) : ((startThread s k).getD s).kept = s.kept := by
  unfold startThread
  split <;> simp only [Option.getD_some, Option.getD_none, ↓setThread_kept, ↓updPlaced_kept]

theorem scrCall_kept (target : W64) (k : Who) (b : Bank) (s : State) : (scrCall target k b s).state.kept = s.kept := by
  grind [scrCall, Res.state, StoreOut.state, !storeBytes_kept]

theorem scrCallr_kept (ra : GReg) (k : Who) (b : Bank) (s : State) : (scrCallr ra k b s).state.kept = s.kept := by
  grind [scrCallr, Res.state, !scrCall_kept]

theorem scrRet_kept (k : Who) (b : Bank) (s : State) : (scrRet k b s).state.kept = s.kept := by
  grind [scrRet, LoadOut.state, Res.state, !loadBytes_kept]

theorem scrFence_kept (k : Who) (b : Bank) (s : State) : (scrFence k b s).state.kept = s.kept := by
  unfold scrFence
  split <;> simp only [Res.state, ↓askVisible_kept]

theorem scrEnd_kept (k : Who) (b : Bank) (s : State) : (scrEnd k b s).state.kept = s.kept := by
  unfold scrEnd
  repeat' split
  all_goals simp only [Res.state, ↓setThread_kept, ↓updPlaced_kept]

theorem fillScr_kept (s : State) (k : ScribeNum) (pa : Nat) : (fillScr s k pa).kept = s.kept := by
  simp only [fillScr, ↓State.kept_mk, State.kept_pair, apply_ite State.kept, ite_self, ↓fillL2_kept]

theorem scrFetch_kept (k : ScribeNum) (t : Fin 128) (x : Thread) (va : W64) (s : State) : (scrFetch k t x va s).1.kept = s.kept := by
  grind [scrFetch, Tr.state, fillScr_kept, !accessCheck_kept, !translate_kept]

/-- A choice of a body, each of which leaves the queue and the variant as they are. -/
def ChoiceKeeps (o : Option Body) : Prop := ∀ body, o = some body → BodyKeeps body

theorem ChoiceKeeps.none : ChoiceKeeps none := nofun

theorem ChoiceKeeps.some {body : Body} (h : BodyKeeps body) : ChoiceKeeps (some body) := by
  rintro _ ⟨⟩
  exact h

theorem ChoiceKeeps.ite {p : Prop} [Decidable p] {o o' : Option Body} (h : ChoiceKeeps o) (h' : ChoiceKeeps o') :
    ChoiceKeeps (if p then o else o') := by
  split
  · exact h
  · exact h'

theorem scrMfc_kept (rd : GReg) (n : Nat) : ChoiceKeeps (scrMfc rd n) := by
  have gives (f : Bank → State → W64) : ChoiceKeeps (Option.some fun _ b s => .ok (wg b rd (f b s)) s) := .some fun _ _ _ => rfl
  exact .ite (gives _) (.ite (gives _) (.ite (gives _) (.ite (gives _) (.ite (gives _) (.ite (gives _) .none)))))

theorem scrMtc_kept (rs : GReg) (n : Nat) : ChoiceKeeps (scrMtc rs n) :=
  .ite (.some fun _ _ _ => rfl) (.ite (.some fun _ _ _ => rfl) (.ite (.some fun _ _ _ => rfl) .none))

theorem scribeBody_kept (i : Instr) : ChoiceKeeps (scribeBody i) := by
  cases i with
  | add | sub | and | or | xor | andn | shl | shr | sar | ror | mul | mulh | mulhu | min | max => exact .some fun _ _ _ => aluBody_kept ..
  | cmp => exact .some fun _ _ _ => cmpBody_kept ..
  | div | divu | rem | remu => exact .some fun _ _ _ => divBody_kept ..
  | clz | popc => exact .some fun _ _ _ => countBody_kept ..
  | imz => exact .some fun _ _ _ => imzBody_kept ..
  | imi => exact .some fun _ _ _ => imiBody_kept ..
  | load => exact .some fun _ _ _ => loadOnce_kept ..
  | store => exact .some fun _ _ _ => storeOnce_kept ..
  | lda => exact .some fun _ _ _ => ldaBody_kept ..
  | stl => exact .some fun _ _ _ => stlBody_kept ..
  | cas => exact .some fun _ _ _ => casBody_kept ..
  | aadd => exact .some fun _ _ _ => aaddBody_kept ..
  | rep => exact .ite (.some fun _ _ _ => repBody_kept ..) .none
  | repn => exact .some fun _ _ _ => repnBody_kept ..
  | vload => exact .ite (.some fun _ _ _ => vloadOnce_kept ..) .none
  | vstore => exact .ite (.some fun _ _ _ => vstoreOnce_kept ..) .none
  | b => exact .some fun _ _ _ => bBody_kept ..
  | bCond => exact .some fun _ _ _ => bCondBody_kept ..
  | br => exact .some fun _ _ _ => brBody_kept ..
  | call => exact .some fun _ _ _ => scrCall_kept ..
  | callr => exact .some fun _ _ _ => scrCallr_kept ..
  | ret => exact .some fun _ _ _ => scrRet_kept ..
  | fence => exact .ite (.some fun _ _ _ => scrFence_kept ..) .none
  | sysc => exact .some fun _ _ _ => scrEnd_kept ..
  | mfc rd n => exact scrMfc_kept rd n.toNat
  | mtc rs n => exact scrMtc_kept rs n.toNat
  | tally => exact .some fun _ _ _ => tallyBody_kept ..
  | vadd | vsub | vmul | vmin | vmax | vminu | vmaxu | vand | vor | vxor | vshl | vshr | vsar =>
    exact .ite (.some fun _ _ _ => vintBody_kept ..) .none
  | vfadd | vfsub | vfmul | vfdiv | vfmin | vfmax | vfma | vfnma | vfsqrt => exact .ite (.some fun _ _ _ => vfpBody_kept ..) .none
  | vcmpeq | vcmplt | vcmpltu => exact .ite (.some fun _ _ _ => vcmpBody_kept ..) .none
  | vfcmpeq | vfcmplt | vfcmple => exact .ite (.some fun _ _ _ => vfcmpBody_kept ..) .none
  | vrsum | vrmax | vrmin => exact .ite (.some fun _ _ _ => vredBody_kept ..) .none
  | vradd => exact .ite (.some fun _ _ _ => vraddBody_kept ..) .none
  | vcvt => exact .ite (.some fun _ _ _ => vcvtBody_kept ..) .none
  | vext => exact .ite (.some fun _ _ _ => vextBody_kept ..) .none
  | vins => exact .ite (.some fun _ _ _ => vinsBody_kept ..) .none
  | vsplat => exact .ite (.some fun _ _ _ => vsplatBody_kept ..) .none
  | mand | mor | mxor | mnot | mset => exact .ite (.some fun _ _ _ => maskBody_kept ..) .none
  | mcnt => exact .ite (.some fun _ _ _ => mcntBody_kept ..) .none
  | _ => exact .none

theorem threadRun_kept (k : ScribeNum) (t : Fin 128) (x : Thread) (w1 w2 : W32) (s : State) : (threadRun k t x w1 w2 s).state.kept = s.kept := by
  unfold threadRun
  split
  · exact stopThread_kept ..
  next i body h =>
  obtain ⟨i, _, hi⟩ := Option.bind_eq_some_iff.1 h
  obtain ⟨body, hb, ⟨⟩⟩ := Option.map_eq_some_iff.1 hi
  have hk := scribeBody_kept i body hb (.scribe k t) x.regs s
  dsimp only
  cases hr : body (.scribe k t) x.regs s with
  | ok | jump => rw [hr] at hk; exact (setThread_kept ..).trans hk
  | done | trap | wait => rw [hr] at hk; exact hk
  | exc =>
    rw [hr] at hk
    dsimp only
    split
    · exact hk
    · exact (stopThread_kept ..).trans hk

theorem threadIssue_kept (k : ScribeNum) (t : Fin 128) (x : Thread) (s : State) : (threadIssue k t x s).state.kept = s.kept := by
  grind [threadIssue, Issued.state, !threadRun_kept, stopThread_kept, !scrFetch_kept]

theorem issueNext_kept (k : ScribeNum) (l : List (Fin 128)) (s : State) : (issueNext k l s).kept = s.kept := by
  induction l generalizing s with
  | nil => rfl
  | cons t l ih => grind [issueNext, Issued.state, !threadIssue_kept, setScribe_kept]

theorem postDesc_kept (s : State) (p : Placed) : (postDesc s p).kept = s.kept := by
  simp only [postDesc, ↓State.kept_mk, State.kept_pair, apply_ite State.kept, ite_self, ↓pend_kept, ↓postEvent_kept, ↓setRing'_kept]

theorem postNext_kept (s : State) (w : RingNum) : ((postNext s w).getD s).kept = s.kept := by
  grind [postNext, StoreOut.state, addReport_kept, postDesc_kept, !storeBytes_kept, askVisible_kept]

theorem abortRing_kept (s : State) (w : RingNum) : (abortRing s w).kept = s.kept := by
  simp only [abortRing, ↓State.kept_mk, State.kept_pair, apply_ite State.kept, ite_self, ↓setRing'_kept]

theorem swctlWrite_kept (s : State) (w : RingNum) (v : W64) : (swctlWrite s w v).kept = s.kept := by
  simp only [swctlWrite, apply_ite State.kept, ite_self, ↓abortRing_kept, ↓setRing'_kept]

theorem slaunchBody_kept (w : RingNum) (gn : GReg) (k : Who) (b : Bank) (s : State) : (slaunchBody w gn k b s).state.kept = s.kept := by
  grind [slaunchBody, Res.state, setRing'_kept]

theorem execSlaunch_kept (wr : RingNum) (gn : GReg) (s : State) : (outState s (execSlaunch wr gn s)).kept = s.kept :=
  streamInstr_kept _ _ s fun _ _ _ => slaunchBody_kept ..

theorem execDescriptorDispatch_kept (w : RingNum) (s : State) : (outState s (execDescriptorDispatch w s)).kept = s.kept := by
  refine event_kept s _ ?_
  split <;> simp only [Option.getD_some, Option.getD_none, ↓dispatch_kept]

theorem execThreadStart_kept (k : ScribeNum) (s : State) : (outState s (execThreadStart k s)).kept = s.kept := by
  refine event_kept s _ ?_
  split <;> simp only [Option.getD_none, ↓startThread_kept]

theorem execThreadIssue_kept (k : ScribeNum) (s : State) : (outState s (execThreadIssue k s)).kept = s.kept := by
  refine event_kept s _ ?_
  split <;> simp only [Option.getD_some, Option.getD_none, ↓issueNext_kept]

theorem execScribeDescriptorPost_kept (w : RingNum) (s : State) : (outState s (execScribeDescriptorPost w s)).kept = s.kept := by
  refine event_kept s _ ?_
  split <;> simp only [Option.getD_none, ↓postNext_kept]

theorem execScribeFault_kept (k : ScribeNum) (thread : Fin 128) (cause : BitVec 5) (va pa : W64) (s : State) :
    (outState s (execScribeFault k thread cause va pa s)).kept = s.kept := by
  refine event_kept s _ ?_
  repeat' split
  all_goals simp only [Option.getD_some, Option.getD_none, ↓stopThread_kept]

theorem execScribeLimitExpiry_kept (k : ScribeNum) (thread : Fin 128) (s : State) :
    (outState s (execScribeLimitExpiry k thread s)).kept = s.kept := by
  refine event_kept s _ ?_
  repeat' split
  all_goals simp only [Option.getD_some, Option.getD_none, ↓stopThread_kept]

/-! ### Error records as events, the FIFO's pointers, the scrubbers, and the error manager -/

theorem scrubNext_kept (s : State) (k : Fin 5) : (scrubNext s k).kept = s.kept := rfl

theorem postCeIn_kept (s : State) (unit : Byte) (n : Nat) (loc : Nat → Nat) (ce : Ecc) : (postCeIn s unit n loc ce).kept = s.kept := by
  unfold postCeIn
  split <;> simp only [↓postCe_kept, ↓draw_kept]

theorem execVellumScrubStep_kept (ce : Ecc) (s : State) : (outState s (execVellumScrubStep ce s)).kept = s.kept := by
  refine event_kept s _ ?_
  split <;> simp only [Option.getD_some, Option.getD_none, ↓postCeIn_kept, ↓scrubNext_kept, ↓readCheck_kept]

theorem scrubSet_kept (s : State) (set : Nat) (ways : List Nat) : (scrubSet s set ways).kept = s.kept := by
  simp only [scrubSet, apply_ite State.kept, ite_self, foldl_kept, implies_true, ↓meetL2_kept]

theorem execL2ScrubStep_kept (ce : Ecc) (s : State) : (outState s (execL2ScrubStep ce s)).kept = s.kept := by
  refine event_kept s _ ?_
  split <;> simp only [apply_ite State.kept, ite_self, Option.getD_some, Option.getD_none, ↓scrubNext_kept, ↓postCeIn_kept, ↓scrubSet_kept]

theorem execScrubCreditGain_kept (s : State) : (outState s (execScrubCreditGain s)).kept = s.kept := by
  refine event_kept s _ ?_
  split <;> simp only [↓State.kept_mk, State.kept_pair, apply_ite State.kept, ite_self, Option.getD_some, Option.getD_none, ↓wakeRequest_kept]

theorem execTileInkScrubRow_kept (ink : Bool) (ce : Ecc) (s : State) : (outState s (execTileInkScrubRow ink ce s)).kept = s.kept := by
  refine event_kept s _ ?_
  repeat' split
  all_goals simp only [↓State.kept_mk, State.kept_pair, Option.getD_some, Option.getD_none, ↓tileMeet_kept, ↓postCeIn_kept, ↓scrubNext_kept,
    ↓inkMeetRow_kept]

theorem execQuillSramScrubStep_kept (ce : Ecc) (s : State) : (outState s (execQuillSramScrubStep ce s)).kept = s.kept := by
  refine event_kept s _ ?_
  split <;> simp only [apply_ite State.kept, ite_self, Option.getD_some, ↓scrubNext_kept, ↓postCe_kept, ↓postUe_kept]

theorem mapParity_kept (s : State) (loc : W64) : (mapParity s loc).kept = s.kept := by
  simp only [mapParity, apply_ite State.kept, ite_self, foldl_kept, implies_true, ↓setMapBit_kept]

theorem markBad_kept (s : State) (unit : Byte) (loc : W64) : (markBad s unit loc).kept = s.kept := by
  unfold markBad
  split <;> simp only [↓State.kept_mk, State.kept_pair, apply_ite State.kept, ite_self, ↓setQu_kept, ↓setTile_kept, ↓doubleBitL2_kept]

theorem wrongRegs_kept (s : State) : (wrongRegs s).2.kept = s.kept := rfl

theorem wrongTally_kept (s : State) (u : TallyNum) : (wrongTally s u).kept = s.kept := rfl

theorem dropEntry_kept (s : State) (cache entry : Nat) : (dropEntry s cache entry).kept = s.kept := by
  unfold dropEntry
  split <;> simp only [↓State.kept_mk, State.kept_pair]

theorem dropScr_kept (s : State) (k : ScribeNum) (pc : Nat) : (dropScr s k pc).kept = s.kept := rfl

theorem parityOutcome_kept (s : State) (unit : Byte) (loc : W64) : (parityOutcome s unit loc).kept = s.kept := by
  unfold parityOutcome
  split <;> simp only [↓State.kept_mk, State.kept_pair, apply_ite State.kept, ite_self, ↓dropScr_kept, ↓dropEntry_kept, ↓wrongTally_kept,
    ↓mapParity_kept, ↓dropL1d_kept, ↓dropL1i_kept]

theorem hwcheck_kept (s : State) (unit : Byte) (loc : W64) : (hwcheck s unit loc).kept = s.kept := by
  dsimp only [hwcheck]
  repeat' split
  all_goals simp only [↓stopThread_kept]

theorem detected_kept (s : State) (cls unit : Byte) (loc : W64) : (detected s cls unit loc).kept = s.kept := by
  unfold detected
  split <;> simp only [↓hwcheck_kept, ↓parityOutcome_kept, ↓markBad_kept]

theorem postDetection_kept (s : State) (cls unit : Byte) (sev : BitVec 2) (loc : W64) (synd : BitVec 24) (inj : Bool) (extra : BitVec 16) :
    (postDetection s cls unit sev loc synd inj extra).kept = s.kept := by
  simp only [postDetection, apply_ite State.kept, ite_self, ↓detected_kept, ↓postRecord_kept, ↓disarm_kept]

theorem errPtrWrite_kept (s : State) (v : W32) (byQuill : Bool) : (errPtrWrite s v byQuill).kept = s.kept := by
  simp only [errPtrWrite, ↓State.kept_mk, State.kept_pair, apply_ite State.kept, ite_self]

theorem errOvfWrite_kept (s : State) (v : W32) : (errOvfWrite s v).kept = s.kept := by
  simp only [errOvfWrite, ↓State.kept_mk, State.kept_pair, apply_ite State.kept, ite_self]

theorem errLinesWrite_kept (s : State) (v : W32) : (errLinesWrite s v).kept = s.kept := by
  simp only [errLinesWrite, ↓State.kept_mk, State.kept_pair, apply_ite State.kept, ite_self]

theorem execErrPtrRdWrite_kept (v : W32) (byQuill : Bool) (s : State) : (outState s (execErrPtrRdWrite v byQuill s)).kept = s.kept := by
  refine event_kept s _ ?_
  simp only [Option.getD_some, ↓errPtrWrite_kept]

theorem execErrOvfClear_kept (v : W32) (s : State) : (outState s (execErrOvfClear v s)).kept = s.kept := by
  refine event_kept s _ ?_
  simp only [Option.getD_some, ↓errOvfWrite_kept]

theorem execErrLinesFatalClear_kept (v : W32) (s : State) : (outState s (execErrLinesFatalClear v s)).kept = s.kept := by
  refine event_kept s _ ?_
  simp only [Option.getD_some, ↓errLinesWrite_kept]

theorem advise_kept (s : State) (r : BitVec 256) : (advise s r).kept = s.kept := by
  unfold advise
  split <;> simp only [apply_ite State.kept, ite_self, ↓logRecord_kept, ↓setQu_kept]

theorem countCorrected_kept (s : State) (r : BitVec 256) : (countCorrected s r).kept = s.kept := by
  simp only [countCorrected, apply_ite State.kept, ite_self, ↓setQu_kept]

theorem execErrorManagerConsume_kept (s : State) : (outState s (execErrorManagerConsume s)).kept = s.kept := by
  refine event_kept s _ ?_
  split <;> simp only [↓State.kept_mk, State.kept_pair, Option.getD_some, Option.getD_none, ↓countCorrected_kept, ↓advise_kept, ↓windowMeet_kept,
    ↓logRecord_kept]

/-! ### MFC and MTC: the control registers by number, their rings, how each reads and what a write stores, and the writes that have commands of their
own -/

theorem mirWrite_kept (s : State) (n : Nat) (v : W64) : (mirWrite s n v).kept = s.kept := by
  unfold mirWrite
  repeat' split
  all_goals simp only [↓State.kept_mk, State.kept_pair, ↓mirresvWrite_kept, ↓mirmapWrite_kept, ↓mirctlWrite_kept, ↓mirAdvance_kept, ↓mircfgWrite_kept]

theorem ipendWrite_kept (s : State) (j : Fin 4) (v : W64) : (ipendWrite s j v).kept = s.kept := rfl

theorem isetWrite_kept (s : State) (j : Fin 4) (v : W64) : (isetWrite s j v).kept = s.kept := rfl

theorem errinjWrite_kept (s : State) (v : W64) : (errinjWrite s v).kept = s.kept := by
  simp only [errinjWrite, ↓State.kept_mk, State.kept_pair, apply_ite State.kept, ite_self]

theorem chkdisWrite_kept (s : State) (v : W64) : (chkdisWrite s v).kept = s.kept := rfl

theorem tprogWrite_kept (s : State) (t : TReg) (v : W64) : (tprogWrite s t v).kept = s.kept := by
  simp only [tprogWrite, apply_ite State.kept, ite_self, ↓setTile_kept]

theorem tileownWrite_kept (s : State) (t : TReg) (v : W64) : (tileownWrite s t v).kept = s.kept := rfl

theorem swWrite_kept (s : State) (w : RingNum) (k : Nat) (v : W64) : (swWrite s w k v).kept = s.kept := by
  unfold swWrite
  split <;> simp only [apply_ite State.kept, ite_self, ↓swctlWrite_kept, ↓setRing'_kept]

theorem regPlain_kept (n : Nat) (v : W64) (s : State) : (regPlain n v s).kept = s.kept := by
  unfold regPlain
  repeat' split
  all_goals simp only [↓State.kept_mk, State.kept_pair, ↓isetWrite_kept, ↓ipendWrite_kept, ↓writeTalkbase_kept, ↓scrFltWrite_kept, ↓swWrite_kept,
    ↓writeTalsrc_kept, ↓tprogWrite_kept, ↓tileownWrite_kept, ↓mirWrite_kept, ↓requestWarm_kept, ↓errinjWrite_kept, ↓chkdisWrite_kept,
    ↓l2wayWrite_kept]

theorem regWrite_kept (n : Nat) (v : W64) (b : Bank) (s : State) : (regWrite n v b s).state.kept = s.kept := by
  unfold regWrite
  repeat' split
  all_goals simp only [Res.state, ↓regPlain_kept, ↓ruledWrite_kept, ↓putWin_kept, ↓bankwinWrite_kept]

theorem mfcBody_kept (rd : GReg) (n : BitVec 12) (k : Who) (b : Bank) (s : State) : (mfcBody rd n k b s).state.kept = s.kept := by
  unfold mfcBody
  repeat' split
  all_goals simp only [Res.state]

theorem mtcValue_kept (c : Instr) (n : Nat) (v : W64) (k : Who) (b : Bank) (s : State) : (mtcValue c n v k b s).state.kept = s.kept := by
  unfold mtcValue
  repeat' split
  all_goals simp only [Res.state, ↓regWrite_kept]

theorem mtcBody_kept (rs : GReg) (n : BitVec 12) (k : Who) (b : Bank) (s : State) : (mtcBody rs n k b s).state.kept = s.kept := by
  unfold mtcBody
  simp only [↓mtcValue_kept]

theorem mtcRow_kept (c : Instr) (n : Nat) (v : W64) (s : State) : (outState s (mtcRow c n v s)).kept = s.kept :=
  issue_kept c _ s fun _ _ _ => mtcValue_kept ..

/-! ### The power domains: idle sleep and wake, the handshakes, the power-up initialisation, what a domain that goes off discards, and POWER_SET as
it runs -/

theorem dropTlb_kept (s : State) (d : Fin 32) : (dropTlb s d).kept = s.kept := by
  simp only [dropTlb, ↓State.kept_mk, State.kept_pair, apply_ite State.kept, ite_self]

theorem execIdleThresholdExpiry_kept (d : Fin 32) (s : State) : (outState s (execIdleThresholdExpiry d s)).kept = s.kept := by
  refine event_kept s _ ?_
  dsimp only
  repeat' split
  all_goals simp only [Option.getD_some, Option.getD_none, ↓setDom_kept, ↓dropTlb_kept]

theorem execDomainWakeRequest_kept (d : Fin 32) (s : State) : (outState s (execDomainWakeRequest d s)).kept = s.kept := by
  refine event_kept s _ ?_
  simp only [Option.getD_some, ↓wakeRequest_kept]

theorem syncPlanes_kept (s : State) : (syncPlanes s).kept = s.kept := by
  simp only [syncPlanes, ↓State.kept_mk, State.kept_pair, apply_ite State.kept, ite_self]

theorem discardOps_kept (s : State) (p : Op → Bool) : (discardOps s p).kept = s.kept := by
  simp only [discardOps, ↓State.kept_mk, State.kept_pair, ↓syncPlanes_kept]

theorem discardDrains_kept (s : State) : (discardDrains s).kept = s.kept :=
  (foldl_kept _ (fun s (o : Op) => settleTile_kept s o.t .ready) _ _).trans (discardOps_kept s _)

theorem abandonOp_kept (s : State) (o : Op) : (abandonOp s o).kept = s.kept := by
  simp only [abandonOp, ↓State.kept_mk, State.kept_pair, apply_ite State.kept, ite_self, ↓postQueue_kept, ↓updOp_kept]

theorem discardMemDrains_kept (s : State) : (discardMemDrains s).kept = s.kept := by
  simp only [discardMemDrains, foldl_kept, implies_true, ↓abandonOp_kept]

theorem applyPlaced_kept (s : State) : (applyPlaced s).kept = s.kept :=
  foldl_kept _ (fun s (o : Op) => (applyRemap_kept (dropOp s o.id) o.remap).trans (dropOp_kept s o.id)) _ s

theorem discardTransfers_kept (s : State) : (discardTransfers s).kept = s.kept := by
  simp only [discardTransfers, apply_ite State.kept, ite_self, foldl_kept, implies_true, ↓offStop_kept, ↓dropOp_kept]

theorem offEffects_kept (s : State) (d : Fin 32) : (offEffects s d).kept = s.kept := by
  unfold offEffects
  split
  · exact (abortFetch_kept ..).trans (abandonCommit_kept ..)
  · exact (discardOps_kept ..).trans (foldl_kept _ abandonOp_kept _ s)
  · exact (applyPlaced_kept _).trans ((discardMemDrains_kept _).trans ((discardOps_kept ..).trans (discardDrains_kept s)))
  · exact (dropTlb_kept ..).trans ((discardOps_kept ..).trans (discardTransfers_kept s))
  · rfl
  · rfl
  · split
    · simp only [↓dropTlb_kept, ↓State.kept_mk, State.kept_pair, ↓stopAll_kept]
    · rfl

theorem shutDomain_kept (s : State) (d : Fin 32) (dst : DomSt) : (shutDomain s d dst).kept = s.kept := by
  simp only [shutDomain, ↓State.kept_mk, State.kept_pair, apply_ite State.kept, ite_self, ↓setDom_kept, ↓offEffects_kept]

theorem emptyBoard_kept (s : State) : (emptyBoard s).kept = s.kept := rfl

theorem freshTiles_kept (s : State) : (freshTiles s).kept = s.kept := rfl

theorem dropSpots_kept (s : State) (units : List Byte) : (dropSpots s units).kept = s.kept := rfl

theorem domInit_kept (s : State) (d : Fin 32) : (domInit s d).kept = s.kept := by
  unfold domInit
  split <;> simp only [↓State.kept_mk, State.kept_pair, apply_ite State.kept, ite_self, ↓setScribe_kept, ↓spent_kept, ↓dropTlb_kept,
    ↓emptyBoard_kept, ↓freshTiles_kept, ↓dropSpots_kept]

theorem followUp_kept (s : State) (d : Fin 32) : (followUp s d).kept = s.kept := by
  dsimp only [followUp]
  split <;> simp only [apply_ite State.kept, ite_self, ↓setDom_kept, ↓shutDomain_kept]

theorem retainBoard_kept (s : State) (p : PowerSet) : (retainBoard s p).kept = s.kept := by
  simp only [retainBoard, apply_ite State.kept, ite_self, ↓shutDomain_kept]

theorem turnOn_kept (s : State) (d : Fin 32) : (turnOn s d).kept = s.kept := by
  simp only [turnOn, ↓State.kept_mk, State.kept_pair, apply_ite State.kept, ite_self, ↓setDom_kept]

theorem shutLast_kept (s : State) (d : Fin 32) (dst : DomSt) : (shutLast s d dst).kept = s.kept := by
  simp only [shutLast, apply_ite State.kept, ite_self, ↓shutDomain_kept, ↓setDom_kept]

theorem turnOff_kept (s : State) (d : Fin 32) : (turnOff s d).kept = s.kept := by
  simp only [turnOff, ↓State.kept_mk, State.kept_pair, apply_ite State.kept, ite_self, ↓shutLast_kept]

theorem turnRetain_kept (s : State) (d : Fin 32) : (turnRetain s d).kept = s.kept := by
  simp only [turnRetain, ↓State.kept_mk, State.kept_pair, apply_ite State.kept, ite_self, ↓shutLast_kept, ↓setDom_kept]

theorem applyPower_kept (s : State) (mask : W32) (target : Byte) : (applyPower s mask target).kept = s.kept := by
  have turns (f : State → Fin 32 → State) (hf : ∀ s d, (f s d).kept = s.kept) (s : State) :
      (driveGroups ((maskDoms mask).foldl f s)).kept = s.kept :=
    (driveGroups_kept _).trans (foldl_kept f hf _ s)
  simp only [applyPower]
  split <;> simp only [turns _ turnOff_kept, turns _ turnRetain_kept, turns _ turnOn_kept, ↓State.kept_mk, State.kept_pair]

theorem powerDone_kept (s : State) : (powerDone s).kept = s.kept := by
  unfold powerDone
  split <;> simp only [↓State.kept_mk, State.kept_pair, apply_ite State.kept, ite_self, ↓complete_kept, ↓qevent_kept, ↓applyPower_kept]

theorem clockVellum_kept (s : State) : (clockVellum s).kept = s.kept := by
  simp only [clockVellum, ↓State.kept_mk, State.kept_pair, apply_ite State.kept, ite_self, ↓setDom_kept]

theorem powerPoll_kept (s : State) : (powerPoll s).kept = s.kept := by
  have polls : (clockVellum ((List.finRange 32).foldl followUp s)).kept = s.kept :=
    (clockVellum_kept _).trans (foldl_kept _ followUp_kept _ s)
  dsimp only [powerPoll]
  split <;> simp only [↓powerDone_kept, ↓retainBoard_kept, polls]

theorem execFclkAckChange_kept (d : Fin 32) (v : Bool) (s : State) : (outState s (execFclkAckChange d v s)).kept = s.kept := by
  refine pinEvent_kept s _ _ ?_ ?_
  all_goals grind [powerPoll_kept, setDom_kept]

theorem execPwrAckChange_kept (d : Fin 32) (v : BitVec 2) (s : State) : (outState s (execPwrAckChange d v s)).kept = s.kept := by
  refine pinEvent_kept s _ _ ?_ ?_
  all_goals grind [powerPoll_kept, setDom_kept]

theorem execDomainWakeComplete_kept (d : Fin 32) (s : State) : (outState s (execDomainWakeComplete d s)).kept = s.kept := by
  refine event_kept s _ ?_
  dsimp only
  repeat' split
  all_goals simp only [↓State.kept_mk, State.kept_pair, Option.getD_some, Option.getD_none, ↓grantPartner_kept, ↓setDom_kept, ↓powerPoll_kept,
    ↓domInit_kept]

theorem execVellumZeroingComplete_kept (s : State) : (outState s (execVellumZeroingComplete s)).kept = s.kept := by
  refine event_kept s _ ?_
  split <;> simp only [↓State.kept_mk, State.kept_pair, Option.getD_some, Option.getD_none, ↓powerPoll_kept]

theorem execInkwellZeroingComplete_kept (s : State) : (outState s (execInkwellZeroingComplete s)).kept = s.kept := by
  refine event_kept s _ ?_
  split <;> simp only [↓State.kept_mk, State.kept_pair, Option.getD_some, Option.getD_none, ↓powerPoll_kept]

theorem execL2GroupOffComplete_kept (g : Fin 4) (s : State) : (outState s (execL2GroupOffComplete g s)).kept = s.kept := by
  refine event_kept s _ ?_
  split <;> simp only [↓State.kept_mk, State.kept_pair, Option.getD_some, Option.getD_none, ↓setBusy_kept, ↓driveGroups_kept, ↓powerPoll_kept]

theorem execL2GroupOnComplete_kept (g : Fin 4) (s : State) : (outState s (execL2GroupOnComplete g s)).kept = s.kept := by
  refine event_kept s _ ?_
  dsimp only
  repeat' split
  all_goals simp only [↓State.kept_mk, State.kept_pair, Option.getD_some, Option.getD_none, ↓setBusy_kept, ↓driveGroups_kept, ↓powerPoll_kept,
    ↓setDom_kept]

theorem execBoardRetainTimeout_kept (s : State) : (outState s (execBoardRetainTimeout s)).kept = s.kept := by
  refine event_kept s _ ?_
  repeat' split
  all_goals simp only [↓State.kept_mk, State.kept_pair, Option.getD_some, Option.getD_none, ↓complete_kept]

/-! ### Firmware loading and update: manifests, staging, verification, the commit write and the banks of the class B stores -/

theorem setUpd_kept (s : State) (u : Upd) : (setUpd s u).kept = s.kept := rfl

theorem windowRead_kept (s : State) (o n : Nat) : (windowRead s o n).1.kept = s.kept := by
  grind [windowRead, !readCheck_kept]

theorem CmdOut.ite_kept {p : Prop} [Decidable p] {r r' : CmdOut} {x : List Instr × Variant} (h : r.state.kept = x) (h' : r'.state.kept = x) :
    (if p then r else r').state.kept = x :=
  iteInduction (motive := fun r : CmdOut => r.state.kept = x) (fun _ => h) fun _ => h'

theorem updBeginCmd_kept (n : Nat) (r : Req) (s : State) : (updBeginCmd n r s).state.kept = s.kept := by
  have hw := (windowRead_kept (setUpd s { s.upd with base := BitVec.ofNat 64 (bnat r.body 0 8) }) (bnat r.body 16 4) (bnat r.body 20 4)).trans
    (setUpd_kept ..)
  dsimp only [updBeginCmd]
  refine CmdOut.ite_kept (refuseCmd_kept ..) (CmdOut.ite_kept (refuseCmd_kept ..) (CmdOut.ite_kept (refuseCmd_kept ..) ?_))
  generalize windowRead (setUpd s { s.upd with base := BitVec.ofNat 64 (bnat r.body 0 8) }) (bnat r.body 16 4) (bnat r.body 20 4) = p at hw ⊢
  obtain ⟨s2, _ | m⟩ := p
  · exact (refuseCmd_kept ..).trans ((setUpd_kept ..).trans hw)
  have refused (st d : Byte) : (refuseCmd st d (setUpd s2 s.upd)).state.kept = s.kept := (refuseCmd_kept ..).trans ((setUpd_kept ..).trans hw)
  dsimp only
  cases hdrFields (setUpd s2 s.upd).var m with
  | some d => exact refused ..
  | none =>
    refine CmdOut.ite_kept (refused ..) (CmdOut.ite_kept (refused ..) (CmdOut.ite_kept (refused ..) (CmdOut.ite_kept (refused ..) ?_)))
    refine CmdOut.ite_kept (refused ..) (CmdOut.ite_kept (refused ..) (CmdOut.ite_kept (refused ..) ?_))
    exact (setUpd_kept ..).trans ((setUpd_kept ..).trans hw)

theorem setPart_kept (s : State) (k : Nat) (p : Part) : (setPart s k p).kept = s.kept := rfl

theorem settleSession_kept (s : State) : (settleSession s).kept = s.kept := by
  simp only [settleSession, apply_ite State.kept, ite_self, ↓setUpd_kept]

theorem verifyPart_kept (s : State) (k : Nat) (p : Part) : (verifyPart s k p).2.2.kept = s.kept := by
  simp only [verifyPart, apply_ite Prod.snd, ↓setPart_kept, ↓settleSession_kept, apply_ite State.kept, ite_self]

theorem copyChunk_kept (s : State) (k c : Nat) (p : Part) : (copyChunk s k c p).2.2.kept = s.kept := by
  grind [copyChunk, !verifyPart_kept, setPart_kept, !windowRead_kept]

theorem copyChunks_kept (k : Nat) (l : List Nat) (s : State) : (copyChunks k l s).2.2.kept = s.kept := by
  induction l generalizing s with
  | nil => rfl
  | cons c cs ih => grind [copyChunks, !copyChunk_kept]

theorem updChunkCmd_kept (n : Nat) (r : Req) (s : State) : (updChunkCmd n r s).state.kept = s.kept := by
  grind [updChunkCmd, CmdOut.state, !copyChunk_kept, setUpd_kept, !refuseCmd_kept]

theorem endChunkAll_kept (s : State) (k id : Nat) (st det : Byte) : (endChunkAll s k id st det).kept = s.kept := by
  simp only [endChunkAll, ↓setUpd_kept, ↓complete_kept]

theorem execUpdChunkAllComplete_kept (s : State) : (outState s (execUpdChunkAllComplete s)).kept = s.kept := by
  refine event_kept s _ ?_
  dsimp only
  repeat' split
  all_goals simp only [Option.getD_some, Option.getD_none, ↓endChunkAll_kept, ↓copyChunks_kept]

theorem dmaFail_kept (s : State) (pa : Nat) : (dmaFail s pa).kept = s.kept := by
  dsimp only [dmaFail]
  repeat' split
  all_goals simp only [↓endChunkAll_kept, ↓copyChunks_kept, ↓setQu_kept, ↓answer_kept]

theorem updStatusCmd_kept (n : Nat) (r : Req) (s : State) : (updStatusCmd n r s).state.kept = s.kept := by
  grind [updStatusCmd, CmdOut.state, !refuseCmd_kept]

theorem commitStores_kept (s : State) : (commitStores s).kept = s.kept := rfl

theorem commitWrite_kept (s : State) (ply : W64) : (commitWrite s ply).kept = s.kept := by
  simp only [commitWrite, apply_ite State.kept, ite_self, ↓qevent_kept, ↓setUpd_kept, ↓commitStores_kept]

theorem commitNow_kept (s : State) : (commitNow s).kept = s.kept := rfl

theorem activateAt_kept (s : State) (n : W64) : (activateAt s n).kept = s.kept := by
  simp only [activateAt, apply_ite State.kept, ite_self, ↓setUpd_kept]

theorem execUpdateBanksReleased_kept (s : State) : (outState s (execUpdateBanksReleased s)).kept = s.kept := by
  refine event_kept s _ ?_
  dsimp only
  repeat' split
  all_goals simp only [Option.getD_some, Option.getD_none, ↓setUpd_kept]

theorem updAbortCmd_kept (n : Nat) (r : Req) (s : State) : (updAbortCmd n r s).state.kept = s.kept := by
  have ends (l : List (Nat × Nat)) (s : State) : (l.foldl (fun s p => endChunkAll s p.1 p.2 stNotready 0x49) s).kept = s.kept :=
    foldl_kept _ (fun s p => endChunkAll_kept s p.1 p.2 stNotready 0x49) l s
  dsimp only [updAbortCmd]
  repeat' split
  all_goals simp only [CmdOut.state, ends, ↓setUpd_kept, ↓refuseCmd_kept]

/-! ### The quill: the mailboxes, the commands of its table, its components, its watchdog, and its restarts with the replay of the blotter -/

theorem helloCmd_kept (n : Nat) (r : Req) (s : State) : (helloCmd n r s).state.kept = s.kept := by
  grind [helloCmd, CmdOut.state, setQu_kept]

theorem configSetCmd_kept (n : Nat) (r : Req) (s : State) : (configSetCmd n r s).state.kept = s.kept := by
  grind [configSetCmd, CmdOut.state, setQu_kept, !refuseCmd_kept]

theorem configGetCmd_kept (n : Nat) (r : Req) (s : State) : (configGetCmd n r s).state.kept = s.kept := by
  unfold configGetCmd
  split <;> simp only [CmdOut.state, ↓refuseCmd_kept]

theorem powerSetCmd_kept (n : Nat) (r : Req) (s : State) : (powerSetCmd n r s).state.kept = s.kept := by
  grind [powerSetCmd, State.kept_mk, State.kept_pair, CmdOut.state, applyPower_kept, !refuseCmd_kept]

theorem powerGetCmd_kept (n : Nat) (r : Req) (s : State) : (powerGetCmd n r s).state.kept = s.kept := rfl

theorem throttleSetCmd_kept (n : Nat) (r : Req) (s : State) : (throttleSetCmd n r s).state.kept = s.kept := by
  simp only [throttleSetCmd, ↓State.kept_mk, State.kept_pair, CmdOut.state, ↓qevent_kept]

theorem errlogReadCmd_kept (n : Nat) (r : Req) (s : State) : (errlogReadCmd n r s).state.kept = s.kept := by
  grind [errlogReadCmd, CmdOut.state, !draw_kept, !refuseCmd_kept]

theorem errlogClearCmd_kept (n : Nat) (r : Req) (s : State) : (errlogClearCmd n r s).state.kept = s.kept := rfl

theorem scrubCmd_kept (n : Nat) (r : Req) (s : State) : (scrubCmd n r s).state.kept = s.kept := by
  grind [scrubCmd, State.kept_mk, State.kept_pair, CmdOut.state, !refuseCmd_kept]

theorem clearAdvice_kept (s : State) (f : Nat) : (clearAdvice s f).kept = s.kept := rfl

theorem fileSpareCmd_kept (n : Nat) (r : Req) (s : State) : (fileSpareCmd n r s).state.kept = s.kept := by
  grind [fileSpareCmd, State.kept_mk, State.kept_pair, CmdOut.state, qevent_kept, !draw_kept, clearAdvice_kept, !refuseCmd_kept]

theorem journalReadCmd_kept (n : Nat) (r : Req) (s : State) : (journalReadCmd n r s).state.kept = s.kept := by
  unfold journalReadCmd
  dsimp only
  split
  · exact refuseCmd_kept ..
  · exact foldl_kept _ (fun s j => keeperRead_kept s _) _ s

theorem throughBridge_kept (f : Cmd) (h : CmdKeeps f) : CmdKeeps (throughBridge f) := by
  intro id r s
  unfold throughBridge
  split
  · exact refuseCmd_kept ..
  · exact (h id r _).trans (wakeRequest_kept s dVellum)
  · exact h id r s

theorem tallyCfgCmd_kept (n : Nat) (r : Req) (s : State) : (tallyCfgCmd n r s).state.kept = s.kept := by
  refine throughBridge_kept _ (fun id r s => ?_) ..
  dsimp only
  split
  · simp only [CmdOut.state, apply_ite State.kept, ite_self, ↓setTally_kept, ↓writeTalsrc_kept, ↓writeTalkbase_kept]
  · exact refuseCmd_kept ..

theorem tallyReadCmd_kept (n : Nat) (r : Req) (s : State) : (tallyReadCmd n r s).state.kept = s.kept := by
  refine throughBridge_kept _ (fun id r s => ?_) ..
  dsimp only
  repeat' split
  all_goals simp only [CmdOut.state, ↓refuseCmd_kept]

theorem withPartner_kept (f : Cmd) (h : CmdKeeps f) : CmdKeeps (withPartner f) := by
  intro id r s
  unfold withPartner
  split
  · exact throughBridge_kept f h id r s
  · exact refuseCmd_kept ..

theorem mirrorCfgCmd_kept (n : Nat) (r : Req) (s : State) : (mirrorCfgCmd n r s).state.kept = s.kept := by
  refine withPartner_kept _ (fun id r s => ?_) ..
  have cfgs (v : Fin 16 → W64) (l : List (Fin 16)) (s : State) : (l.foldl (fun s k => mircfgWrite s k (v k)) s).kept = s.kept :=
    foldl_kept _ (fun s k => mircfgWrite_kept s k (v k)) l s
  dsimp only
  split
  · exact refuseCmd_kept ..
  · simp only [CmdOut.state, apply_ite State.kept, ite_self, ↓setMir_kept, ↓mirAdvance_kept, ↓mirctlWrite_kept, ↓mirresvWrite_kept,
      ↓mirmapWrite_kept, cfgs]

theorem beginFetch_kept (s : State) (verify : Bool) (rmask : BitVec 16) (want : BitVec 2) (setPly : Bool) (id : Nat) :
    (beginFetch s verify rmask want setPly id).kept = s.kept := by
  simp only [beginFetch, ↓setMir_kept, ↓mirAdvance_kept]

theorem primaryResults_kept (s : State) : (primaryResults s).1.kept = s.kept := rfl

theorem mirrorFetchCmd_kept (n : Nat) (r : Req) (s : State) : (mirrorFetchCmd n r s).state.kept = s.kept := by
  refine withPartner_kept _ (fun id r s => ?_) ..
  dsimp only
  repeat' split
  all_goals simp only [CmdOut.state, ↓refuseCmd_kept, ↓qevent_kept, ↓primaryResults_kept, ↓setBothBits_kept, ↓beginFetch_kept]

theorem mirrorVerifyCmd_kept (n : Nat) (r : Req) (s : State) : (mirrorVerifyCmd n r s).state.kept = s.kept := by
  refine withPartner_kept _ (fun id r s => ?_) ..
  dsimp only
  repeat' split
  all_goals simp only [CmdOut.state, ↓refuseCmd_kept, ↓beginFetch_kept]

theorem mirrorStatusCmd_kept (n : Nat) (r : Req) (s : State) : (mirrorStatusCmd n r s).state.kept = s.kept := by
  unfold mirrorStatusCmd
  split
  · exact throughBridge_kept _ (fun _ _ _ => rfl) ..
  · rfl

theorem stopDirecting_kept (s : State) : (stopDirecting s).kept = s.kept := rfl

theorem beginRestart_kept (s : State) : (beginRestart s).kept = s.kept := rfl

theorem failStart_kept (s0 : State) : (failStart s0).kept = s0.kept := by
  simp only [failStart, apply_ite State.kept, ite_self, ↓qevent_kept, ↓setQu_kept, ↓stopDirecting_kept]

theorem restartQuill_kept (counted : Bool) (s : State) : (restartQuill counted s).kept = s.kept := by
  simp only [restartQuill, apply_ite State.kept, ite_self, ↓failStart_kept, ↓setQu_kept, ↓beginRestart_kept]

theorem unitResetCmd_kept (n : Nat) (r : Req) (s : State) : (unitResetCmd n r s).state.kept = s.kept := by
  grind [unitResetCmd, State.kept_mk, State.kept_pair, CmdOut.state, applyPower_kept, !refuseCmd_kept, requestWarm_kept]

theorem unitResetQuill_kept (s : State) (r : Req) : (unitResetQuill s r).kept = s.kept := acceptCmd_kept s s _ r false rfl

theorem unitRestart_kept (s : State) (a : Active) : (unitRestart s a).kept = s.kept := by
  simp only [unitRestart, apply_ite State.kept, ite_self, ↓restartQuill_kept, ↓putQ2h_kept, ↓endEntry_kept, ↓setQu_kept]

theorem updActivateCmd_kept (n : Nat) (r : Req) (s : State) : (updActivateCmd n r s).state.kept = s.kept := by
  unfold updActivateCmd
  repeat' split
  all_goals simp only [CmdOut.state, ↓commitWrite_kept, ↓setUpd_kept, ↓commitNow_kept, ↓refuseCmd_kept]

theorem switchTo_kept (s : State) (c : Component) : (switchTo s c).kept = s.kept := by
  simp only [switchTo, apply_ite State.kept, ite_self, ↓setQu_kept]

theorem serveBox_kept (s0 : State) (k : BoxNum) : (serveBox s0 k).kept = s0.kept := by
  have hs : (boxSample (switchTo s0 .mailboxServer) k (s0.win.tick - s0.qu.hqTick[k])).kept = s0.kept := (boxSample_kept ..).trans (switchTo_kept ..)
  unfold serveBox
  extract_lets s
  generalize requestOf s k = p
  obtain ⟨r, m⟩ := p
  dsimp only
  split
  · exact (respondV_kept ..).trans ((setQu_kept ..).trans hs)
  split
  · exact (setQu_kept ..).trans hs
  next i _ =>
  have hj := (journal_kept (setQu s { s.qu with hq := setBit s.qu.hq k.val false, lastBox := k }) r).trans ((setQu_kept ..).trans hs)
  cases i.journaled with
  | true =>
    split
    · exact (answer_kept ..).trans hj
    · exact (setQu_kept ..).trans hj
  | false =>
    split
    · exact (answer_kept ..).trans ((setQu_kept ..).trans hs)
    · exact (setQu_kept ..).trans ((setQu_kept ..).trans hs)

theorem execMailboxServe_kept (s : State) : (outState s (execMailboxServe s)).kept = s.kept := by
  refine event_kept s _ ?_
  split
  · rfl
  · exact map_kept _ _ (serveBox_kept s)

theorem execMailboxNotreadyReply_kept (k : BoxNum) (s : State) : (outState s (execMailboxNotreadyReply k s)).kept = s.kept := by
  refine event_kept s _ ?_
  split <;> simp only [Option.getD_some, Option.getD_none, ↓putQ2h_kept, ↓setQu_kept]

theorem cmdRow_kept (mine : Req → Bool) (f : Cmd) (after : State → State) (s : State) (h : CmdKeeps f)
    (ha : ∀ s, (after s).kept = s.kept) : (outState s (cmdRow mine f after s)).kept = s.kept := by
  refine event_kept s _ ?_
  split
  · split
    · simp only [Option.getD_some, ha, runCmd_kept f h, ↓switchTo_kept, ↓setQu_kept]
    · rfl
  · rfl

theorem opRow_kept (op : BitVec 16) (f : Cmd) (s : State) (h : CmdKeeps f) : (outState s (opRow op f s)).kept = s.kept :=
  cmdRow_kept _ f id s h fun _ => rfl

theorem selRow_kept (op : BitVec 16) (o : Nat) (p : Nat → Bool) (f : Cmd) (after : State → State) (s : State) (h : CmdKeeps f)
    (ha : ∀ s, (after s).kept = s.kept) : (outState s (selRow op o p f after s)).kept = s.kept :=
  cmdRow_kept _ f after s h ha

theorem execPowerSetOn_kept (s : State) : (outState s (execPowerSetOn s)).kept = s.kept :=
  selRow_kept _ _ _ _ _ s powerSetCmd_kept powerPoll_kept

theorem execPowerSetOff_kept (s : State) : (outState s (execPowerSetOff s)).kept = s.kept :=
  selRow_kept _ _ _ _ _ s powerSetCmd_kept powerPoll_kept

theorem execPowerSetRetain_kept (s : State) : (outState s (execPowerSetRetain s)).kept = s.kept :=
  selRow_kept _ _ _ _ _ s powerSetCmd_kept powerPoll_kept

theorem execScrubSetInterval_kept (s : State) : (outState s (execScrubSetInterval s)).kept = s.kept :=
  selRow_kept _ _ _ _ _ s scrubCmd_kept (fun _ => rfl)

theorem execScrubResetInterval_kept (s : State) : (outState s (execScrubResetInterval s)).kept = s.kept :=
  selRow_kept _ _ _ _ _ s scrubCmd_kept (fun _ => rfl)

theorem execScrubPass_kept (s : State) : (outState s (execScrubPass s)).kept = s.kept :=
  selRow_kept _ _ _ _ _ s scrubCmd_kept (fun _ => rfl)

theorem execTallyRead_kept (s : State) : (outState s (execTallyRead s)).kept = s.kept :=
  cmdRow_kept _ _ _ s tallyReadCmd_kept (fun _ => rfl)

theorem execMirrorFetchMirror_kept (s : State) : (outState s (execMirrorFetchMirror s)).kept = s.kept :=
  selRow_kept _ _ _ _ _ s mirrorFetchCmd_kept (fun _ => rfl)

theorem execMirrorFetchPrimary_kept (s : State) : (outState s (execMirrorFetchPrimary s)).kept = s.kept :=
  selRow_kept _ _ _ _ _ s mirrorFetchCmd_kept (fun _ => rfl)

theorem execUpdChunk_kept (s : State) : (outState s (execUpdChunk s)).kept = s.kept :=
  cmdRow_kept _ _ _ s updChunkCmd_kept (fun _ => rfl)

theorem execUpdChunkAll_kept (s : State) : (outState s (execUpdChunkAll s)).kept = s.kept :=
  cmdRow_kept _ _ _ s updChunkCmd_kept (fun _ => rfl)

theorem execUpdActivate_kept (s : State) : (outState s (execUpdActivate s)).kept = s.kept := by
  refine event_kept s _ ?_
  split
  · split
    · rfl
    · have hr (r : Req) := (runCmd_kept updActivateCmd updActivateCmd_kept r false (setQu s { s.qu with cur := none })).trans (setQu_kept ..)
      dsimp only [Option.getD_some]
      split
      · exact (setQu_kept ..).trans ((beginRestart_kept ..).trans (hr _))
      · exact hr _
  · rfl

theorem execUnitResetWarm_kept (s : State) : (outState s (execUnitResetWarm s)).kept = s.kept :=
  selRow_kept _ _ _ _ _ s unitResetCmd_kept (fun _ => rfl)

theorem execUnitResetDomain_kept (s : State) : (outState s (execUnitResetDomain s)).kept = s.kept :=
  selRow_kept _ _ _ _ _ s unitResetCmd_kept powerPoll_kept

theorem execUnitResetQuill_kept (s : State) : (outState s (execUnitResetQuill s)).kept = s.kept := by
  refine event_kept s _ ?_
  repeat' split
  all_goals simp only [Option.getD_some, Option.getD_none, ↓unitRestart_kept, ↓setQu_kept, ↓unitResetQuill_kept]

theorem execScrubPassComplete_kept (store : Fin 5) (s : State) : (outState s (execScrubPassComplete store s)).kept = s.kept := by
  refine event_kept s _ ?_
  split <;> simp only [↓State.kept_mk, State.kept_pair, Option.getD_some, Option.getD_none, ↓complete_kept]

theorem handoverCommit_kept (s : State) (id : Nat) (ply : W64) : (handoverCommit s id ply).kept = s.kept := by
  unfold handoverCommit
  refine (complete_kept ..).trans ((qevent_kept ..).trans ((foldl_kept _ (fun s a => ?_) _ _).trans ((setQu_kept ..).trans (commitWrite_kept s ply))))
  split
  · exact setEntry_kept ..
  · rfl

theorem execHandoverCommit_kept (s : State) : (outState s (execHandoverCommit s)).kept = s.kept := by
  refine event_kept s _ ?_
  repeat' split
  all_goals simp only [Option.getD_some, Option.getD_none, ↓handoverCommit_kept]

theorem execHandoverTimeout_kept (s : State) : (outState s (execHandoverTimeout s)).kept = s.kept := by
  refine event_kept s _ ?_
  split <;> simp only [Option.getD_some, Option.getD_none, ↓restartQuill_kept]

theorem dropComponent_kept (s : State) (c : Component) : (dropComponent s c).kept = s.kept := by
  unfold dropComponent
  split <;> simp only [↓State.kept_mk, State.kept_pair, ↓setUpd_kept]

theorem dropBad_kept (s : State) (use : Nat) : (dropBad s use).kept = s.kept := rfl

theorem checkLog_kept (s : State) : (checkLog s).kept = s.kept := by
  simp only [checkLog, apply_ite State.kept, ite_self, ↓setQu_kept]

theorem resetComponent_kept (s : State) (c : Component) : (resetComponent s c).kept = s.kept := rfl

theorem startComponent_kept (s : State) (c : Component) : (startComponent s c).kept = s.kept := by
  simp only [startComponent, apply_ite State.kept, ite_self, ↓dropBad_kept, ↓switchTo_kept, ↓resetComponent_kept, ↓checkLog_kept]

theorem componentRestart_kept (s : State) (c : Component) : (componentRestart s c).kept = s.kept := by
  have ends (l : List Active) (s : State) : (l.foldl (fun s a => complete s a.id stAborted 0x20 []) s).kept = s.kept :=
    foldl_kept _ (fun s (a : Active) => complete_kept s a.id stAborted 0x20 []) l s
  dsimp only [componentRestart]
  repeat' split
  all_goals simp only [ends, ↓restartQuill_kept, ↓startComponent_kept, ↓logRecord_kept, ↓setQu_kept, ↓answer_kept, ↓dropComponent_kept]

theorem execComponentRestart_kept (c : Component) (s : State) : (outState s (execComponentRestart c s)).kept = s.kept := by
  refine event_kept s _ ?_
  split <;> simp only [apply_ite State.kept, ite_self, Option.getD_some, Option.getD_none, ↓componentRestart_kept, ↓restartQuill_kept]

theorem failStaged_kept (s : State) (k : Nat) : (failStaged s k).kept = s.kept := by
  unfold failStaged
  split <;> simp only [apply_ite State.kept, ite_self, ↓setUpd_kept]

theorem dropLog_kept (s : State) (slot : Nat) : (dropLog s slot).kept = s.kept := by
  simp only [dropLog, ↓setQu_kept, ↓logRecord_kept]

theorem sramHandle_kept (s : State) (w : Nat) : (sramHandle s w).kept = s.kept := by
  unfold sramHandle
  repeat' split
  all_goals simp only [↓failStaged_kept, ↓dropLog_kept, ↓componentRestart_kept, ↓restartQuill_kept, ↓setQu_kept]

theorem execErrorRecordPost_kept (cls unit : Byte) (sev : BitVec 2) (loc : W64) (synd : BitVec 24) (inj : Bool) (extra : BitVec 16) (s : State) :
    (outState s (execErrorRecordPost cls unit sev loc synd inj extra s)).kept = s.kept := by
  refine event_kept s _ ?_
  dsimp only
  repeat' split
  all_goals simp only [Option.getD_some, Option.getD_none, ↓sramHandle_kept, ↓postDetection_kept]

theorem execQuillWatchdogKick_kept (s : State) : (outState s (execQuillWatchdogKick s)).kept = s.kept := by
  refine event_kept s _ ?_
  rfl

theorem execQuillWatchdogExpiry_kept (s : State) : (outState s (execQuillWatchdogExpiry s)).kept = s.kept := by
  refine event_kept s _ ?_
  split <;> simp only [Option.getD_some, Option.getD_none, ↓postRecord_kept, ↓restartQuill_kept]

theorem execQuillRestart_kept (c : QRestart) (s : State) : (outState s (execQuillRestart c s)).kept = s.kept := by
  refine event_kept s _ ?_
  split <;> simp only [apply_ite State.kept, ite_self, Option.getD_some, Option.getD_none, ↓restartQuill_kept, ↓postRecord_kept]

theorem endSpares_kept (s : State) : (endSpares s).kept = s.kept := by
  simp only [endSpares, foldl_kept, implies_true, ↓complete_kept]

theorem cmdOf_kept {op : BitVec 16} {f : Cmd} (h : cmdOf op = some f) : CmdKeeps f := by
  unfold cmdOf at h
  split at h <;> cases h
  exacts [helloCmd_kept, configSetCmd_kept, configGetCmd_kept, powerSetCmd_kept, powerGetCmd_kept, throttleSetCmd_kept, errlogReadCmd_kept,
    errlogClearCmd_kept, scrubCmd_kept, fileSpareCmd_kept, journalReadCmd_kept, tallyCfgCmd_kept, tallyReadCmd_kept, mirrorCfgCmd_kept,
    mirrorFetchCmd_kept, mirrorVerifyCmd_kept, mirrorStatusCmd_kept, updBeginCmd_kept, updChunkCmd_kept, updStatusCmd_kept, updActivateCmd_kept,
    updAbortCmd_kept, unitResetCmd_kept]

theorem replayOne_kept (s : State) (a : Active) : (replayOne s a).kept = s.kept := by
  unfold replayOne
  split
  · exact endEntry_kept ..
  split
  · next h =>
    split
    · exact (endSpares_kept ..).trans (runCmd_kept _ (cmdOf_kept h) ..)
    · exact endEntry_kept ..
  · rfl

theorem replay_kept (s : State) : (replay s).kept = s.kept := by
  simp only [replay, foldl_kept, implies_true, ↓setQu_kept, ↓replayOne_kept]

theorem startComponents_kept (s : State) : (startComponents s).kept = s.kept :=
  foldl_kept _ startComponent_kept _ s

theorem enterRun_kept (s1 : State) : (enterRun s1).kept = s1.kept := by
  simp only [enterRun, ↓powerPoll_kept, ↓logRecord_kept, ↓qevent_kept, ↓setQu_kept]

theorem execQuillStartComplete_kept (s : State) : (outState s (execQuillStartComplete s)).kept = s.kept := by
  refine event_kept s _ ?_
  grind [enterRun_kept, startComponents_kept, replay_kept, powerPoll_kept, setQu_kept]

theorem execQuillStartFail_kept (why : QFail) (s : State) : (outState s (execQuillStartFail why s)).kept = s.kept := by
  refine event_kept s _ ?_
  repeat' split
  all_goals simp only [Option.getD_some, Option.getD_none, ↓failStart_kept]

theorem execRcountClear_kept (s : State) : (outState s (execRcountClear s)).kept = s.kept := by
  refine event_kept s _ ?_
  split <;> simp only [Option.getD_some, Option.getD_none, ↓setQu_kept]

/-! ### Accesses to the management window by their readers and writers, the lock of the configuration, the mailbox flags, and the interrupt inputs -/

theorem setLock_kept (s : State) : (setLock s).kept = s.kept := by
  simp only [setLock, ↓State.kept_mk, State.kept_pair, apply_ite State.kept, ite_self, ↓turnOn_kept, ↓powerPoll_kept]

theorem mbxOwnWrite_kept (s : State) (v : W32) : (mbxOwnWrite s v).kept = s.kept := by
  simp only [mbxOwnWrite, foldl_kept, implies_true, ↓flushBox_kept, ↓setQu_kept]

theorem mbxIrqWrite_kept (s : State) (v : W32) : (mbxIrqWrite s v).kept = s.kept := rfl

theorem mbxWrite_kept (s : State) (off : Nat) (v : W32) : (mbxWrite s off v).kept = s.kept := by
  simp only [mbxWrite, apply_ite State.kept, ite_self, ↓setQu_kept]

theorem winWrite_kept (s : State) (off : Nat) (v : W32) (by_ : Reader) : (winWrite s off v by_).kept = s.kept := by
  unfold winWrite
  repeat' split
  all_goals simp only [↓State.kept_mk, State.kept_pair, ↓setLock_kept, ↓mbxIrqWrite_kept, ↓mbxOwnWrite_kept, ↓mbxWrite_kept, ↓errLinesWrite_kept,
    ↓errOvfWrite_kept, ↓errPtrWrite_kept]

theorem latchHi_kept (s : State) (by_ : Reader) (ply : Bool) : (latchHi s by_ ply).kept = s.kept := by
  simp only [latchHi, ↓State.kept_mk, State.kept_pair, apply_ite State.kept, ite_self]

theorem winRead_kept (s : State) (off : Nat) (by_ : Reader) : (winRead s off by_).2.kept = s.kept := by
  unfold winRead
  split <;> simp only [↓State.kept_mk, State.kept_pair, ↓latchHi_kept]

theorem execRegisterWrite_kept (off : BitVec 16) (v : W32) (by_ : Reader) (s : State) :
    (outState s (execRegisterWrite off v by_ s)).kept = s.kept := by
  refine event_kept s _ ?_
  split <;> simp only [Option.getD_some, Option.getD_none, ↓winWrite_kept]

theorem execTickLoRead_kept (by_ : Reader) (ply : Bool) (s : State) : (outState s (execTickLoRead by_ ply s)).kept = s.kept := by
  refine event_kept s _ ?_
  split <;> simp only [Option.getD_some, Option.getD_none, ↓latchHi_kept]

theorem execCfgLockSet_kept (s : State) : (outState s (execCfgLockSet s)).kept = s.kept := by
  refine event_kept s _ ?_
  split <;> simp only [Option.getD_some, Option.getD_none, ↓setLock_kept]

theorem execMbxOwnHqSet_kept (v : W32) (s : State) : (outState s (execMbxOwnHqSet v s)).kept = s.kept := by
  refine event_kept s _ ?_
  split <;> simp only [Option.getD_some, Option.getD_none, ↓mbxOwnWrite_kept]

theorem execMbxOwnQhClear_kept (v : W32) (s : State) : (outState s (execMbxOwnQhClear v s)).kept = s.kept := by
  refine event_kept s _ ?_
  split <;> simp only [Option.getD_some, Option.getD_none, ↓mbxOwnWrite_kept]

theorem execIntInChange_kept (i : Fin 64) (v : Bool) (s : State) : (outState s (execIntInChange i v s)).kept = s.kept := by
  refine pinEvent_kept s _ _ ?_ ?_
  all_goals simp only [↓State.kept_mk, State.kept_pair, apply_ite State.kept, ite_self, Option.getD_some, ↓wakeRequest_kept]

/-! ### Exceptions, interrupts and critical interrupts as events at the head of the reorder buffer, double faults, hold windows, watchdogs and
progress monitors -/

/-- What a fetch that raises an exception leaves. -/
theorem fetchExc_kept {s s1 : State} {va : W64} {e : Exc} (h : fetchExc s va = some (s1, e)) : s1.kept = s.kept := by
  grind [fetchExc, Tr.state, !translate_kept]

theorem freshFault_kept (s : State) (f : Fresh) (reason : BitVec 4) : (freshFault s f reason).kept = s.kept := by
  simp only [freshFault, ↓State.kept_mk, State.kept_pair, apply_ite State.kept, ite_self, ↓doubleFaultAt_kept, ↓setPending_kept, ↓thirdFault_kept]

theorem fetchFaultEntry_kept (s : State) (e : Exc) : (fetchFaultEntry s e).kept = s.kept := by
  unfold fetchFaultEntry
  split <;> simp only [↓raise_kept, ↓freshFault_kept]

theorem fetchMeets_kept (s : State) : (fetchMeets s).kept = s.kept := by
  grind [fetchMeets, Tr.state, !readCheck_kept, !translate_kept]

theorem beforeError_kept (s : State) (va : W64) : ((beforeError s va).getD s).kept = s.kept := by
  unfold beforeError
  split
  · next n g h =>
    dsimp only
    split
    · next k hk =>
      have hl := repnLoop_kept .core g s k (curBank s) s rfl
      split
      · next h => rw [h] at hl; exact hl
      · rfl
    · rfl
  · rfl

theorem fetchFaultOf_kept (s : State) (va : W64) :
    (((fetchExc s va).map fun p => fetchFaultEntry p.1 p.2).getD s).kept = s.kept := by
  cases h : fetchExc s va with
  | none => rfl
  | some p => exact (fetchFaultEntry_kept ..).trans (fetchExc_kept h)

theorem raiseBefore_kept (s : State) (va : W64) (e : Exc) : (((beforeError s va).map (raise e)).getD s).kept = s.kept := by
  have hb := beforeError_kept s va
  cases h : beforeError s va with
  | none => rfl
  | some s1 => rw [h] at hb; exact (raise_kept e s1).trans hb

theorem conditionOf_kept (c : EntryCause) (s : State) : ((conditionOf c s).getD s).kept = s.kept := by
  cases c with
  | undefWords w1 w2 =>
    dsimp only [conditionOf]
    split
    · exact raise_kept ..
    · rfl
  | fetchFault second =>
    dsimp only [conditionOf]
    split
    · rfl
    · exact fetchFaultOf_kept s _
  | dataError poison acc va =>
    cases acc with
    | none => rfl
    | fetch => exact (fetchFaultEntry_kept ..).trans (fetchMeets_kept s)
    | _ => exact raiseBefore_kept s va _
  | busError sub acc va =>
    dsimp only [conditionOf]
    split
    · rfl
    cases acc with
    | none => rfl
    | fetch => exact fetchFaultEntry_kept ..
    | _ => exact raiseBefore_kept s va _

theorem exceptionOf_kept (c : EntryCause) (s : State) : ((exceptionOf c s).getD s).kept = s.kept := by
  unfold exceptionOf
  repeat' split
  all_goals simp only [Option.getD_some, Option.getD_none, ↓conditionOf_kept, ↓enterInterrupt_kept]

theorem takeInterrupt_kept (s : State) (r : Option State) (h : (r.getD s).kept = s.kept) : ((takeInterrupt s r).getD s).kept = s.kept := by
  unfold takeInterrupt
  split
  · split
    · exact wakeRequest_kept s dCore
    · rfl
  split
  · exact h
  · rfl

theorem undoEntry_kept (s : State) (w : EntryWin) : (undoEntry s w).kept = s.kept := by
  simp only [undoEntry, ↓State.kept_mk, State.kept_pair, apply_ite State.kept, ite_self, ↓setPending_kept, ↓setCur_kept]

theorem execExceptionEntry_kept (c : EntryCause) (s : State) : (outState s (execExceptionEntry c s)).kept = s.kept := by
  refine event_kept s _ ?_
  simp only [↓exceptionOf_kept]

theorem execInterruptEntry_kept (s : State) : (outState s (execInterruptEntry s)).kept = s.kept := by
  refine event_kept s _ (takeInterrupt_kept s _ ?_)
  split
  · rfl
  · exact map_kept _ _ fun p => interruptEntryOf_kept s p.1 p.2

theorem execCriticalEntry_kept (s : State) : (outState s (execCriticalEntry s)).kept = s.kept :=
  event_kept s _ (takeInterrupt_kept s _ (map_kept _ _ (criticalEntryWin_kept s)))

theorem execEntryTakeover_kept (s : State) : (outState s (execEntryTakeover s)).kept = s.kept := by
  refine event_kept s _ ?_
  split
  · rfl
  · exact map_kept _ _ fun v => (criticalEntryWin_kept _ v).trans (undoEntry_kept s _)

theorem execDoubleFault_kept (reason : BitVec 4) (s : State) : (outState s (execDoubleFault reason s)).kept = s.kept := by
  refine event_kept s _ ?_
  repeat' split
  all_goals simp only [Option.getD_some, Option.getD_none, ↓freshFault_kept]

theorem execHoldWindowOverrun_kept (s : State) : (outState s (execHoldWindowOverrun s)).kept = s.kept := by
  refine event_kept s _ ?_
  split <;> simp only [↓State.kept_mk, State.kept_pair, apply_ite State.kept, ite_self, Option.getD_some, Option.getD_none, ↓postRecord_kept]

theorem execRetireWatchdogExpiry_kept (s : State) : (outState s (execRetireWatchdogExpiry s)).kept = s.kept := by
  refine event_kept s _ ?_
  split <;> simp only [Option.getD_some, Option.getD_none, ↓postRecord_kept, ↓pend_kept]

theorem execWatchdogHandlerTimeout_kept (s : State) : (outState s (execWatchdogHandlerTimeout s)).kept = s.kept := by
  refine event_kept s _ ?_
  dsimp only
  repeat' split
  all_goals simp only [Option.getD_some, Option.getD_none, ↓thirdFaultOf_kept]

theorem execProgressMonitorExpiry_kept (unit : Byte) (loc : W64) (what : BitVec 6) (s : State) :
    (outState s (execProgressMonitorExpiry unit loc what s)).kept = s.kept := by
  refine event_kept s _ ?_
  dsimp only
  repeat' split
  all_goals simp only [Option.getD_some, Option.getD_none, ↓disarm_kept, ↓postRecord_kept]

/-! ### The debug module: halts, breakpoints, steps, and its register and memory commands -/

theorem setDbg_kept (s : State) (d : Dbg) : (setDbg s d).kept = s.kept := rfl

theorem haltCore_kept (s0 : State) (cause bp : BitVec 2) : (haltCore s0 cause bp).kept = s0.kept := by
  simp only [haltCore, ↓State.kept_mk, State.kept_pair, ↓keepXfer_kept]

theorem execDbgHaltreq_kept (s : State) : (outState s (execDbgHaltreq s)).kept = s.kept := by
  refine event_kept s _ ?_
  split <;> simp only [Option.getD_some, Option.getD_none, ↓setDbg_kept]

theorem execDbgHalt_kept (s : State) : (outState s (execDbgHalt s)).kept = s.kept := by
  refine event_kept s _ ?_
  repeat' split
  all_goals simp only [Option.getD_some, Option.getD_none, ↓haltCore_kept, ↓wakeRequest_kept]

theorem execBreakpointHalt_kept (k : Fin 4) (s : State) : (outState s (execBreakpointHalt k s)).kept = s.kept := by
  refine event_kept s _ ?_
  split <;> simp only [Option.getD_some, Option.getD_none, ↓haltCore_kept]

theorem execDbgResume_kept (s : State) : (outState s (execDbgResume s)).kept = s.kept := by
  refine event_kept s _ ?_
  repeat' split
  all_goals simp only [Option.getD_some, Option.getD_none, ↓setCur_kept, ↓wakeRequest_kept, ↓setDbg_kept]

theorem execStepHalt_kept (s : State) : (outState s (execStepHalt s)).kept = s.kept := by
  refine event_kept s _ ?_
  split <;> simp only [Option.getD_some, Option.getD_none, ↓haltCore_kept]

theorem dbgEnd_kept (s : State) (err : BitVec 3) : (dbgEnd s err).kept = s.kept := rfl

theorem dbgMtc_kept (n : Nat) (v : W64) (s : State) : (dbgMtc n v s).kept = s.kept := by
  grind [dbgMtc, Res.state, setCur_kept, dbgEnd_kept, !regWrite_kept]

theorem dbgReg_kept (write : Bool) (s : State) (f : State → State) (h : ∀ s, (f s).kept = s.kept) :
    ((dbgReg write s f).getD s).kept = s.kept := by
  grind [dbgReg, dbgEnd_kept, wakeRequest_kept]

theorem dbgRegRead_kept (s : State) : (dbgRegRead s).kept = s.kept := by
  simp only [dbgRegRead, ↓setDbg_kept, ↓dbgEnd_kept]

theorem dbgRegWrite_kept (s : State) : (dbgRegWrite s).kept = s.kept := by
  simp only [dbgRegWrite, apply_ite State.kept, ite_self, ↓dbgMtc_kept, ↓setDbg_kept, ↓dbgEnd_kept, ↓setBank_kept]

theorem execDbgCmdRegRead_kept (s : State) : (outState s (execDbgCmdRegRead s)).kept = s.kept :=
  event_kept s _ (dbgReg_kept false s _ dbgRegRead_kept)

theorem execDbgCmdRegWrite_kept (s : State) : (outState s (execDbgCmdRegWrite s)).kept = s.kept :=
  event_kept s _ (dbgReg_kept true s _ dbgRegWrite_kept)

theorem dbgMem_kept (write : Bool) (s : State) (f : Nat → State → State) (h : ∀ a s, (f a s).kept = s.kept) :
    ((dbgMem write s f).getD s).kept = s.kept := by
  grind [dbgMem, dbgEnd_kept, wakeRequest_kept]

theorem execDbgCmdMemRead_kept (s : State) : (outState s (execDbgCmdMemRead s)).kept = s.kept :=
  event_kept s _ (dbgMem_kept false s _ fun _ s => setDbg_kept s _)

theorem execDbgCmdMemWrite_kept (s : State) : (outState s (execDbgCmdMemWrite s)).kept = s.kept := by
  refine event_kept s _ (dbgMem_kept true s _ fun a s => ?_)
  split
  · exact dbgEnd_kept ..
  split
  · exact (setDbg_kept ..).trans (agentWrite_kept ..)
  · exact askGranules_kept ..

theorem execDbgCmdDone_kept (err : Bool) (s : State) : (outState s (execDbgCmdDone err s)).kept = s.kept := by
  refine event_kept s _ ?_
  grind [setDbg_kept, !accessCheck_kept, askVisible_kept, dbgEnd_kept]

/-! ### The fabric ports: probes, broadcast invalidations, message-signalled interrupts, target requests, responses and their errors, tokens and
credits -/

theorem setPort_kept (s : State) (p : PortNum) (x : Port) : (setPort s p x).kept = s.kept := rfl

theorem sendOrsp_kept (s : State) (p : PortNum) (m : Msg) : (sendOrsp s p m).kept = s.kept := rfl

theorem answerOn_kept (s : State) (p : PortNum) (opc : Byte) (tag : BitVec 12) (resp : BitVec 4) (poison : Bool) (d : Option LineWord) :
    (answerOn s p opc tag resp poison d).kept = s.kept := rfl

theorem portRecord_kept (s : State) (cls : Byte) (pa : BitVec 56) (synd : BitVec 24) (inj : Bool) : (portRecord s cls pa synd inj).kept = s.kept := by
  simp only [portRecord, ↓postRecord_kept]

theorem crcAnswer_kept (s : State) (p : PortNum) (opc : Byte) (tag : BitVec 12) (pa : BitVec 56) : (crcAnswer s p opc tag pa).kept = s.kept := by
  simp only [crcAnswer, ↓sendOrsp_kept, ↓portRecord_kept, ↓draw_kept]

theorem snoopEvent_kept (s : State) (p : PortNum) (f : State → State) (h : ∀ s, (f s).kept = s.kept) :
    (outState s (snoopEvent s p f)).kept = s.kept := by
  refine event_kept s _ ?_
  grind [wakeRequest_kept]

theorem setL2_kept (s : State) (k : Nat) (x : Option L2Line) : (setL2 s k x).kept = s.kept := rfl

theorem probeLine_kept (s : State) (p : PortNum) (tag : BitVec 12) (k : Probe) (la : BitVec 50) : (probeLine s p tag k la).kept = s.kept := by
  dsimp only [probeLine]
  repeat' split
  all_goals simp only [↓putMemLine_kept, ↓setL2_kept, ↓flushL1d_kept, ↓dropInner_kept, ↓discardLine_kept, ↓answerOn_kept]

theorem probe_kept (k : Probe) (p : PortNum) (tag : BitVec 12) (pa : BitVec 56) (crcOk : Bool) (new : Option LineWord) (s : State) :
    (outState s (probe k p tag pa crcOk new s)).kept = s.kept := by
  refine snoopEvent_kept s p _ fun s => ?_
  split
  · exact crcAnswer_kept ..
  split
  · exact answerOn_kept ..
  dsimp only
  split
  · exact (putMemLine_kept ..).trans (probeLine_kept ..)
  · exact probeLine_kept ..

theorem execProbeShr_kept (p : PortNum) (tag : BitVec 12) (pa : BitVec 56) (crcOk : Bool) (s : State) :
    (outState s (execProbeShr p tag pa crcOk s)).kept = s.kept := by
  unfold execProbeShr
  simp only [↓probe_kept]

theorem execProbeOwn_kept (p : PortNum) (tag : BitVec 12) (pa : BitVec 56) (crcOk : Bool) (new : Option LineWord) (s : State) :
    (outState s (execProbeOwn p tag pa crcOk new s)).kept = s.kept := by
  unfold execProbeOwn
  simp only [↓probe_kept]

theorem execProbeKill_kept (p : PortNum) (tag : BitVec 12) (pa : BitVec 56) (crcOk : Bool) (new : LineWord) (s : State) :
    (outState s (execProbeKill p tag pa crcOk new s)).kept = s.kept := by
  unfold execProbeKill
  simp only [↓probe_kept]

theorem execTlbiMsg_kept (p : PortNum) (tag : BitVec 12) (src : BitVec 20) (ga : W64) (asid : BitVec 16) (ty : BitVec 2) (crcOk : Bool) (s : State) :
    (outState s (execTlbiMsg p tag src ga asid ty crcOk s)).kept = s.kept := by
  refine snoopEvent_kept s p _ fun s => ?_
  simp only [↓State.kept_mk, State.kept_pair, apply_ite State.kept, ite_self, ↓setPort_kept, ↓tlbiRemove_kept, ↓wakeRequest_kept, ↓answerOn_kept,
    ↓crcAnswer_kept]

theorem execTlbiAck_kept (s : State) : (outState s (execTlbiAck s)).kept = s.kept := by
  refine event_kept s _ ?_
  repeat' split
  all_goals simp only [↓State.kept_mk, State.kept_pair, Option.getD_some, Option.getD_none, ↓answerOn_kept, ↓setPort_kept]

theorem execIntMsg_kept (p : PortNum) (tag : BitVec 12) (id : BitVec 20) (vec : Byte) (data : W32) (crcOk : Bool) (s : State) :
    (outState s (execIntMsg p tag id vec data crcOk s)).kept = s.kept := by
  refine snoopEvent_kept s p _ fun s => ?_
  simp only [↓State.kept_mk, State.kept_pair, apply_ite State.kept, ite_self, ↓wakeRequest_kept, ↓answerOn_kept, ↓pend_kept, ↓crcAnswer_kept]

theorem meetBlock_kept (s : State) (o : Nat) (mask : W64) : (meetBlock s o mask).kept = s.kept := by
  simp only [meetBlock, foldl_kept, implies_true, ↓readCheck_kept]

theorem readBlock_kept (s : State) (o : Nat) (mask : W64) : (readBlock s o mask).2.kept = s.kept := rfl

theorem writeBlock_kept (s : State) (o : Nat) (d : LineWord) (mask : W64) : (writeBlock s o d mask).kept = s.kept := by
  simp only [writeBlock, apply_ite State.kept, ite_self, foldl_kept, implies_true, ↓meetMerge_kept, ↓writeVellum_kept]

theorem targetAtomic_kept (s : State) (p : PortNum) (tag : BitVec 12) (cas : Bool) (pa n : Nat) (d : LineWord) :
    (targetAtomic s p tag cas pa n d).kept = s.kept := by
  grind [targetAtomic, !draw_kept, writeVellum_kept, answerOn_kept, !readCheck_kept]

theorem targetVellum_kept (s : State) (p : PortNum) (tag : BitVec 12) (op : TgtOp) (pa : Nat) (size : BitVec 2) (d : LineWord) (mask : W64)
    (poison : Bool) :
    (targetVellum s p tag op pa size d mask poison).kept = s.kept := by
  have marks (m : W64) (l : List Nat) (s : State) :
      (l.foldl (fun s i => if bit m i then markPoison s false (pa / 64 * 64 + i) 1 else s) s).kept = s.kept := by
    refine foldl_kept _ (fun s i => ?_) l s
    split
    · exact markPoison_kept ..
    · rfl
  cases op with
  | readLine | readStream =>
    simp only [targetVellum, ↓answerOn_kept, ↓readBlock_kept, ↓meetBlock_kept]
  | writeLine | writeStream =>
    simp only [targetVellum, ↓answerOn_kept, apply_ite State.kept, marks, ↓writeBlock_kept, ite_self]
  | atomicCas | atomicAdd =>
    simp only [targetVellum, ↓answerOn_kept, apply_ite State.kept, ↓targetAtomic_kept, ite_self]
  | other => exact answerOn_kept ..

theorem aliasAccess_kept (s : State) (p : PortNum) (tag : BitVec 12) (write : Bool) (off : Nat) (v : W32) :
    (aliasAccess s p tag write off v).kept = s.kept := by
  simp only [aliasAccess, apply_ite State.kept, ite_self, ↓draw_kept, ↓windowMeet_kept, ↓winRead_kept, ↓winWrite_kept, ↓answerOn_kept]

theorem targetServe_kept (p : PortNum) (tag : BitVec 12) (op : TgtOp) (pa : BitVec 56) (size : BitVec 2) (d : LineWord) (mask : W64) (poison : Bool)
    (s : State) :
    (targetServe p tag op pa size d mask poison s).kept = s.kept := by
  unfold targetServe
  split <;> simp only [apply_ite State.kept, ite_self, ↓answerOn_kept, ↓aliasAccess_kept, ↓targetVellum_kept]

theorem execTargetRequest_kept (p : PortNum) (tag : BitVec 12) (op : TgtOp) (pa : BitVec 56) (size : BitVec 2) (data : LineWord) (mask : W64)
    (poison crcOk : Bool) (s : State) :
    (outState s (execTargetRequest p tag op pa size data mask poison crcOk s)).kept = s.kept := by
  refine event_kept s _ ?_
  repeat' split
  all_goals simp only [Option.getD_some, Option.getD_none, ↓targetServe_kept, ↓crcAnswer_kept, ↓wakeRequest_kept, ↓answerOn_kept]

theorem execMgmtAliasAccess_kept (p : PortNum) (tag : BitVec 12) (write : Bool) (off : BitVec 16) (v : W32) (s : State) :
    (outState s (execMgmtAliasAccess p tag write off v s)).kept = s.kept := by
  refine event_kept s _ ?_
  dsimp only
  repeat' split
  all_goals simp only [Option.getD_some, Option.getD_none, ↓aliasAccess_kept, ↓wakeRequest_kept]

theorem endWalks_kept (s : State) (p : WalkReq → Bool) (va : W64) : (endWalks s p va).kept = s.kept := rfl

theorem coreWalkBus_kept (s : State) (acc : Acc) (va : W64) : (coreWalkBus s acc va).kept = s.kept := by
  simp only [coreWalkBus, apply_ite State.kept, ite_self, ↓raise_kept, ↓fetchFaultEntry_kept]

theorem failQueue_kept (s : State) (q : QNum) (c : BitVec 5 × Byte) (w : Bool) (va : W64) (pa : BitVec 56) :
    (failQueue s q c w va pa).kept = s.kept := by
  simp only [failQueue, ↓queueFault_kept]

theorem failTile_kept (s : State) (t : TReg) (c : BitVec 5 × Byte) (va : W64) (pa : BitVec 56) : (failTile s t c va pa).kept = s.kept := by
  unfold failTile
  split <;> simp only [↓failTransfer_kept]

theorem stopLive_kept (s : State) (k : ScribeNum) (t : Fin 128) (cause : BitVec 5) (va : W64) (pa : BitVec 56) :
    (stopLive s k t cause va pa).kept = s.kept := by
  unfold stopLive
  split <;> simp only [apply_ite State.kept, ite_self, ↓stopThread_kept]

theorem failMirror_kept (s : State) (pa : BitVec 56) : (failMirror s pa).kept = s.kept := by
  simp only [failMirror, apply_ite State.kept, ite_self, ↓abortFetch_kept, ↓endServe_kept, ↓abandonCommit_kept, ↓mirAdvance_kept]

theorem failCoreWalk_kept (s : State) (acc : Acc) (va : W64) : (failCoreWalk s acc va).kept = s.kept := by
  simp only [failCoreWalk, apply_ite State.kept, ite_self, ↓coreWalkBus_kept, ↓endWalks_kept]

theorem failRequest_kept (s : State) (c : ReqCtx) (pa : BitVec 56) (e : RespErr) : (failRequest s c pa e).kept = s.kept := by
  unfold failRequest
  split <;> simp only [↓dmaFail_kept, ↓failMirror_kept, ↓endWalks_kept, ↓failCoreWalk_kept, ↓stopLive_kept, ↓failTile_kept, ↓failQueue_kept,
    ↓unbuffer_kept, ↓exceptionOf_kept]

theorem answered_kept (s : State) (c : ReqCtx) (pa : BitVec 56) : (answered s c pa).kept = s.kept := by
  simp only [answered, apply_ite State.kept, ite_self, ↓unbuffer_kept]

theorem requestFails_kept (s : State) (p : PortNum) (c : ReqCtx) (pa : BitVec 56) (e : RespErr) (crc : W32) (inj : Bool) :
    (requestFails s p c pa e crc inj).kept = s.kept := by
  simp only [requestFails, ↓portRecord_kept, ↓failRequest_kept]

theorem response_kept (s : State) (p : PortNum) (tag : BitVec 12) (c : ReqCtx) (pa : BitVec 56) (e : Option RespErr) (crc : W32) (inj : Bool) :
    ((response s p tag c pa e crc inj).getD s).kept = s.kept := by
  unfold response
  repeat' split
  all_goals simp only [Option.getD_some, ↓answered_kept, ↓requestFails_kept, ↓setPort_kept]

theorem execFabricResponse_kept (p : PortNum) (tag : BitVec 12) (c : ReqCtx) (pa : BitVec 56) (resp : BitVec 4) (crc : W32) (crcOk poison : Bool)
    (s : State) :
    (outState s (execFabricResponse p tag c pa resp crc crcOk poison s)).kept = s.kept := by
  refine event_kept s _ ?_
  split
  · have hr := (response_kept (disarm s) p tag c pa (respErr resp false poison) (crc ^^^ 1) true).trans (disarm_kept s)
    cases h : response (disarm s) p tag c pa (respErr resp false poison) (crc ^^^ 1) true with
    | none => rfl
    | some s1 => rw [h] at hr; exact hr
  · exact response_kept ..

theorem execFabricTimeout_kept (p : PortNum) (tag : BitVec 12) (c : ReqCtx) (pa : BitVec 56) (s : State) :
    (outState s (execFabricTimeout p tag c pa s)).kept = s.kept := by
  refine event_kept s _ ?_
  split <;> simp only [Option.getD_some, Option.getD_none, ↓setPort_kept, ↓requestFails_kept]

theorem execOrdDone_kept (p : PortNum) (s : State) : (outState s (execOrdDone p s)).kept = s.kept := by
  refine event_kept s _ ?_
  split <;> simp only [Option.getD_some, Option.getD_none, ↓setPort_kept, ↓settleLines_kept]

theorem execTlbiDone_kept (s : State) : (outState s (execTlbiDone s)).kept = s.kept := by
  refine event_kept s _ ?_
  split <;> simp only [↓State.kept_mk, State.kept_pair, Option.getD_some, Option.getD_none]

theorem execOreqCredit_kept (p : PortNum) (n : BitVec 2) (s : State) : (outState s (execOreqCredit p n s)).kept = s.kept := by
  refine event_kept s _ ?_
  split <;> simp only [Option.getD_some, Option.getD_none, ↓setPort_kept]

theorem execFabricPortUp_kept (p : PortNum) (s : State) : (outState s (execFabricPortUp p s)).kept = s.kept := by
  refine pinEvent_kept s _ _ ?_ ?_
  repeat' split
  all_goals simp only [Option.getD_some, Option.getD_none, ↓setPort_kept]

theorem execFppUpFall_kept (p : PortNum) (s : State) : (outState s (execFppUpFall p s)).kept = s.kept := by
  refine pinEvent_kept s _ _ ?_ ?_
  repeat' split
  all_goals simp only [Option.getD_some, Option.getD_none, ↓setPort_kept]

/-! ### FENCE, TLBI in its four forms, their completion, and the invalidations that come from the fabric -/

theorem fenceAsk_kept (mask : BitVec 4) (s : State) : (fenceAsk mask s).kept = s.kept := by
  simp only [fenceAsk, apply_ite State.kept, ite_self, ↓askVisible_kept, ↓awaitStores_kept]

theorem fenceBody_kept (mask : BitVec 4) (k : Who) (b : Bank) (s : State) : (fenceBody mask k b s).state.kept = s.kept := by
  unfold fenceBody
  split <;> simp only [↓State.kept_mk, State.kept_pair, apply_ite State.kept, ite_self, Res.state, ↓fenceAsk_kept]

theorem sendTlbi_kept (f : TlbiForm) (s : State) : ((sendTlbi f s).getD s).kept = s.kept := by
  unfold sendTlbi
  split
  · rfl
  cases sendOreq s.port[0] (oreqMsg s 0x08 (some (tlbiData f))) <;> rfl

theorem tlbiBody_kept (f : Bank → TlbiForm) (loc : Bool) (k : Who) (b : Bank) (s : State) : (tlbiBody f loc k b s).state.kept = s.kept := by
  refine ringGate_kept _ _ (fun k b s => ?_) ..
  have hs := sendTlbi_kept (f b) s
  split
  · exact awaitStores_kept ..
  split
  · exact tlbiRemove_kept ..
  split
  · next h => rw [h] at hs; exact (tlbiRemove_kept ..).trans hs
  · rfl

theorem execFenceRetire_kept (s : State) : (outState s (execFenceRetire s)).kept = s.kept := by
  unfold execFenceRetire
  split
  · exact issue_kept _ _ s fun _ _ _ => fenceBody_kept ..
  · exact event_kept s none rfl

/-! ### PLYC, and the retry of an instruction that waits for room in its unit -/

theorem placeRemaps_kept (b : Bank) (s : State) : (placeRemaps b s).kept = s.kept := by
  dsimp only [placeRemaps]
  split
  · rfl
  refine (foldl_kept _ (fun s a => ?_) _ _).trans ?_
  · split
    · exact (clearAdvice_kept ..).trans (complete_kept ..)
    · rfl
  · simp only [↓State.kept_mk, State.kept_pair, ↓acceptOp_kept]

theorem plycSteps_kept (b : Bank) (s : State) : (plycSteps b s).kept = s.kept := by
  simp only [plycSteps, ↓State.kept_mk, State.kept_pair, ↓activateAt_kept, ↓placeRemaps_kept, ↓startCommit_kept]

theorem plycBody_kept (k : Who) (b : Bank) (s : State) : (plycBody k b s).state.kept = s.kept := by
  unfold plycBody
  split <;> simp only [Res.state, ↓plycSteps_kept]

theorem execTileOpAccept_kept (s : State) : (outState s (execTileOpAccept s)).kept = s.kept := by
  unfold execTileOpAccept
  generalize s.stall = held
  cases held with
  | none => exact event_kept s none rfl
  | some i =>
    cases i with
    | tld => exact execTld_kept ..
    | tst => exact execTst_kept ..
    | tresume => exact execTresume_kept ..
    | bplane => exact execBplane_kept ..
    | bswap => exact execBswap_kept ..
    | brun => exact execBrun_kept ..
    | iclr => exact execIclr_kept ..
    | idrainTile => exact execIdrainTile_kept ..
    | idrainMemory => exact execIdrainMemory_kept ..
    | smove => exact execSmove_kept ..
    | slaunch => exact execSlaunch_kept ..
    | _ => exact event_kept s none rfl

/-! ### Cold and warm reset -/

theorem coldState_kept (s : State) : (coldState s).kept = s.kept := rfl

theorem execRstColdAssert_kept (s : State) : (outState s (execRstColdAssert s)).kept = s.kept := by
  unfold execRstColdAssert
  rfl

theorem execRstColdRelease_kept (s : State) : (outState s (execRstColdRelease s)).kept = s.kept := by
  unfold execRstColdRelease
  dsimp only [outState]
  split <;> rfl

theorem execColdClearComplete_kept (s : State) : (outState s (execColdClearComplete s)).kept = s.kept := by
  refine event_kept s _ ?_
  split <;> simp only [↓State.kept_mk, State.kept_pair, Option.getD_some, Option.getD_none]

theorem execRstWarmRise_kept (s : State) : (outState s (execRstWarmRise s)).kept = s.kept := by
  refine pinEvent_kept s _ _ ?_ ?_
  repeat' split
  all_goals simp only [↓State.kept_mk, State.kept_pair, Option.getD_some, Option.getD_none, ↓requestWarm_kept]

theorem execRstWarmFall_kept (s : State) : (outState s (execRstWarmFall s)).kept = s.kept := by
  refine pinEvent_kept s _ _ ?_ ?_
  all_goals rfl

theorem loseFlight_kept (s : State) : (loseFlight s).kept = s.kept := by
  refine foldl_kept _ (fun s f => ?_) _ s
  cases f with
  | swap _ => rfl
  | row id m sums =>
    dsimp only
    split
    · exact foldl_kept _ (fun s p => (inkWrite_kept ..).trans (draw_kept 40 s)) sums s
    · rfl

theorem dropWork_kept (s : State) : (dropWork s).kept = s.kept := by
  simp only [dropWork, ↓State.kept_mk, State.kept_pair, ↓emptyBoard_kept, ↓loseFlight_kept, ↓applyPlaced_kept]

theorem warmCaches_kept (s : State) : (warmCaches s).kept = s.kept := by
  simp only [warmCaches, ↓State.kept_mk, State.kept_pair, apply_ite State.kept, ite_self, ↓cleanL1d_kept]

theorem warmState_kept (s : State) : (warmState s).kept = s.kept := by
  simp only [warmState, ↓State.kept_mk, State.kept_pair, ↓spent_kept, ↓dropSpots_kept, ↓warmCaches_kept, ↓dropWork_kept, ↓freshTiles_kept,
    ↓abandonCommit_kept, ↓abortFetch_kept]

theorem execWarmReset_kept (s : State) : (outState s (execWarmReset s)).kept = s.kept := by
  refine event_kept s _ ?_
  split <;> simp only [Option.getD_some, Option.getD_none, ↓warmState_kept]

theorem execWarmResetComplete_kept (s : State) : (outState s (execWarmResetComplete s)).kept = s.kept := by
  refine event_kept s _ ?_
  split <;> simp only [↓State.kept_mk, State.kept_pair, Option.getD_some, Option.getD_none]

/-! ### The test wrapper: its instructions and the instruments behind CW_NET -/

theorem selectWir_kept (s : State) (w : BitVec 4) (undef : Bool) : (selectWir s w undef).kept = s.kept := rfl

theorem execWrstnReset_kept (s : State) : (outState s (execWrstnReset s)).kept = s.kept := by
  unfold execWrstnReset
  rfl

theorem execWsBypass_kept (s : State) : (outState s (execWsBypass s)).kept = s.kept := by
  unfold execWsBypass
  rfl

theorem execWsExtest_kept (s : State) : (outState s (execWsExtest s)).kept = s.kept := by
  unfold execWsExtest
  rfl

theorem execWsIntestScan_kept (s : State) : (outState s (execWsIntestScan s)).kept = s.kept := by
  unfold execWsIntestScan
  rfl

theorem execWsSafe_kept (s : State) : (outState s (execWsSafe s)).kept = s.kept := by
  unfold execWsSafe
  rfl

theorem execWsPreload_kept (s : State) : (outState s (execWsPreload s)).kept = s.kept := by
  unfold execWsPreload
  rfl

theorem execCwNet_kept (s : State) : (outState s (execCwNet s)).kept = s.kept := by
  unfold execCwNet
  rfl

theorem setInstr_kept (s : State) (k : Fin 12) (x : W32) : (setInstr s k x).kept = s.kept := rfl

theorem execInstrumentStart_kept (k : Fin 12) (mode : BitVec 3) (s : State) : (outState s (execInstrumentStart k mode s)).kept = s.kept := by
  unfold execInstrumentStart
  dsimp only [outState]
  split
  · rfl
  · exact setInstr_kept ..

theorem instrEffect_kept (s : State) (k : Fin 12) : (instrEffect s k).kept = s.kept := by
  unfold instrEffect
  split <;> simp only [↓State.kept_mk, State.kept_pair, ↓emptyBoard_kept]

theorem execInstrumentComplete_kept (k : Fin 12) (fails : Byte) (first : BitVec 16) (s : State) :
    (outState s (execInstrumentComplete k fails first s)).kept = s.kept := by
  unfold execInstrumentComplete
  dsimp only [outState]
  split
  · rfl
  · simp only [↓instrEffect_kept, ↓State.kept_mk, State.kept_pair, ↓setInstr_kept]

/-! ### One period of CLK_SLOW in which no command comes: what the always-on domain counts, and its registered outputs -/

theorem registerOutputs_kept (s : State) : (registerOutputs s).kept = s.kept := rfl

theorem idleTick_kept (s : State) : (idleTick s).kept = s.kept := by
  simp only [idleTick, ↓State.kept_mk, State.kept_pair, apply_ite State.kept, ite_self, ↓cleanSteps_kept, ↓powerPoll_kept, ↓registerOutputs_kept]

/-! ### The dispatch of the commands, and the step -/

/-- No command changes the queue of commands that wait, or the variant: by the command. -/
theorem exec_kept (i : Instr) (s : State) : (outState s (exec i s)).kept = s.kept := by
  cases i with
  | add | sub | and | or | xor | andn | shl | shr | sar | ror | mul | mulh | mulhu | min | max => exact issue_kept _ _ s fun _ _ _ => aluBody_kept ..
  | cmp => exact issue_kept _ _ s fun _ _ _ => cmpBody_kept ..
  | div | divu | rem | remu => exact issue_kept _ _ s fun _ _ _ => divBody_kept ..
  | clz | popc => exact issue_kept _ _ s fun _ _ _ => countBody_kept ..
  | longOpResult => exact execLongOpResult_kept ..
  | imz => exact issue_kept _ _ s fun _ _ _ => imzBody_kept ..
  | imi => exact issue_kept _ _ s fun _ _ _ => imiBody_kept ..
  | load => exact execLoad_kept ..
  | store => exact execStore_kept ..
  | lda => exact issue_kept _ _ s fun _ _ _ => ldaBody_kept ..
  | stl => exact issue_kept _ _ s fun _ _ _ => stlBody_kept ..
  | cas => exact issue_kept _ _ s fun _ _ _ => casBody_kept ..
  | aadd => exact issue_kept _ _ s fun _ _ _ => aaddBody_kept ..
  | fence => exact issue_kept _ _ s fun _ _ _ => fenceBody_kept ..
  | fenceRetire => exact execFenceRetire_kept ..
  | tlbiAll | tlbiAsid | tlbiVa | tlbiVaall => exact issue_kept _ _ s fun _ _ _ => tlbiBody_kept ..
  | b => exact issue_kept _ _ s fun _ _ _ => bBody_kept ..
  | bCond => exact issue_kept _ _ s fun _ _ _ => bCondBody_kept ..
  | br => exact issue_kept _ _ s fun _ _ _ => brBody_kept ..
  | call => exact issue_kept _ _ s fun _ _ _ => callBody_kept ..
  | callr => exact issue_kept _ _ s fun _ _ _ => callrBody_kept ..
  | ret => exact issue_kept _ _ s fun _ _ _ => retBody_kept ..
  | callg => exact issue_kept _ _ s fun _ _ _ => callgBody_kept ..
  | retg => exact issue_kept _ _ s fun _ _ _ => retgBody_kept ..
  | sysc => exact issue_kept _ _ s fun _ _ _ => syscBody_kept ..
  | sysr => exact issue_kept _ _ s (ringGate_kept _ _ fun _ _ _ => sysrBody_kept ..)
  | retx => exact issue_kept _ _ s (ringGate_kept _ _ fun _ _ _ => retxBody_kept ..)
  | retxC => exact issue_kept _ _ s (ringGate_kept _ _ fun _ _ _ => retxCBody_kept ..)
  | holdend => exact issue_kept _ _ s fun _ _ _ => holdendBody_kept ..
  | sspush => exact issue_kept _ _ s (ringGate_kept _ _ fun _ _ _ => sspushBody_kept ..)
  | sspinc => exact issue_kept _ _ s fun _ _ _ => sspincBody_kept ..
  | waiti => exact issue_kept _ _ s (ringGate_kept _ _ fun _ _ _ => waitiBody_kept ..)
  | mfc => exact issue_kept _ _ s fun _ _ _ => mfcBody_kept ..
  | mtc => exact issue_kept _ _ s fun _ _ _ => mtcBody_kept ..
  | mfb => exact issue_kept _ _ s fun _ _ _ => mfbBody_kept ..
  | mtb => exact issue_kept _ _ s fun _ _ _ => mtbBody_kept ..
  | svm | ldm => exact issue_kept _ _ s fun _ _ _ => svmBody_kept ..
  | svh => exact issue_kept _ _ s fun _ _ _ => svhBody_kept ..
  | ldh => exact issue_kept _ _ s fun _ _ _ => ldhBody_kept ..
  | plyc => exact issue_kept _ _ s fun _ _ _ => plycBody_kept ..
  | tally => exact issue_kept _ _ s fun _ _ _ => tallyBody_kept ..
  | rep => exact execRep_kept ..
  | repn => exact issue_kept _ _ s fun _ _ _ => repnBody_kept ..
  | tcfgImm => exact tileInstr_kept _ _ s fun _ _ _ => tcfgBody_kept ..
  | tcfgReg => exact tileInstr_kept _ _ s fun _ _ _ => tcfgRegBody_kept ..
  | tcfgRead => exact execTcfgRead_kept ..
  | tld => exact execTld_kept ..
  | tst => exact execTst_kept ..
  | tzero | trel => exact tileInstr_kept _ _ s fun _ _ _ => tclearBody_kept ..
  | tmov => exact tileInstr_kept _ _ s fun _ _ _ => tmovBody_kept ..
  | trdy | trdyW => exact tileInstr_kept _ _ s fun _ _ _ => trdyBody_kept ..
  | tresume => exact execTresume_kept ..
  | tileOpAccept => exact execTileOpAccept_kept ..
  | heldOpRelease => exact execHeldOpRelease_kept ..
  | tldRowComplete => exact execTldRowComplete_kept ..
  | tldComplete => exact execTldComplete_kept ..
  | tstComplete => exact execTstComplete_kept ..
  | tileTransferFault => exact execTileTransferFault_kept ..
  | tzeroPerformed => exact execTzeroPerformed_kept ..
  | trelPerformed => exact execTrelPerformed_kept ..
  | tmovComplete => exact execTmovComplete_kept ..
  | bplane => exact execBplane_kept ..
  | bplaneLoadStart => exact execBplaneLoadStart_kept ..
  | bplaneComplete => exact execBplaneComplete_kept ..
  | bswap => exact execBswap_kept ..
  | swapTokenEntry => exact execSwapTokenEntry_kept ..
  | bswapComplete => exact execBswapComplete_kept ..
  | planeRelease => exact execPlaneRelease_kept ..
  | brun => exact execBrun_kept ..
  | aRowEntry => exact execARowEntry_kept ..
  | resultRowCombine => exact execResultRowCombine_kept ..
  | throttleWindowBoundary => exact execThrottleWindowBoundary_kept ..
  | spareRemapApply => exact execSpareRemapApply_kept ..
  | bmode => exact issue_kept _ _ s fun _ _ _ => bmodeBody_kept ..
  | iclr => exact execIclr_kept ..
  | iclrComplete => exact execIclrComplete_kept ..
  | idrainTile => exact execIdrainTile_kept ..
  | idrainTileComplete => exact execIdrainTileComplete_kept ..
  | idrainVector => exact boardInstr_kept _ _ s (vecGate_kept _ _ fun _ _ _ => idrainVectorBody_kept ..)
  | idrainMemory => exact execIdrainMemory_kept ..
  | idrainMemoryComplete => exact execIdrainMemoryComplete_kept ..
  | inkwellZeroingComplete => exact execInkwellZeroingComplete_kept ..
  | smove => exact execSmove_kept ..
  | streamDescriptorRead => exact execStreamDescriptorRead_kept ..
  | streamOpStart => exact execStreamOpStart_kept ..
  | streamRequestComplete => exact execStreamRequestComplete_kept ..
  | streamFault => exact execStreamFault_kept ..
  | smoveComplete => exact execSmoveComplete_kept ..
  | sqstat => exact execSqstat_kept ..
  | sqwait => exact execSqwait_kept ..
  | sqctlClear | sqctlRestart | sqctlRestartAt | sqctlAbandon => exact streamInstr_kept _ _ s fun _ _ _ => sqctlBody_kept ..
  | slaunch => exact execSlaunch_kept ..
  | descriptorDispatch => exact execDescriptorDispatch_kept ..
  | threadStart => exact execThreadStart_kept ..
  | threadIssue => exact execThreadIssue_kept ..
  | scribeDescriptorPost => exact execScribeDescriptorPost_kept ..
  | scribeFault => exact execScribeFault_kept ..
  | scribeLimitExpiry => exact execScribeLimitExpiry_kept ..
  | scrfltRecvClear | swctlAbort | ruledEnter | ruledExit | bankAlloc | bankFree | bankPark | bankReady | bankSwitch | bankClrev | bankReturn
    | talsrcClr | talsrcReconfig | mirctlEnSet | mirctlEnClear | l2wayctlWrite | rstctlWarm | isetWrite | errinjArm =>
    exact mtcRow_kept ..
  | vadd | vsub | vmul | vmin | vmax | vminu | vmaxu | vand | vor | vxor | vshl | vshr | vsar =>
    exact vecInstr_kept _ _ s fun _ _ _ => vintBody_kept ..
  | vfadd | vfsub | vfmul | vfdiv | vfsqrt | vfmin | vfmax | vfma | vfnma => exact vecInstr_kept _ _ s fun _ _ _ => vfpBody_kept ..
  | vcmpeq | vcmplt | vcmpltu => exact vecInstr_kept _ _ s fun _ _ _ => vcmpBody_kept ..
  | vfcmpeq | vfcmplt | vfcmple => exact vecInstr_kept _ _ s fun _ _ _ => vfcmpBody_kept ..
  | vrsum | vrmax | vrmin => exact vecInstr_kept _ _ s fun _ _ _ => vredBody_kept ..
  | vradd => exact vecInstr_kept _ _ s fun _ _ _ => vraddBody_kept ..
  | vcvt => exact vecInstr_kept _ _ s fun _ _ _ => vcvtBody_kept ..
  | vload => exact execVload_kept ..
  | vstore => exact execVstore_kept ..
  | vtrd | vtrdS => exact tileInstr_kept _ _ s (vecGate_kept _ _ fun _ _ _ => vtrdBody_kept ..)
  | vtwr | vtwrS => exact tileInstr_kept _ _ s (vecGate_kept _ _ fun _ _ _ => vtwrBody_kept ..)
  | vext => exact vecInstr_kept _ _ s fun _ _ _ => vextBody_kept ..
  | vins => exact vecInstr_kept _ _ s fun _ _ _ => vinsBody_kept ..
  | vsplat => exact vecInstr_kept _ _ s fun _ _ _ => vsplatBody_kept ..
  | mand | mor | mxor | mnot | mset => exact vecInstr_kept _ _ s fun _ _ _ => maskBody_kept ..
  | mcnt => exact vecInstr_kept _ _ s fun _ _ _ => mcntBody_kept ..
  | schedSwitch => exact execSchedSwitch_kept ..
  | tnrBankReady => exact execTnrBankReady_kept ..
  | tallySample => exact execTallySample_kept ..
  | tallyFold => exact execTallyFold_kept ..
  | tallyPendClear => exact execTallyPendClear_kept ..
  | mirrorGranuleRead => exact execMirrorGranuleRead_kept ..
  | mirrorHeldWrite => exact execMirrorHeldWrite_kept ..
  | partnerAck => exact execPartnerAck_kept ..
  | partnerNack => exact execPartnerNack_kept ..
  | partnerCredit => exact execPartnerCredit_kept ..
  | mirrorCommitAbandon => exact execMirrorCommitAbandon_kept ..
  | partnerGranuleReceive => exact execPartnerGranuleReceive_kept ..
  | partnerRecordReceive => exact execPartnerRecordReceive_kept ..
  | partnerWriteVisible => exact execPartnerWriteVisible_kept ..
  | partnerFreq => exact execPartnerFreq_kept ..
  | fetchGranuleReceive => exact execFetchGranuleReceive_kept ..
  | partnerFend => exact execPartnerFend_kept ..
  | ppLinkUpRise => exact execPpLinkUpRise_kept ..
  | ppLinkUpFall => exact execPpLinkUpFall_kept ..
  | mirrorTmoExpiry => exact execMirrorTmoExpiry_kept ..
  | l2GroupOffComplete => exact execL2GroupOffComplete_kept ..
  | l2GroupOnComplete => exact execL2GroupOnComplete_kept ..
  | registerWrite => exact execRegisterWrite_kept ..
  | tickLoRead => exact execTickLoRead_kept ..
  | l1iMissFill => exact execL1iMissFill_kept ..
  | l1dMissFill => exact execL1dMissFill_kept ..
  | prefetchFill => exact execPrefetchFill_kept ..
  | storeBufferDrain => exact execStoreBufferDrain_kept ..
  | pageWalk => exact execPageWalk_kept ..
  | walkDescriptorReturn => exact execWalkDescriptorReturn_kept ..
  | exceptionEntry => exact execExceptionEntry_kept ..
  | interruptEntry => exact execInterruptEntry_kept ..
  | criticalEntry => exact execCriticalEntry_kept ..
  | entryTakeover => exact execEntryTakeover_kept ..
  | doubleFault => exact execDoubleFault_kept ..
  | holdWindowOverrun => exact execHoldWindowOverrun_kept ..
  | retireWatchdogExpiry => exact execRetireWatchdogExpiry_kept ..
  | watchdogHandlerTimeout => exact execWatchdogHandlerTimeout_kept ..
  | progressMonitorExpiry => exact execProgressMonitorExpiry_kept ..
  | fabricTimeout => exact execFabricTimeout_kept ..
  | vellumScrubStep => exact execVellumScrubStep_kept ..
  | l2ScrubStep => exact execL2ScrubStep_kept ..
  | scrubCreditGain => exact execScrubCreditGain_kept ..
  | tileInkScrubRow => exact execTileInkScrubRow_kept ..
  | quillSramScrubStep => exact execQuillSramScrubStep_kept ..
  | errorRecordPost => exact execErrorRecordPost_kept ..
  | errPtrRdWrite => exact execErrPtrRdWrite_kept ..
  | errOvfClear => exact execErrOvfClear_kept ..
  | errLinesFatalClear => exact execErrLinesFatalClear_kept ..
  | cfgLockSet => exact execCfgLockSet_kept ..
  | mbxOwnHqSet => exact execMbxOwnHqSet_kept ..
  | mbxOwnQhClear => exact execMbxOwnQhClear_kept ..
  | mailboxServe => exact execMailboxServe_kept ..
  | mailboxNotreadyReply => exact execMailboxNotreadyReply_kept ..
  | hello => exact opRow_kept _ _ s helloCmd_kept
  | configSet => exact opRow_kept _ _ s configSetCmd_kept
  | configGet => exact opRow_kept _ _ s configGetCmd_kept
  | powerSetOn => exact execPowerSetOn_kept ..
  | powerSetOff => exact execPowerSetOff_kept ..
  | powerSetRetain => exact execPowerSetRetain_kept ..
  | boardRetainTimeout => exact execBoardRetainTimeout_kept ..
  | powerGet => exact opRow_kept _ _ s powerGetCmd_kept
  | throttleSet => exact opRow_kept _ _ s throttleSetCmd_kept
  | errlogRead => exact opRow_kept _ _ s errlogReadCmd_kept
  | errlogClear => exact opRow_kept _ _ s errlogClearCmd_kept
  | scrubSetInterval => exact execScrubSetInterval_kept ..
  | scrubResetInterval => exact execScrubResetInterval_kept ..
  | scrubPass => exact execScrubPass_kept ..
  | scrubPassComplete => exact execScrubPassComplete_kept ..
  | fileSpare => exact opRow_kept _ _ s fileSpareCmd_kept
  | journalRead => exact opRow_kept _ _ s journalReadCmd_kept
  | tallyCfg => exact opRow_kept _ _ s tallyCfgCmd_kept
  | tallyRead => exact execTallyRead_kept ..
  | mirrorCfg => exact opRow_kept _ _ s mirrorCfgCmd_kept
  | mirrorFetchMirror => exact execMirrorFetchMirror_kept ..
  | mirrorFetchPrimary => exact execMirrorFetchPrimary_kept ..
  | mirrorVerify => exact opRow_kept _ _ s mirrorVerifyCmd_kept
  | mirrorStatus => exact opRow_kept _ _ s mirrorStatusCmd_kept
  | updBegin => exact opRow_kept _ _ s updBeginCmd_kept
  | updChunk => exact execUpdChunk_kept ..
  | updChunkAll => exact execUpdChunkAll_kept ..
  | updStatus => exact opRow_kept _ _ s updStatusCmd_kept
  | updActivate => exact execUpdActivate_kept ..
  | handoverCommit => exact execHandoverCommit_kept ..
  | handoverTimeout => exact execHandoverTimeout_kept ..
  | updateBanksReleased => exact execUpdateBanksReleased_kept ..
  | updAbort => exact opRow_kept _ _ s updAbortCmd_kept
  | unitResetWarm => exact execUnitResetWarm_kept ..
  | unitResetDomain => exact execUnitResetDomain_kept ..
  | unitResetQuill => exact execUnitResetQuill_kept ..
  | errorManagerConsume => exact execErrorManagerConsume_kept ..
  | componentRestart => exact execComponentRestart_kept ..
  | quillWatchdogKick => exact execQuillWatchdogKick_kept ..
  | quillWatchdogExpiry => exact execQuillWatchdogExpiry_kept ..
  | quillRestart => exact execQuillRestart_kept ..
  | quillStartComplete => exact execQuillStartComplete_kept ..
  | quillStartFail => exact execQuillStartFail_kept ..
  | rcountClear => exact execRcountClear_kept ..
  | idleThresholdExpiry => exact execIdleThresholdExpiry_kept ..
  | domainWakeRequest => exact execDomainWakeRequest_kept ..
  | fclkAckChange => exact execFclkAckChange_kept ..
  | pwrAckChange => exact execPwrAckChange_kept ..
  | domainWakeComplete => exact execDomainWakeComplete_kept ..
  | vellumZeroingComplete => exact execVellumZeroingComplete_kept ..
  | probeShr => exact execProbeShr_kept ..
  | probeOwn => exact execProbeOwn_kept ..
  | probeKill => exact execProbeKill_kept ..
  | tlbiMsg => exact execTlbiMsg_kept ..
  | tlbiAck => exact execTlbiAck_kept ..
  | intMsg => exact execIntMsg_kept ..
  | targetRequest => exact execTargetRequest_kept ..
  | mgmtAliasAccess => exact execMgmtAliasAccess_kept ..
  | fabricResponse => exact execFabricResponse_kept ..
  | ordDone => exact execOrdDone_kept ..
  | tlbiDone => exact execTlbiDone_kept ..
  | oreqCredit => exact execOreqCredit_kept ..
  | fabricPortUp => exact execFabricPortUp_kept ..
  | intInChange => exact execIntInChange_kept ..
  | rstColdAssert => exact execRstColdAssert_kept ..
  | rstColdRelease => exact execRstColdRelease_kept ..
  | coldClearComplete => exact execColdClearComplete_kept ..
  | rstWarmRise => exact execRstWarmRise_kept ..
  | warmReset => exact execWarmReset_kept ..
  | warmResetComplete => exact execWarmResetComplete_kept ..
  | dbgHaltreq => exact execDbgHaltreq_kept ..
  | dbgHalt => exact execDbgHalt_kept ..
  | breakpointHalt => exact execBreakpointHalt_kept ..
  | dbgResume => exact execDbgResume_kept ..
  | stepHalt => exact execStepHalt_kept ..
  | dbgCmdRegRead => exact execDbgCmdRegRead_kept ..
  | dbgCmdRegWrite => exact execDbgCmdRegWrite_kept ..
  | dbgCmdMemRead => exact execDbgCmdMemRead_kept ..
  | dbgCmdMemWrite => exact execDbgCmdMemWrite_kept ..
  | dbgCmdDone => exact execDbgCmdDone_kept ..
  | wrstnReset => exact execWrstnReset_kept ..
  | wsBypass => exact execWsBypass_kept ..
  | wsExtest => exact execWsExtest_kept ..
  | wsIntestScan => exact execWsIntestScan_kept ..
  | wsSafe => exact execWsSafe_kept ..
  | wsPreload => exact execWsPreload_kept ..
  | cwNet => exact execCwNet_kept ..
  | instrumentStart => exact execInstrumentStart_kept ..
  | instrumentComplete => exact execInstrumentComplete_kept ..
  | rstWarmFall => exact execRstWarmFall_kept ..
  | fppUpFall => exact execFppUpFall_kept ..
  | updChunkAllComplete => exact execUpdChunkAllComplete_kept ..

/-- Settles O2: a step runs the first command on the state with that command off the queue, and no command touches the queue or the variant. -/
theorem stepConsumesOneCommand : Obligations.StepConsumesOneCommand := by
  unfold Obligations.StepConsumesOneCommand
  intro c cs s t hq hs
  rw [step_cons hq] at hs
  have hk := exec_kept c { s with pending := cs }
  rw [hs] at hk
  exact Prod.mk.inj hk

end Sys2Proof.Machine

namespace Sys2Proof.Machine

/-! SUPPORT. What the machine holds after reset, store by store (R64, R82, R84, R114, R163, R186, R277, R291, R301, R306, R310, R446, R457). -/

/-- Bank 0 runs, and the other banks are FREE; every register of a bank is 0 (R291, R306). -/
theorem reset_bank (k : BankNum) : State.reset.banks[k] = { st := if k = 0 then .run else .free } := by
  match k with
  | 0 | 1 | 2 | 3 => rfl

/-- Every tile is as R64 leaves it on a Marsor-1024. -/
theorem reset_tile (k : TReg) : State.reset.tiles[k] = { rowsm1 := 0x3FF, rbm1 := 0xF } := Vector.getElem_replicate k.isLt

theorem reset_queue (q : QNum) : State.reset.sq[q] = {} := Vector.getElem_replicate q.isLt

theorem reset_ring (w : RingNum) : State.reset.rings[w] = {} := Vector.getElem_replicate w.isLt

theorem reset_scribe (k : ScribeNum) : State.reset.scribes[k] = {} := Vector.getElem_replicate k.isLt

theorem reset_tally (u : TallyNum) : State.reset.tal[u] = {} := Vector.getElem_replicate u.isLt

theorem reset_dom (d : Fin 32) : State.reset.dom[d] = {} := Vector.getElem_replicate d.isLt

theorem reset_mailboxes (k : BoxNum) : State.reset.qu.h2q[k] = [] ∧ State.reset.qu.q2h[k] = [] :=
  ⟨Vector.getElem_replicate k.isLt, Vector.getElem_replicate k.isLt⟩

/-- HELDOFF names every domain that a Marsor-1024 has, and no other (R443, R446). -/
theorem reset_heldOff (d : Fin 32) : State.reset.heldOff.getLsbD d.val = domPresent State.reset.var d := by
  revert d
  decide

theorem reset_parts_canonical : PartsCanonical State.reset := by
  refine ⟨fun k => ?_, fun k => ?_, fun k => ?_, rfl, fun u => ?_⟩
  · rw [reset_tile]
    exact ⟨rfl, rfl⟩
  · rw [(reset_mailboxes k).1, (reset_mailboxes k).2]
    exact ⟨rfl, rfl⟩
  · rw [reset_scribe]
    rfl
  · rw [reset_tally]
    exact ⟨rfl, rfl⟩

theorem reset_flags_legal : FlagsLegal State.reset := by
  refine ⟨fun k => ?_, fun _ h => ?_, fun _ h => ?_⟩
  · simp only [reset_bank]
    rfl
  · cases h
  · cases h

theorem reset_shadowStacks_aligned : ShadowStacksAligned State.reset := by
  intro k
  simp only [reset_bank]
  rfl

/-- No operation and no command is accepted at reset. -/
theorem reset_numbered : OpsNumbered State.reset ∧ CommandsNumbered State.reset :=
  ⟨⟨List.nodup_nil, fun _ h => nomatch h⟩, List.nodup_nil, fun _ h => nomatch h⟩

/-- Settles O3: each field is the value that reset gives it, the arrays element by element. -/
theorem resetLeavesTheSpecValues : Obligations.ResetLeavesTheSpecValues := by
  unfold Obligations.ResetLeavesTheSpecValues
  refine ⟨⟨fun k => ?bank, rfl, rfl, rfl, rfl, rfl, rfl, rfl, rfl, rfl, rfl, rfl, rfl, rfl, rfl, rfl, fun k => ?tile, rfl, ?board, fun q => ?queue,
    fun w => ?ring, fun u => ?tally, rfl, rfl, rfl, rfl, rfl, rfl, rfl, rfl, rfl, rfl, rfl, rfl, rfl, rfl, rfl, rfl, fun d => ?dom⟩,
    reset_stores_canonical, reset_parts_canonical, reset_numbered.1, reset_numbered.2, reset_flags_legal, reset_shadowStacks_aligned⟩
  case bank => simp only [reset_bank, and_self]
  case tile => simp only [reset_tile, true_and]; exact fun r => ⟨rfl, rfl⟩
  case board => decide
  case queue => simp only [reset_queue, and_self]
  case ring => simp only [reset_ring, and_self]
  case tally => simp only [reset_tally, and_self]
  case dom => exact ⟨by rw [reset_dom], reset_heldOff d⟩
end Sys2Proof.Machine

namespace Sys2Proof.Machine

/-! SUPPORT. What the operations on memory, the records and the wake requests leave as it was: equations between whole states, in which only the
named fields differ, and the pending vectors, of which a record only adds some. -/

/-! ### Pending vectors -/

/-- Every vector that is pending stays pending (R280). -/
def keepsPending (s t : State) : Prop := ∀ v : Byte, isPending s v = true → isPending t v = true

theorem keepsPending_refl (s : State) : keepsPending s s := fun _ h => h

theorem keepsPending_trans {s t u : State} (h1 : keepsPending s t) (h2 : keepsPending t u) : keepsPending s u := fun v h => h2 v (h1 v h)

/-- A vector is pending by its stored bit or by its input alone. -/
theorem keepsPending_of_eq {s t : State} (hi : t.win.intIn = s.win.intIn) (hp : t.c.ipend = s.c.ipend) : keepsPending s t := by
  intro v h
  simpa only [isPending, ipendWord, hi, hp] using h

theorem getLsbD_place (w v lo i : Nat) : (place w v lo).getLsbD i = (decide (i < w) && decide (lo ≤ i) && v.testBit (i - lo)) := by
  simp [place, BitVec.getLsbD_ofNat, Nat.testBit_shiftLeft, Bool.and_assoc]

theorem getLsbD_maskBits (w hi lo i : Nat) : (maskBits w hi lo).getLsbD i = (decide (i < w) && decide (lo ≤ i) && decide (i - lo < hi + 1 - lo)) := by
  rw [maskBits, BitVec.getLsbD_ofNat, Nat.testBit_shiftLeft, Nat.testBit_two_pow_sub_one, Bool.and_assoc]

/-- The bits of a register after a field of it is replaced. -/
theorem bit_setField {w : Nat} (x : BitVec w) (hi lo v i : Nat) :
    bit (setField x hi lo v) i =
      if lo ≤ i ∧ i < hi + 1 ∧ i < w then v.testBit (i - lo) else bit x i := by
  simp only [bit, setField, BitVec.getLsbD_or, BitVec.getLsbD_and, BitVec.getLsbD_not, getLsbD_place, getLsbD_maskBits, Nat.testBit_mod_two_pow]
  by_cases hw : i < w
  · by_cases h1 : lo ≤ i
    · by_cases h2 : i < hi + 1
      · simp only [hw, h1, h2, show i - lo < hi + 1 - lo by omega]
        simp
      · simp only [hw, h1, h2, show ¬ i - lo < hi + 1 - lo by omega]
        simp
    · simp only [hw, h1]
      simp
  · simp only [hw, BitVec.getLsbD_of_ge x i (by omega)]
    simp

/-- The bits of a register after one of them is replaced. -/
theorem bit_setBit {w : Nat} (x : BitVec w) (i j : Nat) (b : Bool) : bit (setBit x i b) j = if j = i ∧ j < w then b else bit x j := by
  rw [setBit, bit_setField]
  by_cases h : j = i
  · subst h
    cases b <;> simp
  · rw [if_neg (by omega), if_neg (by omega)]

/-- Making a vector pending sets one stored bit (R280). -/
theorem bit_setPending_ipend (s : State) (v : Byte) (j : Fin 4) (i : Nat) :
    bit (setPending s v true).c.ipend[j] i = (bit s.c.ipend[j] i || decide (64 * j.val + i = v.toNat ∧ i < 64)) := by
  have hset : (setPending s v true).c.ipend[j] =
      if v.toNat / 64 = j.val then setBit s.c.ipend[j] (v.toNat % 64) true else s.c.ipend[j] := by
    have hv : (Fin.ofNat 4 (v.toNat / 64)).val = v.toNat / 64 := Nat.mod_eq_of_lt (by omega)
    simp only [setPending, Fin.getElem_fin, Vector.getElem_set, hv]
    split
    · next h => simp only [h]
    · rfl
  rw [hset]
  split
  · rw [bit_setBit]
    by_cases h : i = v.toNat % 64
    · rw [if_pos (by omega), decide_eq_true (by omega), Bool.or_true]
    · rw [if_neg (by omega), decide_eq_false (by omega), Bool.or_false]
  · rw [decide_eq_false (by omega), Bool.or_false]

/-- Making a vector pending makes no other one less so. -/
theorem setPending_keepsPending (s : State) (v : Byte) : keepsPending s (setPending s v true) := by
  intro u h
  simp only [isPending, ipendWord] at h ⊢
  split
  · next hj => rwa [if_pos hj] at h
  · next hj =>
    rw [if_neg hj] at h
    simp only [bit, BitVec.getLsbD_and, Bool.and_eq_true] at h ⊢
    refine ⟨?_, h.2⟩
    rw [← bit, bit_setPending_ipend, bit, h.1, Bool.true_or]

/-- A vector that exists and has no wired input is pending once it is made so. -/
theorem isPending_setPending {s : State} {v : Byte} (hw : v.toNat / 64 ≠ 1) (hm : bit (ipendMask (Fin.ofNat 4 (v.toNat / 64))) (v.toNat % 64) = true) :
    isPending (setPending s v true) v = true := by
  have hv : (Fin.ofNat 4 (v.toNat / 64)).val = v.toNat / 64 := Nat.mod_eq_of_lt (by omega)
  have hj : Fin.ofNat 4 (v.toNat / 64) ≠ 1 := fun h => hw (by rw [← hv, h]; rfl)
  have hb := bit_setPending_ipend s v (Fin.ofNat 4 (v.toNat / 64)) (v.toNat % 64)
  rw [decide_eq_true (by omega), Bool.or_true] at hb
  rw [bit] at hb hm
  rw [isPending, ipendWord, if_neg hj, bit, BitVec.getLsbD_and, hb, hm]
  rfl

/-! ### Records -/

/-- Every domain that runs and stays so is as it was: a wake request does not touch it (R28). -/
def keepsRunning (s t : State) : Prop := ∀ d : Fin 32, s.dom[d].st = .run → s.dom[d].goal = none → t.dom[d] = s.dom[d]

/-- No pending vector less, and no running domain changed. -/
def steady (s t : State) : Prop := keepsPending s t ∧ keepsRunning s t

theorem steady_refl (s : State) : steady s s := ⟨keepsPending_refl s, fun _ _ _ => rfl⟩

theorem steady_trans {s t u : State} (h1 : steady s t) (h2 : steady t u) : steady s u := by
  obtain ⟨p1, d1⟩ := h1
  obtain ⟨p2, d2⟩ := h2
  refine ⟨keepsPending_trans p1 p2, fun d hr hg => ?_⟩
  have h := d1 d hr hg
  rw [d2 d (by rw [h]; exact hr) (by rw [h]; exact hg), h]

/-- A domain that runs, and stays so, is not asleep (R28). -/
theorem not_asleep_of_run {s : State} {d : Fin 32} (hr : s.dom[d].st = .run) (hg : s.dom[d].goal = none) : domUse s d ≠ .asleep := by
  unfold domUse
  split
  · exact nofun
  · rw [if_pos ⟨hr, hg⟩]
    exact nofun

/-- A change of a domain that is asleep changes no running domain. -/
theorem keepsRunning_setDom {s : State} {d : Fin 32} (h : domUse s d = .asleep) (x : Dom) : keepsRunning s (setDom s d x) := by
  intro e hr hg
  by_cases he : d = e
  · exact absurd (he ▸ h) (not_asleep_of_run hr hg)
  · simp [setDom, Fin.val_inj, he]

theorem setDom_steady {s : State} {d : Fin 32} (h : domUse s d = .asleep) (x : Dom) : steady s (setDom s d x) :=
  ⟨keepsPending_of_eq rfl rfl, keepsRunning_setDom h x⟩

/-- What posting a record and making vectors pending does: the named fields, no pending vector less, and no running domain changed. -/
def noted (s t : State) : Prop := recordOnly s t ∧ steady s t

theorem noted_refl (s : State) : noted s s := ⟨rfl, steady_refl s⟩

theorem noted_trans {s t u : State} (h1 : noted s t) (h2 : noted t u) : noted s u := by
  obtain ⟨e1, p1⟩ := h1
  obtain ⟨e2, p2⟩ := h2
  refine ⟨?_, steady_trans p1 p2⟩
  unfold recordOnly at *
  rw [e2, e1]

theorem noted_foldl {α : Type} (f : State → α → State) (hf : ∀ s a, noted s (f s a)) (l : List α) (s : State) : noted s (l.foldl f s) :=
  foldl_keeps (noted s) f (fun _ _ h => noted_trans h (hf _ _)) l s (noted_refl s)

/-- A change of the named fields that leaves the stored pending bits and the domains. -/
theorem noted_of_eq {s t : State} (h : recordOnly s t) (hp : t.c.ipend = s.c.ipend) (hd : t.dom = s.dom) : noted s t :=
  ⟨h, keepsPending_of_eq (congrArg (·.win.intIn) (show t = _ from h)) hp, fun d _ _ => by rw [hd]⟩

theorem noted_ite {s t u : State} {p : Prop} [Decidable p] (h1 : noted s t) (h2 : noted s u) : noted s (if p then t else u) := by
  split
  · exact h1
  · exact h2

theorem wakeRequest_noted (s : State) (d : Fin 32) : noted s (wakeRequest s d) := by
  unfold wakeRequest
  split
  · next h =>
    have h1 : noted s (setDom s d (domWake s.dom[d])) := ⟨rfl, setDom_steady h _⟩
    dsimp only
    split
    · next h2 => exact noted_trans h1 ⟨rfl, setDom_steady h2 _⟩
    · exact h1
  · exact noted_refl s

theorem pend_noted (s : State) (v : Byte) : noted s (pend s v) :=
  noted_trans (t := setPending s v true) ⟨rfl, setPending_keepsPending s v, fun _ _ _ => rfl⟩ (wakeRequest_noted _ _)

theorem noteCheck_noted (s : State) (unit : Byte) (sev : Nat) (loc : W64) : noted s (noteCheck s unit sev loc) := by
  unfold noteCheck
  exact noted_ite (noted_refl s) (noted_ite (noted_of_eq rfl rfl rfl) (noted_ite (noted_of_eq rfl rfl rfl) (noted_refl s)))

theorem driveLine_noted (s : State) (sev : Nat) : noted s (driveLine s sev) := by
  unfold driveLine
  refine noted_trans ?_ (pend_noted _ _)
  exact noted_of_eq rfl rfl rfl

theorem setErrLast_noted (s : State) (r : BitVec 256) : noted s (setErrLast s r) := noted_of_eq rfl rfl rfl

theorem postRecord_noted (s : State) (cls unit : Byte) (sev : BitVec 2) (loc : W64) (synd : BitVec 24) (inj : Bool) (extra : BitVec 16) :
    noted s (postRecord s cls unit sev loc synd inj extra) := by
  unfold postRecord
  dsimp only
  split
  · refine noted_trans (noted_trans (noted_trans ?_ (setErrLast_noted _ _)) (noteCheck_noted _ _ _ _)) (driveLine_noted _ _)
    exact noted_of_eq rfl rfl rfl
  · refine noted_trans (noted_trans (noted_trans (noted_ite ?_ ?_) (setErrLast_noted _ _)) (noteCheck_noted _ _ _ _)) (driveLine_noted _ _)
    · exact noted_of_eq rfl rfl rfl
    · exact noted_of_eq rfl rfl rfl

theorem clearSpot_noted (s : State) (unit : Byte) (loc : Nat) : noted s (clearSpot s unit loc) := noted_of_eq rfl rfl rfl

theorem meetSingle_noted (s : State) (unit : Byte) (spot loc : Nat) : noted s (meetSingle s unit spot loc) := by
  unfold meetSingle
  exact noted_ite (noted_trans (clearSpot_noted _ _ _) (postRecord_noted _ _ _ _ _ _ _ _)) (noted_refl s)

theorem windowMeet_noted (s : State) (off n : Nat) : noted s (windowMeet s off n) := noted_foldl _ (fun _ _ => postRecord_noted _ _ _ _ _ _ _ _) _ _

/-! ### Reads -/

/-- What the checks of a read may change: the caches, and what a record touches (R162, R227). -/
def readOnly (s t : State) : Prop :=
  t = { s with
    ca := t.ca, err := t.err, dom := t.dom, freeCtr := t.freeCtr
    c := { s.c with errlast := t.c.errlast, ipend := t.c.ipend, l2Check := t.c.l2Check, l1dCheck := t.c.l1dCheck } } ∧
  steady s t

theorem readOnly_refl (s : State) : readOnly s s := ⟨rfl, steady_refl s⟩

theorem readOnly_trans {s t u : State} (h1 : readOnly s t) (h2 : readOnly t u) : readOnly s u := by
  obtain ⟨e1, p1⟩ := h1
  obtain ⟨e2, p2⟩ := h2
  refine ⟨?_, steady_trans p1 p2⟩
  rw [e2, e1]

theorem noted.readOnly {s t : State} (h : noted s t) : readOnly s t := by
  obtain ⟨e, p⟩ := h
  refine ⟨?_, p⟩
  unfold recordOnly at e
  rw [e]

/-- A change of the caches alone. -/
theorem readOnly_ca (s : State) (ca : Caches) : readOnly s { s with ca := ca } := ⟨rfl, steady_refl s⟩

theorem readOnly_foldl {α : Type} (f : State → α → State) (hf : ∀ s a, readOnly s (f s a)) (l : List α) (s : State) : readOnly s (l.foldl f s) :=
  foldl_keeps (readOnly s) f (fun _ _ h => readOnly_trans h (hf _ _)) l s (readOnly_refl s)

theorem discardLine_readOnly (s : State) (la : BitVec 50) : readOnly s (discardLine s la) := by
  unfold discardLine dropInner
  dsimp only
  split
  · split
    · exact readOnly_ca s _
    · exact readOnly_ca s _
  · split
    · exact readOnly_ca s _
    · exact readOnly_ca s _

theorem doubleBitL2_readOnly (s : State) (k : Nat) : readOnly s (doubleBitL2 s k) := by
  unfold doubleBitL2
  split
  · exact readOnly_refl s
  · split
    · exact readOnly_ca s _
    · exact discardLine_readOnly s _

theorem meetL2_readOnly (s : State) (k d : Nat) : readOnly s (meetL2 s k d) := by
  unfold meetL2
  split
  · exact readOnly_trans (readOnly_trans (clearSpot_noted _ _ _).readOnly (doubleBitL2_readOnly _ _)) (postRecord_noted _ _ _ _ _ _ _ _).readOnly
  · exact (meetSingle_noted _ _ _ _).readOnly

theorem meetSpots_readOnly (s : State) (coh : Bool) (pa n : Nat) : readOnly s (meetSpots s coh pa n) := by
  unfold meetSpots
  split
  · exact readOnly_refl s
  · split
    · exact readOnly_foldl _ (fun _ _ => (meetSingle_noted _ _ _ _).readOnly) _ _
    · split
      · refine readOnly_foldl _ (fun s w => ?_) _ _
        split
        · exact meetL2_readOnly _ _ _
        · exact readOnly_refl s
      · exact readOnly_refl s

theorem postLine_noted (s : State) (coh : Bool) (pa : Nat) (la : BitVec 50) : noted s (postLine s coh pa la) := by
  unfold postLine
  split
  · exact postRecord_noted _ _ _ _ _ _ _ _
  · exact postRecord_noted _ _ _ _ _ _ _ _

theorem postBad_noted (s : State) (coh : Bool) (pa n : Nat) : noted s (postBad s coh pa n) := by
  unfold postBad
  exact noted_ite (noted_foldl _ (fun _ _ => postRecord_noted _ _ _ _ _ _ _ _) _ _) (noted_foldl _ (fun _ _ => postLine_noted _ _ _ _) _ _)

theorem readCheck_readOnly (s : State) (coh : Bool) (pa n : Nat) : readOnly s (readCheck s coh pa n).1 := by
  unfold readCheck
  dsimp only
  split
  · exact meetSpots_readOnly s coh pa n
  · exact readOnly_trans (meetSpots_readOnly s coh pa n) (postBad_noted _ _ _ _).readOnly

theorem mirCheck_readOnly (s : State) (pa n : Nat) : readOnly s (mirCheck s pa n).1 := readCheck_readOnly s true pa n

/-! ### Writes -/

/-- What a write of memory by an agent of the core may change (R162, R170, R350, R418). -/
def writeOnly (s t : State) : Prop :=
  t = { s with
    ca := t.ca, mem := t.mem, memBad := t.memBad, vellum := t.vellum, vellumBad := t.vellumBad, port := t.port
    err := t.err, dom := t.dom, freeCtr := t.freeCtr
    c := { s.c with
      errlast := t.c.errlast, ipend := t.c.ipend, l2Check := t.c.l2Check, l1dCheck := t.c.l1dCheck, errinj := t.c.errinj } }

theorem writeOnly_refl (s : State) : writeOnly s s := rfl

theorem writeOnly_trans {s t u : State} (h1 : writeOnly s t) (h2 : writeOnly t u) : writeOnly s u := by
  unfold writeOnly at *
  rw [h2, h1]

theorem writeOnly_ite {s t u : State} {p : Prop} [Decidable p] (h1 : writeOnly s t) (h2 : writeOnly s u) : writeOnly s (if p then t else u) := by
  split
  · exact h1
  · exact h2

theorem writeOnly_foldl {α : Type} (f : State → α → State) (hf : ∀ s a, writeOnly s (f s a)) (l : List α) (s : State) : writeOnly s (l.foldl f s) :=
  foldl_keeps (writeOnly s) f (fun _ _ h => writeOnly_trans h (hf _ _)) l s (writeOnly_refl s)

theorem noted.writeOnly {s t : State} (h : noted s t) : writeOnly s t := by
  have e := h.1
  unfold recordOnly at e
  rw [Machine.writeOnly, e]

theorem readOnly.writeOnly {s t : State} (h : readOnly s t) : writeOnly s t := by
  rw [Machine.writeOnly, h.1]

theorem injVellum_writeOnly (s : State) (o n : Nat) : writeOnly s (injVellum s o n) := by
  unfold injVellum
  exact writeOnly_ite (writeOnly_ite rfl rfl) rfl

theorem writeVellum_writeOnly (s : State) (o : Nat) (bs : List Byte) : writeOnly s (writeVellum s o bs) := by
  refine writeOnly_trans ?_ (injVellum_writeOnly _ _ _)
  rfl

theorem writeMem_writeOnly (s : State) (pa : Nat) (bs : List Byte) : writeOnly s (writeMem s pa bs) := rfl

theorem putMemLine_writeOnly (s : State) (la : BitVec 50) (p : Bool) (d : LineWord) : writeOnly s (putMemLine s la p d) := by
  have h := writeMem_writeOnly s (64 * la.toNat) ((List.range 64).map (lineByte d))
  unfold putMemLine
  dsimp only
  generalize writeMem s (64 * la.toNat) ((List.range 64).map (lineByte d)) = x at h ⊢
  refine writeOnly_ite (writeOnly_trans h ?_) h
  rfl

theorem clearSpot_writeOnly (s : State) (unit : Byte) (loc : Nat) : writeOnly s (clearSpot s unit loc) := rfl

theorem setL2Line_writeOnly (s : State) (k : Nat) (l : L2Line) (dws : List Nat) : writeOnly s (setL2Line s k l dws) := by
  unfold setL2Line
  dsimp only
  have h : ∀ t, writeOnly s t → writeOnly s (if t.err.spots.isEmpty = true then t else dws.foldl (fun s d => clearSpot s 0x04 (l2Loc k d)) t) :=
    fun t ht => writeOnly_ite ht (writeOnly_trans ht (writeOnly_foldl _ (fun _ _ => clearSpot_writeOnly _ _ _) _ _))
  have h1 := h { s with ca := { s.ca with l2 := spSet none s.ca.l2 k (some l) } } rfl
  split
  · exact h1
  · exact writeOnly_trans h1 (writeOnly_ite rfl rfl)

theorem flushL1d_writeOnly (s : State) (la : BitVec 50) : writeOnly s (flushL1d s la) := by
  unfold flushL1d
  split
  · rfl
  · dsimp only
    refine writeOnly_ite ?_ rfl
    split
    · refine writeOnly_trans ?_ (setL2Line_writeOnly _ _ _ _)
      rfl
    · refine writeOnly_trans ?_ (putMemLine_writeOnly _ _ _ _)
      rfl

theorem dropInner_writeOnly (s : State) (la : BitVec 50) : writeOnly s (dropInner s la) := rfl

theorem evictL2_writeOnly (s : State) (la : BitVec 50) : writeOnly s (evictL2 s la) := by
  unfold evictL2
  dsimp only
  refine writeOnly_trans (writeOnly_trans (flushL1d_writeOnly s la) (dropInner_writeOnly _ la)) ?_
  generalize dropInner (flushL1d s la) la = x
  split
  · rfl
  · refine writeOnly_ite ?_ rfl
    refine writeOnly_trans ?_ (putMemLine_writeOnly _ _ _ _)
    rfl

theorem touchL2_writeOnly (s : State) (k : Nat) : writeOnly s (touchL2 s k) := rfl

theorem writeLine_writeOnly (s : State) (pa : Nat) (bs : List Byte) : writeOnly s (writeLine s pa bs) := by
  unfold writeLine
  dsimp only
  refine writeOnly_trans (writeOnly_trans (flushL1d_writeOnly s (lineNo pa)) (dropInner_writeOnly _ (lineNo pa))) ?_
  generalize dropInner (flushL1d s (lineNo pa)) (lineNo pa) = x
  split
  · exact writeOnly_trans (setL2Line_writeOnly _ _ _ _) (touchL2_writeOnly _ _)
  · exact writeMem_writeOnly _ _ _

theorem cohWrite_writeOnly (s : State) (pa : Nat) (bs : List Byte) : writeOnly s (cohWrite s pa bs) := by
  unfold cohWrite
  exact writeOnly_foldl _ (fun _ _ => writeOnly_ite (writeVellum_writeOnly _ _ _) (writeLine_writeOnly _ _ _)) _ _

theorem rawWrite_writeOnly (s : State) (pa : Nat) (bs : List Byte) : writeOnly s (rawWrite s pa bs) :=
  writeOnly_ite (writeVellum_writeOnly _ _ _) rfl

theorem typedWrite_writeOnly (s : State) (ag : Agent) (ty : MType) (pa : Nat) (bs : List Byte) : writeOnly s (typedWrite s ag ty pa bs) :=
  writeOnly_ite (writeOnly_trans (writeOnly_foldl _ evictL2_writeOnly _ _) (rawWrite_writeOnly _ _ _))
    (writeOnly_ite (cohWrite_writeOnly _ _ _) (rawWrite_writeOnly _ _ _))

/-- What setting and clearing map bits may change: the vellum alone (R347). -/
def vellumOnly (s t : State) : Prop := t = { s with vellum := t.vellum }

theorem vellumOnly_trans {s t u : State} (h1 : vellumOnly s t) (h2 : vellumOnly t u) : vellumOnly s u := by
  unfold vellumOnly at *
  rw [h2, h1]

theorem vellumOnly_foldl {α : Type} (f : State → α → State) (hf : ∀ s a, vellumOnly s (f s a)) (l : List α) (s : State) : vellumOnly s (l.foldl f s) :=
  foldl_keeps (vellumOnly s) f (fun _ _ h => vellumOnly_trans h (hf _ _)) l s rfl

theorem vellumOnly.writeOnly {s t : State} (h : vellumOnly s t) : writeOnly s t := by
  unfold vellumOnly at h
  rw [Machine.writeOnly, h]

theorem setMapBit_vellumOnly (s : State) (gen v : Bool) (g : Nat) : vellumOnly s (setMapBit s gen v g) := rfl

theorem markDirty_vellumOnly (s : State) (pa n : Nat) : vellumOnly s (markDirty s pa n) := by
  unfold markDirty
  split
  · exact vellumOnly_foldl _ (fun _ _ => vellumOnly_trans (setMapBit_vellumOnly _ _ _ _) (setMapBit_vellumOnly _ _ _ _)) _ _
  · rfl

theorem meetMerge_noted (s : State) (o n : Nat) : noted s (meetMerge s o n) :=
  noted_foldl _ (fun _ _ => noted_ite (postRecord_noted _ _ _ _ _ _ _ _) (meetSingle_noted _ _ _ _)) _ _

theorem notePort_writeOnly (s : State) (ag : Agent) (p : PortNum) : writeOnly s (notePort s ag p) := rfl

theorem noteFabricWrite_writeOnly (s : State) (ag : Agent) (pa n : Nat) : writeOnly s (noteFabricWrite s ag pa n) :=
  writeOnly_foldl _ (fun _ _ => notePort_writeOnly _ _ _) _ _

theorem agentWrite_writeOnly (s : State) (ag : Agent) (ty : MType) (pa : Nat) (bs : List Byte) : writeOnly s (agentWrite s ag ty pa bs) := by
  unfold agentWrite
  dsimp only
  have h0 : writeOnly s (if inVellum s pa = true then meetMerge s (vOff s pa) bs.length else s) :=
    writeOnly_ite (meetMerge_noted _ _ _).writeOnly (writeOnly_refl s)
  have h1 := writeOnly_trans (writeOnly_trans h0 (typedWrite_writeOnly _ ag ty pa bs)) (markDirty_vellumOnly _ pa bs.length).writeOnly
  exact writeOnly_ite (writeOnly_trans h1 (noteFabricWrite_writeOnly _ _ _ _)) h1

end Sys2Proof.Machine

namespace Sys2Proof.Machine

/-! SUPPORT. What the end of a command of the quill and an event for the general core leave as they were (R372, R381, R385). -/

/-- What the end of a command may change: the quill's own state, and what a record touches. -/
def quillOnly (s t : State) : Prop :=
  t = { s with
    qu := t.qu, err := t.err, dom := t.dom, freeCtr := t.freeCtr
    c := { s.c with errlast := t.c.errlast, ipend := t.c.ipend, l2Check := t.c.l2Check, l1dCheck := t.c.l1dCheck } } ∧
  steady s t

theorem quillOnly_refl (s : State) : quillOnly s s := ⟨rfl, steady_refl s⟩

theorem quillOnly_trans {s t u : State} (h1 : quillOnly s t) (h2 : quillOnly t u) : quillOnly s u := by
  obtain ⟨e1, p1⟩ := h1
  obtain ⟨e2, p2⟩ := h2
  refine ⟨?_, steady_trans p1 p2⟩
  rw [e2, e1]

theorem noted.quillOnly {s t : State} (h : noted s t) : quillOnly s t := by
  obtain ⟨e, p⟩ := h
  refine ⟨?_, p⟩
  unfold recordOnly at e
  rw [e]

theorem setQu_quillOnly (s : State) (q : Quill) : quillOnly s (setQu s q) := ⟨rfl, steady_refl s⟩

theorem meetEntry_noted (s : State) (i : BitVec 10) : noted s (meetEntry s i) := noted_ite (windowMeet_noted _ _ _) (noted_refl s)

theorem endEntry_quillOnly (s : State) (r : Req) (st det : Byte) (replay : Bool) : quillOnly s (endEntry s r st det replay) := by
  unfold endEntry
  split
  · exact quillOnly_trans (meetEntry_noted _ _).quillOnly (setQu_quillOnly _ _)
  · exact quillOnly_refl s

theorem postMsg_quillOnly (s : State) (k : BoxNum) (m : List Byte) : quillOnly s (postMsg s k m) := by
  unfold postMsg
  split
  · exact setQu_quillOnly _ _
  · exact setQu_quillOnly _ _

theorem complete_quillOnly (s : State) (id : Nat) (st det : Byte) (res : List Byte) : quillOnly s (complete s id st det res) := by
  unfold complete
  split
  · split
    · exact quillOnly_refl s
    · dsimp only
      split
      · exact quillOnly_trans (setQu_quillOnly _ _) (endEntry_quillOnly _ _ _ _ _)
      · exact quillOnly_trans (quillOnly_trans (setQu_quillOnly _ _) (endEntry_quillOnly _ _ _ _ _)) (postMsg_quillOnly _ _ _)
  · exact quillOnly_refl s

/-- The general, vector and mask registers of every bank are as they were. -/
def keepsRegs (s t : State) : Prop := ∀ k : BankNum, t.banks[k].g = s.banks[k].g ∧ t.banks[k].v = s.banks[k].v ∧ t.banks[k].m = s.banks[k].m

theorem keepsRegs_of_eq {s t : State} (h : t.banks = s.banks) : keepsRegs s t := by
  intro k
  rw [h]
  exact ⟨rfl, rfl, rfl⟩

theorem keepsRegs_trans {s t u : State} (h1 : keepsRegs s t) (h2 : keepsRegs t u) : keepsRegs s u := fun k =>
  ⟨(h2 k).1.trans (h1 k).1, (h2 k).2.1.trans (h1 k).2.1, (h2 k).2.2.trans (h1 k).2.2⟩

/-- A bank whose registers are those of the bank that it replaces. -/
theorem keepsRegs_setBank (s : State) (j : BankNum) (b : Bank) (hg : b.g = s.banks[j].g) (hv : b.v = s.banks[j].v) (hm : b.m = s.banks[j].m) :
    keepsRegs s (setBank s j b) := by
  intro k
  simp only [setBank, Fin.getElem_fin, Vector.getElem_set]
  split
  · next h =>
    obtain rfl : j = k := Fin.ext h
    exact ⟨hg, hv, hm⟩
  · exact ⟨rfl, rfl, rfl⟩

/-- A bank event changes at most the bank's state and event bits (R302). -/
theorem postEvent_cases (s : State) (k : BankNum) (e : BankEvent) :
    postEvent s k e = s ∨ ∃ b : Bank, postEvent s k e = setBank s k b ∧ b.g = s.banks[k].g ∧ b.v = s.banks[k].v ∧ b.m = s.banks[k].m := by
  have hw (b : Bank) (p : Prop) [Decidable p] :
      (if p then wakeBank b .ready else b).g = b.g ∧ (if p then wakeBank b .ready else b).v = b.v ∧ (if p then wakeBank b .ready else b).m = b.m := by
    split
    · exact ⟨rfl, rfl, rfl⟩
    · exact ⟨rfl, rfl, rfl⟩
  unfold postEvent
  dsimp only
  split
  · exact .inl rfl
  · cases e with
    | sev | bev | mev => exact .inr ⟨_, rfl, hw _ _⟩

/-- What an event of the quill may change (R302, R381). -/
def eventOnly (s t : State) : Prop :=
  t = { s with
    banks := t.banks, err := t.err, dom := t.dom, freeCtr := t.freeCtr
    c := { s.c with errlast := t.c.errlast, ipend := t.c.ipend, l2Check := t.c.l2Check, l1dCheck := t.c.l1dCheck, qevent := t.c.qevent } } ∧
  steady s t ∧ keepsRegs s t

theorem eventOnly_refl (s : State) : eventOnly s s := ⟨rfl, steady_refl s, keepsRegs_of_eq rfl⟩

theorem eventOnly_trans {s t u : State} (h1 : eventOnly s t) (h2 : eventOnly t u) : eventOnly s u := by
  obtain ⟨e1, p1, r1⟩ := h1
  obtain ⟨e2, p2, r2⟩ := h2
  refine ⟨?_, steady_trans p1 p2, keepsRegs_trans r1 r2⟩
  rw [e2, e1]

theorem noted.banks {s t : State} (h : noted s t) : t.banks = s.banks := by
  have e := h.1
  unfold recordOnly at e
  rw [e]

theorem noted.eventOnly {s t : State} (h : noted s t) : eventOnly s t := by
  refine ⟨?_, h.2, keepsRegs_of_eq h.banks⟩
  have e := h.1
  unfold recordOnly at e
  rw [e]

theorem postEvent_eventOnly (s : State) (k : BankNum) (e : BankEvent) : eventOnly s (postEvent s k e) := by
  obtain h | ⟨b, h, hg, hv, hm⟩ := postEvent_cases s k e
  · rw [h]
    exact eventOnly_refl s
  · rw [h]
    exact ⟨rfl, steady_refl s, keepsRegs_setBank s k b hg hv hm⟩

theorem qevent_eventOnly (s : State) (i : Nat) : eventOnly s (qevent s i) := by
  unfold qevent
  split
  · refine eventOnly_trans (eventOnly_trans (eventOnly_trans ?_ (pend_noted _ _).eventOnly) (postEvent_eventOnly _ _ _)) (wakeRequest_noted _ _).eventOnly
    exact ⟨rfl, steady_refl s, keepsRegs_of_eq rfl⟩
  · exact eventOnly_refl s

end Sys2Proof.Machine

namespace Sys2Proof.Machine

/-! SUPPORT. What the mirror engine's steps leave as it was: sending, the answer to a FREQ, a commit that goes on, is abandoned or ends, and the end of
a fetch (R352, R357, R361, R424, R425). -/

/-! ### Sending and the answer to a FREQ -/

/-- What sending on the partner port changes: the words sent and the credits (R424). -/
def sendOnly (s t : State) : Prop := t = setMir s { s.mir with out := t.mir.out, credits := t.mir.credits }

theorem sendOnly_refl (s : State) : sendOnly s s := rfl

theorem sendOnly_trans {s t u : State} (h1 : sendOnly s t) (h2 : sendOnly t u) : sendOnly s u := by
  unfold sendOnly at *
  rw [h2, h1]
  rfl

theorem emit_sendOnly (s : State) (w : PWord) (cost : Nat) : sendOnly s (emit s w cost) := rfl

theorem resendGranules_sendOnly : ∀ (l : List TxGran) (s : State), sendOnly s (resendGranules l s).2
  | [], s => sendOnly_refl s
  | t :: ts, s => by
    simp only [resendGranules]
    split
    · exact sendOnly_trans (emit_sendOnly s t.word 1) (resendGranules_sendOnly ts _)
    · exact resendGranules_sendOnly ts s

theorem pumpSend_sendOnly (record : List Byte) (x : Send) (s : State) : sendOnly s (pumpSend record x s).2 := by
  unfold pumpSend
  dsimp only
  split
  · exact sendOnly_trans (emit_sendOnly s _ 1) (resendGranules_sendOnly _ _)
  · exact resendGranules_sendOnly _ s

/-- What an answer to a FREQ and a FREQ that goes may change: the answer, the fetch, what is sent, and what the reads of the reserve meet; no byte of
memory, and no pending vector less (R424, R425). -/
def serveOnly (s t : State) : Prop :=
  t = { s with
    mir := { s.mir with serve := t.mir.serve, fetch := t.mir.fetch, out := t.mir.out, credits := t.mir.credits }
    ca := t.ca, err := t.err, dom := t.dom, freeCtr := t.freeCtr
    c := { s.c with errlast := t.c.errlast, ipend := t.c.ipend, l2Check := t.c.l2Check, l1dCheck := t.c.l1dCheck } } ∧
  steady s t

theorem serveOnly_refl (s : State) : serveOnly s s := ⟨rfl, steady_refl s⟩

theorem serveOnly_trans {s t u : State} (h1 : serveOnly s t) (h2 : serveOnly t u) : serveOnly s u := by
  obtain ⟨e1, p1⟩ := h1
  obtain ⟨e2, p2⟩ := h2
  refine ⟨?_, steady_trans p1 p2⟩
  rw [e2, e1]

theorem readOnly.serveOnly {s t : State} (h : readOnly s t) : serveOnly s t := by
  obtain ⟨e, p⟩ := h
  refine ⟨?_, p⟩
  rw [e]

theorem sendOnly.serveOnly {s t : State} (h : sendOnly s t) : serveOnly s t := by
  unfold sendOnly at h
  rw [h]
  exact ⟨rfl, steady_refl s⟩

theorem setServe_serveOnly (s : State) (x : Option (Send × List Nat)) : serveOnly s (setMir s { s.mir with serve := x }) :=
  ⟨rfl, steady_refl s⟩

theorem setFetch_serveOnly (s : State) (x : Option Fetch) : serveOnly s (setMir s { s.mir with fetch := x }) := ⟨rfl, steady_refl s⟩

theorem endServe_serveOnly (s : State) (st : BitVec 4) : serveOnly s (endServe s st) :=
  serveOnly_trans (emit_sendOnly s (.fend st) 0).serveOnly (setServe_serveOnly _ _)

/-- The state that a read of the mirror engine answers. -/
theorem mirCheck_answers {s s0 : State} {pa n : Nat} {bad : Bool} (h : mirCheck s pa n = (s0, bad)) : readOnly s s0 := by
  have hr := mirCheck_readOnly s pa n
  rwa [h] at hr

theorem serveCheck_serveOnly (s : State) (x : Send) (a : Nat) : serveOnly s (serveCheck s x a).1 := by
  unfold serveCheck
  split
  · exact (mirCheck_readOnly s a 128).serveOnly
  · exact serveOnly_refl s

theorem serveGranule_serveOnly (s : State) (x : Send) (n : List Nat) (g : Nat) (gs : List Nat) : serveOnly s (serveGranule s x n g gs).1 := by
  unfold serveGranule
  dsimp only
  split
  · next s0 heq => exact serveOnly_trans (mirCheck_answers heq).serveOnly (endServe_serveOnly _ _)
  · next s0 heq =>
    exact serveOnly_trans (serveOnly_trans (mirCheck_answers heq).serveOnly (emit_sendOnly s0 _ 1).serveOnly) (setServe_serveOnly _ _)

theorem advanceServe_serveOnly : ∀ (fuel : Nat) (s : State), serveOnly s (advanceServe fuel s)
  | 0, s => serveOnly_refl s
  | fuel + 1, s => by
    unfold advanceServe
    split
    · exact serveOnly_refl s
    · next x n _ =>
      dsimp only
      have hc := serveCheck_serveOnly s x (resvRecord s x.gen)
      split
      · next s0 heq =>
        rw [heq] at hc
        exact serveOnly_trans hc (endServe_serveOnly _ _)
      · next s0 heq =>
        rw [heq] at hc
        have hp := serveOnly_trans hc (pumpSend_sendOnly (cohRead s0 (resvRecord s x.gen) 128) x s0).serveOnly
        split
        · exact serveOnly_trans hp (endServe_serveOnly _ _)
        · split
          · next g gs _ =>
            split
            · have hg := serveGranule_serveOnly (pumpSend (cohRead s0 (resvRecord s x.gen) 128) x s0).2
                (pumpSend (cohRead s0 (resvRecord s x.gen) 128) x s0).1 n g gs
              split
              · next s1 heq1 =>
                rw [heq1] at hg
                exact serveOnly_trans (serveOnly_trans hp hg) (advanceServe_serveOnly fuel s1)
              · next s1 heq1 =>
                rw [heq1] at hg
                exact serveOnly_trans hp hg
            · exact serveOnly_trans hp (setServe_serveOnly _ _)
          · exact serveOnly_trans hp (setServe_serveOnly _ _)

theorem advanceFetch_serveOnly (s : State) : serveOnly s (advanceFetch s) := by
  unfold advanceFetch
  split
  · split
    · exact serveOnly_trans (emit_sendOnly s _ 0).serveOnly (setFetch_serveOnly _ _)
    · exact serveOnly_refl s
  · exact serveOnly_refl s

/-! ### A commit goes on -/

/-- Where no commit runs, a commit does not go on. -/
theorem advanceCommit_none {s : State} (h : s.mir.commit = none) : advanceCommit s = s := by
  unfold advanceCommit
  rw [h]

theorem advanceServe_none {s : State} (h : s.mir.serve = none) : ∀ fuel : Nat, advanceServe fuel s = s
  | 0 => rfl
  | fuel + 1 => by
    unfold advanceServe
    rw [h]

theorem advanceFetch_none {s : State} (h : s.mir.fetch = none) : advanceFetch s = s := by
  unfold advanceFetch
  rw [h]

/-- With no transfer, only a commit goes on. -/
theorem mirAdvance_noTransfer {s : State} (hs : s.mir.serve = none) (hf : s.mir.fetch = none) : mirAdvance s = advanceCommit s := by
  have h : (advanceCommit s).mir.serve = none ∧ (advanceCommit s).mir.fetch = none := by
    unfold advanceCommit
    split
    · exact ⟨hs, hf⟩
    · dsimp only
      rw [pumpSend_sendOnly (commitRecord s _) _ s]
      exact ⟨hs, hf⟩
  rw [mirAdvance, advanceServe_none h.1, advanceFetch_none h.2]

/-- With nothing running, nothing goes on. -/
theorem mirAdvance_idle {s : State} (hc : s.mir.commit = none) (hs : s.mir.serve = none) (hf : s.mir.fetch = none) : mirAdvance s = s := by
  rw [mirAdvance_noTransfer hs hf, advanceCommit_none hc]

/-- With no commit running, only the answer to a FREQ and a FREQ go on. -/
theorem mirAdvance_serveOnly {s : State} (h : s.mir.commit = none) : serveOnly s (mirAdvance s) := by
  rw [mirAdvance, advanceCommit_none h]
  exact serveOnly_trans (advanceServe_serveOnly 5 s) (advanceFetch_serveOnly _)

/-- What the mirror engine's going on may change. -/
def advanceOnly (s t : State) : Prop :=
  t = { s with
    mir := { s.mir with commit := t.mir.commit, st := t.mir.st, serve := t.mir.serve, fetch := t.mir.fetch, out := t.mir.out, credits := t.mir.credits }
    ca := t.ca, err := t.err, dom := t.dom, freeCtr := t.freeCtr
    c := { s.c with errlast := t.c.errlast, ipend := t.c.ipend, l2Check := t.c.l2Check, l1dCheck := t.c.l1dCheck } }

theorem mirAdvance_advanceOnly (s : State) : advanceOnly s (mirAdvance s) := by
  have h2 : serveOnly (advanceCommit s) (mirAdvance s) := serveOnly_trans (advanceServe_serveOnly 5 _) (advanceFetch_serveOnly _)
  have h1 : advanceOnly s (advanceCommit s) := by
    unfold advanceCommit
    split
    · rfl
    · dsimp only
      rw [pumpSend_sendOnly (commitRecord s _) _ s]
      rfl
  unfold advanceOnly at *
  rw [h2.1, h1]

end Sys2Proof.Machine

namespace Sys2Proof.Machine

/-! SUPPORT. The map bits, the writes that a commit holds, and what abandons and ends a commit, a fetch or a verify (R347, R350, R353, R357, R361). -/

/-! ### Map bits -/

/-- A fold whose steps keep P and what each of them sets: at the end everything that some step sets is set. -/
theorem foldl_sets {α : Type} (P : State → Prop) (Q : α → State → Prop) (f : State → α → State) (hP : ∀ s a, P s → P (f s a))
    (hset : ∀ s a, P s → Q a (f s a)) (hkeep : ∀ s a b, P s → Q b s → Q b (f s a)) : ∀ (l : List α) (s : State), P s → ∀ a ∈ l, Q a (l.foldl f s)
  | [], _, _, _, h => nomatch h
  | x :: l, s, hs, a, h => by
    rw [List.foldl_cons]
    obtain rfl | h := List.mem_cons.1 h
    · exact (foldl_keeps (fun t => P t ∧ Q a t) f (fun t y ht => ⟨hP t y ht.1, hkeep t y a ht.1 ht.2⟩) l _ ⟨hP s a hs, hset s a hs⟩).2
    · exact foldl_sets P Q f hP hset hkeep l _ (hP s x hs) a h

/-- The vellum is in canonical form. -/
def vellumWf (s : State) : Prop := Memory.wf s.vellum = true

theorem setMapBit_vellumWf {s : State} (h : vellumWf s) (gen v : Bool) (g : Nat) : vellumWf (setMapBit s gen v g) := spSet_wf h

theorem mapBit_setMapBit_same {s : State} (h : vellumWf s) (gen v : Bool) (g : Nat) : mapBit (setMapBit s gen v g) gen g = v := by
  have hb : spGet 0 (setMapBit s gen v g).vellum (mapByte s gen g) = setBit (spGet 0 s.vellum (mapByte s gen g)) (g % 8) v := spGet_set_same h
  rw [mapBit, show mapByte (setMapBit s gen v g) gen g = mapByte s gen g from rfl, hb, bit_setBit, if_pos ⟨rfl, Nat.mod_lt _ (by decide)⟩]

/-- Setting a map bit clears none. -/
theorem mapBit_setMapBit_true {s : State} (h : vellumWf s) (gen gen' : Bool) (g g' : Nat) (hb : mapBit s gen' g' = true) :
    mapBit (setMapBit s gen true g) gen' g' = true := by
  rw [mapBit, show mapByte (setMapBit s gen true g) gen' g' = mapByte s gen' g' from rfl]
  by_cases he : mapByte s gen' g' = mapByte s gen g
  · have hg : spGet 0 (setMapBit s gen true g).vellum (mapByte s gen g) = setBit (spGet 0 s.vellum (mapByte s gen g)) (g % 8) true := spGet_set_same h
    rw [mapBit, he] at hb
    rw [he, hg, bit_setBit]
    split
    · rfl
    · exact hb
  · have hg : spGet 0 (setMapBit s gen true g).vellum (mapByte s gen' g') = spGet 0 s.vellum (mapByte s gen' g') := spGet_set_other h he
    rw [hg]
    exact hb

/-- The map bits of granules set again, in one generation (R357). -/
def setMapBits (s : State) (gen : Bool) (l : List Nat) : State := l.foldl (fun s g => setMapBit s gen true g) s

theorem setMapBits_vellumOnly (s : State) (gen : Bool) (l : List Nat) : vellumOnly s (setMapBits s gen l) :=
  vellumOnly_foldl _ (fun _ _ => setMapBit_vellumOnly _ _ _ _) _ _

theorem mapBit_setMapBits {s : State} (h : vellumWf s) (gen : Bool) (l : List Nat) : ∀ g ∈ l, mapBit (setMapBits s gen l) gen g = true :=
  foldl_sets vellumWf (fun g t => mapBit t gen g = true) _ (fun _ g hs => setMapBit_vellumWf hs gen true g)
    (fun _ g hs => mapBit_setMapBit_same hs gen true g) (fun _ g _ hs hb => mapBit_setMapBit_true hs gen gen g _ hb) l s h

theorem setBothBits_vellumOnly (s : State) (l : List Nat) : vellumOnly s (setBothBits s l) :=
  vellumOnly_foldl _ (fun _ _ => vellumOnly_trans (setMapBit_vellumOnly _ _ _ _) (setMapBit_vellumOnly _ _ _ _)) _ _

theorem mapBit_setBothBits {s : State} (h : vellumWf s) (l : List Nat) (gen : Bool) : ∀ g ∈ l, mapBit (setBothBits s l) gen g = true := by
  have hwf : ∀ (t : State) (g : Nat), vellumWf t → vellumWf (setMapBit (setMapBit t false true g) true true g) :=
    fun t g ht => setMapBit_vellumWf (setMapBit_vellumWf ht _ _ _) _ _ _
  refine foldl_sets vellumWf (fun g t => mapBit t gen g = true) _ hwf (fun t g ht => ?_) (fun t g b ht hb => ?_) l s h
  · have h1 := setMapBit_vellumWf ht false true g
    cases gen with
    | true => exact mapBit_setMapBit_same h1 true true g
    | false => exact mapBit_setMapBit_true h1 true false g g (mapBit_setMapBit_same ht false true g)
  · exact mapBit_setMapBit_true (setMapBit_vellumWf ht _ _ _) true gen g b (mapBit_setMapBit_true ht false gen g b hb)

/-- A map bit lies in the vellum, at the place that MIRMAP gives. -/
theorem mapBit_congr {s t : State} (hv : t.vellum = s.vellum) (hm : t.mir.map = s.mir.map) (gen : Bool) (g : Nat) : mapBit t gen g = mapBit s gen g := by
  simp only [mapBit, mapByte, hv, hm]

/-! ### Held writes -/

/-- The writes that go on waiting for their granules (R353). -/
def stillHeld (s : State) : List HeldWrite := s.mir.held.filter fun h => !(heldGranules s h.pa.toNat h.bytes.length).isEmpty

/-- Releasing held writes performs the others. -/
theorem releaseHeld_writeOnly (s : State) : writeOnly (setMir s { s.mir with held := stillHeld s }) (releaseHeld s) := by
  have hp : (s.mir.held.partition fun h => (heldGranules s h.pa.toNat h.bytes.length).isEmpty).2 = stillHeld s := by
    rw [List.partition_eq_filter_filter]
    rfl
  rw [releaseHeld, ← hp]
  exact writeOnly_foldl _ (fun _ _ => agentWrite_writeOnly _ _ _ _ _) _ _

/-- With nothing held, nothing is released. -/
theorem releaseHeld_nothing {s : State} (h : s.mir.held = []) : releaseHeld s = s := by
  have hs : setMir s { s.mir with held := [] } = s := by rw [← h]; rfl
  rw [releaseHeld, h]
  exact hs

/-- Without a commit no write waits any more. -/
theorem stillHeld_noCommit {s : State} (h : s.mir.commit = none) : stillHeld s = [] := by
  simp [stillHeld, heldGranules, h]

/-! ### A commit is abandoned -/

theorem mirrorRecord_noted (s : State) (g : Option Nat) : noted s (mirrorRecord s g) := by
  unfold mirrorRecord freeClass draw
  dsimp only
  split
  · refine noted_trans ?_ (postRecord_noted _ _ _ _ _ _ _ _)
    exact noted_of_eq rfl rfl rfl
  · refine noted_trans ?_ (postRecord_noted _ _ _ _ _ _ _ _)
    exact noted_of_eq rfl rfl rfl

theorem abandonCommit_none {s : State} (h : s.mir.commit = none) (quiet : Bool) (g : Option Nat) : abandonCommit quiet g s = s := by
  unfold abandonCommit
  rw [h]

/-- ABORTS advanced; it saturates (R349). -/
def abortsNext (x : Byte) : Byte := if x = 0xFF then 0xFF else x + 1

/-- The mirror engine once a commit is abandoned. -/
def abandonedMir (s : State) : Mir := { s.mir with commit := none, st := restState s, failed := true, aborts := abortsNext s.mir.aborts, held := [] }

/-- The granules of a commit that are not acknowledged (R357). -/
def owedGranules (k : Commit) : List Nat := k.tx.todo ++ k.tx.unacked.map (·.g)

/-- A commit taken back: the bits of what is not acknowledged are set again, and its held writes are not yet released. -/
def disowned (s : State) (k : Commit) : State :=
  let s1 := setMapBits s k.tx.gen (owedGranules k)
  setMir s1 { s1.mir with commit := none, st := restState s1, failed := true, aborts := abortsNext s1.mir.aborts }

theorem disowned_eq (s : State) (k : Commit) :
    disowned s k = { s with mir := { abandonedMir s with held := s.mir.held }, vellum := (setMapBits s k.tx.gen (owedGranules k)).vellum } := by
  have hv := setMapBits_vellumOnly s k.tx.gen (owedGranules k)
  unfold vellumOnly at hv
  unfold disowned
  dsimp only
  rw [hv]
  rfl

theorem abandonCommit_some {s : State} {k : Commit} (h : s.mir.commit = some k) (quiet : Bool) (g : Option Nat) :
    abandonCommit quiet g s = if quiet then releaseHeld (disowned s k) else pend (mirrorRecord (releaseHeld (disowned s k)) g) 0x22 := by
  unfold abandonCommit
  rw [h]
  rfl

theorem releaseHeld_disowned_writeOnly (s : State) (k : Commit) : writeOnly (setMir s (abandonedMir s)) (releaseHeld (disowned s k)) := by
  have h := releaseHeld_writeOnly (disowned s k)
  rw [stillHeld_noCommit rfl] at h
  refine writeOnly_trans ?_ h
  rw [disowned_eq]
  rfl

/-- All that abandoning a commit changes: the mirror engine as said, and what performing the held writes and a record may change. -/
theorem abandonCommit_writeOnly {s : State} {k : Commit} (h : s.mir.commit = some k) (quiet : Bool) (g : Option Nat) :
    writeOnly (setMir s (abandonedMir s)) (abandonCommit quiet g s) := by
  rw [abandonCommit_some h]
  have hd := releaseHeld_disowned_writeOnly s k
  exact writeOnly_ite hd (writeOnly_trans hd (noted_trans (mirrorRecord_noted _ g) (pend_noted _ _)).writeOnly)

/-- With nothing held, taking a commit back changes no more than the mirror engine and the map bits. -/
theorem releaseHeld_disowned {s : State} (h : s.mir.held = []) (k : Commit) :
    releaseHeld (disowned s k) = { s with mir := abandonedMir s, vellum := (setMapBits s k.tx.gen (owedGranules k)).vellum } := by
  have hd := disowned_eq s k
  rw [h] at hd
  rw [releaseHeld_nothing (by rw [hd]), hd]
  rfl

theorem isPending_pend {s : State} {v : Byte} (hw : v.toNat / 64 ≠ 1) (hm : bit (ipendMask (Fin.ofNat 4 (v.toNat / 64))) (v.toNat % 64) = true) :
    isPending (pend s v) v = true :=
  (wakeRequest_noted _ _).2.1 v (isPending_setPending hw hm)

theorem noted.mir {s t : State} (h : noted s t) : t.mir = s.mir := by
  have e := h.1
  unfold recordOnly at e
  rw [e]

/-- A record leaves the map bits. -/
theorem noted.mapBit {s t : State} (h : noted s t) (gen : Bool) (g : Nat) : mapBit t gen g = mapBit s gen g := by
  have e := h.1
  unfold recordOnly at e
  rw [e]
  rfl

/-- A commit that is abandoned with nothing held leaves what R357 says. -/
theorem abandonCommit_abandoned {s : State} {k : Commit} (h : s.mir.commit = some k) (hh : s.mir.held = []) (hw : vellumWf s) (g : Option Nat) :
    commitAbandoned s (abandonCommit false g s) k := by
  have ha : abandonCommit false g s = pend (mirrorRecord (releaseHeld (disowned s k)) g) 0x22 := abandonCommit_some h false g
  have hn : noted (releaseHeld (disowned s k)) (abandonCommit false g s) := by
    rw [ha]
    exact noted_trans (mirrorRecord_noted _ g) (pend_noted _ _)
  have hd := releaseHeld_disowned hh k
  have hm : (abandonCommit false g s).mir = abandonedMir s := by
    rw [hn.mir, hd]
  have hb : (abandonCommit false g s).banks = s.banks := by
    rw [hn.banks, hd]
  refine ⟨by rw [hm]; rfl, by rw [hm]; rfl, by rw [hm]; rfl, by rw [hm]; rfl, ?_, by rw [hm]; rfl, hb, fun i hi => ?_⟩
  · rw [ha]
    exact isPending_pend (by decide) (by decide)
  · have hv := setMapBits_vellumOnly s k.tx.gen (owedGranules k)
    have hs := mapBit_setMapBits hw k.tx.gen (owedGranules k) i hi
    generalize setMapBits s k.tx.gen (owedGranules k) = x at hd hv hs
    unfold vellumOnly at hv
    rw [hn.mapBit, hd, ← hs]
    have hm : x.mir.map = s.mir.map := by rw [hv]
    refine mapBit_congr ?_ ?_ k.tx.gen i
    · rfl
    · exact hm.symm

/-- The answer to a FREQ and a FREQ that goes leave an abandoned commit as it is. -/
theorem commitAbandoned.serve {s t u : State} {k : Commit} (h : commitAbandoned s t k) (hs : serveOnly t u) : commitAbandoned s u k := by
  obtain ⟨e, p⟩ := hs
  obtain ⟨h1, h2, h3, h4, h5, h6, h7, h8⟩ := h
  have hv : u.vellum = t.vellum := by rw [e]
  have hm : u.mir.map = t.mir.map := by rw [e]
  refine ⟨by rw [e]; exact h1, by rw [e]; exact h2, by rw [e]; exact h3, by rw [e]; exact h4, p.1 _ h5, by rw [e]; exact h6, by rw [e]; exact h7, fun g hg => ?_⟩
  rw [mapBit_congr hv hm]
  exact h8 g hg

/-! ### The end of a fetch or a verify -/

/-- The credits that go back are sent, and nothing fetched waits any more (R361, R424). -/
theorem freeCredits_sendOnly (s : State) : sendOnly (setMir s { s.mir with rx := s.mir.rx.filter fun x => !isFetched x }) (freeCredits s) :=
  foldl_keeps (sendOnly _) _ (fun _ _ h => sendOnly_trans h (emit_sendOnly _ _ _)) _ _ (sendOnly_refl _)

/-- The mirror engine once a fetch is over, but for what it sends. -/
def fetchEnded (s : State) : Mir :=
  { s.mir with rx := s.mir.rx.filter (fun x => !isFetched x), fetch := none, st := if s.mir.commit.isSome then s.mir.st else .idle }

/-- What the end of a fetch may change besides the mirror engine: map bits, what a record, a completion and an event of the quill touch. -/
def endOnly (s t : State) : Prop :=
  t = { s with
    vellum := t.vellum, qu := t.qu, banks := t.banks, err := t.err, dom := t.dom, freeCtr := t.freeCtr
    c := { s.c with errlast := t.c.errlast, ipend := t.c.ipend, l2Check := t.c.l2Check, l1dCheck := t.c.l1dCheck, qevent := t.c.qevent } } ∧
  steady s t ∧ keepsRegs s t

theorem endOnly_trans {s t u : State} (h1 : endOnly s t) (h2 : endOnly t u) : endOnly s u := by
  obtain ⟨e1, p1, r1⟩ := h1
  obtain ⟨e2, p2, r2⟩ := h2
  refine ⟨?_, steady_trans p1 p2, keepsRegs_trans r1 r2⟩
  rw [e2, e1]

theorem endOnly_refl (s : State) : endOnly s s := ⟨rfl, steady_refl s, keepsRegs_of_eq rfl⟩

theorem vellumOnly.endOnly {s t : State} (h : vellumOnly s t) : endOnly s t := by
  unfold vellumOnly at h
  rw [h]
  exact ⟨rfl, steady_refl s, keepsRegs_of_eq rfl⟩

theorem quillOnly.endOnly {s t : State} (h : quillOnly s t) : endOnly s t := by
  obtain ⟨e, p⟩ := h
  exact ⟨by rw [e], p, keepsRegs_of_eq (by rw [e])⟩

theorem eventOnly.endOnly {s t : State} (h : eventOnly s t) : endOnly s t := by
  obtain ⟨e, p, r⟩ := h
  exact ⟨by rw [e], p, r⟩

theorem fetchResults_noted (s : State) (f : Fetch) : noted s (fetchResults s f).1 := noted_of_eq rfl rfl rfl

theorem endFetch_endOnly (s : State) (f : Fetch) (st det : Byte) (record : Bool) (g : Option Nat) :
    ∃ out credits, endOnly (setMir s { fetchEnded s with out := out, credits := credits }) (endFetch s f st det record g) := by
  refine ⟨(freeCredits s).mir.out, (freeCredits s).mir.credits, ?_⟩
  have hf := freeCredits_sendOnly s
  have h1 : setMir (freeCredits s) { (freeCredits s).mir with fetch := none, st := if (freeCredits s).mir.commit.isSome then (freeCredits s).mir.st else .idle } =
      setMir s { fetchEnded s with out := (freeCredits s).mir.out, credits := (freeCredits s).mir.credits } := by
    unfold sendOnly at hf
    rw [hf]
    rfl
  unfold endFetch
  dsimp only
  rw [h1]
  generalize setMir s { fetchEnded s with out := (freeCredits s).mir.out, credits := (freeCredits s).mir.credits } = x
  have h2 : endOnly x (if f.verify = true then x else setBothBits x (maskGranules (localCounts x) f.rmask)) := by
    split
    · exact endOnly_refl x
    · exact (setBothBits_vellumOnly _ _).endOnly
  generalize (if f.verify = true then x else setBothBits x (maskGranules (localCounts x) f.rmask)) = y at h2 ⊢
  have h3 : noted y (if record = true then mirrorRecord y g else y) := noted_ite (mirrorRecord_noted y g) (noted_refl y)
  have h4 := noted_trans h3 (fetchResults_noted _ f)
  exact endOnly_trans (endOnly_trans (endOnly_trans h2 h4.eventOnly.endOnly) (complete_quillOnly _ _ _ _ _).endOnly) (qevent_eventOnly _ _).endOnly

theorem abortFetch_none {s : State} (h : s.mir.fetch = none) (det : Byte) (g : Option Nat) : abortFetch s det g = s := by
  unfold abortFetch
  rw [h]

/-- Whatever an ended fetch was, none runs after it. -/
theorem abortFetch_ends (s : State) (det : Byte) (g : Option Nat) :
    ∃ out credits m, endOnly (setMir s { m with out := out, credits := credits, fetch := none }) (abortFetch s det g) ∧
      (m = s.mir ∧ s.mir.fetch = none ∨ m = fetchEnded s ∧ s.mir.fetch ≠ none) := by
  unfold abortFetch
  split
  · next f hf =>
    obtain ⟨out, credits, h⟩ := endFetch_endOnly s f stAborted det (det != 0x33) g
    exact ⟨out, credits, fetchEnded s, h, .inr ⟨rfl, by rw [hf]; exact nofun⟩⟩
  · next hf =>
    have hs : setMir s { s.mir with fetch := none } = s := by rw [← hf]; rfl
    refine ⟨s.mir.out, s.mir.credits, s.mir, ?_, .inl ⟨rfl, hf⟩⟩
    rw [show setMir s { s.mir with out := s.mir.out, credits := s.mir.credits, fetch := none } = s from hs]
    exact endOnly_refl s

end Sys2Proof.Machine

namespace Sys2Proof.Machine

/-! SUPPORT. What the steps of PLYC leave as they were (R24, R313, R351). -/

/-- What the steps of the mirror engine may change: the engine itself, and what a write of memory may change. -/
def mirrorOnly (s t : State) : Prop := writeOnly (setMir s t.mir) t

theorem mirrorOnly_refl (s : State) : mirrorOnly s s := writeOnly_refl s

theorem mirrorOnly_trans {s t u : State} (h1 : mirrorOnly s t) (h2 : mirrorOnly t u) : mirrorOnly s u := by
  unfold mirrorOnly writeOnly at *
  rw [h2, h1]
  rfl

theorem mirrorOnly_ite {s t u : State} {p : Prop} [Decidable p] (h1 : mirrorOnly s t) (h2 : mirrorOnly s u) : mirrorOnly s (if p then t else u) := by
  split
  · exact h1
  · exact h2

theorem writeOnly.mirrorOnly {s t : State} {m : Mir} (h : writeOnly (setMir s m) t) : mirrorOnly s t := by
  unfold Machine.mirrorOnly writeOnly at *
  rw [h]
  rfl

theorem advanceOnly.mirrorOnly {s t : State} (h : advanceOnly s t) : mirrorOnly s t := by
  unfold advanceOnly at h
  rw [Machine.mirrorOnly, writeOnly, h]
  rfl

theorem abandonCommit_mirrorOnly (quiet : Bool) (g : Option Nat) (s : State) : mirrorOnly s (abandonCommit quiet g s) := by
  cases h : s.mir.commit with
  | none =>
    rw [abandonCommit_none h]
    exact mirrorOnly_refl s
  | some k => exact (abandonCommit_writeOnly h quiet g).mirrorOnly

theorem startCommit_mirrorOnly (s : State) (p : W64) : mirrorOnly s (startCommit s p) := by
  unfold startCommit
  dsimp only
  refine mirrorOnly_ite (mirrorOnly_ite ?_ ?_) (mirrorOnly_refl s)
  · refine mirrorOnly_trans ?_ (mirAdvance_advanceOnly _).mirrorOnly
    rfl
  · refine mirrorOnly_trans ?_ (abandonCommit_mirrorOnly _ _ _)
    rfl

/-- With mirroring off no commit starts (R24). -/
theorem startCommit_off {s : State} (h : s.mir.en = false) (p : W64) : startCommit s p = s := by
  simp [startCommit, h]

/-- What placing remaps may change: the operations, the board's records as acceptance sees them, the quill and what a record touches (R112). -/
def remapOnly (s t : State) : Prop :=
  t = { s with
    ops := t.ops, nextOp := t.nextOp, bd := t.bd, qu := t.qu, err := t.err, dom := t.dom, freeCtr := t.freeCtr
    c := { s.c with errlast := t.c.errlast, ipend := t.c.ipend, l2Check := t.c.l2Check, l1dCheck := t.c.l1dCheck } }

theorem remapOnly_trans {s t u : State} (h1 : remapOnly s t) (h2 : remapOnly t u) : remapOnly s u := by
  unfold remapOnly at *
  rw [h2, h1]

theorem quillOnly.remapOnly {s t : State} (h : quillOnly s t) : remapOnly s t := by
  rw [Machine.remapOnly, h.1]

theorem placeRemaps_remapOnly (b : Bank) (s : State) : remapOnly s (placeRemaps b s) := by
  unfold placeRemaps
  dsimp only
  split
  · rfl
  · refine foldl_keeps (remapOnly s) _ (fun t a h => remapOnly_trans h ?_) _ _ rfl
    split
    · exact (quillOnly_trans (complete_quillOnly _ _ _ _ _) (setQu_quillOnly _ _)).remapOnly
    · rfl

theorem activateAt_upd (s : State) (n : W64) : activateAt s n = setUpd s (activateAt s n).upd := by
  unfold activateAt
  split
  · rfl
  · rfl

/-- The state in which step 4 of R24 starts the commit. -/
def plycBefore (b : Bank) (s : State) : State :=
  placeRemaps b (activateAt { s with c := { s.c with ply := s.c.ply + 1 }, tal := vmap (talSnapshot (s.c.ply + 1)) s.tal } (s.c.ply + 1))

theorem plycSteps_eq (b : Bank) (s : State) : plycSteps b s = startCommit (plycBefore b s) (s.c.ply + 1) := rfl

/-- Before the commit starts, PLY, the tallies and the class B parts have their values of the new ply; memory and the mirror engine wait. -/
theorem plycBefore_keeps (b : Bank) (s : State) :
    (plycBefore b s).c.ply = s.c.ply + 1 ∧ (plycBefore b s).tal = vmap (talSnapshot (s.c.ply + 1)) s.tal ∧ (plycBefore b s).mir = s.mir ∧
    (plycBefore b s).mem = s.mem ∧ (plycBefore b s).ink = s.ink ∧ (plycBefore b s).tiles = s.tiles := by
  have h := placeRemaps_remapOnly b (activateAt { s with c := { s.c with ply := s.c.ply + 1 }, tal := vmap (talSnapshot (s.c.ply + 1)) s.tal } (s.c.ply + 1))
  rw [activateAt_upd] at h
  unfold remapOnly at h
  rw [plycBefore, activateAt_upd, h]
  exact ⟨rfl, rfl, rfl, rfl, rfl, rfl⟩

/-- The commit leaves PLY, the tallies, the inkwell and the tiles. -/
theorem startCommit_keeps (s : State) (p : W64) : (startCommit s p).c.ply = s.c.ply ∧ (startCommit s p).tal = s.tal ∧ (startCommit s p).ink = s.ink ∧
    (startCommit s p).tiles = s.tiles := by
  have h := startCommit_mirrorOnly s p
  unfold mirrorOnly writeOnly at h
  rw [h]
  exact ⟨rfl, rfl, rfl, rfl⟩

/-- The snapshot of a tally (R313). -/
theorem talSnapshot_fields (n : W64) (x : Tally) :
    (talSnapshot n x).sply = n ∧ (talSnapshot n x).snap = x.live ∧ (talSnapshot n x).keyed = bit x.src 6 ∧ (talSnapshot n x).queue = x.queue ∧
    (talSnapshot n x).src = x.src ∧ ((talSnapshot n x).pend = true ↔ x.queue ≠ [] ∨ x.kbuf ≠ none) ∧
    (talSnapshot n x).live = (if bit x.src 15 = true ∧ bit x.src 6 = false then x.live else talEmpty (bit x.src 4)) := by
  refine ⟨rfl, rfl, rfl, rfl, rfl, ?_, ?_⟩
  · simp [talSnapshot, Option.isSome_iff_ne_none]
  · simp [talSnapshot, talKeyed, talFp]

/-- PLYC waits exactly as R25 says, so none of a commit runs where it does not wait. -/
theorem no_commit_of_not_plycWaits {s : State} (h : plycWaits s = false) : s.mir.commit = none := by
  simp only [plycWaits, Bool.or_eq_false_iff, Option.isSome_eq_false_iff, Option.isNone_iff_eq_none] at h
  exact h.1

/-- Settles O29: PLYC is its four steps in order; each is known by what it sets and what it leaves, and the commit of the last leaves what the first two
set. -/
theorem plycAdvancesThePly : Obligations.PlycAdvancesThePly := by
  unfold Obligations.PlycAdvancesThePly
  intro s hr
  have he : exec .plyc s = .next (settle .plyc (curBank s) (plycBody .core (curBank s) s)) := issue_ready plycBody hr
  refine ⟨fun hw => ?_, fun hw => ⟨plycSteps (curBank s) s, ?_, ?_, fun u => ?_, fun hen => ?_, ?_, ?_⟩⟩
  · rw [he, plycBody, if_pos hw]
    rfl
  · rw [he, plycBody, if_neg (by rw [hw]; decide)]
    rfl
  all_goals
    obtain ⟨hp, ht, hm, hmem, hi, htl⟩ := plycBefore_keeps (curBank s) s
    obtain ⟨kp, kt, ki, ktl⟩ := startCommit_keeps (plycBefore (curBank s) s) (s.c.ply + 1)
  · exact kp.trans hp
  · have hu : (plycSteps (curBank s) s).tal[u] = talSnapshot (s.c.ply + 1) s.tal[u] := by
      rw [plycSteps_eq, Fin.getElem_fin]
      simp only [kt, ht, vmap_get, Fin.getElem_fin]
    rw [hu]
    exact talSnapshot_fields _ _
  · rw [plycSteps_eq, startCommit_off (by rw [hm]; exact hen)]
    exact ⟨by rw [hm]; exact no_commit_of_not_plycWaits hw, hmem⟩
  · exact ki.trans hi
  · exact ktl.trans htl

end Sys2Proof.Machine

namespace Sys2Proof.Machine

/-! SUPPORT. The resets, and the registers of the instruments (R137, R436, R439, R457 to R459). -/

/-! ### Instrument registers -/

/-- An instrument register as a number: its fields do not overlap (R439). -/
theorem instrWord_toNat (mode : BitVec 3) {st : Nat} (hst : st < 16) (fails : Byte) (first : BitVec 16) :
    (instrWord mode st fails first).toNat = 2 ^ 16 * first.toNat + (2 ^ 8 * fails.toNat + (2 ^ 4 * st + 2 * mode.toNat)) := by
  have hp (v lo : Nat) (h : 2 ^ lo * v < 2 ^ 32) : (place 32 v lo).toNat = 2 ^ lo * v := by
    rw [place, BitVec.toNat_ofNat, Nat.shiftLeft_eq, Nat.mul_comm, Nat.mod_eq_of_lt h]
  rw [instrWord, BitVec.toNat_or, BitVec.toNat_or, BitVec.toNat_or, hp _ 1 (by omega), hp _ 4 (by omega), hp _ 8 (by omega), hp _ 16 (by omega),
    Nat.lor_comm (2 ^ 1 * mode.toNat), ← Nat.two_pow_add_eq_or_of_lt (by omega), Nat.lor_comm _ (2 ^ 8 * fails.toNat),
    ← Nat.two_pow_add_eq_or_of_lt (by omega), Nat.lor_comm _ (2 ^ 16 * first.toNat), ← Nat.two_pow_add_eq_or_of_lt (by omega), pow_one]

/-- The fields of an instrument register: mode, state, failures, first failing place (R439). -/
theorem instrWord_fields (mode : BitVec 3) {st : Nat} (hst : st < 16) (fails : Byte) (first : BitVec 16) :
    fieldN (instrWord mode st fails first) 3 1 = mode.toNat ∧ fieldN (instrWord mode st fails first) 7 4 = st ∧
    fieldN (instrWord mode st fails first) 15 8 = fails.toNat ∧ fieldN (instrWord mode st fails first) 31 16 = first.toNat := by
  simp only [fieldN, instrWord_toNat mode hst fails first, Nat.shiftRight_eq_div_pow]
  omega

/-! ### A warm reset -/

/-- What a warm reset takes from the state before it: PLY, FWFLOOR, the configuration and the stall (R459). -/
def sameCore (s t : State) : Prop := t.c.ply = s.c.ply ∧ t.c.fwfloor = s.c.fwfloor ∧ t.var = s.var ∧ t.cfg = s.cfg ∧ t.stall = s.stall

theorem sameCore_trans {s t u : State} (h1 : sameCore s t) (h2 : sameCore t u) : sameCore s u := by
  obtain ⟨a1, a2, a3, a4, a5⟩ := h1
  obtain ⟨b1, b2, b3, b4, b5⟩ := h2
  exact ⟨b1.trans a1, b2.trans a2, b3.trans a3, b4.trans a4, b5.trans a5⟩

theorem mirrorOnly.sameCore {s t : State} (h : mirrorOnly s t) : sameCore s t := by
  unfold mirrorOnly writeOnly at h
  rw [h]
  exact ⟨rfl, rfl, rfl, rfl, rfl⟩

theorem mirrorOnly.banks {s t : State} (h : mirrorOnly s t) : t.banks = s.banks := by
  unfold mirrorOnly writeOnly at h
  rw [h]
  rfl

theorem endOnly.sameCore {s t : State} (h : endOnly s t) : sameCore s t := by
  rw [h.1]
  exact ⟨rfl, rfl, rfl, rfl, rfl⟩

theorem endOnly.mir {s t : State} (h : endOnly s t) : t.mir = s.mir := by
  rw [h.1]

/-- After a commit is abandoned none runs. -/
theorem abandonCommit_commit (quiet : Bool) (g : Option Nat) (s : State) : (abandonCommit quiet g s).mir.commit = none := by
  cases h : s.mir.commit with
  | none => rw [abandonCommit_none h, h]
  | some k =>
    have hw := abandonCommit_writeOnly h quiet g
    unfold writeOnly at hw
    rw [hw]
    rfl

/-- What ending a commit and a fetch keeps, and that neither runs then (R459). -/
theorem abandoned_keeps (s : State) (quiet : Bool) (g : Option Nat) (det : Byte) :
    let t := abortFetch (abandonCommit quiet g s) det none
    sameCore s t ∧ keepsRegs s t ∧ t.mir.commit = none ∧ t.mir.fetch = none := by
  have hm := abandonCommit_mirrorOnly quiet g s
  have hn := abandonCommit_commit quiet g s
  generalize abandonCommit quiet g s = x at hm hn
  obtain ⟨out, credits, m, he, hc⟩ := abortFetch_ends x det none
  have hcm : m.commit = none := by
    obtain ⟨rfl, -⟩ | ⟨rfl, -⟩ := hc
    · exact hn
    · exact hn
  refine ⟨sameCore_trans hm.sameCore he.sameCore, keepsRegs_trans (keepsRegs_of_eq hm.banks) he.2.2, ?_, ?_⟩
  · rw [he.mir]
    exact hcm
  · rw [he.mir]
    rfl

/-- What writing inkwell entries and dropping the unit work before the board is emptied may change (R137). -/
def inkOnly (s t : State) : Prop :=
  t = { s with ink := t.ink, inkBad := t.inkBad, err := t.err, freeCtr := t.freeCtr, ops := t.ops, bd := t.bd, c := { s.c with errinj := t.c.errinj } }

theorem inkOnly_trans {s t u : State} (h1 : inkOnly s t) (h2 : inkOnly t u) : inkOnly s u := by
  unfold inkOnly at *
  rw [h2, h1]

theorem inkOnly_ite {s t u : State} {p : Prop} [Decidable p] (h1 : inkOnly s t) (h2 : inkOnly s u) : inkOnly s (if p then t else u) := by
  split
  · exact h1
  · exact h2

theorem inkStrike_inkOnly (s : State) (r e : Nat) : inkOnly s (inkStrike s r e) := by
  unfold inkStrike
  exact inkOnly_ite (inkOnly_ite rfl rfl) rfl

theorem inkWrite_inkOnly (s : State) (r e : Nat) (x : Ink) : inkOnly s (inkWrite s r e x) := by
  unfold inkWrite
  dsimp only
  have h1 : ∀ t : State, inkOnly s t → inkOnly s (if t.err.spots.isEmpty = true then t else clearSpot t 9 (inkLoc r e)) := by
    refine fun t ht => inkOnly_ite ht (inkOnly_trans ht ?_)
    rfl
  have h2 : ∀ t : State, inkOnly s t → inkOnly s (if bit t.c.errinj 12 = true then inkStrike t r e else t) :=
    fun t ht => inkOnly_ite (inkOnly_trans ht (inkStrike_inkOnly t r e)) ht
  exact h2 _ (h1 { s with ink := spSet 0 s.ink (1024 * r + e) x, inkBad := s.inkBad.filter (· ≠ 1024 * r + e) } rfl)

theorem loseFlight_inkOnly (s : State) : inkOnly s (loseFlight s) := by
  refine foldl_keeps (inkOnly s) _ (fun t f h => ?_) _ _ rfl
  cases f with
  | swap id => exact h
  | row id m sums =>
    dsimp only
    split
    · refine foldl_keeps (inkOnly s) _ (fun u p hu => inkOnly_trans (inkOnly_trans hu ?_) (inkWrite_inkOnly (draw 40 u).2 _ _ _)) _ _ h
      rfl
    · exact h

theorem applyPlaced_inkOnly (s : State) : inkOnly s (applyPlaced s) := by
  refine foldl_keeps (inkOnly s) _ (fun t o h => inkOnly_trans h ?_) _ _ rfl
  rfl

/-- The state in which the unit work has been dropped: the queues, the scribes and the board are empty (R180, R195, R449). -/
theorem dropWork_eq (s : State) : ∃ x, inkOnly s x ∧ dropWork s = { emptyBoard x with
    ops := [], sq := Vector.replicate 64 {}, scribes := Vector.replicate 16 {}, rings := Vector.replicate 32 {}, lastRing := 31, placed := [] } :=
  ⟨_, inkOnly_trans (loseFlight_inkOnly s) (applyPlaced_inkOnly _), rfl⟩

/-- Writing L1D back leaves all but what a write of memory may change; every cache but L2 and its write-back buffer is then empty (R230, R254). -/
theorem warmCaches_eq (s : State) : ∃ x, writeOnly s x ∧ warmCaches s = { x with ca := { l2 := x.ca.l2, l2Plru := x.ca.l2Plru, wb := x.ca.wb } } := by
  refine ⟨_, ?_, rfl⟩
  exact writeOnly_ite (writeOnly_refl s) (writeOnly_foldl _ flushL1d_writeOnly _ _)

theorem writeOnly.sameCore {s t : State} (h : writeOnly s t) : sameCore s t := by
  unfold writeOnly at h
  rw [h]
  exact ⟨rfl, rfl, rfl, rfl, rfl⟩

theorem inkOnly.sameCore {s t : State} (h : inkOnly s t) : sameCore s t := by
  unfold inkOnly at h
  rw [h]
  exact ⟨rfl, rfl, rfl, rfl, rfl⟩

/-- The state in which a warm reset gives the registers their values: work is gone, the caches and the tile file are empty (R459). -/
def warmCleared (s : State) : State :=
  freshTiles (dropWork (warmCaches (dropSpots (abortFetch (abandonCommit true none { s with stall := none }) 0x33 none) [0x02, 0x03, 0x05, 0x06])))

theorem warmState_eq (s : State) : warmState s = { spent (warmCleared s) 4 with
    c := warmCtl (warmCleared s).c, banks := warmBanks (warmCleared s), tal := vmap warmTally (warmCleared s).tal
    win := { (warmCleared s).win with warmDone := true } } := rfl

/-- What a warm reset keeps until it sets the registers. -/
theorem warmCleared_keeps (s : State) : sameCore { s with stall := none } (warmCleared s) ∧ keepsRegs s (warmCleared s) ∧
    (warmCleared s).mir.commit = none ∧ (warmCleared s).mir.fetch = none := by
  obtain ⟨h1, hr, hc, hf⟩ := abandoned_keeps { s with stall := none } true none 0x33
  unfold warmCleared
  generalize abortFetch (abandonCommit true none { s with stall := none }) 0x33 none = x at h1 hr hc hf
  obtain ⟨y, hy, hwy⟩ := warmCaches_eq (dropSpots x [0x02, 0x03, 0x05, 0x06])
  obtain ⟨z, hz, hwz⟩ := dropWork_eq (warmCaches (dropSpots x [0x02, 0x03, 0x05, 0x06]))
  rw [hwy] at hz
  rw [hwz]
  have h2 : sameCore x z := sameCore_trans (sameCore_trans (t := y) hy.sameCore ⟨rfl, rfl, rfl, rfl, rfl⟩) hz.sameCore
  have hb : z.banks = x.banks := by
    unfold inkOnly writeOnly at *
    rw [hz, hy]
    rfl
  have hm : z.mir = x.mir := by
    unfold inkOnly writeOnly at *
    rw [hz, hy]
    rfl
  refine ⟨sameCore_trans h1 (sameCore_trans h2 ⟨rfl, rfl, rfl, rfl, rfl⟩), keepsRegs_trans hr (keepsRegs_of_eq hb), ?_, ?_⟩
  · exact hm ▸ hc
  · exact hm ▸ hf

/-! ### The state after a warm reset, part by part -/

theorem warmCleared_empty (s : State) : (warmCleared s).ops = [] ∧ (warmCleared s).placed = [] ∧ (warmCleared s).sq = Vector.replicate 64 {} ∧
    (warmCleared s).rings = Vector.replicate 32 {} ∧ (warmCleared s).scribes = Vector.replicate 16 {} ∧ (warmCleared s).bd.planes = Vector.replicate 2 {} ∧
    (warmCleared s).bd.acc = Vector.replicate 2 {} ∧ (warmCleared s).bd.flight = [] ∧ (warmCleared s).stall = none := by
  have h := (warmCleared_keeps s).1.2.2.2.2
  unfold warmCleared at h ⊢
  obtain ⟨z, -, hz⟩ := dropWork_eq (warmCaches (dropSpots (abortFetch (abandonCommit true none { s with stall := none }) 0x33 none) [0x02, 0x03, 0x05, 0x06]))
  rw [hz] at h ⊢
  exact ⟨rfl, rfl, rfl, rfl, rfl, rfl, rfl, rfl, h⟩

/-- Every cache but L2 and its write-back buffer is empty (R230). -/
theorem warmCleared_caches (s : State) : ∃ l2 plru wb, (warmCleared s).ca = { l2 := l2, l2Plru := plru, wb := wb } := by
  unfold warmCleared
  obtain ⟨y, -, hy⟩ := warmCaches_eq (dropSpots (abortFetch (abandonCommit true none { s with stall := none }) 0x33 none) [0x02, 0x03, 0x05, 0x06])
  obtain ⟨z, hi, hz⟩ := dropWork_eq (warmCaches (dropSpots (abortFetch (abandonCommit true none { s with stall := none }) 0x33 none) [0x02, 0x03, 0x05, 0x06]))
  rw [hz]
  rw [hy] at hi
  unfold inkOnly at hi
  have hc : z.ca = { l2 := y.ca.l2, l2Plru := y.ca.l2Plru, wb := y.ca.wb } := by rw [hi]
  exact ⟨_, _, _, hc⟩

theorem warmCleared_tiles (s : State) (k : TReg) : (warmCleared s).tiles[k] = freshTile s.var := by
  have h := (warmCleared_keeps s).1.2.2.1
  unfold warmCleared at h ⊢
  have ht : ∀ x : State, (freshTiles x).tiles[k] = freshTile (freshTiles x).var := fun x => by
    simp only [freshTiles, Fin.getElem_fin, Vector.getElem_replicate]
  rw [ht, h]

/-- Bank 0 runs at CFG_RESETPC with its registers kept, the other banks are FREE (R291, R459). -/
theorem warmBanks_zero (s : State) : (warmBanks s)[(0 : BankNum)] = { warmBank s.banks[(0 : BankNum)] with st := .run, pc := s.cfg.resetpc } := by
  simp [warmBanks]

theorem warmBanks_other (s : State) {k : BankNum} (hk : k ≠ 0) : (warmBanks s)[k] = lostRegs (spent s k) (warmBank s.banks[k]) := by
  have : k.val ≠ 0 := fun h => hk (Fin.ext h)
  simp [warmBanks, this]

theorem warmBanks_longs (s : State) (k : BankNum) : (warmBanks s)[k].longs = [] := by
  by_cases hk : k = 0
  · rw [hk, warmBanks_zero]
    rfl
  · rw [warmBanks_other s hk]
    rfl

/-- A warm reset of a live core that has been asked for and not yet been done (R459). -/
theorem warmReset_effect {s : State} (hl : Live s) (hw : s.win.wrst = true) (hd : s.win.warmDone = false) : exec .warmReset s = .next (warmState s) := by
  rw [exec, execWarmReset, event_live hl, hw, hd]
  rfl

/-! ### A cold reset -/

/-- The mask of the present domains has the bit of each of them (R443). -/
theorem presentMask_bit (v : Variant) : ∀ d : Fin 32, (presentMask v).getLsbD d.val = domPresent v d := by
  cases v with
  | m1024 => decide
  | m512 => decide
  | m256 => decide
  | m256np => decide

theorem coldState_dom (s : State) (d : Fin 32) : (coldState s).dom[d] = coldDom s.dom[d] := by
  simp [coldState]

/-- A domain at cold reset is held off where the configuration has it (R435). -/
theorem coldState_domUse (s : State) (d : Fin 32) (h : domPresent s.var d = true) : domUse (coldState s) d = .off := by
  have hb : (coldState s).heldOff.getLsbD d.val = true := (presentMask_bit s.var d).trans h
  simp [domUse, hb]

theorem coldState_tiles (s : State) (k : TReg) : (coldState s).tiles[k] = freshTile s.var := by
  simp [coldState]

/-! ### The instruments -/

/-- Starting an instrument writes its own register and the bit of its segment (R439). -/
theorem instrumentStart_effect {s : State} {k : Fin 12} (mode : BitVec 3) (hw : s.test.wir = 8) (hr : fieldN s.test.regs[k] 7 4 ≠ 1) :
    exec (.instrumentStart k mode) s = .next { s with test := { s.test with
      sib := setBit s.test.sib (sibOf k) true
      regs := s.test.regs.set k.val (instrWord mode (if instrReady s k then 1 else 4) 0 0) k.isLt } } := by
  have : ¬ (s.test.wir ≠ 8 ∨ fieldN s.test.regs[k] 7 4 = 1) := not_or.mpr ⟨not_not.mpr hw, hr⟩
  rw [exec, execInstrumentStart, if_neg this]
  rfl

/-- What an instrument leaves of the arrays touches neither the wrapper nor the registers, the memory and the control registers (R439). -/
theorem instrEffect_keeps (s : State) (k : Fin 12) :
    (instrEffect s k).test = s.test ∧ (instrEffect s k).banks = s.banks ∧ (instrEffect s k).mem = s.mem ∧ (instrEffect s k).c = s.c := by
  unfold instrEffect
  split <;> exact ⟨rfl, rfl, rfl, rfl⟩

/-- The bit that is set has the value that it is set to. -/
theorem bit_setBit_self {w : Nat} (x : BitVec w) {i : Nat} (h : i < w) (b : Bool) : bit (setBit x i b) i = b := by
  rw [bit_setBit, if_pos ⟨rfl, h⟩]

theorem sibOf_lt (k : Fin 12) : sibOf k < 3 := by
  unfold sibOf
  split <;> decide

/-- Writing one instrument register leaves the others. -/
theorem instrRegs_other {s : State} {k j : Fin 12} (x : W32) (h : j ≠ k) : (s.test.regs.set k.val x k.isLt)[j] = s.test.regs[j] := by
  simp [Fin.val_inj, h.symm]

/-- A running instrument that completes leaves its result (R439). -/
theorem instrumentComplete_effect {s : State} {k : Fin 12} (fails : Byte) (first : BitVec 16) (hr : fieldN s.test.regs[k] 7 4 = 1) :
    ∃ t, exec (.instrumentComplete k fails first) s = .next t ∧
      t.test.regs = s.test.regs.set k.val (instrWord (field s.test.regs[k] 3 1) (if fails = 0 then 2 else 3) fails (if fails = 0 then 0 else first)) k.isLt ∧
      t.test.failed = setBit s.test.failed k.val (fails != 0) ∧ t.banks = s.banks ∧ t.mem = s.mem ∧ t.c = s.c := by
  have hn : ¬ fieldN s.test.regs[k] 7 4 ≠ 1 := fun h => h hr
  have he : exec (.instrumentComplete k fails first) s = .next (instrEffect { s with test := { s.test with
      regs := s.test.regs.set k.val (instrWord (field s.test.regs[k] 3 1) (if fails = 0 then 2 else 3) fails (if fails = 0 then 0 else first)) k.isLt
      failed := setBit s.test.failed k.val (fails != 0) } } k) := by
    rw [exec, execInstrumentComplete, if_neg hn]
    rfl
  obtain ⟨ht, hb, hm, hc⟩ := instrEffect_keeps _ k
  exact ⟨_, he, congrArg (·.regs) ht, congrArg (·.failed) ht, hb, hm, hc⟩

/-! ### The statement -/

theorem rstCold_effects (s : State) :
     (∃ t, exec .rstColdAssert s = .next t ∧ t.win.coldLow = true ∧ t.mem = s.mem ∧ t.var = s.var ∧ t.c = ({} : Ctl) ∧ t.ops = [] ∧ t.cfg = ({} : Cfg) ∧ t.err.wr = 0 ∧ t.err.rd = 0 ∧
       t.qu.qstate = State.reset.qu.qstate ∧ (∀ d : Fin 32, t.dom[d].st = .off ∧ t.dom[d].goal = none ∧ t.dom[d].fclkReq = false ∧ t.dom[d].pwrReq = 0 ∧
         t.dom[d].fclkAck = s.dom[d].fclkAck ∧ t.dom[d].pwrAck = s.dom[d].pwrAck ∧ (domPresent s.var d = true → domUse t d = .off)) ∧
       t.banks = State.reset.banks ∧ t.vellum = [] ∧ t.ink = [] ∧ t.ca = ({} : Caches) ∧ (∀ k : TReg, t.tiles[k] = freshTile s.var) ∧ t.test.undef = false) := by
  refine ⟨coldState s, rfl, rfl, rfl, rfl, rfl, rfl, rfl, rfl, rfl, rfl, fun d => ?_, rfl, rfl, rfl, rfl, coldState_tiles s, rfl⟩
  rw [coldState_dom]
  exact ⟨rfl, rfl, rfl, rfl, rfl, rfl, coldState_domUse s d⟩

theorem warmReset_leaves {s : State} (hl : Live s) (hw : s.win.wrst = true) (hd : s.win.warmDone = false) :
    ∃ t, exec .warmReset s = .next t ∧ t.c.ply = s.c.ply ∧ t.c.fwfloor = s.c.fwfloor ∧ t.c.cur = 0 ∧ t.stall = none ∧
       t.c.ruledEn = false ∧ t.c.ruledAct = false ∧ t.banks[(0 : BankNum)].st = .run ∧ t.banks[(0 : BankNum)].pc = s.cfg.resetpc ∧ t.banks[(0 : BankNum)].fl = 0 ∧
       t.banks[(0 : BankNum)].ttb = 0 ∧ t.banks[(0 : BankNum)].g = s.banks[(0 : BankNum)].g ∧ t.banks[(0 : BankNum)].v = s.banks[(0 : BankNum)].v ∧
       (∀ k : BankNum, t.banks[k].longs = [] ∧ (k ≠ 0 → t.banks[k].st = .free)) ∧ t.ops = [] ∧ t.placed = [] ∧ t.sq = Vector.replicate 64 {} ∧ t.rings = Vector.replicate 32 {} ∧
       t.scribes = Vector.replicate 16 {} ∧ t.bd.planes = Vector.replicate 2 {} ∧ t.bd.acc = Vector.replicate 2 {} ∧ t.bd.flight = [] ∧
       (∀ k : TReg, t.tiles[k] = freshTile s.var) ∧ t.ca.l1d = [] ∧ t.ca.l1i = [] ∧ t.ca.pf = [] ∧ t.ca.sb = [] ∧ t.ca.dtlb = [] ∧ t.ca.itlb = [] ∧ t.ca.l2tlb = [] ∧ t.ca.walks = [] ∧
       (∀ u : TallyNum, t.tal[u].queue = []) ∧ t.mir.commit = none ∧ t.mir.fetch = none ∧ t.win.warmDone = true := by
  obtain ⟨⟨hply, hfloor, -, hcfg, -⟩, hregs, hcommit, hfetch⟩ := warmCleared_keeps s
  obtain ⟨hops, hplaced, hsq, hrings, hscribes, hplanes, hacc, hflight, hstall⟩ := warmCleared_empty s
  obtain ⟨l2, plru, wb, hca⟩ := warmCleared_caches s
  obtain ⟨hg, hv, -⟩ := hregs 0
  have htiles := warmCleared_tiles s
  refine ⟨_, warmReset_effect hl hw hd, ?_⟩
  rw [warmState_eq]
  generalize warmCleared s = x at *
  simp only [spent]
  have hcaches : x.ca.l1d = [] ∧ x.ca.l1i = [] ∧ x.ca.pf = [] ∧ x.ca.sb = [] ∧ x.ca.dtlb = [] ∧ x.ca.itlb = [] ∧ x.ca.l2tlb = [] ∧ x.ca.walks = [] := by
    rw [hca]
    exact ⟨rfl, rfl, rfl, rfl, rfl, rfl, rfl, rfl⟩
  obtain ⟨hl1d, hl1i, hpf, hsb, hdtlb, hitlb, hl2tlb, hwalks⟩ := hcaches
  refine ⟨hply, hfloor, rfl, hstall, rfl, rfl, ?_, ?_, ?_, ?_, ?_, ?_, fun k => ⟨warmBanks_longs x k, fun hk => ?_⟩, hops, hplaced, hsq, hrings, hscribes, hplanes,
    hacc, hflight, htiles, hl1d, hl1i, hpf, hsb, hdtlb, hitlb, hl2tlb, hwalks, fun u => ?_, hcommit, hfetch, trivial⟩
  · rw [warmBanks_zero]
  · rw [warmBanks_zero]
    exact congrArg Cfg.resetpc hcfg
  · rw [warmBanks_zero]
    rfl
  · rw [warmBanks_zero]
    rfl
  · rw [warmBanks_zero]
    exact hg
  · rw [warmBanks_zero]
    exact hv
  · rw [warmBanks_other x hk]
    rfl
  · simp [warmTally]

/-- Settles O59: each reset from the lemmas about the state that it leaves, each row of the wrapper from its own equation. -/
theorem resetsAndTestPort : Obligations.ResetsAndTestPort := by
  unfold Obligations.ResetsAndTestPort
  refine ⟨fun s => ⟨rstCold_effects s, ?release, ?held, ?clear, ?rise, ?fall, ?idle, warmReset_leaves, ?complete⟩, fun s => ⟨?select, rfl, ?undef, ?keep, ?start, ?kept, ?done⟩⟩
  case release =>
    intro h
    refine ⟨_, by rw [exec, execRstColdRelease, if_pos h], rfl, fun d => ?_⟩
    simp only [Fin.getElem_fin, vmap_get]
    rfl
  case held =>
    intro h
    rw [exec, execRstColdRelease, if_neg (by simp [h])]
  case clear =>
    intro hl
    rw [exec, execColdClearComplete, event_live hl]
    split
    · rfl
    · next h => rw [← Bool.eq_false_iff.mpr h]; rfl
  case rise =>
    intro hl
    rw [exec, execRstWarmRise, pinEvent_live hl]
    split <;> rfl
  case fall =>
    intro hl
    rw [exec, execRstWarmFall, pinEvent_live hl]
    rfl
  case idle =>
    intro hl h
    have : ¬ (s.win.wrst && !s.win.warmDone) = true := by
      obtain h | h := h
      · simp [h]
      · simp [h]
    rw [exec, execWarmReset, event_live hl, if_neg this]
    rfl
  case complete =>
    intro hl
    simp only [exec, execWarmResetComplete, event_live hl, Bool.and_eq_true, Bool.not_eq_true', and_assoc]
    split <;> rfl
  case select =>
    rintro i w u (⟨rfl, rfl, rfl⟩ | ⟨rfl, rfl, rfl⟩ | ⟨rfl, rfl, rfl⟩ | ⟨rfl, rfl, rfl⟩ | ⟨rfl, rfl, rfl⟩ | ⟨rfl, rfl, rfl⟩) <;> rfl
  case undef =>
    intro h
    refine ⟨?_, ?_, _, rfl, rfl⟩
    · rw [exec, execHoldend, issue, if_pos h]
    · rw [exec, execStoreBufferDrain, event, if_pos h]
  case keep =>
    intro k mode h
    rw [exec, execInstrumentStart, if_pos h]
  case start =>
    intro k mode hw hr
    refine ⟨_, instrumentStart_effect mode hw hr, ?_, ?_, ?_, fun j hj => instrRegs_other _ hj, rfl⟩
    · have hst : (if instrReady s k = true then 1 else 4) < 16 := by split <;> decide
      simpa using (instrWord_fields mode hst 0 0).2.1
    · have hst : (if instrReady s k = true then 1 else 4) < 16 := by split <;> decide
      simpa using (instrWord_fields mode hst 0 0).1
    · exact bit_setBit_self s.test.sib (sibOf_lt k) true
  case kept =>
    intro k fails first h
    rw [exec, execInstrumentComplete, if_pos h]
  case done =>
    intro k fails first h
    obtain ⟨t, he, hregs, hfailed, hbanks, hmem, hc⟩ := instrumentComplete_effect fails first h
    have hst : (if fails = 0 then 2 else 3) < 16 := by split <;> decide
    obtain ⟨-, hstate, hfails, hfirst⟩ := instrWord_fields (field s.test.regs[k] 3 1) hst fails (if fails = 0 then 0 else first)
    refine ⟨t, he, ?_, ?_, ?_, fun hf => ?_, fun j hj => ?_, hbanks, hmem, hc⟩
    · rw [hregs]
      simpa using hstate
    · rw [hregs]
      simpa using hfails
    · rw [hfailed]
      exact bit_setBit_self _ k.isLt _
    · rw [if_neg (c := fails = 0) (t := (0 : BitVec 16)) hf] at hregs hfirst
      rw [hregs]
      simpa using hfirst
    · rw [hregs]
      exact instrRegs_other _ hj

end Sys2Proof.Machine

namespace Sys2Proof.Machine

/-! SUPPORT. Instructions that need a unit's domain: off, they are undefined; asleep, they wake it and wait (R28). -/

/-- A body asks for domains in this order: with the first that is not ready off it is undefined, with it asleep it wakes it and waits (R28). -/
def asksFor (c : Instr) (ds : List (Fin 32)) (body : Body) : Prop :=
  ∀ (b : Bank) (s : State) (u : Fin 32), ds.find? (fun e => !(domUse s e == .ready)) = some u →
    (domUse s u = .off → body .core b s = .exc (undefExc c) b s) ∧ (domUse s u = .asleep → body .core b s = .wait (wakeRequest s u))

theorem asksFor_nil (c : Instr) (body : Body) : asksFor c [] body := fun _ _ _ h => nomatch h

/-- A domain asked for before the others. -/
theorem asksFor_cons {c : Instr} {d : Fin 32} {ds : List (Fin 32)} {body gated : Body} (h : asksFor c ds body)
    (hready : ∀ b s, domUse s d = .ready → gated .core b s = body .core b s)
    (hoff : ∀ b s, domUse s d = .off → gated .core b s = .exc (undefExc c) b s)
    (hasleep : ∀ b s, domUse s d = .asleep → gated .core b s = .wait (wakeRequest s d)) : asksFor c (d :: ds) gated := by
  intro b s u hu
  by_cases hd : domUse s d = .ready
  · rw [List.find?_cons_of_neg (by simp [hd])] at hu
    rw [hready b s hd]
    exact h b s u hu
  · rw [List.find?_cons_of_pos (by simpa using hd)] at hu
    obtain rfl := Option.some.inj hu
    exact ⟨hoff b s, hasleep b s⟩

theorem domGate_asksFor {c : Instr} {d : Fin 32} {ds : List (Fin 32)} {body : Body} (h : asksFor c ds body) : asksFor c (d :: ds) (domGate d c body) :=
  asksFor_cons h (fun b s hd => by rw [domGate, hd]) (fun b s hd => by rw [domGate, hd]) (fun b s hd => by rw [domGate, hd])

theorem vecGate_asksFor {c : Instr} {ds : List (Fin 32)} {body : Body} (h : asksFor c ds body) : asksFor c (dVec :: ds) (vecGate c body) :=
  asksFor_cons h (fun b s hd => by simp only [vecGate, hd]) (fun b s hd => by simp only [vecGate, hd]) (fun b s hd => by simp only [vecGate, hd])

/-- An instruction that is issued with a body that asks for its domains. -/
def gated (i : Instr) : Prop := ∃ body, asksFor i (unitDoms i) body ∧ ∀ s, exec i s = issue i body s

theorem gated_one {i : Instr} {d : Fin 32} (body : Body) (hd : unitDoms i = [d]) (he : ∀ s, exec i s = issue i (domGate d i body) s) : gated i :=
  ⟨_, hd ▸ domGate_asksFor (asksFor_nil i body), he⟩

theorem gated_two {i : Instr} {d e : Fin 32} (body : Body) (hd : unitDoms i = [d, e]) (he : ∀ s, exec i s = issue i (domGate d i (domGate e i body)) s) :
    gated i :=
  ⟨_, hd ▸ domGate_asksFor (domGate_asksFor (asksFor_nil i body)), he⟩

theorem gated_vec {i : Instr} (body : Body) (hd : unitDoms i = [dVec]) (he : ∀ s, exec i s = issue i (vecGate i body) s) : gated i :=
  ⟨_, hd ▸ vecGate_asksFor (asksFor_nil i body), he⟩

theorem gated_with_vec {i : Instr} {d : Fin 32} (body : Body) (hd : unitDoms i = [d, dVec]) (he : ∀ s, exec i s = issue i (domGate d i (vecGate i body)) s) :
    gated i :=
  ⟨_, hd ▸ domGate_asksFor (vecGate_asksFor (asksFor_nil i body)), he⟩

/-- Every instruction that uses units asks for their domains, in their order (R28). -/
theorem unitDoms_gated (i : Instr) : unitDoms i = [] ∨ gated i := by
  cases i with
  | tcfgImm | tcfgReg | tcfgRead | tzero | trel | tmov | trdy | trdyW | tresume => exact .inr (gated_one _ rfl fun _ => rfl)
  | bswap | iclr => exact .inr (gated_one _ rfl fun _ => rfl)
  | smove | sqstat | sqwait | sqctlClear | sqctlRestart | sqctlRestartAt | sqctlAbandon | slaunch => exact .inr (gated_one _ rfl fun _ => rfl)
  | tld | tst | bplane | brun | idrainTile | idrainMemory => exact .inr (gated_two _ rfl fun _ => rfl)
  | vtrd | vtrdS | vtwr | vtwrS | idrainVector => exact .inr (gated_with_vec _ rfl fun _ => rfl)
  | vload | vstore | vcvt | vext | vins | vsplat | vradd => exact .inr (gated_vec _ rfl fun _ => rfl)
  | mand | mor | mxor | mnot | mset | mcnt => exact .inr (gated_vec _ rfl fun _ => rfl)
  | vadd | vsub | vmul | vmin | vmax | vminu | vmaxu | vand | vor | vxor | vshl | vshr | vsar => exact .inr (gated_vec _ rfl fun _ => rfl)
  | vfadd | vfsub | vfmul | vfdiv | vfsqrt | vfmin | vfmax | vfma | vfnma => exact .inr (gated_vec _ rfl fun _ => rfl)
  | vcmpeq | vcmplt | vcmpltu | vfcmpeq | vfcmplt | vfcmple | vrsum | vrmax | vrmin => exact .inr (gated_vec _ rfl fun _ => rfl)
  | rep gc g =>
    cases g with
    | vec => exact .inr (gated_vec _ rfl fun _ => rfl)
    | mu | other => exact .inl rfl
  | _ => exact .inl rfl

theorem setCur_curBank (s : State) : setCur s (curBank s) = s := by
  simp [setCur, curBank]

/-- The exception of an undefined instruction is none of the signals that a body gives. -/
theorem undefExc_code (i : Instr) : (undefExc i).code ≠ waitCode := by
  have h : (0x01 : Byte) ≠ waitCode := by decide
  unfold undefExc
  split
  · exact h
  · exact h

/-- An instruction that reaches a unit whose domain is off is undefined; with it asleep, it wakes it and waits (R28). -/
theorem unit_not_ready {i : Instr} {u : Fin 32} {s : State} (hr : Ready i s) (hu : (unitDoms i).find? (fun e => !(domUse s e == .ready)) = some u) :
    (domUse s u = .off → exec i s = .next (raise (undefExc i) s)) ∧ (domUse s u = .asleep → exec i s = .next { wakeRequest s u with stall := some i }) := by
  obtain h | ⟨body, hb, he⟩ := unitDoms_gated i
  · rw [h] at hu
    nomatch hu
  · obtain ⟨hoff, hasleep⟩ := hb (curBank s) s u hu
    refine ⟨fun h => ?_, fun h => ?_⟩
    · rw [he, issue_ready body hr, hoff h, settle_exc (undefExc_code i), setCur_curBank]
    · rw [he, issue_ready body hr, hasleep h]
      rfl

end Sys2Proof.Machine

namespace Sys2Proof.Machine

/-! SUPPORT. The power domains: a record replaced, wake requests, the end of a shutdown, and what follows an event of the power control where nothing
waits (R28, R29, R435, R445, R448). -/

/-! ### Domain records -/

@[simp] theorem setDom_dom_same (s : State) (d : Fin 32) (x : Dom) : (setDom s d x).dom[d] = x := by
  simp [setDom]

@[simp] theorem setDom_dom_other (s : State) {d e : Fin 32} (x : Dom) (h : e ≠ d) : (setDom s d x).dom[e] = s.dom[e] := by
  simp [setDom, Fin.val_inj, h.symm]

/-- What asks for a domain sees its own record alone (R28). -/
theorem domUse_setDom_other (s : State) {d e : Fin 32} (x : Dom) (h : e ≠ d) : domUse (setDom s d x) e = domUse s e := by
  unfold domUse
  rw [setDom_dom_other s x h]
  rfl

theorem domSettle_after (x : Dom) : (domSettle x).after = x.after := by
  unfold domSettle domUp
  split
  · rfl
  · rfl
  · split
    · dsimp only
      split
      · split <;> rfl
      · rfl
    · rfl

theorem domSettle_acks (x : Dom) : (domSettle x).fclkAck = x.fclkAck ∧ (domSettle x).pwrAck = x.pwrAck := by
  unfold domSettle domUp
  split
  · exact ⟨rfl, rfl⟩
  · exact ⟨rfl, rfl⟩
  · split
    · dsimp only
      split
      · split <;> exact ⟨rfl, rfl⟩
      · exact ⟨rfl, rfl⟩
    · exact ⟨rfl, rfl⟩

/-- A shutdown with no latched request ends in its state once all its acknowledgements have come (R445). -/
theorem domSettle_done {x : Dom} {g : DomSt} (hg : x.goal = some g) (hr : g ≠ .run) (hf : x.fclkAck = x.fclkReq) (hp : x.pwrAck = x.pwrReq)
    (hl : x.latched = false) : domSettle x = { x with st := g, goal := none } := by
  have hc : x.fclkAck = x.fclkReq ∧ x.pwrAck = x.pwrReq := ⟨hf, hp⟩
  unfold domSettle
  rw [hg]
  cases g with
  | run => exact absurd rfl hr
  | gated | sleepDown | sleepRet | retained | off => simp only [hc, hl, and_self, if_true, Bool.false_eq_true, if_false]

/-- A domain that drops its requests and finds no latched request is on its way to the state it sleeps in, or there (R445). -/
theorem domSettle_sleeping {x : Dom} {g : DomSt} (hg : x.goal = some g) (hr : g ≠ .run) (hl : x.latched = false) :
    (domSettle x).fclkReq = x.fclkReq ∧ ((domSettle x).goal = some g ∨ ((domSettle x).st = g ∧ (domSettle x).goal = none)) := by
  by_cases hc : x.fclkAck = x.fclkReq ∧ x.pwrAck = x.pwrReq
  · rw [domSettle_done hg hr hc.1 hc.2 hl]
    exact ⟨rfl, .inr ⟨rfl, rfl⟩⟩
  · have : domSettle x = x := by
      unfold domSettle
      rw [hg]
      cases g with
      | run => exact absurd rfl hr
      | gated | sleepDown | sleepRet | retained | off => simp only [hc, if_false]
    rw [this]
    exact ⟨rfl, .inl hg⟩

theorem domDown_sleep {x : Dom} (d : Fin 32) : (domDown x (sleepState d)).fclkReq = false ∧ (domDown x (sleepState d)).goal = some (sleepState d) ∧
    (domDown x (sleepState d)).latched = x.latched ∧ sleepState d ≠ .run := by
  unfold sleepState
  split
  · exact ⟨rfl, rfl, rfl, nofun⟩
  · split
    · exact ⟨rfl, rfl, rfl, nofun⟩
    · exact ⟨rfl, rfl, rfl, nofun⟩

/-! ### Wake requests -/

/-- The acknowledgements are the host's (R433, R435). -/
theorem domWake_acks (x : Dom) : (domWake x).fclkAck = x.fclkAck ∧ (domWake x).pwrAck = x.pwrAck := by
  unfold domWake domUp
  split
  · split
    · exact ⟨rfl, rfl⟩
    · split <;> exact ⟨rfl, rfl⟩
  · exact ⟨rfl, rfl⟩
  · exact ⟨rfl, rfl⟩

/-- A wake request while a power-up runs has no effect (R445). -/
theorem domWake_rising {x : Dom} (h : x.goal = some .run) : domWake x = x := by
  unfold domWake
  rw [h]

/-- A wake request while a shutdown runs is latched (R445). -/
theorem domWake_falling {x : Dom} {g : DomSt} (h : x.goal = some g) (hr : g ≠ .run) : domWake x = { x with latched := true } := by
  unfold domWake
  rw [h]
  cases g with
  | run => exact absurd rfl hr
  | gated | sleepDown | sleepRet | retained | off => rfl

/-- A wake request of a domain that rests raises the requests that its state needs (R445). -/
theorem domWake_resting {x : Dom} (h : x.goal = none) (hr : x.st ≠ .run) :
    (domWake x).goal = some .run ∧ (domWake x).fclkReq = true ∧ (x.st ≠ .gated → (domWake x).pwrReq = 2) := by
  unfold domWake domUp
  rw [h]
  dsimp only
  rw [if_neg hr]
  split
  · next hs => exact absurd hs hr
  · next hs => exact ⟨rfl, rfl, fun hn => absurd hs hn⟩
  · exact ⟨rfl, rfl, fun _ => rfl⟩
  · exact ⟨rfl, rfl, fun _ => rfl⟩

/-- Waking twice is waking once (R445). -/
theorem domWake_twice (x : Dom) : domWake (domWake x) = domWake x := by
  cases hg : x.goal with
  | none =>
    by_cases hr : x.st = .run
    · have : domWake x = x := by simp [domWake, hg, hr]
      rw [this, this]
    · exact domWake_rising (domWake_resting hg hr).1
  | some g =>
    by_cases hr : g = .run
    · rw [domWake_rising (hg.trans (congrArg some hr)), domWake_rising (hg.trans (congrArg some hr))]
    · rw [domWake_falling hg hr, domWake_falling (x := { x with latched := true }) hg hr]

/-- A domain that is asleep does not run with nothing under way (R28). -/
theorem asleep_not_run {s : State} {d : Fin 32} (h : domUse s d = .asleep) (hg : s.dom[d].goal = none) : s.dom[d].st ≠ .run :=
  fun hr => not_asleep_of_run hr hg h

/-- A wake request changes domains alone. -/
theorem wakeRequest_doms (s : State) (d : Fin 32) : wakeRequest s d = { s with dom := (wakeRequest s d).dom } := by
  unfold wakeRequest
  split
  · dsimp only
    split <;> rfl
  · rfl

/-- A wake request wakes its domain, VELLUM with it, and no other (R28, R29). -/
theorem wakeRequest_asleep {s : State} {d : Fin 32} (h : domUse s d = .asleep) :
    (wakeRequest s d).dom[d] = domWake s.dom[d] ∧ (∀ e : Fin 32, e ≠ d → e ≠ dVellum → (wakeRequest s d).dom[e] = s.dom[e]) ∧
    (domUse s dVellum = .asleep → (wakeRequest s d).dom[dVellum] = domWake s.dom[dVellum]) := by
  unfold wakeRequest
  rw [if_pos h]
  dsimp only
  by_cases hv : dVellum = d
  · subst hv
    split
    · refine ⟨?_, fun e he _ => ?_, fun _ => ?_⟩
      · rw [setDom_dom_same, setDom_dom_same, domWake_twice]
      · rw [setDom_dom_other _ _ he, setDom_dom_other _ _ he]
      · rw [setDom_dom_same, setDom_dom_same, domWake_twice]
    · exact ⟨setDom_dom_same _ _ _, fun e he _ => setDom_dom_other _ _ he, fun _ => setDom_dom_same _ _ _⟩
  · rw [domUse_setDom_other s _ hv]
    split
    · refine ⟨?_, fun e he hev => ?_, fun _ => ?_⟩
      · rw [setDom_dom_other _ _ (Ne.symm hv), setDom_dom_same]
      · rw [setDom_dom_other _ _ hev, setDom_dom_other _ _ he]
      · rw [setDom_dom_same, setDom_dom_other _ _ hv]
    · next hn => exact ⟨setDom_dom_same _ _ _, fun e he _ => setDom_dom_other _ _ he, fun ha => absurd ha hn⟩

/-! ### What follows an event of the power control -/

/-- Where no shutdown waits, none follows. -/
theorem followUps_quiet {s : State} (h : ∀ d : Fin 32, s.dom[d].after = none) (l : List (Fin 32)) : l.foldl followUp s = s :=
  foldl_keeps (· = s) followUp (fun t d ht => by rw [ht, followUp, h d]) l s rfl

/-- With no POWER_SET and no shutdown that waits, only the clock of VELLUM can follow. -/
theorem powerPoll_quiet {s : State} (hp : s.pset = none) (h : ∀ d : Fin 32, s.dom[d].after = none) : powerPoll s = clockVellum s := by
  have hc : (clockVellum s).pset = none := by
    unfold clockVellum
    dsimp only
    split
    · exact hp
    · exact hp
  unfold powerPoll
  rw [followUps_quiet h]
  simp only [hc, powerDone]

/-- Clocking VELLUM changes its record and its holds alone. -/
theorem clockVellum_keeps (s : State) : clockVellum s = { s with dom := (clockVellum s).dom, heldOff := (clockVellum s).heldOff, heldRet := (clockVellum s).heldRet } ∧
    (∀ e : Fin 32, e ≠ dVellum → (clockVellum s).dom[e] = s.dom[e]) ∧ (clockVellum s).dom[dVellum].fclkAck = s.dom[dVellum].fclkAck ∧
    (clockVellum s).dom[dVellum].pwrAck = s.dom[dVellum].pwrAck := by
  unfold clockVellum
  dsimp only
  split
  · refine ⟨rfl, fun e he => ?_, ?_⟩
    · rw [setDom_dom_other _ _ he]
    · rw [setDom_dom_same]
      exact domWake_acks { s.dom[dVellum] with after := none }
  · exact ⟨rfl, fun _ _ => rfl, rfl, rfl⟩

/-- VELLUM that runs, or that nothing needs, stays as it is. -/
theorem clockVellum_idle {s : State} (h : othersClocked s = true → s.dom[dVellum].st = .run ∧ s.dom[dVellum].goal = none) : clockVellum s = s := by
  unfold clockVellum
  dsimp only
  rw [if_neg]
  rintro ⟨ho, -, hn⟩
  exact hn (h ho)

/-- Whether another domain than VELLUM asks for its clock does not depend on VELLUM. -/
theorem othersClocked_setVellum (s : State) (x : Dom) : othersClocked (setDom s dVellum x) = othersClocked s := by
  unfold othersClocked
  refine congrArg (List.any _) (funext fun d => ?_)
  by_cases h : d = dVellum
  · subst h
    rfl
  · rw [setDom_dom_other s x h]

/-! ### Acknowledgements -/

/-- The state after an acknowledgement of a domain, whose record is then y (R433, R435, R445). -/
theorem ack_effect {s : State} (hq : powerQuiet s) {d : Fin 32} {y : Dom} (ha : y.after = none) (hg : y.goal = s.dom[d].goal) :
    let t := powerPoll (setDom s d (domSettle y))
    t = { s with dom := t.dom, heldOff := t.heldOff, heldRet := t.heldRet } ∧ t.dom[d].fclkAck = y.fclkAck ∧ t.dom[d].pwrAck = y.pwrAck ∧
    (∀ g, y.goal = some g → g ≠ .run → y.fclkAck = y.fclkReq → y.pwrAck = y.pwrReq → y.latched = false → t.dom[d].st = g ∧ t.dom[d].goal = none) := by
  obtain ⟨hp, hafter, hv⟩ := hq
  have hafter' : ∀ e : Fin 32, (setDom s d (domSettle y)).dom[e].after = none := fun e => by
    by_cases he : e = d
    · subst he
      rw [setDom_dom_same, domSettle_after, ha]
    · rw [setDom_dom_other _ _ he, hafter e]
  dsimp only
  rw [powerPoll_quiet (s := setDom s d (domSettle y)) hp hafter']
  obtain ⟨hk, hother, hvf, hvp⟩ := clockVellum_keeps (setDom s d (domSettle y))
  have hset : ∀ g, y.goal = some g → g ≠ .run → (clockVellum (setDom s d (domSettle y))).dom[d] = domSettle y := fun g hyg _ => by
    by_cases he : d = dVellum
    · subst he
      rw [clockVellum_idle, setDom_dom_same]
      rw [othersClocked_setVellum]
      intro ho
      have := (hv ho).2
      rw [← hg, hyg] at this
      nomatch this
    · rw [hother d he, setDom_dom_same]
  refine ⟨?_, ?_, ?_, fun g hyg hr hf hpw hl => ?_⟩
  · rw [hk]
    rfl
  · by_cases he : d = dVellum
    · subst he
      rw [hvf, setDom_dom_same, (domSettle_acks y).1]
    · rw [hother d he, setDom_dom_same, (domSettle_acks y).1]
  · by_cases he : d = dVellum
    · subst he
      rw [hvp, setDom_dom_same, (domSettle_acks y).2]
    · rw [hother d he, setDom_dom_same, (domSettle_acks y).2]
  · rw [hset g hyg hr, domSettle_done hyg hr hf hpw hl]
    exact ⟨rfl, rfl⟩

/-! ### The end of a power-up -/

/-- The domain record once a power-up is over (R448). -/
def upDom (x : Dom) : Dom := { x with st := .run, goal := none, init := false }

/-- What a power-up brings before its domain runs: the initialisation from off, or the credits of a VELLUM that was in retention (R421, R448). -/
def wakeInit (s : State) (d : Fin 32) : State :=
  if s.dom[d].init then domInit s d else if d = dVellum ∧ s.dom[d].st = .retained then { s with port := vmap grantPort s.port } else s

/-- Emptying the translation caches of a domain changes the caches alone. -/
theorem dropTlb_caches (s : State) (d : Fin 32) : dropTlb s d = { s with ca := (dropTlb s d).ca } := by
  unfold dropTlb
  split
  · rfl
  · split
    · rfl
    · rfl

/-- An initialisation leaves the domains, the POWER_SET and the memory behind the fabric (R448). -/
theorem domInit_keeps (s : State) (d : Fin 32) : (domInit s d).dom = s.dom ∧ (domInit s d).pset = s.pset ∧ (domInit s d).mem = s.mem := by
  unfold domInit
  split
  · exact ⟨rfl, rfl, rfl⟩
  · exact ⟨rfl, rfl, rfl⟩
  · exact ⟨rfl, rfl, rfl⟩
  · rw [dropTlb_caches]
    exact ⟨rfl, rfl, rfl⟩
  · exact ⟨rfl, rfl, rfl⟩
  · exact ⟨rfl, rfl, rfl⟩
  · split
    · rw [dropTlb_caches]
      exact ⟨rfl, rfl, rfl⟩
    · exact ⟨rfl, rfl, rfl⟩

theorem wakeInit_keeps (s : State) (d : Fin 32) : (wakeInit s d).dom = s.dom ∧ (wakeInit s d).pset = s.pset ∧ (wakeInit s d).mem = s.mem := by
  unfold wakeInit
  split
  · exact domInit_keeps s d
  · split <;> exact ⟨rfl, rfl, rfl⟩

/-- The state in which a power-up has ended, but for the credits of the partner. -/
def wokenUp (s : State) (d : Fin 32) : State := setDom (wakeInit s d) d (upDom s.dom[d])

/-- With nothing that waits, a power-up whose acknowledgements have come ends, VELLUM up (R29, R448). -/
theorem domainWakeComplete_effect {d : Fin 32} {s : State} (hl : Live s) (hq : powerQuiet s) (hd : domPresent s.var d = true) (hw : isL2w d = false)
    (hu : domUpAcked s.dom[d] = true) (hv : d = dVellum ∨ (s.dom[dVellum].st = .run ∧ s.dom[dVellum].goal = none)) :
    exec (.domainWakeComplete d) s = .next (if d = dVellum then grantPartner (wokenUp s d) else wokenUp s d) := by
  obtain ⟨hp, hafter, -⟩ := hq
  obtain ⟨kd, kp, -⟩ := wakeInit_keeps s d
  have hstart : coreMayStart s = true := by rw [coreMayStart, hp]
  have hv' : (d == dVellum || (s.dom[dVellum].st == .run && s.dom[dVellum].goal.isNone)) = true := by
    obtain h | ⟨h1, h2⟩ := hv
    · simp [h]
    · rw [h1, h2]
      exact Bool.or_true _
  have hpoll : powerPoll (wokenUp s d) = wokenUp s d := by
    rw [powerPoll_quiet (s := wokenUp s d) (kp.trans hp) fun e => ?_, clockVellum_idle fun _ => ?_]
    · by_cases he : dVellum = d
      · subst he
        rw [wokenUp, setDom_dom_same]
        exact ⟨rfl, rfl⟩
      · rw [wokenUp, setDom_dom_other _ _ he, kd]
        exact hv.resolve_left (Ne.symm he)
    · by_cases he : e = d
      · subst he
        rw [wokenUp, setDom_dom_same]
        exact hafter e
      · rw [wokenUp, setDom_dom_other _ _ he, kd, hafter e]
  have hc : (domPresent s.var d && !isL2w d && domUpAcked s.dom[d] && (d == dVellum || (s.dom[dVellum].st == .run && s.dom[dVellum].goal.isNone))
      && !(d == dCore && s.dom[d].init && !coreMayStart s)) = true := by
    rw [hd, hw, hu, hv', hstart]
    simp
  rw [exec, execDomainWakeComplete, event_live hl]
  dsimp only
  rw [if_pos hc, Option.getD_some]
  exact congrArg _ (congrArg (fun u => if d = dVellum then grantPartner u else u) hpoll)

end Sys2Proof.Machine

namespace Sys2Proof.Machine

/-! SUPPORT. What each domain's power-up leaves, and the statement of the power domains (R28, R29, R137, R162, R435, R443 to R448). -/

/-! ### The partner's credits -/

/-- The mirror engine's going on takes no vector back and leaves every running domain. -/
theorem mirAdvance_steady (s : State) : steady s (mirAdvance s) := by
  have h : steady s (advanceCommit s) := by
    unfold advanceCommit
    split
    · exact steady_refl s
    · dsimp only
      rw [pumpSend_sendOnly (commitRecord s _) _ s]
      exact steady_refl s
  rw [mirAdvance]
  exact steady_trans h (serveOnly_trans (advanceServe_serveOnly 5 _) (advanceFetch_serveOnly _)).2

/-- What granting the partner its credits may change: the mirror engine, and what the reads of an answer to a FREQ meet (R424). -/
def grantOnly (s t : State) : Prop :=
  t = { s with
    mir := t.mir, ca := t.ca, err := t.err, dom := t.dom, freeCtr := t.freeCtr
    c := { s.c with errlast := t.c.errlast, ipend := t.c.ipend, l2Check := t.c.l2Check, l1dCheck := t.c.l1dCheck } } ∧ steady s t

theorem grantPartner_grantOnly (s : State) : grantOnly s (grantPartner s) := by
  unfold grantPartner
  split
  · dsimp only
    have ha := mirAdvance_advanceOnly (setMir (emit s (.credit 4) 0) { (emit s (.credit 4) 0).mir with granted := true })
    have hs := mirAdvance_steady (setMir (emit s (.credit 4) 0) { (emit s (.credit 4) 0).mir with granted := true })
    generalize mirAdvance (setMir (emit s (.credit 4) 0) { (emit s (.credit 4) 0).mir with granted := true }) = t at ha hs
    unfold advanceOnly at ha
    refine ⟨?_, hs⟩
    rw [ha]
    rfl
  · exact ⟨rfl, steady_refl s⟩

/-- Without a link nothing is granted. -/
theorem grantPartner_noLink {s : State} (h : s.mir.link = false) : grantPartner s = s := by
  rw [grantPartner, h]
  rfl

/-! ### The initialisations -/

theorem dropTlb_stream (s : State) : (dropTlb s dStream).ca.stlb = [] := rfl

theorem ne_dStream {d : Fin 32} (h : 16 ≤ d.val) : d ≠ dStream := fun he => by
  rw [he] at h
  exact absurd h (by decide)

theorem dropTlb_scribe (s : State) {d : Fin 32} (h : 16 ≤ d.val) :
    (dropTlb s d).ca.scrTlb[scribeOf d] = [] ∧ (dropTlb s d).ca.scrL1i[scribeOf d] = [] := by
  rw [dropTlb, if_neg (ne_dStream h), if_pos h]
  exact ⟨Vector.getElem_set_self _, Vector.getElem_set_self _⟩

theorem dropTlb_other (s : State) {d : Fin 32} (hs : d ≠ dStream) (h : ¬ 16 ≤ d.val) : dropTlb s d = s := by
  rw [dropTlb, if_neg hs, if_neg h]

theorem domInit_scribe (s : State) {d : Fin 32} (h : 16 ≤ d.val) :
    domInit s d = dropTlb (setScribe s (scribeOf d) { s.scribes[scribeOf d] with threads := [], last := 127 }) d := by
  unfold domInit
  split
  any_goals omega
  rw [if_pos h]

theorem wokenUp_init {s : State} {d : Fin 32} (h : s.dom[d].init = true) : wokenUp s d = setDom (domInit s d) d (upDom s.dom[d]) := by
  rw [wokenUp, wakeInit, if_pos h]

theorem wokenUp_plain {s : State} {d : Fin 32} (h : s.dom[d].init = false) (hd : d ≠ dVellum) : wokenUp s d = setDom s d (upDom s.dom[d]) := by
  rw [wokenUp, wakeInit, if_neg (by rw [h]; decide), if_neg fun hc => hd hc.1]

/-- VELLUM that wakes without an initialisation: from retention its ports get their credits again (R415, R421). -/
theorem wokenUp_vellum {s : State} (h : s.dom[dVellum].init = false) :
    wokenUp s dVellum = { s with dom := (wokenUp s dVellum).dom, port := (wokenUp s dVellum).port } ∧
    ∀ p : PortNum, s.dom[dVellum].st = .retained → s.port[p].up = true → (wokenUp s dVellum).port[p].snoopCr = 32 ∧ (wokenUp s dVellum).port[p].targetCr = 16 := by
  rw [wokenUp, wakeInit, if_neg (by rw [h]; decide)]
  by_cases hr : s.dom[dVellum].st = .retained
  · rw [if_pos ⟨rfl, hr⟩]
    refine ⟨rfl, fun p _ hu => ?_⟩
    simp only [Fin.getElem_fin] at hu
    simp [grantPort, hu]
  · rw [if_neg fun hc => hr hc.2]
    exact ⟨rfl, fun p hc => absurd hc hr⟩

theorem freshBanks_zero (s : State) : (freshBanks s)[(0 : BankNum)] =
    { v := s.banks[(0 : BankNum)].v, m := s.banks[(0 : BankNum)].m, st := .run, pc := s.cfg.resetpc } := by
  simp [freshBanks]

theorem freshBanks_other (s : State) {k : BankNum} (hk : k ≠ 0) : (freshBanks s)[k].st = .free := by
  have : k.val ≠ 0 := fun h => hk (Fin.ext h)
  simp [freshBanks, this, lostVec]

/-- The vellum once VELLUM has powered up from off: its zeroing runs, and the tallies are as at reset (R162, R306). -/
theorem wokenUp_init_vellum {s : State} (h : s.dom[dVellum].init = true) :
    let t := wokenUp s dVellum
    t.vellum = [] ∧ t.vellumBad = [] ∧ t.vellumZeroing = true ∧ t.tal = Vector.replicate 16 {} ∧ t.banks = s.banks := by
  rw [wokenUp_init h]
  exact ⟨rfl, rfl, rfl, rfl, rfl⟩

theorem wokenUp_init_tile {s : State} (h : s.dom[dTile].init = true) :
    let t := wokenUp s dTile
    (∀ k : TReg, t.tiles[k] = freshTile s.var) ∧ t.c.tdirty = 0 ∧ t.banks = s.banks := by
  rw [wokenUp_init h]
  exact ⟨fun k => Vector.getElem_replicate k.isLt, rfl, rfl⟩

theorem wokenUp_init_board {s : State} (h : s.dom[dBoard].init = true) :
    let t := wokenUp s dBoard
    t.inkZeroing = true ∧ t.bd.planes = Vector.replicate 2 {} ∧ t.bd.acc = Vector.replicate 2 {} ∧ t.bd.flight = [] ∧ t.banks = s.banks := by
  rw [wokenUp_init h]
  exact ⟨rfl, rfl, rfl, rfl, rfl⟩

theorem wokenUp_init_stream {s : State} (h : s.dom[dStream].init = true) :
    let t := wokenUp s dStream
    t.sq = Vector.replicate 64 {} ∧ t.ca.stlb = [] ∧ t.banks = s.banks := by
  rw [wokenUp_init h]
  exact ⟨rfl, rfl, rfl⟩

theorem wokenUp_init_vec {s : State} (h : s.dom[dVec].init = true) (k : BankNum) :
    (wokenUp s dVec).banks[k] = { s.banks[k] with v := Vector.replicate 32 0, m := Vector.replicate 8 0 } := by
  rw [wokenUp_init h]
  exact vmap_get _ s.banks k.val k.isLt

theorem wokenUp_init_scribe {s : State} {d : Fin 32} (h : s.dom[d].init = true) (hd : 16 ≤ d.val) :
    let t := wokenUp s d
    t.scribes[scribeOf d].threads = [] ∧ t.ca.scrTlb[scribeOf d] = [] ∧ t.banks = s.banks := by
  rw [wokenUp_init h, domInit_scribe s hd]
  refine ⟨?_, (dropTlb_scribe _ hd).1, ?_⟩
  · rw [dropTlb_caches]
    simp [setScribe]
  · rw [dropTlb_caches]
    rfl

/-- The general core once CORE has powered up from off: bank 0 begins at CFG_RESETPC, the others are FREE, its caches are empty (R448). -/
theorem wokenUp_init_core {s : State} (h : s.dom[dCore].init = true) :
    let t := wokenUp s dCore
    t.c.cur = 0 ∧ t.banks[(0 : BankNum)].pc = s.cfg.resetpc ∧ t.banks[(0 : BankNum)].fl = 0 ∧ t.banks[(0 : BankNum)].st = .run ∧
    (∀ k : BankNum, k ≠ 0 → t.banks[k].st = .free) ∧ t.ca.sb = [] ∧ t.ca.l1d = [] ∧ t.ca.itlb = [] ∧ t.ca.dtlb = [] ∧ t.c.ply = s.c.ply := by
  rw [wokenUp_init h]
  exact ⟨rfl, congrArg Bank.pc (freshBanks_zero s), congrArg Bank.fl (freshBanks_zero s), congrArg Bank.st (freshBanks_zero s), fun k hk => freshBanks_other s hk, rfl, rfl, rfl, rfl, rfl⟩

/-! ### The statement, row by row -/

/-- The end of a power-up, domain by domain (R448). -/
theorem domainWakeComplete_leaves {d : Fin 32} {s : State} (hl : Live s) (hq : powerQuiet s) (hp : domPresent s.var d = true) (hw : isL2w d = false)
    (hu : domUpAcked s.dom[d] = true) (hv : d = dVellum ∨ (s.dom[dVellum].st = .run ∧ s.dom[dVellum].goal = none)) : let x := s.dom[d]
      ∃ t, exec (.domainWakeComplete d) s = .next t ∧ t.dom[d] = { x with st := .run, goal := none, init := false } ∧ (d ≠ dVellum → t.mem = s.mem) ∧
        (x.init = false → d ≠ dVellum → t = { s with dom := t.dom }) ∧
        (x.init = false → d = dVellum → t.banks = s.banks ∧ (s.mir.link = false → t = { s with dom := t.dom, port := t.port } ∧
          ∀ p : PortNum, x.st = .retained → s.port[p].up = true → t.port[p].snoopCr = 32 ∧ t.port[p].targetCr = 16)) ∧
        (x.init = true → d = dVellum → t.vellum = [] ∧ t.vellumBad = [] ∧ t.vellumZeroing = true ∧ t.tal = Vector.replicate 16 {} ∧ t.banks = s.banks) ∧
        (x.init = true → d = dTile → (∀ k : TReg, t.tiles[k] = freshTile s.var) ∧ t.c.tdirty = 0 ∧ t.banks = s.banks) ∧
        (x.init = true → d = dBoard → t.inkZeroing = true ∧ t.bd.planes = Vector.replicate 2 {} ∧ t.bd.acc = Vector.replicate 2 {} ∧ t.bd.flight = [] ∧ t.banks = s.banks) ∧
        (x.init = true → d = dStream → t.sq = Vector.replicate 64 {} ∧ t.ca.stlb = [] ∧ t.banks = s.banks) ∧
        (x.init = true → d = dVec → ∀ k : BankNum, t.banks[k] = { s.banks[k] with v := Vector.replicate 32 0, m := Vector.replicate 8 0 }) ∧
        (x.init = true → 16 ≤ d.val → t.scribes[scribeOf d].threads = [] ∧ t.ca.scrTlb[scribeOf d] = [] ∧ t.banks = s.banks) ∧
        (x.init = true → d = dCore → t.c.cur = 0 ∧ t.banks[(0 : BankNum)].pc = s.cfg.resetpc ∧ t.banks[(0 : BankNum)].fl = 0 ∧ t.banks[(0 : BankNum)].st = .run ∧
          (∀ k : BankNum, k ≠ 0 → t.banks[k].st = .free) ∧ t.ca.sb = [] ∧ t.ca.l1d = [] ∧ t.ca.itlb = [] ∧ t.ca.dtlb = [] ∧ t.c.ply = s.c.ply) := by
  intro x
  have he := domainWakeComplete_effect hl hq hp hw hu hv
  have hdom : (wokenUp s d).dom[d] = upDom x := setDom_dom_same _ _ _
  by_cases hd : d = dVellum
  · rw [if_pos hd] at he
    subst hd
    obtain ⟨hg, hs⟩ := grantPartner_grantOnly (wokenUp s dVellum)
    have hrun := hs.2 dVellum (by rw [hdom]; rfl) (by rw [hdom]; rfl)
    refine ⟨_, he, hrun.trans hdom, fun h => absurd rfl h, fun _ h => absurd rfl h, fun hi _ => ?_, fun hi _ => ?_, ?_, ?_, ?_, ?_, ?_, ?_⟩
    · obtain ⟨hk, hports⟩ := wokenUp_vellum hi
      refine ⟨?_, fun hlink => ?_⟩
      · rw [hg, hk]
      · rw [grantPartner_noLink (by rw [hk]; exact hlink)]
        exact ⟨hk, hports⟩
    · rw [hg]
      exact wokenUp_init_vellum hi
    · exact fun _ h => absurd h (by decide)
    · exact fun _ h => absurd h (by decide)
    · exact fun _ h => absurd h (by decide)
    · exact fun _ h => absurd h (by decide)
    · exact fun _ h => absurd h (by decide)
    · exact fun _ h => absurd h (by decide)
  · rw [if_neg hd] at he
    refine ⟨_, he, hdom, fun _ => (wakeInit_keeps s d).2.2, fun hi _ => ?_, fun _ h => absurd h hd, fun _ h => absurd h hd, fun hi h => ?_, fun hi h => ?_, fun hi h => ?_,
      fun hi h => ?_, fun hi h => wokenUp_init_scribe hi h, fun hi h => ?_⟩
    · rw [wokenUp_plain hi hd]
      rfl
    · subst h
      exact wokenUp_init_tile hi
    · subst h
      exact wokenUp_init_board hi
    · subst h
      exact wokenUp_init_stream hi
    · subst h
      exact wokenUp_init_vec hi
    · subst h
      exact wokenUp_init_core hi

/-- A domain that is idle enters idle sleep (R444, R445). -/
theorem idleThresholdExpiry_sleeps (s : State) (d : Fin 32) (hl : s.dom[d].latched = false) :
    let t := dropTlb (setDom s d (domSettle (domDown s.dom[d] (sleepState d)))) d
    t = { s with dom := t.dom, ca := t.ca } ∧ t.dom[d].fclkReq = false ∧
      (t.dom[d].goal = some (sleepState d) ∨ (t.dom[d].st = sleepState d ∧ t.dom[d].goal = none)) ∧ (∀ e : Fin 32, e ≠ d → t.dom[e] = s.dom[e]) ∧
      (if d = dStream then t.ca.stlb = [] else if 16 ≤ d.val then t.ca.scrTlb[scribeOf d] = [] ∧ t.ca.scrL1i[scribeOf d] = [] else t.ca = s.ca) := by
  obtain ⟨hf, hg, hlat, hr⟩ := domDown_sleep (x := s.dom[d]) d
  obtain ⟨hsf, hsg⟩ := domSettle_sleeping hg hr (hlat.trans hl)
  have hc := dropTlb_caches (setDom s d (domSettle (domDown s.dom[d] (sleepState d)))) d
  have hdom : (dropTlb (setDom s d (domSettle (domDown s.dom[d] (sleepState d)))) d).dom = (setDom s d (domSettle (domDown s.dom[d] (sleepState d)))).dom := by
    rw [hc]
  dsimp only
  refine ⟨?_, ?_, ?_, fun e he => ?_, ?_⟩
  · rw [hc]
    rfl
  · rw [hdom, setDom_dom_same, hsf, hf]
  · rw [hdom, setDom_dom_same]
    exact hsg
  · rw [hdom, setDom_dom_other _ _ he]
  · split
    · next h =>
      subst h
      exact dropTlb_stream _
    · next h =>
      split
      · next hs => exact dropTlb_scribe _ hs
      · next hs =>
        rw [dropTlb_other _ h hs]
        rfl

/-- An answer to a clock request is taken in (R433). -/
theorem fclkAckChange_takes {s : State} {d : Fin 32} {v : Bool} (hl : Live s) (hp : domPresent s.var d = true) (hv : v = s.dom[d].fclkReq)
    (hne : s.dom[d].fclkAck ≠ v) : exec (.fclkAckChange d v) s = .next (powerPoll (setDom s d (domSettle { s.dom[d] with fclkAck := v }))) := by
  rw [exec, execFclkAckChange, pinEvent_live hl, if_pos ⟨hp, hv, hne⟩, Option.getD_some]

/-- An answer to a power request is taken in (R435). -/
theorem pwrAckChange_takes {s : State} {d : Fin 32} {v : BitVec 2} (hl : Live s) (hp : domPresent s.var d = true) (hv : v = s.dom[d].pwrReq)
    (hne : s.dom[d].pwrAck ≠ v) : exec (.pwrAckChange d v) s = .next (powerPoll (setDom s d (domSettle { s.dom[d] with pwrAck := v }))) := by
  rw [exec, execPwrAckChange, pinEvent_live hl, if_pos ⟨hp, hv, hne⟩, Option.getD_some]

/-- Where nothing waits and no domain has changed, nothing follows. -/
theorem powerPoll_still {s t : State} (hq : powerQuiet s) (hd : t.dom = s.dom) (hp : t.pset = s.pset) : powerPoll t = t := by
  obtain ⟨hs, hafter, hv⟩ := hq
  rw [powerPoll_quiet (hp.trans hs) (by rw [hd]; exact hafter), clockVellum_idle]
  unfold othersClocked at *
  rw [hd]
  exact hv

/-- The condition for idle sleep, as the event tests it (R444). -/
def maySleep (s : State) (d : Fin 32) : Bool :=
  domPresent s.var d && !isL2w d && s.dom[d].st == .run && s.dom[d].goal.isNone && s.qu.thr[d] != 0 && !(s.c.ruledAct && d.val < 16)
    && !s.heldOff.getLsbD d.val && !s.heldRet.getLsbD d.val && domIdle s d

theorem maySleep_iff (s : State) (d : Fin 32) : maySleep s d = true ↔
    domPresent s.var d = true ∧ isL2w d = false ∧ s.dom[d].st = .run ∧ s.dom[d].goal = none ∧ s.qu.thr[d] ≠ 0 ∧ (s.c.ruledAct = false ∨ 16 ≤ d.val) ∧
      s.heldOff.getLsbD d.val = false ∧ s.heldRet.getLsbD d.val = false ∧ domIdle s d = true := by
  simp only [maySleep, Bool.and_eq_true, Bool.not_eq_true', beq_iff_eq, bne_iff_ne, Option.isNone_iff_eq_none, Bool.and_eq_false_iff, decide_eq_false_iff_not,
    Nat.not_lt, and_assoc]

theorem idleThresholdExpiry_eq {s : State} (hl : Live s) (d : Fin 32) : exec (.idleThresholdExpiry d) s =
    .next (if maySleep s d then dropTlb (setDom s d (domSettle (domDown s.dom[d] (sleepState d)))) d else s) := by
  rw [exec, execIdleThresholdExpiry, event_live hl]
  unfold maySleep
  dsimp only
  split <;> rfl

/-- A power-up that is not acknowledged, or that VELLUM is not up for, does not end (R29, R435). -/
theorem domainWakeComplete_waits {s : State} {d : Fin 32} (hl : Live s)
    (h : domUpAcked s.dom[d] = false ∨ isL2w d = true ∨ (d ≠ dVellum ∧ s.dom[dVellum].st ≠ .run)) : exec (.domainWakeComplete d) s = .next s := by
  have hc : ¬ (domPresent s.var d && !isL2w d && domUpAcked s.dom[d] && (d == dVellum || (s.dom[dVellum].st == .run && s.dom[dVellum].goal.isNone))
      && !(d == dCore && s.dom[d].init && !coreMayStart s)) = true := by
    simp only [Bool.and_eq_true, Bool.or_eq_true, beq_iff_eq, Bool.not_eq_true']
    rintro ⟨⟨⟨⟨-, hw⟩, hu⟩, hv⟩, -⟩
    obtain h | h | ⟨hd, hr⟩ := h
    · rw [hu] at h
      nomatch h
    · rw [hw] at h
      nomatch h
    · obtain hv | ⟨hv, -⟩ := hv
      · exact hd hv
      · exact hr hv
  rw [exec, execDomainWakeComplete, event_live hl]
  dsimp only
  rw [if_neg hc, Option.getD_none]

/-- Settles O57: the gates of the units' instructions, and each row of the power control from the lemma about its effect. -/
theorem powerDomainsSleepAndWake : Obligations.PowerDomainsSleepAndWake := by
  unfold Obligations.PowerDomainsSleepAndWake
  refine ⟨fun i u s => unit_not_ready, fun d s hl => ?_⟩
  intro x may
  refine ⟨?stays, ?sleeps, ?wakes, ?awake, ?fclk, ?pwr, fun hq hp => ⟨?fclkAck, ?pwrAck⟩, ?notUp, fun hq hp hw hu hv => domainWakeComplete_leaves hl hq hp hw hu hv,
    ?vellum, ?ink, fun hq => ⟨?vellumZero, ?inkZero⟩⟩
  case stays =>
    intro h
    rw [idleThresholdExpiry_eq hl, if_neg fun hm => h ((maySleep_iff s d).1 hm)]
  case sleeps =>
    intro h hlat
    exact ⟨_, by rw [idleThresholdExpiry_eq hl, if_pos ((maySleep_iff s d).2 h)], idleThresholdExpiry_sleeps s d hlat⟩
  case wakes =>
    intro ha
    obtain ⟨hd, hother, hv⟩ := wakeRequest_asleep ha
    refine ⟨wakeRequest s d, ?_, wakeRequest_doms s d, hother, fun hg => ?_, fun hg => ?_, fun g hg hr => ?_, fun hav hvg => ?_⟩
    · rw [exec, execDomainWakeRequest, event_live hl]
      rfl
    · rw [hd]
      exact domWake_resting hg (asleep_not_run ha hg)
    · rw [hd]
      exact domWake_rising hg
    · rw [hd]
      exact domWake_falling hg hr
    · rw [hv hav]
      exact (domWake_resting hvg (asleep_not_run hav hvg)).1
  case awake =>
    intro ha
    rw [exec, execDomainWakeRequest, event_live hl, wakeRequest, if_neg ha]
    rfl
  case fclk =>
    intro v h
    rw [exec, execFclkAckChange, pinEvent_live hl, if_neg, Option.getD_none]
    rintro ⟨hp, hv, hne⟩
    obtain h | h | h := h
    · rw [hp] at h
      nomatch h
    · exact h hv
    · exact hne h
  case pwr =>
    intro v h
    rw [exec, execPwrAckChange, pinEvent_live hl, if_neg, Option.getD_none]
    rintro ⟨hp, hv, hne⟩
    obtain h | h | h := h
    · rw [hp] at h
      nomatch h
    · exact h hv
    · exact hne h
  case fclkAck =>
    intro v hv hne
    obtain ⟨he, hf, -, hdone⟩ := ack_effect hq (d := d) (y := { x with fclkAck := v }) (hq.2.1 d) rfl
    refine ⟨_, ?_, hf, he, fun g hg hr hp hl => hdone g hg hr hv hp hl⟩
    exact fclkAckChange_takes hl hp hv hne
  case pwrAck =>
    intro v hv hne
    obtain ⟨he, -, hf, hdone⟩ := ack_effect hq (d := d) (y := { x with pwrAck := v }) (hq.2.1 d) rfl
    refine ⟨_, ?_, hf, he, fun g hg hr hp hl => hdone g hg hr hp hv hl⟩
    exact pwrAckChange_takes hl hp hv hne
  case notUp => exact domainWakeComplete_waits hl
  case vellum =>
    intro h
    rw [exec, execVellumZeroingComplete, event_live hl, h]
    rfl
  case ink =>
    intro h
    rw [exec, execInkwellZeroingComplete, event_live hl, h]
    rfl
  case vellumZero =>
    intro hz
    refine ⟨{ s with vellumZeroing := false, port := vmap grantPort s.port }, ?_, rfl, fun p hp => ?_⟩
    · rw [exec, execVellumZeroingComplete, event_live hl, if_pos hz, Option.getD_some]
      exact congrArg _ (powerPoll_still hq rfl rfl)
    · simp only [Fin.getElem_fin] at hp
      simp [grantPort, hp]
  case inkZero =>
    intro hz
    rw [exec, execInkwellZeroingComplete, event_live hl, if_pos hz, Option.getD_some]
    exact congrArg _ (powerPoll_still hq rfl rfl)

end Sys2Proof.Machine

namespace Sys2Proof.Machine

/-! SUPPORT. The checks of a read depend on nothing of the mirror engine and leave it: they do the same whatever it is (R162, R227, R424). -/

/-- An operation that does not look at the mirror engine and leaves it as it is. -/
def ignoresMir (f : State → State) : Prop := ∀ (s : State) (m : Mir), f (setMir s m) = setMir (f s) m

theorem ignoresMir_comp {f g : State → State} (hf : ignoresMir f) (hg : ignoresMir g) : ignoresMir fun s => g (f s) := by
  intro s m
  dsimp only
  rw [hf, hg]

theorem ignoresMir_foldl {α : Type} {f : State → α → State} (hf : ∀ a, ignoresMir fun s => f s a) : ∀ l : List α, ignoresMir fun s => l.foldl f s
  | [], _, _ => rfl
  | a :: l, s, m => by
    dsimp only
    rw [List.foldl_cons, List.foldl_cons, ← ignoresMir_foldl hf l, ← hf a s m]

/-- A choice by a condition that does not look at the mirror engine. -/
theorem ignoresMir_ite {p : State → Prop} [∀ s, Decidable (p s)] {f g : State → State} (hp : ∀ s m, p (setMir s m) ↔ p s) (hf : ignoresMir f)
    (hg : ignoresMir g) : ignoresMir fun s => if p s then f s else g s := by
  intro s m
  dsimp only
  by_cases h : p s
  · rw [if_pos h, if_pos ((hp s m).2 h)]
    exact hf s m
  · rw [if_neg h, if_neg fun hc => h ((hp s m).1 hc)]
    exact hg s m

theorem ignoresMir_id : ignoresMir fun s => s := fun _ _ => rfl

theorem setPending_ignoresMir (v : Byte) (on : Bool) : ignoresMir (setPending · v on) := fun _ _ => rfl

theorem wakeRequest_ignoresMir (d : Fin 32) : ignoresMir (wakeRequest · d) := by
  refine ignoresMir_ite (p := fun s => domUse s d = .asleep) (fun _ _ => Iff.rfl) ?_ ignoresMir_id
  refine ignoresMir_ite (p := fun s => domUse (setDom s d (domWake s.dom[d])) dVellum = .asleep) (fun _ _ => Iff.rfl) ?_ ?_
  · exact fun _ _ => rfl
  · exact fun _ _ => rfl

theorem pend_ignoresMir (v : Byte) : ignoresMir (pend · v) := ignoresMir_comp (setPending_ignoresMir v true) (wakeRequest_ignoresMir dCore)

theorem noteCheck_ignoresMir (unit : Byte) (sev : Nat) (loc : W64) : ignoresMir (noteCheck · unit sev loc) := by
  intro s m
  unfold noteCheck
  split
  · rfl
  · split
    · rfl
    · split
      · rfl
      · rfl

theorem driveLine_ignoresMir (sev : Nat) : ignoresMir (driveLine · sev) := by
  intro s m
  unfold driveLine
  dsimp only
  rw [← pend_ignoresMir]
  rfl

/-- The end of posting a record: ERRLAST, the note of a check, and the lines (R331, R340). -/
theorem recordEnd_ignoresMir (unit : Byte) (n : Nat) (loc : W64) (r : BitVec 256) (sev : Nat) :
    ignoresMir fun s => driveLine (noteCheck (setErrLast s r) unit n loc) sev := by
  have h : ignoresMir (setErrLast · r) := fun _ _ => rfl
  exact ignoresMir_comp (ignoresMir_comp h (noteCheck_ignoresMir unit n loc)) (driveLine_ignoresMir sev)

theorem postRecord_ignoresMir (cls unit : Byte) (sev : BitVec 2) (loc : W64) (synd : BitVec 24) (inj : Bool) (extra : BitVec 16) :
    ignoresMir (postRecord · cls unit sev loc synd inj extra) := by
  intro s m
  by_cases h : fifoCount s ≠ 0 ∧ sameDetection (fifoAt s (s.err.wr - 1)) cls unit loc synd
  · have h' : fifoCount (setMir s m) ≠ 0 ∧ sameDetection (fifoAt (setMir s m) ((setMir s m).err.wr - 1)) cls unit loc synd := h
    unfold postRecord
    dsimp only
    rw [if_pos h, if_pos h', ← recordEnd_ignoresMir]
    rfl
  · have h' : ¬ (fifoCount (setMir s m) ≠ 0 ∧ sameDetection (fifoAt (setMir s m) ((setMir s m).err.wr - 1)) cls unit loc synd) := h
    unfold postRecord
    dsimp only
    rw [if_neg h, if_neg h', ← recordEnd_ignoresMir]
    by_cases hc : fifoCount s ≤ (if sev = 2 then 255 else 247)
    · rw [if_pos hc, if_pos (show fifoCount (setMir s m) ≤ (if sev = 2 then 255 else 247) from hc)]
      rfl
    · rw [if_neg hc, if_neg (show ¬ fifoCount (setMir s m) ≤ (if sev = 2 then 255 else 247) from hc)]
      rfl

theorem clearSpot_ignoresMir (unit : Byte) (loc : Nat) : ignoresMir (clearSpot · unit loc) := fun _ _ => rfl

theorem meetSingle_ignoresMir (unit : Byte) (spot loc : Nat) : ignoresMir (meetSingle · unit spot loc) :=
  ignoresMir_ite (p := fun s => spotAt s unit spot = 1) (fun _ _ => Iff.rfl)
    (ignoresMir_comp (clearSpot_ignoresMir unit spot) (postRecord_ignoresMir _ _ _ _ _ _ _)) ignoresMir_id

theorem dropL1d_ignoresMir (la : BitVec 50) : ignoresMir fun s => match l1dFind s la with
    | some (k, _) => { s with ca := { s.ca with l1d := spSet none s.ca.l1d k none } }
    | none => s := by
  intro s m
  have h : l1dFind (setMir s m) la = l1dFind s la := rfl
  dsimp only
  rw [h]
  cases l1dFind s la with
  | none => rfl
  | some x => rfl

theorem dropL2_ignoresMir (la : BitVec 50) : ignoresMir fun s => match l2Find s la with
    | some (k, _) => { s with ca := { s.ca with l2 := spSet none s.ca.l2 k none } }
    | none => s := by
  intro s m
  have h : l2Find (setMir s m) la = l2Find s la := rfl
  dsimp only
  rw [h]
  cases l2Find s la with
  | none => rfl
  | some x => rfl

theorem discardLine_ignoresMir (la : BitVec 50) : ignoresMir (discardLine · la) := by
  have h : ignoresMir (dropInner · la) := fun _ _ => rfl
  exact ignoresMir_comp (ignoresMir_comp h (dropL1d_ignoresMir la)) (dropL2_ignoresMir la)

theorem doubleBitL2_ignoresMir (k : Nat) : ignoresMir (doubleBitL2 · k) := by
  intro s m
  have h : (setMir s m).ca = s.ca := rfl
  unfold doubleBitL2
  dsimp only
  rw [h]
  cases spGet none s.ca.l2 k with
  | none => rfl
  | some l =>
    exact ignoresMir_ite (p := fun s => lineDirty s l = true) (f := fun s => { s with ca := { s.ca with l2 := spSet none s.ca.l2 k (some { l with poison := true }) } })
      (fun _ _ => Iff.rfl) (fun _ _ => rfl) (discardLine_ignoresMir l.la) s m

theorem meetL2_ignoresMir (k d : Nat) : ignoresMir (meetL2 · k d) :=
  ignoresMir_ite (p := fun s => spotAt s 0x04 (l2Loc k d) = 2) (fun _ _ => Iff.rfl)
    (ignoresMir_comp (ignoresMir_comp (clearSpot_ignoresMir _ _) (doubleBitL2_ignoresMir k)) (postRecord_ignoresMir _ _ _ _ _ _ _))
    (meetSingle_ignoresMir _ _ _)

theorem meetWord_ignoresMir (w : Nat) : ignoresMir fun s => match l2Find s (lineNo (8 * w)) with
    | some (k, _) => meetL2 s k (w % 8)
    | none => s := by
  intro s m
  have h : l2Find (setMir s m) (lineNo (8 * w)) = l2Find s (lineNo (8 * w)) := rfl
  dsimp only
  rw [h]
  cases l2Find s (lineNo (8 * w)) with
  | none => rfl
  | some x => exact meetL2_ignoresMir x.1 (w % 8) s m

theorem meetSpots_ignoresMir (coh : Bool) (pa n : Nat) : ignoresMir (meetSpots · coh pa n) := by
  intro s m
  unfold meetSpots
  dsimp only
  by_cases h0 : s.err.spots.isEmpty = true
  · rw [if_pos h0, if_pos (show (setMir s m).err.spots.isEmpty = true from h0)]
  · rw [if_neg h0, if_neg (show ¬ (setMir s m).err.spots.isEmpty = true from h0)]
    by_cases h1 : inVellum s pa = true
    · rw [if_pos h1, if_pos (show inVellum (setMir s m) pa = true from h1)]
      exact ignoresMir_foldl (fun w => meetSingle_ignoresMir 0x0B (8 * w) (8 * w)) _ s m
    · rw [if_neg h1, if_neg (show ¬ inVellum (setMir s m) pa = true from h1)]
      split
      · exact ignoresMir_foldl meetWord_ignoresMir _ s m
      · rfl

theorem postLine_ignoresMir (coh : Bool) (pa : Nat) (la : BitVec 50) : ignoresMir (postLine · coh pa la) := by
  intro s m
  have h : l2Find (setMir s m) la = l2Find s la := rfl
  unfold postLine
  dsimp only
  rw [h]
  split
  · exact postRecord_ignoresMir _ _ _ _ _ _ _ s m
  · exact postRecord_ignoresMir _ _ _ _ _ _ _ s m

theorem postVellum_ignoresMir (w : Nat) : ignoresMir fun s => postUe s 0x0B (8 * w) (spotAt s 0x0B (8 * w) == 2) :=
  fun s m => postRecord_ignoresMir _ _ _ _ _ _ _ s m

theorem postBad_ignoresMir (coh : Bool) (pa n : Nat) : ignoresMir (postBad · coh pa n) := by
  intro s m
  unfold postBad
  dsimp only
  by_cases h : inVellum s pa = true
  · rw [if_pos h, if_pos (show inVellum (setMir s m) pa = true from h)]
    exact ignoresMir_foldl postVellum_ignoresMir _ s m
  · rw [if_neg h, if_neg (show ¬ inVellum (setMir s m) pa = true from h)]
    exact ignoresMir_foldl (fun la => postLine_ignoresMir coh pa la) _ s m

/-- A read of the mirror engine finds the same, whatever the engine is doing (R352). -/
theorem mirCheck_setMir (s : State) (m : Mir) (pa n : Nat) : mirCheck (setMir s m) pa n = (setMir (mirCheck s pa n).1 m, (mirCheck s pa n).2) := by
  have hm : meetSpots (setMir s m) true pa n = setMir (meetSpots s true pa n) m := meetSpots_ignoresMir true pa n s m
  have he : readError (setMir (meetSpots s true pa n) m) true pa n = readError (meetSpots s true pa n) true pa n := rfl
  unfold mirCheck readCheck
  dsimp only
  rw [hm, he]
  cases readError (meetSpots s true pa n) true pa n with
  | none => rfl
  | some e => exact congrArg (fun x => (x, true)) (postBad_ignoresMir true pa n _ m)

end Sys2Proof.Machine

namespace Sys2Proof.Machine

/-! SUPPORT. How a commit goes on: what is sent again, the acknowledgements and NACKs as a sender takes them (R352, R357, R424). -/

/-! ### What is sent again -/

/-- With nothing to send again, nothing is sent again. -/
theorem resendGranules_none : ∀ {l : List TxGran} (s : State), (∀ u ∈ l, u.again = false) → resendGranules l s = (l, s)
  | [], _, _ => rfl
  | t :: ts, s, h => by
    rw [resendGranules, h t List.mem_cons_self, Bool.false_and, if_neg Bool.false_ne_true,
      resendGranules_none s fun u hu => h u (List.mem_cons_of_mem t hu)]

/-- With one granule to send again and a credit, it is sent (R357). -/
theorem resendGranules_one : ∀ {l : List TxGran} {s : State} {v : TxGran}, l.filter (·.again) = [v] → canSend s = true →
    (resendGranules l s).2 = emit s v.word 1
  | [], _, _, h, _ => nomatch h
  | t :: ts, s, v, h, hc => by
    rw [resendGranules, hc, Bool.and_true]
    by_cases ht : t.again = true
    · rw [List.filter_cons_of_pos ht] at h
      obtain ⟨rfl, hts⟩ := List.cons.inj h
      have hts : ∀ u ∈ ts, u.again = false := by simpa using hts
      rw [if_pos ht, resendGranules_none _ hts]
    · rw [List.filter_cons_of_neg (by simpa using ht)] at h
      rw [if_neg ht]
      exact resendGranules_one h hc

/-- What is sent again stays what it is. -/
theorem resendGranules_granules : ∀ (l : List TxGran) (s : State), (resendGranules l s).1.map (·.g) = l.map (·.g)
  | [], _ => rfl
  | t :: ts, s => by
    rw [resendGranules]
    dsimp only
    split
    · rw [List.map_cons, List.map_cons, resendGranules_granules ts]
    · rw [List.map_cons, List.map_cons, resendGranules_granules ts]

/-- What a sender still owes stays the same as it sends (R352). -/
theorem pumpSend_owes (record : List Byte) (x : Send) (s : State) : (pumpSend record x s).1.unacked.map (·.g) = x.unacked.map (·.g) ∧
    (pumpSend record x s).1.todo = x.todo ∧ (pumpSend record x s).1.recNacks = x.recNacks := by
  unfold pumpSend
  dsimp only
  split
  · exact ⟨resendGranules_granules _ _, rfl, rfl⟩
  · exact ⟨resendGranules_granules _ _, rfl, rfl⟩

/-- With its record sent, a sender sends what is to be sent again (R357). -/
theorem pumpSend_resends (record : List Byte) {x : Send} (h : x.recDue = false) (s : State) :
    pumpSend record x s = ({ x with unacked := (resendGranules x.unacked s).1 }, (resendGranules x.unacked s).2) := by
  have hn : ¬ (x.recDue && canSend s) = true := by
    rw [h]
    exact Bool.false_ne_true
  unfold pumpSend
  rw [if_neg hn]

/-! ### A commit that goes on -/

/-- Before a commit sends: its VALID record is due once everything is acknowledged, and its record has the time at which it first goes (R352, R355). -/
def recordsDue (s : State) (k : Commit) : Commit :=
  let k1 := if !k.closing && allAcked k.tx then { k with closing := true, tx := { k.tx with recDue := true, recAcked := false, recNacks := 0 } } else k
  if !k1.closing && k1.tx.recDue && k1.tx.recNacks = 0 && canSend s then { k1 with tick := s.win.tick } else k1

/-- A commit that goes on, with what it has sent. -/
def goesOn (s : State) (k : Commit) : Commit × State :=
  let k2 := recordsDue s k
  let r := pumpSend (commitRecord s k2) k2.tx s
  ({ k2 with tx := r.1 }, r.2)

theorem advanceCommit_some {s : State} {k : Commit} (h : s.mir.commit = some k) :
    advanceCommit s = setMir (goesOn s k).2 { (goesOn s k).2.mir with commit := some (goesOn s k).1, st := commitState (goesOn s k).2 (goesOn s k).1 } := by
  unfold advanceCommit
  rw [h]
  rfl

theorem recordsDue_owes (s : State) (k : Commit) : (recordsDue s k).tx.unacked = k.tx.unacked ∧ (recordsDue s k).tx.todo = k.tx.todo := by
  unfold recordsDue
  dsimp only
  split
  · split <;> exact ⟨rfl, rfl⟩
  · split <;> exact ⟨rfl, rfl⟩

/-- While something is owed no VALID record is due. -/
theorem recordsDue_tx (s : State) {k : Commit} (h : allAcked k.tx = false) : (recordsDue s k).tx = k.tx := by
  unfold recordsDue
  dsimp only
  rw [h, Bool.and_false, if_neg Bool.false_ne_true]
  split <;> rfl

/-- A commit that goes on changes no more than the mirror engine, and still owes what it owed. -/
theorem advanceCommit_goesOn {s : State} {k : Commit} (h : s.mir.commit = some k) :
    advanceCommit s = setMir s (advanceCommit s).mir ∧ ∃ k', (advanceCommit s).mir.commit = some k' ∧
      k'.tx.unacked.map (·.g) = k.tx.unacked.map (·.g) ∧ k'.tx.todo = k.tx.todo ∧ (allAcked k.tx = false → k'.tx.recNacks = k.tx.recNacks) := by
  rw [advanceCommit_some h]
  have hs : sendOnly s (goesOn s k).2 := pumpSend_sendOnly _ _ _
  obtain ⟨hu, ht, hn⟩ := pumpSend_owes (commitRecord s (recordsDue s k)) (recordsDue s k).tx s
  obtain ⟨hru, hrt⟩ := recordsDue_owes s k
  refine ⟨?_, (goesOn s k).1, rfl, ?_, ?_, fun ha => ?_⟩
  · unfold sendOnly at hs
    rw [hs]
    rfl
  · exact hu.trans (by rw [hru])
  · exact ht.trans hrt
  · exact hn.trans (by rw [recordsDue_tx s ha])

/-- A commit with its record sent and something owed sends again what must be sent again (R352, R357). -/
theorem advanceCommit_resends {s : State} {k : Commit} (h : s.mir.commit = some k) (ha : allAcked k.tx = false) (hd : k.tx.recDue = false) :
    ∃ k' st, advanceCommit s = setMir (resendGranules k.tx.unacked s).2 { (resendGranules k.tx.unacked s).2.mir with commit := some k', st := st } ∧
      k'.tx.todo = k.tx.todo := by
  have hp : (goesOn s k).2 = (resendGranules k.tx.unacked s).2 := by
    unfold goesOn
    dsimp only
    rw [recordsDue_tx s ha, pumpSend_resends _ hd]
  refine ⟨(goesOn s k).1, commitState (goesOn s k).2 (goesOn s k).1, ?_, ?_⟩
  · rw [advanceCommit_some h, ← hp]
  · exact (pumpSend_owes _ _ s).2.1.trans (recordsDue_owes s k).2

/-! ### Acknowledgements and NACKs -/

theorem not_allAcked_of_unacked {x : Send} (h : x.unacked ≠ []) : allAcked x = false := by
  simp [allAcked, h]

theorem not_allAcked_of_recDue {x : Send} (h : x.recDue = true) : allAcked x = false := by
  simp [allAcked, h]

/-- The record of a sender that waits for its acknowledgement gets it (R352). -/
theorem ackSend_record {x : Send} (g : BitVec 16) (hd : x.recDue = false) (ha : x.recAcked = false) :
    ackSend x g x.gen true = some { x with recAcked := true } := by
  simp [ackSend, hd, ha]

/-- A granule that is sent gets its acknowledgement (R352). -/
theorem ackSend_granule {x : Send} {g : BitVec 16} (h : g.toNat ∈ x.unacked.map (·.g)) :
    ackSend x g x.gen false = some { x with unacked := x.unacked.filter (·.g != g.toNat) } := by
  have ha : x.unacked.any (·.g == g.toNat) = true := by simpa using h
  simp only [ackSend, ne_eq, not_true_eq_false, if_false, Bool.false_eq_true, ha, if_true]

/-- The record is asked for again, three times (R357). -/
theorem nackSend_record {x : Send} (g : BitVec 16) (hd : x.recDue = false) (ha : x.recAcked = false) :
    nackSend x g true = some (if 3 ≤ x.recNacks then none else some { x with recDue := true, recNacks := x.recNacks + 1 }) := by
  simp [nackSend, hd, ha]

/-- A granule that is asked for again: it is to be sent once more, and its NACKs are counted (R357). -/
def nacked (x : Send) (t : TxGran) : List TxGran := x.unacked.map fun u => if u.g = t.g then { u with nacks := u.nacks + 1, again := true } else u

theorem nackSend_granule {x : Send} {g : BitVec 16} {t : TxGran} (h : x.unacked.filter (·.g == g.toNat) = [t]) :
    nackSend x g false = some (if 3 ≤ t.nacks then none else some { x with unacked := nacked x t }) := by
  have hf : x.unacked.find? (·.g == g.toNat) = some t := by rw [← List.head?_filter, h]; rfl
  unfold nackSend
  rw [if_neg Bool.false_ne_true, hf]
  rfl

/-- Where nothing else is to be sent again, the granule asked for is the only one that is (R357). -/
theorem nacked_again {x : Send} {g : BitVec 16} {t : TxGran} (h : x.unacked.filter (·.g == g.toNat) = [t]) (hn : ∀ u ∈ x.unacked, u.again = false) :
    (nacked x t).filter (·.again) = [{ t with nacks := t.nacks + 1, again := true }] := by
  have ht : t ∈ x.unacked.filter (·.g == g.toNat) := by rw [h]; exact List.mem_singleton_self t
  have hg : t.g = g.toNat := by simpa using (List.mem_filter.1 ht).2
  have hp : x.unacked.filter ((·.again) ∘ fun u => if u.g = t.g then { u with nacks := u.nacks + 1, again := true } else u) = [t] := by
    rw [← h]
    refine List.filter_congr fun u hu => ?_
    by_cases he : u.g = t.g
    · simp [he, hg]
    · have hne : u.g ≠ g.toNat := hg ▸ he
      simp [he, hne, hn u hu]
  rw [nacked, List.filter_map, hp]
  simp

end Sys2Proof.Machine

namespace Sys2Proof.Machine

/-! SUPPORT. A write of MIRCTL: its fields, and what setting and clearing EN do (R346, R347, R357). -/

/-! ### The fields of MIRCTL -/

/-- A field that another field does not meet. -/
theorem fieldN_setBit {w : Nat} (x : BitVec w) {i hi lo : Nat} (b : Bool) (h : i < lo) : fieldN (setBit x i b) hi lo = fieldN x hi lo := by
  refine Nat.eq_of_testBit_eq fun j => ?_
  have hb := bit_setBit x i (lo + j) b
  rw [if_neg (by omega)] at hb
  simp only [bit, BitVec.getLsbD] at hb
  simp only [fieldN, Nat.testBit_mod_two_pow, Nat.testBit_shiftRight, hb]

theorem fieldN_lt {w : Nat} (x : BitVec w) (hi lo : Nat) : fieldN x hi lo < 2 ^ (hi + 1 - lo) := Nat.mod_lt _ (Nat.two_pow_pos _)

/-- The time-out that a write of MIRCTL stores; 0 is stored as 1 (R346). -/
def tmoOf (v : W64) : Byte := if fieldN v 15 8 = 0 then 1 else BitVec.ofNat 8 (fieldN v 15 8)

theorem mirctlRest_setBit (s : State) (v : W64) (b : Bool) :
    mirctlRest s (setBit v 0 b) = setMir s { s.mir with recv := bit v 1, tmo := tmoOf v } := by
  have hr : bit (setBit v 0 b) 1 = bit v 1 := by rw [bit_setBit, if_neg (by decide)]
  have hl : fieldN v 15 8 < 256 := fieldN_lt v 15 8
  have ht : BitVec.ofNat 8 (fieldN v 15 8) = (0 : Byte) ↔ fieldN v 15 8 = 0 := by
    rw [← BitVec.toNat_inj, BitVec.toNat_ofNat, Nat.mod_eq_of_lt hl]
    rfl
  unfold mirctlRest
  dsimp only
  rw [hr, fieldN_setBit v b (by decide)]
  simp only [ht, tmoOf]

theorem bit_setEn (v : W64) (b : Bool) : bit (setBit v 0 b) 0 = b := bit_setBit_self v (by decide) b

/-! ### What a write of MIRCTL does -/

/-- The state with nothing sent yet: that of the mirror engine at the start of an event. -/
def quietOut (s : State) : State := setMir s { s.mir with out := [] }

/-- A write that sets EN where it is clear and the checks hold (R346, R347). -/
theorem mirctlWrite_set {s : State} (v : W64) (he : s.mir.en = false) (hc : mirCfgOk s = true) :
    mirctlWrite s (setBit v 0 true) = mirctlRest (setBothBits (setMir s { s.mir with en := true, cfgErr := false }) (List.range (mirTotal s))) (setBit v 0 true) := by
  unfold mirctlWrite
  rw [bit_setEn, he, hc]
  rfl

/-- A write that sets EN where the checks fail (R346). -/
theorem mirctlWrite_refused {s : State} (v : W64) (he : s.mir.en = false) (hc : mirCfgOk s = false) :
    mirctlWrite s (setBit v 0 true) = setMir s { s.mir with cfgErr := true } := by
  unfold mirctlWrite
  rw [bit_setEn, he, hc]
  rfl

/-- A write that clears EN where it is set (R346, R357). -/
theorem mirctlWrite_clear {s : State} (v : W64) (he : s.mir.en = true) :
    mirctlWrite s (setBit v 0 false) = mirctlRest (abandonCommit true none (setMir s { s.mir with en := false })) (setBit v 0 false) := by
  unfold mirctlWrite
  rw [bit_setEn, he]
  rfl

/-- A write that leaves EN as it is (R346). -/
theorem mirctlWrite_same {s : State} (v : W64) {b : Bool} (he : s.mir.en = b) : mirctlWrite s (setBit v 0 b) = mirctlRest s (setBit v 0 b) := by
  unfold mirctlWrite
  rw [bit_setEn, he]
  cases b <;> rfl

theorem mirctlRest_mirrorOnly (s : State) (v : W64) : mirrorOnly s (mirctlRest s v) := rfl

theorem mirctlWrite_mirrorOnly (s : State) (v : W64) : mirrorOnly s (mirctlWrite s v) := by
  unfold mirctlWrite
  refine mirrorOnly_ite (mirrorOnly_ite ?_ rfl) (mirrorOnly_ite ?_ (mirctlRest_mirrorOnly s v))
  · refine mirrorOnly_trans ?_ (mirctlRest_mirrorOnly _ v)
    exact (setBothBits_vellumOnly _ _).writeOnly.mirrorOnly
  · refine mirrorOnly_trans (mirrorOnly_trans ?_ (abandonCommit_mirrorOnly true none _)) (mirctlRest_mirrorOnly _ v)
    rfl

/-! ### The instructions -/

/-- The state after a write of MIRCTL that counts. -/
def mirctlState (s : State) (v : W64) : State := mirAdvance (mirctlWrite (quietOut s) v)

theorem mirctlState_mirrorOnly (s : State) (v : W64) : mirrorOnly s (mirctlState s v) := by
  refine mirrorOnly_trans (mirrorOnly_trans (t := quietOut s) ?_ (mirctlWrite_mirrorOnly _ v)) (mirAdvance_advanceOnly _).mirrorOnly
  rfl

/-- The instruction that writes MIRCTL with EN = b. -/
def mirctlInstr (b : Bool) (v : W64) : Instr := if b then .mirctlEnSet v else .mirctlEnClear v

theorem mirctl_exec (b : Bool) (v : W64) (s : State) : exec (mirctlInstr b v) s = issue (mirctlInstr b v) (mtcValue (mirctlInstr b v) 0x90 (setBit v 0 b)) s := by
  cases b <;> rfl

theorem mirctl_bytes (b : Bool) (v : W64) : BitVec.ofNat 64 (instrBytes (mirctlInstr b v)) = 4 := by
  cases b <;> rfl

/-- MIRCTL may be written from rings 0 and 1 alone (R37). -/
theorem mirctl_privileged {b : Bool} {v : W64} {s : State} (hr : Ready (mirctlInstr b v) s) (hring : 1 < (ringOf (curBank s)).toNat) :
    exec (mirctlInstr b v) s = .next (raise { code := 0x02, addr := 0x90 } s) := by
  have hb : mtcValue (mirctlInstr b v) 0x90 (setBit v 0 b) .core (curBank s) s = .exc (privReg 0x90) (curBank s) s := by
    rw [mtcValue]
    exact if_pos hring
  rw [mirctl_exec, issue_ready _ hr, hb, settle_exc (by decide), setCur_curBank]
  rfl

/-- MIRCTL written: the instruction retires with the state that the write makes. -/
theorem mirctl_written {b : Bool} {v : W64} {s t : State} (hr : Ready (mirctlInstr b v) s) (hring : (ringOf (curBank s)).toNat ≤ 1)
    (ht : mirWrite s 0x90 (setBit v 0 b) = t) (hm : mirrorOnly s t) :
    exec (mirctlInstr b v) s = .next (after t { curBank s with pc := (curBank s).pc + 4 }) := by
  have hcur : curBank t = curBank s := by
    unfold mirrorOnly writeOnly at hm
    rw [hm]
    rfl
  have hb : mtcValue (mirctlInstr b v) 0x90 (setBit v 0 b) .core (curBank s) s = .ok (curBank t) t := by
    rw [← ht, mtcValue]
    exact if_neg (by omega)
  rw [mirctl_exec, issue_ready _ hr, hb, settle_ok, hcur, mirctl_bytes]

/-- Without a partner or with the quill's lock a write of MIRCTL is ignored (R5, R346). -/
theorem mirctl_ignored {b : Bool} {v : W64} {s : State} (hr : Ready (mirctlInstr b v) s) (hring : (ringOf (curBank s)).toNat ≤ 1)
    (h : hasPartner s.var = false ∨ s.mir.qlock = true) : exec (mirctlInstr b v) s = .next (after s { curBank s with pc := (curBank s).pc + 4 }) := by
  refine mirctl_written hr hring ?_ (mirrorOnly_refl s)
  have hc : (!hasPartner s.var || s.mir.qlock) = true := by
    obtain h | h := h
    · rw [h]
      rfl
    · rw [h, Bool.or_true]
  rw [mirWrite, if_pos hc]

/-- Else the write takes effect (R346). -/
theorem mirctl_counts {b : Bool} {v : W64} {s : State} (hr : Ready (mirctlInstr b v) s) (hring : (ringOf (curBank s)).toNat ≤ 1)
    (hp : hasPartner s.var = true) (hq : s.mir.qlock = false) :
    exec (mirctlInstr b v) s = .next (after (mirctlState s (setBit v 0 b)) { curBank s with pc := (curBank s).pc + 4 }) := by
  refine mirctl_written hr hring ?_ (mirctlState_mirrorOnly s _)
  have hc : ¬ (!hasPartner s.var || s.mir.qlock) = true := by
    rw [hp, hq]
    exact Bool.false_ne_true
  rw [mirWrite, if_neg hc, if_neg (by decide)]
  rfl

/-! ### Its effect on the mirror engine -/

/-- A write that leaves EN stores the other fields (R346). -/
theorem mirctlState_same {s : State} (v : W64) {b : Bool} (he : s.mir.en = b) : let t := mirctlState s (setBit v 0 b)
    t.mir.en = s.mir.en ∧ t.mir.recv = bit v 1 ∧ t.mir.tmo = tmoOf v ∧ t.banks = s.banks ∧ t.vellum = s.vellum := by
  have ha := mirAdvance_advanceOnly (mirctlWrite (quietOut s) (setBit v 0 b))
  have hw : mirctlWrite (quietOut s) (setBit v 0 b) = setMir s { s.mir with out := [], recv := bit v 1, tmo := tmoOf v } := by
    rw [mirctlWrite_same (s := quietOut s) v he, mirctlRest_setBit]
    rfl
  unfold mirctlState
  unfold advanceOnly at ha
  rw [hw] at ha ⊢
  rw [ha]
  exact ⟨rfl, rfl, rfl, rfl, rfl⟩

/-- Setting EN where the checks hold sets every map bit of both generations (R346, R347). -/
theorem mirctlState_set {s : State} (v : W64) (he : s.mir.en = false) (hc : mirCfgOk s = true) (hw : vellumWf s) : let t := mirctlState s (setBit v 0 true)
    t.mir.en = true ∧ t.mir.cfgErr = false ∧ t.mir.recv = bit v 1 ∧ (∀ gen g, g < mirTotal s → mapBit t gen g = true) ∧
    (s.mir.commit = none → noTransfer s → t = { s with mir := t.mir, vellum := t.vellum }) := by
  have ha := mirAdvance_advanceOnly (mirctlWrite (quietOut s) (setBit v 0 true))
  have hv := setBothBits_vellumOnly (setMir s { s.mir with en := true, cfgErr := false, out := [] }) (List.range (mirTotal s))
  have hbits := fun gen => mapBit_setBothBits (s := setMir s { s.mir with en := true, cfgErr := false, out := [] }) hw (List.range (mirTotal s)) gen
  have hset : mirctlWrite (quietOut s) (setBit v 0 true) = mirctlRest (setBothBits (setMir s { s.mir with en := true, cfgErr := false, out := [] })
      (List.range (mirTotal s))) (setBit v 0 true) := mirctlWrite_set (s := quietOut s) v he hc
  rw [mirctlRest_setBit] at hset
  generalize setBothBits (setMir s { s.mir with en := true, cfgErr := false, out := [] }) (List.range (mirTotal s)) = x at hv hbits hset
  unfold vellumOnly at hv
  have hxm : x.mir = { s.mir with en := true, cfgErr := false, out := [] } := by rw [hv]; rfl
  unfold mirctlState
  unfold advanceOnly at ha
  rw [hset] at ha ⊢
  refine ⟨?_, ?_, ?_, fun gen g hg => ?_, fun hcn hnt => ?_⟩
  · rw [ha]
    exact congrArg Mir.en hxm
  · rw [ha]
    exact congrArg Mir.cfgErr hxm
  · rw [ha]
    rfl
  · rw [← hbits gen g (List.mem_range.2 hg)]
    refine mapBit_congr ?_ ?_ gen g
    · rw [ha]
      rfl
    · rw [ha]
      rfl
  · obtain ⟨hs, hf⟩ := hnt
    rw [mirAdvance_idle]
    · rw [hv]
      rfl
    · exact (congrArg Mir.commit hxm).trans hcn
    · exact (congrArg Mir.serve hxm).trans hs
    · exact (congrArg Mir.fetch hxm).trans hf

/-- Setting EN where the checks fail sets CFGERR alone (R346). -/
theorem mirctlState_refused {s : State} (v : W64) (he : s.mir.en = false) (hc : mirCfgOk s = false) : let t := mirctlState s (setBit v 0 true)
    t.mir.en = false ∧ t.mir.cfgErr = true ∧ t.mir.recv = s.mir.recv ∧ t.vellum = s.vellum ∧
    (s.mir.commit = none → noTransfer s → t = { s with mir := { s.mir with cfgErr := true, out := [] } }) := by
  have hw : mirctlWrite (quietOut s) (setBit v 0 true) = setMir s { s.mir with cfgErr := true, out := [] } := mirctlWrite_refused (s := quietOut s) v he hc
  have ha := mirAdvance_advanceOnly (setMir s { s.mir with cfgErr := true, out := [] })
  unfold mirctlState
  rw [hw]
  refine ⟨?_, ?_, ?_, ?_, fun hcn hnt => mirAdvance_idle hcn hnt.1 hnt.2⟩
  all_goals
    unfold advanceOnly at ha
    rw [ha]
  · exact he
  · rfl
  · rfl
  · rfl

/-- With no commit and no answer to a FREQ, a FREQ that goes changes the mirror engine alone (R425). -/
theorem mirAdvance_fetchOnly {s : State} (hc : s.mir.commit = none) (hs : s.mir.serve = none) : mirAdvance s = setMir s (mirAdvance s).mir := by
  rw [mirAdvance, advanceCommit_none hc, advanceServe_none hs]
  unfold advanceFetch
  split
  · split
    · rfl
    · rfl
  · rfl

/-- The mirror engine at the start of a write that clears EN: mirroring is off. -/
def enCleared (s : State) : State := setMir s { s.mir with en := false, out := [] }

/-- The state in which the mirror engine goes on after a write that clears EN. -/
def mirctlCleared (s : State) (v : W64) : State :=
  let y := abandonCommit true none (enCleared s)
  setMir y { y.mir with recv := bit v 1, tmo := tmoOf v }

theorem mirctlState_cleared {s : State} (v : W64) (he : s.mir.en = true) : mirctlState s (setBit v 0 false) = mirAdvance (mirctlCleared s v) := by
  have hw : mirctlWrite (quietOut s) (setBit v 0 false) = mirctlRest (abandonCommit true none (enCleared s)) (setBit v 0 false) :=
    mirctlWrite_clear (s := quietOut s) v he
  rw [mirctlState, hw, mirctlRest_setBit]
  rfl

theorem mirctlCleared_banks (s : State) (v : W64) : (mirctlCleared s v).banks = s.banks :=
  (abandonCommit_mirrorOnly true none (enCleared s)).banks

/-- The mirror engine after a write that clears EN, before it goes on: what R346 stores, and no commit. -/
theorem mirctlCleared_mir (s : State) (v : W64) :
    (s.mir.commit = none → (mirctlCleared s v).mir = { s.mir with en := false, out := [], recv := bit v 1, tmo := tmoOf v }) ∧
    (s.mir.commit ≠ none → (mirctlCleared s v).mir = { abandonedMir s with en := false, out := [], recv := bit v 1, tmo := tmoOf v }) := by
  refine ⟨fun h => ?_, fun h => ?_⟩
  · unfold mirctlCleared
    rw [abandonCommit_none (s := enCleared s) h]
    rfl
  · obtain ⟨k, hk⟩ := Option.ne_none_iff_exists'.1 h
    have hw := abandonCommit_writeOnly (s := enCleared s) hk true none
    have hm : (abandonCommit true none (enCleared s)).mir = abandonedMir (enCleared s) := by
      unfold writeOnly at hw
      rw [hw]
      rfl
    unfold mirctlCleared
    dsimp only
    rw [hm]
    rfl

/-- With nothing held, clearing EN leaves the control registers. -/
theorem mirctlCleared_c {s : State} (v : W64) (hh : s.mir.held = []) : (mirctlCleared s v).c = s.c := by
  unfold mirctlCleared
  cases hc : s.mir.commit with
  | none =>
    rw [abandonCommit_none (s := enCleared s) hc]
    rfl
  | some k =>
    rw [abandonCommit_some (s := enCleared s) hc, if_pos rfl, releaseHeld_disowned (s := enCleared s) hh]
    rfl

/-- Clearing EN stops tracking and abandons a commit without the interrupt (R346, R357). -/
theorem mirctlState_clear {s : State} (v : W64) (he : s.mir.en = true) : let t := mirctlState s (setBit v 0 false)
    t.mir.en = false ∧ t.mir.recv = bit v 1 ∧ t.mir.tmo = tmoOf v ∧ t.mir.commit = none ∧ t.banks = s.banks ∧
    (s.mir.commit = none → t.mir.failed = s.mir.failed ∧ t.mir.aborts = s.mir.aborts) ∧
    (s.mir.commit ≠ none → t.mir.failed = true ∧ t.mir.st = restState s ∧ t.mir.held = [] ∧ t.mir.aborts = abortsNext s.mir.aborts) ∧
    (s.mir.held = [] → s.mir.serve = none → t.c = s.c) := by
  obtain ⟨hnone, hsome⟩ := mirctlCleared_mir s v
  have hb := mirctlCleared_banks s v
  have hcl := mirctlCleared_c (s := s) v
  have hcn : (mirctlCleared s v).mir.commit = none := by
    by_cases h : s.mir.commit = none
    · rw [hnone h]
      exact h
    · rw [hsome h]
      rfl
  rw [mirctlState_cleared v he]
  generalize mirctlCleared s v = z at *
  obtain ⟨hs, -⟩ := mirAdvance_serveOnly hcn
  have hmir : (mirAdvance z).mir = { z.mir with serve := (mirAdvance z).mir.serve, fetch := (mirAdvance z).mir.fetch, out := (mirAdvance z).mir.out, credits := (mirAdvance z).mir.credits } := by
    rw [hs]
  have hbanks : (mirAdvance z).banks = s.banks := by
    rw [hs]
    exact hb
  have hc : s.mir.held = [] → s.mir.serve = none → (mirAdvance z).c = s.c := fun hh hsv => by
    have hz : z.mir.serve = none := by
      by_cases h : s.mir.commit = none
      · rw [hnone h]
        exact hsv
      · rw [hsome h]
        exact hsv
    rw [mirAdvance_fetchOnly hcn hz]
    exact hcl hh
  dsimp only
  rw [hmir]
  by_cases h : s.mir.commit = none
  · rw [hnone h]
    exact ⟨rfl, rfl, rfl, h, hbanks, fun _ => ⟨rfl, rfl⟩, fun hn => absurd h hn, hc⟩
  · rw [hsome h]
    exact ⟨rfl, rfl, rfl, rfl, hbanks, fun hn => absurd hn h, fun _ => ⟨rfl, rfl, rfl, rfl⟩, hc⟩

end Sys2Proof.Machine

namespace Sys2Proof.Machine

/-! SUPPORT. The words of the partner port, its link and its credits (R28, R356, R357, R361, R424). -/

/-! ### Words of the partner port -/

/-- With the link down, without a partner or with VELLUM off nothing comes (R28, R356). -/
theorem partnerEvent_nothing {s : State} (hl : Live s) (f : State → Option State)
    (h : hasPartner s.var = false ∨ s.mir.link = false ∨ domUse s dVellum = .off) : partnerEvent s f = .next s := by
  rw [partnerEvent, event_live hl]
  split
  · rfl
  · next hn =>
    simp only [Bool.or_eq_true, Bool.not_eq_true', not_or, Bool.not_eq_false] at hn
    obtain h | h | h := h
    · rw [hn.1] at h
      nomatch h
    · rw [hn.2] at h
      nomatch h
    · rw [h]
      rfl

theorem not_linkDown {s : State} (hp : hasPartner s.var = true) (hk : s.mir.link = true) : ¬ (!hasPartner s.var || !s.mir.link) = true := by
  rw [hp, hk]
  exact Bool.false_ne_true

/-- A word that finds VELLUM asleep wakes it (R28). -/
theorem partnerEvent_wakes {s : State} (hl : Live s) (f : State → Option State) (hp : hasPartner s.var = true) (hk : s.mir.link = true)
    (ha : domUse s dVellum = .asleep) : partnerEvent s f = .next (wakeRequest s dVellum) := by
  rw [partnerEvent, event_live hl, if_neg (not_linkDown hp hk), ha]
  rfl

/-- A word that comes is taken, and the mirror engine goes on (R356). -/
theorem partnerEvent_up {s : State} (h : PartnerUp s) (f : State → Option State) :
    partnerEvent s f = .next (((f (quietOut s)).map mirAdvance).getD s) := by
  obtain ⟨hl, hp, hk, hr⟩ := h
  rw [partnerEvent, event_live hl, if_neg (not_linkDown hp hk), hr]
  rfl

/-- What an event of the partner port does whatever its word is, every row of the port does. -/
theorem partnerRow_event {i : Instr} (h : partnerRow i = true) {s : State} {r : Host.Outcome State Fault Refusal} (hr : ∀ f, partnerEvent s f = r) :
    exec i s = r := by
  cases i with
  | mirrorGranuleRead => rw [exec, execMirrorGranuleRead, hr]
  | partnerAck => rw [exec, execPartnerAck, hr]
  | partnerNack => rw [exec, execPartnerNack, hr]
  | partnerCredit => rw [exec, execPartnerCredit, hr]
  | partnerGranuleReceive => rw [exec, execPartnerGranuleReceive, hr]
  | partnerRecordReceive => rw [exec, execPartnerRecordReceive, hr]
  | partnerWriteVisible => rw [exec, execPartnerWriteVisible, hr]
  | partnerFreq => rw [exec, execPartnerFreq, hr]
  | fetchGranuleReceive => rw [exec, execFetchGranuleReceive, hr]
  | partnerFend => rw [exec, execPartnerFend, hr]
  | _ => exact absurd h Bool.false_ne_true

/-- CREDIT with a count that the partner may not give is ignored (R424). -/
theorem partnerCredit_ignored {s : State} (h : PartnerUp s) {n : BitVec 3} (hn : n = 0 ∨ 4 < n.toNat) : exec (.partnerCredit n) s = .next s := by
  have hc : ¬ (1 ≤ n.toNat ∧ n.toNat ≤ 4) := by
    obtain rfl | hn := hn
    · decide
    · omega
  rw [exec, execPartnerCredit, partnerEvent_up h, if_neg hc]
  rfl

/-- CREDIT adds credits (R424). -/
theorem partnerCredit_adds {s : State} (h : PartnerUp s) {n : BitVec 3} (hc : s.mir.commit = none) (ht : noTransfer s) (h1 : 1 ≤ n.toNat) (h4 : n.toNat ≤ 4) :
    exec (.partnerCredit n) s = .next { s with mir := { s.mir with credits := s.mir.credits + n.toNat, out := [] } } := by
  rw [exec, execPartnerCredit, partnerEvent_up h, if_pos ⟨h1, h4⟩, Option.map_some, Option.getD_some]
  exact congrArg _ (mirAdvance_idle hc ht.1 ht.2)

/-! ### The link -/

/-- A domain that is woken from its sleep does not run yet (R28). -/
theorem wakeRequest_not_ready {s : State} {d : Fin 32} (h : domUse s d = .asleep) : domRuns (wakeRequest s d) d = false := by
  have hd := (wakeRequest_asleep h).1
  have hg : (domWake s.dom[d]).goal ≠ none := by
    cases hg : s.dom[d].goal with
    | none =>
      rw [(domWake_resting hg (asleep_not_run h hg)).1]
      exact nofun
    | some g =>
      by_cases hr : g = .run
      · rw [domWake_rising (hg.trans (congrArg some hr)), hg]
        exact nofun
      · rw [domWake_falling hg hr]
        exact fun hn => nomatch hg.symm.trans hn
  have hu : domUse (wakeRequest s d) d ≠ .ready := by
    unfold domUse
    split
    · exact nofun
    · rw [if_neg fun hc => hg (hd ▸ hc.2)]
      exact nofun
  simpa [domRuns] using hu

theorem wakeRequest_setMir (s : State) (m : Mir) (d : Fin 32) : wakeRequest (setMir s m) d = setMir (wakeRequest s d) m := wakeRequest_ignoresMir d s m

/-- VELLUM that runs is not woken. -/
theorem wakeRequest_ready {s : State} {d : Fin 32} (h : domUse s d = .ready) : wakeRequest s d = s := by
  rw [wakeRequest, if_neg (by rw [h]; exact nofun)]

/-- A rise of the link where it is up, or without a partner, is ignored (R424). -/
theorem ppLinkUpRise_ignored {s : State} (hl : Live s) (h : hasPartner s.var = false ∨ s.mir.link = true) : exec .ppLinkUpRise s = .next s := by
  have hc : (!hasPartner s.var || s.mir.link) = true := by
    obtain h | h := h
    · rw [h]
      rfl
    · rw [h, Bool.or_true]
  rw [exec, execPpLinkUpRise, pinEvent_live hl, if_pos hc]
  rfl

/-- The state in which the partner is granted its credits as the link rises. -/
def linkRisen (s : State) : State := setMir (wakeRequest s dVellum) { s.mir with link := true, out := [] }

theorem ppLinkUpRise_rises {s : State} (hl : Live s) (hp : hasPartner s.var = true) (hk : s.mir.link = false) :
    exec .ppLinkUpRise s = .next (grantPartner (linkRisen s)) := by
  have hc : ¬ (!hasPartner s.var || s.mir.link) = true := by
    rw [hp, hk]
    exact Bool.false_ne_true
  rw [exec, execPpLinkUpRise, pinEvent_live hl, if_neg hc, wakeRequest_setMir]
  rfl

/-- A rising link grants the partner 4 credits where VELLUM runs (R424). -/
theorem ppLinkUpRise_grants {s : State} (hl : Live s) (hp : hasPartner s.var = true) (hk : s.mir.link = false) (hr : domUse s dVellum = .ready)
    (hc : s.mir.commit = none) (ht : noTransfer s) (hg : s.mir.granted = false) :
    exec .ppLinkUpRise s = .next { s with mir := { s.mir with link := true, out := [.credit 4], granted := true } } := by
  have hd : domRuns (setMir s { s.mir with link := true, out := [] }) dVellum = true := by
    have : domUse (setMir s { s.mir with link := true, out := [] }) dVellum = .ready := hr
    rw [domRuns, this]
    rfl
  have hcond : ((linkRisen s).mir.link && !(linkRisen s).mir.granted && domRuns (linkRisen s) dVellum) = true := by
    rw [linkRisen, wakeRequest_ready hr, hd]
    simp only [setMir, hg, Bool.not_false, Bool.and_self]
  rw [ppLinkUpRise_rises hl hp hk, grantPartner, if_pos hcond, linkRisen, wakeRequest_ready hr]
  exact congrArg _ (mirAdvance_idle hc ht.1 ht.2)

/-- A rising link that finds VELLUM asleep wakes it, and grants nothing yet (R28, R424). -/
theorem ppLinkUpRise_wakes {s : State} (hl : Live s) (hp : hasPartner s.var = true) (hk : s.mir.link = false) (ha : domUse s dVellum = .asleep) :
    exec .ppLinkUpRise s = .next { wakeRequest s dVellum with mir := { s.mir with link := true, out := [] } } := by
  have hd : domRuns (linkRisen s) dVellum = false := wakeRequest_not_ready ha
  rw [ppLinkUpRise_rises hl hp hk, grantPartner, hd, Bool.and_false, if_neg Bool.false_ne_true]
  rfl

/-- The state once a falling link has ended the credits and what the port was doing (R424). -/
def linkFallen (s : State) : State := setMir s { s.mir with link := false, credits := 0, granted := false, serve := none, rx := [], out := [] }

theorem ppLinkUpFall_falls {s : State} (hl : Live s) (hk : s.mir.link = true) :
    exec .ppLinkUpFall s = .next (abortFetch (abandonCommit false none (linkFallen s)) 0x30 none) := by
  rw [exec, execPpLinkUpFall, pinEvent_live hl, if_pos hk]
  rfl

theorem ppLinkUpFall_ignored {s : State} (hl : Live s) (hk : s.mir.link = false) : exec .ppLinkUpFall s = .next s := by
  rw [exec, execPpLinkUpFall, pinEvent_live hl, if_neg (by rw [hk]; exact Bool.false_ne_true)]
  rfl

/-- An abandoned commit has its alarm (R357). -/
theorem abandonCommit_alarm {s : State} (h : s.mir.commit ≠ none) (g : Option Nat) : isPending (abandonCommit false g s) 0x22 = true := by
  obtain ⟨k, hk⟩ := Option.ne_none_iff_exists'.1 h
  rw [abandonCommit_some hk, if_neg Bool.false_ne_true]
  exact isPending_pend (by decide) (by decide)

/-- The mirror engine once a commit, if one runs, is abandoned. -/
theorem abandonCommit_mir (quiet : Bool) (g : Option Nat) (s : State) :
    (abandonCommit quiet g s).mir = if s.mir.commit = none then s.mir else abandonedMir s := by
  cases hc : s.mir.commit with
  | none =>
    rw [abandonCommit_none hc]
    rfl
  | some k =>
    have hw := abandonCommit_writeOnly hc quiet g
    unfold writeOnly at hw
    rw [hw]
    rfl

/-- A falling link ends what the port was doing; a commit is abandoned, and a fetch ends (R357, R361, R424). -/
theorem linkFallen_ends (s : State) : let t := abortFetch (abandonCommit false none (linkFallen s)) 0x30 none
    t.mir.link = false ∧ t.mir.commit = none ∧ t.mir.fetch = none ∧ t.mir.serve = none ∧ t.mir.rx = [] ∧
    (s.mir.commit ≠ none → t.mir.failed = true ∧ isPending t 0x22 = true) := by
  have hmir := abandonCommit_mir false none (linkFallen s)
  have hpend := fun h : s.mir.commit ≠ none => abandonCommit_alarm (s := linkFallen s) h none
  generalize abandonCommit false none (linkFallen s) = x at hmir hpend
  obtain ⟨out, credits, m, he, hm⟩ := abortFetch_ends x 0x30 none
  have hmx : x.mir.link = false ∧ x.mir.commit = none ∧ x.mir.serve = none ∧ x.mir.rx = [] ∧ (s.mir.commit ≠ none → x.mir.failed = true) := by
    rw [hmir]
    split
    · next h => exact ⟨rfl, h, rfl, rfl, fun hn => absurd h hn⟩
    · exact ⟨rfl, rfl, rfl, rfl, fun _ => rfl⟩
  obtain ⟨h1, h2, h3, h4, h5⟩ := hmx
  have hmm : m.link = false ∧ m.commit = none ∧ m.serve = none ∧ m.rx = [] ∧ (s.mir.commit ≠ none → m.failed = true) := by
    obtain ⟨rfl, -⟩ | ⟨rfl, -⟩ := hm
    · exact ⟨h1, h2, h3, h4, h5⟩
    · exact ⟨h1, h2, h3, by rw [fetchEnded, h4]; rfl, h5⟩
  obtain ⟨m1, m2, m3, m4, m5⟩ := hmm
  dsimp only
  rw [he.mir]
  exact ⟨m1, m2, rfl, m3, m4, fun h => ⟨m5 h, he.2.1.1 _ (hpend h)⟩⟩

end Sys2Proof.Machine

namespace Sys2Proof.Machine

/-! SUPPORT. The events of a commit: its reads, acknowledgements and NACKs, what abandons it, and the writes that wait for it (R352, R353, R357). -/

/-! ### Abandoned commits -/

/-- What commitAbandoned says of the state before is its fetch, LAST, ABORTS and the banks. -/
theorem commitAbandoned.from {s0 s t : State} {k : Commit} (h : commitAbandoned s0 t k) (hf : s0.mir.fetch = s.mir.fetch) (hl : s0.mir.last = s.mir.last)
    (ha : s0.mir.aborts = s.mir.aborts) (hb : s0.banks = s.banks) : commitAbandoned s t k := by
  have hr : restState s0 = restState s := by rw [restState, hf, restState]
  obtain ⟨h1, h2, h3, h4, h5, h6, h7, h8⟩ := h
  exact ⟨h1, h2.trans hr, h3, h4.trans hl, h5, by rw [h6, ha], h7.trans hb, h8⟩

/-- A commit that is abandoned stays so as the mirror engine goes on (R357). -/
theorem abandoned_goesOn {s : State} {k : Commit} (hc : s.mir.commit = some k) (hh : s.mir.held = []) (hw : vellumWf s) (g : Option Nat) :
    commitAbandoned s (mirAdvance (abandonCommit false g s)) k := by
  have h := abandonCommit_abandoned hc hh hw g
  exact h.serve (mirAdvance_serveOnly h.1)

/-- The same at the start of an event of the partner port. -/
theorem quietOut_abandoned {s : State} {k : Commit} (hc : s.mir.commit = some k) (hh : s.mir.held = []) (hw : vellumWf s) (g : Option Nat) :
    commitAbandoned s (mirAdvance (abandonCommit false g (quietOut s))) k :=
  (abandoned_goesOn (s := quietOut s) hc hh hw g).from rfl rfl rfl rfl

/-! ### Reads of a commit -/

/-- The granule that a commit reads next: one that a held writer asked for, else the lowest (R352, R353). -/
def nextGranule (k : Commit) : Nat := (k.urgent.find? (k.tx.todo.contains ·)).getD (k.tx.todo.headD 0)

/-- The commit once a granule has been read and sent. -/
def granuleTaken (k : Commit) (g : Nat) (w : PWord) : Commit :=
  { k with tx := { k.tx with todo := k.tx.todo.filter (· != g), unacked := k.tx.unacked ++ [{ g := g, word := w }] }, urgent := k.urgent.filter (· != g) }

/-- The state once a granule has been read and sent, before held writes go on. -/
def granuleSent (s : State) (k : Commit) (g : Nat) (w : PWord) : State :=
  let s1 := emit (setMapBit s k.tx.gen false g) w 1
  setMir s1 { s1.mir with commit := some (granuleTaken k g w), sent := s1.mir.sent + 1 }

/-- A granule whose read is bad, or whose fabric response is, abandons the commit (R357). -/
theorem granuleRead_fails {s : State} {k : Commit} {r : Fin 16} {i pa : Nat} {u : Bool} (hup : PartnerUp s) (hk : s.mir.commit = some k)
    (hmay : maySendGranule s k.tx = true) (hg : granuleAt s (nextGranule k) = some (r, i, pa)) (hb : u = true ∨ (mirCheck (quietOut s) pa 65536).2 = true) :
    exec (.mirrorGranuleRead u) s = .next (mirAdvance (abandonCommit false (some (nextGranule k)) (mirCheck (quietOut s) pa 65536).1)) := by
  have hk' : (quietOut s).mir.commit = some k := hk
  have hmay' : maySendGranule (quietOut s) k.tx = true := hmay
  have hg' : granuleAt (quietOut s) ((k.urgent.find? (k.tx.todo.contains ·)).getD (k.tx.todo.headD 0)) = some (r, i, pa) := hg
  rw [exec, execMirrorGranuleRead, partnerEvent_up hup]
  dsimp only
  simp only [hk', if_pos hmay', hg']
  rcases hm : mirCheck (quietOut s) pa 65536 with ⟨s0, bad⟩
  rw [hm] at hb
  cases bad with
  | true => rfl
  | false =>
    obtain rfl := hb.resolve_right Bool.false_ne_true
    rfl

/-- A granule that is read well is sent, and held writes go on (R352, R353). -/
theorem granuleRead_sends {s : State} {k : Commit} {r : Fin 16} {i pa : Nat} (hup : PartnerUp s) (hk : s.mir.commit = some k)
    (hmay : maySendGranule s k.tx = true) (hg : granuleAt s (nextGranule k) = some (r, i, pa)) (hb : mirCheck (quietOut s) pa 65536 = (quietOut s, false)) :
    exec (.mirrorGranuleRead false) s = .next (mirAdvance (releaseHeld (granuleSent (quietOut s) k (nextGranule k)
      (granuleWord r.val i k.tx.gen false k.tx.ply (granuleBytes s pa))))) := by
  have hk' : (quietOut s).mir.commit = some k := hk
  have hmay' : maySendGranule (quietOut s) k.tx = true := hmay
  have hg' : granuleAt (quietOut s) ((k.urgent.find? (k.tx.todo.contains ·)).getD (k.tx.todo.headD 0)) = some (r, i, pa) := hg
  rw [exec, execMirrorGranuleRead, partnerEvent_up hup]
  dsimp only
  simp only [hk', if_pos hmay', hg', hb]
  rfl

theorem granuleSent_keeps (s : State) (k : Commit) (g : Nat) (w : PWord) :
    granuleSent s k g w = { s with mir := (granuleSent s k g w).mir, vellum := (granuleSent s k g w).vellum } := rfl

/-- A commit that has sent a granule goes on, and has nothing to send again (R352). -/
theorem granuleSent_goesOn {s : State} {k : Commit} (hn : noTransfer s) (hh : s.mir.held = []) (hd : k.tx.recDue = false)
    (ha : ∀ u ∈ k.tx.unacked, u.again = false) (g : Nat) (w : PWord) : ∃ k' st, mirAdvance (releaseHeld (granuleSent s k g w)) =
      setMir (granuleSent s k g w) { (granuleSent s k g w).mir with commit := some k', st := st } ∧ k'.tx.todo = k.tx.todo.filter (· != g) := by
  have hu : (granuleTaken k g w).tx.unacked ≠ [] := List.append_ne_nil_of_right_ne_nil _ (List.cons_ne_nil _ _)
  have hag : ∀ u ∈ (granuleTaken k g w).tx.unacked, u.again = false := fun u hu => by
    obtain h | h := List.mem_append.1 hu
    · exact ha u h
    · rw [List.mem_singleton.1 h]
  obtain ⟨k', st, he, ht⟩ := advanceCommit_resends (s := granuleSent s k g w) rfl (not_allAcked_of_unacked hu) hd
  rw [resendGranules_none _ hag] at he
  refine ⟨k', st, ?_, ht⟩
  rw [releaseHeld_nothing (s := granuleSent s k g w) hh]
  exact (mirAdvance_noTransfer (s := granuleSent s k g w) hn.1 hn.2).trans he

/-- A granule that is sent: its map bit is cleared, and it is one word more for one credit (R352). -/
theorem granuleSent_fields {s : State} (hw : vellumWf s) (k : Commit) (g : Nat) (w : PWord) :
    mapBit (granuleSent s k g w) k.tx.gen g = false ∧ (granuleSent s k g w).mir.sent = s.mir.sent + 1 ∧
    (granuleSent s k g w).mir.credits = s.mir.credits - 1 ∧ (granuleSent s k g w).mir.out = s.mir.out ++ [w] :=
  ⟨(mapBit_congr rfl rfl k.tx.gen g).trans (mapBit_setMapBit_same hw k.tx.gen false g), rfl, rfl, rfl⟩

/-- A read granule leaves what R352 says, and changes the mirror engine and its map bit alone. -/
theorem granuleRead_leaves {s : State} {k : Commit} {r : Fin 16} {i pa : Nat} (hup : PartnerUp s) (hn : noTransfer s) (hw : vellumWf s)
    (hk : s.mir.commit = some k) (hh : s.mir.held = []) (hmay : maySendGranule s k.tx = true) (ha : ∀ u ∈ k.tx.unacked, u.again = false)
    (hg : granuleAt s (nextGranule k) = some (r, i, pa)) (hb : mirCheck (quietOut s) pa 65536 = (quietOut s, false)) :
    ∃ t k', exec (.mirrorGranuleRead false) s = .next t ∧ t = { s with mir := t.mir, vellum := t.vellum } ∧ t.mir.commit = some k' ∧
      k'.tx.todo = k.tx.todo.filter (· != nextGranule k) ∧ mapBit t k.tx.gen (nextGranule k) = false ∧ t.mir.sent = s.mir.sent + 1 ∧
      t.mir.credits = s.mir.credits - 1 ∧ t.mir.out = [granuleWord r.val i k.tx.gen false k.tx.ply (granuleBytes s pa)] := by
  have hd : k.tx.recDue = false := by
    simp only [maySendGranule, Bool.and_eq_true, Bool.not_eq_true', and_assoc] at hmay
    exact hmay.1
  have he := granuleRead_sends hup hk hmay hg hb
  generalize granuleWord r.val i k.tx.gen false k.tx.ply (granuleBytes s pa) = w at he ⊢
  obtain ⟨k', st, hgo, htodo⟩ := granuleSent_goesOn (s := quietOut s) hn hh hd ha (nextGranule k) w
  obtain ⟨hbit, hsent, hcredits, hout⟩ := granuleSent_fields (s := quietOut s) hw k (nextGranule k) w
  have hkeep := granuleSent_keeps (quietOut s) k (nextGranule k) w
  generalize granuleSent (quietOut s) k (nextGranule k) w = y at *
  refine ⟨_, k', he.trans (congrArg _ hgo), ?_, rfl, htodo, ?_, hsent, hcredits, hout⟩
  · rw [hkeep]
    rfl
  · rw [← hbit]
    exact mapBit_congr rfl rfl _ _

/-- What the checks of a read leave of the mirror engine, the vellum and the banks. -/
theorem mirCheck_leaves (s : State) (pa n : Nat) : (mirCheck s pa n).1.mir = s.mir ∧ (mirCheck s pa n).1.vellum = s.vellum ∧
    (mirCheck s pa n).1.banks = s.banks := by
  rw [(mirCheck_readOnly s pa n).1]
  exact ⟨rfl, rfl, rfl⟩

/-- A bad read abandons the commit (R357). -/
theorem badRead_abandons {s : State} {k : Commit} (hc : s.mir.commit = some k) (hh : s.mir.held = []) (hw : vellumWf s) (pa n : Nat) (g : Option Nat) :
    commitAbandoned s (mirAdvance (abandonCommit false g (mirCheck (quietOut s) pa n).1)) k := by
  obtain ⟨hm, hv, hb⟩ := mirCheck_leaves (quietOut s) pa n
  have hwf : vellumWf (mirCheck (quietOut s) pa n).1 := by
    unfold vellumWf
    rw [hv]
    exact hw
  have h := abandoned_goesOn (s := (mirCheck (quietOut s) pa n).1) (by rw [hm]; exact hc) (by rw [hm]; exact hh) hwf g
  exact h.from (by rw [hm]; rfl) (by rw [hm]; rfl) (by rw [hm]; rfl) (by rw [hb]; rfl)

/-! ### Acknowledgements -/

/-- The state in which a commit goes on with what it now owes. -/
def commitWith (s : State) (k : Commit) (x : Send) : State := setMir s { s.mir with commit := some { k with tx := x }, out := [] }

/-- An acknowledgement that a commit takes. -/
theorem partnerAck_taken {s : State} {k : Commit} {x : Send} {g : BitVec 16} {gen isRec : Bool} (hup : PartnerUp s) (hk : s.mir.commit = some k)
    (hx : ackSend k.tx g gen isRec = some x) : exec (.partnerAck g gen isRec) s =
      .next (mirAdvance (if k.closing && isRec then commitDone (quietOut s) k else commitWith s k x)) := by
  have hk' : (quietOut s).mir.commit = some k := hk
  rw [exec, execPartnerAck, partnerEvent_up hup]
  dsimp only
  simp only [hk', hx, Option.bind_some, Option.map_some]
  split
  · rfl
  · rfl

/-- The acknowledgement of the VALID record completes the commit (R352). -/
theorem partnerAck_completes {s : State} {k : Commit} (g : BitVec 16) (hup : PartnerUp s) (hn : noTransfer s) (hk : s.mir.commit = some k)
    (hh : s.mir.held = []) (hcl : k.closing = true) (hd : k.tx.recDue = false) (ha : k.tx.recAcked = false) :
    exec (.partnerAck g k.tx.gen true) s = .next { s with mir := { s.mir with
      commit := none, st := .idle, failed := false, last := k.tx.ply, out := []
      prev := if k.tx.gen then (s.mir.prev.1, k.tx.ply) else (k.tx.ply, s.mir.prev.2) } } := by
  have hr : restState (quietOut s) = .idle := by
    have hf : (quietOut s).mir.fetch = none := hn.2
    rw [restState, hf]
  have hdone : commitDone (quietOut s) k = { s with mir := { s.mir with
      commit := none, st := .idle, failed := false, last := k.tx.ply, out := []
      prev := if k.tx.gen then (s.mir.prev.1, k.tx.ply) else (k.tx.ply, s.mir.prev.2) } } := by
    rw [commitDone, hr]
    exact releaseHeld_nothing hh
  rw [partnerAck_taken hup hk (ackSend_record g hd ha), hcl, Bool.true_and, if_pos rfl, hdone]
  exact congrArg _ (mirAdvance_idle rfl hn.1 hn.2)

/-- The acknowledgement of a granule: the commit owes it no longer (R352). -/
theorem partnerAck_granule {s : State} {k : Commit} {g : BitVec 16} (hup : PartnerUp s) (hn : noTransfer s) (hk : s.mir.commit = some k)
    (hg : g.toNat ∈ k.tx.unacked.map (·.g)) : ∃ t k', exec (.partnerAck g k.tx.gen false) s = .next t ∧ t.mir.commit = some k' ∧
      k'.tx.unacked.map (·.g) = (k.tx.unacked.map (·.g)).filter (· != g.toNat) ∧ k'.tx.todo = k.tx.todo ∧ t.mem = s.mem ∧ t.vellum = s.vellum ∧
      t.banks = s.banks := by
  have he := partnerAck_taken hup hk (ackSend_granule hg)
  rw [Bool.and_false, if_neg Bool.false_ne_true] at he
  obtain ⟨hm, k', hc, hu, ht, -⟩ := advanceCommit_goesOn
    (s := commitWith s k { k.tx with unacked := k.tx.unacked.filter (·.g != g.toNat) }) rfl
  refine ⟨_, k', he.trans (congrArg _ (mirAdvance_noTransfer hn.1 hn.2)), hc, hu.trans ?_, ht, ?_⟩
  · rw [List.filter_map]
    rfl
  · rw [hm]
    exact ⟨rfl, rfl, rfl⟩

/-! ### NACKs -/

/-- A NACK of what a commit has sent: code CRC asks for it again up to three times, and anything else abandons the commit (R357). -/
theorem partnerNack_taken {s : State} {k : Commit} {x : Option Send} {g : BitVec 16} {isRec : Bool} (code : BitVec 4) (hup : PartnerUp s)
    (hk : s.mir.commit = some k) (hx : nackSend k.tx g isRec = some x) : exec (.partnerNack code g isRec) s =
      .next (mirAdvance (match (if code = 4 then x else none) with
        | some y => commitWith s k y
        | none => abandonCommit false (if isRec then none else some g.toNat) (quietOut s))) := by
  have hk' : (quietOut s).mir.commit = some k := hk
  rw [exec, execPartnerNack, partnerEvent_up hup]
  dsimp only
  simp only [hk', hx, Option.bind_some, Option.map_some]
  cases (if code = 4 then x else none) with
  | none => rfl
  | some y => rfl

/-- A NACK that is not of code CRC, or the fourth, abandons the commit (R357). -/
theorem partnerNack_abandons {s : State} {k : Commit} {x : Option Send} {g : BitVec 16} {isRec : Bool} {code : BitVec 4} (hup : PartnerUp s)
    (hk : s.mir.commit = some k) (hh : s.mir.held = []) (hw : vellumWf s) (hx : nackSend k.tx g isRec = some x) (hc : code ≠ 4 ∨ x = none) :
    ∃ t, exec (.partnerNack code g isRec) s = .next t ∧ commitAbandoned s t k := by
  have hn : (if code = 4 then x else none) = none := by
    obtain hc | rfl := hc
    · exact if_neg hc
    · exact ite_self none
  refine ⟨_, partnerNack_taken code hup hk hx, ?_⟩
  rw [hn]
  exact quietOut_abandoned hk hh hw _

/-- A CRC NACK that a commit takes: what it names is to be sent again, and the commit goes on (R357). -/
theorem partnerNack_again {s : State} {k : Commit} {y : Send} {g : BitVec 16} {isRec : Bool} (hup : PartnerUp s) (hn : noTransfer s)
    (hk : s.mir.commit = some k) (hx : nackSend k.tx g isRec = some (some y)) : exec (.partnerNack 4 g isRec) s =
      .next (advanceCommit (commitWith s k y)) := by
  rw [partnerNack_taken 4 hup hk hx, if_pos rfl]
  exact congrArg _ (mirAdvance_noTransfer hn.1 hn.2)

/-- A granule asked for again is sent again, alone (R357). -/
theorem partnerNack_granule {s : State} {k : Commit} {g : BitVec 16} {u : TxGran} (hup : PartnerUp s) (hn : noTransfer s) (hk : s.mir.commit = some k)
    (hu : k.tx.unacked.filter (·.g == g.toNat) = [u]) (hnacks : u.nacks < 3) (hd : k.tx.recDue = false) (ha : ∀ x ∈ k.tx.unacked, x.again = false)
    (hs : canSend s = true) : ∃ t, exec (.partnerNack 4 g false) s = .next t ∧ t.mir.out = [u.word] ∧ t.mir.credits = s.mir.credits - 1 ∧
      t.mir.commit.isSome = true ∧ t = { s with mir := t.mir } := by
  have hx := nackSend_granule hu
  rw [if_neg (by omega)] at hx
  have hag := nacked_again hu ha
  have hne : nacked k.tx u ≠ [] := fun h => by
    rw [h] at hag
    nomatch hag
  obtain ⟨k', st, he, -⟩ := advanceCommit_resends (s := commitWith s k { k.tx with unacked := nacked k.tx u }) rfl (not_allAcked_of_unacked hne) hd
  rw [resendGranules_one (s := commitWith s k { k.tx with unacked := nacked k.tx u }) hag hs] at he
  refine ⟨_, partnerNack_again hup hn hk hx, ?_⟩
  rw [he]
  exact ⟨rfl, rfl, rfl, rfl⟩

/-- The record asked for again: its NACKs are counted (R357). -/
theorem partnerNack_record {s : State} {k : Commit} (g : BitVec 16) (hup : PartnerUp s) (hn : noTransfer s) (hk : s.mir.commit = some k)
    (hd : k.tx.recDue = false) (ha : k.tx.recAcked = false) (hnacks : k.tx.recNacks < 3) : ∃ t k', exec (.partnerNack 4 g true) s = .next t ∧
      t.mir.commit = some k' ∧ k'.tx.recNacks = k.tx.recNacks + 1 ∧ t = { s with mir := t.mir } := by
  have hx := nackSend_record g hd ha
  rw [if_neg (by omega)] at hx
  obtain ⟨hm, k', hc, -, -, hr⟩ := advanceCommit_goesOn
    (s := commitWith s k { k.tx with recDue := true, recNacks := k.tx.recNacks + 1 }) rfl
  refine ⟨_, k', partnerNack_again hup hn hk hx, hc, hr (not_allAcked_of_recDue rfl), ?_⟩
  rw [hm]
  rfl

/-! ### What abandons a commit or ends a fetch, and held writes -/

theorem mirrorCommitAbandon_abandons {s : State} {k : Commit} (hl : Live s) (hk : s.mir.commit = some k) (hh : s.mir.held = []) (hw : vellumWf s) :
    ∃ t, exec .mirrorCommitAbandon s = .next t ∧ commitAbandoned s t k := by
  refine ⟨_, ?_, abandoned_goesOn hk hh hw none⟩
  rw [exec, execMirrorCommitAbandon, event_live hl, hk]
  rfl

/-- The partner's silence ends what waits for it (R357, R361). -/
theorem mirrorTmoExpiry_effect {s : State} (hl : Live s) (h : s.mir.commit ≠ none ∨ s.mir.fetch ≠ none) :
    exec .mirrorTmoExpiry s = .next (abortFetch (abandonCommit false none s) 0x30 none) := by
  have hc : (s.mir.commit.isSome || s.mir.fetch.isSome) = true := by
    simpa [Option.isSome_iff_ne_none] using h
  rw [exec, execMirrorTmoExpiry, event_live hl, if_pos hc]
  rfl

theorem mirrorTmoExpiry_abandons {s : State} {k : Commit} (hl : Live s) (hk : s.mir.commit = some k) (hh : s.mir.held = []) (hw : vellumWf s)
    (hf : s.mir.fetch = none) : ∃ t, exec .mirrorTmoExpiry s = .next t ∧ commitAbandoned s t k := by
  refine ⟨_, mirrorTmoExpiry_effect hl (.inl (by rw [hk]; exact nofun)), ?_⟩
  have hm := abandonCommit_mir false none s
  rw [if_neg (by rw [hk]; exact nofun)] at hm
  rw [abortFetch_none (by rw [hm]; exact hf)]
  exact abandonCommit_abandoned hk hh hw none

theorem mirrorTmoExpiry_endsFetch {s : State} {f : Fetch} (hl : Live s) (hf : s.mir.fetch = some f) (hc : s.mir.commit = none) :
    ∃ t, exec .mirrorTmoExpiry s = .next t ∧ t.mir.fetch = none ∧ t.mir.st = .idle := by
  refine ⟨_, mirrorTmoExpiry_effect hl (.inr (by rw [hf]; exact nofun)), ?_⟩
  obtain ⟨out, credits, he⟩ := endFetch_endOnly s f stAborted 0x30 (0x30 != 0x33) none
  have ha : abortFetch s 0x30 none = endFetch s f stAborted 0x30 (0x30 != 0x33) none := by
    unfold abortFetch
    rw [hf]
    rfl
  rw [abandonCommit_none hc, ha, he.mir]
  refine ⟨rfl, ?_⟩
  simp [setMir, fetchEnded, hc]

/-- A held write waits, and its granules are asked for (R353). -/
theorem mirrorHeldWrite_holds {s : State} (pa : BitVec 56) (bytes : List Byte) (hl : Live s) (h : heldGranules s pa.toNat bytes.length ≠ []) :
    ∃ t k, exec (.mirrorHeldWrite pa bytes) s = .next t ∧ t = { s with mir := t.mir } ∧ t.mir.held = s.mir.held ++ [⟨pa, bytes⟩] ∧ t.mir.commit = some k ∧
      ∀ g ∈ heldGranules s pa.toNat bytes.length, g ∈ k.urgent := by
  cases hk : s.mir.commit with
  | none => exact absurd (by rw [heldGranules, hk]) h
  | some k =>
    have hn : ¬ (heldGranules s pa.toNat bytes.length).isEmpty = true := by simpa using h
    have ha : askGranules s (heldGranules s pa.toNat bytes.length) = setMir s { s.mir with commit := some { k with
        urgent := k.urgent ++ (heldGranules s pa.toNat bytes.length).filter (fun g => !k.urgent.contains g) } } := by
      rw [askGranules, hk]
      rfl
    refine ⟨_, _, by rw [exec, execMirrorHeldWrite, event_live hl, if_neg hn, ha, Option.getD_some], rfl, rfl, rfl, fun g hg => ?_⟩
    by_cases hu : g ∈ k.urgent
    · exact List.mem_append_left _ hu
    · exact List.mem_append_right _ (List.mem_filter.2 ⟨hg, by simpa using hu⟩)

/-- Settles O47: each write of MIRCTL, each word and change of the partner port, and each event of a commit from the lemma about its effect. -/
theorem mirrorControlAndCommit : Obligations.MirrorControlAndCommit := by
  unfold Obligations.MirrorControlAndCommit
  refine ⟨fun s => ?control, ?commit, ?abandon, ?timeout, fun pa bytes s => mirrorHeldWrite_holds pa bytes⟩
  case control =>
    refine ⟨?both, ?set, ?clear, fun n hup => ⟨partnerCredit_ignored hup, partnerCredit_adds hup⟩, fun i hi hl => ⟨?nothing, ?wakes⟩,
      ppLinkUpRise_ignored, ppLinkUpRise_grants, ppLinkUpRise_wakes, ppLinkUpFall_ignored, fun hl hk => ⟨?idleFall, ?fall⟩⟩
    case both =>
      intro i v hi hr
      obtain ⟨b, rfl⟩ : ∃ b, i = mirctlInstr b v := by
        obtain rfl | rfl := hi
        · exact ⟨true, rfl⟩
        · exact ⟨false, rfl⟩
      refine ⟨mirctl_privileged hr, mirctl_ignored hr, fun hring hp hq he => ⟨_, mirctl_counts hr hring hp hq, mirctlState_same v ?_⟩⟩
      rw [he]
      cases b with
      | true => exact decide_eq_true rfl
      | false => exact decide_eq_false nofun
    case set =>
      intro v hr hring hp hq he
      exact ⟨fun hc hw => ⟨_, mirctl_counts (b := true) hr hring hp hq, mirctlState_set v he hc hw⟩,
        fun hc => ⟨_, mirctl_counts (b := true) hr hring hp hq, mirctlState_refused v he hc⟩⟩
    case clear =>
      intro v hr hring hp hq he
      exact ⟨_, mirctl_counts (b := false) hr hring hp hq, mirctlState_clear v he⟩
    case nothing => exact fun h => partnerRow_event hi fun f => partnerEvent_nothing hl f h
    case wakes => exact fun hp hk ha => partnerRow_event hi fun f => partnerEvent_wakes hl f hp hk ha
    case idleFall =>
      intro hc hf
      rw [ppLinkUpFall_falls hl hk, abandonCommit_none (s := linkFallen s) hc, abortFetch_none (s := linkFallen s) hf]
      rfl
    case fall => exact ⟨_, ppLinkUpFall_falls hl hk, linkFallen_ends s⟩
  case commit =>
    intro s k hup hn hw hk hh
    refine ⟨?reads, fun g hcl hd ha => partnerAck_completes g hup hn hk hh hcl hd ha,
      fun g => partnerAck_granule hup hn hk, fun g u hu => ⟨partnerNack_granule hup hn hk hu, fun code hc => ?nack⟩,
      fun g hd ha => ⟨partnerNack_record g hup hn hk hd ha, fun code hc => ?recNack⟩⟩
    case reads =>
      intro r i pa g hmay hag hg
      refine ⟨fun hm => ?read, fun u hb => ?bad⟩
      case read =>
        have hm' : mirCheck (quietOut s) pa 65536 = (quietOut s, false) := by
          rw [quietOut, mirCheck_setMir, hm]
        exact granuleRead_leaves hup hn hw hk hh hmay hag hg hm'
      case bad =>
        refine ⟨_, granuleRead_fails hup hk hmay hg (hb.imp_right fun h => ?_), badRead_abandons hk hh hw pa 65536 _⟩
        rw [quietOut, mirCheck_setMir]
        exact h
    case nack =>
      refine partnerNack_abandons hup hk hh hw (nackSend_granule hu) (hc.imp_right fun h => ?_)
      exact if_pos h
    case recNack =>
      refine partnerNack_abandons hup hk hh hw (nackSend_record g hd ha) (hc.imp_right fun h => ?_)
      exact if_pos h
  case abandon =>
    intro s k hl hk hh hw
    exact ⟨mirrorCommitAbandon_abandons hl hk hh hw, mirrorTmoExpiry_abandons hl hk hh hw⟩
  case timeout =>
    intro s f hl hf hc
    exact mirrorTmoExpiry_endsFetch hl hf hc

end Sys2Proof.Machine


namespace Sys2Proof.Machine

/-! SUPPORT. The ALU in bit vectors: the results and flags of R33 and R43 as numbers are those of the operations on words of the width. -/

/-- A signed value of w bits is the integer of its word. -/
theorem sval_toNat {w : Nat} (hw : 0 < w) (x : BitVec w) : sval w x.toNat = x.toInt := by
  have h2 : 2 ^ w = 2 * 2 ^ (w - 1) := by rw [← Nat.pow_succ', Nat.succ_eq_add_one, Nat.sub_add_cancel hw]
  rw [sval, BitVec.toInt_eq_toNat_cond]
  by_cases h : x.toNat < 2 ^ (w - 1)
  · rw [if_pos h, if_pos (by omega)]
  · rw [if_neg h, if_neg (by omega)]
    push_cast
    rfl

/-- The low bits of an integer are the word of the integer. -/
theorem wrap_eq (w : Nat) (i : Int) : wrap w i = (BitVec.ofInt w i).toNat := by
  rw [wrap, BitVec.toNat_ofInt]
  push_cast
  rfl

theorem rorNat_eq {w : Nat} (x : BitVec w) {k : Nat} (hk : k < w) : rorNat w x.toNat k = (x.rotateRight k).toNat := by
  have hw : 2 ^ w = 2 ^ k * 2 ^ (w - k) := by rw [← Nat.pow_add, Nat.add_sub_cancel' hk.le]
  have hq : x.toNat / 2 ^ k < 2 ^ (w - k) := Nat.div_lt_of_lt_mul (hw ▸ x.isLt)
  have hm : x.toNat * 2 ^ (w - k) % 2 ^ w = 2 ^ (w - k) * (x.toNat % 2 ^ k) := by rw [hw, Nat.mul_mod_mul_right, Nat.mul_comm]
  have hr : x.toNat / 2 ^ k + 2 ^ (w - k) * (x.toNat % 2 ^ k) < 2 ^ w := by
    have := Nat.mod_lt x.toNat (Nat.two_pow_pos k)
    calc x.toNat / 2 ^ k + 2 ^ (w - k) * (x.toNat % 2 ^ k) < 2 ^ (w - k) + 2 ^ (w - k) * (x.toNat % 2 ^ k) := by omega
      _ = 2 ^ (w - k) * (x.toNat % 2 ^ k + 1) := by rw [Nat.mul_add, Nat.mul_one, Nat.add_comm]
      _ ≤ 2 ^ (w - k) * 2 ^ k := Nat.mul_le_mul_left _ this
      _ = 2 ^ w := by rw [hw, Nat.mul_comm]
  rw [rorNat, BitVec.rotateRight, BitVec.rotateRightAux, Nat.mod_eq_of_lt hk, BitVec.toNat_or, BitVec.toNat_ushiftRight, BitVec.toNat_shiftLeft,
    Nat.shiftRight_eq_div_pow, Nat.shiftLeft_eq, hm, Nat.or_comm, ← Nat.two_pow_add_eq_or_of_lt hq, Nat.add_mod, hm,
    Nat.mod_eq_of_lt (a := x.toNat / 2 ^ k) (by omega), Nat.mod_eq_of_lt hr, Nat.add_comm]

/-- The leading zeros of a word are the place of its first one bit from the top. -/
theorem clzNat_eq {w : Nat} (x : BitVec w) :
    clzNat w x.toNat = ((List.range w).find? fun i => x.getLsbD (w - 1 - i)).getD w := by
  by_cases h : x = 0
  · subst h
    have hn : (List.range w).find? (fun i => (0 : BitVec w).getLsbD (w - 1 - i)) = none := by simp
    rw [hn]
    simp [clzNat]
  · have hx : x.toNat ≠ 0 := fun e => h (BitVec.eq_of_toNat_eq e)
    have hl : Nat.log2 x.toNat < w := (Nat.log2_lt hx).2 x.isLt
    have hf : (List.range w).find? (fun i => x.getLsbD (w - 1 - i)) = some (w - 1 - Nat.log2 x.toNat) := by
      rw [List.find?_range_eq_some]
      refine ⟨?_, List.mem_range.2 (by omega), fun j hj => ?_⟩
      · rw [show w - 1 - (w - 1 - Nat.log2 x.toNat) = Nat.log2 x.toNat by omega]
        exact Nat.testBit_log2 hx
      · have hb : x.toNat < 2 ^ (w - 1 - j) := (Nat.log2_lt hx).1 (by omega)
        simpa [BitVec.getLsbD] using Nat.testBit_lt_two_pow hb
    rw [hf, clzNat, if_neg hx, Option.getD_some]

/-- The one bits of a number are counted one by one. -/
theorem popcount_eq (w x : Nat) : popcount w x = (List.range w).countP fun i => x.testBit i := by
  induction w generalizing x with
  | zero => rfl
  | succ w ih =>
    have hs : (fun i => x.testBit i) ∘ Nat.succ = fun i => (x / 2).testBit i := funext fun i => by simp [Nat.testBit_succ]
    rw [popcount, ih, List.range_succ_eq_map, List.countP_cons, List.countP_map, hs, Nat.testBit_zero, Nat.add_comm]
    rcases Nat.mod_two_eq_zero_or_one x with h | h <;> simp [h]

/-- The result of an operation as a number is that of the operation on words (R43). -/
theorem aluResult_toNat {w : Nat} (hw : 0 < w) (f : Alu) (x y : BitVec w) : aluResult f w x.toNat y.toNat = (aluBits f x y).toNat := by
  have hx := x.isLt
  have hy := y.isLt
  have hk : y.toNat % w < w := Nat.mod_lt _ hw
  have h0 : y.toNat = 0 ↔ y = 0 := ⟨fun h => BitVec.eq_of_toNat_eq h, fun h => by rw [h]; rfl⟩
  cases f with
  | add | and | or | xor | mul => simp [aluResult, aluBits]
  | sub | cmp =>
    rw [aluResult, aluBits, BitVec.toNat_sub]
    congr 1
    omega
  | andn => simp [aluResult, aluBits]
  | shl => simp [aluResult, aluBits, Nat.shiftLeft_eq]
  | shr => simp [aluResult, aluBits, Nat.shiftRight_eq_div_pow]
  | sar => rw [aluResult, aluBits, sarNat, sval_toNat hw, wrap_eq, BitVec.sshiftRight, Int.shiftRight_eq_div_pow]; push_cast; rfl
  | ror => exact rorNat_eq x hk
  | mulh => rw [aluResult, aluBits, sval_toNat hw, sval_toNat hw, wrap_eq]
  | mulhu =>
    have : x.toNat * y.toNat / 2 ^ w < 2 ^ w := Nat.div_lt_of_lt_mul (Nat.mul_lt_mul'' hx hy)
    rw [aluResult, aluBits, BitVec.toNat_ofNat, Nat.mod_eq_of_lt this]
  | min | max =>
    rw [aluResult, aluBits, sval_toNat hw, sval_toNat hw]
    split <;> rfl
  | div =>
    simp only [aluResult, aluBits, h0, sval_toNat hw, wrap_eq]
    split <;> simp
  | rem =>
    simp only [aluResult, aluBits, h0, sval_toNat hw, wrap_eq]
    split <;> rfl
  | divu =>
    simp only [aluResult, aluBits, h0]
    split <;> simp
  | remu =>
    simp only [aluResult, aluBits, h0]
    split <;> simp
  | clz =>
    have hle : clzNat w x.toNat ≤ w := by unfold clzNat; split <;> omega
    rw [aluResult, aluBits, ← clzNat_eq, BitVec.toNat_ofNat, Nat.mod_eq_of_lt (Nat.lt_of_le_of_lt hle Nat.lt_two_pow_self)]
  | popc =>
    have hle : popcount w x.toNat ≤ w := by
      rw [popcount_eq]
      exact List.countP_le_length.trans_eq List.length_range
    rw [aluResult, aluBits, BitVec.toNat_ofNat, show (fun i => x.getLsbD i) = fun i => x.toNat.testBit i from rfl, ← popcount_eq,
      Nat.mod_eq_of_lt (Nat.lt_of_le_of_lt hle Nat.lt_two_pow_self)]

/-- C after an operation, or C as it was (R33). -/
theorem aluCarry_getD {w : Nat} (f : Alu) (x y : BitVec w) (c : Bool) :
    (aluCarry f w x.toNat y.toNat).getD c = carryBits f x y c := by
  cases f with
  | add => simp [aluCarry, carryBits, BitVec.uaddOverflow]
  | sub | cmp => rfl
  | shl | shr | sar | ror =>
    simp only [aluCarry, carryBits]
    split <;> rfl
  | _ => rfl

/-- V after an operation, or V as it was (R33). -/
theorem aluOverflow_getD {w : Nat} (hw : 0 < w) (f : Alu) (x y : BitVec w) (v : Bool) :
    (aluOverflow f w x.toNat y.toNat).getD v = overflowBits f x y v := by
  cases f with
  | add => simp [aluOverflow, overflowBits, sval_toNat hw, overflows, BitVec.saddOverflow, Bool.or_comm]
  | sub | cmp => simp [aluOverflow, overflowBits, sval_toNat hw, overflows, BitVec.ssubOverflow, Bool.or_comm]
  | _ => rfl

/-- The flags that an operation sets are those of the operation on words (R33). -/
theorem aluFlags_flagsSet {w : Nat} (hw : 0 < w) (f : Alu) (x y : BitVec w) (fl : W64) :
    flagsSet f x y fl (aluFlags fl f w x.toNat y.toNat) := by
  have hc := aluCarry_getD f x y (bit fl 1)
  have hv := aluOverflow_getD hw f x y (bit fl 0)
  have hz : ((aluBits f x y).toNat == 0) = (aluBits f x y == 0) := by
    rw [Bool.eq_iff_iff, beq_iff_eq, beq_iff_eq]
    exact ⟨fun h => BitVec.eq_of_toNat_eq h, fun h => by rw [h]; rfl⟩
  have hn : (aluBits f x y).toNat.testBit (w - 1) = (aluBits f x y).msb := (BitVec.msb_eq_getLsbD_last _).symm
  unfold flagsSet aluFlags
  simp only [aluResult_toNat hw, hz, hn]
  cases ec : aluCarry f w x.toNat y.toNat <;> cases ev : aluOverflow f w x.toNat y.toNat <;> rw [ec] at hc <;> rw [ev] at hv <;>
    simp only [Option.getD] at hc hv <;> simp only [bit_setBit, ← hc, ← hv]
  all_goals
    refine ⟨by simp, by simp, by simp, by simp, fun i hi => ?_⟩
    simp [show i ≠ 0 by omega, show i ≠ 1 by omega, show i ≠ 2 by omega, show i ≠ 3 by omega]

theorem aluWidth_pos (wf : Bool) : 0 < aluWidth wf := by cases wf <;> decide

/-- An operand cut to the width is its word of the width. -/
theorem cut_eq (w : Nat) (x : W64) : cut w x = (x.setWidth w).toNat := (BitVec.toNat_setWidth w x).symm

/-- The register value of an operation (R43). -/
theorem aluResult_value (f : Alu) (wf : Bool) (x y : W64) :
    BitVec.ofNat 64 (aluResult f (aluWidth wf) (cut (aluWidth wf) x) (cut (aluWidth wf) y)) = aluValue f wf x y := by
  rw [cut_eq, cut_eq, aluResult_toNat (aluWidth_pos wf), BitVec.ofNat_toNat]
  cases wf <;> simp [aluWidth, aluValue]

/-- The flags of an operation in either width (R33). -/
theorem aluFlags_flagsOf (f : Alu) (wf : Bool) (x y fl : W64) :
    flagsOf f wf x y fl (aluFlags fl f (aluWidth wf) (cut (aluWidth wf) x) (cut (aluWidth wf) y)) := by
  rw [cut_eq, cut_eq, flagsOf]
  cases wf
  · simpa [aluWidth] using aluFlags_flagsSet (by decide) f x y fl
  · exact aluFlags_flagsSet (by decide) f _ _ fl

end Sys2Proof.Machine


namespace Sys2Proof.Machine

/-! SUPPORT. The ALU instructions: their length, what they write and what they leave, the divisions, and the branches (R33, R42 to R44, R203). -/

/-! ### The length of an instruction -/

/-- A first word with a major below 0x38 opens a form of one word (R40). -/
theorem twoWords_word {major low : Nat} (hm : major < 0x38) (hl : low < 67108864) : twoWords (word major low) = false := by
  have h : (word major low).toNat / 67108864 = major := by rw [word, BitVec.toNat_ofNat]; omega
  simp only [twoWords, h, Bool.or_eq_false_iff, beq_eq_false_iff_ne]
  omega

theorem instrBytes_word {i : Instr} {major low : Nat} {v : W32} (h : encodeWords i = some (word major low, v)) (hm : major < 0x38)
    (hl : low < 67108864) : instrBytes i = 4 := by
  simp only [instrBytes, h, twoWords_word hm hl, Bool.false_eq_true, if_false]

/-- Format R is of one word (R42). -/
theorem instrBytes_aluReg {i : Instr} {func : Nat} {rd ra rb : GReg} {sf wf : Bool} {v : W32}
    (h : encodeWords i = some (aluWord func rd ra sf wf (.reg rb), v)) (hf : func < 512) : instrBytes i = 4 := by
  have hs := sf.toNat_lt
  have hw := wf.toNat_lt
  exact instrBytes_word h (by decide) (by simp only [at21, at16, at11]; omega)

/-- Formats R and I are of one word (R42). -/
theorem instrBytes_aluWord {i : Instr} {func : Nat} {rd ra : GReg} {sf wf : Bool} {op : Opnd} {v : W32}
    (h : encodeWords i = some (aluWord func rd ra sf wf op, v)) (hf : func < 16) : instrBytes i = 4 := by
  have hs := sf.toNat_lt
  have hw := wf.toNat_lt
  cases op with
  | reg rb => exact instrBytes_aluReg h (by omega)
  | imm k => exact instrBytes_word h (by split <;> decide) (by simp only [at21, at16]; omega)

theorem aluForm_bytes {i : Instr} {f : Alu} {rd ra : GReg} {op : Opnd} {sf wf : Bool} (h : aluForm i = some (f, rd, ra, op, sf, wf)) :
    instrBytes i = 4 := by
  cases i with
  | add | sub | and | or | xor | andn | shl | shr | sar | ror | mul | mulh | mulhu | min | max => exact instrBytes_aluWord rfl (by decide)
  | _ => cases h

theorem divForm_bytes {i : Instr} {f : Alu} {rd ra rb : GReg} {sf wf : Bool} (h : divForm i = some (f, rd, ra, rb, sf, wf)) : instrBytes i = 4 := by
  cases i with
  | div | divu | rem | remu => exact instrBytes_aluReg rfl (by decide)
  | _ => cases h

theorem instrBytes_wideWord {i : Instr} {ins : Nat} {rd : GReg} {lane : BitVec 2} {imm : BitVec 16} {v : W32}
    (h : encodeWords i = some (wideWord ins rd lane imm, v)) (hi : ins < 2) : instrBytes i = 4 :=
  instrBytes_word h (by decide) (by simp only [at21]; omega)

/-! ### What a write of a register leaves -/

@[simp] theorem wg_get_same (b : Bank) (r : GReg) (x : W64) : (wg b r x).g[r] = x := by simp

theorem keepsG_wg (b : Bank) (r : GReg) (x : W64) : keepsG b (wg b r x) [r] := by
  intro k hk
  have h : r.val ≠ k.val := fun e => hk (List.mem_singleton.2 (Fin.ext e.symm))
  simp [h]

theorem scalarOnly_refl (b : Bank) : scalarOnly b b := rfl

theorem scalarOnly_trans {b b' b'' : Bank} (h1 : scalarOnly b b') (h2 : scalarOnly b' b'') : scalarOnly b b'' := by
  unfold scalarOnly at *
  rw [h2, h1]

theorem scalarOnly_wg (b : Bank) (r : GReg) (x : W64) : scalarOnly b (wg b r x) := rfl

theorem scalarOnly_wfl (b : Bank) (x : W64) : scalarOnly b (wfl b x) := rfl

theorem scalarOnly_pc (b : Bank) (pc : W64) : scalarOnly b { b with pc := pc } := rfl

/-- An instruction that completes with its bank in a state retires to it, with the pc behind it. -/
theorem exec_ok {i : Instr} {body : Body} {s s' : State} {b' : Bank} (he : exec i s = issue i body s) (hr : Ready i s) (hn : instrBytes i = 4)
    (hb : body .core (curBank s) s = .ok b' s') : exec i s = .next (after s' { b' with pc := (curBank s).pc + 4 }) := by
  rw [he, issue_ready body hr, hb, settle_ok, hn]
  rfl

/-- An exception that leaves the bank is raised in the state of its body. -/
theorem exec_exc {i : Instr} {body : Body} {s s' : State} {b' : Bank} {e : Exc} (he : exec i s = issue i body s) (hr : Ready i s)
    (hb : body .core (curBank s) s = .exc e b' s') (hw : e.code ≠ waitCode) : exec i s = .next (raise e (setCur s' b')) := by
  rw [he, issue_ready body hr, hb, settle_exc hw]

/-- An exception raised before anything has changed. -/
theorem exec_exc_at_once {i : Instr} {body : Body} {s : State} {e : Exc} (he : exec i s = issue i body s) (hr : Ready i s)
    (hb : body .core (curBank s) s = .exc e (curBank s) s) (hw : e.code ≠ waitCode) : exec i s = .next (raise e s) := by
  rw [exec_exc he hr hb hw, setCur_curBank]

theorem exec_wait {i : Instr} {body : Body} {s s' : State} (he : exec i s = issue i body s) (hr : Ready i s)
    (hb : body .core (curBank s) s = .wait s') : exec i s = .next { s' with stall := some i } := by
  rw [he, issue_ready body hr, hb, settle_wait]

theorem exec_jump {i : Instr} {body : Body} {s s' : State} {b' : Bank} (he : exec i s = issue i body s) (hr : Ready i s)
    (hb : body .core (curBank s) s = .jump b' s') : exec i s = .next (after s' b') := by
  rw [he, issue_ready body hr, hb, settle_jump]

/-! ### The two-operand instructions -/

/-- A bank after the result of an ALU instruction: rd and, in the S form, the flags. -/
def aluBank (f : Alu) (b : Bank) (rd : GReg) (sf wf : Bool) (x y : W64) : Bank :=
  let w := aluWidth wf
  let b1 := wg b rd (BitVec.ofNat 64 (aluResult f w (cut w x) (cut w y)))
  { (if sf then wfl b1 (aluFlags b.fl f w (cut w x) (cut w y)) else b1) with pc := b.pc + 4 }

/-- What an ALU instruction writes and what it leaves (R33, R43). -/
theorem aluBank_spec (f : Alu) (b : Bank) (rd : GReg) (sf wf : Bool) (x y : W64) : let b' := aluBank f b rd sf wf x y
    scalarOnly b b' ∧ b'.g[rd] = aluValue f wf x y ∧ keepsG b b' [rd] ∧ b'.pc = b.pc + 4 ∧ (sf = true → flagsOf f wf x y b.fl b'.fl) ∧
      (sf = false → b'.fl = b.fl) := by
  rw [← aluResult_value]
  cases sf with
  | false => exact ⟨rfl, wg_get_same _ _ _, keepsG_wg _ _ _, rfl, nofun, fun _ => rfl⟩
  | true => exact ⟨rfl, wg_get_same _ _ _, keepsG_wg _ _ _, rfl, fun _ => aluFlags_flagsOf f wf x y b.fl, nofun⟩

theorem exec_aluForm {i : Instr} {f : Alu} {rd ra : GReg} {op : Opnd} {sf wf : Bool} (h : aluForm i = some (f, rd, ra, op, sf, wf)) (s : State) :
    exec i s = issue i (aluBody f rd ra op sf wf) s := by
  cases i with
  | add | sub | and | or | xor | andn | shl | shr | sar | ror | mul | mulh | mulhu | min | max => cases h; rfl
  | _ => cases h

/-- CLZ and POPC are operations on ra and 0 (R43). -/
theorem countBody_eq (f : Alu) (rd ra : GReg) (sf wf : Bool) (b : Bank) (s : State) :
    countBody f rd ra sf wf .core b s = aluBody f rd ra (.imm 0) sf wf .core b s := by
  have h0 : cut (aluWidth wf) (opndVal b (.imm 0)) = 0 := by cases wf <;> rfl
  simp only [countBody, aluBody, h0]

/-- An instruction with the body of an ALU operation on ra and a value. -/
theorem alu_effect {i : Instr} {body : Body} {f : Alu} {rd ra : GReg} {op : Opnd} {sf wf : Bool} {s : State} (he : exec i s = issue i body s)
    (hr : Ready i s) (hn : instrBytes i = 4) (hb : body .core (curBank s) s = aluBody f rd ra op sf wf .core (curBank s) s) :
    exec i s = .next (after s (aluBank f (curBank s) rd sf wf (rg (curBank s) ra) (opndVal (curBank s) op))) := by
  rw [exec_ok he hr hn hb]
  rfl

theorem place_lane (imm : BitVec 16) (lane : BitVec 2) : place 64 imm.toNat (16 * lane.toNat) = imm.setWidth 64 <<< (16 * lane.toNat) := by
  apply BitVec.eq_of_toNat_eq
  rw [place, BitVec.toNat_ofNat, BitVec.toNat_shiftLeft, BitVec.toNat_setWidth, Nat.mod_eq_of_lt (a := imm.toNat) (by omega)]

/-- The lane that IMI writes (R42). -/
theorem bit_setLane (x : W64) (lane : BitVec 2) (imm : BitVec 16) {j : Nat} (hj : j < 64) :
    bit (setField x (16 * lane.toNat + 15) (16 * lane.toNat) imm.toNat) j = if j / 16 = lane.toNat then bit imm (j % 16) else bit x j := by
  rw [bit_setField]
  by_cases h : j / 16 = lane.toNat
  · rw [if_pos (by omega), if_pos h, show j - 16 * lane.toNat = j % 16 by omega]
    rfl
  · rw [if_neg (by omega), if_neg h]

/-- Settles O7: each instruction has the body of an ALU operation, of which `aluBank_spec` says what it writes and what it leaves. -/
theorem aluResultAndFrame : Obligations.AluResultAndFrame := by
  unfold Obligations.AluResultAndFrame
  refine ⟨fun i f rd ra op sf wf s h hr => ?alu, fun ra op sf wf s hr => ?cmp, fun rd ra sf wf s hr => ?clz, fun rd ra sf wf s hr => ?popc,
    fun rd lane imm s hr => ?imz, fun rd lane imm s hr => ?imi⟩
  case alu => exact ⟨_, alu_effect (exec_aluForm h s) hr (aluForm_bytes h) rfl, aluBank_spec f (curBank s) rd sf wf _ _⟩
  case cmp =>
    refine ⟨_, exec_ok rfl hr (instrBytes_aluWord rfl (by decide)) rfl, rfl, ?_⟩
    exact aluFlags_flagsOf .cmp wf _ _ _
  case clz => exact ⟨_, alu_effect rfl hr (instrBytes_aluReg rfl (by decide)) (countBody_eq _ _ _ _ _ _ _), aluBank_spec .clz (curBank s) rd sf wf _ _⟩
  case popc => exact ⟨_, alu_effect rfl hr (instrBytes_aluReg rfl (by decide)) (countBody_eq _ _ _ _ _ _ _), aluBank_spec .popc (curBank s) rd sf wf _ _⟩
  case imz =>
    refine ⟨_, exec_ok rfl hr (instrBytes_wideWord rfl (by decide)) rfl, rfl, ?_, keepsG_wg _ _ _, rfl, rfl⟩
    rw [← place_lane]
    exact wg_get_same _ _ _
  case imi =>
    refine ⟨_, exec_ok rfl hr (instrBytes_wideWord rfl (by decide)) rfl, rfl, fun j hj => ?_, keepsG_wg _ _ _, rfl, rfl⟩
    rw [← bit_setLane _ _ _ hj]
    exact congrArg (bit · j) (wg_get_same _ _ _)

/-! ### The divisions -/

theorem exec_divForm {i : Instr} {f : Alu} {rd ra rb : GReg} {sf wf : Bool} (h : divForm i = some (f, rd, ra, rb, sf, wf)) (s : State) :
    exec i s = issue i (divBody f rd ra rb sf wf) s := by
  cases i with
  | div | divu | rem | remu => cases h; rfl
  | _ => cases h

/-- With the divider free nothing that is on its way goes to a general register. -/
theorem longs_of_divider_free {b : Bank} (h : divBusy b = false) (r : GReg) :
    (b.longs.filter fun l => match l with
      | .g k _ => k ≠ r
      | _ => true) = b.longs := by
  refine List.filter_eq_self.2 fun l hl => ?_
  have := List.any_eq_false.1 h l hl
  cases l with
  | g k x => exact absurd rfl this
  | v k x => rfl

theorem longG_core (b : Bank) (rd : GReg) (x : W64) (h : divBusy b = false) :
    scalarOnly b (longG .core b rd x) ∧ (longG .core b rd x).g = b.g ∧ (longG .core b rd x).longs = b.longs ++ [.g rd x] ∧
      (longG .core b rd x).fl = b.fl := by
  refine ⟨rfl, ?_, ?_, rfl⟩
  · simp [longG]
  · exact congrArg (· ++ [.g rd x]) (longs_of_divider_free h rd)

theorem division_issues {i : Instr} {f : Alu} {rd ra rb : GReg} {sf wf : Bool} {s : State} (h : divForm i = some (f, rd, ra, rb, sf, wf)) (hr : Ready i s)
    (hd : divBusy (curBank s) = false) : let b := curBank s
    ∃ b', exec i s = .next (after s b') ∧ scalarOnly b b' ∧ b'.g = b.g ∧ b'.pc = b.pc + 4 ∧
      b'.longs = b.longs ++ [.g rd (aluValue f wf (rg b ra) (rg b rb))] ∧
      (sf = true → flagsOf f wf (rg b ra) (rg b rb) b.fl b'.fl) ∧ (sf = false → b'.fl = b.fl) := by
  have hb : ¬ ((Who.core = .core) ∧ divBusy (curBank s) = true) := by simp [hd]
  refine ⟨_, exec_ok (exec_divForm h s) hr (divForm_bytes h) (by rw [divBody, if_neg hb]), ?_⟩
  rw [aluResult_value]
  obtain ⟨ho, hg, hl, hf⟩ := longG_core (curBank s) rd (aluValue f wf (rg (curBank s) ra) (rg (curBank s) rb)) hd
  cases sf with
  | false => exact ⟨rfl, hg, rfl, hl, nofun, fun _ => hf⟩
  | true => exact ⟨rfl, hg, rfl, hl, fun _ => aluFlags_flagsOf f wf _ _ _, nofun⟩

/-- Settles O8: the divider takes a division that finds it free; a result that arrives is the first of its destination. -/
theorem divisionsAndLongResults : Obligations.DivisionsAndLongResults := by
  unfold Obligations.DivisionsAndLongResults
  refine ⟨fun i f rd ra rb sf wf s h hr => ⟨division_issues h hr, fun hd => ?busy⟩, fun k s hl => ⟨fun rd x hx => ?g, fun vd x hx => ?v, fun d hd => ?none⟩⟩
  case busy => exact exec_wait (exec_divForm h s) hr (by rw [divBody, if_pos ⟨rfl, hd⟩])
  case g =>
    rw [exec, execLongOpResult, event_live hl, hx]
    rfl
  case v =>
    rw [exec, execLongOpResult, event_live hl, hx]
    rfl
  case none =>
    rw [exec, execLongOpResult, event_live hl, hd]
    rfl

/-- Settles O9: division by 0 is a branch of its own; the overflow is computed in each width. -/
theorem divisionCorners : Obligations.DivisionCorners := by
  unfold Obligations.DivisionCorners
  refine ⟨fun x => ⟨rfl, rfl, rfl, rfl⟩, fun x => ⟨rfl, rfl, rfl, rfl⟩, ?_, ?_, ?_, ?_⟩
  all_goals decide

/-! ### Misaligned ordered accesses -/

/-- Data-alignment is no signal of a body. -/
theorem alignment_code : (0x04 : Byte) ≠ waitCode := by decide

theorem atomicOf_misaligned {k : Who} {b : Bank} {va : W64} {n : Nat} {acq rel : Bool} {f : Nat → Option Nat} {s : State} (h : va.toNat % n ≠ 0) :
    atomicOf k b va n acq rel f s = .fault s { code := 0x04, acc := .write, addr := va } := if_pos h

/-- Settles O13: each body tests the alignment before it translates. -/
theorem misalignedOrderedAccessTraps : Obligations.MisalignedOrderedAccessTraps := by
  unfold Obligations.MisalignedOrderedAccessTraps
  refine fun s => ⟨fun rd ga sz hr hm => ?_, fun rs ga sz hr hm => ?_, fun rd ga rb rc d a l hr hm => ?_, fun rd ga rb rc d a l hr hm => ?_⟩
  · exact exec_exc_at_once rfl hr (by rw [ldaBody]; exact if_pos hm) alignment_code
  · exact exec_exc_at_once rfl hr (by rw [stlBody]; exact if_pos hm) alignment_code
  · exact exec_exc_at_once rfl hr (by rw [casBody, atomicOf_misaligned (n := atomSize d) hm]) alignment_code
  · exact exec_exc_at_once rfl hr (by rw [aaddBody, atomicOf_misaligned (n := atomSize d) hm]) alignment_code

/-! ### Conditions and branches -/

/-- The least bits of a number as a field. -/
theorem fieldN_low (x : W64) : fieldN x 1 0 = x.toNat % 4 := rfl

/-- The sign of a difference differs from its overflow where the first value is the lesser one. -/
theorem msb_sub_ne_overflow (x y : W64) : ((x - y).msb != BitVec.ssubOverflow x y) = x.slt y := by
  have hx := BitVec.le_toInt x
  have hx' := BitVec.toInt_lt (x := x)
  have hy := BitVec.le_toInt y
  have hy' := BitVec.toInt_lt (x := y)
  rw [BitVec.msb_eq_toInt, BitVec.toInt_sub, BitVec.ssubOverflow, BitVec.slt_eq_decide, Bool.eq_iff_iff]
  simp only [Int.bmod, bne_iff_ne, ne_eq, Bool.or_eq_decide, decide_eq_decide, decide_eq_true_eq] at *
  omega

/-- After a comparison N and V differ where ra is the lesser signed value, C is set where it is the lesser unsigned one, and Z where both are equal
(R33, R44). -/
theorem condHolds_cmp {x y fl fl' : W64} (h : flagsOf .cmp false x y fl fl') :
    condHolds fl' 0 = (x == y) ∧ condHolds fl' 1 = !(x == y) ∧ condHolds fl' 2 = x.slt y ∧ condHolds fl' 3 = y.sle x ∧
     condHolds fl' 4 = x.sle y ∧ condHolds fl' 5 = y.slt x ∧ condHolds fl' 6 = x.ult y ∧ condHolds fl' 7 = y.ule x ∧
     condHolds fl' 8 = x.ule y ∧ condHolds fl' 9 = y.ult x := by
  obtain ⟨hn, hz, hc, hv, -⟩ : flagsSet .cmp x y fl fl' := h
  have hz : bit fl' 2 = (x == y) := by
    rw [hz, Bool.eq_iff_iff, beq_iff_eq, beq_iff_eq]
    exact sub_eq_zero
  have hlt : (bit fl' 3 != bit fl' 0) = x.slt y := by
    rw [hn, hv]
    exact msb_sub_ne_overflow x y
  have hge : (bit fl' 3 == bit fl' 0) = !x.slt y := by rw [← hlt, bne, Bool.not_not]
  have hle : x.sle y = (x == y || x.slt y) := by rw [BitVec.sle_eq_slt_or_eq, Bool.or_comm]
  have hule : x.ule y = (x.ult y || x == y) := by
    rw [BitVec.ule_eq_decide, BitVec.ult_eq_decide, Bool.eq_iff_iff]
    simp [Nat.le_iff_lt_or_eq, BitVec.toNat_eq]
  have hc : bit fl' 1 = x.ult y := hc
  refine ⟨hz, ?_, hlt, ?_, ?_, ?_, hc, ?_, ?_, ?_⟩
  · exact congrArg not hz
  · rw [BitVec.sle_eq_not_slt, ← hge]
    rfl
  · rw [hle, ← hz, ← hlt]
    rfl
  · rw [← Bool.not_not (y.slt x), ← BitVec.sle_eq_not_slt, hle, Bool.not_or, ← hge, ← hz]
    rfl
  · rw [BitVec.ule_eq_not_ult, ← hc]
    rfl
  · rw [hule, ← hc, ← hz]
    rfl
  · rw [← Bool.not_not (y.ult x), ← BitVec.ule_eq_not_ult, hule, Bool.not_or, ← hc, ← hz]
    rfl

theorem relTarget_eq {n : Nat} (b : Bank) (off : BitVec n) : relTarget b off = b.pc + 4 * off.signExtend 64 := by
  rw [relTarget, BitVec.mul_comm]

/-- Settles O17: the conditions from the flags of a comparison; each branch is a jump with its target. -/
theorem conditionsAndBranches : Obligations.ConditionsAndBranches := by
  unfold Obligations.ConditionsAndBranches
  refine ⟨fun x y fl fl' h => condHolds_cmp h, fun off s hr => ?b, fun cond off s hr => ?bCond, fun ra s hr ha => ?br, fun ra s hr ha => ?unaligned⟩
  case b => rw [exec_jump rfl hr rfl, relTarget_eq]; rfl
  case bCond =>
    by_cases h : condHolds (curBank s).fl cond = true
    · rw [exec_jump rfl hr (by rw [bCondBody]; exact if_pos h), relTarget_eq, if_pos h]
      rfl
    · rw [exec_ok rfl hr (instrBytes_word rfl (by decide) (by omega)) (by rw [bCondBody]; exact if_neg h), if_neg h]
  case br => exact exec_jump rfl hr (by rw [brBody]; exact if_neg (not_not.2 ha))
  case unaligned =>
    refine exec_exc_at_once rfl hr (by rw [brBody]; exact if_pos ha) ?_
    exact show (0x03 : Byte) ≠ waitCode by decide

end Sys2Proof.Machine


namespace Sys2Proof.Machine

/-! SUPPORT. What an access may change behind the store buffer: translations, reads, writes of the walker, and the lines that a load moves (R47, R59,
R162, R227, R240, R245). -/

/-- What an access may change (`accessOnly`), the store buffer left as it was. -/
def behindBuffer (s t : State) : Prop :=
  t = { s with
    ca := { t.ca with sb := s.ca.sb, sbLast := s.ca.sbLast }, mem := t.mem, memBad := t.memBad, vellum := t.vellum, vellumBad := t.vellumBad
    mir := t.mir, port := t.port, err := t.err, dom := t.dom
    c := { s.c with
      errlast := t.c.errlast, ipend := t.c.ipend, l2Check := t.c.l2Check, l1dCheck := t.c.l1dCheck, errinj := t.c.errinj } }

theorem behindBuffer_refl (s : State) : behindBuffer s s := rfl

theorem behindBuffer_trans {s t u : State} (h1 : behindBuffer s t) (h2 : behindBuffer t u) : behindBuffer s u := by
  unfold behindBuffer at *
  rw [h2, h1]

theorem behindBuffer_ite {s t u : State} {p : Prop} [Decidable p] (h1 : behindBuffer s t) (h2 : behindBuffer s u) :
    behindBuffer s (if p then t else u) := by
  split
  · exact h1
  · exact h2

theorem behindBuffer_foldl {α : Type} (f : State → α → State) (hf : ∀ s a, behindBuffer s (f s a)) (l : List α) (s : State) :
    behindBuffer s (l.foldl f s) :=
  foldl_keeps (behindBuffer s) f (fun _ _ h => behindBuffer_trans h (hf _ _)) l s (behindBuffer_refl s)

theorem behindBuffer.access {s t : State} (h : behindBuffer s t) : accessOnly s t := by
  unfold behindBuffer at h
  rw [accessOnly, h]

theorem behindBuffer.sb {s t : State} (h : behindBuffer s t) : t.ca.sb = s.ca.sb := congrArg (·.ca.sb) (show t = _ from h)

theorem behindBuffer.sbLast {s t : State} (h : behindBuffer s t) : t.ca.sbLast = s.ca.sbLast := congrArg (·.ca.sbLast) (show t = _ from h)

theorem accessOnly_refl (s : State) : accessOnly s s := rfl

theorem accessOnly_trans {s t u : State} (h1 : accessOnly s t) (h2 : accessOnly t u) : accessOnly s u := by
  unfold accessOnly at *
  rw [h2, h1]

/-! ### Records and the checks of a read -/

/-- A record changes the error system, its lines and registers, and a domain that it wakes. -/
theorem behindBuffer_of_records {s t : State} (h1 : recordsOnly s t) (h2 : noted s t) : behindBuffer s t := by
  have hf : t.freeCtr = s.freeCtr := by
    obtain ⟨_, _, _, rfl⟩ := h1
    rfl
  have h := h2.1
  rw [recordOnly, hf] at h
  rw [behindBuffer, h]

theorem postRecord_behind (s : State) (cls unit : Byte) (sev : BitVec 2) (loc : W64) (synd : BitVec 24) (inj : Bool) (extra : BitVec 16) :
    behindBuffer s (postRecord s cls unit sev loc synd inj extra) :=
  behindBuffer_of_records (postRecord_only ..) (postRecord_noted ..)

theorem meetSingle_behind (s : State) (unit : Byte) (spot loc : Nat) : behindBuffer s (meetSingle s unit spot loc) :=
  behindBuffer_of_records (meetSingle_only ..) (meetSingle_noted ..)

theorem discardLine_behind (s : State) (la : BitVec 50) : behindBuffer s (discardLine s la) := by
  unfold discardLine dropInner
  dsimp only
  split <;> split <;> rfl

theorem doubleBitL2_behind (s : State) (k : Nat) : behindBuffer s (doubleBitL2 s k) := by
  unfold doubleBitL2
  split
  · rfl
  · exact behindBuffer_ite rfl (discardLine_behind _ _)

theorem meetL2_behind (s : State) (k d : Nat) : behindBuffer s (meetL2 s k d) := by
  refine behindBuffer_ite (behindBuffer_trans ?_ (postRecord_behind ..)) (meetSingle_behind ..)
  refine behindBuffer_trans (t := clearSpot s 0x04 (l2Loc k d)) ?_ (doubleBitL2_behind _ k)
  rfl

theorem meetSpots_behind (s : State) (coh : Bool) (pa n : Nat) : behindBuffer s (meetSpots s coh pa n) := by
  refine behindBuffer_ite rfl (behindBuffer_ite (behindBuffer_foldl _ (fun _ _ => meetSingle_behind ..) _ _) (behindBuffer_ite ?_ rfl))
  refine behindBuffer_foldl _ (fun s w => ?_) _ _
  split
  · exact meetL2_behind ..
  · rfl

theorem postLine_behind (s : State) (coh : Bool) (pa : Nat) (la : BitVec 50) : behindBuffer s (postLine s coh pa la) := by
  unfold postLine
  split <;> exact postRecord_behind ..

theorem readCheck_behind (s : State) (coh : Bool) (pa n : Nat) : behindBuffer s (readCheck s coh pa n).1 := by
  unfold readCheck
  dsimp only
  split
  · exact meetSpots_behind s coh pa n
  · refine behindBuffer_trans (meetSpots_behind s coh pa n) (behindBuffer_ite ?_ ?_)
    · exact behindBuffer_foldl _ (fun _ _ => postRecord_behind ..) _ _
    · exact behindBuffer_foldl _ (fun _ _ => postLine_behind ..) _ _

/-! ### Lines -/

theorem clearSpot_behind (s : State) (unit : Byte) (loc : Nat) : behindBuffer s (clearSpot s unit loc) := rfl

theorem dropInner_behind (s : State) (la : BitVec 50) : behindBuffer s (dropInner s la) := rfl

theorem writeMem_behind (s : State) (pa : Nat) (bs : List Byte) : behindBuffer s (writeMem s pa bs) := rfl

theorem plant_behind (s : State) (unit : Byte) (kind : Nat) : behindBuffer s (plant s unit kind) := rfl

theorem setL2Line_behind (s : State) (k : Nat) (l : L2Line) (dws : List Nat) : behindBuffer s (setL2Line s k l dws) := by
  unfold setL2Line
  dsimp only
  have h : ∀ t, behindBuffer s t → behindBuffer s (if t.err.spots.isEmpty = true then t else dws.foldl (fun s d => clearSpot s 0x04 (l2Loc k d)) t) :=
    fun t ht => behindBuffer_ite ht (behindBuffer_trans ht (behindBuffer_foldl _ (fun _ _ => clearSpot_behind ..) _ _))
  have h1 := h { s with ca := { s.ca with l2 := spSet none s.ca.l2 k (some l) } } rfl
  split
  · exact h1
  · exact behindBuffer_trans h1 (behindBuffer_ite rfl rfl)

theorem putMemLine_behind (s : State) (la : BitVec 50) (p : Bool) (d : LineWord) : behindBuffer s (putMemLine s la p d) := by
  have h := writeMem_behind s (64 * la.toNat) ((List.range 64).map (lineByte d))
  unfold putMemLine
  dsimp only
  generalize writeMem s (64 * la.toNat) ((List.range 64).map (lineByte d)) = x at h ⊢
  refine behindBuffer_ite (behindBuffer_trans h ?_) h
  rfl

theorem flushL1d_behind (s : State) (la : BitVec 50) : behindBuffer s (flushL1d s la) := by
  unfold flushL1d
  split
  · rfl
  · refine behindBuffer_ite ?_ rfl
    split
    · refine behindBuffer_trans ?_ (setL2Line_behind ..)
      rfl
    · refine behindBuffer_trans ?_ (putMemLine_behind ..)
      rfl

theorem evictL2_behind (s : State) (la : BitVec 50) : behindBuffer s (evictL2 s la) := by
  unfold evictL2
  dsimp only
  refine behindBuffer_trans (behindBuffer_trans (flushL1d_behind s la) (dropInner_behind _ la)) ?_
  generalize dropInner (flushL1d s la) la = x
  split
  · rfl
  · refine behindBuffer_ite (behindBuffer_trans ?_ (putMemLine_behind ..)) rfl
    rfl

theorem unbuffer_behind (s : State) (la : BitVec 50) : behindBuffer s (unbuffer s la) := rfl

theorem touchL2_behind (s : State) (k : Nat) : behindBuffer s (touchL2 s k) := rfl

theorem bringL2_behind (s : State) (la : BitVec 50) (own : Bool) : behindBuffer s (bringL2 s la own) := by
  unfold bringL2
  split
  · rfl
  · refine behindBuffer_ite ?_ rfl
    dsimp only
    split
    · next old _ =>
      exact behindBuffer_trans (behindBuffer_trans (behindBuffer_trans (evictL2_behind s old.la) (unbuffer_behind _ la)) (setL2Line_behind ..))
        (touchL2_behind ..)
    · exact behindBuffer_trans (behindBuffer_trans (unbuffer_behind s la) (setL2Line_behind ..)) (touchL2_behind ..)

theorem fillL2_behind (s : State) (la : BitVec 50) (own : Bool) : behindBuffer s (fillL2 s la own) :=
  behindBuffer_trans (behindBuffer_ite (dropInner_behind s la) (behindBuffer_refl s)) (bringL2_behind ..)

/-! ### Writes -/

theorem writeVellum_behind (s : State) (o : Nat) (bs : List Byte) : behindBuffer s (writeVellum s o bs) := by
  have h (t : State) : behindBuffer t (injVellum t o bs.length) := behindBuffer_ite (behindBuffer_ite rfl rfl) rfl
  refine behindBuffer_trans ?_ (h _)
  rfl

theorem writeLine_behind (s : State) (pa : Nat) (bs : List Byte) : behindBuffer s (writeLine s pa bs) := by
  unfold writeLine
  dsimp only
  refine behindBuffer_trans (behindBuffer_trans (flushL1d_behind s (lineNo pa)) (dropInner_behind _ (lineNo pa))) ?_
  generalize dropInner (flushL1d s (lineNo pa)) (lineNo pa) = x
  split
  · exact behindBuffer_trans (setL2Line_behind ..) (touchL2_behind ..)
  · rfl

theorem typedWrite_behind (s : State) (ag : Agent) (ty : MType) (pa : Nat) (bs : List Byte) : behindBuffer s (typedWrite s ag ty pa bs) := by
  have hraw (t : State) : behindBuffer t (rawWrite t pa bs) := behindBuffer_ite (writeVellum_behind ..) (writeMem_behind t pa bs)
  have hcoh (t : State) : behindBuffer t (cohWrite t pa bs) :=
    behindBuffer_foldl _ (fun _ _ => behindBuffer_ite (writeVellum_behind ..) (writeLine_behind ..)) _ _
  exact behindBuffer_ite (behindBuffer_trans (behindBuffer_foldl _ evictL2_behind _ _) (hraw _)) (behindBuffer_ite (hcoh s) (hraw s))

theorem vellumOnly.behind {s t : State} (h : vellumOnly s t) : behindBuffer s t := by
  unfold vellumOnly at h
  rw [behindBuffer, h]

theorem notePort_behind (s : State) (ag : Agent) (p : PortNum) : behindBuffer s (notePort s ag p) := rfl

theorem agentWrite_behind (s : State) (ag : Agent) (ty : MType) (pa : Nat) (bs : List Byte) : behindBuffer s (agentWrite s ag ty pa bs) := by
  have hm : behindBuffer s (if inVellum s pa = true then meetMerge s (vOff s pa) bs.length else s) :=
    behindBuffer_ite (behindBuffer_foldl _ (fun _ _ => behindBuffer_ite (postRecord_behind ..) (meetSingle_behind ..)) _ _) rfl
  have hw := behindBuffer_trans (behindBuffer_trans hm (typedWrite_behind _ ag ty pa bs)) (markDirty_vellumOnly _ pa bs.length).behind
  exact behindBuffer_ite (behindBuffer_trans hw (behindBuffer_foldl _ (fun s p => notePort_behind s ag p) _ _)) hw

theorem askGranules_behind (s : State) (gs : List Nat) : behindBuffer s (askGranules s gs) := by
  unfold askGranules
  split <;> rfl

/-! ### Translation -/

theorem setTlb_behind (s : State) (sel : TlbSel) (l : List TlbEntry) : behindBuffer s (setTlb s sel l) := by
  cases sel <;> rfl

theorem installIn_behind (s : State) (sel : TlbSel) (e : TlbEntry) (va : W64) : behindBuffer s (installIn s sel e va) := by
  cases sel <;> rfl

theorem walkCacheAdd_behind (s : State) (asid : BitVec 16) (level : Nat) (va d : W64) : behindBuffer s (walkCacheAdd s asid level va d) :=
  behindBuffer_ite rfl rfl

theorem walkRead_behind (s : State) (a : Nat) (ty : BitVec 2) : behindBuffer s (walkRead s a ty).1 := by
  have h := readCheck_behind s (ty = 0) a 8
  unfold walkRead
  split
  · next e => rwa [e] at h
  · next e =>
    rw [e] at h
    exact behindBuffer_trans h (behindBuffer_ite (fillL2_behind ..) rfl)

theorem walkFrom_behind (ak : Ak) (ring : BitVec 2) (ttb va : W64) (level table : Nat) (ty : BitVec 2) (s : State) (n : Nat) :
    behindBuffer s (walkState (walkFrom ak ring ttb va level table ty s n)) := by
  induction n generalizing level table ty s with
  | zero => rfl
  | succ n ih =>
    have hr := walkRead_behind s (descAddr table level va) ty
    unfold walkFrom
    split
    · rfl
    dsimp only
    split
    · next h => rwa [h] at hr
    · next s1 d h =>
      rw [h] at hr
      split
      · exact hr
      · exact behindBuffer_trans hr (behindBuffer_trans (walkCacheAdd_behind ..) (ih ..))
      · split
        · exact hr
        split
        · exact behindBuffer_trans hr (agentWrite_behind ..)
        · exact behindBuffer_trans hr (askGranules_behind ..)

theorem walk_behind (sel : TlbSel) (ak : Ak) (ring : BitVec 2) (ttb va : W64) (s : State) : behindBuffer s (walk sel ak ring ttb va s).state := by
  have hw (level table : Nat) (ty : BitVec 2) (n : Nat) := walkFrom_behind ak ring ttb va level table ty s n
  unfold walk
  split
  · rfl
  dsimp only
  split
  · next h => exact (congrArg (behindBuffer s ∘ walkState) h).mp (hw ..)
  · next h => exact behindBuffer_trans ((congrArg (behindBuffer s ∘ walkState) h).mp (hw ..)) (behindBuffer_trans (installIn_behind ..) rfl)

theorem translate_behind (sel : TlbSel) (ak : Ak) (ring : BitVec 2) (ttb va : W64) (s : State) :
    behindBuffer s (translate sel ak ring ttb va s).state := by
  unfold translate
  split
  · rfl
  split
  · rfl
  dsimp only
  split
  · split
    · rfl
    · exact behindBuffer_trans (setTlb_behind ..) (walk_behind ..)
  · split
    · split
      · exact installIn_behind ..
      · refine behindBuffer_trans ?_ (walk_behind ..)
        rfl
    · exact walk_behind ..

theorem xlate_behind (k : Who) (ak : Ak) (b : Bank) (va : W64) (s : State) : behindBuffer s (xlate k ak b va s).1 := by
  have h := translate_behind (tlbSel k) ak (accRing k b) b.ttb va s
  unfold xlate
  split <;> next e => rwa [e] at h

theorem xlateAll_behind (k : Who) (ak : Ak) (b : Bank) (s : State) (ps : List Piece) : behindBuffer s (xlateAll k ak b s ps).1 := by
  induction ps generalizing s with
  | nil => rfl
  | cons p ps ih =>
    have h := xlate_behind k ak b p.va s
    unfold xlateAll
    split
    · next e => rwa [e] at h
    · next s1 pa ty e =>
      rw [e] at h
      have h2 := behindBuffer_trans h (ih s1)
      split <;> next e2 => rwa [e2] at h2

theorem prepare_behind (k : Who) (ak : Ak) (b : Bank) (va : W64) (n : Nat) (ps : List Piece) (s : State) :
    behindBuffer s (prepare k ak b va n ps s).1 := by
  have h := xlateAll_behind k ak b s ps
  unfold prepare
  split
  · next e => rwa [e] at h
  · next e =>
    rw [e] at h
    split
    · exact h
    · split <;> exact h

/-! ### The lines that a load moves -/

theorem injFill_behind (s : State) (unit : Byte) (loc : Nat) : behindBuffer s (injFill s unit loc) := by
  refine behindBuffer_trans (t := if s.err.spots.isEmpty then s else clearSpot s unit loc) (behindBuffer_ite rfl rfl) (behindBuffer_ite rfl rfl)

/-- A line put into an L1D slot, which leaves the prefetch buffer. -/
theorem placeL1d_behind (s : State) (k : Nat) (x : L1DLine) (pf : List (BitVec 50)) :
    behindBuffer s (touchL1d { s with ca := { s.ca with l1d := spSet none s.ca.l1d k (some x), pf := pf } } k) := rfl

theorem fillL1d_behind (s : State) (la : BitVec 50) (set : BitVec 7) : behindBuffer s (fillL1d s la set) := by
  have hev (t : State) (k : Nat) : behindBuffer t (evictL1d t k) := by
    unfold evictL1d
    split
    · exact flushL1d_behind ..
    · rfl
  have h (k : Nat) := behindBuffer_trans (behindBuffer_trans (flushL1d_behind s la) (fillL2_behind _ la false)) (hev _ k)
  unfold fillL1d
  dsimp only
  split
  · exact h _
  · exact behindBuffer_trans (behindBuffer_trans (h _) (placeL1d_behind ..)) (injFill_behind ..)

theorem loadTouch_behind (s : State) (p : Phys) : behindBuffer s (loadTouch s p) := by
  refine behindBuffer_ite ?_ rfl
  split
  · rfl
  · refine behindBuffer_ite (fillL1d_behind ..) ?_
    split <;> rfl

/-- What a load leaves as it was where its lines are not in the prefetch buffer: everything but the use of L1D and the miss register. -/
def lookupOnly (s t : State) : Prop := t = { s with ca := { s.ca with l1dPlru := t.ca.l1dPlru, miss := t.ca.miss } }

theorem loadTouch_lookupOnly {s : State} {p : Phys} (h : s.ca.pf.contains (lineNo p.pa) = false) : lookupOnly s (loadTouch s p) := by
  unfold loadTouch
  split
  · split
    · rfl
    · rw [h, if_neg Bool.false_ne_true]
      split <;> rfl
  · rfl

theorem loadTouches_lookupOnly {s : State} {l : List Phys} (h : nothingPrefetched s l) : lookupOnly s (l.foldl loadTouch s) := by
  induction l generalizing s with
  | nil => rfl
  | cons p l ih =>
    have h1 := loadTouch_lookupOnly (h p List.mem_cons_self)
    have hpf : (loadTouch s p).ca.pf = s.ca.pf := congrArg (·.ca.pf) h1
    have h2 : lookupOnly (loadTouch s p) (l.foldl loadTouch (loadTouch s p)) := ih fun q hq => by
      rw [hpf]
      exact h q (List.mem_cons_of_mem _ hq)
    rw [List.foldl_cons]
    unfold lookupOnly at *
    rw [h2, h1]

/-- Looking lines up changes no byte that coherent agents read. -/
theorem cohByte_lookupOnly {s t : State} (h : lookupOnly s t) (pa : Nat) : cohByte t pa = cohByte s pa := by
  rw [h]
  rfl

end Sys2Proof.Machine


namespace Sys2Proof.Machine

/-! SUPPORT. Scalar loads, the atomics, the calls and returns, the fences and the invalidations of translations (R42, R45 to R47, R51, R57, R58, R60,
R61, R248, R249). -/

/-! ### Loads -/

/-- A body that comes to a result. -/
theorem exec_result {i : Instr} {body : Body} {s : State} {r : Res} (he : exec i s = issue i body s) (hr : Ready i s)
    (hb : body .core (curBank s) s = r) : exec i s = .next (settle i (curBank s) r) := by
  rw [he, issue_ready body hr, hb]

theorem instrBytes_memWord {i : Instr} {load : Bool} {r : GReg} {sz : BitVec 3} {a : SAddr} {v : W32}
    (h : encodeWords i = some (memWord load r sz a, v)) : instrBytes i = 4 := by
  have hl := load.toNat_lt
  cases a with
  | base ga imm => exact instrBytes_word h (by split <;> decide) (by simp only [at21, at16]; omega)
  | post ga | pre ga => exact instrBytes_word h (by decide) (by simp only [at21, at16, Bool.toNat_true, Bool.toNat_false]; omega)
  | idx ga gb s => exact instrBytes_word h (by decide) (by simp only [at21, at16, at11]; omega)

theorem instrBytes_moWord {i : Instr} {load : Bool} {r ga : GReg} {sz : BitVec 3} {v : W32} (h : encodeWords i = some (moWord load r ga sz, v)) :
    instrBytes i = 4 := by
  have hl := load.toNat_lt
  exact instrBytes_word h (by decide) (by simp only [at21, at16]; omega)

theorem loadPhys_free {s : State} {n : Nat} {acq : Bool} {l : List Phys} (h : loadFree s n acq l) :
    loadPhys .core n acq s l = .bytes (l.foldl loadTouch s) (readPhys .core s l) := by
  obtain ⟨hs, hw, hm, hz, hc⟩ := h
  simp [loadPhys, hs, hw, hm, hz, hc]

theorem loadBytes_free {b : Bank} {va : W64} {n al : Nat} {acq : Bool} {s s1 : State} {l : List Phys}
    (hp : prepare .core .load b va al (piecesOf va n) s = (s1, .inr l)) (hf : loadFree s1 n acq l) :
    loadBytes .core b va n al acq s = .bytes (l.foldl loadTouch s1) (readPhys .core s1 l) := by
  simp only [loadBytes, loadPieces, hp, loadPhys_free hf]

theorem loadBytes_fault {k : Who} {b : Bank} {va : W64} {n al : Nat} {acq : Bool} {s s1 : State} {e : Exc}
    (hp : prepare k .load b va al (piecesOf va n) s = (s1, .inl e)) : loadBytes k b va n al acq s = .fault s1 e := by
  simp only [loadBytes, loadPieces, hp]

/-- A translated access whose lines are moved has changed nothing before the store buffer. -/
theorem loaded_behind {k : Who} {ak : Ak} {b : Bank} {va : W64} {n : Nat} {ps : List Piece} {s s1 : State} {l : List Phys}
    (hp : prepare k ak b va n ps s = (s1, .inr l)) : behindBuffer s (l.foldl loadTouch s1) := by
  have h := prepare_behind k ak b va n ps s
  rw [hp] at h
  exact behindBuffer_trans h (behindBuffer_foldl _ loadTouch_behind _ _)

/-- The bytes that other agents read after a load that finds none of its lines prefetched. -/
theorem loaded_cohByte {s : State} {l : List Phys} (h : nothingPrefetched s l) (pa : Nat) : cohByte (l.foldl loadTouch s) pa = cohByte s pa :=
  cohByte_lookupOnly (loadTouches_lookupOnly h) pa

theorem wg_get_other {b : Bank} {r k : GReg} {x : W64} (h : k ≠ r) : (wg b r x).g[k] = b.g[k] := rg_wg_other b r k x h

theorem keepsG_trans {b b' b'' : Bank} {rs rs' : List GReg} (h1 : keepsG b b' rs) (h2 : keepsG b' b'' rs') : keepsG b b'' (rs' ++ rs) := by
  intro r hr
  rw [h2 r fun h => hr (List.mem_append_left _ h), h1 r fun h => hr (List.mem_append_right _ h)]

/-- The base register after a scalar access (R45). -/
theorem saddrUpdate_spec (b : Bank) (n : Nat) (a : SAddr) : let b' := saddrUpdate b n a
    scalarOnly b b' ∧ (∀ ga, a = .post ga → b'.g[ga] = rg b ga + BitVec.ofNat 64 n) ∧ (∀ ga, a = .pre ga → b'.g[ga] = rg b ga - BitVec.ofNat 64 n) ∧
      keepsG b b' (baseRegs a) ∧ b'.fl = b.fl := by
  cases a with
  | base | idx => exact ⟨rfl, nofun, nofun, fun _ _ => rfl, rfl⟩
  | post ga =>
    refine ⟨rfl, fun k hk => ?_, nofun, keepsG_wg _ _ _, rfl⟩
    cases hk
    exact wg_get_same _ _ _
  | pre ga =>
    refine ⟨rfl, nofun, fun k hk => ?_, keepsG_wg _ _ _, rfl⟩
    cases hk
    exact wg_get_same _ _ _

/-- What a load writes and what it leaves of its bank; rd is not its base register (R45, R46). -/
theorem loadedBank_spec (b : Bank) (n : Nat) (rd : GReg) (a : SAddr) (x pc : W64) (hok : loadBaseOk rd a = true) :
    let b' : Bank := { wg (saddrUpdate b n a) rd x with pc := pc }
    scalarOnly b b' ∧ b'.g[rd] = x ∧ (∀ ga, a = .post ga → b'.g[ga] = rg b ga + BitVec.ofNat 64 n) ∧
      (∀ ga, a = .pre ga → b'.g[ga] = rg b ga - BitVec.ofNat 64 n) ∧ keepsG b b' (rd :: baseRegs a) ∧ b'.fl = b.fl := by
  obtain ⟨hs, hpost, hpre, hk, hf⟩ := saddrUpdate_spec b n a
  refine ⟨scalarOnly_trans (scalarOnly_trans hs (scalarOnly_wg _ rd x)) (scalarOnly_pc _ pc), wg_get_same _ _ _, fun ga h => ?_, fun ga h => ?_,
    keepsG_trans hk (keepsG_wg _ rd x), hf⟩
  · have hne : ga ≠ rd := by
      rintro rfl
      simp [h, loadBaseOk] at hok
    exact (wg_get_other hne).trans (hpost ga h)
  · have hne : ga ≠ rd := by
      rintro rfl
      simp [h, loadBaseOk] at hok
    exact (wg_get_other hne).trans (hpre ga h)

theorem Ready.wf {c : Instr} {s : State} (h : Ready c s) : wellFormed c = true := h.2.2.2.2.1

theorem loadOnce_free {b : Bank} {rd : GReg} {a : SAddr} {sz : BitVec 3} {s s1 : State} {l : List Phys} (hp : prepare .core .load b
    (saddr b (sizeBytes sz) a) (sizeBytes sz) (piecesOf (saddr b (sizeBytes sz) a) (sizeBytes sz)) s = (s1, .inr l))
    (hf : loadFree s1 (sizeBytes sz) false l) :
    loadOnce .core rd a sz b s = .ok (wg (saddrUpdate b (sizeBytes sz) a) rd (loadValue sz (readPhys .core s1 l))) (l.foldl loadTouch s1) := by
  simp only [loadOnce, loadBytes_free hp hf]

theorem ldaBody_free {b : Bank} {rd ga : GReg} {sz : BitVec 3} {s s1 : State} {l : List Phys} (ha : (rg b ga).toNat % sizeBytes sz = 0)
    (hp : prepare .core .load b (rg b ga) (sizeBytes sz) (piecesOf (rg b ga) (sizeBytes sz)) s = (s1, .inr l))
    (hf : loadFree s1 (sizeBytes sz) true l) :
    ldaBody rd ga sz .core b s = .ok (wg b rd (loadValue sz (readPhys .core s1 l))) (l.foldl loadTouch s1) := by
  simp only [ldaBody, ha, ne_eq, not_true_eq_false, if_false, loadBytes_free hp hf]

/-- Settles O10: a free load moves lines behind the store buffer and writes its registers; translating changes what an access may change. -/
theorem loadsWriteTheirRegister : Obligations.LoadsWriteTheirRegister := by
  unfold Obligations.LoadsWriteTheirRegister
  refine ⟨⟨fun rd a sz s s1 l hr => ?load, fun rd ga sz s s1 l hr => ?lda, fun i va n s s1 e hr hi hp => ?fault⟩,
    fun k ak b va n ps s => (prepare_behind k ak b va n ps s).access⟩
  case load =>
    intro b n va hp hf
    have hok : loadBaseOk rd a = true := by
      have h := hr.wf
      simp only [wellFormed, Bool.and_eq_true] at h
      exact h.2
    have hb := loaded_behind hp
    have he := exec_ok (body := fun k b s => loadOnce k rd a sz b s) rfl hr (instrBytes_memWord rfl) (loadOnce_free hp hf)
    obtain ⟨hs, hrd, hpost, hpre, hk, hfl⟩ := loadedBank_spec b n rd a (loadValue sz (readPhys .core s1 l)) (b.pc + 4) hok
    exact ⟨_, _, he, hb.access, hb.sb, hs, hrd, hpost, hpre, hk, hfl, rfl, loaded_cohByte⟩
  case lda =>
    intro b n va ha hp hf
    have hb := loaded_behind hp
    have he := exec_ok (body := ldaBody rd ga sz) rfl hr (instrBytes_moWord rfl) (ldaBody_free ha hp hf)
    exact ⟨_, _, he, hb.access, hb.sb, rfl, wg_get_same _ _ _, keepsG_wg _ _ _, rfl, rfl, loaded_cohByte⟩
  case fault =>
    obtain ⟨rd, a, sz, rfl, rfl, rfl⟩ | ⟨rd, ga, sz, rfl, rfl, rfl, ha⟩ := hi
    · refine exec_result (body := fun k b s => loadOnce k rd a sz b s) (r := .exc e _ s1) rfl hr ?_
      simp only [loadOnce, loadBytes_fault hp]
    · refine exec_result (body := ldaBody rd ga sz) (r := .exc e _ s1) rfl hr ?_
      simp only [ldaBody, ha, ne_eq, not_true_eq_false, if_false, loadBytes_fault hp]

/-! ### Atomics -/

theorem instrBytes_atomWord {i : Instr} {op : Nat} {rd ga rb rc : GReg} {d a l : Bool} {v : W32}
    (h : encodeWords i = some (atomWord op rd ga rb rc d a l, v)) (ho : op < 4) : instrBytes i = 4 := by
  have hd := d.toNat_lt
  have ha := a.toNat_lt
  have hl := l.toNat_lt
  exact instrBytes_word h (by decide) (by simp only [at21, at16, at11]; omega)

/-- The low n bytes of two words that agree in them. -/
theorem toBytes_congr {w : Nat} {n : Nat} {x y : BitVec w} (h : x.toNat % 2 ^ (8 * n) = y.toNat % 2 ^ (8 * n)) : toBytes n x = toBytes n y := by
  refine List.map_congr_left fun i hi => BitVec.eq_of_toNat_eq ?_
  have hi : i < n := List.mem_range.1 hi
  rw [BitVec.toNat_ofNat, BitVec.toNat_ofNat]
  refine Nat.eq_of_testBit_eq fun j => ?_
  have hb := congrArg (·.testBit (8 * i + j)) h
  simp only [Nat.testBit_mod_two_pow, Nat.testBit_shiftRight] at hb ⊢
  by_cases hj : j < 8
  · rw [decide_eq_true (p := 8 * i + j < 8 * n) (by omega), Bool.true_and, Bool.true_and] at hb
    rw [hb]
  · simp [hj]

section
variable {b : Bank} {va : W64} {n : Nat} {acq rel : Bool} {f : Nat → Option Nat} {s s1 : State} {p : Phys}
  (hm : va.toNat % n = 0) (hp : prepare .core .atomic b va n (piecesOf va n) s = (s1, .inr [p])) (hf : atomFree s1 p n acq rel)
include hm hp hf

/-- An atomic that nothing holds and that writes. -/
theorem atomicOf_writes {x : Nat} (ha : inAlias s1 p.pa = false) (hx : f (bytesNat (atomOld s1 p n)) = some x) :
    atomicOf .core b va n acq rel f s =
      .bytes (ownWrite (atomReady .core s1 p) .core p.ty p.pa (toBytes n (BitVec.ofNat 64 x))) (atomOld s1 p n) := by
  obtain ⟨hz, hw, hc, hh⟩ := hf
  have hx' : f (bytesNat ((List.range n).map fun i => ownByte (atomReady .core s1 p) (cohRead? .core (atomReady .core s1 p) p.ty) (p.pa + i))) = some x := hx
  simp [atomicOf, hm, hp, hz, hw, hc, hh, ha, hx']
  exact ⟨rfl, rfl⟩

/-- An atomic that nothing holds and that writes nothing. -/
theorem atomicOf_keeps (ha : inAlias s1 p.pa = false) (hx : f (bytesNat (atomOld s1 p n)) = none) :
    atomicOf .core b va n acq rel f s = .bytes (atomReady .core s1 p) (atomOld s1 p n) := by
  obtain ⟨hz, hw, hc, hh⟩ := hf
  have hx' : f (bytesNat ((List.range n).map fun i => ownByte (atomReady .core s1 p) (cohRead? .core (atomReady .core s1 p) p.ty) (p.pa + i))) = none := hx
  simp [atomicOf, hm, hp, hz, hw, hc, hh, ha, hx']
  rfl

/-- An atomic that the alias refuses (R420). -/
theorem atomicOf_refused (ha : inAlias s1 p.pa = true) : atomicOf .core b va n acq rel f s = .fault (aliasRefused s1 p.pa) (aliasError p) := by
  obtain ⟨hz, hw, hc, hh⟩ := hf
  simp [atomicOf, hm, hp, hz, hw, hc, hh, ha]

end

/-- The bytes of an operand cut to the size of an atomic (R58). -/
theorem toBytes_cut (d : Bool) (x : W64) : toBytes (atomSize d) (BitVec.ofNat 64 (cut (8 * atomSize d) x)) = toBytes (atomSize d) x := by
  refine toBytes_congr ?_
  have h8 : 2 ^ (8 * atomSize d) ∣ 2 ^ 64 := Nat.pow_dvd_pow 2 (by cases d <;> decide)
  rw [BitVec.toNat_ofNat, Nat.mod_mod_of_dvd _ h8, cut, Nat.mod_mod]

/-- The bytes of a sum cut to the size of an atomic (R58). -/
theorem toBytes_sum (d : Bool) (old : Nat) (x : W64) :
    toBytes (atomSize d) (BitVec.ofNat 64 ((old + cut (8 * atomSize d) x) % 2 ^ (8 * atomSize d))) = toBytes (atomSize d) (BitVec.ofNat 64 old + x) := by
  refine toBytes_congr ?_
  have h8 : 2 ^ (8 * atomSize d) ∣ 2 ^ 64 := Nat.pow_dvd_pow 2 (by cases d <;> decide)
  rw [BitVec.toNat_ofNat, BitVec.toNat_add, BitVec.toNat_ofNat, Nat.mod_mod_of_dvd _ h8, Nat.mod_mod_of_dvd _ h8, Nat.mod_mod, Nat.add_mod old,
    cut, Nat.mod_mod, ← Nat.add_mod, Nat.add_mod (old % _), Nat.mod_mod_of_dvd _ h8, ← Nat.add_mod]

/-- What CAS leaves of its bank (R33, R58). -/
theorem casBank_spec (b : Bank) (rd : GReg) (x pc : W64) (eq : Bool) : let b' : Bank := { wfl (wg b rd x) (setBit b.fl 2 eq) with pc := pc }
    scalarOnly b b' ∧ b'.g[rd] = x ∧ keepsG b b' [rd] ∧ bit b'.fl 2 = eq ∧ (∀ i, i ≠ 2 → bit b'.fl i = bit b.fl i) ∧ b'.pc = pc := by
  refine ⟨rfl, wg_get_same _ _ _, keepsG_wg _ _ _, bit_setBit_self _ (by decide) _, fun i hi => ?_, rfl⟩
  exact (bit_setBit b.fl 2 i eq).trans (if_neg fun h => hi h.1)

/-- The write that CAS makes of the value that it finds (R58). -/
def casWrites (b : Bank) (rb rc : GReg) (n old : Nat) : Option Nat := if old = cut (8 * n) (rg b rc) then some (cut (8 * n) (rg b rb)) else none

theorem casBody_bytes {rd ga rb rc : GReg} {d a l : Bool} {b : Bank} {s t : State} {bs : List Byte}
    (h : atomicOf .core b (rg b ga) (atomSize d) a l (casWrites b rb rc (atomSize d)) s = .bytes t bs) :
    casBody rd ga rb rc d a l .core b s =
      .ok (wfl (wg b rd (ofBytes 64 bs)) (setBit b.fl 2 (decide (bytesNat bs = (rg b rc).toNat % 2 ^ (8 * atomSize d))))) t := by
  unfold casWrites at h
  simp only [casBody, h]
  rfl

theorem casBody_fault {rd ga rb rc : GReg} {d a l : Bool} {b : Bank} {s t : State} {e : Exc}
    (h : atomicOf .core b (rg b ga) (atomSize d) a l (casWrites b rb rc (atomSize d)) s = .fault t e) :
    casBody rd ga rb rc d a l .core b s = .exc e b t := by
  unfold casWrites at h
  simp only [casBody, h]

/-- The sum that an AADD writes, of the old value. -/
def aaddWrites (b : Bank) (rb : GReg) (n old : Nat) : Option Nat := some ((old + cut (8 * n) (rg b rb)) % 2 ^ (8 * n))

lemma aaddBody_bytes {rd ga rb : GReg} {d a l : Bool} {b : Bank} {s t : State} {old : List Byte}
    (h : atomicOf .core b (rg b ga) (atomSize d) a l (aaddWrites b rb (atomSize d)) s = .bytes t old) :
    aaddBody rd ga rb d a l .core b s = .ok (wg b rd (ofBytes 64 old)) t := by
  unfold aaddWrites at h
  simp only [aaddBody, h]

lemma aaddBody_fault {rd ga rb : GReg} {d a l : Bool} {b : Bank} {s t : State} {e : Exc}
    (h : atomicOf .core b (rg b ga) (atomSize d) a l (aaddWrites b rb (atomSize d)) s = .fault t e) :
    aaddBody rd ga rb d a l .core b s = .exc e b t := by
  unfold aaddWrites at h
  simp only [aaddBody, h]

/-- Settles O12: an atomic that nothing holds finds the old bytes, and what it writes is a function of them. -/
theorem atomicsReadModifyWrite : Obligations.AtomicsReadModifyWrite := by
  unfold Obligations.AtomicsReadModifyWrite
  refine ⟨fun rd ga rb rc d a l s s1 p hr => ?cas, fun rd ga rb rc d a l s s1 p hr => ?aadd, fun rd ga rb rc d a l s s1 p => ?refused⟩
  case cas =>
    intro b n va hm hp hf ha old eq
    have hbody : casBody rd ga rb rc d a l .core b s = .ok (wfl (wg b rd (ofBytes 64 old)) (setBit b.fl 2 eq))
        (if eq = true then ownWrite (atomReady .core s1 p) .core p.ty p.pa (toBytes n (rg b rb)) else atomReady .core s1 p) := by
      refine casBody_bytes ?_
      by_cases he : bytesNat old = cut (8 * n) (rg b rc)
      · have hq : eq = true := decide_eq_true he
        rw [if_pos hq, ← toBytes_cut]
        exact atomicOf_writes hm hp hf ha (if_pos he)
      · have hq : ¬ eq = true := fun h => he (of_decide_eq_true h)
        rw [if_neg hq]
        exact atomicOf_keeps hm hp hf ha (if_neg he)
    exact ⟨_, exec_ok (body := casBody rd ga rb rc d a l) rfl hr (instrBytes_atomWord rfl (by decide)) hbody, casBank_spec ..⟩
  case aadd =>
    intro b n va hm hp hf ha old
    have hbody : aaddBody rd ga rb d a l .core b s = .ok (wg b rd (ofBytes 64 old))
        (ownWrite (atomReady .core s1 p) .core p.ty p.pa (toBytes n (BitVec.ofNat 64 (bytesNat old) + rg b rb))) := by
      rw [← toBytes_sum]
      exact aaddBody_bytes (atomicOf_writes hm hp hf ha rfl)
    exact ⟨_, exec_ok (body := aaddBody rd ga rb d a l) rfl hr (instrBytes_atomWord rfl (by decide)) hbody, rfl, wg_get_same _ _ _, keepsG_wg _ _ _, rfl, rfl⟩
  case refused =>
    intro b n va hm hp hf ha
    have hc : (aliasError p).code ≠ waitCode := show (0x0E : Byte) ≠ waitCode by decide
    refine ⟨fun hr => exec_exc (body := casBody rd ga rb rc d a l) rfl hr (casBody_fault (atomicOf_refused hm hp hf ha)) hc,
      fun hr => exec_exc (body := aaddBody rd ga rb d a l) rfl hr (aaddBody_fault (atomicOf_refused hm hp hf ha)) hc⟩

end Sys2Proof.Machine


namespace Sys2Proof.Machine

/-! SUPPORT. Calls and returns, FENCE and TLBI (R51, R60, R61, R248, R249, R418, R419). -/

/-! ### Calls and returns -/

/-- A state that an access leaves has the bank that it had. -/
theorem accessOnly.setCur_curBank {s t : State} (h : accessOnly s t) : setCur t (curBank s) = t := by
  have hb : curBank s = curBank t := by
    unfold accessOnly at h
    rw [h]
    rfl
  rw [hb, Machine.setCur_curBank]

theorem stackPair_behind (k : Who) (akM akS : Ak) (b : Bank) (ms ss : W64) (s : State) : behindBuffer s (stackPair k akM akS b ms ss s).1 := by
  unfold stackPair
  split
  · exact behindBuffer_refl s
  · split
    · exact behindBuffer_refl s
    · have h1 := xlateAll_behind k akM b s [⟨ms, 0, 8⟩]
      split
      case h_1 hx => rw [hx] at h1; exact h1
      case h_2 s1 l1 hx =>
        rw [hx] at h1
        have h2 := xlateAll_behind k akS b s1 [⟨ss, 8, 8⟩]
        split <;> rename_i hy <;> rw [hy] at h2 <;> exact behindBuffer_trans h1 h2

theorem sbEntries_length (m : StoreMode) (rel : Bool) (bs : List (Option Byte)) (l : List Phys) : (sbEntries m rel bs l).length = l.length := by
  simp [sbEntries]

/-- A translated store that the buffer takes. -/
theorem storePhys_free {s : State} {l : List Phys} (m : StoreMode) (rel : Bool) (bs : List (Option Byte)) (h : storeFree s l) :
    storePhys .core m rel bs s l = .done (buffered s m rel bs l) := by
  obtain ⟨hr, hz, hl⟩ := h
  obtain ⟨hz, hp⟩ := Bool.or_eq_false_iff.1 hz
  have hp : refusedPart s l = none := Option.isNone_iff_eq_none.1 (by simpa using hp)
  simp [storePhys, hz, hp, hr, enterBuffer, sbEntries_length, hl, buffered]

theorem callTo_free {target : W64} {b : Bank} {s s1 : State} {l : List Phys}
    (hp : stackPair .core .store .shadowW b (rg b 31 - 8) (b.ssp - 8) s = (s1, .inr l)) (hf : storeFree s1 l) :
    callTo .core target b s = .jump (goto (wssp (wg b 31 (rg b 31 - 8)) (b.ssp - 8)) target)
      (buffered s1 .single false ((toBytes 8 (b.pc + 4) ++ toBytes 8 (b.pc + 4)).map some) l) := by
  simp only [callTo, hp, storePhys_free _ _ _ hf]

/-- The bank that a call leaves. -/
theorem calledTo_call (b : Bank) (target : W64) : calledTo b (goto (wssp (wg b 31 (rg b 31 - 8)) (b.ssp - 8)) target) target :=
  ⟨rfl, wg_get_same b 31 _, keepsG_wg b 31 _, rfl⟩

theorem retBody_free {b : Bank} {s s1 : State} {l : List Phys} (hp : stackPair .core .load .shadowR b (rg b 31) b.ssp s = (s1, .inr l))
    (hf : loadFree s1 8 false l) : retBody .core b s =
      let a := ofBytes 64 ((readPhys .core s1 l).take 8)
      if a ≠ ofBytes 64 ((readPhys .core s1 l).drop 8) then .exc { code := 0x0A, addr := a } b (l.foldl loadTouch s1)
      else if fieldN a 1 0 ≠ 0 then .exc { code := 0x03, addr := a } b (l.foldl loadTouch s1)
      else .jump (goto (wssp (wg b 31 (rg b 31 + 8)) (b.ssp + 8)) a) (l.foldl loadTouch s1) := by
  simp only [retBody, hp, loadPhys_free hf]

/-- Settles O18: both accesses translate behind the store buffer, a call's bytes enter it, and a return compares the two words. -/
theorem callsAndReturnsUseBothStacks : Obligations.CallsAndReturnsUseBothStacks := by
  unfold Obligations.CallsAndReturnsUseBothStacks
  refine ⟨fun off s s1 l hr => ?call, fun ra s s1 l hr => ?callr, fun s s1 l hr => ?ret⟩
  case call =>
    intro b hp hf
    refine ⟨_, exec_jump (body := callBody off) rfl hr (callTo_free hp hf), ?_⟩
    rw [relTarget_eq]
    exact calledTo_call b _
  case callr =>
    intro b ha hp hf
    refine ⟨_, exec_jump (body := callrBody ra) rfl hr ?_, calledTo_call b _⟩
    exact (if_neg (not_not.2 ha)).trans (callTo_free hp hf)
  case ret =>
    intro b bs a hp hf
    have hx := retBody_free hp hf
    have hs : accessOnly s (l.foldl loadTouch s1) := by
      have h := stackPair_behind .core .load .shadowR b (rg b 31) b.ssp s
      rw [hp] at h
      exact (behindBuffer_trans h (behindBuffer_foldl _ loadTouch_behind _ _)).access
    refine ⟨fun he ha => ?agree, fun he => ?differ, fun he ha => ?unaligned⟩
    case agree =>
      have hb := hx.trans ((if_neg (not_not.2 he)).trans (if_neg (not_not.2 ha)))
      exact ⟨_, _, exec_jump (body := retBody) rfl hr hb, hs, rfl, wg_get_same b 31 _, keepsG_wg b 31 _⟩
    case differ =>
      have he' := exec_exc (body := retBody) rfl hr (hx.trans (if_pos he)) (show (0x0A : Byte) ≠ waitCode by decide)
      rw [hs.setCur_curBank] at he'
      exact ⟨_, he', hs⟩
    case unaligned =>
      have he' := exec_exc (body := retBody) rfl hr (hx.trans ((if_neg (not_not.2 he)).trans (if_pos ha))) (show (0x03 : Byte) ≠ waitCode by decide)
      rw [hs.setCur_curBank] at he'
      exact ⟨_, he', hs⟩

/-! ### FENCE -/

theorem instrBytes_opWord {i : Instr} {major op low : Nat} {v : W32} (h : encodeWords i = some (opWord major op low, v)) (hm : major < 0x38)
    (ho : op < 64) (hl : low < 1048576) : instrBytes i = 4 :=
  instrBytes_word h hm (by omega)

/-- Whether a property of every port holds of the list of them. -/
theorem ports_any (s : State) (q : Port → Bool) : s.port.toList.any q = false ↔ ∀ p : PortNum, q s.port[p] = false := by
  rw [List.any_eq_false]
  simp only [Vector.mem_toList_iff, Vector.mem_iff_getElem, forall_exists_index, Bool.not_eq_true]
  exact ⟨fun h p => h _ p.val p.isLt rfl, fun h x i hi hx => hx ▸ h ⟨i, hi⟩⟩

theorem writesVisible_iff (s : State) (ag : Agent) : writesVisible s ag = true ↔ seenByAll ag s := by
  rw [writesVisible, Bool.not_eq_true', ports_any, seenByAll]
  refine forall_congr' fun p => ?_
  rw [Bool.or_eq_false_iff]
  refine and_congr_right fun _ => ?_
  cases s.port[p].token <;> simp

theorem storesVisible_iff (s : State) : storesVisible s = true ↔ s.ca.sb = [] ∧ s.ca.sbLast = none ∧ seenByAll .core s := by
  rw [storesVisible, Bool.and_eq_true, Bool.and_eq_true, writesVisible_iff, List.isEmpty_iff, Option.isNone_iff_eq_none, and_assoc]

/-- The classes of a FENCE are done (R60). -/
theorem fenceDone_iff (mask : BitVec 4) (s : State) : fenceDone mask s = true ↔
    (bit mask 0 = true → s.ca.sb = [] ∧ s.ca.sbLast = none ∧ seenByAll .core s) ∧
    (bit mask 1 = true → ∀ o ∈ s.ops, tileClass o = true → o.done = true ∨ o.abandoned = true) ∧
    (bit mask 2 = true → (∀ o ∈ s.ops, o.kind ≠ .smove) ∧ seenByAll .unit s) ∧
    (bit mask 3 = true → scribeWork s = false ∧ seenByAll .scribe s) ∧ (mask = 0xF → s.tlbiOut = 0) := by
  have imp (p q : Bool) : (!p || q) = true ↔ (p = true → q = true) := by cases p <;> simp
  have htile : (!s.ops.any fun o => tileClass o && !o.done && !o.abandoned) = true ↔
      ∀ o ∈ s.ops, tileClass o = true → o.done = true ∨ o.abandoned = true := by
    simp only [Bool.not_eq_true', List.any_eq_false, Bool.and_eq_true]
    refine forall₂_congr fun o _ => ?_
    cases tileClass o <;> cases o.done <;> cases o.abandoned <;> simp
  have hstream : (!(s.ops.any fun o => o.kind == .smove)) = true ↔ ∀ o ∈ s.ops, o.kind ≠ .smove := by
    simp only [Bool.not_eq_true', List.any_eq_false, beq_iff_eq, ne_eq]
  have hall : (mask != 0xF || s.tlbiOut == 0) = true ↔ (mask = 0xF → s.tlbiOut = 0) := by
    rw [Bool.or_eq_true, bne_iff_ne, beq_iff_eq]
    exact imp_iff_not_or.symm
  rw [fenceDone, Bool.and_eq_true, Bool.and_eq_true, Bool.and_eq_true, Bool.and_eq_true, and_assoc, and_assoc, and_assoc, imp, imp, imp, imp,
    storesVisible_iff, htile, Bool.and_eq_true, hstream, writesVisible_iff, Bool.and_eq_true, Bool.not_eq_true', writesVisible_iff, hall]

/-- What asking for confirmations changes: the ports. -/
def portOnly (s t : State) : Prop := t = { s with port := t.port }

theorem portOnly_trans {s t u : State} (h1 : portOnly s t) (h2 : portOnly t u) : portOnly s u := by
  unfold portOnly at *
  rw [h2, h1]

theorem portOnly_ite {s t u : State} {p : Prop} [Decidable p] (h1 : portOnly s t) (h2 : portOnly s u) : portOnly s (if p then t else u) := by
  split
  · exact h1
  · exact h2

theorem askVisible_portOnly (s : State) (ag : Agent) : portOnly s (askVisible s ag) := portOnly_ite rfl rfl

theorem awaitStores_portOnly (s : State) : portOnly s (awaitStores s) := portOnly_ite (askVisible_portOnly s .core) rfl

theorem fenceAsk_portOnly (mask : BitVec 4) (s : State) : portOnly s (fenceAsk mask s) := by
  have h1 : portOnly s (if bit mask 0 then awaitStores s else s) := portOnly_ite (awaitStores_portOnly s) rfl
  unfold fenceAsk
  generalize (if bit mask 0 then awaitStores s else s) = s1 at h1 ⊢
  have h2 : portOnly s1 (if bit mask 2 then askVisible s1 .unit else s1) := portOnly_ite (askVisible_portOnly s1 .unit) rfl
  dsimp only
  generalize (if bit mask 2 then askVisible s1 .unit else s1) = s2 at h2 ⊢
  exact portOnly_trans h1 (portOnly_trans h2 (portOnly_ite (askVisible_portOnly s2 .scribe) rfl))

/-- A FENCE that is done changes the pc, and FENCE all also drops what was fetched ahead (R61). -/
theorem fenceBody_done {mask : BitVec 4} {b : Bank} {s : State} (h : fenceDone mask s = true) :
    fenceBody mask .core b s = .ok b { s with ca := { s.ca with lineBuf := if mask = 0xF then none else s.ca.lineBuf } } := by
  rw [fenceBody, if_pos h]
  by_cases hm : mask = 0xF
  · rw [if_pos hm, if_pos hm]
  · rw [if_neg hm, if_neg hm]

/-! ### TLBI -/

theorem tlbiKeeps_filter (f : TlbiForm) (l : List TlbEntry) : tlbiKeeps f l (l.filter fun e => !tlbiLeaf f e) := by
  intro e
  rw [List.mem_filter, Bool.not_eq_true']

theorem tlbiRemove_done (f : TlbiForm) (s : State) : tlbiDone f s (tlbiRemove f s) := by
  refine ⟨tlbiKeeps_filter f _, tlbiKeeps_filter f _, tlbiKeeps_filter f _, tlbiKeeps_filter f _, fun k => ?_, fun e => ?_, rfl, rfl⟩
  · have hk : (tlbiRemove f s).ca.scrTlb[k] = s.ca.scrTlb[k].filter fun e => !tlbiLeaf f e := by simp [tlbiRemove, vmap]
    rw [hk]
    exact tlbiKeeps_filter f _
  · exact List.mem_filter.trans (and_congr_right fun _ => Bool.not_eq_true' _ ▸ Iff.rfl)

theorem asidOf_eq (x : W64) : asidOf x = x.setWidth 16 := by
  refine BitVec.eq_of_toNat_eq ?_
  rw [asidOf, BitVec.toNat_ofNat, BitVec.toNat_setWidth, fieldN]
  simp

/-- A TLBI runs the body of its form. -/
theorem exec_tlbiOf {i : Instr} {f : TlbiForm} {loc : Bool} {s : State} (h : tlbiOf (curBank s) i = some (f, loc)) :
    ∃ g, exec i s = issue i (tlbiBody g loc) s ∧ g (curBank s) = f ∧ instrBytes i = 4 := by
  have hl (loc : Bool) := loc.toNat_lt
  cases i <;> simp only [tlbiOf, reduceCtorEq, Option.some.injEq, Prod.mk.injEq] at h <;> obtain ⟨rfl, rfl⟩ := h
  case tlbiAll loc => exact ⟨_, rfl, rfl, instrBytes_opWord rfl (by decide) (by decide) (by have := hl loc; omega)⟩
  case tlbiAsid gb loc => exact ⟨_, rfl, by rw [asidOf_eq], instrBytes_opWord rfl (by decide) (by decide) (by have := hl loc; omega)⟩
  case tlbiVa ga gb loc => exact ⟨_, rfl, by rw [asidOf_eq], instrBytes_opWord rfl (by decide) (by decide) (by have := hl loc; omega)⟩
  case tlbiVaall ga loc => exact ⟨_, rfl, rfl, instrBytes_opWord rfl (by decide) (by decide) (by have := hl loc; omega)⟩

/-- A broadcast that can be sent (R413, R419). -/
theorem sendTlbi_sent {s : State} (f : TlbiForm) (ho : s.tlbiOut < 8) (hu : s.port[0].up = true) (hc : s.port[0].credits ≠ 0) :
    sendTlbi f s = some { s with tlbiOut := s.tlbiOut + 1, port := s.port.set 0 { s.port[0] with
      credits := s.port[0].credits - 1, oreq := some (oreqMsg s 0x08 (some (tlbiData f))) } } := by
  simp [sendTlbi, sendOreq, ho, hu, hc]

/-- A broadcast that has to wait: eight are outstanding, or port 0 is down or out of credits. -/
theorem sendTlbi_waits {s : State} (f : TlbiForm) (h : 8 ≤ s.tlbiOut ∨ s.port[0].up = false ∨ s.port[0].credits = 0) : sendTlbi f s = none := by
  unfold sendTlbi
  split
  · rfl
  · next ho =>
    have hp : ¬ (s.port[0].up = true ∧ s.port[0].credits ≠ 0) := by
      rintro ⟨hu, hc⟩
      rcases h with h | h | h
      · exact ho h
      · simp [hu] at h
      · exact hc h
    rw [sendOreq, if_neg hp]
    rfl

/-- TLBI in ring 0 or 1 (R248). -/
theorem tlbiBody_ring {g : Bank → TlbiForm} {loc : Bool} {b : Bank} {s : State} (h : (ringOf b).toNat ≤ 1) :
    tlbiBody g loc .core b s = if storesVisible s = false then .wait (awaitStores s)
      else if loc then .ok b (tlbiRemove (g b) s)
      else match sendTlbi (g b) s with
        | some s1 => .ok b (tlbiRemove (g b) s1)
        | none => .wait s :=
  if_neg (Nat.not_lt.2 h)

/-- Settles O15: FENCE's condition class by class; TLBI filters every translation cache. -/
theorem fencesAndInvalidations : Obligations.FencesAndInvalidations := by
  unfold Obligations.FencesAndInvalidations
  refine ⟨fun mask i s hr hi => ?fence, fun i f loc s hr hf hring => ?tlbi⟩
  case fence =>
    intro done
    have he : exec i s = issue (.fence mask) (fenceBody mask) s := by
      obtain rfl | ⟨rfl, hst⟩ := hi
      · rfl
      · exact show execFenceRetire s = _ by rw [execFenceRetire, hst]
    have hn : instrBytes (.fence mask) = 4 := by
      have hm := mask.isLt
      exact instrBytes_opWord rfl (by decide) (by decide) (by omega)
    have hrun (r : Res) (hb : fenceBody mask .core (curBank s) s = r) : exec i s = .next (settle (.fence mask) (curBank s) r) := by
      rw [he, issue_ready _ hr, hb]
    refine ⟨fun hd => ?_, fun hd => ?_⟩
    · rw [hrun _ (fenceBody_done ((fenceDone_iff mask s).2 hd)), settle_ok, hn]
      rfl
    · have hb : fenceBody mask .core (curBank s) s = .wait (fenceAsk mask s) := if_neg fun h => hd ((fenceDone_iff mask s).1 h)
      refine ⟨_, hrun _ hb, ?_⟩
      rw [settle_wait, fenceAsk_portOnly mask s]
  case tlbi =>
    obtain ⟨g, he, rfl, hn⟩ := exec_tlbiOf hf
    have hb := tlbiBody_ring (g := g) (loc := loc) (s := s) hring
    refine ⟨fun hv => ⟨fun hl => ?here, fun hl ho hu hc => ?sent, fun hl hw => ?held⟩, fun hv => ?stores⟩
    case here =>
      rw [if_neg (by simp [hv]), if_pos hl] at hb
      exact ⟨_, exec_ok he hr hn hb, tlbiRemove_done _ s, rfl⟩
    case sent =>
      rw [if_neg (by simp [hv]), if_neg (by simp [hl]), sendTlbi_sent _ ho hu hc] at hb
      exact ⟨_, exec_ok he hr hn hb, tlbiRemove_done _ _, rfl⟩
    case held =>
      rw [if_neg (by simp [hv]), if_neg (by simp [hl]), sendTlbi_waits _ hw] at hb
      exact exec_wait he hr hb
    case stores =>
      rw [if_pos hv] at hb
      refine ⟨_, exec_wait he hr hb, ?_⟩
      rw [awaitStores_portOnly s]

end Sys2Proof.Machine


namespace Sys2Proof.Machine

/-! SUPPORT. The repeat instructions (R48 to R50). -/

theorem instrBytes_repeat {i : Instr} {major low : Nat} {v : W32} (h : encodeWords i = some (word major low, v))
    (hm : major = 0x38 ∨ major = 0x39) (hl : low < 67108864) : instrBytes i = 8 := by
  simp only [instrBytes, h, twoWords_repeat hm hl, if_true]

theorem instrBytes_rep (gc : GReg) (g : Governed) : instrBytes (.rep gc g) = 8 :=
  instrBytes_repeat rfl (.inl rfl) (by simp only [at21]; omega)

theorem instrBytes_repn (n : BitVec 6) (g : Governed) : instrBytes (.repn n g) = 8 :=
  instrBytes_repeat rfl (.inr rfl) (by omega)

/-- The general registers that one element of a repeat may write: a load's destination and the base register (R45, R48). -/
def governedWrites : Governed → List GReg
  | .mu load r ga _ _ => if load then [r, ga] else [ga]
  | .vec _ _ a _ _ => vbaseRegs a
  | .other _ => []

/-- The bank of a repeat's element: the flags and the pc stay, and of the general registers all but the listed ones (R48). -/
def elementKeeps (rs : List GReg) (b b' : Bank) : Prop := b'.fl = b.fl ∧ b'.pc = b.pc ∧ keepsG b b' rs

theorem elementKeeps_saddrUpdate (b : Bank) (n : Nat) (a : SAddr) : elementKeeps (baseRegs a) b (saddrUpdate b n a) := by
  obtain ⟨hs, -, -, hk, hf⟩ := saddrUpdate_spec b n a
  refine ⟨hf, ?_, hk⟩
  cases a <;> rfl

theorem elementKeeps_vaddrUpdate (b : Bank) (n : Nat) (a : VAddr) : elementKeeps (vbaseRegs a) b (vaddrUpdate b n a) := by
  cases a with
  | base | idx => exact ⟨rfl, rfl, fun _ _ => rfl⟩
  | post ga | pre ga => exact ⟨rfl, rfl, keepsG_wg _ _ _⟩

theorem loadOnce_ok {k : Who} {rd : GReg} {a : SAddr} {sz : BitVec 3} {b b1 : Bank} {s s1 : State} (h : loadOnce k rd a sz b s = .ok b1 s1) :
    elementKeeps (rd :: baseRegs a) b b1 := by
  simp only [loadOnce] at h
  split at h <;> cases h
  obtain ⟨hf, hp, hk⟩ := elementKeeps_saddrUpdate b (sizeBytes sz) a
  exact ⟨hf, hp, keepsG_trans hk (keepsG_wg _ rd _)⟩

theorem storeOnce_ok {k : Who} {rs : GReg} {a : SAddr} {sz : BitVec 3} {b b1 : Bank} {s s1 : State} (h : storeOnce k rs a sz b s = .ok b1 s1) :
    elementKeeps (baseRegs a) b b1 := by
  simp only [storeOnce] at h
  split at h <;> cases h
  exact elementKeeps_saddrUpdate ..

theorem vloadOnce_ok {k : Who} {v : VReg} {a : VAddr} {mk : Option MReg} {w : BitVec 2} {b b1 : Bank} {s s1 : State}
    (h : vloadOnce k v a mk w b s = .ok b1 s1) : elementKeeps (vbaseRegs a) b b1 := by
  simp only [vloadOnce] at h
  split at h <;> cases h
  exact elementKeeps_vaddrUpdate ..

theorem vstoreOnce_ok {k : Who} {v : VReg} {a : VAddr} {mk : Option MReg} {w : BitVec 2} {b b1 : Bank} {s s1 : State}
    (h : vstoreOnce k v a mk w b s = .ok b1 s1) : elementKeeps (vbaseRegs a) b b1 := by
  simp only [vstoreOnce] at h
  split at h <;> cases h
  exact elementKeeps_vaddrUpdate ..

theorem governedOnce_ok {k : Who} {g : Governed} {b b1 : Bank} {s s1 : State} (h : governedOnce k g b s = .ok b1 s1) :
    elementKeeps (governedWrites g) b b1 := by
  cases g with
  | mu load r ga pre sz =>
    cases load <;> cases pre
    · exact storeOnce_ok (a := .post ga) h
    · exact storeOnce_ok (a := .pre ga) h
    · exact loadOnce_ok (a := .post ga) h
    · exact loadOnce_ok (a := .pre ga) h
  | vec load v a mk w =>
    cases load
    · exact vstoreOnce_ok h
    · exact vloadOnce_ok h
  | other w => cases h

/-- A REP's counter is none of the registers that its element writes (R48). -/
theorem counter_not_governed {gc : GReg} {v : Bool} {g : Governed} (h : governedOk (some gc) v g = true) : gc ∉ governedWrites g := by
  cases g with
  | mu load r ga pre sz =>
    simp only [governedOk, Bool.and_eq_true, bne_iff_ne, ne_eq, Option.some.injEq] at h
    obtain ⟨⟨-, hr⟩, hga⟩ := h
    cases load <;> simp [governedWrites, hr, hga]
  | vec load r a mk w =>
    cases a <;> simp [governedOk] at h
    simp [governedWrites, vbaseRegs, h]
  | other => exact List.not_mem_nil

/-- REP runs its body once the vector unit is there, if it needs it (R28). -/
theorem exec_rep_gated {gc : GReg} {g : Governed} {s : State} (hr : Ready (.rep gc g) s) (hv : governsVec g = true → domUse s dVec = .ready) :
    exec (.rep gc g) s = .next (settle (.rep gc g) (curBank s) (repBody gc g .core (curBank s) s)) := by
  refine exec_result (body := if governsVec g then vecGate (.rep gc g) (repBody gc g) else repBody gc g) rfl hr ?_
  split
  · next hg => simp only [vecGate, hv hg]
  · rfl

/-- A REP's element that completes: its counter goes down by 1, and the REP goes on or ends (R49). -/
theorem repBody_element {gc : GReg} {g : Governed} {b b1 : Bank} {s s1 : State} (hc : rg b gc ≠ 0) (hk : rg b1 gc = rg b gc)
    (he : governedOnce .core g b s = .ok b1 s1) : repBody gc g .core b s =
      if rg b gc = 1 then .ok (wg b1 gc (rg b gc - 1)) s1 else repNext .core (wg b1 gc (rg b gc - 1)) s1 := by
  have h0 : rg (wg b1 gc (rg b gc - 1)) gc = 0 ↔ rg b gc = 1 := by
    rw [show rg (wg b1 gc (rg b gc - 1)) gc = rg b gc - 1 from wg_get_same _ _ _]
    exact sub_eq_zero
  simp only [repBody, if_neg hc, repElement, he, hk, h0]

/-- The elements of a REPN that are done one after another are its loop, and none of them writes the flags (R50). -/
theorem repnLoop_done {g : Governed} {s0 s s' : State} {n : Nat} {b b' : Bank} (h : elementsDone g n b s = some (b', s')) :
    repnLoop .core g s0 n b s = .ok b' s' ∧ b'.fl = b.fl := by
  induction n generalizing b s with
  | zero => cases h; exact ⟨rfl, rfl⟩
  | succ n ih =>
    simp only [elementsDone] at h
    split at h
    · next b1 s1 he =>
      obtain ⟨hl, hf⟩ := ih h
      obtain ⟨hf1, -, -⟩ := governedOnce_ok he
      refine ⟨?_, hf.trans hf1⟩
      simp only [repnLoop, repnTry, he, hl]
    · cases h

/-- The kind of access that a REPN makes (R50). -/
def repnKind : Governed → Ak
  | .mu load _ _ _ _ => if load then .load else .store
  | _ => .load

/-- REPN runs its elements once each of their addresses has translated (R50). -/
theorem repnBody_checked {n : BitVec 6} {g : Governed} {b : Bank} {s s1 : State}
    (h : repnCheck .core (repnKind g) b (repnPieces b (n.toNat + 1) g) s = (s1, none)) :
    repnBody n g .core b s = repnLoop .core g s1 (n.toNat + 1) b s1 := by
  unfold repnBody
  dsimp only
  split
  · next he => cases h.symm.trans he
  · next he => cases h.symm.trans he; rfl

/-- Settles O14: an element leaves the counter alone, so REP takes 1 from it; a REPN's loop is its elements in a row. -/
theorem repeatsPerformTheirElements : Obligations.RepeatsPerformTheirElements := by
  unfold Obligations.RepeatsPerformTheirElements
  refine ⟨fun gc g s => ?rep, fun n g s s1 s' b' hr hc hd => ?repn⟩
  case rep =>
    intro b b4 hr hv
    refine ⟨fun h0 => ?none, fun b1 s1 h0 he => ?element, fun e bx s1 h0 he hw => ?fault⟩
    case none =>
      rw [exec_rep_gated hr hv, show repBody gc g .core b s = .ok b s from if_pos h0, settle_ok, instrBytes_rep]
      rfl
    case element =>
      obtain ⟨hf, hp, hk⟩ := governedOnce_ok he
      have hg : rg b1 gc = rg b gc := hk gc (counter_not_governed hr.wf)
      have hb := repBody_element h0 hg he
      have hx := exec_rep_gated hr hv
      refine ⟨_, rfl, wg_get_same _ _ _, hf, hp, fun h1 => ?_, fun h1 hs => ?_, fun h1 hs => ?_⟩
      · rw [hx, hb, if_pos h1, settle_ok, instrBytes_rep]
        rfl
      · refine ⟨_, by rw [hx, hb, if_neg h1, repNext, if_neg (by simp [hs]), settle_wait], rfl, ?_, rfl⟩
        exact curBank_setCur (begun s1) _
      · rw [hx, hb, if_neg h1, repNext, if_pos hs, settle_jump]
    case fault =>
      have hb : repBody gc g .core b s = .exc e b s1 := by simp only [repBody, if_neg h0, repElement, he]
      rw [exec_rep_gated hr hv, hb, settle_exc hw]
  case repn =>
    have hc : repnCheck .core (repnKind g) (curBank s) (repnPieces (curBank s) (n.toNat + 1) g) s = (s1, none) := by
      cases g with
      | mu load => cases load <;> exact hc
      | vec | other => exact hc
    obtain ⟨hl, hf⟩ := repnLoop_done (s0 := s1) hd
    refine ⟨?_, hf⟩
    rw [exec_result (body := repnBody n g) rfl hr ((repnBody_checked hc).trans hl), settle_ok, instrBytes_repn]
    rfl

end Sys2Proof.Machine


namespace Sys2Proof.Machine

/-! SUPPORT. Elements of vector values, the bytes that a list spells, and the parts of a vector access (R11, R35, R47, R464). -/

/-! ### Bits of elements -/

theorem testBit_velem {n : Nat} (w : Nat) (x : BitVec n) (j t : Nat) : (velem w x j).testBit t = (decide (t < w) && bit x (w * j + t)) := by
  rw [velem, Nat.testBit_mod_two_pow, Nat.testBit_shiftRight]
  rfl

theorem velem_lt {n : Nat} (w : Nat) (x : BitVec n) (j : Nat) : velem w x j < 2 ^ w := Nat.mod_lt _ (Nat.two_pow_pos w)

/-- A bit lies in the element that its place divided by the width names. -/
theorem mem_element_iff {w i j : Nat} (hw : 0 < w) : w * j ≤ i ∧ i < w * j + w ↔ i / w = j := by
  rw [Nat.div_eq_iff hw, Nat.mul_comm]
  omega

theorem bit_setElem (w : Nat) (hw : 0 < w) (x : VWord) (j v i : Nat) :
    bit (setElem w x j v) i = if i / w = j ∧ i < 16384 then v.testBit (i % w) else bit x i := by
  have hm : i / w = j → i - w * j = i % w := by
    rintro rfl
    have := Nat.div_add_mod i w
    omega
  have hi : (w * j ≤ i ∧ i < w * j + w - 1 + 1 ∧ i < 16384) ↔ (i / w = j ∧ i < 16384) := by
    rw [← mem_element_iff hw]
    omega
  rw [setElem, bit_setField]
  refine ite_congr (propext hi) (fun h => ?_) fun _ => rfl
  rw [hm h.1]

/-- The listed elements take their values, every other bit stays. -/
theorem bit_setElems (w : Nat) (hw : 0 < w) (f : Nat → Nat) (l : List Nat) (x : VWord) (i : Nat) :
    bit (setElems w x (l.map fun j => (j, f j))) i = if i / w ∈ l ∧ i < 16384 then (f (i / w)).testBit (i % w) else bit x i := by
  induction l generalizing x with
  | nil => simp [setElems]
  | cons j l ih =>
    rw [setElems, List.map_cons, List.foldl_cons, ← setElems, ih, bit_setElem w hw]
    by_cases hl : i / w ∈ l
    · by_cases hr : i < 16384 <;> simp [hl, hr]
    · by_cases hj : i / w = j
      · subst hj
        simp [hl]
      · simp [hl, hj]

theorem wI_pos (w : BitVec 2) : 0 < wI w := by unfold wI; positivity

/-- Elements of a register lie in it. -/
theorem element_in_register {w j i : Nat} (hw : 0 < w) (hj : j < 16384 / w) (hi : i / w = j) : i < 16384 := by
  have h1 : i < w * j + w := ((mem_element_iff hw).2 hi).2
  have h2 : w * (j + 1) ≤ w * (16384 / w) := Nat.mul_le_mul_left w hj
  have h3 := Nat.mul_div_le 16384 w
  rw [Nat.mul_succ] at h2
  omega

/-- The elements that an instruction acts on, as a list. -/
theorem elementsAre_setElems {w : Nat} (hw : 0 < w) {act : Nat → Prop} {l : List Nat} (hl : ∀ j, j ∈ l ↔ act j) (ha : ∀ j, act j → j < 16384 / w)
    (f : Nat → Nat) (x : VWord) : elementsAre w x (setElems w x (l.map fun j => (j, f j))) act f := by
  refine ⟨fun j hj => Nat.eq_of_testBit_eq fun t => ?_, fun i hi => ?_⟩
  · rw [testBit_velem, bit_setElems w hw, Nat.testBit_mod_two_pow]
    by_cases ht : t < w
    · have hd : (w * j + t) / w = j := (mem_element_iff hw).1 ⟨by omega, by omega⟩
      have hm : (w * j + t) % w = t := by rw [Nat.mul_add_mod, Nat.mod_eq_of_lt ht]
      rw [hd, hm, if_pos ⟨(hl j).2 hj, element_in_register hw (ha j hj) hd⟩]
    · simp [ht]
  · rw [bit_setElems w hw, if_neg]
    exact fun h => hi _ ((hl _).1 h.1) ((mem_element_iff hw).2 rfl)

theorem mem_activeList (b : Bank) (mk : Option MReg) (w j : Nat) :
    j ∈ activeList b mk (min (fieldN b.vl 11 0) (16384 / w)) ↔ elementActs b mk w j := by
  have hg : governed b mk j = true ↔ ∀ m, mk = some m → bit b.m[m] j = true := by
    cases mk <;> simp [governed]
  rw [activeList, List.mem_filter, List.mem_range, hg, elementActs, Nat.lt_min, and_assoc]

/-! ### Bytes -/

theorem testBit_bytesNat (bs : List Byte) (i : Nat) : (bytesNat bs).testBit i = ((bs[i / 8]?).map fun x => x.getLsbD (i % 8)).getD false := by
  induction bs generalizing i with
  | nil => simp [bytesNat]
  | cons x bs ih =>
    rw [bytesNat, Nat.mul_comm, show (256 : Nat) = 2 ^ 8 by rfl, Nat.add_comm, Nat.mul_comm, Nat.testBit_two_pow_mul_add _ x.isLt]
    split
    · next h => simp [Nat.div_eq_of_lt h, Nat.mod_eq_of_lt h]; rfl
    · next h =>
      rw [ih, show i / 8 = (i - 8) / 8 + 1 by omega, show i % 8 = (i - 8) % 8 by omega]
      rfl

/-- Pairs with distinct keys, each written in its turn: a key reads its value. -/
theorem spGet_written {α : Type} [DecidableEq α] {d : α} {L : List (Nat × α)} (hn : (L.map Prod.fst).Nodup) {m : Sparse α} (hm : spWf d m = true) :
    (∀ k, k ∉ L.map Prod.fst → spGet d (L.foldl (fun m x => spSet d m x.1 x.2) m) k = spGet d m k) ∧
      ∀ p ∈ L, spGet d (L.foldl (fun m x => spSet d m x.1 x.2) m) p.1 = p.2 := by
  induction L generalizing m with
  | nil => exact ⟨fun _ _ => rfl, nofun⟩
  | cons q L ih =>
    rw [List.map_cons, List.nodup_cons] at hn
    obtain ⟨hq, hn⟩ := hn
    obtain ⟨hout, hin⟩ := ih hn (m := spSet d m q.1 q.2) (spSet_wf hm)
    refine ⟨fun k hk => ?_, fun p hp => ?_⟩
    · rw [List.map_cons, List.mem_cons, not_or] at hk
      exact (hout k hk.2).trans (spGet_set_other hm hk.1)
    · obtain rfl | hp := List.mem_cons.1 hp
      · exact (hout p.1 hq).trans (spGet_set_same hm)
      · exact hin p hp

end Sys2Proof.Machine


namespace Sys2Proof.Machine

/-! SUPPORT. The parts of a vector access lie apart, and a load puts each byte into its place (R35, R47, R464). -/

/-- One part of an access ends before another begins. -/
def Piece.before (p q : Piece) : Prop := p.off + p.len ≤ q.off

theorem lineParts_apart (a n fuel : Nat) : (lineParts a n fuel).Pairwise fun p q => p.2.1 + p.2.2 ≤ q.2.1 := by
  induction fuel generalizing a n with
  | zero => exact .nil
  | succ fuel ih =>
    rw [lineParts]
    split
    · exact .nil
    · refine List.pairwise_cons.2 ⟨fun q hq => ?_, List.pairwise_map.2 ((ih _ _).imp fun {p q} h => ?_)⟩
      · obtain ⟨r, -, rfl⟩ := List.mem_map.1 hq
        dsimp only
        omega
      · show p.2.1 + min n (64 - a % 64) + p.2.2 ≤ q.2.1 + min n (64 - a % 64)
        omega

theorem piecesOf_apart (va : W64) (n : Nat) : (piecesOf va n).Pairwise Piece.before :=
  List.pairwise_map.2 ((lineParts_apart _ _ _).imp id)

/-- The span of the active bytes of a part. -/
def activeSpan (eb : Nat) (act : List Nat) (p : Piece) : Option Piece :=
  let bytes := (List.range p.len).filter fun i => act.contains ((p.off + i) / eb)
  match bytes.head?, bytes.getLast? with
  | some lo, some hi => some ⟨p.va + BitVec.ofNat 64 lo, p.off + lo, hi + 1 - lo⟩
  | _, _ => none

theorem activePieces_eq (va : W64) (n eb : Nat) (act : List Nat) : activePieces va n eb act = (piecesOf va n).filterMap (activeSpan eb act) := rfl

/-- A span lies in its part. -/
theorem activeSpan_within {eb : Nat} {act : List Nat} {p q : Piece} (h : activeSpan eb act p = some q) :
    p.off ≤ q.off ∧ q.off + q.len ≤ p.off + p.len := by
  simp only [activeSpan] at h
  split at h
  · next lo hi hlo hhi =>
    have h1 := List.mem_range.1 (List.mem_of_mem_filter (List.mem_of_head? hlo))
    have h2 := List.mem_range.1 (List.mem_of_mem_filter (List.mem_of_getLast? hhi))
    cases h
    dsimp only
    omega
  · cases h

theorem activePieces_apart (va : W64) (n eb : Nat) (act : List Nat) : (activePieces va n eb act).Pairwise Piece.before := by
  rw [activePieces_eq]
  refine (piecesOf_apart va n).filterMap _ fun p p' h q hq q' hq' => ?_
  obtain ⟨-, h1⟩ := activeSpan_within hq
  obtain ⟨h2, -⟩ := activeSpan_within hq'
  unfold Piece.before at *
  omega

/-- The places of the bytes of parts that lie apart are distinct. -/
theorem places_nodup {ps : List Piece} (h : ps.Pairwise Piece.before) : (ps.flatMap fun p => (List.range p.len).map (p.off + ·)).Nodup := by
  refine List.nodup_flatMap.2 ⟨fun p _ => List.nodup_range.map fun _ _ => Nat.add_left_cancel, h.imp fun {p q} hpq => ?_⟩
  refine List.disjoint_left.2 fun x hx hy => ?_
  obtain ⟨i, hi, rfl⟩ := List.mem_map.1 hx
  obtain ⟨j, hj, he⟩ := List.mem_map.1 hy
  have hi := List.mem_range.1 hi
  unfold Piece.before at hpq
  omega

/-- A translated part without its address in memory. -/
def Phys.piece (p : Phys) : Piece := ⟨p.va, p.off, p.len⟩

/-- Translating keeps the parts. -/
theorem xlateAll_pieces {k : Who} {ak : Ak} {b : Bank} {s s1 : State} {ps : List Piece} {l : List Phys} (h : xlateAll k ak b s ps = (s1, .inr l)) :
    l.map Phys.piece = ps := by
  induction ps generalizing s l with
  | nil => cases h; rfl
  | cons p ps ih =>
    rw [xlateAll] at h
    split at h
    · cases h
    · split at h
      · cases h
      · next hx =>
        cases h
        rw [List.map_cons, ih hx]
        rfl

theorem prepare_pieces {ak : Ak} {b : Bank} {va : W64} {n : Nat} {s s1 : State} {ps : List Piece} {l : List Phys}
    (h : prepare .core ak b va n ps s = (s1, .inr l)) : l.map Phys.piece = ps := by
  rw [prepare] at h
  split at h
  · cases h
  · next hx =>
    simp only [typeRefused] at h
    split at h
    · cases h
    · cases h
      exact xlateAll_pieces hx

/-- The bytes that a load finds, each with its place in the access. -/
def readPlaces (s : State) (l : List Phys) : List (Nat × Byte) :=
  l.flatMap fun p => (List.range p.len).map fun i => (p.off + i, readByteOf .core s p.ty (p.pa + i))

theorem readPlaces_keys (s : State) (l : List Phys) :
    (readPlaces s l).map Prod.fst = (l.map Phys.piece).flatMap fun p => (List.range p.len).map (p.off + ·) := by
  simp only [readPlaces, List.map_flatMap, List.flatMap_map, List.map_map]
  rfl

theorem readPlaces_values (s : State) (l : List Phys) : (readPlaces s l).map Prod.snd = readPhys .core s l := by
  simp only [readPlaces, readPhys, List.map_flatMap, List.map_map]
  rfl

/-- The image of an access: each byte at its place. -/
def loadImage (s : State) (l : List Phys) : Sparse Byte := (readPlaces s l).foldl (fun m x => spSet 0 m x.1 x.2) []

theorem loadImage_byte {s : State} {l : List Phys} (h : (l.map Phys.piece).Pairwise Piece.before) {p : Phys} (hp : p ∈ l) {k : Nat} (hk : k < p.len) :
    spGet 0 (loadImage s l) (p.off + k) = readByteOf .core s p.ty (p.pa + k) := by
  have hn : ((readPlaces s l).map Prod.fst).Nodup := by
    rw [readPlaces_keys]
    exact places_nodup h
  have hm : (p.off + k, readByteOf .core s p.ty (p.pa + k)) ∈ readPlaces s l :=
    List.mem_flatMap.2 ⟨p, hp, List.mem_map.2 ⟨k, List.mem_range.2 hk, rfl⟩⟩
  exact (spGet_written hn (m := []) rfl).2 _ hm

/-- The value of element j in an image. -/
def imageElement (img : Sparse Byte) (w j : Nat) : Nat := bytesNat (spGetAll 0 img (j * (w / 8)) (w / 8))

theorem testBit_imageElement (img : Sparse Byte) {w j t : Nat} (ht : t / 8 < w / 8) :
    (imageElement img w j).testBit t = (spGet 0 img (j * (w / 8) + t / 8)).getLsbD (t % 8) := by
  rw [imageElement, testBit_bytesNat, spGetAll, List.getElem?_map, List.getElem?_range ht]
  rfl

/-- The register that a vector load writes (R35, R464). -/
def loadedVector (b : Bank) (v : VReg) (mk : Option MReg) (w : Nat) (s : State) (l : List Phys) : VWord :=
  setElems w b.v[v] ((activeList b mk (min (fieldN b.vl 11 0) (16384 / w))).map fun j => (j, imageElement (loadImage s l) w j))

theorem vloadOnce_free {v : VReg} {a : VAddr} {mk : Option MReg} {wc : BitVec 2} {b : Bank} {s s1 : State} {l : List Phys}
    (na n : Nat) (hna : na = min (fieldN b.vl 11 0) (16384 / wI wc)) (hn : n = na * wI wc / 8)
    (hp : prepare .core .load b (vaddr b n a) (wI wc / 8) (activePieces (vaddr b n a) n (wI wc / 8) (activeList b mk na)) s = (s1, .inr l))
    (hf : loadFree s1 n false l) :
    vloadOnce .core v a mk wc b s = .ok (wv (vaddrUpdate b n a) v (loadedVector b v mk (wI wc) s1 l)) (l.foldl loadTouch s1) := by
  have hl : loadPieces .core b (vaddr b n a) n (wI wc / 8) false (activePieces (vaddr b n a) n (wI wc / 8) (activeList b mk na)) s =
      .bytes (l.foldl loadTouch s1) (readPhys .core s1 l) := by
    simp only [loadPieces, hp, loadPhys_free hf]
  have hz : ((activePieces (vaddr b n a) n (wI wc / 8) (activeList b mk na)).flatMap fun p => (List.range p.len).map (p.off + ·)).zip (readPhys .core s1 l) =
      readPlaces s1 l := by
    rw [← prepare_pieces hp, ← readPlaces_keys s1 l, ← readPlaces_values, List.zip_map']
    exact List.map_id _
  subst hn hna
  have hw : wBits false wc = wI wc := rfl
  simp only [vloadOnce, hw, active, vlOf, elems, vlen, hl, hz]
  rfl

end Sys2Proof.Machine


namespace Sys2Proof.Machine

/-! SUPPORT. Vector loads and stores, element moves and mask instructions (R35, R208, R225, R464, R465). -/

theorem wI_eq (wc : BitVec 2) : wI wc = 8 * (wI wc / 8) := by
  unfold wI
  omega

/-- Every bit outside the elements acted on stays in a load's register. -/
theorem loadedVector_keeps {b : Bank} {v : VReg} {mk : Option MReg} {wc : BitVec 2} {s : State} {l : List Phys} {i j : Nat}
    (h : ¬ elementActs b mk (wI wc) j) (hi : i / wI wc = j) : bit (loadedVector b v mk (wI wc) s l) i = bit b.v[v] i := by
  rw [loadedVector, bit_setElems _ (wI_pos wc), if_neg]
  rintro ⟨hm, -⟩
  rw [hi] at hm
  exact h ((mem_activeList b mk _ j).1 hm)

/-- A byte of an element acted on is the byte that was found. -/
theorem loadedVector_byte {b : Bank} {v : VReg} {mk : Option MReg} {wc : BitVec 2} {s : State} {l : List Phys}
    (h : (l.map Phys.piece).Pairwise Piece.before) {p : Phys} (hp : p ∈ l) {k : Nat} (hk : k < p.len)
    (ha : elementActs b mk (wI wc) ((p.off + k) / (wI wc / 8))) :
    velem 8 (loadedVector b v mk (wI wc) s l) (p.off + k) = (readByteOf .core s p.ty (p.pa + k)).toNat := by
  refine Nat.eq_of_testBit_eq fun t => ?_
  rw [testBit_velem]
  by_cases ht : t < 8
  · have he : 0 < wI wc / 8 := by
      have := wI_pos wc
      have := wI_eq wc
      omega
    have hd : (8 * (p.off + k) + t) / wI wc = (p.off + k) / (wI wc / 8) := by
      rw [wI_eq wc, ← Nat.div_div_eq_div_mul, show (8 * (p.off + k) + t) / 8 = p.off + k by omega, Nat.mul_div_cancel_left _ (by decide)]
    have hm : (8 * (p.off + k) + t) % wI wc = 8 * ((p.off + k) % (wI wc / 8)) + t := by
      have h1 := Nat.div_add_mod (8 * (p.off + k) + t) (wI wc)
      have h2 := Nat.div_add_mod (p.off + k) (wI wc / 8)
      rw [hd] at h1
      have h3 : wI wc * ((p.off + k) / (wI wc / 8)) = 8 * (wI wc / 8 * ((p.off + k) / (wI wc / 8))) := by
        rw [← Nat.mul_assoc, ← wI_eq wc]
      omega
    have hlt := Nat.mod_lt (p.off + k) he
    have hq : (8 * ((p.off + k) % (wI wc / 8)) + t) / 8 = (p.off + k) % (wI wc / 8) := by omega
    have hr : (8 * ((p.off + k) % (wI wc / 8)) + t) % 8 = t := by omega
    rw [loadedVector, bit_setElems _ (wI_pos wc), hd, hm, if_pos ⟨(mem_activeList b mk _ _).2 ha, element_in_register (wI_pos wc) ha.2.1 hd⟩,
      testBit_imageElement _ (by rw [hq]; exact hlt), hq, hr, Nat.mul_comm, Nat.div_add_mod, loadImage_byte h hp hk]
    simp [ht]
    rfl
  · have h8 : (readByteOf .core s p.ty (p.pa + k)).toNat < 2 ^ t := (BitVec.isLt _).trans_le (Nat.pow_le_pow_right (by decide) (by omega))
    simp [ht, Nat.testBit_lt_two_pow h8]

/-! ### The encodings -/

theorem instrBytes_vmemWord {i : Instr} {load : Bool} {v : VReg} {mk : Option MReg} {wc : BitVec 2} {a : VAddr} {x : W32}
    (h : encodeWords i = some (vmemWord load v mk wc a, x)) : instrBytes i = 4 := by
  have hl := load.toNat_lt
  have hw := wc.isLt
  have hm : maskField mk ≤ 1920 := by cases mk <;> simp only [maskField] <;> omega
  cases a with
  | base ga imm => exact instrBytes_word h (by decide) (by simp only [at21, at16]; omega)
  | post ga | pre ga => exact instrBytes_word h (by decide) (by simp only [at21, at16]; omega)
  | idx ga gb s => exact instrBytes_word h (by decide) (by simp only [at21, at16, at11]; omega)

theorem instrBytes_rowWord {i : Instr} {func v g t gb : Nat} {wc : BitVec 2} {x : W32} (h : encodeWords i = some (rowWord func v g t gb wc, x))
    (hf : func < 32) (hv : v < 32) (hg : g < 32) (ht : t < 16) (hb : gb < 32) : instrBytes i = 4 :=
  instrBytes_word h (by decide) (by omega)

theorem instrBytes_maskWord {i : Instr} {func rd ma mb : Nat} {x : W32} (h : encodeWords i = some (Sys2Proof.maskWord func rd ma mb, x))
    (hf : func < 32768) (hd : rd < 32) (ha : ma < 8) (hb : mb < 8) : instrBytes i = 4 :=
  instrBytes_word h (by decide) (by omega)

/-! ### The vector unit's instructions -/

/-- An instruction of the vector unit comes to the result of its body. -/
theorem exec_vec {i : Instr} {body : Body} {s : State} {r : Res} (he : exec i s = issue i (vecGate i body) s) (hr : VecReady i s)
    (hb : body .core (curBank s) s = r) : exec i s = .next (settle i (curBank s) r) :=
  exec_result he hr.1 (by simp only [vecGate, hr.2, hb])

theorem exec_vec_ok {i : Instr} {body : Body} {s s' : State} {b' : Bank} (he : exec i s = issue i (vecGate i body) s) (hr : VecReady i s)
    (hn : instrBytes i = 4) (hb : body .core (curBank s) s = .ok b' s') : exec i s = .next (after s' { b' with pc := (curBank s).pc + 4 }) := by
  rw [exec_vec he hr hb, settle_ok, hn]
  rfl

/-- The base register after a vector access (R45). -/
theorem vaddrUpdate_spec (b : Bank) (n : Nat) (a : VAddr) : let b' : Bank := { vaddrUpdate b n a with pc := b.pc + 4 }
    scalarOnly b b' ∧ vecBaseDone n a b b' ∧ b'.fl = b.fl := by
  cases a with
  | base | idx => exact ⟨rfl, ⟨nofun, nofun, fun _ _ => rfl, rfl⟩, rfl⟩
  | post ga =>
    refine ⟨rfl, ⟨fun k hk => ?_, nofun, keepsG_wg _ _ _, rfl⟩, rfl⟩
    cases hk
    exact wg_get_same _ _ _
  | pre ga =>
    refine ⟨rfl, ⟨nofun, fun k hk => ?_, keepsG_wg _ _ _, rfl⟩, rfl⟩
    cases hk
    exact wg_get_same _ _ _

@[simp] theorem wv_get_same (b : Bank) (r : VReg) (x : VWord) : (wv b r x).v[r] = x := by simp [wv]

theorem keepsV_wv (b : Bank) (r : VReg) (x : VWord) : keepsV b (wv b r x) [r] := by
  intro k hk
  have h : r.val ≠ k.val := fun e => hk (List.mem_singleton.2 (Fin.ext e.symm))
  simp [wv, h]

/-- The bytes of a vector store, with holes where it writes none. -/
theorem storedBytes_eq (b : Bank) (v : VReg) (act : List Nat) (n eb : Nat) :
    ((List.range n).map fun i => if act.contains (i / eb) then some (BitVec.ofNat 8 (velem 8 b.v[v] i)) else none) =
      (List.range n).map fun i => if i / eb ∈ act then some (BitVec.ofNat 8 (velem 8 b.v[v] i)) else none := by
  simp only [List.contains_iff_mem]

/-- The result of an instruction that stores, from that of its store: the bank with its base register updated, or as it was. -/
def storeResult (b b' : Bank) : StoreOut → Res
  | .done s => .ok b' s
  | .fault s e => .exc e b s
  | .wait s => .wait s

/-- A vector store ends as the store of its pieces does (R464). -/
theorem vstoreOnce_eq (v : VReg) (a : VAddr) (mk : Option MReg) (wc : BitVec 2) (b : Bank) (s : State) (na n : Nat)
    (hna : na = min (fieldN b.vl 11 0) (16384 / wI wc)) (hn : n = na * wI wc / 8) {r : StoreOut}
    (h : storePieces .core b (vaddr b n a) (wI wc / 8) true false
      ((List.range n).map fun i => if i / (wI wc / 8) ∈ activeList b mk na then some (BitVec.ofNat 8 (velem 8 b.v[v] i)) else none)
      (activePieces (vaddr b n a) n (wI wc / 8) (activeList b mk na)) s = r) :
    vstoreOnce .core v a mk wc b s = storeResult b (vaddrUpdate b n a) r := by
  rw [← storedBytes_eq] at h
  subst hn hna
  have hw : wBits false wc = wI wc := rfl
  simp only [vstoreOnce, hw, active, vlOf, elems, vlen, h]
  cases r <;> rfl

/-- The pieces of a vector store that has not yet entered the buffer are translated first. -/
theorem storePieces_translated {b : Bank} {va : W64} {al : Nat} {bs : List (Option Byte)} {ps : List Piece} {s s1 : State} {l : List Phys}
    (hl : s.ca.sbLast = none) (hp : prepare .core .store b va al ps s = (s1, .inr l)) :
    storePieces .core b va al true false bs ps s = storePhys .core .vector false bs s1 l := by
  simp [storePieces, hl, hp]

theorem storePieces_fault {b : Bank} {va : W64} {al : Nat} {bs : List (Option Byte)} {ps : List Piece} {s s1 : State} {e : Exc}
    (hl : s.ca.sbLast = none) (hp : prepare .core .store b va al ps s = (s1, .inl e)) :
    storePieces .core b va al true false bs ps s = .fault s1 e := by
  simp [storePieces, hl, hp]

/-- Outside ruled mode nothing holds a store: it enters the buffer or waits for room. -/
theorem storePhys_enters {s : State} {l : List Phys} (m : StoreMode) (rel : Bool) (bs : List (Option Byte)) (hr : s.c.ruledAct = false)
    (hz : (zeroingWaits s l || (refusedPart s l).isSome) = false) :
    storePhys .core m rel bs s l = enterBuffer m (sbEntries m rel bs l) s := by
  obtain ⟨hz, hp⟩ := Bool.or_eq_false_iff.1 hz
  have hp : refusedPart s l = none := Option.isNone_iff_eq_none.1 (by simpa using hp)
  simp [storePhys, hz, hp, hr]

/-- In ruled mode a store is performed (R208). -/
theorem storePhys_performed {s : State} {l : List Phys} (m : StoreMode) (rel : Bool) (bs : List (Option Byte)) (h : storeRuled s l) :
    storePhys .core m rel bs s l = .done (performed s bs l) := by
  obtain ⟨hr, hz, hh⟩ := h
  obtain ⟨hz, hp⟩ := Bool.or_eq_false_iff.1 hz
  have hp : refusedPart s l = none := Option.isNone_iff_eq_none.1 (by simpa using hp)
  simp [storePhys, hz, hp, hr, hh, performed, agentOf]

/-- Of 33 lines the last waits until the first has drained (R225). -/
theorem enterBuffer_waits {s : State} {es : List SbEntry} (hs : s.ca.sb = []) (hl : es.length = 33) :
    enterBuffer .vector es s = .wait { s with ca := { s.ca with sb := es.take 32, sbLast := es.getLast? } } := by
  simp [enterBuffer, hs, hl]

/-- A vector register that an instruction reads has nothing on its way to it, so a write of it leaves the others' results on their way (R203). -/
theorem vregsOnly_wv {c : Instr} {s : State} (hr : Ready c s) {v : VReg} (hv : LongDst.v v ∈ reads c) (x : VWord) (pc : W64) :
    vregsOnly (curBank s) { wv (curBank s) v x with pc := pc } := by
  obtain ⟨-, -, -, -, -, hp⟩ := hr
  have hn : isPendingSrc (curBank s) (.v v) = false := by
    rw [srcPending, List.any_eq_false] at hp
    exact Bool.not_eq_true _ ▸ hp _ hv
  have hl : (wv (curBank s) v x).longs = (curBank s).longs := by
    refine List.filter_eq_self.2 fun l hl => ?_
    have h := List.any_eq_false.1 hn l hl
    cases l with
    | g => rfl
    | v k y => simpa using h
  rw [vregsOnly, ← hl]
  rfl

/-- What a vector load leaves of its bank (R45, R464). -/
theorem vloadBank_spec (b : Bank) (n : Nat) (a : VAddr) (v : VReg) (x : VWord) : let b' : Bank := { wv (vaddrUpdate b n a) v x with pc := b.pc + 4 }
    vecBaseDone n a b b' ∧ keepsV b b' [v] ∧ b' = { b with g := b'.g, v := b'.v, pc := b'.pc, dirty := b'.dirty, longs := b'.longs } ∧
      b'.v[v] = x := by
  obtain ⟨-, ⟨hpost, hpre, hk, -⟩, -⟩ := vaddrUpdate_spec b n a
  have hv : (vaddrUpdate b n a).v = b.v := by cases a <;> rfl
  refine ⟨⟨hpost, hpre, hk, rfl⟩, fun r hr => (keepsV_wv (vaddrUpdate b n a) v x r hr).trans (by rw [hv]), ?_, wv_get_same _ v x⟩
  cases a <;> rfl

/-- The instruction of a vector access with its body's result. -/
theorem exec_vload {v : VReg} {a : VAddr} {mk : Option MReg} {wc : BitVec 2} {s : State} {r : Res} (hr : VecReady (.vload v a mk wc) s)
    (hb : vloadOnce .core v a mk wc (curBank s) s = r) : exec (.vload v a mk wc) s = .next (settle (.vload v a mk wc) (curBank s) r) :=
  exec_vec (body := fun k b s => vloadOnce k v a mk wc b s) rfl hr hb

theorem exec_vstore {v : VReg} {a : VAddr} {mk : Option MReg} {wc : BitVec 2} {s : State} {r : Res} (hr : VecReady (.vstore v a mk wc) s)
    (hb : vstoreOnce .core v a mk wc (curBank s) s = r) : exec (.vstore v a mk wc) s = .next (settle (.vstore v a mk wc) (curBank s) r) :=
  exec_vec (body := fun k b s => vstoreOnce k v a mk wc b s) rfl hr hb

/-- A vector store that is done retires with its base register updated. -/
theorem vstore_retires {v : VReg} {a : VAddr} {mk : Option MReg} {wc : BitVec 2} {s s' : State} (n : Nat) (hr : VecReady (.vstore v a mk wc) s)
    (hb : vstoreOnce .core v a mk wc (curBank s) s = .ok (vaddrUpdate (curBank s) n a) s') :
    ∃ b', exec (.vstore v a mk wc) s = .next (after s' b') ∧ scalarOnly (curBank s) b' ∧ vecBaseDone n a (curBank s) b' ∧ b'.fl = (curBank s).fl := by
  refine ⟨_, ?_, vaddrUpdate_spec (curBank s) n a⟩
  rw [exec_vstore hr hb, settle_ok, instrBytes_vmemWord rfl]
  rfl

/-- The five mask operations: the instruction, its destination and what it computes (R465). -/
theorem exec_maskOp {i : Instr} {md : MReg} {f : Bank → MWord} {s : State} (he : exec i s = issue i (vecGate i (maskBody md f)) s) (hr : VecReady i s)
    (hn : instrBytes i = 4) :
    exec i s = .next (after s { curBank s with
      m := (curBank s).m.set md.val (f (curBank s)) md.isLt, pc := (curBank s).pc + 4, dirty := setBit (curBank s).dirty 40 true }) := by
  have hc : maskCut .core (f (curBank s)) = f (curBank s) := by
    rw [maskCut, mlen, Nat.mod_eq_of_lt (BitVec.isLt _), BitVec.ofNat_toNat, BitVec.setWidth_eq]
  exact exec_vec_ok he hr hn (show maskBody md f .core (curBank s) s = .ok (wm (curBank s) md (f (curBank s))) s by rw [maskBody, hc])

/-- Only the low bits of an element's value count. -/
theorem elementsAre_mod {w : Nat} {x x' : VWord} {act : Nat → Prop} {f : Nat → Nat} :
    elementsAre w x x' act (fun j => f j % 2 ^ w) ↔ elementsAre w x x' act f := by
  simp only [elementsAre, Nat.mod_mod]

theorem elements_pos {wc : BitVec 2} : 0 < 16384 / wI wc := by
  have h : wc.toNat ≤ 3 := by omega
  have h2 : 2 ^ wc.toNat ≤ 2 ^ 3 := Nat.pow_le_pow_right (by decide) h
  refine Nat.div_pos ?_ (wI_pos wc)
  unfold wI
  omega

/-- Settles O46: the elements acted on are a list of distinct elements of the register; a load's bytes have distinct places. -/
theorem vectorMovesMasksAndMemory : Obligations.VectorMovesMasksAndMemory := by
  unfold Obligations.VectorMovesMasksAndMemory
  refine ⟨fun v a mk wc s s1 l hr => ?load, fun i ak v a mk wc s s1 e hr hl hi => ?fault, fun v a mk wc s s1 l hr => ?store,
    fun v a mk wc s e hr hl => ?rest, fun s => ?moves⟩
  case load =>
    intro b na n va ps hp hf
    have hb := loaded_behind hp
    have hx : vloadOnce .core v a mk wc b s = _ := vloadOnce_free na n rfl rfl hp hf
    have ha : (l.map Phys.piece).Pairwise Piece.before := by
      rw [prepare_pieces hp]
      exact activePieces_apart va n (wI wc / 8) (activeList b mk na)
    obtain ⟨hbase, hkeep, hbank, hv⟩ := vloadBank_spec b n a v (loadedVector b v mk (wI wc) s1 l)
    refine ⟨_, _, ?_, hb.access, hb.sb, hbase, hkeep, hbank, fun j hj i h1 h2 => ?_, fun p k hm hk he => ?_⟩
    · rw [exec_vload hr hx, settle_ok, instrBytes_vmemWord rfl]
      rfl
    · rw [hv]
      exact loadedVector_keeps hj ((mem_element_iff (wI_pos wc)).1 ⟨h1, h2⟩)
    · rw [hv]
      exact loadedVector_byte ha hm hk he
  case fault =>
    intro b na n va hp
    obtain ⟨rfl, rfl⟩ | ⟨rfl, rfl⟩ := hi
    · have hx : vloadOnce .core v a mk wc b s = .exc e b s1 := by
        have hl : loadPieces .core b va n (wI wc / 8) false (activePieces va n (wI wc / 8) (activeList b mk na)) s = .fault s1 e := by
          simp only [loadPieces, hp]
        have hw : wBits false wc = wI wc := rfl
        simp only [vloadOnce, hw, active, vlOf, elems, vlen]
        exact hl ▸ rfl
      exact exec_vload hr hx
    · have hx : vstoreOnce .core v a mk wc b s = .exc e b s1 := by
        refine vstoreOnce_eq v a mk wc b s na n rfl rfl (r := .fault s1 e) ?_
        exact storePieces_fault hl hp
      exact exec_vstore hr hx
  case store =>
    intro b na n va act bs hl hp
    have hx {r : StoreOut} (h : storePhys .core .vector false bs s1 l = r) : vstoreOnce .core v a mk wc b s = storeResult b (vaddrUpdate b n a) r :=
      vstoreOnce_eq v a mk wc b s na n rfl rfl ((storePieces_translated hl hp).trans h)
    refine ⟨fun hf => vstore_retires n hr (hx (storePhys_free .vector false bs hf)),
      fun hf => vstore_retires n hr (hx (storePhys_performed .vector false bs hf)), fun hru hz hs h33 => ?_⟩
    have hlen : (sbEntries .vector false bs l).length = 33 := (sbEntries_length ..).trans h33
    obtain ⟨e, he⟩ : ∃ e, (sbEntries .vector false bs l).getLast? = some e :=
      ⟨_, List.getLast?_eq_some_getLast fun h => by rw [h] at hlen; cases hlen⟩
    refine ⟨e, ?_, he⟩
    rw [exec_vstore hr (hx ((storePhys_enters .vector false bs hru hz).trans (enterBuffer_waits hs hlen))), he]
    rfl
  case rest =>
    intro b n
    have hx {r : StoreOut} (h : storeRest e s = r) : vstoreOnce .core v a mk wc b s = storeResult b (vaddrUpdate b n a) r := by
      refine vstoreOnce_eq v a mk wc b s _ n rfl rfl ?_
      simp [storePieces, hl, h]
    exact ⟨fun h => vstore_retires n hr (hx (if_pos h)), fun h => exec_vstore hr (hx (if_neg (Nat.not_lt.2 h)))⟩
  case moves =>
    intro b
    refine ⟨fun gd va gb wc hr => ?ext, fun vd g gb wc hr => ?ins, fun vd g wc hr => ?splat, fun i md ma mb x hr hi => ?mask, fun gd ma hr => ?cnt⟩
    case ext =>
      have hn : instrBytes (.vext gd va gb wc) = 4 := instrBytes_rowWord rfl (by decide) gd.isLt va.isLt (by decide) gb.isLt
      exact ⟨_, exec_vec_ok (body := vextBody gd va gb wc) rfl hr hn rfl, rfl, wg_get_same _ _ _, keepsG_wg _ _ _, rfl, rfl⟩
    case ins =>
      have hn : instrBytes (.vins vd g gb wc) = 4 := instrBytes_rowWord rfl (by decide) vd.isLt g.isLt (by decide) gb.isLt
      refine ⟨_, exec_vec_ok (body := vinsBody vd g gb wc) rfl hr hn rfl, vregsOnly_wv hr.1 (List.mem_cons_self ..) _ _, keepsV_wv _ _ _, rfl, ?_⟩
      have hj : ∀ j, j = (rg b gb).toNat % (16384 / wI wc) → j < 16384 / wI wc := by
        rintro j rfl
        exact Nat.mod_lt _ elements_pos
      have h := elementsAre_setElems (wI_pos wc) (l := [(rg b gb).toNat % (16384 / wI wc)]) (fun j => List.mem_singleton) hj
        (fun _ => (rg b g).toNat % 2 ^ wI wc) b.v[vd]
      rw [elementsAre_mod] at h
      exact (wv_get_same ..).symm ▸ h
    case splat =>
      have hn : instrBytes (.vsplat vd g wc) = 4 := instrBytes_rowWord rfl (by decide) vd.isLt g.isLt (by decide) (by decide)
      refine ⟨_, exec_vec_ok (body := vsplatBody vd g wc) rfl hr hn rfl, vregsOnly_wv hr.1 (List.mem_cons_self ..) _ _, keepsV_wv _ _ _, rfl, ?_⟩
      have hl (j : Nat) : j ∈ List.range (min (fieldN b.vl 11 0) (16384 / wI wc)) ↔ elementActs b none (wI wc) j := by
        rw [List.mem_range, Nat.lt_min, elementActs]
        simp
      have h := elementsAre_setElems (wI_pos wc) hl (fun j h => h.2.1) (fun _ => (rg b g).toNat % 2 ^ wI wc) b.v[vd]
      rw [elementsAre_mod] at h
      exact (wv_get_same ..).symm ▸ h
    case mask =>
      obtain ⟨rfl, rfl⟩ | ⟨rfl, rfl⟩ | ⟨rfl, rfl⟩ | ⟨rfl, rfl⟩ | ⟨rfl, hx⟩ := hi
      · exact exec_maskOp (f := fun b => b.m[ma] &&& b.m[mb]) rfl hr (instrBytes_maskWord rfl (by decide) (by omega) ma.isLt mb.isLt)
      · exact exec_maskOp (f := fun b => b.m[ma] ||| b.m[mb]) rfl hr (instrBytes_maskWord rfl (by decide) (by omega) ma.isLt mb.isLt)
      · exact exec_maskOp (f := fun b => b.m[ma] ^^^ b.m[mb]) rfl hr (instrBytes_maskWord rfl (by decide) (by omega) ma.isLt mb.isLt)
      · exact exec_maskOp (f := fun b => ~~~ b.m[ma]) rfl hr (instrBytes_maskWord rfl (by decide) (by omega) ma.isLt (by decide))
      · rw [hx, show (~~~ 0 : MWord) = BitVec.allOnes 2048 from BitVec.not_zero]
        exact exec_maskOp (f := fun _ => BitVec.allOnes 2048) rfl hr (instrBytes_maskWord rfl (by decide) (by omega) (by decide) (by decide))
    case cnt =>
      have hn : instrBytes (.mcnt gd ma) = 4 := instrBytes_maskWord rfl (by decide) gd.isLt ma.isLt (by decide)
      refine ⟨_, exec_vec_ok (body := mcntBody gd ma) rfl hr hn rfl, rfl, ?_, keepsG_wg _ _ _, rfl, rfl⟩
      refine (wg_get_same _ _ _).trans ?_
      rw [popcount_eq]
      rfl

end Sys2Proof.Machine


namespace Sys2Proof.Machine

/-! SUPPORT. Rows of tiles read into and written from vector registers (R68 to R70, R81, R83 to R87, R329, R341). -/

/-! ### What a read of a row may change -/

/-- A read of a row changes the nib cache and what records and the injection touch. -/
def rowsRead (s t : State) : Prop :=
  t = { s with
    nib := t.nib, err := t.err, dom := t.dom
    c := { s.c with errlast := t.c.errlast, ipend := t.c.ipend, l2Check := t.c.l2Check, l1dCheck := t.c.l1dCheck, errinj := t.c.errinj } }

theorem rowsRead_refl (s : State) : rowsRead s s := rfl

theorem rowsRead_trans {s t u : State} (h1 : rowsRead s t) (h2 : rowsRead t u) : rowsRead s u := by
  unfold rowsRead at *
  rw [h2, h1]

theorem rowsRead_ite {s t u : State} {p : Prop} [Decidable p] (h1 : rowsRead s t) (h2 : rowsRead s u) : rowsRead s (if p then t else u) := by
  split
  · exact h1
  · exact h2

theorem rowsRead_of_records {s t : State} (h1 : recordsOnly s t) (h2 : noted s t) : rowsRead s t := by
  have hf : t.freeCtr = s.freeCtr := by
    obtain ⟨_, _, _, rfl⟩ := h1
    rfl
  have h := h2.1
  rw [recordOnly, hf] at h
  rw [rowsRead, h]

theorem postRecord_rowsRead (s : State) (cls unit : Byte) (sev : BitVec 2) (loc : W64) (synd : BitVec 24) (inj : Bool) (extra : BitVec 16) :
    rowsRead s (postRecord s cls unit sev loc synd inj extra) :=
  rowsRead_of_records (postRecord_only ..) (postRecord_noted ..)

theorem meetSingle_rowsRead (s : State) (unit : Byte) (spot loc : Nat) : rowsRead s (meetSingle s unit spot loc) :=
  rowsRead_of_records (meetSingle_only ..) (meetSingle_noted ..)

theorem tileMeet_rowsRead (s : State) (t : TReg) (row : Nat) (ws : List Nat) : rowsRead s (tileMeet s t row ws) :=
  rowsRead_ite rfl (foldl_keeps (rowsRead s) _ (fun _ _ h => rowsRead_trans h (rowsRead_ite (postRecord_rowsRead ..) (meetSingle_rowsRead ..))) _ _ rfl)

theorem nibFill_rowsRead (s : State) (w : Fin 64) (t : TReg) (r : BitVec 10) : rowsRead s (nibFill s w t r) := rowsRead_ite rfl rfl

theorem nibParity_rowsRead (s : State) (w : Fin 64) : rowsRead s (nibParity s w) :=
  rowsRead_trans (t := clearSpot { s with nib := { s.nib with tags := s.nib.tags.set w.val none w.isLt } } 0x06 w.val) rfl (postRecord_rowsRead ..)

theorem nibRead_rowsRead (s : State) (t : TReg) (r : BitVec 10) : rowsRead s (nibRead s t r) := by
  unfold nibRead
  dsimp only
  split
  · exact rowsRead_ite (rowsRead_trans (nibParity_rowsRead s _) (nibFill_rowsRead ..)) rfl
  · exact nibFill_rowsRead ..

theorem rowRead_rowsRead (s : State) (t : TReg) (r : BitVec 10) : rowsRead s (rowRead s t r) :=
  rowsRead_trans (rowsRead_ite (rowsRead_refl s) (tileMeet_rowsRead ..)) (nibRead_rowsRead ..)

/-! ### What a write of a row may change -/

/-- A write of a row of tile k changes that tile but not its state, the nib cache, and the injection. -/
def rowStored (k : TReg) (s t : State) : Prop :=
  t = { s with tiles := t.tiles, nib := t.nib, err := t.err, c := { s.c with errinj := t.c.errinj } } ∧ otherTilesKept s t k ∧
    t.tiles[k].st = s.tiles[k].st

theorem rowStored_refl (k : TReg) (s : State) : rowStored k s s := ⟨rfl, fun _ _ => rfl, rfl⟩

theorem rowStored_trans {k : TReg} {s t u : State} (h1 : rowStored k s t) (h2 : rowStored k t u) : rowStored k s u := by
  obtain ⟨e1, o1, p1⟩ := h1
  obtain ⟨e2, o2, p2⟩ := h2
  refine ⟨?_, fun j hj => (o2 j hj).trans (o1 j hj), p2.trans p1⟩
  rw [e2, e1]

theorem setTile_other (s : State) {j k : TReg} (x : Tile) (h : j ≠ k) : (setTile s k x).tiles[j] = s.tiles[j] := by
  have hv : k.val ≠ j.val := fun e => h (Fin.ext e.symm)
  simp [setTile, hv]

@[simp] theorem setTile_same (s : State) (k : TReg) (x : Tile) : (setTile s k x).tiles[k] = x := by simp [setTile]

theorem setTile_rowStored {k : TReg} {s : State} {x : Tile} (h : x.st = s.tiles[k].st) : rowStored k s (setTile s k x) :=
  ⟨rfl, fun _ hj => setTile_other s x hj, by rw [setTile_same, h]⟩

theorem nibDrop_rowStored (k : TReg) (s : State) (t : TReg) (p : BitVec 10 → Bool) : rowStored k s (nibDrop s t p) := ⟨rfl, fun _ _ => rfl, rfl⟩

theorem clearSpot_rowStored (k : TReg) (s : State) (unit : Byte) (loc : Nat) : rowStored k s (clearSpot s unit loc) := ⟨rfl, fun _ _ => rfl, rfl⟩

theorem plant_rowStored (k : TReg) (s : State) (unit : Byte) (kind : Nat) : rowStored k s (plant s unit kind) := ⟨rfl, fun _ _ => rfl, rfl⟩

theorem tileStrike_rowStored (s : State) (k : TReg) (row : Nat) (ws : List Nat) : rowStored k s (tileStrike s k row ws) := by
  unfold tileStrike
  dsimp only
  split
  · exact rowStored_refl k s
  · refine rowStored_trans (plant_rowStored k s 0x05 (injKind s 0x05)) ?_
    split
    · exact rowStored_refl k _
    · split <;> exact setTile_rowStored rfl

/-- The words of a row marked good. -/
def markedGood (s : State) (t : TReg) (row : Nat) (ws : List Nat) : State :=
  if s.tiles[t].bad.isEmpty then s
  else setTile s t { s.tiles[t] with bad := s.tiles[t].bad.filter fun w => !(w / 256 == row && ws.contains (w % 256)) }

/-- The words of a row marked good, and free of injected flips. -/
def rowCleaned (s : State) (t : TReg) (row : Nat) (ws : List Nat) : State :=
  if (markedGood s t row ws).err.spots.isEmpty then markedGood s t row ws
  else ws.foldl (fun s d => clearSpot s 0x05 (tileSel t.val row d)) (markedGood s t row ws)

theorem tileFresh_eq (s : State) (t : TReg) (row : Nat) (ws : List Nat) : tileFresh s t row ws = tileStrike (rowCleaned s t row ws) t row ws := rfl

theorem markedGood_rowStored (s : State) (k : TReg) (row : Nat) (ws : List Nat) : rowStored k s (markedGood s k row ws) := by
  unfold markedGood
  split
  · exact rowStored_refl k s
  · exact setTile_rowStored rfl

theorem rowCleaned_rowStored (s : State) (k : TReg) (row : Nat) (ws : List Nat) : rowStored k s (rowCleaned s k row ws) := by
  unfold rowCleaned
  split
  · exact markedGood_rowStored ..
  · exact foldl_keeps (rowStored k s) _ (fun _ _ h => rowStored_trans h (clearSpot_rowStored ..)) _ _ (markedGood_rowStored ..)

theorem tileFresh_rowStored (s : State) (k : TReg) (row : Nat) (ws : List Nat) : rowStored k s (tileFresh s k row ws) :=
  rowStored_trans (rowCleaned_rowStored ..) (tileStrike_rowStored ..)

theorem markedGood_contents (s : State) (k : TReg) (row : Nat) (ws : List Nat) :
    (markedGood s k row ws).tiles[k].rows = s.tiles[k].rows ∧ (markedGood s k row ws).tiles[k].scales = s.tiles[k].scales ∧
      (markedGood s k row ws).err = s.err ∧ (markedGood s k row ws).c = s.c := by
  unfold markedGood
  split
  · exact ⟨rfl, rfl, rfl, rfl⟩
  · rw [setTile_same]
    exact ⟨rfl, rfl, rfl, rfl⟩

/-- Without an injection a write afresh changes the marks of bad words alone. -/
theorem tileFresh_contents {s : State} (h : NoInjection s) (k : TReg) (row : Nat) (ws : List Nat) :
    (tileFresh s k row ws).tiles[k].rows = s.tiles[k].rows ∧ (tileFresh s k row ws).tiles[k].scales = s.tiles[k].scales := by
  obtain ⟨hs, hi⟩ := h
  obtain ⟨hrows, hscales, hspots, hcc⟩ := markedGood_contents s k row ws
  rw [tileFresh_eq, rowCleaned, hspots, hs, if_pos List.isEmpty_nil]
  have hk : injKind (markedGood s k row ws) 0x05 = 0 := by
    rw [injKind, hcc, hi]
    rfl
  rw [tileStrike, hk]
  exact ⟨hrows, hscales⟩

/-- A tile replaced, its row out of the nib cache, and the words of the row afresh. -/
theorem replaceRow_rowStored {s : State} {k : TReg} {x : Tile} (hx : x.st = s.tiles[k].st) (p : BitVec 10 → Bool) (r : Nat) (ws : List Nat) :
    rowStored k s (tileFresh (nibDrop (setTile s k x) k p) k r ws) :=
  rowStored_trans (setTile_rowStored hx) (rowStored_trans (nibDrop_rowStored k (setTile s k x) k p) (tileFresh_rowStored _ k r ws))

theorem putRow_rowStored (s : State) (k : TReg) (r : Nat) (d : RowWord) : rowStored k s (putRow s k r d) :=
  replaceRow_rowStored (x := { s.tiles[k] with rows := spSet 0 s.tiles[k].rows r (BitVec.ofNat 8192 (d.toNat % 2 ^ (8 * tileBytes s.tiles[k]))) })
    rfl _ r _

theorem putScale_rowStored (s : State) (k : TReg) (r : Nat) (d : ScaleWord) : rowStored k s (putScale s k r d) :=
  replaceRow_rowStored (x := { s.tiles[k] with scales := spSet scaleOnes s.tiles[k].scales r (keepScales (tileScales s.tiles[k]) d) }) rfl _ r _

theorem putRow_contents {s : State} (h : NoInjection s) (k : TReg) (r : Nat) (d : RowWord) :
    (putRow s k r d).tiles[k].rows = spSet 0 s.tiles[k].rows r (BitVec.ofNat 8192 (d.toNat % 2 ^ (8 * tileBytes s.tiles[k]))) ∧
      (putRow s k r d).tiles[k].scales = s.tiles[k].scales := by
  have hn (x : Tile) (p : BitVec 10 → Bool) : NoInjection (nibDrop (setTile s k x) k p) := h
  have hx (x : Tile) (p : BitVec 10 → Bool) : (nibDrop (setTile s k x) k p).tiles[k] = x := setTile_same s k x
  obtain ⟨h1, h2⟩ := tileFresh_contents (hn _ _) k r (rowWords 0 (tileBytes s.tiles[k]))
  rw [hx] at h1 h2
  exact ⟨h1, h2⟩

theorem putScale_contents {s : State} (h : NoInjection s) (k : TReg) (r : Nat) (d : ScaleWord) :
    (putScale s k r d).tiles[k].rows = s.tiles[k].rows ∧
      (putScale s k r d).tiles[k].scales = spSet scaleOnes s.tiles[k].scales r (keepScales (tileScales s.tiles[k]) d) := by
  have hn (x : Tile) (p : BitVec 10 → Bool) : NoInjection (nibDrop (setTile s k x) k p) := h
  have hx (x : Tile) (p : BitVec 10 → Bool) : (nibDrop (setTile s k x) k p).tiles[k] = x := setTile_same s k x
  obtain ⟨h1, h2⟩ := tileFresh_contents (hn _ _) k r (rowWords 128 (tileScales s.tiles[k]))
  rw [hx] at h1 h2
  exact ⟨h1, h2⟩

end Sys2Proof.Machine


namespace Sys2Proof.Machine

/-! SUPPORT. VTRD, VTWR and their sidecar forms (R70, R81, R83, R84). -/

/-! ### The checks of a row access -/

theorem ownFault_owned {s : State} {k : TReg} (h : tileOwned s k) : ownFault s k = none := by
  refine if_pos ?_
  rwa [Bool.or_eq_true, beq_iff_eq]

theorem ownFault_foreign {s : State} {k : TReg} (h : ¬ tileOwned s k) : ownFault s k = some (notReady 2 k) := by
  refine if_neg ?_
  rwa [Bool.or_eq_true, beq_iff_eq]

theorem stateFault_incomplete {s : State} {k : TReg} (h : s.tiles[k].st = .incomplete) : stateFault s k = some (notReady 1 k) :=
  if_pos (beq_iff_eq.2 h)

theorem stateFault_usable {s : State} {k : TReg} (h : s.tiles[k].st ≠ .incomplete) : stateFault s k = none :=
  if_neg fun e => h (beq_iff_eq.1 e)

theorem rowFault_beyond {s : State} {k : TReg} {r : W64} (side : Bool) (h : tileRows (accTile s k) ≤ r.toNat) :
    rowFault s k r side = some (shapeExc 1 k) := if_pos h

theorem rowFault_sidecar {s : State} {k : TReg} {r : W64} {side : Bool} (h : r.toNat < tileRows (accTile s k)) (hs : side = true)
    (hm : (accTile s k).mx = false) : rowFault s k r side = some (shapeExc 6 k) := by
  refine (if_neg (Nat.not_le.2 h)).trans (if_pos ?_)
  rw [hs, hm]
  rfl

theorem rowFault_none {s : State} {k : TReg} {r : W64} {side : Bool} (h : r.toNat < tileRows (accTile s k))
    (hm : side = true → (accTile s k).mx = true) : rowFault s k r side = none := by
  refine (if_neg (Nat.not_le.2 h)).trans (if_neg ?_)
  cases side with
  | false => simp
  | true => simp [hm rfl]

/-- The first fault of a row access, if any. -/
def rowChecks (s : State) (k : TReg) (r : W64) (side : Bool) : Option Exc := [ownFault s k, stateFault s k, rowFault s k r side].findSome? id

theorem rowChecks_foreign {s : State} {k : TReg} (r : W64) (side : Bool) (h : ¬ tileOwned s k) : rowChecks s k r side = some (notReady 2 k) := by
  simp [rowChecks, ownFault_foreign h]

theorem rowChecks_incomplete {s : State} {k : TReg} (r : W64) (side : Bool) (h : tileOwned s k) (hi : s.tiles[k].st = .incomplete) :
    rowChecks s k r side = some (notReady 1 k) := by
  simp [rowChecks, ownFault_owned h, stateFault_incomplete hi]

theorem rowChecks_usable {s : State} {k : TReg} {r : W64} {side : Bool} (h : tileOwned s k) (hi : s.tiles[k].st ≠ .incomplete) :
    rowChecks s k r side = rowFault s k r side := by
  cases hf : rowFault s k r side <;> simp [rowChecks, ownFault_owned h, stateFault_usable hi, hf]

/-- The body of a row access: a write or a read, of a row or of a sidecar row. -/
def rowBody (wr side : Bool) (v : VReg) (k : TReg) (gr : GReg) : Body := if wr then vtwrBody side v k gr else vtrdBody side v k gr

theorem rowBody_fault {wr side : Bool} {v : VReg} {k : TReg} {gr : GReg} {b : Bank} {s : State} {e : Exc} (h : rowChecks s k (rg b gr) side = some e) :
    rowBody wr side v k gr .core b s = .exc e b s := by
  unfold rowChecks at h
  cases wr <;> simp only [rowBody, vtwrBody, vtrdBody, checked, h, if_true, Bool.false_eq_true, if_false]

/-- A row access runs once both units are there (R28). -/
theorem exec_rowAccess {i : Instr} {body : Body} {s : State} (he : exec i s = issue i (domGate dTile i (vecGate i body)) s) (hr : TileReady i s)
    (hv : domUse s dVec = .ready) : exec i s = .next (settle i (curBank s) (body .core (curBank s) s)) :=
  exec_result he hr.1 (by simp only [domGate, hr.2, vecGate, hv])

theorem exec_rowAccess_fault {i : Instr} {body : Body} {s : State} {e : Exc} (he : exec i s = issue i (domGate dTile i (vecGate i body)) s)
    (hr : TileReady i s) (hv : domUse s dVec = .ready) (hb : body .core (curBank s) s = .exc e (curBank s) s) (hw : e.code ≠ waitCode) :
    exec i s = .next (raise e s) := by
  rw [exec_rowAccess he hr hv, hb, settle_exc hw, setCur_curBank]

/-! ### Reads -/

theorem vtrdBody_pending {side : Bool} {v : VReg} {k : TReg} {gr : GReg} {b : Bank} {s : State} (h : rowChecks s k (rg b gr) side = none)
    (hp : s.tiles[k].st = .pending) : vtrdBody side v k gr .core b s = .wait s := by
  unfold rowChecks at h
  simp only [vtrdBody, checked, h, hp, if_true]

/-- The register that a row access reads (R81). -/
def rowValue (side : Bool) (x : Tile) (r : Nat) (v : VWord) : VWord :=
  if side then lowBytes v (tileScales x) (tileScale x r) else lowBytes v (tileBytes x) (tileRow x r)

theorem vtrdBody_reads {side : Bool} {v : VReg} {k : TReg} {gr : GReg} {b : Bank} {s : State} (h : rowChecks s k (rg b gr) side = none)
    (hp : s.tiles[k].st ≠ .pending) : vtrdBody side v k gr .core b s =
      .ok (wv b v (rowValue side s.tiles[k] (rg b gr).toNat b.v[v])) (rowRead s k (BitVec.ofNat 10 (rg b gr).toNat)) := by
  unfold rowChecks at h
  simp only [vtrdBody, checked, h, hp, if_false]
  rfl

/-- The bytes of a register whose low n bytes are replaced. -/
theorem velem_lowBytes {w : Nat} (v : VWord) (n : Nat) (x : BitVec w) {j : Nat} (hj : j < 2048) :
    velem 8 (lowBytes v n x) j = if j < n then velem 8 x j else velem 8 v j := by
  unfold lowBytes
  split
  · next h => rw [h, if_neg (Nat.not_lt_zero j)]
  · next h =>
    refine Nat.eq_of_testBit_eq fun t => ?_
    rw [testBit_velem, bit_setField]
    by_cases ht : t < 8
    · by_cases hn : j < n
      · rw [if_pos ⟨by omega, by omega, by omega⟩, if_pos hn, testBit_velem]
        rfl
      · rw [if_neg (by omega), if_neg hn, testBit_velem]
    · have hf {w : Nat} (y : BitVec w) : (velem 8 y j).testBit t = false := by simp [testBit_velem, ht]
      simp only [ht, decide_false, Bool.false_and]
      split <;> exact (hf _).symm

theorem velem_rowValue (side : Bool) (x : Tile) (r : Nat) (v : VWord) {j : Nat} (hj : j < 2048) :
    velem 8 (rowValue side x r v) j = if j < (if side then tileScales x else tileBytes x) then
      (if side then velem 8 (tileScale x r) j else velem 8 (tileRow x r) j) else velem 8 v j := by
  cases side <;> simp only [rowValue, if_true, Bool.false_eq_true, if_false] <;> exact velem_lowBytes v _ _ hj

/-! ### Writes -/

/-- A write of a tile may work once no earlier operation writes the tile and those that read it have read it (R69). -/
theorem tileFree_write (s : State) (b : Bank) (k : TReg) : tileFree s.ops { newOp .idrainT b s with t := k } = true ↔
    ∀ o ∈ s.ops, opWrites o k = false ∧ (opReads o k = true → readDone o = true) := by
  have hone (j : TReg) (e : Op) : (!((opReads { newOp .idrainT b s with t := k } j && opWrites e j) ||
      (opWrites { newOp .idrainT b s with t := k } j && (opWrites e j || (opReads e j && !readDone e))))) = true ↔
      (k = j → opWrites e j = false ∧ (opReads e j = true → readDone e = true)) := by
    have hr : opReads { newOp .idrainT b s with t := k } j = false := rfl
    have hw : opWrites { newOp .idrainT b s with t := k } j = (k == j) := rfl
    rw [hr, hw]
    by_cases hk : k = j
    · cases opWrites e j <;> cases opReads e j <;> cases readDone e <;> simp [hk]
    · simp [hk]
  simp only [tileFree, List.all_eq_true, hone]
  exact ⟨fun h o ho => h k (List.mem_finRange k) o ho rfl, fun h j _ o ho hj => hj ▸ h o ho⟩

theorem vtwrBody_waits {side : Bool} {v : VReg} {k : TReg} {gr : GReg} {b : Bank} {s : State} (h : rowChecks s k (rg b gr) side = none)
    (hf : ¬ ∀ o ∈ s.ops, opWrites o k = false ∧ (opReads o k = true → readDone o = true)) : vtwrBody side v k gr .core b s = .wait s := by
  unfold rowChecks at h
  rw [← tileFree_write s b k] at hf
  simp only [vtwrBody, checked, h, hf, Bool.false_eq_true, if_false]

/-- A row of a tile replaced by the low bytes of a vector register (R81). -/
def rowPut (side : Bool) (s : State) (k : TReg) (r : Nat) (v : VWord) : State :=
  if side then putScale s k r (BitVec.ofNat 512 v.toNat) else putRow s k r (BitVec.ofNat 8192 v.toNat)

theorem vtwrBody_writes {side : Bool} {v : VReg} {k : TReg} {gr : GReg} {b : Bank} {s : State} (h : rowChecks s k (rg b gr) side = none)
    (hf : ∀ o ∈ s.ops, opWrites o k = false ∧ (opReads o k = true → readDone o = true)) :
    vtwrBody side v k gr .core b s = .ok b (settleTile (setDirty (rowPut side s k (rg b gr).toNat b.v[v]) k) k .ready) := by
  unfold rowChecks at h
  rw [← tileFree_write s b k] at hf
  simp only [vtwrBody, checked, h, hf, if_true]
  rfl

theorem rowPut_rowStored (side : Bool) (s : State) (k : TReg) (r : Nat) (v : VWord) : rowStored k s (rowPut side s k r v) := by
  cases side
  · exact putRow_rowStored s k r _
  · exact putScale_rowStored s k r _

/-- Settling a tile changes its state alone. -/
theorem settleTile_spec (s : State) (k : TReg) (base : TileState) : let t := settleTile s k base
    t = { s with tiles := t.tiles } ∧ otherTilesKept s t k ∧ t.tiles[k].rows = s.tiles[k].rows ∧ t.tiles[k].scales = s.tiles[k].scales := by
  have h (x : Tile) (hr : x.rows = s.tiles[k].rows) (hs : x.scales = s.tiles[k].scales) : let t := setTile s k x
      t = { s with tiles := t.tiles } ∧ otherTilesKept s t k ∧ t.tiles[k].rows = s.tiles[k].rows ∧ t.tiles[k].scales = s.tiles[k].scales :=
    ⟨rfl, fun _ hj => setTile_other s x hj, by rw [setTile_same, hr], by rw [setTile_same, hs]⟩
  exact h _ rfl rfl

/-- With no operation left on its tile and no writer, a tile that is usable settles to its base (R68, R77). -/
theorem settleTile_base {s : State} {k : TReg} (base : TileState) (hi : s.tiles[k].st ≠ .incomplete) (hl : ∀ o ∈ s.ops, o.left = false)
    (hw : ∀ o ∈ s.ops, opWrites o k = false) : (settleTile s k base).tiles[k].st = base := by
  have hf : (s.ops.any fun o => o.left && opNames o k) = false := List.any_eq_false.2 fun o ho => by simp [hl o ho]
  have hn : (s.ops.any (opWrites · k)) = false := List.any_eq_false.2 fun o ho => by simp [hw o ho]
  have he : (s.tiles[k].st == .incomplete) = false := beq_eq_false_iff_ne.2 hi
  simp only [settleTile, setTile_same, hf, hn, he, Bool.false_and, Bool.or_self, Bool.false_eq_true, if_false]

/-- The low bytes of a vector register that fit into a row. -/
theorem rowBytes_eq (x : Tile) (v : VWord) :
    BitVec.ofNat 8192 ((BitVec.ofNat 8192 v.toNat).toNat % 2 ^ (8 * tileBytes x)) = BitVec.ofNat 8192 (v.toNat % 2 ^ (8 * tileBytes x)) := by
  have hb : 8 * tileBytes x ≤ 8192 := by
    have := x.rbm1.isLt
    unfold tileBytes
    omega
  rw [BitVec.toNat_ofNat, Nat.mod_mod_of_dvd _ (Nat.pow_dvd_pow 2 hb)]

/-- The rows and sidecar rows after a write, the stores being canonical (R81). -/
theorem rowPut_rows {s : State} {k : TReg} (hn : NoInjection s) (hc : TilesCanonical s) (side : Bool) (r : Nat) (v : VWord) {y : Tile}
    (hyr : y.rows = (rowPut side s k r v).tiles[k].rows) (hys : y.scales = (rowPut side s k r v).tiles[k].scales) :
    (side = false → tileRow y r = BitVec.ofNat 8192 (v.toNat % 2 ^ (8 * tileBytes s.tiles[k])) ∧ y.scales = s.tiles[k].scales ∧
      ∀ j, j ≠ r → tileRow y j = tileRow s.tiles[k] j) ∧
    (side = true → tileScale y r = keepScales (tileScales s.tiles[k]) (BitVec.ofNat 512 v.toNat) ∧ y.rows = s.tiles[k].rows ∧
      ∀ j, j ≠ r → tileScale y j = tileScale s.tiles[k] j) := by
  obtain ⟨hrows, hscales⟩ := hc k
  refine ⟨fun h => ?_, fun h => ?_⟩
  · subst h
    obtain ⟨h1, h2⟩ := putRow_contents hn k r (BitVec.ofNat 8192 v.toNat)
    refine ⟨?_, hys.trans h2, fun j hj => ?_⟩
    · exact (congrArg (spGet 0 · r) (hyr.trans h1)).trans ((spGet_set_same hrows).trans (rowBytes_eq _ v))
    · exact (congrArg (spGet 0 · j) (hyr.trans h1)).trans (spGet_set_other hrows hj)
  · subst h
    obtain ⟨h1, h2⟩ := putScale_contents hn k r (BitVec.ofNat 512 v.toNat)
    refine ⟨?_, hyr.trans h1, fun j hj => ?_⟩
    · exact (congrArg (spGet scaleOnes · r) (hys.trans h2)).trans (spGet_set_same hscales)
    · exact (congrArg (spGet scaleOnes · j) (hys.trans h2)).trans (spGet_set_other hscales hj)

/-- What a write of a row leaves of the state. -/
theorem rowWrite_frame (side : Bool) (s : State) (k : TReg) (r : Nat) (v : VWord) :
    let t := settleTile (setDirty (rowPut side s k r v) k) k .ready
    tileRecords s t ∧ otherTilesKept s t k ∧ t.ops = s.ops ∧ t.nextOp = s.nextOp ∧ t.sq = s.sq ∧ bit t.c.tdirty k.val = true := by
  obtain ⟨he, ho, -⟩ := rowPut_rowStored side s k r v
  obtain ⟨he2, ho2, -, -⟩ := settleTile_spec (setDirty (rowPut side s k r v) k) k .ready
  generalize rowPut side s k r v = s1 at he ho he2 ho2 ⊢
  intro t
  have ht : t = { setDirty s1 k with tiles := t.tiles } := he2
  refine ⟨?_, fun j hj => (ho2 j hj).trans (ho j hj), ?_, ?_, ?_, ?_⟩
  · rw [tileRecords, ht, setDirty, he]
  · rw [ht, setDirty, he]
  · rw [ht, setDirty, he]
  · rw [ht, setDirty, he]
  · rw [ht]
    exact bit_setBit_self _ k.isLt _

theorem notReady_code (n : BitVec 4) (k : TReg) : (notReady n k).code ≠ waitCode := show (0x09 : Byte) ≠ waitCode by decide

theorem shapeExc_code (n : BitVec 4) (k : TReg) : (shapeExc n k).code ≠ waitCode := show (0x08 : Byte) ≠ waitCode by decide

/-- What a read of a row leaves of its bank. -/
theorem readBank_spec (b : Bank) (v : VReg) (x : VWord) : let b' : Bank := { wv b v x with pc := b.pc + 4 }
    vectorOnly b b' ∧ b'.g = b.g ∧ b'.m = b.m ∧ keepsV b b' [v] ∧ b'.pc = b.pc + 4 ∧ b'.v[v] = x :=
  ⟨rfl, rfl, rfl, keepsV_wv b v x, rfl, wv_get_same b v x⟩

/-- What a read of a row leaves of the state. -/
theorem rowsRead.frame {s t : State} (h : rowsRead s t) :
    tileRecords s t ∧ t.tiles = s.tiles ∧ t.ops = s.ops ∧ t.nextOp = s.nextOp ∧ t.sq = s.sq ∧ t.c.tdirty = s.c.tdirty := by
  unfold rowsRead at h
  refine ⟨?_, ?_, ?_, ?_, ?_, ?_⟩ <;> rw [h]
  rfl

/-- Settles O34: the checks come in their order; a read is the low bytes of a register, a write a row put and its tile settled. -/
theorem vectorTileRows : Obligations.VectorTileRows := by
  unfold Obligations.VectorTileRows
  intro s b
  refine ⟨fun wr side v k gr => ?checks, fun side vd k gr => ?reads, fun side vs k gr => ?writes⟩
  case checks =>
    intro i hr hv
    have he : ∀ s, exec i s = issue i (domGate dTile i (vecGate i (rowBody wr side v k gr))) s := by
      cases wr <;> cases side <;> exact fun _ => rfl
    have hfault {e : Exc} (h : rowChecks s k (rg b gr) side = some e) (hw : e.code ≠ waitCode) : exec i s = .next (raise e s) :=
      exec_rowAccess_fault (he s) hr hv (rowBody_fault h) hw
    have hwait (h : rowBody wr side v k gr .core b s = .wait s) : exec i s = .next { s with stall := some i } := by
      rw [exec_rowAccess (he s) hr hv, h, settle_wait]
    refine ⟨fun ho => hfault (rowChecks_foreign _ _ ho) (notReady_code 2 k), fun ho hi => hfault (rowChecks_incomplete _ _ ho hi) (notReady_code 1 k),
      fun ho hi => ?_⟩
    have hu := rowChecks_usable (r := rg b gr) (side := side) ho hi
    refine ⟨fun h => hfault (hu.trans (rowFault_beyond side h)) (shapeExc_code 1 k),
      fun h hs hm => hfault (hu.trans (rowFault_sidecar h hs hm)) (shapeExc_code 6 k), fun h hm hwr hp => hwait ?_, fun h hm hwr hf => hwait ?_⟩
    · subst hwr
      exact vtrdBody_pending (hu.trans (rowFault_none h hm)) hp
    · subst hwr
      exact vtwrBody_waits (hu.trans (rowFault_none h hm)) hf
  case reads =>
    intro i hr hv ho hi hp h hm
    have he : ∀ s, exec i s = issue i (domGate dTile i (vecGate i (vtrdBody side vd k gr))) s := by
      cases side <;> exact fun _ => rfl
    have hn : instrBytes i = 4 := by
      cases side <;> exact instrBytes_rowWord rfl (by decide) vd.isLt gr.isLt k.isLt (by decide)
    have hb := vtrdBody_reads (v := vd) ((rowChecks_usable ho hi).trans (rowFault_none h hm)) hp
    obtain ⟨f1, f2, f3, f4, f5, f6⟩ := (rowRead_rowsRead s k (BitVec.ofNat 10 (rg b gr).toNat)).frame
    obtain ⟨g1, g2, g3, g4, g5, g6⟩ := readBank_spec b vd (rowValue side s.tiles[k] (rg b gr).toNat b.v[vd])
    refine ⟨_, _, ?_, f1, f2, f3, f4, f5, f6, g1, g2, g3, g4, g5, fun j hj => ?_⟩
    · rw [exec_rowAccess (he s) hr hv, hb, settle_ok, hn]
      rfl
    · rw [g6]
      exact velem_rowValue side _ _ _ hj
  case writes =>
    intro i hr hv ho hi hf h hm
    have he : ∀ s, exec i s = issue i (domGate dTile i (vecGate i (vtwrBody side vs k gr))) s := by
      cases side <;> exact fun _ => rfl
    have hn : instrBytes i = 4 := by
      cases side <;> exact instrBytes_rowWord rfl (by decide) vs.isLt gr.isLt k.isLt (by decide)
    have hb := vtwrBody_writes (v := vs) ((rowChecks_usable ho hi).trans (rowFault_none h hm)) hf
    obtain ⟨f1, f2, f3, f4, f5, f6⟩ := rowWrite_frame side s k (rg b gr).toNat b.v[vs]
    obtain ⟨he1, -, hst⟩ := rowPut_rowStored side s k (rg b gr).toNat b.v[vs]
    obtain ⟨-, -, hrows, hscales⟩ := settleTile_spec (setDirty (rowPut side s k (rg b gr).toNat b.v[vs]) k) k .ready
    refine ⟨_, ?_, f1, f2, f3, f4, f5, fun hl => ?_, f6, fun hj hc => ?_⟩
    · rw [exec_rowAccess (he s) hr hv, hb, settle_ok, hn]
      rfl
    · have hops : (rowPut side s k (rg b gr).toNat b.v[vs]).ops = s.ops := by rw [he1]
      refine settleTile_base .ready (fun e => hi (hst.symm.trans e)) (fun o ho => hl o ?_) fun o ho => (hf o ?_).1
      · exact hops ▸ ho
      · exact hops ▸ ho
    · exact rowPut_rows hj hc side (rg b gr).toNat b.v[vs] hrows hscales

end Sys2Proof.Machine


namespace Sys2Proof.Machine

/-! SUPPORT. MFC, MTC and the plain control registers (R37, R38, R258, R262, R268, R270, R271, R277, R298, R301, R304). -/

theorem privReg_code (n : Nat) : (privReg n).code ≠ waitCode := show (0x02 : Byte) ≠ waitCode by decide

theorem privReg_number (n : BitVec 12) : privReg n.toNat = { code := 0x02, addr := n.setWidth 64 } := by
  have h : BitVec.ofNat 64 n.toNat = n.setWidth 64 := BitVec.eq_of_toNat_eq (by simp)
  rw [privReg, h]

theorem instrBytes_mfc (r : GReg) (n : BitVec 12) : instrBytes (.mfc r n) = 4 :=
  instrBytes_word rfl (by decide) (by have := n.isLt; simp only [at21]; omega)

theorem instrBytes_mtc (r : GReg) (n : BitVec 12) : instrBytes (.mtc r n) = 4 :=
  instrBytes_word rfl (by decide) (by have := n.isLt; simp only [at21]; omega)

/-! ### What the two instructions do with a number -/

theorem mfcBody_undefined {r : GReg} {n : BitVec 12} {b : Bank} {s : State} (h : regRings s.var n.toNat = none) :
    mfcBody r n .core b s = .exc (undefExc (.mfc r n)) b s := by
  simp only [mfcBody, h]

theorem mfcBody_refused {r : GReg} {n : BitVec 12} {b : Bank} {s : State} {rr : Nat} {wr : Option Nat}
    (h : regRings s.var n.toNat = some (rr, wr)) (hr : rr < (ringOf b).toNat) : mfcBody r n .core b s = .exc (privReg n.toNat) b s := by
  simp only [mfcBody, h, if_pos hr]

theorem mfcBody_reads {r : GReg} {n : BitVec 12} {b : Bank} {s : State} {rr : Nat} {wr : Option Nat}
    (h : regRings s.var n.toNat = some (rr, wr)) (hr : (ringOf b).toNat ≤ rr) :
    mfcBody r n .core b s = .ok (wg b r (regRead n.toNat b s)) s := by
  simp only [mfcBody, h, if_neg (Nat.not_lt.2 hr)]

theorem mtcBody_undefined {r : GReg} {n : BitVec 12} {b : Bank} {s : State} (h : regRings s.var n.toNat = none) :
    mtcBody r n .core b s = .exc (undefExc (.mtc r n)) b s := by
  simp only [mtcBody, mtcValue, h]

theorem mtcBody_fixed {r : GReg} {n : BitVec 12} {b : Bank} {s : State} {rr : Nat} (h : regRings s.var n.toNat = some (rr, none)) :
    mtcBody r n .core b s = if rr < (ringOf b).toNat then .exc (privReg n.toNat) b s else .ok b s := by
  simp only [mtcBody, mtcValue, h]

theorem mtcBody_writable {r : GReg} {n : BitVec 12} {b : Bank} {s : State} {rr wr : Nat} (h : regRings s.var n.toNat = some (rr, some wr)) :
    mtcBody r n .core b s = if wr < (ringOf b).toNat then .exc (privReg n.toNat) b s else regWrite n.toNat (rg b r) b s := by
  simp only [mtcBody, mtcValue, h]

/-- A write of a register that is neither banked nor one of those with effects of their own (R38). -/
theorem regWrite_plain {n : BitVec 12} {v : W64} {b : Bank} {s : State} (hb : bankedReg n.toNat = false) (h1 : n ≠ 0x30) (h2 : n ≠ 0x32)
    (h3 : n ≠ 0x50) : regWrite n.toNat v b s = .ok (curBank (regPlain n.toNat v s)) (regPlain n.toNat v s) := by
  have hne {m : BitVec 12} (h : n ≠ m) : n.toNat ≠ m.toNat := fun e => h (BitVec.eq_of_toNat_eq e)
  have h1 : n.toNat ≠ 0x30 := hne h1
  have h2 : n.toNat ≠ 0x32 := hne h2
  have h3 : n.toNat ≠ 0x50 := hne h3
  simp only [regWrite, hb, Bool.false_eq_true, if_false, h1, h2, h3]

/-- A write of BANKWIN without an action (R292). -/
theorem bankwinWrite_select {v : W64} {b : Bank} {s : State} (h : fieldN v 4 2 = 0) :
    bankwinWrite v b s = .ok b { s with c := { s.c with bankwin := Fin.ofNat 4 (fieldN v 1 0) } } := by
  simp only [bankwinWrite, h]

/-- A write of BANKDIRTY clears bits of the window bank (R294). -/
theorem regWrite_dirty (v : W64) (b : Bank) (s : State) : regWrite 0x32 v b s =
    if s.c.bankwin = s.c.cur then .ok { b with dirty := b.dirty &&& ~~~ v.setWidth 41 } s
    else .ok b (setBank s s.c.bankwin { s.banks[s.c.bankwin] with dirty := s.banks[s.c.bankwin].dirty &&& ~~~ v.setWidth 41 }) := by
  have h : regWrite 0x32 v b s = .ok (putWin b s { winBank b s with dirty := (winBank b s).dirty &&& ~~~ v.setWidth 41 }).1
      (putWin b s { winBank b s with dirty := (winBank b s).dirty &&& ~~~ v.setWidth 41 }).2 := rfl
  rw [h]
  by_cases hw : s.c.bankwin = s.c.cur
  · simp only [putWin, winBank, if_pos hw]
  · simp only [putWin, winBank, if_neg hw]

/-- A write of RULED that leaves EN as it is (R206). -/
theorem regWrite_ruled {v : W64} {b : Bank} {s : State} (h : bit v 0 = s.c.ruledEn) :
    regWrite 0x50 v b s = .ok b { s with c := { s.c with ruledSched := bit v 1 } } :=
  show ruledWrite v b s = _ from if_pos h

/-! ### The plain registers -/

/-- The numbers of the plain registers. -/
def plainNumbers : List Nat :=
  [0x10, 0x11, 0x12, 0x13, 0x14, 0x15, 0x16, 0x17, 0x1A, 0x1B, 0x1C, 0x1D, 0x1E, 0x1F, 0x33, 0x34, 0x35, 0x36, 0x37]

/-- The plain registers, in the order of their numbers. -/
def plainRegs (s : State) : List W64 :=
  [s.c.vtbase, s.c.xpc, s.c.xfl, s.c.xcause, s.c.xaddr, s.c.dfstack, s.c.sysentry, s.c.sysstack, s.c.gatebase, s.c.holdmax, s.c.cxpc, s.c.cxfl,
    s.c.cxcause, s.c.cxaddr, s.c.schedctl, s.c.svmprog, s.c.boventry, s.c.bovrpc, s.c.bovrfl]

theorem plainRegs_read (b : Bank) (s : State) : plainNumbers.map (fun n => regRead n b s) = plainRegs s := rfl

/-- A write of a plain register replaces that one. -/
theorem plainRegs_write (v : W64) (s : State) (i : Fin 19) : ∃ x, plainRegs (regPlain plainNumbers[i] v s) = (plainRegs s).set i x := by
  fin_cases i <;> exact ⟨_, rfl⟩

/-- A write of a plain register leaves the others (R38). -/
theorem plain_others {n m : Nat} (hn : n ∈ plainNumbers) (hm : m ∈ plainNumbers) (h : n ≠ m) (v : W64) (b : Bank) (s : State) :
    regRead m b (regPlain n v s) = regRead m b s := by
  obtain ⟨i, hi, rfl⟩ := List.mem_iff_getElem.1 hn
  obtain ⟨j, hj, rfl⟩ := List.mem_iff_getElem.1 hm
  have hij : i ≠ j := fun e => h (by subst e; rfl)
  obtain ⟨x, hx⟩ := plainRegs_write v s ⟨i, hi⟩
  have hr (t : State) : (plainRegs t)[j]? = some (regRead plainNumbers[j] b t) := by
    rw [← plainRegs_read b t, List.getElem?_map, List.getElem?_eq_getElem hj]
    rfl
  have he := hr (regPlain plainNumbers[i] v s)
  rw [show plainRegs (regPlain plainNumbers[i] v s) = (plainRegs s).set i x from hx, List.getElem?_set_ne hij, hr s] at he
  exact (Option.some.inj he).symm

/-- A bit placed at 16 leaves the lower ones 0. -/
theorem placeB_below {b : Bool} {i k : Nat} (h : i < k) : (placeB 64 b k).getLsbD i = false := by
  cases b with
  | false => exact BitVec.getLsbD_zero
  | true =>
    refine (getLsbD_place 64 1 k i).trans ?_
    rw [decide_eq_false (p := k ≤ i) (by omega), Bool.and_false, Bool.false_and]

theorem holdmax_reads (v : W64) : fieldN (holdmaxNext v) 12 0 = min 4096 (v.toNat % 8192) := by
  have hm : min 4096 (v.toNat % 8192) < 2 ^ 13 := by omega
  refine Nat.eq_of_testBit_eq fun i => ?_
  rw [fieldN, Nat.testBit_mod_two_pow, Nat.testBit_shiftRight, Nat.zero_add]
  change (decide (i < 13) && (holdmaxNext v).getLsbD i) = _
  by_cases hi : i < 13
  · rw [holdmaxNext, BitVec.getLsbD_or, getLsbD_place, placeB_below (by omega), decide_eq_true hi, decide_eq_true (p := i < 64) (by omega)]
    simp only [Nat.zero_le, decide_true, Bool.true_and, Bool.or_false, Nat.sub_zero]
    rfl
  · rw [Nat.testBit_lt_two_pow (hm.trans_le (Nat.pow_le_pow_right (by decide) (by omega))), decide_eq_false hi, Bool.false_and]

/-- Settles O23: the number decides the body; the plain registers are a list of which a write replaces one. -/
theorem controlRegisterAccess : Obligations.ControlRegisterAccess := by
  unfold Obligations.ControlRegisterAccess
  refine ⟨fun r n s => ⟨fun hr => ⟨fun h => ?mfcUndefined, fun rr wr h => ⟨fun hp => ?mfcRefused, fun hp => ?mfcReads⟩⟩,
    fun hr => ⟨fun h => ?mtcUndefined, fun rr h => ⟨fun hp => ?fixedRefused, fun hp => ?fixedIgnored⟩,
      fun rr wr h => ⟨fun hp => ?mtcRefused, fun hp => ?mtcWrites⟩⟩⟩, fun v b s => ?plain⟩
  case mfcUndefined => exact exec_exc_at_once rfl hr (mfcBody_undefined h) (undefExc_code _)
  case mfcRefused =>
    rw [← privReg_number]
    exact exec_exc_at_once rfl hr (mfcBody_refused h hp) (privReg_code _)
  case mfcReads =>
    exact ⟨_, exec_ok rfl hr (instrBytes_mfc r n) (mfcBody_reads h hp), rfl, wg_get_same _ _ _, keepsG_wg _ _ _, rfl, rfl⟩
  case mtcUndefined => exact exec_exc_at_once rfl hr (mtcBody_undefined h) (undefExc_code _)
  case fixedRefused =>
    rw [← privReg_number]
    exact exec_exc_at_once rfl hr ((mtcBody_fixed h).trans (if_pos hp)) (privReg_code _)
  case fixedIgnored => exact exec_ok rfl hr (instrBytes_mtc r n) ((mtcBody_fixed h).trans (if_neg (Nat.not_lt.2 hp)))
  case mtcRefused =>
    rw [← privReg_number]
    exact exec_exc_at_once rfl hr ((mtcBody_writable h).trans (if_pos hp)) (privReg_code _)
  case mtcWrites =>
    have hw {b' : Bank} {s' : State} (hx : regWrite n.toNat (rg (curBank s) r) (curBank s) s = .ok b' s') :
        exec (.mtc r n) s = .next (after s' { b' with pc := (curBank s).pc + 4 }) :=
      exec_ok rfl hr (instrBytes_mtc r n) (((mtcBody_writable h).trans (if_neg (Nat.not_lt.2 hp))).trans hx)
    refine ⟨fun hb => ⟨_, hw (if_pos hb), rfl⟩, fun hb h1 h2 h3 => hw (regWrite_plain hb h1 h2 h3), fun h1 hv => ?select, fun h2 hc => ?otherDirty,
      fun h2 hc => ?ownDirty, fun h3 hv => ?ruled⟩
    case select =>
      subst h1
      exact hw (bankwinWrite_select hv)
    case otherDirty =>
      subst h2
      exact hw ((regWrite_dirty ..).trans (if_neg hc))
    case ownDirty =>
      subst h2
      exact hw ((regWrite_dirty ..).trans (if_pos hc))
    case ruled =>
      subst h3
      exact hw (regWrite_ruled hv)
  case plain =>
    refine ⟨?_, ?_, rfl, rfl, ?_, ?_, rfl, rfl, holdmax_reads v, fun n hn m hm h => plain_others hn hm h v b s⟩
    · simp only [List.forall_mem_cons]
      exact ⟨rfl, rfl, rfl, rfl, rfl, rfl, rfl, rfl, rfl, nofun⟩
    · exact congrArg (v &&& ·) (show maskBits 64 55 11 ||| 1 = (0x00FFFFFFFFFFF801 : W64) by decide)
    · exact congrArg (v &&& ·) (show maskBits 64 11 0 ||| maskBits 64 55 12 ||| maskBits 64 63 63 = (0x80FFFFFFFFFFFFFF : W64) by decide)
    · exact congrArg (v &&& ·) (show maskBits 64 6 0 ||| maskBits 64 17 8 ||| maskBits 64 31 20 = (0xFFF3FF7F : W64) by decide)

end Sys2Proof.Machine


namespace Sys2Proof.Machine

/-! SUPPORT. What leaves FL and SSP of the banks, and the windows that an entry may restore, as they are (R33, R265, R285,
  R287): `State.bankView`. The lemma
`f_bankView` says it of the function `f` of the model; for an answer that carries a state it speaks of that state. They go along the branches of each
`f`, as the lemmas `f_kept` of the queue and the variant do. What does write FL, SSP or a window of an entry has no lemma here: see the legal states
below. -/

/-- What decides whether the flags and the shadow stacks are legal: FL and SSP of each bank, and the windows that an entry may restore. -/
def State.bankView (s : State) : Vector (W64 × W64) 4 × Option EntryWin × Option Fresh := (s.banks.map fun b => (b.fl, b.ssp), s.c.entry, s.c.fresh)

theorem State.bankView_pair (s : State) : (s.banks.map fun b => (b.fl, b.ssp), s.c.entry, s.c.fresh) = s.bankView := rfl

theorem State.bankView_mk (var freeCtr pending stall banks c tiles nib ops nextOp bd ink inkBad inkZeroing sq scribes rings lastRing placed vellum
    vellumBad vellumZeroing mem memBad ca tal mir err qu upd port tlbiRx tlbiOut win dbg test cfg dom heldOff heldRet pset) :
    State.bankView (State.mk var freeCtr pending stall banks c tiles nib ops nextOp bd ink inkBad inkZeroing sq scribes rings lastRing placed vellum
      vellumBad vellumZeroing mem memBad ca tal mir err qu upd port tlbiRx tlbiOut win dbg test cfg dom heldOff heldRet pset) =
      (banks.map fun b => (b.fl, b.ssp), c.entry, c.fresh) :=
  rfl

/-- A fold keeps what each of its steps keeps. -/
theorem foldl_bankView {α : Type} (f : State → α → State) (hf : ∀ s a, (f s a).bankView = s.bankView) (l : List α) (s : State) :
    (l.foldl f s).bankView = s.bankView :=
  foldl_keeps (fun t => t.bankView = s.bankView) f (fun t a h => (hf t a).trans h) l s rfl

/-! ### Configuration constants, and physical memory: the vellum, the memory behind the fabric, the caches and the store buffer as the agents see
them -/

theorem disarm_bankView (s : State) : (disarm s).bankView = s.bankView := rfl

theorem plant_bankView (s : State) (unit : Byte) (kind : Nat) : (plant s unit kind).bankView = s.bankView := rfl

theorem clearSpot_bankView (s : State) (unit : Byte) (loc : Nat) : (clearSpot s unit loc).bankView = s.bankView := rfl

theorem injVellum_bankView (s : State) (o n : Nat) : (injVellum s o n).bankView = s.bankView := by
  simp only [injVellum, ↓State.bankView_mk, State.bankView_pair, apply_ite State.bankView, ite_self, ↓plant_bankView]

theorem freshVellum_bankView (s : State) (o n : Nat) : (freshVellum s o n).bankView = s.bankView := rfl

theorem writeVellum_bankView (s : State) (o : Nat) (bs : List Byte) : (writeVellum s o bs).bankView = s.bankView := by
  simp only [writeVellum, ↓State.bankView_mk, State.bankView_pair, ↓freshVellum_bankView, ↓injVellum_bankView]

theorem writeMem_bankView (s : State) (pa : Nat) (bs : List Byte) : (writeMem s pa bs).bankView = s.bankView := rfl

theorem putMemLine_bankView (s : State) (la : BitVec 50) (poison : Bool) (d : LineWord) : (putMemLine s la poison d).bankView = s.bankView := by
  simp only [putMemLine, ↓State.bankView_mk, State.bankView_pair, apply_ite State.bankView, ite_self, ↓writeMem_bankView]

theorem dropInner_bankView (s : State) (la : BitVec 50) : (dropInner s la).bankView = s.bankView := rfl

theorem setL2Line_bankView (s : State) (k : Nat) (l : L2Line) (dws : List Nat) : (setL2Line s k l dws).bankView = s.bankView := by
  have clears (s : State) : (dws.foldl (fun s d => clearSpot s 0x04 (l2Loc k d)) s).bankView = s.bankView :=
    foldl_bankView _ (fun s d => clearSpot_bankView s 0x04 (l2Loc k d)) dws s
  simp only [setL2Line]
  split <;> simp only [↓State.bankView_mk, State.bankView_pair, apply_ite State.bankView, ite_self, clears, ↓plant_bankView]

theorem flushL1d_bankView (s : State) (la : BitVec 50) : (flushL1d s la).bankView = s.bankView := by
  unfold flushL1d
  split
  · rfl
  · dsimp only
    split
    · split
      · exact setL2Line_bankView ..
      · exact putMemLine_bankView ..
    · rfl

theorem unbuffer_bankView (s : State) (la : BitVec 50) : (unbuffer s la).bankView = s.bankView := rfl

theorem evictL2_bankView (s : State) (la : BitVec 50) : (evictL2 s la).bankView = s.bankView := by
  dsimp only [evictL2]
  split <;> simp only [↓State.bankView_mk, State.bankView_pair, apply_ite State.bankView, ite_self, ↓putMemLine_bankView, ↓flushL1d_bankView,
    ↓dropInner_bankView]

theorem touchL2_bankView (s : State) (k : Nat) : (touchL2 s k).bankView = s.bankView := rfl

theorem touchHit_bankView (s : State) (la : BitVec 50) : (touchHit s la).bankView = s.bankView := by
  unfold touchHit
  split <;> simp only [↓touchL2_bankView]

theorem bringL2_bankView (s : State) (la : BitVec 50) (own : Bool) : (bringL2 s la own).bankView = s.bankView := by
  dsimp only [bringL2]
  repeat' split
  all_goals simp only [↓State.bankView_mk, State.bankView_pair, ↓setL2Line_bankView, ↓evictL2_bankView, ↓unbuffer_bankView, ↓touchL2_bankView]

theorem fillL2_bankView (s : State) (la : BitVec 50) (own : Bool) : (fillL2 s la own).bankView = s.bankView := by
  simp only [fillL2, apply_ite State.bankView, ite_self, ↓dropInner_bankView, ↓bringL2_bankView]

theorem writeLine_bankView (s : State) (pa : Nat) (bs : List Byte) : (writeLine s pa bs).bankView = s.bankView := by
  dsimp only [writeLine]
  split <;> simp only [↓writeMem_bankView, ↓setL2Line_bankView, ↓touchL2_bankView, ↓flushL1d_bankView, ↓dropInner_bankView]

theorem cohWrite_bankView (s : State) (pa : Nat) (bs : List Byte) : (cohWrite s pa bs).bankView = s.bankView := by
  simp only [cohWrite, apply_ite State.bankView, ite_self, foldl_bankView, implies_true, ↓writeLine_bankView, ↓writeVellum_bankView]

theorem rawWrite_bankView (s : State) (pa : Nat) (bs : List Byte) : (rawWrite s pa bs).bankView = s.bankView := by
  simp only [rawWrite, apply_ite State.bankView, ite_self, ↓writeMem_bankView, ↓writeVellum_bankView]

theorem typedWrite_bankView (s : State) (ag : Agent) (ty : MType) (pa : Nat) (bs : List Byte) : (typedWrite s ag ty pa bs).bankView = s.bankView := by
  simp only [typedWrite, apply_ite State.bankView, ite_self, foldl_bankView, implies_true, ↓cohWrite_bankView, ↓evictL2_bankView, ↓rawWrite_bankView]

/-! ### The fast domains: presence, use, and the handshakes of clocks and power -/

theorem setDom_bankView (s : State) (d : Fin 32) (x : Dom) : (setDom s d x).bankView = s.bankView := rfl

theorem wakeRequest_bankView (s : State) (d : Fin 32) : (wakeRequest s d).bankView = s.bankView := by
  simp only [wakeRequest, apply_ite State.bankView, ite_self, ↓setDom_bankView]

/-! ### The mirrored ranges, their granules, the maps of changed granules, and the granules that a running commit holds -/

theorem setMapBit_bankView (s : State) (gen v : Bool) (g : Nat) : (setMapBit s gen v g).bankView = s.bankView := rfl

theorem markDirty_bankView (s : State) (pa n : Nat) : (markDirty s pa n).bankView = s.bankView := by
  unfold markDirty
  split
  · exact foldl_bankView _ (fun s g => (setMapBit_bankView (setMapBit s false true g) true true g).trans (setMapBit_bankView s false true g)) _ s
  · rfl

theorem askGranules_bankView (s : State) (gs : List Nat) : (askGranules s gs).bankView = s.bankView := by
  unfold askGranules
  split <;> simp only [↓State.bankView_mk, State.bankView_pair]

/-! ### Interrupt pending bits, error records and their posting, what a read of the stores meets, and the writes of the core's own agents -/

theorem setPending_bankView (s : State) (v : Byte) (on : Bool) : (setPending s v on).bankView = s.bankView := rfl

theorem pend_bankView (s : State) (v : Byte) : (pend s v).bankView = s.bankView := by
  simp only [pend, ↓setPending_bankView, ↓wakeRequest_bankView]

theorem draw_bankView (w : Nat) (s : State) : (draw w s).2.bankView = s.bankView := rfl

theorem setErrLast_bankView (s : State) (r : BitVec 256) : (setErrLast s r).bankView = s.bankView := rfl

theorem driveLine_bankView (s : State) (sev : Nat) : (driveLine s sev).bankView = s.bankView := by
  simp only [driveLine, ↓State.bankView_mk, State.bankView_pair, ↓pend_bankView]

theorem noteCheck_bankView (s : State) (unit : Byte) (sev : Nat) (loc : W64) : (noteCheck s unit sev loc).bankView = s.bankView := by
  simp only [noteCheck, ↓State.bankView_mk, State.bankView_pair, apply_ite State.bankView, ite_self]

theorem postRecord_bankView (s : State) (cls unit : Byte) (sev : BitVec 2) (loc : W64) (synd : BitVec 24) (inj : Bool) (extra : BitVec 16) :
    (postRecord s cls unit sev loc synd inj extra).bankView = s.bankView := by
  simp only [postRecord, ↓State.bankView_mk, State.bankView_pair, apply_ite State.bankView, ite_self, ↓setErrLast_bankView, ↓noteCheck_bankView,
    ↓driveLine_bankView]

theorem freeClass_bankView (s : State) : (freeClass s).2.bankView = s.bankView := rfl

theorem postCe_bankView (s : State) (unit : Byte) (loc : Nat) (synd : Byte) (inj : Bool) : (postCe s unit loc synd inj).bankView = s.bankView := by
  simp only [postCe, ↓postRecord_bankView]

theorem postUe_bankView (s : State) (unit : Byte) (loc : Nat) (inj : Bool) : (postUe s unit loc inj).bankView = s.bankView := by
  simp only [postUe, ↓postRecord_bankView]

theorem postPoison_bankView (s : State) (unit : Byte) (loc : Nat) (inj : Bool) : (postPoison s unit loc inj).bankView = s.bankView := by
  simp only [postPoison, ↓postRecord_bankView]

theorem meetSingle_bankView (s : State) (unit : Byte) (spot loc : Nat) : (meetSingle s unit spot loc).bankView = s.bankView := by
  simp only [meetSingle, apply_ite State.bankView, ite_self, ↓clearSpot_bankView, ↓postCe_bankView]

theorem discardLine_bankView (s : State) (la : BitVec 50) : (discardLine s la).bankView = s.bankView := by
  dsimp only [discardLine]
  repeat' split
  all_goals simp only [↓State.bankView_mk, State.bankView_pair, ↓dropInner_bankView]

theorem doubleBitL2_bankView (s : State) (k : Nat) : (doubleBitL2 s k).bankView = s.bankView := by
  unfold doubleBitL2
  split <;> simp only [↓State.bankView_mk, State.bankView_pair, apply_ite State.bankView, ite_self, ↓discardLine_bankView]

theorem meetL2_bankView (s : State) (k d : Nat) : (meetL2 s k d).bankView = s.bankView := by
  simp only [meetL2, apply_ite State.bankView, ite_self, ↓meetSingle_bankView, ↓clearSpot_bankView, ↓doubleBitL2_bankView, ↓postUe_bankView]

theorem meetSpot_bankView (s : State) (w : Nat) :
    (match l2Find s (lineNo (8 * w)) with
      | some (k, _) => meetL2 s k (w % 8)
      | none => s).bankView = s.bankView := by
  split
  · exact meetL2_bankView ..
  · rfl

theorem meetSpots_bankView (s : State) (coh : Bool) (pa n : Nat) : (meetSpots s coh pa n).bankView = s.bankView := by
  unfold meetSpots
  split
  · rfl
  split
  · exact foldl_bankView _ (fun s w => meetSingle_bankView s 0x0B (8 * w) (8 * w)) _ s
  split
  · exact foldl_bankView _ meetSpot_bankView _ s
  · rfl

theorem postLine_bankView (s : State) (coh : Bool) (pa : Nat) (la : BitVec 50) : (postLine s coh pa la).bankView = s.bankView := by
  unfold postLine
  split <;> simp only [↓postPoison_bankView]

theorem postBad_bankView (s : State) (coh : Bool) (pa n : Nat) : (postBad s coh pa n).bankView = s.bankView := by
  simp only [postBad, apply_ite State.bankView, ite_self, foldl_bankView, implies_true, ↓postLine_bankView, ↓postUe_bankView]

theorem readCheck_bankView (s : State) (coh : Bool) (pa n : Nat) : (readCheck s coh pa n).1.bankView = s.bankView := by
  dsimp only [readCheck]
  split <;> simp only [↓postBad_bankView, ↓meetSpots_bankView]

theorem meetMerge_bankView (s : State) (o n : Nat) : (meetMerge s o n).bankView = s.bankView := by
  simp only [meetMerge, apply_ite State.bankView, ite_self, foldl_bankView, implies_true, ↓meetSingle_bankView, ↓postUe_bankView]

theorem notePort_bankView (s : State) (ag : Agent) (p : PortNum) : (notePort s ag p).bankView = s.bankView := rfl

theorem noteFabricWrite_bankView (s : State) (ag : Agent) (pa n : Nat) : (noteFabricWrite s ag pa n).bankView = s.bankView :=
  foldl_bankView _ (notePort_bankView · ag ·) _ s

theorem agentWrite_bankView (s : State) (ag : Agent) (ty : MType) (pa : Nat) (bs : List Byte) : (agentWrite s ag ty pa bs).bankView = s.bankView := by
  simp only [agentWrite, apply_ite State.bankView, ite_self, ↓noteFabricWrite_bankView, ↓typedWrite_bankView, ↓markDirty_bankView,
    ↓meetMerge_bankView]

/-! ### Address translation: canonical addresses, the walk, the rights, the translation caches and their invalidation -/

theorem setTlb_bankView (s : State) (sel : TlbSel) (l : List TlbEntry) : (setTlb s sel l).bankView = s.bankView := by
  unfold setTlb
  split <;> simp only [↓State.bankView_mk, State.bankView_pair]

theorem installIn_bankView (s : State) (sel : TlbSel) (e : TlbEntry) (va : W64) : (installIn s sel e va).bankView = s.bankView := by
  unfold installIn
  split <;> simp only [↓setTlb_bankView]

theorem installL2_bankView (s : State) (e : TlbEntry) (va : W64) : (installL2 s e va).bankView = s.bankView := rfl

theorem walkCacheAdd_bankView (s : State) (asid : BitVec 16) (level : Nat) (va d : W64) : (walkCacheAdd s asid level va d).bankView = s.bankView := by
  simp only [walkCacheAdd, ↓State.bankView_mk, State.bankView_pair, apply_ite State.bankView, ite_self]

theorem walkRead_bankView (s : State) (a : Nat) (ty : BitVec 2) : (walkRead s a ty).1.bankView = s.bankView := by
  grind [walkRead, fillL2_bankView, !readCheck_bankView]

theorem walkWrite_bankView (s : State) (a : Nat) (ty : BitVec 2) (d : W64) : (walkWrite s a ty d).bankView = s.bankView := by
  simp only [walkWrite, ↓agentWrite_bankView]

theorem walkFrom_bankView (ak : Ak) (ring : BitVec 2) (ttb va : W64) (level table : Nat) (ty : BitVec 2) (s : State) (n : Nat) :
    (walkState (walkFrom ak ring ttb va level table ty s n)).bankView = s.bankView := by
  induction n generalizing level table ty s with
  | zero => rfl
  | succ n ih =>
    have hr := walkRead_bankView s (descAddr table level va) ty
    unfold walkFrom
    split
    · rfl
    dsimp only
    split
    · next h => rw [h] at hr; exact hr
    · next s1 d h =>
      rw [h] at hr
      split
      · exact hr
      · exact (ih ..).trans ((walkCacheAdd_bankView ..).trans hr)
      · split
        · exact hr
        split
        · exact (walkWrite_bankView ..).trans hr
        · exact (askGranules_bankView ..).trans hr

theorem walk_bankView (sel : TlbSel) (ak : Ak) (ring : BitVec 2) (ttb va : W64) (s : State) :
    (walk sel ak ring ttb va s).state.bankView = s.bankView := by
  have hw (level table : Nat) (ty : BitVec 2) (n : Nat) := walkFrom_bankView ak ring ttb va level table ty s n
  unfold walk
  split
  · rfl
  dsimp only
  split
  · next h => exact (congrArg (State.bankView ∘ walkState) h).symm.trans (hw ..)
  · next h => exact (installL2_bankView ..).trans ((installIn_bankView ..).trans ((congrArg (State.bankView ∘ walkState) h).symm.trans (hw ..)))

theorem translate_bankView (sel : TlbSel) (ak : Ak) (ring : BitVec 2) (ttb va : W64) (s : State) :
    (translate sel ak ring ttb va s).state.bankView = s.bankView := by
  grind [translate, State.bankView_mk, State.bankView_pair, Tr.state, installIn_bankView, setTlb_bankView, !walk_bankView]

theorem tlbiRemove_bankView (f : TlbiForm) (s : State) : (tlbiRemove f s).bankView = s.bankView := rfl

/-! ### The shared operations of the general core: registers, taking an exception or an interrupt, double and third faults, the returns, and the
frame in which every instruction runs -/

theorem event_bankView (s : State) (r : Option State) (h : (r.getD s).bankView = s.bankView) : (outState s (event s r)).bankView = s.bankView := by
  unfold event
  split
  · rfl
  split
  · rfl
  · exact h

theorem map_bankView {α : Type} {s : State} (o : Option α) (f : α → State) (h : ∀ a, (f a).bankView = s.bankView) :
    ((o.map f).getD s).bankView = s.bankView := by
  cases o with
  | none => rfl
  | some a => exact h a

theorem bind_bankView {α : Type} {s : State} (o : Option α) (f : α → Option State) (h : ∀ a, ((f a).getD s).bankView = s.bankView) :
    ((o.bind f).getD s).bankView = s.bankView := by
  cases o with
  | none => rfl
  | some a => exact h a

theorem pinEvent_bankView (s low : State) (r : Option State) (hlow : low.bankView = s.bankView) (h : (r.getD s).bankView = s.bankView) :
    (outState s (pinEvent s low r)).bankView = s.bankView := by
  unfold pinEvent
  split
  · rfl
  split
  · exact hlow
  · exact h

theorem requestWarm_bankView (s : State) : (requestWarm s).bankView = s.bankView := rfl

theorem vecRead_bankView (s : State) (v : Byte) : (vecRead s v).1.bankView = s.bankView := by
  grind [vecRead, fillL2_bankView, !readCheck_bankView]

theorem thirdFaultOf_bankView (s : State) (pc : W64) (vec : Byte) : (thirdFaultOf s pc vec).bankView = s.bankView := by
  simp only [thirdFaultOf, ↓postRecord_bankView, ↓requestWarm_bankView]

theorem thirdFault_bankView (s : State) : (thirdFault s).bankView = s.bankView := by
  simp only [thirdFault, ↓thirdFaultOf_bankView]

theorem svmStop_bankView (s : State) (load : Bool) (i : Nat) : (svmStop s load i).bankView = s.bankView := rfl

theorem keepXfer_bankView (s : State) : (keepXfer s).bankView = s.bankView := by
  unfold keepXfer
  split <;> simp only [↓svmStop_bankView]

/-! ### Operand forms: the registers that an instruction reads, the second ALU operand, effective addresses, vector elements and masks, and the frame
of an instruction of the general core -/

/-- A body that leaves FL, SSP and the windows as they are, in every answer. -/
def BodyViews (body : Body) : Prop := ∀ k b s, (body k b s).state.bankView = s.bankView

/-! ### The ALU instructions, the wide immediates, and the arrival of long results -/

theorem aluBody_bankView (f : Alu) (rd ra : GReg) (op : Opnd) (sf wf : Bool) (k : Who) (b : Bank) (s : State) :
    (aluBody f rd ra op sf wf k b s).state.bankView = s.bankView := rfl

theorem cmpBody_bankView (ra : GReg) (op : Opnd) (wf : Bool) (k : Who) (b : Bank) (s : State) :
    (cmpBody ra op wf k b s).state.bankView = s.bankView := rfl

theorem divBody_bankView (f : Alu) (rd ra rb : GReg) (sf wf : Bool) (k : Who) (b : Bank) (s : State) :
    (divBody f rd ra rb sf wf k b s).state.bankView = s.bankView := by
  unfold divBody
  split <;> simp only [Res.state]

theorem countBody_bankView (f : Alu) (rd ra : GReg) (sf wf : Bool) (k : Who) (b : Bank) (s : State) :
    (countBody f rd ra sf wf k b s).state.bankView = s.bankView := rfl

theorem imzBody_bankView (rd : GReg) (lane : BitVec 2) (imm : BitVec 16) (k : Who) (b : Bank) (s : State) :
    (imzBody rd lane imm k b s).state.bankView = s.bankView := rfl

theorem imiBody_bankView (rd : GReg) (lane : BitVec 2) (imm : BitVec 16) (k : Who) (b : Bank) (s : State) :
    (imiBody rd lane imm k b s).state.bankView = s.bankView := rfl

/-! ### The management window as it reads -/

theorem windowMeet_bankView (s : State) (off n : Nat) : (windowMeet s off n).bankView = s.bankView := by
  simp only [windowMeet, foldl_bankView, implies_true, ↓postUe_bankView]

theorem accessCheck_bankView (s : State) (coh : Bool) (pa n : Nat) : (accessCheck s coh pa n).1.bankView = s.bankView := by
  unfold accessCheck
  split <;> simp only [↓readCheck_bankView, ↓windowMeet_bankView]

theorem aliasRefused_bankView (s : State) (pa : Nat) : (aliasRefused s pa).bankView = s.bankView := by
  simp only [aliasRefused, ↓postRecord_bankView, ↓draw_bankView]

theorem ownWrite_bankView (s : State) (ag : Agent) (ty : MType) (pa : Nat) (bs : List Byte) : (ownWrite s ag ty pa bs).bankView = s.bankView := by
  simp only [ownWrite, apply_ite State.bankView, ite_self, ↓agentWrite_bankView]

/-! ### The accesses of instructions to memory: translation of every part before any is performed, loads, stores and atomics of the core and of the
scribes -/

theorem xlate_bankView (k : Who) (ak : Ak) (b : Bank) (va : W64) (s : State) : (xlate k ak b va s).1.bankView = s.bankView := by
  grind [xlate, Tr.state, !translate_bankView]

theorem xlateAll_bankView (k : Who) (ak : Ak) (b : Bank) (s : State) (l : List Piece) : (xlateAll k ak b s l).1.bankView = s.bankView := by
  induction l generalizing s with
  | nil => rfl
  | cons p ps ih => grind [xlateAll, !xlate_bankView]

theorem prepare_bankView (k : Who) (ak : Ak) (b : Bank) (va : W64) (n : Nat) (ps : List Piece) (s : State) :
    (prepare k ak b va n ps s).1.bankView = s.bankView := by
  grind [prepare, !xlateAll_bankView]

theorem touchL1d_bankView (s : State) (k : Nat) : (touchL1d s k).bankView = s.bankView := rfl

theorem evictL1d_bankView (s : State) (k : Nat) : (evictL1d s k).bankView = s.bankView := by
  unfold evictL1d
  split <;> simp only [↓flushL1d_bankView]

theorem injFill_bankView (s : State) (unit : Byte) (loc : Nat) : (injFill s unit loc).bankView = s.bankView := by
  simp only [injFill, apply_ite State.bankView, ite_self, ↓plant_bankView, ↓clearSpot_bankView]

theorem dropL1d_bankView (s : State) (la : BitVec 50) : (dropL1d s la).bankView = s.bankView := by
  unfold dropL1d
  split <;> simp only [↓State.bankView_mk, State.bankView_pair]

theorem meetL1d_bankView (s : State) (p : Phys) : (meetL1d s p).bankView = s.bankView := by
  dsimp only [meetL1d]
  repeat' split
  all_goals simp only [↓clearSpot_bankView, ↓dropL1d_bankView, ↓postRecord_bankView]

theorem fillL1d_bankView (s : State) (la : BitVec 50) (set : BitVec 7) : (fillL1d s la set).bankView = s.bankView := by
  dsimp only [fillL1d]
  split <;> simp only [↓State.bankView_mk, State.bankView_pair, ↓touchL1d_bankView, ↓injFill_bankView, ↓evictL1d_bankView, ↓fillL2_bankView,
    ↓flushL1d_bankView]

theorem observeMiss_bankView (s : State) (la : BitVec 50) : (observeMiss s la).bankView = s.bankView := by
  dsimp only [observeMiss]
  repeat' split
  all_goals simp only [↓State.bankView_mk, State.bankView_pair]

theorem missFill_bankView (s : State) : (missFill s).bankView = s.bankView := by
  unfold missFill
  split <;> simp only [↓State.bankView_mk, State.bankView_pair, apply_ite State.bankView, ite_self, ↓fillL1d_bankView, ↓observeMiss_bankView]

theorem loadTouch_bankView (s : State) (p : Phys) : (loadTouch s p).bankView = s.bankView := by
  unfold loadTouch
  repeat' split
  all_goals simp only [↓State.bankView_mk, State.bankView_pair, ↓fillL1d_bankView, ↓touchL1d_bankView]

theorem askLine_bankView (s : State) (l : List Phys) : (askLine s l).bankView = s.bankView := by
  unfold askLine
  split <;> simp only [↓State.bankView_mk, State.bankView_pair]

theorem checkParts_bankView (k : Who) (whole : Nat) (l : List Phys) (s : State) : (checkParts k whole l s).1.bankView = s.bankView := by
  induction l generalizing s with
  | nil => rfl
  | cons p ps ih =>
    have hc := accessCheck_bankView s (cohRead? k s p.ty) p.pa p.len
    simp only [checkParts, apply_ite Prod.fst, apply_ite State.bankView, ih]
    refine ite_eq_left_iff.2 fun _ => ?_
    split
    · next h => rw [h] at hc; exact (ih _).trans hc
    · next h => rw [h] at hc; exact hc

theorem loadPhys_bankView (k : Who) (n : Nat) (acq : Bool) (s0 : State) (l : List Phys) : (loadPhys k n acq s0 l).state.bankView = s0.bankView := by
  have meets (s : State) : (l.foldl meetL1d s).bankView = s.bankView := foldl_bankView _ meetL1d_bankView l s
  have touches (s : State) : (l.foldl loadTouch s).bankView = s.bankView := foldl_bankView _ loadTouch_bankView l s
  have fills (s : State) : (l.foldl (fun s p => if p.ty = .cacheable ∧ ¬ inVellum s p.pa ∧ ¬ inAlias s p.pa then fillL2 s (lineNo p.pa) false else s)
      s).bankView = s.bankView := by
    refine foldl_bankView _ (fun s p => ?_) l s
    split
    · exact fillL2_bankView ..
    · rfl
  cases k with
  | core =>
    have hm : (if s0.err.spots.isEmpty then s0 else l.foldl meetL1d s0).bankView = s0.bankView := by
      simp only [apply_ite State.bankView, meets, ite_self]
    simp only [loadPhys]
    generalize (if s0.err.spots.isEmpty = true then s0 else l.foldl meetL1d s0) = s1 at hm ⊢
    have hc := (checkParts_bankView .core n l s1).trans hm
    split
    · exact hm
    split
    · exact (askLine_bankView ..).trans hm
    split
    · next h => rw [h] at hc; exact hc
    · next h => rw [h] at hc; exact (touches _).trans hc
  | scribe j t =>
    have hc := checkParts_bankView (.scribe j t) n l s0
    simp only [loadPhys]
    split
    · rfl
    split
    · next h => rw [h] at hc; exact hc
    · next h => rw [h] at hc; exact (fills _).trans hc

theorem loadPieces_bankView (k : Who) (b : Bank) (va : W64) (n al : Nat) (acq : Bool) (ps : List Piece) (s : State) :
    (loadPieces k b va n al acq ps s).state.bankView = s.bankView := by
  grind [loadPieces, LoadOut.state, !loadPhys_bankView, !prepare_bankView]

theorem loadBytes_bankView (k : Who) (b : Bank) (va : W64) (n al : Nat) (acq : Bool) (s : State) :
    (loadBytes k b va n al acq s).state.bankView = s.bankView := by
  unfold loadBytes
  simp only [↓loadPieces_bankView]

theorem performPart_bankView (s : State) (ag : Agent) (ty : MType) (pa : Nat) (bs : List (Option Byte)) :
    (performPart s ag ty pa bs).bankView = s.bankView := by
  unfold performPart
  split
  · exact aliasRefused_bankView s pa
  split
  · exact ownWrite_bankView ..
  · refine foldl_bankView _ (fun s p => ?_) _ s
    obtain ⟨_ | x, i⟩ := p
    · rfl
    · exact ownWrite_bankView ..

theorem scribeOwn_bankView (s : State) (p : Phys) : (scribeOwn s p).bankView = s.bankView := by
  simp only [scribeOwn, apply_ite State.bankView, ite_self, ↓fillL2_bankView]

theorem enterBuffer_bankView (m : StoreMode) (es : List SbEntry) (s : State) : (enterBuffer m es s).state.bankView = s.bankView := by
  unfold enterBuffer
  repeat' split
  all_goals simp only [↓State.bankView_mk, State.bankView_pair, StoreOut.state]

theorem storeParts_bankView (k : Who) (bs : List (Option Byte)) (l : List Phys) (s : State) :
    (l.foldl (fun s p =>
      let s := match k with
        | .core => s
        | .scribe _ _ => scribeOwn s p
      performPart s (agentOf k) p.ty p.pa (partBytes bs p)) s).bankView = s.bankView := by
  refine foldl_bankView _ (fun s p => ?_) l s
  cases k with
  | core => exact performPart_bankView ..
  | scribe _ _ => exact (performPart_bankView ..).trans (scribeOwn_bankView s p)

theorem storePhys_bankView (k : Who) (m : StoreMode) (rel : Bool) (bs : List (Option Byte)) (s1 : State) (l : List Phys) :
    (storePhys k m rel bs s1 l).state.bankView = s1.bankView := by
  have parts := storeParts_bankView k bs l s1
  unfold storePhys
  split
  · rfl
  split
  · exact aliasRefused_bankView ..
  split
  · exact enterBuffer_bankView ..
  split
  · cases k with
    | core => exact parts
    | scribe _ _ =>
      dsimp only at parts ⊢
      split <;> exact parts
  · exact askGranules_bankView ..

theorem storeRest_bankView (e : SbEntry) (s : State) : (storeRest e s).state.bankView = s.bankView := by
  unfold storeRest
  split <;> simp only [↓State.bankView_mk, State.bankView_pair, StoreOut.state]

theorem storePieces_bankView (k : Who) (b : Bank) (va : W64) (al : Nat) (vec rel : Bool) (bs : List (Option Byte)) (ps : List Piece) (s : State) :
    (storePieces k b va al vec rel bs ps s).state.bankView = s.bankView := by
  grind [storePieces, StoreOut.state, !storePhys_bankView, !prepare_bankView, !storeRest_bankView]

theorem storeBytes_bankView (k : Who) (b : Bank) (va : W64) (al : Nat) (rel : Bool) (bs : List Byte) (s : State) :
    (storeBytes k b va al rel bs s).state.bankView = s.bankView := by
  unfold storeBytes
  simp only [↓storePieces_bankView]

theorem sendTokens_bankView (s : State) : (sendTokens s).bankView = s.bankView := rfl

theorem askVisible_bankView (s : State) (ag : Agent) : (askVisible s ag).bankView = s.bankView := by
  simp only [askVisible, apply_ite State.bankView, ite_self, ↓sendTokens_bankView]

theorem awaitStores_bankView (s : State) : (awaitStores s).bankView = s.bankView := by
  simp only [awaitStores, apply_ite State.bankView, ite_self, ↓askVisible_bankView]

theorem awaitRelease_bankView (k : Who) (s : State) : (awaitRelease k s).bankView = s.bankView := by
  unfold awaitRelease
  split <;> simp only [↓askVisible_bankView, ↓awaitStores_bankView]

theorem atomReady_bankView (k : Who) (s : State) (p : Phys) : (atomReady k s p).bankView = s.bankView := by
  simp only [atomReady, apply_ite State.bankView, ite_self, ↓flushL1d_bankView, ↓fillL2_bankView]

theorem atomicOf_bankView (k : Who) (b : Bank) (va : W64) (n : Nat) (acq rel : Bool) (f : Nat → Option Nat) (s : State) :
    (atomicOf k b va n acq rel f s).state.bankView = s.bankView := by
  have hp := prepare_bankView k .atomic b va n (piecesOf va n) s
  unfold atomicOf
  split
  · rfl
  split
  · next h => rw [h] at hp; exact hp
  next s1 l h =>
  rw [h] at hp
  split
  · next p =>
    have hc := (checkParts_bankView k 0 [p] s1).trans hp
    grind [LoadOut.state, awaitRelease_bankView, askGranules_bankView, aliasRefused_bankView, atomReady_bankView, ownWrite_bankView]
  · exact hp

/-! ### Scalar and vector loads and stores, acquire and release, the atomics, the repeat prefixes, and the draining of the store buffer -/

theorem loadOnce_bankView (k : Who) (rd : GReg) (a : SAddr) (sz : BitVec 3) (b : Bank) (s : State) :
    (loadOnce k rd a sz b s).state.bankView = s.bankView := by
  grind [loadOnce, LoadOut.state, Res.state, !loadBytes_bankView]

theorem storeOnce_bankView (k : Who) (rs : GReg) (a : SAddr) (sz : BitVec 3) (b : Bank) (s : State) :
    (storeOnce k rs a sz b s).state.bankView = s.bankView := by
  grind [storeOnce, Res.state, StoreOut.state, !storeBytes_bankView]

theorem vloadOnce_bankView (k : Who) (v : VReg) (a : VAddr) (mk : Option MReg) (w : BitVec 2) (b : Bank) (s : State) :
    (vloadOnce k v a mk w b s).state.bankView = s.bankView := by
  grind [vloadOnce, LoadOut.state, Res.state, !loadPieces_bankView]

theorem vstoreOnce_bankView (k : Who) (v : VReg) (a : VAddr) (mk : Option MReg) (w : BitVec 2) (b : Bank) (s : State) :
    (vstoreOnce k v a mk w b s).state.bankView = s.bankView := by
  grind [vstoreOnce, Res.state, StoreOut.state, !storePieces_bankView]

theorem ldaBody_bankView (rd ga : GReg) (sz : BitVec 3) (k : Who) (b : Bank) (s : State) : (ldaBody rd ga sz k b s).state.bankView = s.bankView := by
  grind [ldaBody, LoadOut.state, Res.state, !loadBytes_bankView]

theorem stlBody_bankView (rs ga : GReg) (sz : BitVec 3) (k : Who) (b : Bank) (s : State) : (stlBody rs ga sz k b s).state.bankView = s.bankView := by
  grind [stlBody, Res.state, StoreOut.state, !storeBytes_bankView, awaitRelease_bankView]

theorem casBody_bankView (rd ga rb rc : GReg) (d a l : Bool) (k : Who) (b : Bank) (s : State) :
    (casBody rd ga rb rc d a l k b s).state.bankView = s.bankView := by
  grind [casBody, LoadOut.state, Res.state, !atomicOf_bankView]

theorem aaddBody_bankView (rd ga rb : GReg) (d a l : Bool) (k : Who) (b : Bank) (s : State) :
    (aaddBody rd ga rb d a l k b s).state.bankView = s.bankView := by
  grind [aaddBody, LoadOut.state, Res.state, !atomicOf_bankView]

theorem governedOnce_bankView (k : Who) (x1' : Governed) (b : Bank) (s : State) : (governedOnce k x1' b s).state.bankView = s.bankView := by
  unfold governedOnce
  repeat' split
  all_goals simp only [Res.state, ↓vstoreOnce_bankView, ↓vloadOnce_bankView, ↓storeOnce_bankView, ↓loadOnce_bankView]

theorem repnCheck_bankView (k : Who) (ak : Ak) (b : Bank) (l : List (W64 × Nat)) (s : State) : (repnCheck k ak b l s).1.bankView = s.bankView := by
  induction l generalizing s with
  | nil => rfl
  | cons p l ih =>
    obtain ⟨va, n⟩ := p
    grind [repnCheck, !prepare_bankView]

theorem cleanPoison_bankView (s : State) (la : BitVec 50) : (cleanPoison s la).bankView = s.bankView := by
  unfold cleanPoison
  split <;> simp only [↓State.bankView_mk, State.bankView_pair]

theorem performEntry_bankView (s : State) (e : SbEntry) : (performEntry s e).bankView = s.bankView := by
  dsimp only [performEntry]
  repeat' split
  all_goals simp only [↓State.bankView_mk, State.bankView_pair, ↓performPart_bankView, ↓markDirty_bankView, ↓touchL1d_bankView,
    ↓cleanPoison_bankView, ↓fillL2_bankView]

theorem drainFree_bankView (s : State) (e : SbEntry) (rest : List SbEntry) : (drainFree s e rest).bankView = s.bankView := by
  simp only [drainFree, ↓State.bankView_mk, State.bankView_pair, apply_ite State.bankView, ite_self, ↓performEntry_bankView, ↓fillL1d_bankView]

theorem drainNow_bankView (s : State) : (drainNow s).bankView = s.bankView := by
  unfold drainNow
  split <;> simp only [apply_ite State.bankView, ite_self, ↓drainFree_bankView]

theorem drainHead_bankView (s : State) : (drainHead s).bankView = s.bankView := by
  unfold drainHead
  split <;> simp only [↓State.bankView_mk, State.bankView_pair, apply_ite State.bankView, ite_self, ↓askGranules_bankView, ↓drainNow_bankView]

theorem drainAll_bankView (n : Nat) (s : State) : (drainAll n s).1.bankView = s.bankView := by
  induction n generalizing s with
  | zero => rfl
  | succ n ih => grind [drainAll, askGranules_bankView, drainNow_bankView, missFill_bankView, drainHead_bankView]

theorem repnTry_bankView (k : Who) (g : Governed) (s0 : State) (b : Bank) (n : Nat) (s : State) (h : s.bankView = s0.bankView) :
    (repnTry k g s0 b n s).state.bankView = s0.bankView := by
  induction n generalizing s with
  | zero => rfl
  | succ n ih => grind [repnTry, Res.state, State.bankView_mk, State.bankView_pair, !governedOnce_bankView, !drainAll_bankView, missFill_bankView]

theorem repnLoop_bankView (k : Who) (g : Governed) (s0 : State) (n : Nat) (b : Bank) (s : State) (h : s.bankView = s0.bankView) :
    (repnLoop k g s0 n b s).state.bankView = s0.bankView := by
  induction n generalizing b s with
  | zero => exact h
  | succ n ih => grind [repnLoop, Res.state, !repnTry_bankView]

theorem repnBody_bankView (n : BitVec 6) (g : Governed) (k : Who) (b : Bank) (s : State) : (repnBody n g k b s).state.bankView = s.bankView := by
  unfold repnBody
  cases g <;>
    grind [Res.state, !repnCheck_bankView, !repnLoop_bankView]

theorem execStoreBufferDrain_bankView (s : State) : (outState s (execStoreBufferDrain s)).bankView = s.bankView := by
  refine event_bankView s _ ?_
  simp only [Option.getD_some, ↓drainHead_bankView]

/-! ### Branches, calls and returns with their two stacks -/

theorem bBody_bankView (off : BitVec 26) (k : Who) (b : Bank) (s : State) : (bBody off k b s).state.bankView = s.bankView := rfl

theorem bCondBody_bankView (cond : BitVec 4) (off : BitVec 22) (k : Who) (b : Bank) (s : State) :
    (bCondBody cond off k b s).state.bankView = s.bankView := by
  unfold bCondBody
  split <;> simp only [Res.state]

theorem brBody_bankView (ra : GReg) (k : Who) (b : Bank) (s : State) : (brBody ra k b s).state.bankView = s.bankView := by
  grind [brBody, Res.state]

theorem stackPair_bankView (k : Who) (akM akS : Ak) (b : Bank) (ms ss : W64) (s : State) :
    (stackPair k akM akS b ms ss s).1.bankView = s.bankView := by
  grind [stackPair, !xlateAll_bankView]

theorem callTo_bankView (k : Who) (target : W64) (b : Bank) (s : State) : (callTo k target b s).state.bankView = s.bankView := by
  grind [callTo, Res.state, StoreOut.state, !storePhys_bankView, !stackPair_bankView]

theorem callBody_bankView (off : BitVec 26) (k : Who) (b : Bank) (s : State) : (callBody off k b s).state.bankView = s.bankView := by
  unfold callBody
  simp only [↓callTo_bankView]

theorem callrBody_bankView (ra : GReg) (k : Who) (b : Bank) (s : State) : (callrBody ra k b s).state.bankView = s.bankView := by
  grind [callrBody, Res.state, !callTo_bankView]

theorem retBody_bankView (k : Who) (b : Bank) (s : State) : (retBody k b s).state.bankView = s.bankView := by
  grind [retBody, LoadOut.state, Res.state, !loadPhys_bankView, !stackPair_bankView]

/-! ### The instructions of major 0x14: gates, fast calls, returns from entries, hold windows, the shadow stack and WAITI -/

theorem ringGate_bankView (r : Nat) (body : Body) (h : BodyViews body) : BodyViews (ringGate r body) := by
  intro k b s
  unfold ringGate
  split
  · rfl
  · exact h k b s

theorem callgBody_bankView (gate : BitVec 12) (k : Who) (b : Bank) (s : State) : (callgBody gate k b s).state.bankView = s.bankView := by
  have hp (ms : W64) := prepare_bankView k .store b ms 8 (piecesOf ms 16) s
  dsimp only [callgBody]
  split
  · rfl
  split
  · next h => exact (congrArg (State.bankView ∘ Prod.fst) h).symm.trans (hp _)
  next s1 l1 h =>
  have h1 : s1.bankView = s.bankView := (congrArg (State.bankView ∘ Prod.fst) h).symm.trans (hp _)
  have hx (ps : List Piece) := (xlateAll_bankView k .shadowW b s1 ps).trans h1
  split
  · next h => exact (congrArg (State.bankView ∘ Prod.fst) h).symm.trans (hx _)
  next s2 l2 h =>
  have h2 : s2.bankView = s.bankView := (congrArg (State.bankView ∘ Prod.fst) h).symm.trans (hx _)
  split
  · exact h2
  have hc (a : Nat) := (readCheck_bankView s2 true a 16).trans h2
  split
  · next h => exact (congrArg (State.bankView ∘ Prod.fst) h).symm.trans (hc _)
  next s2 h =>
  have h2 : s2.bankView = s.bankView := (congrArg (State.bankView ∘ Prod.fst) h).symm.trans (hc _)
  have hf (p : Prop) [Decidable p] (la : BitVec 50) : (if p then s2 else fillL2 s2 la false).bankView = s.bankView := by
    simp only [apply_ite State.bankView, ↓fillL2_bankView, ite_self, h2]
  split
  · exact hf ..
  have hst (bs : List (Option Byte)) (t : State) (l : List Phys) := storePhys_bankView k .single false bs t l
  split
  all_goals
    next h => exact (congrArg (State.bankView ∘ StoreOut.state) h).symm.trans ((hst ..).trans (hf ..))

theorem retgBody_bankView (k : Who) (b : Bank) (s : State) : (retgBody k b s).state.bankView = s.bankView := by
  grind [retgBody, LoadOut.state, Res.state, !loadPhys_bankView, !xlateAll_bankView, !prepare_bankView]

theorem syscBody_bankView (k : Who) (b : Bank) (s : State) : (syscBody k b s).state.bankView = s.bankView := by
  unfold syscBody
  split <;> simp only [Res.state]

theorem sysrBody_bankView (k : Who) (b : Bank) (s : State) : (sysrBody k b s).state.bankView = s.bankView := by
  unfold sysrBody
  split <;> simp only [Res.state]

theorem retxBody_bankView (k : Who) (b : Bank) (s : State) : (retxBody k b s).state.bankView = s.bankView := by
  unfold retxBody
  split <;> simp only [↓State.bankView_mk, State.bankView_pair, Res.state]

theorem retxCBody_bankView (k : Who) (b : Bank) (s : State) : (retxCBody k b s).state.bankView = s.bankView := by
  unfold retxCBody
  split <;> simp only [↓State.bankView_mk, State.bankView_pair, Res.state]

theorem holdendBody_bankView (k : Who) (b : Bank) (s : State) : (holdendBody k b s).state.bankView = s.bankView := rfl

theorem sspushBody_bankView (ga : GReg) (k : Who) (b : Bank) (s : State) : (sspushBody ga k b s).state.bankView = s.bankView := by
  grind [sspushBody, Res.state, StoreOut.state, !storePhys_bankView, !xlateAll_bankView]

theorem sspincBody_bankView (gb : GReg) (k : Who) (b : Bank) (s : State) : (sspincBody gb k b s).state.bankView = s.bankView := rfl

theorem waitiBody_bankView (k : Who) (b : Bank) (s : State) : (waitiBody k b s).state.bankView = s.bankView := by
  unfold waitiBody
  split <;> simp only [Res.state]

/-! ### Acceptance of operations by the tile unit, the board and the stream engine, their order on a tile and on a queue, and the events that they
post to banks -/

theorem acceptOp_bankView (s : State) (o : Op) : (acceptOp s o).bankView = s.bankView := rfl

theorem updOp_bankView (s : State) (id : Nat) (f : Op → Op) : (updOp s id f).bankView = s.bankView := rfl

theorem dropOp_bankView (s : State) (id : Nat) : (dropOp s id).bankView = s.bankView := rfl

theorem setTile_bankView (s : State) (t : TReg) (x : Tile) : (setTile s t x).bankView = s.bankView := rfl

theorem setDirty_bankView (s : State) (t : TReg) : (setDirty s t).bankView = s.bankView := rfl

theorem settleTile_bankView (s : State) (t : TReg) (base : TileState) : (settleTile s t base).bankView = s.bankView := rfl

/-- A bank replaced by one with its FL and its SSP. -/
theorem setBank_bankView {s : State} {k : BankNum} {b : Bank} (h : (b.fl, b.ssp) = (s.banks[k].fl, s.banks[k].ssp)) :
    (setBank s k b).bankView = s.bankView := by
  have hb : (s.banks.set k.val b k.isLt).map (fun b => (b.fl, b.ssp)) = s.banks.map fun b => (b.fl, b.ssp) := by
    ext1 i hi
    rw [Vector.getElem_map, Vector.getElem_map, Vector.getElem_set]
    split
    · next e => subst e; exact h
    · rfl
  simp only [setBank, State.bankView, hb]

theorem postEvent_bankView (s : State) (k : BankNum) (e : BankEvent) : (postEvent s k e).bankView = s.bankView := by
  have post {x : Bank} (hx : (x.fl, x.ssp) = (s.banks[k].fl, s.banks[k].ssp)) (p q : Bool) :
      (if p then s else setBank s k (if q then wakeBank x .ready else x)).bankView = s.bankView := by
    split
    · rfl
    · refine setBank_bankView ?_
      split <;> exact hx
  cases e with
  | sev => exact post (x := { s.banks[k] with sev := true }) rfl ..
  | bev => exact post (x := { s.banks[k] with bev := true }) rfl ..
  | mev => exact post (x := { s.banks[k] with mev := true }) rfl ..

theorem countDone_bankView (s : State) (q : QNum) : (countDone s q).bankView = s.bankView := rfl

theorem postQueue_bankView (q : QNum) (n : Nat) (s : State) : (postQueue q n s).bankView = s.bankView := by
  induction n generalizing s with
  | zero => rfl
  | succ n ih =>
    unfold postQueue
    split
    · split
      · exact (ih _).trans ((countDone_bankView _ q).trans (dropOp_bankView s _))
      · rfl
    · rfl

/-! ### The memory accesses of the stream engine, the stops of its operations and their reports -/

theorem finishQueued_bankView (s : State) (o : Op) : (finishQueued s o).bankView = s.bankView := by
  simp only [finishQueued, ↓updOp_bankView, ↓postQueue_bankView]

theorem streamXlate_bankView (cap : Capture) (data write : Bool) (va : W64) (s : State) :
    (streamXlate cap data write va s).1.bankView = s.bankView := by
  grind [streamXlate, Tr.state, wakeRequest_bankView, !translate_bankView]

theorem streamRead_bankView (cap : Capture) (data : Bool) (l : List Piece) (s : State) : (streamRead cap data l s).state.bankView = s.bankView := by
  induction l generalizing s with
  | nil => rfl
  | cons p ps ih => grind [streamRead, SOut.state, !streamXlate_bankView, !accessCheck_bankView, touchHit_bankView]

theorem streamPrep_bankView (cap : Capture) (data : Bool) (l : List Piece) (s : State) : (streamPrep cap data l s).1.bankView = s.bankView := by
  induction l generalizing s with
  | nil => rfl
  | cons p ps ih => grind [streamPrep, !streamXlate_bankView]

theorem markPoison_bankView (s : State) (coh : Bool) (pa n : Nat) : (markPoison s coh pa n).bankView = s.bankView := by
  unfold markPoison
  repeat' split
  all_goals simp only [↓State.bankView_mk, State.bankView_pair]

theorem streamWrite_bankView (cap : Capture) (data : Bool) (bad : Nat → Bool) (bs : List Byte) (ps : List Piece) (s : State) :
    (streamWrite cap data bad bs ps s).state.bankView = s.bankView := by
  have poisons (ty : MType) (p : Phys) (l : List Nat) (s : State) :
      (l.foldl (fun s i => if bad (p.off + i) then markPoison s (ty = .cacheable) (p.pa + i) 1 else s) s).bankView = s.bankView := by
    refine foldl_bankView _ (fun s i => ?_) l s
    split
    · exact markPoison_bankView ..
    · rfl
  have writes (l : List Phys) (s : State) : (l.foldl (fun s p =>
      let s2 := ownWrite s .unit p.ty p.pa ((bs.drop p.off).take p.len)
      (List.range p.len).foldl (fun s i => if bad (p.off + i) then markPoison s (p.ty = .cacheable) (p.pa + i) 1 else s) s2) s).bankView = s.bankView :=
    foldl_bankView _ (fun s (p : Phys) => (poisons p.ty p _ _).trans (ownWrite_bankView ..)) l s
  have hp := streamPrep_bankView cap data ps s
  unfold streamWrite
  split
  · next h =>
    rw [h] at hp
    split <;> exact hp
  next s1 l h =>
  rw [h] at hp
  split
  · exact hp
  split
  · exact (askGranules_bankView ..).trans hp
  dsimp only
  split
  · exact (aliasRefused_bankView ..).trans ((writes l s1).trans hp)
  · exact (writes l s1).trans hp

theorem passToTile_bankView (s : State) (o : Op) : (passToTile s o).bankView = s.bankView := by
  simp only [passToTile, ↓updOp_bankView, ↓postQueue_bankView, ↓setTile_bankView]

theorem recordStop_bankView (s : State) (o : Op) (st : Stop) : (recordStop s o st).bankView = s.bankView := by
  simp only [recordStop, ↓State.bankView_mk, State.bankView_pair, apply_ite State.bankView, ite_self, ↓passToTile_bankView, ↓updOp_bankView,
    ↓pend_bankView]

theorem reportStop_bankView (s : State) (q : QNum) : (reportStop s q).bankView = s.bankView := by
  unfold reportStop
  repeat' split
  all_goals simp only [↓recordStop_bankView]

theorem stopOp_bankView (s : State) (o : Op) (cause : BitVec 5) (kind : BitVec 3) (detail : Byte) (write : Bool) (addr phys : W64) (early : Bool) :
    (stopOp s o cause kind detail write addr phys early).bankView = s.bankView := by
  simp only [stopOp, ↓updOp_bankView, ↓reportStop_bankView]

theorem issueCheck_bankView (cap : Capture) (l : List (Bool × W64)) (s : State) : (issueCheck cap l s).1.bankView = s.bankView := by
  induction l generalizing s with
  | nil => rfl
  | cons p l ih =>
    obtain ⟨w, a⟩ := p
    grind [issueCheck, !streamXlate_bankView]

/-- An issuer whose first step on a line leaves FL, SSP and the windows as they are. -/
def IssuerViews (x : Issuer) : Prop := ∀ s o, (x.take s o).bankView = s.bankView

theorem issueTo_bankView (x : Issuer) (hx : IssuerViews x) (id line off : Nat) (n : Nat) (s : State) :
    (issueTo x id line off n s).bankView = s.bankView := by
  induction n generalizing s with
  | zero => rfl
  | succ n ih => grind [issueTo, IssuerViews, !issueCheck_bankView, stopOp_bankView, updOp_bankView]

theorem stopLine_bankView (s : State) (o : Op) (l : Nat) (cause : BitVec 5) (kind : BitVec 3) (detail : Byte) (write : Bool) (addr phys : W64) :
    (stopLine s o l cause kind detail write addr phys).bankView = s.bankView := by
  simp only [stopLine, ↓updOp_bankView, ↓stopOp_bankView]

theorem showProg_bankView (s : State) (o : Op) : (showProg s o).bankView = s.bankView := rfl

theorem settleLines_bankView (s : State) : (settleLines s).bankView = s.bankView := by
  simp only [settleLines, apply_ite State.bankView, ite_self, foldl_bankView, implies_true, ↓askVisible_bankView, ↓showProg_bankView,
    ↓reportStop_bankView, ↓updOp_bankView]

theorem lineMade_bankView (s : State) (o : Op) (l : Nat) (fab : Bool) : (lineMade s o l fab).bankView = s.bankView := by
  simp only [lineMade, apply_ite State.bankView, ite_self, ↓showProg_bankView, ↓settleLines_bankView, ↓reportStop_bankView, ↓updOp_bankView]

/-! ### The tile file: descriptors, TCFG, TLD, TST, TZERO, TREL, TMOV, TRDY, TRESUME, the row accesses of the vector unit, the nib cache, and the
events of accepted tile operations -/

theorem checked_bankView (l : State → List (Option Exc)) (body : Body) (h : BodyViews body) : BodyViews (checked l body) := by
  intro k b s
  unfold checked
  split
  · rfl
  · exact h k b s

theorem nibDrop_bankView (s : State) (t : TReg) (p : BitVec 10 → Bool) : (nibDrop s t p).bankView = s.bankView := rfl

theorem nibFill_bankView (s : State) (w : Fin 64) (t : TReg) (r : BitVec 10) : (nibFill s w t r).bankView = s.bankView := by
  simp only [nibFill, ↓State.bankView_mk, State.bankView_pair, apply_ite State.bankView, ite_self, ↓plant_bankView, ↓clearSpot_bankView]

theorem nibParity_bankView (s : State) (w : Fin 64) : (nibParity s w).bankView = s.bankView := by
  simp only [nibParity, ↓State.bankView_mk, State.bankView_pair, ↓postRecord_bankView, ↓clearSpot_bankView]

theorem nibRead_bankView (s : State) (t : TReg) (r : BitVec 10) : (nibRead s t r).bankView = s.bankView := by
  dsimp only [nibRead]
  split <;> simp only [↓State.bankView_mk, State.bankView_pair, apply_ite State.bankView, ite_self, ↓nibParity_bankView, ↓nibFill_bankView]

theorem tileMeet_bankView (s : State) (t : TReg) (row : Nat) (ws : List Nat) : (tileMeet s t row ws).bankView = s.bankView := by
  simp only [tileMeet, apply_ite State.bankView, ite_self, foldl_bankView, implies_true, ↓meetSingle_bankView, ↓postUe_bankView]

theorem tileStrike_bankView (s2 : State) (t : TReg) (row : Nat) (ws : List Nat) : (tileStrike s2 t row ws).bankView = s2.bankView := by
  dsimp only [tileStrike]
  split <;> simp only [apply_ite State.bankView, ite_self, ↓setTile_bankView, ↓plant_bankView]

theorem tileFresh_bankView (s : State) (t : TReg) (row : Nat) (ws : List Nat) : (tileFresh s t row ws).bankView = s.bankView := by
  have clears (s : State) : (ws.foldl (fun s d => clearSpot s 0x05 (tileSel t.val row d)) s).bankView = s.bankView :=
    foldl_bankView _ (fun s d => clearSpot_bankView s 0x05 (tileSel t.val row d)) ws s
  simp only [tileFresh, apply_ite State.bankView, ite_self, clears, ↓tileStrike_bankView, ↓setTile_bankView]

theorem rowRead_bankView (s : State) (t : TReg) (r : BitVec 10) : (rowRead s t r).bankView = s.bankView := by
  simp only [rowRead, apply_ite State.bankView, ite_self, ↓tileMeet_bankView, ↓nibRead_bankView]

theorem tileMeetRows_bankView (s : State) (t : TReg) (rows : List Nat) : (tileMeetRows s t rows).bankView = s.bankView := by
  simp only [tileMeetRows, apply_ite State.bankView, ite_self, foldl_bankView, implies_true, ↓tileMeet_bankView]

theorem putRow_bankView (s : State) (t : TReg) (r : Nat) (d : RowWord) : (putRow s t r d).bankView = s.bankView := by
  simp only [putRow, ↓setTile_bankView, ↓nibDrop_bankView, ↓tileFresh_bankView]

theorem putScale_bankView (s : State) (t : TReg) (r : Nat) (d : ScaleWord) : (putScale s t r d).bankView = s.bankView := by
  simp only [putScale, ↓setTile_bankView, ↓nibDrop_bankView, ↓tileFresh_bankView]

theorem clearTile_bankView (s : State) (t : TReg) : (clearTile s t).bankView = s.bankView := by
  simp only [clearTile, apply_ite State.bankView, ite_self, foldl_bankView, implies_true, ↓tileFresh_bankView, ↓setTile_bankView, ↓nibDrop_bankView]

theorem tcfgBody_bankView (t : TReg) (rowsm1 : BitVec 10) (rbm1 e : BitVec 4) (mx : Bool) (k : Who) (b : Bank) (s : State) :
    (tcfgBody t rowsm1 rbm1 e mx k b s).state.bankView = s.bankView := by
  refine checked_bankView _ _ (fun k b s => ?_) ..
  split
  · rfl
  · exact (nibDrop_bankView ..).trans ((setDirty_bankView ..).trans (setTile_bankView ..))

theorem tcfgRegBody_bankView (t : TReg) (ga : GReg) (k : Who) (b : Bank) (s : State) : (tcfgRegBody t ga k b s).state.bankView = s.bankView := by
  unfold tcfgRegBody
  simp only [↓tcfgBody_bankView]

theorem tldBody_bankView (load : Bool) (t : TReg) (ga gb gc : GReg) (q : QNum) (k : Who) (b : Bank) (s : State) :
    (tldBody load t ga gb gc q k b s).state.bankView = s.bankView := by
  refine checked_bankView _ _ (fun k b s => ?_) ..
  dsimp only
  split
  · simp only [Res.state, apply_ite State.bankView, ite_self, settleTile_bankView, ↓setDirty_bankView, ↓acceptOp_bankView, ↓setTile_bankView]
  · rfl

theorem endFailed_bankView (s : State) (t : TReg) : (endFailed s t).bankView = s.bankView := by
  simp only [endFailed, ↓State.bankView_mk, State.bankView_pair, apply_ite State.bankView, ite_self, ↓clearTile_bankView, ↓setTile_bankView]

theorem tclearBody_bankView (rel : Bool) (t : TReg) (k : Who) (b : Bank) (s : State) : (tclearBody rel t k b s).state.bankView = s.bankView := by
  refine checked_bankView _ _ (fun k b s => ?_) ..
  simp only [Res.state, apply_ite State.bankView, ite_self, ↓settleTile_bankView, ↓setDirty_bankView, ↓acceptOp_bankView, ↓endFailed_bankView]

theorem tmovBody_bankView (td ts : TReg) (k : Who) (b : Bank) (s : State) : (tmovBody td ts k b s).state.bankView = s.bankView := by
  refine checked_bankView _ _ (fun k b s => ?_) ..
  dsimp only
  split
  · exact setDirty_bankView ..
  · exact (settleTile_bankView ..).trans ((setDirty_bankView ..).trans (acceptOp_bankView ..))

theorem trdyBody_bankView (w : Bool) (gd : GReg) (mask : BitVec 16) (k : Who) (b : Bank) (s : State) :
    (trdyBody w gd mask k b s).state.bankView = s.bankView := by
  unfold trdyBody
  split <;> simp only [Res.state]

theorem retake_bankView (s : State) (t : TReg) (o : Op) : (retake s t o).bankView = s.bankView := rfl

theorem offStop_bankView (s : State) (o : Op) : (offStop s o).bankView = s.bankView := by
  simp only [offStop, apply_ite State.bankView, ite_self, ↓recordStop_bankView, ↓passToTile_bankView, ↓pend_bankView, ↓updOp_bankView]

theorem tresumeBody_bankView (t : TReg) (k : Who) (b : Bank) (s : State) : (tresumeBody t k b s).state.bankView = s.bankView := by
  unfold tresumeBody
  split
  · rfl
  split
  · exact checked_bankView _ _ (fun _ _ _ => rfl) ..
  refine checked_bankView _ _ (fun k b s => ?_) ..
  dsimp only
  split
  · exact wakeRequest_bankView ..
  · split
    · exact (offStop_bankView ..).trans (retake_bankView ..)
    · exact retake_bankView ..
  · split
    · rfl
    · exact retake_bankView ..

theorem vtrdBody_bankView (side : Bool) (vd : VReg) (t : TReg) (gr : GReg) (k : Who) (b : Bank) (s : State) :
    (vtrdBody side vd t gr k b s).state.bankView = s.bankView := by
  refine checked_bankView _ _ (fun k b s => ?_) ..
  dsimp only
  split
  · rfl
  · exact rowRead_bankView ..

theorem vtwrBody_bankView (side : Bool) (v : VReg) (t : TReg) (gr : GReg) (k : Who) (b : Bank) (s : State) :
    (vtwrBody side v t gr k b s).state.bankView = s.bankView := by
  refine checked_bankView _ _ (fun k b s => ?_) ..
  dsimp only
  split
  · simp only [Res.state, settleTile_bankView, ↓setDirty_bankView, apply_ite State.bankView, ↓putScale_bankView, ↓putRow_bankView, ite_self]
  · rfl

theorem tileIssuer_bankView : IssuerViews tileIssuer := fun _ _ => rfl

theorem rowStop_bankView (s : State) (o : Op) (r : Nat) (c : BitVec 5) (va pa : W64) : (rowStop s o r c va pa).bankView = s.bankView := by
  simp only [rowStop, ↓stopLine_bankView]

theorem tldRow_bankView (s : State) (o : Op) (r : Nat) : (tldRow s o r).bankView = s.bankView := by
  grind [tldRow, SOut.state, putScale_bankView, lineMade_bankView, putRow_bankView, rowStop_bankView, !streamRead_bankView]

theorem tstRow_bankView (s : State) (o : Op) (r : Nat) : (tstRow s o r).bankView = s.bankView := by
  grind [tstRow, WOut.state, lineMade_bankView, rowStop_bankView, !streamWrite_bankView, tileMeet_bankView]

theorem execHeldOpRelease_bankView (id : Nat) (s : State) : (outState s (execHeldOpRelease id s)).bankView = s.bankView := by
  refine event_bankView s _ (map_bankView _ _ fun o => ?_)
  rfl

theorem execTldRowComplete_bankView (t : TReg) (row : Nat) (s : State) : (outState s (execTldRowComplete t row s)).bankView = s.bankView := by
  refine event_bankView s _ (bind_bankView _ _ fun o => ?_)
  have hi (n : Nat) := issueTo_bankView tileIssuer tileIssuer_bankView o.id row 0 n s
  split
  · dsimp only
    split
    · split
      · exact hi _
      · split
        · exact (tldRow_bankView ..).trans (hi _)
        · exact (tstRow_bankView ..).trans (hi _)
    · exact hi _
  · rfl

theorem endTransfer_bankView (s : State) (t : TReg) (o : Op) : (endTransfer s t o).bankView = s.bankView := by
  simp only [endTransfer, ↓setTile_bankView, ↓finishQueued_bankView]

theorem execTldComplete_bankView (t : TReg) (s : State) : (outState s (execTldComplete t s)).bankView = s.bankView := by
  refine event_bankView s _ (bind_bankView _ _ fun o => ?_)
  split <;> simp only [Option.getD_some, Option.getD_none, ↓endTransfer_bankView, ↓nibDrop_bankView, ↓settleTile_bankView]

theorem execTstComplete_bankView (t : TReg) (s : State) : (outState s (execTstComplete t s)).bankView = s.bankView := by
  refine event_bankView s _ (bind_bankView _ _ fun o => ?_)
  split <;> simp only [Option.getD_some, ↓settleLines_bankView, ↓endTransfer_bankView, ↓settleTile_bankView]

theorem failTransfer_bankView (s : State) (o : Op) (cause : BitVec 5) (detail : Byte) (va pa : W64) :
    (failTransfer s o cause detail va pa).bankView = s.bankView := by
  unfold failTransfer
  split <;> simp only [↓stopOp_bankView, ↓stopLine_bankView]

theorem execTileTransferFault_bankView (t : TReg) (cause : BitVec 5) (detail : Byte) (va pa : W64) (s : State) :
    (outState s (execTileTransferFault t cause detail va pa s)).bankView = s.bankView := by
  refine event_bankView s _ (bind_bankView _ _ fun o => ?_)
  split <;> simp only [Option.getD_some, Option.getD_none, ↓failTransfer_bankView]

theorem execTzeroPerformed_bankView (t : TReg) (s : State) : (outState s (execTzeroPerformed t s)).bankView = s.bankView := by
  refine event_bankView s _ (map_bankView _ _ fun o => ?_)
  simp only [↓dropOp_bankView, ↓clearTile_bankView, ↓settleTile_bankView]

theorem execTrelPerformed_bankView (t : TReg) (s : State) : (outState s (execTrelPerformed t s)).bankView = s.bankView := by
  refine event_bankView s _ (map_bankView _ _ fun o => ?_)
  simp only [↓State.bankView_mk, State.bankView_pair, ↓dropOp_bankView, ↓clearTile_bankView, ↓settleTile_bankView]

theorem execTmovComplete_bankView (td : TReg) (s : State) : (outState s (execTmovComplete td s)).bankView = s.bankView := by
  refine event_bankView s _ (map_bankView _ _ fun o => ?_)
  have strikes (rows : Nat) (ws : List Nat) (s : State) : ((List.range rows).foldl (fun s r => tileStrike s td r ws) s).bankView = s.bankView :=
    foldl_bankView _ (fun s r => tileStrike_bankView s td r ws) _ s
  simp only [↓settleTile_bankView, ↓nibDrop_bankView, apply_ite State.bankView, strikes, ↓setTile_bankView, ↓dropOp_bankView,
    ↓tileMeetRows_bankView, ite_self]

/-! ### The register banks: their banked registers, the bank actions, the overflow trap, saving and loading, and the hardware scheduler -/

theorem spent_bankView (s : State) (k : Nat) : (spent s k).bankView = s.bankView := rfl

theorem ldhOther_bankView (k : Who) (b : Bank) (ga : W64) (h : Bool) (s : State) : (ldhState (ldhOther k b ga h s)).bankView = s.bankView := by
  grind [ldhOther, ldhState, LoadOut.state, !loadBytes_bankView]

theorem mfbBody_bankView (rd : GReg) (n : BitVec 12) (k : Who) (b : Bank) (s : State) : (mfbBody rd n k b s).state.bankView = s.bankView := by
  unfold mfbBody
  extract_lets w x
  clear_value x
  cases x with
  | none => rfl
  | some v =>
    refine ringGate_bankView _ _ (fun k b s => ?_) ..
    split <;> rfl

/-! ### The tallies: their sources, folding, snapshots and key tables -/

theorem setTally_bankView (s : State) (u : TallyNum) (x : Tally) : (setTally s u x).bankView = s.bankView := rfl

theorem writeTalsrc_bankView (s : State) (u : TallyNum) (v : W64) (byQuill : Bool) : (writeTalsrc s u v byQuill).bankView = s.bankView := by
  simp only [writeTalsrc, apply_ite State.bankView, ite_self, ↓setTally_bankView]

theorem writeTalkbase_bankView (s : State) (u : TallyNum) (v : W64) (byQuill : Bool) : (writeTalkbase s u v byQuill).bankView = s.bankView := by
  simp only [writeTalkbase, apply_ite State.bankView, ite_self, ↓setTally_bankView]

theorem talMeet_bankView (s : State) (o n : Nat) : (talMeet s o n).bankView = s.bankView := by
  simp only [talMeet, apply_ite State.bankView, ite_self, ↓readCheck_bankView]

theorem writeHeader_bankView (s : State) (k : KeyBuf) : (writeHeader s k).bankView = s.bankView := by
  simp only [writeHeader, ↓writeVellum_bankView]

theorem readHeader_bankView (s : State) (o : Nat) : (readHeader s o).1.bankView = s.bankView := by
  simp only [readHeader, ↓talMeet_bankView]

theorem openHeader_bankView (s : State) (x : Tally) (o : Nat) : (openHeader s x o).1.bankView = s.bankView := by
  unfold openHeader
  repeat' split
  all_goals simp only [↓writeHeader_bankView, ↓readHeader_bankView]

theorem keyFold_bankView (s : State) (u : TallyNum) (key : Nat) (p : Sample) : (keyFold s u key p).bankView = s.bankView := by
  simp only [keyFold, apply_ite State.bankView, ite_self, ↓talMeet_bankView, ↓setTally_bankView, ↓writeVellum_bankView, ↓openHeader_bankView]

theorem foldSample_bankView (s : State) (u : TallyNum) (p : Sample) : (foldSample s u p).bankView = s.bankView := by
  unfold foldSample
  repeat' split
  all_goals simp only [apply_ite State.bankView, ite_self, ↓keyFold_bankView, ↓setTally_bankView]

theorem tallyBody_bankView (u : TallyNum) (g k : GReg) (k' : Who) (b : Bank) (s : State) : (tallyBody u g k k' b s).state.bankView = s.bankView := by
  grind [tallyBody, Res.state, setTally_bankView]

theorem offerSample_bankView (s : State) (u : TallyNum) (v : W32) (more : Nat) : (offerSample s u v more).bankView = s.bankView := by
  simp only [offerSample, apply_ite State.bankView, ite_self, ↓setTally_bankView, ↓wakeRequest_bankView]

theorem offerAll_bankView (s : State) (p : W64 → Bool) (v : W32) : (offerAll s p v).bankView = s.bankView := by
  simp only [offerAll, apply_ite State.bankView, ite_self, foldl_bankView, implies_true, ↓offerSample_bankView]

theorem rowSample_bankView (s : State) (drain : Bool) (semi : BitVec 3) (xs : List Ink) : (rowSample s drain semi xs).bankView = s.bankView := by
  simp only [rowSample, apply_ite State.bankView, ite_self, ↓offerAll_bankView]

theorem boxSample_bankView (s : State) (m : BoxNum) (sc : W64) : (boxSample s m sc).bankView = s.bankView := by
  unfold boxSample
  exact offerAll_bankView ..

theorem execTallySample_bankView (u : TallyNum) (v : SampleIn) (more : Nat) (s : State) :
    (outState s (execTallySample u v more s)).bankView = s.bankView := by
  refine event_bankView s _ ?_
  split <;> simp only [Option.getD_some, Option.getD_none, ↓offerSample_bankView]

theorem execTallyFold_bankView (u : TallyNum) (s : State) : (outState s (execTallyFold u s)).bankView = s.bankView := by
  refine event_bankView s _ ?_
  dsimp only
  repeat' split
  all_goals simp only [Option.getD_some, Option.getD_none, ↓setTally_bankView, ↓foldSample_bankView]

theorem execTallyPendClear_bankView (u : TallyNum) (s : State) : (outState s (execTallyPendClear u s)).bankView = s.bankView := by
  refine event_bankView s _ ?_
  dsimp only
  repeat' split
  all_goals simp only [Option.getD_some, Option.getD_none, ↓setTally_bankView, ↓writeHeader_bankView]

/-! ### The board: plane records, BPLANE, BSWAP, BRUN, the rank edge, the result rows, the duty and the spare map; and the order of board and inkwell
operations -/

theorem boardAccept_bankView (body : Body) (h : BodyViews body) : BodyViews (boardAccept body) := by
  intro k b s
  unfold boardAccept
  split
  · exact h k b s
  · rfl

theorem bplaneBody_bankView (t : TReg) (k : Who) (b : Bank) (s : State) : (bplaneBody t k b s).state.bankView = s.bankView := by
  refine checked_bankView _ _ (boardAccept_bankView _ fun k b s => ?_) ..
  simp only [Res.state, ↓acceptOp_bankView, ↓State.bankView_mk, State.bankView_pair]

theorem bswapBody_bankView (k : Who) (b : Bank) (s : State) : (bswapBody k b s).state.bankView = s.bankView := by
  refine boardAccept_bankView _ (fun k b s => ?_) ..
  simp only [Res.state, ↓acceptOp_bankView, ↓State.bankView_mk, State.bankView_pair]

theorem brunBody_bankView (t : TReg) (gr : GReg) (acc : BitVec 2) (half : Bool) (k : Who) (b : Bank) (s : State) :
    (brunBody t gr acc half k b s).state.bankView = s.bankView := by
  refine checked_bankView _ _ (boardAccept_bankView _ fun k b s => ?_) ..
  simp only [Res.state, ↓acceptOp_bankView]

theorem inkStrike_bankView (s : State) (r e : Nat) : (inkStrike s r e).bankView = s.bankView := by
  simp only [inkStrike, ↓State.bankView_mk, State.bankView_pair, apply_ite State.bankView, ite_self, ↓plant_bankView]

theorem inkWrite_bankView (s : State) (r e : Nat) (x : Ink) : (inkWrite s r e x).bankView = s.bankView := by
  simp only [inkWrite, ↓State.bankView_mk, State.bankView_pair, apply_ite State.bankView, ite_self, ↓inkStrike_bankView, ↓clearSpot_bankView]

theorem inkMeet_bankView (s : State) (r e : Nat) : (inkMeet s r e).bankView = s.bankView := by
  simp only [inkMeet, apply_ite State.bankView, ite_self, ↓meetSingle_bankView, ↓postUe_bankView]

theorem inkMeetRow_bankView (s : State) (r first n : Nat) : (inkMeetRow s r first n).bankView = s.bankView := by
  simp only [inkMeetRow, apply_ite State.bankView, ite_self, foldl_bankView, implies_true, ↓inkMeet_bankView]

theorem postBoardCheck_bankView (s : State) (chk : Option BoardCheck) (row : Nat) : (postBoardCheck s chk row).bankView = s.bankView := by
  unfold postBoardCheck
  split <;> simp only [apply_ite State.bankView, ite_self, ↓postRecord_bankView]

theorem injResidue_bankView (s : State) (n row : Nat) : (injResidue s n row).bankView = s.bankView := by
  dsimp only [injResidue]
  split <;> simp only [apply_ite State.bankView, ite_self, ↓postRecord_bankView, ↓disarm_bankView, ↓draw_bankView]

theorem injRail_bankView (s : State) (n row : Nat) (acc : Bool) : (injRail s n row acc).bankView = s.bankView := by
  dsimp only [injRail]
  split <;> simp only [apply_ite State.bankView, ite_self, ↓disarm_bankView, ↓postRecord_bankView]

theorem combineRow_bankView (s : State) (o : Op) (m : Nat) (sums : List (Nat × Ink)) : (combineRow s o m sums).bankView = s.bankView := by
  simp only [combineRow, apply_ite State.bankView, ite_self, foldl_bankView, implies_true, ↓inkWrite_bankView, ↓inkMeet_bankView]

theorem resultRow_bankView (s : State) (o : Op) (m : Nat) (sums : List (Nat × Ink)) : (resultRow s o m sums).bankView = s.bankView := by
  simp only [resultRow, ↓injResidue_bankView, ↓injRail_bankView, ↓rowSample_bankView, ↓combineRow_bankView]

theorem execBplaneLoadStart_bankView (s : State) : (outState s (execBplaneLoadStart s)).bankView = s.bankView := by
  refine event_bankView s _ (bind_bankView _ _ fun o => ?_)
  dsimp only
  repeat' split
  all_goals simp only [Option.getD_some, Option.getD_none, ↓updOp_bankView]

theorem execBplaneComplete_bankView (s : State) : (outState s (execBplaneComplete s)).bankView = s.bankView := by
  refine event_bankView s _ (map_bankView _ _ fun o => ?_)
  simp only [↓State.bankView_mk, State.bankView_pair, ↓tileMeetRows_bankView, ↓dropOp_bankView]

theorem execSwapTokenEntry_bankView (s : State) : (outState s (execSwapTokenEntry s)).bankView = s.bankView := by
  refine event_bankView s _ (bind_bankView _ _ fun o => ?_)
  split <;> simp only [↓State.bankView_mk, State.bankView_pair, Option.getD_some, Option.getD_none, ↓updOp_bankView]

theorem execBswapComplete_bankView (s : State) : (outState s (execBswapComplete s)).bankView = s.bankView := by
  refine event_bankView s _ ?_
  split <;> simp only [↓State.bankView_mk, State.bankView_pair, Option.getD_some, Option.getD_none, ↓dropOp_bankView]

theorem execPlaneRelease_bankView (s : State) : (outState s (execPlaneRelease s)).bankView = s.bankView := by
  refine event_bankView s _ ?_
  split <;> simp only [↓State.bankView_mk, State.bankView_pair, Option.getD_some, Option.getD_none]

theorem execResultRowCombine_bankView (chk : Option BoardCheck) (s : State) : (outState s (execResultRowCombine chk s)).bankView = s.bankView := by
  refine event_bankView s _ ?_
  split
  · refine map_bankView _ _ fun o => ?_
    simp only [apply_ite State.bankView, ↓dropOp_bankView, ↓updOp_bankView, ↓postBoardCheck_bankView, ↓resultRow_bankView, ↓State.bankView_mk,
      State.bankView_pair, ite_self]
  · rfl

theorem execThrottleWindowBoundary_bankView (s : State) : (outState s (execThrottleWindowBoundary s)).bankView = s.bankView := by
  refine event_bankView s _ ?_
  rfl

theorem applyRemap_bankView (s : State) (l : List (Fin 8 × BitVec 10)) : (applyRemap s l).bankView = s.bankView := rfl

theorem execSpareRemapApply_bankView (s : State) : (outState s (execSpareRemapApply s)).bankView = s.bankView := by
  refine event_bankView s _ (bind_bankView _ _ fun o => ?_)
  split <;> simp only [Option.getD_some, Option.getD_none, ↓dropOp_bankView, ↓applyRemap_bankView]

/-! ### The quill's message layer, its blotter, its log, its events, and the accepted commands -/

theorem qevent_bankView (s : State) (i : Nat) : (qevent s i).bankView = s.bankView := by
  simp only [qevent, ↓State.bankView_mk, State.bankView_pair, apply_ite State.bankView, ite_self, ↓postEvent_bankView, ↓wakeRequest_bankView,
    ↓pend_bankView]

theorem setQu_bankView (s : State) (q : Quill) : (setQu s q).bankView = s.bankView := rfl

theorem logPush_bankView (s : State) (r : BitVec 256) : (logPush s r).bankView = s.bankView := rfl

theorem logRecord_bankView (s : State) (r : BitVec 256) : (logRecord s r).bankView = s.bankView := by
  simp only [logRecord, apply_ite State.bankView, ite_self, ↓logPush_bankView]

theorem putQ2h_bankView (s : State) (k : BoxNum) (m : List Byte) : (putQ2h s k m).bankView = s.bankView := rfl

theorem postMsg_bankView (s : State) (k : BoxNum) (m : List Byte) : (postMsg s k m).bankView = s.bankView := by
  simp only [postMsg, apply_ite State.bankView, ite_self, ↓putQ2h_bankView, ↓setQu_bankView]

theorem flushBox_bankView (s : State) (k : BoxNum) : (flushBox s k).bankView = s.bankView := by
  unfold flushBox
  split <;> simp only [apply_ite State.bankView, ite_self, ↓setQu_bankView, ↓putQ2h_bankView]

theorem setEntry_bankView (s : State) (i : BitVec 10) (x : BitVec 256) : (setEntry s i x).bankView = s.bankView := rfl

theorem journal_bankView (s : State) (r : Req) : (journal s r).1.bankView = s.bankView := rfl

theorem meetEntry_bankView (s : State) (i : BitVec 10) : (meetEntry s i).bankView = s.bankView := by
  simp only [meetEntry, apply_ite State.bankView, ite_self, ↓windowMeet_bankView]

theorem keeperRead_bankView (s : State) (i : BitVec 10) : (keeperRead s i).bankView = s.bankView := by
  unfold keeperRead
  repeat' split
  all_goals simp only [↓setEntry_bankView, ↓meetEntry_bankView]

theorem endEntry_bankView (s : State) (r : Req) (st det : Byte) (replay : Bool) : (endEntry s r st det replay).bankView = s.bankView := by
  unfold endEntry
  split <;> simp only [↓meetEntry_bankView, ↓setEntry_bankView]

theorem respondV_bankView (s : State) (r : Req) (vmaj vmin st det : Byte) (res : List Byte) :
    (respondV s r vmaj vmin st det res).bankView = s.bankView := by
  simp only [respondV, ↓postMsg_bankView]

theorem answer_bankView (s : State) (r : Req) (replay : Bool) (st det : Byte) (res : List Byte) :
    (answer s r replay st det res).bankView = s.bankView := by
  simp only [answer, apply_ite State.bankView, ite_self, ↓respondV_bankView, ↓endEntry_bankView]

theorem complete_bankView (s : State) (id : Nat) (st det : Byte) (res : List Byte) : (complete s id st det res).bankView = s.bankView := by
  unfold complete
  split <;> simp only [apply_ite State.bankView, ite_self, ↓postMsg_bankView, ↓endEntry_bankView, ↓setQu_bankView]

theorem refuseCmd_bankView (st det : Byte) (s : State) : (refuseCmd st det s).state.bankView = s.bankView := rfl

theorem acceptCmd_bankView (s0 s : State) (id : Nat) (r : Req) (replay : Bool) (h : s.bankView = s0.bankView) :
    (acceptCmd s0 s id r replay).1.bankView = s0.bankView := by
  unfold acceptCmd
  split
  · exact answer_bankView ..
  · simp only [apply_ite State.bankView, ↓respondV_bankView, ↓setQu_bankView, ite_self, h]

/-- A command that leaves FL, SSP and the windows as they are. -/
def CmdViews (f : Cmd) : Prop := ∀ id r s, (f id r s).state.bankView = s.bankView

theorem runCmd_bankView (f : Cmd) (h : CmdViews f) (r : Req) (replay : Bool) (s : State) : (runCmd f r replay s).bankView = s.bankView := by
  have hf := h s.qu.nextCmd r s
  unfold runCmd
  dsimp only
  grind [CmdOut.state, answer_bankView, respondV_bankView, !acceptCmd_bankView, complete_bankView]

/-! ### Partner mirroring: the mirror engine's commits, the receiving side, fetch and verify, and the partner port -/

theorem setMir_bankView (s : State) (m : Mir) : (setMir s m).bankView = s.bankView := rfl

theorem mirCheck_bankView (s : State) (pa n : Nat) : (mirCheck s pa n).1.bankView = s.bankView := by
  simp only [mirCheck, ↓readCheck_bankView]

theorem emit_bankView (s : State) (w : PWord) (cost : Nat) : (emit s w cost).bankView = s.bankView := rfl

theorem resendGranules_bankView (l : List TxGran) (s : State) : (resendGranules l s).2.bankView = s.bankView := by
  induction l generalizing s with
  | nil => rfl
  | cons t ts ih =>
    unfold resendGranules
    split
    · exact (ih _).trans (emit_bankView s t.word 1)
    · exact ih s

theorem pumpSend_bankView (record : List Byte) (x : Send) (s : State) : (pumpSend record x s).2.bankView = s.bankView := by
  dsimp only [pumpSend]
  split <;> simp only [↓resendGranules_bankView, ↓emit_bankView]

theorem advanceCommit_bankView (s : State) : (advanceCommit s).bankView = s.bankView := by
  unfold advanceCommit
  split <;> simp only [↓setMir_bankView, ↓pumpSend_bankView]

theorem endServe_bankView (s : State) (st : BitVec 4) : (endServe s st).bankView = s.bankView := rfl

theorem serveGranule_bankView (s : State) (x : Send) (n : List Nat) (g : Nat) (gs : List Nat) :
    (serveGranule s x n g gs).1.bankView = s.bankView := by
  grind [serveGranule, setMir_bankView, emit_bankView, endServe_bankView, !mirCheck_bankView]

theorem serveCheck_bankView (s : State) (x : Send) (a : Nat) : (serveCheck s x a).1.bankView = s.bankView := by
  unfold serveCheck
  split <;> simp only [↓mirCheck_bankView]

theorem advanceServe_bankView (n : Nat) (s : State) : (advanceServe n s).bankView = s.bankView := by
  induction n generalizing s with
  | zero => rfl
  | succ n ih => grind [advanceServe, !serveCheck_bankView, !pumpSend_bankView, !serveGranule_bankView, endServe_bankView, setMir_bankView]

theorem advanceFetch_bankView (s : State) : (advanceFetch s).bankView = s.bankView := by
  unfold advanceFetch
  split <;> simp only [apply_ite State.bankView, ite_self, ↓setMir_bankView, ↓emit_bankView]

theorem mirAdvance_bankView (s : State) : (mirAdvance s).bankView = s.bankView := by
  simp only [mirAdvance, ↓advanceCommit_bankView, ↓advanceServe_bankView, ↓advanceFetch_bankView]

theorem setBothBits_bankView (s : State) (l : List Nat) : (setBothBits s l).bankView = s.bankView :=
  foldl_bankView _ (fun s g => (setMapBit_bankView (setMapBit s false true g) true true g).trans (setMapBit_bankView s false true g)) l s

theorem releaseHeld_bankView (s : State) : (releaseHeld s).bankView = s.bankView := by
  simp only [releaseHeld, foldl_bankView, implies_true, ↓setMir_bankView, ↓agentWrite_bankView]

theorem mirrorRecord_bankView (s : State) (g : Option Nat) : (mirrorRecord s g).bankView = s.bankView := by
  dsimp only [mirrorRecord]
  split <;> simp only [↓postRecord_bankView, ↓draw_bankView, ↓freeClass_bankView]

theorem abandonCommit_bankView (quiet : Bool) (g : Option Nat) (s : State) : (abandonCommit quiet g s).bankView = s.bankView := by
  have marks (gen : Bool) (l : List Nat) (s : State) : (l.foldl (fun s g => setMapBit s gen true g) s).bankView = s.bankView :=
    foldl_bankView _ (fun s g => setMapBit_bankView s gen true g) l s
  unfold abandonCommit
  split
  · rfl
  · simp only [apply_ite State.bankView, ite_self, marks, ↓pend_bankView, ↓mirrorRecord_bankView, ↓releaseHeld_bankView, ↓setMir_bankView]

theorem commitDone_bankView (s : State) (k : Commit) : (commitDone s k).bankView = s.bankView := by
  simp only [commitDone, ↓setMir_bankView, ↓releaseHeld_bankView]

theorem startCommit_bankView (s : State) (p : W64) : (startCommit s p).bankView = s.bankView := by
  simp only [startCommit, apply_ite State.bankView, ite_self, ↓abandonCommit_bankView, ↓mirAdvance_bankView, ↓setMir_bankView]

theorem fetchResults_bankView (s : State) (f : Fetch) : (fetchResults s f).1.bankView = s.bankView := rfl

theorem freeCredits_bankView (s : State) : (freeCredits s).bankView = s.bankView :=
  (foldl_bankView _ (fun s _ => emit_bankView s (.credit 1) 0) _ _).trans (setMir_bankView s _)

theorem endFetch_bankView (s : State) (f : Fetch) (st det : Byte) (record : Bool) (g : Option Nat) :
    (endFetch s f st det record g).bankView = s.bankView := by
  simp only [endFetch, apply_ite State.bankView, ite_self, ↓complete_bankView, ↓qevent_bankView, ↓fetchResults_bankView, ↓mirrorRecord_bankView,
    ↓setBothBits_bankView,
    ↓setMir_bankView, ↓freeCredits_bankView]

theorem abortFetch_bankView (s : State) (det : Byte) (g : Option Nat) : (abortFetch s det g).bankView = s.bankView := by
  unfold abortFetch
  split <;> simp only [↓endFetch_bankView]

theorem fetchDone_bankView (s : State) (f : Fetch) : (fetchDone s f).bankView = s.bankView := by
  simp only [fetchDone, ↓State.bankView_mk, State.bankView_pair, apply_ite State.bankView, ite_self, ↓endFetch_bankView]

theorem mirctlRest_bankView (s : State) (v : W64) : (mirctlRest s v).bankView = s.bankView := rfl

theorem mirctlWrite_bankView (s : State) (v : W64) : (mirctlWrite s v).bankView = s.bankView := by
  simp only [mirctlWrite, apply_ite State.bankView, ite_self, ↓abandonCommit_bankView, ↓setBothBits_bankView, ↓mirctlRest_bankView, ↓setMir_bankView]

theorem mircfgWrite_bankView (s : State) (r : Fin 16) (v : W64) : (mircfgWrite s r v).bankView = s.bankView := by
  simp only [mircfgWrite, apply_ite State.bankView, ite_self, ↓setMir_bankView]

theorem mirmapWrite_bankView (s : State) (v : W64) : (mirmapWrite s v).bankView = s.bankView := by
  simp only [mirmapWrite, apply_ite State.bankView, ite_self, ↓setMir_bankView]

theorem mirresvWrite_bankView (s : State) (v : W64) : (mirresvWrite s v).bankView = s.bankView := by
  simp only [mirresvWrite, apply_ite State.bankView, ite_self, ↓setMir_bankView]

theorem partnerEvent_bankView (s : State) (f : State → Option State) (h : ∀ s, ((f s).getD s).bankView = s.bankView) :
    (outState s (partnerEvent s f)).bankView = s.bankView := by
  refine event_bankView s _ ?_
  split
  · rfl
  split
  · have hf := h (setMir s { s.mir with out := [] })
    cases hs : f (setMir s { s.mir with out := [] }) with
    | none => rfl
    | some s1 => rw [hs] at hf; exact (mirAdvance_bankView s1).trans (hf.trans (setMir_bankView ..))
  · exact wakeRequest_bankView s dVellum
  · rfl

theorem sendAck_bankView (s : State) (g : BitVec 16) (gen isRec : Bool) : (sendAck s g gen isRec).bankView = s.bankView := rfl

theorem sendNack_bankView (s : State) (code : BitVec 4) (g : BitVec 16) (isRec : Bool) : (sendNack s code g isRec).bankView = s.bankView := rfl

theorem crcRecord_bankView (s : State) (range : BitVec 4) (idx : BitVec 16) (crc : W32) (inj : Bool) :
    (crcRecord s range idx crc inj).bankView = s.bankView := by
  simp only [crcRecord, ↓postRecord_bankView]

theorem execMirrorGranuleRead_bankView (uncorrectable : Bool) (s : State) :
    (outState s (execMirrorGranuleRead uncorrectable s)).bankView = s.bankView := by
  refine partnerEvent_bankView s _ fun s => ?_
  grind [setMir_bankView, releaseHeld_bankView, setMapBit_bankView, emit_bankView, abandonCommit_bankView, !mirCheck_bankView]

theorem execMirrorHeldWrite_bankView (pa : BitVec 56) (bytes : List Byte) (s : State) :
    (outState s (execMirrorHeldWrite pa bytes s)).bankView = s.bankView := by
  refine event_bankView s _ ?_
  dsimp only
  repeat' split
  all_goals simp only [Option.getD_some, Option.getD_none, ↓setMir_bankView, ↓askGranules_bankView]

theorem execPartnerAck_bankView (g : BitVec 16) (gen isRec : Bool) (s : State) :
    (outState s (execPartnerAck g gen isRec s)).bankView = s.bankView := by
  refine partnerEvent_bankView s _ fun s => ?_
  repeat' split
  all_goals simp only [Option.getD_some, Option.getD_none, ↓setMir_bankView, ↓commitDone_bankView]

theorem execPartnerNack_bankView (code : BitVec 4) (g : BitVec 16) (isRec : Bool) (s : State) :
    (outState s (execPartnerNack code g isRec s)).bankView = s.bankView := by
  refine partnerEvent_bankView s _ fun s => ?_
  repeat' split
  all_goals simp only [Option.getD_some, Option.getD_none, ↓abandonCommit_bankView, ↓setMir_bankView]

theorem execPartnerCredit_bankView (n : BitVec 3) (s : State) : (outState s (execPartnerCredit n s)).bankView = s.bankView := by
  refine partnerEvent_bankView s _ fun s => ?_
  split <;> simp only [Option.getD_some, Option.getD_none, ↓setMir_bankView]

theorem execMirrorCommitAbandon_bankView (s : State) : (outState s (execMirrorCommitAbandon s)).bankView = s.bankView := by
  refine event_bankView s _ ?_
  split <;> simp only [Option.getD_some, Option.getD_none, ↓abandonCommit_bankView, ↓mirAdvance_bankView]

theorem receiverWrite_bankView (s : State) (pa : Nat) (bs : List Byte) : (receiverWrite s pa bs).bankView = s.bankView := by
  simp only [receiverWrite, apply_ite State.bankView, ite_self, ↓noteFabricWrite_bankView, ↓cohWrite_bankView]

theorem execPartnerGranuleReceive_bankView (range : BitVec 4) (idx : BitVec 16) (gen : Bool) (ply : BitVec 60) (crc : W32) (bytes : List Byte)
    (s : State) :
    (outState s (execPartnerGranuleReceive range idx gen ply crc bytes s)).bankView = s.bankView := by
  refine partnerEvent_bankView s _ fun s => ?_
  dsimp only
  repeat' split
  all_goals simp only [Option.getD_some, Option.getD_none, ↓setMir_bankView, ↓askVisible_bankView, ↓receiverWrite_bankView, ↓crcRecord_bankView,
    ↓sendNack_bankView,
    ↓disarm_bankView]

theorem fetchRecord_bankView (s : State) (f : Fetch) (b : List Byte) (inj : Bool) : (fetchRecord s f b inj).bankView = s.bankView := by
  simp only [fetchRecord, apply_ite State.bankView, ite_self, ↓abortFetch_bankView, ↓crcRecord_bankView, ↓sendNack_bankView, ↓setMir_bankView,
    ↓sendAck_bankView]

theorem execPartnerRecordReceive_bankView (bytes : List Byte) (s : State) :
    (outState s (execPartnerRecordReceive bytes s)).bankView = s.bankView := by
  refine partnerEvent_bankView s _ fun s => ?_
  dsimp only
  repeat' split
  all_goals simp only [Option.getD_some, Option.getD_none, ↓setMir_bankView, ↓crcRecord_bankView, ↓sendNack_bankView, ↓fetchRecord_bankView,
    ↓disarm_bankView]

theorem execPartnerWriteVisible_bankView (s : State) : (outState s (execPartnerWriteVisible s)).bankView = s.bankView := by
  refine partnerEvent_bankView s _ fun s => ?_
  dsimp only
  repeat' split
  all_goals simp only [Option.getD_some, Option.getD_none, ↓fetchDone_bankView, ↓sendAck_bankView, ↓setMir_bankView, ↓askVisible_bankView,
    ↓receiverWrite_bankView]

theorem execPartnerFreq_bankView (rmask : BitVec 16) (gen : BitVec 2) (verify : Bool) (s : State) :
    (outState s (execPartnerFreq rmask gen verify s)).bankView = s.bankView := by
  refine partnerEvent_bankView s _ fun s => ?_
  grind [setMir_bankView, !mirCheck_bankView, endServe_bankView]

theorem verifyGranule_bankView (s : State) (f : Fetch) (gen : Bool) (g pa : Nat) (bs : List Byte) :
    (verifyGranule s f gen g pa bs).bankView = s.bankView := by
  grind [verifyGranule, abortFetch_bankView, !mirCheck_bankView, setMir_bankView, sendAck_bankView]

theorem fetchCrc_bankView (s : State) (f : Fetch) (g : Nat) : (fetchCrc s f g).bankView = s.bankView := by
  simp only [fetchCrc, apply_ite State.bankView, ite_self, ↓setMir_bankView, ↓abortFetch_bankView]

theorem execFetchGranuleReceive_bankView (range : BitVec 4) (idx : BitVec 16) (crc : W32) (bytes : List Byte) (s : State) :
    (outState s (execFetchGranuleReceive range idx crc bytes s)).bankView = s.bankView := by
  refine partnerEvent_bankView s _ fun s => ?_
  dsimp only
  repeat' split
  all_goals simp only [Option.getD_some, Option.getD_none, ↓setMir_bankView, ↓askVisible_bankView, ↓receiverWrite_bankView,
    ↓verifyGranule_bankView, ↓crcRecord_bankView,
    ↓sendNack_bankView, ↓fetchCrc_bankView, ↓disarm_bankView]

theorem execPartnerFend_bankView (st : BitVec 4) (s : State) : (outState s (execPartnerFend st s)).bankView = s.bankView := by
  refine partnerEvent_bankView s _ fun s => ?_
  repeat' split
  all_goals simp only [Option.getD_some, Option.getD_none, ↓abortFetch_bankView, ↓endFetch_bankView, ↓fetchDone_bankView, ↓setMir_bankView]

theorem grantPartner_bankView (s : State) : (grantPartner s).bankView = s.bankView := by
  simp only [grantPartner, apply_ite State.bankView, ite_self, ↓setMir_bankView, ↓mirAdvance_bankView, ↓emit_bankView]

theorem execPpLinkUpRise_bankView (s : State) : (outState s (execPpLinkUpRise s)).bankView = s.bankView := by
  refine pinEvent_bankView s _ _ ?_ ?_
  repeat' split
  all_goals simp only [Option.getD_some, Option.getD_none, ↓wakeRequest_bankView, ↓grantPartner_bankView, ↓setMir_bankView]

theorem execPpLinkUpFall_bankView (s : State) : (outState s (execPpLinkUpFall s)).bankView = s.bankView := by
  refine pinEvent_bankView s _ _ ?_ ?_
  repeat' split
  all_goals simp only [Option.getD_some, Option.getD_none, ↓abandonCommit_bankView, ↓abortFetch_bankView, ↓setMir_bankView]

theorem execMirrorTmoExpiry_bankView (s : State) : (outState s (execMirrorTmoExpiry s)).bankView = s.bankView := by
  refine event_bankView s _ ?_
  split <;> simp only [Option.getD_some, Option.getD_none, ↓abandonCommit_bankView, ↓abortFetch_bankView]

/-! ### The L2 way groups, ruled mode, the fills of the caches, the prefetcher and the walks -/

theorem cleanStep_bankView (s : State) (g : Fin 4) : (cleanStep s g).bankView = s.bankView := by
  dsimp only [cleanStep]
  split
  · split
    · exact (setDom_bankView ..).trans (foldl_bankView _ discardLine_bankView _ s)
    split
    · exact foldl_bankView _ evictL2_bankView _ s
    · exact setDom_bankView ..
  · rfl

theorem cleanSteps_bankView (s : State) : (cleanSteps s).bankView = s.bankView := by
  simp only [cleanSteps, foldl_bankView, implies_true, ↓cleanStep_bankView]

theorem setBusy_bankView (s : State) (g : Fin 4) (v : Bool) : (setBusy s g v).bankView = s.bankView := rfl

theorem driveGroup_bankView (s : State) (g : Fin 4) : (driveGroup s g).bankView = s.bankView := by
  simp only [driveGroup, ↓State.bankView_mk, State.bankView_pair, apply_ite State.bankView, ite_self, ↓setDom_bankView, ↓setBusy_bankView]

theorem driveGroups_bankView (s : State) : (driveGroups s).bankView = s.bankView := by
  simp only [driveGroups, foldl_bankView, implies_true, ↓driveGroup_bankView]

theorem l2wayWrite_bankView (v : W64) (s : State) : (l2wayWrite v s).bankView = s.bankView := by
  simp only [l2wayWrite, ↓State.bankView_mk, State.bankView_pair, ↓driveGroups_bankView]

theorem cleanL1d_bankView (s : State) : (cleanL1d s).bankView = s.bankView := by
  simp only [cleanL1d, foldl_bankView, implies_true, ↓flushL1d_bankView]

theorem ruledWrite_bankView (v : W64) (b : Bank) (s : State) : (ruledWrite v b s).state.bankView = s.bankView := by
  have wakes (l : List (Fin 32)) (s : State) : (l.foldl wakeRequest s).bankView = s.bankView := foldl_bankView _ wakeRequest_bankView l s
  dsimp only [ruledWrite]
  repeat' split
  all_goals simp only [Res.state, ↓State.bankView_mk, State.bankView_pair, wakes, ↓cleanL1d_bankView]

theorem dropL1i_bankView (s : State) (la : BitVec 50) : (dropL1i s la).bankView = s.bankView := rfl

theorem meetL1i_bankView (s : State) (la : BitVec 50) : (meetL1i s la).bankView = s.bankView := by
  unfold meetL1i
  repeat' split
  all_goals simp only [↓clearSpot_bankView, ↓dropL1i_bankView, ↓postRecord_bankView]

theorem fillL1i_bankView (s0 : State) (la : BitVec 50) (va : W64) : (fillL1i s0 la va).bankView = s0.bankView := by
  simp only [fillL1i, ↓State.bankView_mk, State.bankView_pair, apply_ite State.bankView, ite_self, ↓injFill_bankView, ↓fillL2_bankView,
    ↓meetL1i_bankView]

theorem fetchLine_bankView (s : State) (va : W64) : ((fetchLine s va).getD s).bankView = s.bankView := by
  grind [fetchLine, State.bankView_mk, State.bankView_pair, Tr.state, fillL1i_bankView, !translate_bankView]

theorem walkBegin_bankView (s : State) (r : WalkReq) (va : W64) : ((walkBegin s r va).getD s).bankView = s.bankView := by
  unfold walkBegin
  repeat' split
  all_goals simp only [↓State.bankView_mk, State.bankView_pair, Option.getD_some, Option.getD_none]

theorem walkDrop_bankView (s : State) (i : Nat) : (walkDrop s i).bankView = s.bankView := rfl

theorem portFault_bankView (s : State) (a : Nat) : (portFault s a).bankView = s.bankView := by
  simp only [portFault, ↓postRecord_bankView, ↓draw_bankView]

theorem walkReturn_bankView (s : State) (i : Nat) (err : Bool) : ((walkReturn s i err).getD s).bankView = s.bankView := by
  unfold walkReturn
  split
  · rfl
  next w _ =>
  split
  · exact walkDrop_bankView s i
  dsimp only
  split
  · exact walkDrop_bankView s i
  split
  · exact (walkDrop_bankView ..).trans (portFault_bankView ..)
  have hr := walkRead_bankView s (descAddr w.table w.level w.va) w.ty
  split
  · next h => rw [h] at hr; exact (walkDrop_bankView ..).trans hr
  next s1 d h =>
  rw [h] at hr
  split
  · exact (walkDrop_bankView ..).trans hr
  · exact (walkCacheAdd_bankView ..).trans hr
  split
  · exact (askGranules_bankView ..).trans hr
  · simp only [Option.getD_some, apply_ite State.bankView, ↓walkDrop_bankView, ↓installL2_bankView, ↓installIn_bankView, ↓walkWrite_bankView,
    ite_self]
    exact hr

theorem execL1iMissFill_bankView (va : W64) (s : State) : (outState s (execL1iMissFill va s)).bankView = s.bankView := by
  refine event_bankView s _ ?_
  split <;> simp only [Option.getD_none, ↓fetchLine_bankView]

theorem execL1dMissFill_bankView (s : State) : (outState s (execL1dMissFill s)).bankView = s.bankView := by
  refine event_bankView s _ ?_
  simp only [Option.getD_some, ↓missFill_bankView]

theorem execPrefetchFill_bankView (line : BitVec 56) (err : Bool) (s : State) : (outState s (execPrefetchFill line err s)).bankView = s.bankView := by
  refine event_bankView s _ ?_
  dsimp only
  repeat' split
  all_goals simp only [↓State.bankView_mk, State.bankView_pair, Option.getD_some, Option.getD_none, ↓fillL2_bankView]

theorem execPageWalk_bankView (r : WalkReq) (va : W64) (s : State) : (outState s (execPageWalk r va s)).bankView = s.bankView := by
  refine event_bankView s _ ?_
  simp only [↓walkBegin_bankView]

/-! ### The inkwell: BMODE, ICLR, the three forms of IDRAIN with their conversions, and the power-up zeroing -/

theorem execWalkDescriptorReturn_bankView (i : Nat) (err : Bool) (s : State) :
    (outState s (execWalkDescriptorReturn i err s)).bankView = s.bankView := by
  refine event_bankView s _ ?_
  simp only [↓walkReturn_bankView]

theorem bmodeBody_bankView (semi : BitVec 3) (k : Who) (b : Bank) (s : State) : (bmodeBody semi k b s).state.bankView = s.bankView := rfl

theorem iclrBody_bankView (gr gc : GReg) (k : Who) (b : Bank) (s : State) : (iclrBody gr gc k b s).state.bankView = s.bankView := by
  dsimp only [iclrBody]
  split
  · rfl
  refine checked_bankView _ _ (boardAccept_bankView _ fun k b s => ?_) ..
  simp only [Res.state, ↓acceptOp_bankView]

theorem idrainTileBody_bankView (gr : GReg) (t : TReg) (o : DrainOpts) (k : Who) (b : Bank) (s : State) :
    (idrainTileBody gr t o k b s).state.bankView = s.bankView := by
  refine checked_bankView _ _ (boardAccept_bankView _ fun k b s => ?_) ..
  exact (settleTile_bankView ..).trans ((setDirty_bankView ..).trans (acceptOp_bankView ..))

theorem drainMeet_bankView (s : State) (semi : BitVec 3) (row first n : Nat) : (drainMeet s semi row first n).bankView = s.bankView := by
  simp only [drainMeet, ↓inkMeetRow_bankView, ↓rowSample_bankView]

theorem drainTileRow_bankView (o : Op) (s : State) (r : Nat) : (drainTileRow o s r).bankView = s.bankView := by
  simp only [drainTileRow, apply_ite State.bankView, ite_self, ↓putScale_bankView, ↓putRow_bankView, ↓drainMeet_bankView]

theorem idrainVectorBody_bankView (c : Instr) (gr : GReg) (vd : VReg) (o : DrainOpts) (k : Who) (b : Bank) (s : State) :
    (idrainVectorBody c gr vd o k b s).state.bankView = s.bankView := by
  dsimp only [idrainVectorBody]
  split
  · rfl
  refine checked_bankView _ _ (fun k b s => ?_) ..
  split
  · rfl
  · exact drainMeet_bankView s ..

theorem idrainMemoryBody_bankView (c : Instr) (gr ga gb : GReg) (q : QNum) (o : DrainOpts) (k : Who) (b : Bank) (s : State) :
    (idrainMemoryBody c gr ga gb q o k b s).state.bankView = s.bankView := by
  dsimp only [idrainMemoryBody]
  split
  · rfl
  refine checked_bankView _ _ (boardAccept_bankView _ fun k b s => ?_) ..
  split
  · exact acceptOp_bankView s _
  · rfl

theorem drainTake_bankView (s : State) (o : Op) (l : Nat) : (drainTake s o l).bankView = s.bankView := by
  simp only [drainTake, apply_ite State.bankView, ite_self, ↓drainMeet_bankView, ↓updOp_bankView]

theorem drainIssuer_bankView : IssuerViews drainIssuer := fun s o => drainTake_bankView s o o.iline

theorem portAdvance_bankView (s : State) (o : Op) : (portAdvance s o).bankView = s.bankView := by
  refine foldl_bankView _ (fun s e => ?_) _ s
  split
  · exact issueTo_bankView _ drainIssuer_bankView ..
  · rfl

theorem execARowEntry_bankView (s : State) : (outState s (execARowEntry s)).bankView = s.bankView := by
  refine event_bankView s _ (bind_bankView _ _ fun o => ?_)
  dsimp only
  repeat' split
  all_goals simp only [↓State.bankView_mk, State.bankView_pair, Option.getD_some, Option.getD_none, ↓updOp_bankView, ↓rowRead_bankView,
    ↓portAdvance_bankView]

theorem execIclrComplete_bankView (s : State) : (outState s (execIclrComplete s)).bankView = s.bankView := by
  refine event_bankView s _ (bind_bankView _ _ fun o => ?_)
  have row (base i entries : Nat) (v : Ink) (s : State) : ((List.range entries).foldl (fun s e => inkWrite s (base + i) e v) s).bankView = s.bankView :=
    foldl_bankView _ (fun s e => inkWrite_bankView s (base + i) e v) _ s
  dsimp only
  split
  · exact (dropOp_bankView ..).trans ((foldl_bankView _ (fun s i => row _ i _ _ s) _ _).trans (portAdvance_bankView s o))
  · rfl

theorem execIdrainTileComplete_bankView (t : TReg) (s : State) : (outState s (execIdrainTileComplete t s)).bankView = s.bankView := by
  refine event_bankView s _ (bind_bankView _ _ fun o => ?_)
  dsimp only
  split
  · exact (settleTile_bankView ..).trans ((dropOp_bankView ..).trans ((foldl_bankView _ (drainTileRow_bankView o) _ _).trans (portAdvance_bankView s o)))
  · rfl

theorem execIdrainMemoryComplete_bankView (q : QNum) (s : State) : (outState s (execIdrainMemoryComplete q s)).bankView = s.bankView := by
  refine event_bankView s _ (map_bankView _ _ fun o => ?_)
  simp only [apply_ite State.bankView, ite_self, ↓settleLines_bankView, ↓finishQueued_bankView]

/-! ### The stream engine: SMOVE with its descriptor and its lines, the memory drain's rows, completion, faults and restart -/

theorem smoveBody_bankView (q : QNum) (ga : GReg) (k : Who) (b : Bank) (s : State) : (smoveBody q ga k b s).state.bankView = s.bankView := by
  unfold smoveBody
  repeat' split
  all_goals simp only [Res.state, ↓acceptOp_bankView]

theorem clearRecord_bankView (s : State) (q : QNum) : (clearRecord s q).bankView = s.bankView := by
  simp only [clearRecord, ↓State.bankView_mk, State.bankView_pair, ↓reportStop_bankView]

theorem sqctlBody_bankView (a : SqAct) (q : QNum) (g : GReg) (k : Who) (b : Bank) (s : State) :
    (sqctlBody a q g k b s).state.bankView = s.bankView := by
  grind [sqctlBody, Res.state, postQueue_bankView, updOp_bankView, clearRecord_bankView]

theorem putInkBytes_bankView (s : State) (row e : Nat) (bs : List Byte) : (putInkBytes s row e bs).bankView = s.bankView := by
  simp only [putInkBytes, foldl_bankView, implies_true, ↓inkWrite_bankView]

theorem partMade_bankView (s : State) (o : Op) (l n off : Nat) (fab : Bool) : (partMade s o l n off fab).bankView = s.bankView := by
  simp only [partMade, apply_ite State.bankView, ite_self, ↓updOp_bankView, ↓reportStop_bankView, ↓lineMade_bankView]

theorem movedBytes_bankView (d : Desc) (src dst : W64) (bs : List Byte) (s : State) : (movedBytes d src dst bs s).2.bankView = s.bankView := by
  unfold movedBytes
  split <;> simp only [↓spent_bankView]

theorem smoveIssuer_bankView (d : Desc) : IssuerViews (smoveIssuer d) := fun _ _ => rfl

theorem smoveRead_bankView (s : State) (o : Op) (d : Desc) (l off k : Nat) : (smoveRead s o d l off k).1.state.bankView = s.bankView := by
  grind [smoveRead, SOut.state, !streamRead_bankView, inkMeetRow_bankView]

theorem smoveWrite_bankView (s : State) (o : Op) (d : Desc) (l off : Nat) (bs : List Byte) : (smoveWrite s o d l off bs).bankView = s.bankView := by
  grind [smoveWrite, WOut.state, stopLine_bankView, !streamWrite_bankView, putInkBytes_bankView, partMade_bankView]

theorem smoveStep_bankView (s : State) (o : Op) (d : Desc) (l : Nat) : (smoveStep s o d l).bankView = s.bankView := by
  grind [smoveStep, SOut.state, smoveWrite_bankView, !movedBytes_bankView, !smoveRead_bankView, wakeRequest_bankView, stopLine_bankView]

theorem drainStep_bankView (s : State) (o : Op) (l : Nat) : (drainStep s o l).bankView = s.bankView := by
  grind [drainStep, WOut.state, partMade_bankView, stopLine_bankView, !streamWrite_bankView]

theorem postSmove_bankView (s : State) (o : Op) : (postSmove s o).bankView = s.bankView := by
  simp only [postSmove, apply_ite State.bankView, ite_self, ↓dropOp_bankView, ↓countDone_bankView, ↓postQueue_bankView, ↓pend_bankView,
    ↓postEvent_bankView]

theorem stopPost_bankView (s : State) (o : Op) (c : BitVec 5) (detail : Byte) (va pa : W64) :
    (stopPost s o c detail va pa).bankView = s.bankView := by
  simp only [stopPost, ↓updOp_bankView, ↓stopOp_bankView]

theorem stopDesc_bankView (s : State) (o : Op) (c : BitVec 5) (detail : Byte) (a pa : W64) : (stopDesc s o c detail a pa).bankView = s.bankView := by
  simp only [stopDesc, ↓stopOp_bankView]

theorem issuerOf_bankView (o : Op) : IssuerViews (issuerOf o) := by
  unfold issuerOf
  split
  · exact smoveIssuer_bankView _
  · exact drainIssuer_bankView

theorem queueFault_bankView (s : State) (q : QNum) (c : BitVec 5) (detail : Byte) (va pa : W64) (write : Bool) :
    ((queueFault s q c detail va pa write).getD s).bankView = s.bankView := by
  unfold queueFault
  split
  · exact stopPost_bankView ..
  split
  · exact stopDesc_bankView ..
  cases (movers s q).head? with
  | none => rfl
  | some o =>
    dsimp only [Option.map_some, Option.getD_some]
    split
    · exact stopLine_bankView ..
    · exact stopOp_bankView ..

theorem execStreamDescriptorRead_bankView (q : QNum) (s : State) : (outState s (execStreamDescriptorRead q s)).bankView = s.bankView := by
  refine event_bankView s _ (map_bankView _ _ fun o => ?_)
  grind [SOut.state, updOp_bankView, stopDesc_bankView, !streamRead_bankView]

theorem execStreamOpStart_bankView (q : QNum) (s : State) : (outState s (execStreamOpStart q s)).bankView = s.bankView := by
  refine event_bankView s _ (bind_bankView _ _ fun o => ?_)
  dsimp only
  repeat' split
  all_goals simp only [Option.getD_some, Option.getD_none, ↓updOp_bankView]

theorem execStreamRequestComplete_bankView (q : QNum) (line : Nat) (s : State) :
    (outState s (execStreamRequestComplete q line s)).bankView = s.bankView := by
  refine event_bankView s _ (bind_bankView _ _ fun p => ?_)
  obtain ⟨o, l⟩ := p
  have hi (n : Nat) := issueTo_bankView (issuerOf o) (issuerOf_bankView o) o.id l (movedOf o l) n s
  dsimp only
  split
  · rfl
  dsimp only [Option.getD_some]
  split
  · split
    · exact hi _
    split
    · exact (smoveStep_bankView ..).trans (hi _)
    · exact (drainStep_bankView ..).trans (hi _)
  · exact hi _

theorem execStreamFault_bankView (q : QNum) (cause : BitVec 5) (detail : Byte) (va pa : W64) (write : Bool) (s : State) :
    (outState s (execStreamFault q cause detail va pa write s)).bankView = s.bankView := by
  refine event_bankView s _ ?_
  split <;> simp only [Option.getD_none, ↓queueFault_bankView]

theorem execSmoveComplete_bankView (q : QNum) (s : State) : (outState s (execSmoveComplete q s)).bankView = s.bankView := by
  refine event_bankView s _ (map_bankView _ _ fun o => ?_)
  grind [WOut.state, settleLines_bankView, stopPost_bankView, !streamWrite_bankView, postSmove_bankView]

/-! ### The vector instructions: integer, floating point, compares, reductions, conversions, element moves and masks -/

theorem vintBody_bankView (f : VInt) (vd va vb : VReg) (mk : Option MReg) (wc : BitVec 2) (k : Who) (b : Bank) (s : State) :
    (vintBody f vd va vb mk wc k b s).state.bankView = s.bankView := rfl

theorem vfpBody_bankView (f : VFp) (vd va vb : VReg) (mk : Option MReg) (wc : BitVec 2) (k : Who) (b : Bank) (s : State) :
    (vfpBody f vd va vb mk wc k b s).state.bankView = s.bankView := rfl

theorem vcmpBody_bankView (f : VCmp) (md : MReg) (va vb : VReg) (mk : Option MReg) (wc : BitVec 2) (k : Who) (b : Bank) (s : State) :
    (vcmpBody f md va vb mk wc k b s).state.bankView = s.bankView := rfl

theorem vfcmpBody_bankView (f : Nat) (md : MReg) (va vb : VReg) (mk : Option MReg) (wc : BitVec 2) (k : Who) (b : Bank) (s : State) :
    (vfcmpBody f md va vb mk wc k b s).state.bankView = s.bankView := rfl

theorem vredBody_bankView (f : VRed) (vd va : VReg) (mk : Option MReg) (wc : BitVec 2) (k : Who) (b : Bank) (s : State) :
    (vredBody f vd va mk wc k b s).state.bankView = s.bankView := rfl

theorem vraddBody_bankView (vd va : VReg) (mk : Option MReg) (wc : BitVec 2) (k : Who) (b : Bank) (s : State) :
    (vraddBody vd va mk wc k b s).state.bankView = s.bankView := rfl

theorem vcvtBody_bankView (vd va : VReg) (dt st : BitVec 4) (sat : Bool) (mk : Option MReg) (k : Who) (b : Bank) (s : State) :
    (vcvtBody vd va dt st sat mk k b s).state.bankView = s.bankView := rfl

theorem vextBody_bankView (gd : GReg) (va : VReg) (gb : GReg) (wc : BitVec 2) (k : Who) (b : Bank) (s : State) :
    (vextBody gd va gb wc k b s).state.bankView = s.bankView := rfl

theorem vinsBody_bankView (vd : VReg) (gs gb : GReg) (wc : BitVec 2) (k : Who) (b : Bank) (s : State) :
    (vinsBody vd gs gb wc k b s).state.bankView = s.bankView := rfl

theorem vsplatBody_bankView (vd : VReg) (gs : GReg) (wc : BitVec 2) (k : Who) (b : Bank) (s : State) :
    (vsplatBody vd gs wc k b s).state.bankView = s.bankView := rfl

theorem maskBody_bankView (md : MReg) (f : Bank → MWord) (k : Who) (b : Bank) (s : State) : (maskBody md f k b s).state.bankView = s.bankView := rfl

theorem mcntBody_bankView (gd : GReg) (ma : MReg) (k : Who) (b : Bank) (s : State) : (mcntBody gd ma k b s).state.bankView = s.bankView := rfl

/-! ### The scribes: work rings, dispatch, threads and the Kodom that they execute, posting, faults and abandoning -/

theorem setScribe_bankView (s : State) (k : ScribeNum) (x : Scribe) : (setScribe s k x).bankView = s.bankView := rfl

theorem setRing'_bankView (s : State) (w : RingNum) (x : Ring) : (setRing' s w x).bankView = s.bankView := rfl

theorem setThread_bankView (s : State) (k : ScribeNum) (t : Fin 128) (x : Option Thread) : (setThread s k t x).bankView = s.bankView := rfl

theorem updPlaced_bankView (s : State) (w : RingNum) (i : BitVec 16) (f : Placed → Placed) : (updPlaced s w i f).bankView = s.bankView := rfl

theorem writeReport_bankView (s : State) (k : ScribeNum) (r : Report) : (writeReport s k r).bankView = s.bankView := by
  unfold writeReport
  split <;> simp only [apply_ite State.bankView, ite_self, ↓pend_bankView, ↓setThread_bankView, ↓updPlaced_bankView, ↓setScribe_bankView]

theorem reportScribe_bankView (s : State) (k : ScribeNum) : (reportScribe s k).bankView = s.bankView := by
  dsimp only [reportScribe]
  split <;> simp only [apply_ite State.bankView, ite_self, ↓setScribe_bankView, ↓writeReport_bankView]

theorem addReport_bankView (s : State) (k : ScribeNum) (r : Report) : (addReport s k r).bankView = s.bankView := by
  simp only [addReport, ↓setScribe_bankView, ↓reportScribe_bankView]

theorem stopThread_bankView (s : State) (k : ScribeNum) (t : Fin 128) (x : Thread) (cause : BitVec 5) (addr phys : W64) :
    (stopThread s k t x cause addr phys).bankView = s.bankView := by
  simp only [stopThread, ↓setThread_bankView, ↓addReport_bankView]

theorem stopAll_bankView (s : State) (k : ScribeNum) (cause : BitVec 5) : (stopAll s k cause).bankView = s.bankView := by
  refine foldl_bankView _ (fun s t => ?_) _ s
  split
  · split
    · rfl
    · exact stopThread_bankView ..
  · rfl

theorem scrFltWrite_bankView (s : State) (k : ScribeNum) (v : W64) : (scrFltWrite s k v).bankView = s.bankView := by
  simp only [scrFltWrite, apply_ite State.bankView, ite_self, ↓setScribe_bankView, ↓reportScribe_bankView]

theorem refuse_bankView (s : State) (w : RingNum) (d : Vector W64 8) (cause : BitVec 5) : (refuse s w d cause).bankView = s.bankView := by
  simp only [refuse, ↓State.bankView_mk, State.bankView_pair, ↓addReport_bankView, ↓setRing'_bankView]

theorem fetchDescriptor_bankView (s : State) (w : RingNum) : (fetchDescriptor s w).bankView = s.bankView := by
  simp only [fetchDescriptor, apply_ite State.bankView, ite_self, ↓setRing'_bankView, ↓readCheck_bankView]

theorem placeDescriptor_bankView (s : State) (w : RingNum) (d : Vector W64 8) (bad : Bool) : (placeDescriptor s w d bad).bankView = s.bankView := by
  dsimp only [placeDescriptor]
  repeat' split
  all_goals simp only [↓State.bankView_mk, State.bankView_pair, ↓setRing'_bankView, ↓wakeRequest_bankView, ↓refuse_bankView]

theorem dispatch_bankView (s : State) (w : RingNum) : (dispatch s w).bankView = s.bankView := by
  dsimp only [dispatch]
  split <;> simp only [↓State.bankView_mk, State.bankView_pair, ↓placeDescriptor_bankView, ↓fetchDescriptor_bankView]

theorem startThread_bankView (s : State) (k : ScribeNum) : ((startThread s k).getD s).bankView = s.bankView := by
  unfold startThread
  split <;> simp only [Option.getD_some, Option.getD_none, ↓setThread_bankView, ↓updPlaced_bankView]

theorem scrCall_bankView (target : W64) (k : Who) (b : Bank) (s : State) : (scrCall target k b s).state.bankView = s.bankView := by
  grind [scrCall, Res.state, StoreOut.state, !storeBytes_bankView]

theorem scrCallr_bankView (ra : GReg) (k : Who) (b : Bank) (s : State) : (scrCallr ra k b s).state.bankView = s.bankView := by
  grind [scrCallr, Res.state, !scrCall_bankView]

theorem scrRet_bankView (k : Who) (b : Bank) (s : State) : (scrRet k b s).state.bankView = s.bankView := by
  grind [scrRet, LoadOut.state, Res.state, !loadBytes_bankView]

theorem scrFence_bankView (k : Who) (b : Bank) (s : State) : (scrFence k b s).state.bankView = s.bankView := by
  unfold scrFence
  split <;> simp only [Res.state, ↓askVisible_bankView]

theorem scrEnd_bankView (k : Who) (b : Bank) (s : State) : (scrEnd k b s).state.bankView = s.bankView := by
  unfold scrEnd
  repeat' split
  all_goals simp only [Res.state, ↓setThread_bankView, ↓updPlaced_bankView]

theorem fillScr_bankView (s : State) (k : ScribeNum) (pa : Nat) : (fillScr s k pa).bankView = s.bankView := by
  simp only [fillScr, ↓State.bankView_mk, State.bankView_pair, apply_ite State.bankView, ite_self, ↓fillL2_bankView]

theorem scrFetch_bankView (k : ScribeNum) (t : Fin 128) (x : Thread) (va : W64) (s : State) : (scrFetch k t x va s).1.bankView = s.bankView := by
  grind [scrFetch, Tr.state, fillScr_bankView, !accessCheck_bankView, !translate_bankView]

/-- A choice of a body for a thread of a scribe, each of which leaves FL, SSP and the windows of the core as they are. -/
def ChoiceViews (o : Option Body) : Prop := ∀ body, o = some body → ∀ k t b s, (body (.scribe k t) b s).state.bankView = s.bankView

theorem ChoiceViews.none : ChoiceViews none := nofun

theorem ChoiceViews.some {body : Body} (h : ∀ k t b s, (body (.scribe k t) b s).state.bankView = s.bankView) : ChoiceViews (some body) := by
  rintro _ ⟨⟩
  exact h

theorem ChoiceViews.ite {p : Prop} [Decidable p] {o o' : Option Body} (h : ChoiceViews o) (h' : ChoiceViews o') :
    ChoiceViews (if p then o else o') := by
  split
  · exact h
  · exact h'

theorem scrMfc_bankView (rd : GReg) (n : Nat) : ChoiceViews (scrMfc rd n) := by
  have gives (f : Bank → State → W64) : ChoiceViews (Option.some fun _ b s => .ok (wg b rd (f b s)) s) := .some fun _ _ _ _ => rfl
  exact .ite (gives _) (.ite (gives _) (.ite (gives _) (.ite (gives _) (.ite (gives _) (.ite (gives _) .none)))))

theorem scrMtc_bankView (rs : GReg) (n : Nat) : ChoiceViews (scrMtc rs n) :=
  .ite (.some fun _ _ _ _ => rfl) (.ite (.some fun _ _ _ _ => rfl) (.ite (.some fun _ _ _ _ => rfl) .none))

theorem postDesc_bankView (s : State) (p : Placed) : (postDesc s p).bankView = s.bankView := by
  simp only [postDesc, ↓State.bankView_mk, State.bankView_pair, apply_ite State.bankView, ite_self, ↓pend_bankView, ↓postEvent_bankView,
    ↓setRing'_bankView]

theorem postNext_bankView (s : State) (w : RingNum) : ((postNext s w).getD s).bankView = s.bankView := by
  grind [postNext, StoreOut.state, addReport_bankView, postDesc_bankView, !storeBytes_bankView, askVisible_bankView]

theorem abortRing_bankView (s : State) (w : RingNum) : (abortRing s w).bankView = s.bankView := by
  simp only [abortRing, ↓State.bankView_mk, State.bankView_pair, apply_ite State.bankView, ite_self, ↓setRing'_bankView]

theorem swctlWrite_bankView (s : State) (w : RingNum) (v : W64) : (swctlWrite s w v).bankView = s.bankView := by
  simp only [swctlWrite, apply_ite State.bankView, ite_self, ↓abortRing_bankView, ↓setRing'_bankView]

theorem slaunchBody_bankView (w : RingNum) (gn : GReg) (k : Who) (b : Bank) (s : State) : (slaunchBody w gn k b s).state.bankView = s.bankView := by
  grind [slaunchBody, Res.state, setRing'_bankView]

theorem execDescriptorDispatch_bankView (w : RingNum) (s : State) : (outState s (execDescriptorDispatch w s)).bankView = s.bankView := by
  refine event_bankView s _ ?_
  split <;> simp only [Option.getD_some, Option.getD_none, ↓dispatch_bankView]

theorem execThreadStart_bankView (k : ScribeNum) (s : State) : (outState s (execThreadStart k s)).bankView = s.bankView := by
  refine event_bankView s _ ?_
  split <;> simp only [Option.getD_none, ↓startThread_bankView]

theorem execScribeDescriptorPost_bankView (w : RingNum) (s : State) : (outState s (execScribeDescriptorPost w s)).bankView = s.bankView := by
  refine event_bankView s _ ?_
  split <;> simp only [Option.getD_none, ↓postNext_bankView]

theorem execScribeFault_bankView (k : ScribeNum) (thread : Fin 128) (cause : BitVec 5) (va pa : W64) (s : State) :
    (outState s (execScribeFault k thread cause va pa s)).bankView = s.bankView := by
  refine event_bankView s _ ?_
  repeat' split
  all_goals simp only [Option.getD_some, Option.getD_none, ↓stopThread_bankView]

theorem execScribeLimitExpiry_bankView (k : ScribeNum) (thread : Fin 128) (s : State) :
    (outState s (execScribeLimitExpiry k thread s)).bankView = s.bankView := by
  refine event_bankView s _ ?_
  repeat' split
  all_goals simp only [Option.getD_some, Option.getD_none, ↓stopThread_bankView]

/-! ### Error records as events, the FIFO's pointers, the scrubbers, and the error manager -/

theorem scrubNext_bankView (s : State) (k : Fin 5) : (scrubNext s k).bankView = s.bankView := rfl

theorem postCeIn_bankView (s : State) (unit : Byte) (n : Nat) (loc : Nat → Nat) (ce : Ecc) : (postCeIn s unit n loc ce).bankView = s.bankView := by
  unfold postCeIn
  split <;> simp only [↓postCe_bankView, ↓draw_bankView]

theorem execVellumScrubStep_bankView (ce : Ecc) (s : State) : (outState s (execVellumScrubStep ce s)).bankView = s.bankView := by
  refine event_bankView s _ ?_
  split <;> simp only [Option.getD_some, Option.getD_none, ↓postCeIn_bankView, ↓scrubNext_bankView, ↓readCheck_bankView]

theorem scrubSet_bankView (s : State) (set : Nat) (ways : List Nat) : (scrubSet s set ways).bankView = s.bankView := by
  simp only [scrubSet, apply_ite State.bankView, ite_self, foldl_bankView, implies_true, ↓meetL2_bankView]

theorem execL2ScrubStep_bankView (ce : Ecc) (s : State) : (outState s (execL2ScrubStep ce s)).bankView = s.bankView := by
  refine event_bankView s _ ?_
  split <;> simp only [apply_ite State.bankView, ite_self, Option.getD_some, Option.getD_none, ↓scrubNext_bankView, ↓postCeIn_bankView,
    ↓scrubSet_bankView]

theorem execScrubCreditGain_bankView (s : State) : (outState s (execScrubCreditGain s)).bankView = s.bankView := by
  refine event_bankView s _ ?_
  split <;> simp only [↓State.bankView_mk, State.bankView_pair, apply_ite State.bankView, ite_self, Option.getD_some, Option.getD_none,
    ↓wakeRequest_bankView]

theorem execTileInkScrubRow_bankView (ink : Bool) (ce : Ecc) (s : State) : (outState s (execTileInkScrubRow ink ce s)).bankView = s.bankView := by
  refine event_bankView s _ ?_
  repeat' split
  all_goals simp only [↓State.bankView_mk, State.bankView_pair, Option.getD_some, Option.getD_none, ↓tileMeet_bankView, ↓postCeIn_bankView,
    ↓scrubNext_bankView,
    ↓inkMeetRow_bankView]

theorem execQuillSramScrubStep_bankView (ce : Ecc) (s : State) : (outState s (execQuillSramScrubStep ce s)).bankView = s.bankView := by
  refine event_bankView s _ ?_
  split <;> simp only [apply_ite State.bankView, ite_self, Option.getD_some, ↓scrubNext_bankView, ↓postCe_bankView, ↓postUe_bankView]

theorem mapParity_bankView (s : State) (loc : W64) : (mapParity s loc).bankView = s.bankView := by
  simp only [mapParity, apply_ite State.bankView, ite_self, foldl_bankView, implies_true, ↓setMapBit_bankView]

theorem markBad_bankView (s : State) (unit : Byte) (loc : W64) : (markBad s unit loc).bankView = s.bankView := by
  unfold markBad
  split <;> simp only [↓State.bankView_mk, State.bankView_pair, apply_ite State.bankView, ite_self, ↓setQu_bankView, ↓setTile_bankView,
    ↓doubleBitL2_bankView]

theorem wrongTally_bankView (s : State) (u : TallyNum) : (wrongTally s u).bankView = s.bankView := rfl

theorem dropEntry_bankView (s : State) (cache entry : Nat) : (dropEntry s cache entry).bankView = s.bankView := by
  unfold dropEntry
  split <;> simp only [↓State.bankView_mk, State.bankView_pair]

theorem dropScr_bankView (s : State) (k : ScribeNum) (pc : Nat) : (dropScr s k pc).bankView = s.bankView := rfl

theorem parityOutcome_bankView (s : State) (unit : Byte) (loc : W64) : (parityOutcome s unit loc).bankView = s.bankView := by
  unfold parityOutcome
  split <;> simp only [↓State.bankView_mk, State.bankView_pair, apply_ite State.bankView, ite_self, ↓dropScr_bankView, ↓dropEntry_bankView,
    ↓wrongTally_bankView,
    ↓mapParity_bankView, ↓dropL1d_bankView, ↓dropL1i_bankView]

theorem hwcheck_bankView (s : State) (unit : Byte) (loc : W64) : (hwcheck s unit loc).bankView = s.bankView := by
  dsimp only [hwcheck]
  repeat' split
  all_goals simp only [↓stopThread_bankView]

theorem detected_bankView (s : State) (cls unit : Byte) (loc : W64) : (detected s cls unit loc).bankView = s.bankView := by
  unfold detected
  split <;> simp only [↓hwcheck_bankView, ↓parityOutcome_bankView, ↓markBad_bankView]

theorem postDetection_bankView (s : State) (cls unit : Byte) (sev : BitVec 2) (loc : W64) (synd : BitVec 24) (inj : Bool) (extra : BitVec 16) :
    (postDetection s cls unit sev loc synd inj extra).bankView = s.bankView := by
  simp only [postDetection, apply_ite State.bankView, ite_self, ↓detected_bankView, ↓postRecord_bankView, ↓disarm_bankView]

theorem errPtrWrite_bankView (s : State) (v : W32) (byQuill : Bool) : (errPtrWrite s v byQuill).bankView = s.bankView := by
  simp only [errPtrWrite, ↓State.bankView_mk, State.bankView_pair, apply_ite State.bankView, ite_self]

theorem errOvfWrite_bankView (s : State) (v : W32) : (errOvfWrite s v).bankView = s.bankView := by
  simp only [errOvfWrite, ↓State.bankView_mk, State.bankView_pair, apply_ite State.bankView, ite_self]

theorem errLinesWrite_bankView (s : State) (v : W32) : (errLinesWrite s v).bankView = s.bankView := by
  simp only [errLinesWrite, ↓State.bankView_mk, State.bankView_pair, apply_ite State.bankView, ite_self]

theorem execErrPtrRdWrite_bankView (v : W32) (byQuill : Bool) (s : State) : (outState s (execErrPtrRdWrite v byQuill s)).bankView = s.bankView := by
  refine event_bankView s _ ?_
  simp only [Option.getD_some, ↓errPtrWrite_bankView]

theorem execErrOvfClear_bankView (v : W32) (s : State) : (outState s (execErrOvfClear v s)).bankView = s.bankView := by
  refine event_bankView s _ ?_
  simp only [Option.getD_some, ↓errOvfWrite_bankView]

theorem execErrLinesFatalClear_bankView (v : W32) (s : State) : (outState s (execErrLinesFatalClear v s)).bankView = s.bankView := by
  refine event_bankView s _ ?_
  simp only [Option.getD_some, ↓errLinesWrite_bankView]

theorem advise_bankView (s : State) (r : BitVec 256) : (advise s r).bankView = s.bankView := by
  unfold advise
  split <;> simp only [apply_ite State.bankView, ite_self, ↓logRecord_bankView, ↓setQu_bankView]

theorem countCorrected_bankView (s : State) (r : BitVec 256) : (countCorrected s r).bankView = s.bankView := by
  simp only [countCorrected, apply_ite State.bankView, ite_self, ↓setQu_bankView]

theorem execErrorManagerConsume_bankView (s : State) : (outState s (execErrorManagerConsume s)).bankView = s.bankView := by
  refine event_bankView s _ ?_
  split <;> simp only [↓State.bankView_mk, State.bankView_pair, Option.getD_some, Option.getD_none, ↓countCorrected_bankView, ↓advise_bankView,
    ↓windowMeet_bankView,
    ↓logRecord_bankView]

/-! ### MFC and MTC: the control registers by number, their rings, how each reads and what a write stores, and the writes that have commands of their
own -/

theorem mirWrite_bankView (s : State) (n : Nat) (v : W64) : (mirWrite s n v).bankView = s.bankView := by
  unfold mirWrite
  repeat' split
  all_goals simp only [↓State.bankView_mk, State.bankView_pair, ↓mirresvWrite_bankView, ↓mirmapWrite_bankView, ↓mirctlWrite_bankView,
    ↓mirAdvance_bankView, ↓mircfgWrite_bankView]

theorem ipendWrite_bankView (s : State) (j : Fin 4) (v : W64) : (ipendWrite s j v).bankView = s.bankView := rfl

theorem isetWrite_bankView (s : State) (j : Fin 4) (v : W64) : (isetWrite s j v).bankView = s.bankView := rfl

theorem errinjWrite_bankView (s : State) (v : W64) : (errinjWrite s v).bankView = s.bankView := by
  simp only [errinjWrite, ↓State.bankView_mk, State.bankView_pair, apply_ite State.bankView, ite_self]

theorem chkdisWrite_bankView (s : State) (v : W64) : (chkdisWrite s v).bankView = s.bankView := rfl

theorem tprogWrite_bankView (s : State) (t : TReg) (v : W64) : (tprogWrite s t v).bankView = s.bankView := by
  simp only [tprogWrite, apply_ite State.bankView, ite_self, ↓setTile_bankView]

theorem tileownWrite_bankView (s : State) (t : TReg) (v : W64) : (tileownWrite s t v).bankView = s.bankView := rfl

theorem swWrite_bankView (s : State) (w : RingNum) (k : Nat) (v : W64) : (swWrite s w k v).bankView = s.bankView := by
  unfold swWrite
  split <;> simp only [apply_ite State.bankView, ite_self, ↓swctlWrite_bankView, ↓setRing'_bankView]

theorem regPlain_bankView (n : Nat) (v : W64) (s : State) : (regPlain n v s).bankView = s.bankView := by
  unfold regPlain
  repeat' split
  all_goals simp only [↓State.bankView_mk, State.bankView_pair, ↓isetWrite_bankView, ↓ipendWrite_bankView, ↓writeTalkbase_bankView,
    ↓scrFltWrite_bankView, ↓swWrite_bankView,
    ↓writeTalsrc_bankView, ↓tprogWrite_bankView, ↓tileownWrite_bankView, ↓mirWrite_bankView, ↓requestWarm_bankView, ↓errinjWrite_bankView,
      ↓chkdisWrite_bankView,
    ↓l2wayWrite_bankView]

theorem mfcBody_bankView (rd : GReg) (n : BitVec 12) (k : Who) (b : Bank) (s : State) : (mfcBody rd n k b s).state.bankView = s.bankView := by
  unfold mfcBody
  repeat' split
  all_goals simp only [Res.state]

/-! ### The power domains: idle sleep and wake, the handshakes, the power-up initialisation, what a domain that goes off discards, and POWER_SET as
it runs -/

theorem dropTlb_bankView (s : State) (d : Fin 32) : (dropTlb s d).bankView = s.bankView := by
  simp only [dropTlb, ↓State.bankView_mk, State.bankView_pair, apply_ite State.bankView, ite_self]

theorem execIdleThresholdExpiry_bankView (d : Fin 32) (s : State) : (outState s (execIdleThresholdExpiry d s)).bankView = s.bankView := by
  refine event_bankView s _ ?_
  dsimp only
  repeat' split
  all_goals simp only [Option.getD_some, Option.getD_none, ↓setDom_bankView, ↓dropTlb_bankView]

theorem execDomainWakeRequest_bankView (d : Fin 32) (s : State) : (outState s (execDomainWakeRequest d s)).bankView = s.bankView := by
  refine event_bankView s _ ?_
  simp only [Option.getD_some, ↓wakeRequest_bankView]

theorem syncPlanes_bankView (s : State) : (syncPlanes s).bankView = s.bankView := by
  simp only [syncPlanes, ↓State.bankView_mk, State.bankView_pair, apply_ite State.bankView, ite_self]

theorem discardOps_bankView (s : State) (p : Op → Bool) : (discardOps s p).bankView = s.bankView := by
  simp only [discardOps, ↓State.bankView_mk, State.bankView_pair, ↓syncPlanes_bankView]

theorem discardDrains_bankView (s : State) : (discardDrains s).bankView = s.bankView :=
  (foldl_bankView _ (fun s (o : Op) => settleTile_bankView s o.t .ready) _ _).trans (discardOps_bankView s _)

theorem abandonOp_bankView (s : State) (o : Op) : (abandonOp s o).bankView = s.bankView := by
  simp only [abandonOp, ↓State.bankView_mk, State.bankView_pair, apply_ite State.bankView, ite_self, ↓postQueue_bankView, ↓updOp_bankView]

theorem discardMemDrains_bankView (s : State) : (discardMemDrains s).bankView = s.bankView := by
  simp only [discardMemDrains, foldl_bankView, implies_true, ↓abandonOp_bankView]

theorem applyPlaced_bankView (s : State) : (applyPlaced s).bankView = s.bankView :=
  foldl_bankView _ (fun s (o : Op) => (applyRemap_bankView (dropOp s o.id) o.remap).trans (dropOp_bankView s o.id)) _ s

theorem discardTransfers_bankView (s : State) : (discardTransfers s).bankView = s.bankView := by
  simp only [discardTransfers, apply_ite State.bankView, ite_self, foldl_bankView, implies_true, ↓offStop_bankView, ↓dropOp_bankView]

/-- Banks that keep their FL and SSP. -/
theorem vmapBanks_bankView (s : State) (f : Bank → Bank) (h : ∀ b, ((f b).fl, (f b).ssp) = (b.fl, b.ssp)) :
    ({ s with banks := vmap f s.banks } : State).bankView = s.bankView := by
  have hb : (vmap f s.banks).map (fun b => (b.fl, b.ssp)) = s.banks.map fun b => (b.fl, b.ssp) := by
    ext1 i hi
    rw [Vector.getElem_map, Vector.getElem_map, vmap_get]
    exact h _
  simp only [State.bankView, hb]

theorem offEffects_bankView (s : State) (d : Fin 32) : (offEffects s d).bankView = s.bankView := by
  unfold offEffects
  split
  · exact (abortFetch_bankView ..).trans (abandonCommit_bankView ..)
  · exact (discardOps_bankView ..).trans (foldl_bankView _ abandonOp_bankView _ s)
  · exact (applyPlaced_bankView _).trans ((discardMemDrains_bankView _).trans ((discardOps_bankView ..).trans (discardDrains_bankView s)))
  · exact (dropTlb_bankView ..).trans ((discardOps_bankView ..).trans (discardTransfers_bankView s))
  · exact vmapBanks_bankView s vecGone fun _ => rfl
  · rfl
  · split
    · simp only [↓dropTlb_bankView, ↓State.bankView_mk, State.bankView_pair, ↓stopAll_bankView]
    · rfl

theorem shutDomain_bankView (s : State) (d : Fin 32) (dst : DomSt) : (shutDomain s d dst).bankView = s.bankView := by
  simp only [shutDomain, ↓State.bankView_mk, State.bankView_pair, apply_ite State.bankView, ite_self, ↓setDom_bankView, ↓offEffects_bankView]

theorem emptyBoard_bankView (s : State) : (emptyBoard s).bankView = s.bankView := rfl

theorem freshTiles_bankView (s : State) : (freshTiles s).bankView = s.bankView := rfl

theorem dropSpots_bankView (s : State) (units : List Byte) : (dropSpots s units).bankView = s.bankView := rfl

theorem followUp_bankView (s : State) (d : Fin 32) : (followUp s d).bankView = s.bankView := by
  dsimp only [followUp]
  split <;> simp only [apply_ite State.bankView, ite_self, ↓setDom_bankView, ↓shutDomain_bankView]

theorem retainBoard_bankView (s : State) (p : PowerSet) : (retainBoard s p).bankView = s.bankView := by
  simp only [retainBoard, apply_ite State.bankView, ite_self, ↓shutDomain_bankView]

theorem turnOn_bankView (s : State) (d : Fin 32) : (turnOn s d).bankView = s.bankView := by
  simp only [turnOn, ↓State.bankView_mk, State.bankView_pair, apply_ite State.bankView, ite_self, ↓setDom_bankView]

theorem shutLast_bankView (s : State) (d : Fin 32) (dst : DomSt) : (shutLast s d dst).bankView = s.bankView := by
  simp only [shutLast, apply_ite State.bankView, ite_self, ↓shutDomain_bankView, ↓setDom_bankView]

theorem turnOff_bankView (s : State) (d : Fin 32) : (turnOff s d).bankView = s.bankView := by
  simp only [turnOff, ↓State.bankView_mk, State.bankView_pair, apply_ite State.bankView, ite_self, ↓shutLast_bankView]

theorem turnRetain_bankView (s : State) (d : Fin 32) : (turnRetain s d).bankView = s.bankView := by
  simp only [turnRetain, ↓State.bankView_mk, State.bankView_pair, apply_ite State.bankView, ite_self, ↓shutLast_bankView, ↓setDom_bankView]

theorem applyPower_bankView (s : State) (mask : W32) (target : Byte) : (applyPower s mask target).bankView = s.bankView := by
  have turns (f : State → Fin 32 → State) (hf : ∀ s d, (f s d).bankView = s.bankView) (s : State) :
      (driveGroups ((maskDoms mask).foldl f s)).bankView = s.bankView :=
    (driveGroups_bankView _).trans (foldl_bankView f hf _ s)
  simp only [applyPower]
  split <;> simp only [turns _ turnOff_bankView, turns _ turnRetain_bankView, turns _ turnOn_bankView, ↓State.bankView_mk, State.bankView_pair]

theorem powerDone_bankView (s : State) : (powerDone s).bankView = s.bankView := by
  unfold powerDone
  split <;> simp only [↓State.bankView_mk, State.bankView_pair, apply_ite State.bankView, ite_self, ↓complete_bankView, ↓qevent_bankView,
    ↓applyPower_bankView]

theorem clockVellum_bankView (s : State) : (clockVellum s).bankView = s.bankView := by
  simp only [clockVellum, ↓State.bankView_mk, State.bankView_pair, apply_ite State.bankView, ite_self, ↓setDom_bankView]

theorem powerPoll_bankView (s : State) : (powerPoll s).bankView = s.bankView := by
  have polls : (clockVellum ((List.finRange 32).foldl followUp s)).bankView = s.bankView :=
    (clockVellum_bankView _).trans (foldl_bankView _ followUp_bankView _ s)
  dsimp only [powerPoll]
  split <;> simp only [↓powerDone_bankView, ↓retainBoard_bankView, polls]

theorem execFclkAckChange_bankView (d : Fin 32) (v : Bool) (s : State) : (outState s (execFclkAckChange d v s)).bankView = s.bankView := by
  refine pinEvent_bankView s _ _ ?_ ?_
  all_goals grind [powerPoll_bankView, setDom_bankView]

theorem execPwrAckChange_bankView (d : Fin 32) (v : BitVec 2) (s : State) : (outState s (execPwrAckChange d v s)).bankView = s.bankView := by
  refine pinEvent_bankView s _ _ ?_ ?_
  all_goals grind [powerPoll_bankView, setDom_bankView]

theorem execVellumZeroingComplete_bankView (s : State) : (outState s (execVellumZeroingComplete s)).bankView = s.bankView := by
  refine event_bankView s _ ?_
  split <;> simp only [↓State.bankView_mk, State.bankView_pair, Option.getD_some, Option.getD_none, ↓powerPoll_bankView]

theorem execInkwellZeroingComplete_bankView (s : State) : (outState s (execInkwellZeroingComplete s)).bankView = s.bankView := by
  refine event_bankView s _ ?_
  split <;> simp only [↓State.bankView_mk, State.bankView_pair, Option.getD_some, Option.getD_none, ↓powerPoll_bankView]

theorem execL2GroupOffComplete_bankView (g : Fin 4) (s : State) : (outState s (execL2GroupOffComplete g s)).bankView = s.bankView := by
  refine event_bankView s _ ?_
  split <;> simp only [↓State.bankView_mk, State.bankView_pair, Option.getD_some, Option.getD_none, ↓setBusy_bankView, ↓driveGroups_bankView,
    ↓powerPoll_bankView]

theorem execL2GroupOnComplete_bankView (g : Fin 4) (s : State) : (outState s (execL2GroupOnComplete g s)).bankView = s.bankView := by
  refine event_bankView s _ ?_
  dsimp only
  repeat' split
  all_goals simp only [↓State.bankView_mk, State.bankView_pair, Option.getD_some, Option.getD_none, ↓setBusy_bankView, ↓driveGroups_bankView,
    ↓powerPoll_bankView,
    ↓setDom_bankView]

theorem execBoardRetainTimeout_bankView (s : State) : (outState s (execBoardRetainTimeout s)).bankView = s.bankView := by
  refine event_bankView s _ ?_
  repeat' split
  all_goals simp only [↓State.bankView_mk, State.bankView_pair, Option.getD_some, Option.getD_none, ↓complete_bankView]

/-! ### Firmware loading and update: manifests, staging, verification, the commit write and the banks of the class B stores -/

theorem setUpd_bankView (s : State) (u : Upd) : (setUpd s u).bankView = s.bankView := rfl

theorem windowRead_bankView (s : State) (o n : Nat) : (windowRead s o n).1.bankView = s.bankView := by
  grind [windowRead, !readCheck_bankView]

theorem CmdOut.ite_bankView {p : Prop} [Decidable p] {r r' : CmdOut} {x : Vector (W64 × W64) 4 × Option EntryWin × Option Fresh} (h : r.state.bankView = x) (h' : r'.state.bankView = x) :
    (if p then r else r').state.bankView = x :=
  iteInduction (motive := fun r : CmdOut => r.state.bankView = x) (fun _ => h) fun _ => h'

theorem updBeginCmd_bankView (n : Nat) (r : Req) (s : State) : (updBeginCmd n r s).state.bankView = s.bankView := by
  have hw := (windowRead_bankView (setUpd s { s.upd with base := BitVec.ofNat 64 (bnat r.body 0 8) }) (bnat r.body 16 4) (bnat r.body 20 4)).trans
    (setUpd_bankView ..)
  dsimp only [updBeginCmd]
  refine CmdOut.ite_bankView (refuseCmd_bankView ..) (CmdOut.ite_bankView (refuseCmd_bankView ..) (CmdOut.ite_bankView (refuseCmd_bankView ..) ?_))
  generalize windowRead (setUpd s { s.upd with base := BitVec.ofNat 64 (bnat r.body 0 8) }) (bnat r.body 16 4) (bnat r.body 20 4) = p at hw ⊢
  obtain ⟨s2, _ | m⟩ := p
  · exact (refuseCmd_bankView ..).trans ((setUpd_bankView ..).trans hw)
  have refused (st d : Byte) : (refuseCmd st d (setUpd s2 s.upd)).state.bankView = s.bankView := (refuseCmd_bankView ..).trans ((setUpd_bankView ..).trans hw)
  dsimp only
  cases hdrFields (setUpd s2 s.upd).var m with
  | some d => exact refused ..
  | none =>
    refine CmdOut.ite_bankView (refused ..) (CmdOut.ite_bankView (refused ..) (CmdOut.ite_bankView (refused ..) (CmdOut.ite_bankView (refused ..) ?_)))
    refine CmdOut.ite_bankView (refused ..) (CmdOut.ite_bankView (refused ..) (CmdOut.ite_bankView (refused ..) ?_))
    exact (setUpd_bankView ..).trans ((setUpd_bankView ..).trans hw)

theorem setPart_bankView (s : State) (k : Nat) (p : Part) : (setPart s k p).bankView = s.bankView := rfl

theorem settleSession_bankView (s : State) : (settleSession s).bankView = s.bankView := by
  simp only [settleSession, apply_ite State.bankView, ite_self, ↓setUpd_bankView]

theorem verifyPart_bankView (s : State) (k : Nat) (p : Part) : (verifyPart s k p).2.2.bankView = s.bankView := by
  simp only [verifyPart, apply_ite Prod.snd, ↓setPart_bankView, ↓settleSession_bankView, apply_ite State.bankView, ite_self]

theorem copyChunk_bankView (s : State) (k c : Nat) (p : Part) : (copyChunk s k c p).2.2.bankView = s.bankView := by
  grind [copyChunk, !verifyPart_bankView, setPart_bankView, !windowRead_bankView]

theorem copyChunks_bankView (k : Nat) (l : List Nat) (s : State) : (copyChunks k l s).2.2.bankView = s.bankView := by
  induction l generalizing s with
  | nil => rfl
  | cons c cs ih => grind [copyChunks, !copyChunk_bankView]

theorem updChunkCmd_bankView (n : Nat) (r : Req) (s : State) : (updChunkCmd n r s).state.bankView = s.bankView := by
  grind [updChunkCmd, CmdOut.state, !copyChunk_bankView, setUpd_bankView, !refuseCmd_bankView]

theorem endChunkAll_bankView (s : State) (k id : Nat) (st det : Byte) : (endChunkAll s k id st det).bankView = s.bankView := by
  simp only [endChunkAll, ↓setUpd_bankView, ↓complete_bankView]

theorem execUpdChunkAllComplete_bankView (s : State) : (outState s (execUpdChunkAllComplete s)).bankView = s.bankView := by
  refine event_bankView s _ ?_
  dsimp only
  repeat' split
  all_goals simp only [Option.getD_some, Option.getD_none, ↓endChunkAll_bankView, ↓copyChunks_bankView]

theorem dmaFail_bankView (s : State) (pa : Nat) : (dmaFail s pa).bankView = s.bankView := by
  dsimp only [dmaFail]
  repeat' split
  all_goals simp only [↓endChunkAll_bankView, ↓copyChunks_bankView, ↓setQu_bankView, ↓answer_bankView]

theorem updStatusCmd_bankView (n : Nat) (r : Req) (s : State) : (updStatusCmd n r s).state.bankView = s.bankView := by
  grind [updStatusCmd, CmdOut.state, !refuseCmd_bankView]

theorem commitStores_bankView (s : State) : (commitStores s).bankView = s.bankView := rfl

theorem commitWrite_bankView (s : State) (ply : W64) : (commitWrite s ply).bankView = s.bankView := by
  simp only [commitWrite, apply_ite State.bankView, ite_self, ↓qevent_bankView, ↓setUpd_bankView, ↓commitStores_bankView]

theorem commitNow_bankView (s : State) : (commitNow s).bankView = s.bankView := rfl

theorem activateAt_bankView (s : State) (n : W64) : (activateAt s n).bankView = s.bankView := by
  simp only [activateAt, apply_ite State.bankView, ite_self, ↓setUpd_bankView]

theorem execUpdateBanksReleased_bankView (s : State) : (outState s (execUpdateBanksReleased s)).bankView = s.bankView := by
  refine event_bankView s _ ?_
  dsimp only
  repeat' split
  all_goals simp only [Option.getD_some, Option.getD_none, ↓setUpd_bankView]

theorem updAbortCmd_bankView (n : Nat) (r : Req) (s : State) : (updAbortCmd n r s).state.bankView = s.bankView := by
  have ends (l : List (Nat × Nat)) (s : State) : (l.foldl (fun s p => endChunkAll s p.1 p.2 stNotready 0x49) s).bankView = s.bankView :=
    foldl_bankView _ (fun s p => endChunkAll_bankView s p.1 p.2 stNotready 0x49) l s
  dsimp only [updAbortCmd]
  repeat' split
  all_goals simp only [CmdOut.state, ends, ↓setUpd_bankView, ↓refuseCmd_bankView]

/-! ### The quill: the mailboxes, the commands of its table, its components, its watchdog, and its restarts with the replay of the blotter -/

theorem helloCmd_bankView (n : Nat) (r : Req) (s : State) : (helloCmd n r s).state.bankView = s.bankView := by
  grind [helloCmd, CmdOut.state, setQu_bankView]

theorem configSetCmd_bankView (n : Nat) (r : Req) (s : State) : (configSetCmd n r s).state.bankView = s.bankView := by
  grind [configSetCmd, CmdOut.state, setQu_bankView, !refuseCmd_bankView]

theorem configGetCmd_bankView (n : Nat) (r : Req) (s : State) : (configGetCmd n r s).state.bankView = s.bankView := by
  unfold configGetCmd
  split <;> simp only [CmdOut.state, ↓refuseCmd_bankView]

theorem powerSetCmd_bankView (n : Nat) (r : Req) (s : State) : (powerSetCmd n r s).state.bankView = s.bankView := by
  grind [powerSetCmd, State.bankView_mk, State.bankView_pair, CmdOut.state, applyPower_bankView, !refuseCmd_bankView]

theorem powerGetCmd_bankView (n : Nat) (r : Req) (s : State) : (powerGetCmd n r s).state.bankView = s.bankView := rfl

theorem throttleSetCmd_bankView (n : Nat) (r : Req) (s : State) : (throttleSetCmd n r s).state.bankView = s.bankView := by
  simp only [throttleSetCmd, ↓State.bankView_mk, State.bankView_pair, CmdOut.state, ↓qevent_bankView]

theorem errlogReadCmd_bankView (n : Nat) (r : Req) (s : State) : (errlogReadCmd n r s).state.bankView = s.bankView := by
  grind [errlogReadCmd, CmdOut.state, !draw_bankView, !refuseCmd_bankView]

theorem errlogClearCmd_bankView (n : Nat) (r : Req) (s : State) : (errlogClearCmd n r s).state.bankView = s.bankView := rfl

theorem scrubCmd_bankView (n : Nat) (r : Req) (s : State) : (scrubCmd n r s).state.bankView = s.bankView := by
  grind [scrubCmd, State.bankView_mk, State.bankView_pair, CmdOut.state, !refuseCmd_bankView]

theorem clearAdvice_bankView (s : State) (f : Nat) : (clearAdvice s f).bankView = s.bankView := rfl

theorem fileSpareCmd_bankView (n : Nat) (r : Req) (s : State) : (fileSpareCmd n r s).state.bankView = s.bankView := by
  grind [fileSpareCmd, State.bankView_mk, State.bankView_pair, CmdOut.state, qevent_bankView, !draw_bankView, clearAdvice_bankView,
    !refuseCmd_bankView]

theorem journalReadCmd_bankView (n : Nat) (r : Req) (s : State) : (journalReadCmd n r s).state.bankView = s.bankView := by
  unfold journalReadCmd
  dsimp only
  split
  · exact refuseCmd_bankView ..
  · exact foldl_bankView _ (fun s j => keeperRead_bankView s _) _ s

theorem throughBridge_bankView (f : Cmd) (h : CmdViews f) : CmdViews (throughBridge f) := by
  intro id r s
  unfold throughBridge
  split
  · exact refuseCmd_bankView ..
  · exact (h id r _).trans (wakeRequest_bankView s dVellum)
  · exact h id r s

theorem tallyCfgCmd_bankView (n : Nat) (r : Req) (s : State) : (tallyCfgCmd n r s).state.bankView = s.bankView := by
  refine throughBridge_bankView _ (fun id r s => ?_) ..
  dsimp only
  split
  · simp only [CmdOut.state, apply_ite State.bankView, ite_self, ↓setTally_bankView, ↓writeTalsrc_bankView, ↓writeTalkbase_bankView]
  · exact refuseCmd_bankView ..

theorem tallyReadCmd_bankView (n : Nat) (r : Req) (s : State) : (tallyReadCmd n r s).state.bankView = s.bankView := by
  refine throughBridge_bankView _ (fun id r s => ?_) ..
  dsimp only
  repeat' split
  all_goals simp only [CmdOut.state, ↓refuseCmd_bankView]

theorem withPartner_bankView (f : Cmd) (h : CmdViews f) : CmdViews (withPartner f) := by
  intro id r s
  unfold withPartner
  split
  · exact throughBridge_bankView f h id r s
  · exact refuseCmd_bankView ..

theorem mirrorCfgCmd_bankView (n : Nat) (r : Req) (s : State) : (mirrorCfgCmd n r s).state.bankView = s.bankView := by
  refine withPartner_bankView _ (fun id r s => ?_) ..
  have cfgs (v : Fin 16 → W64) (l : List (Fin 16)) (s : State) : (l.foldl (fun s k => mircfgWrite s k (v k)) s).bankView = s.bankView :=
    foldl_bankView _ (fun s k => mircfgWrite_bankView s k (v k)) l s
  dsimp only
  split
  · exact refuseCmd_bankView ..
  · simp only [CmdOut.state, apply_ite State.bankView, ite_self, ↓setMir_bankView, ↓mirAdvance_bankView, ↓mirctlWrite_bankView,
    ↓mirresvWrite_bankView,
      ↓mirmapWrite_bankView, cfgs]

theorem beginFetch_bankView (s : State) (verify : Bool) (rmask : BitVec 16) (want : BitVec 2) (setPly : Bool) (id : Nat) :
    (beginFetch s verify rmask want setPly id).bankView = s.bankView := by
  simp only [beginFetch, ↓setMir_bankView, ↓mirAdvance_bankView]

theorem primaryResults_bankView (s : State) : (primaryResults s).1.bankView = s.bankView := rfl

theorem mirrorFetchCmd_bankView (n : Nat) (r : Req) (s : State) : (mirrorFetchCmd n r s).state.bankView = s.bankView := by
  refine withPartner_bankView _ (fun id r s => ?_) ..
  dsimp only
  repeat' split
  all_goals simp only [CmdOut.state, ↓refuseCmd_bankView, ↓qevent_bankView, ↓primaryResults_bankView, ↓setBothBits_bankView, ↓beginFetch_bankView]

theorem mirrorVerifyCmd_bankView (n : Nat) (r : Req) (s : State) : (mirrorVerifyCmd n r s).state.bankView = s.bankView := by
  refine withPartner_bankView _ (fun id r s => ?_) ..
  dsimp only
  repeat' split
  all_goals simp only [CmdOut.state, ↓refuseCmd_bankView, ↓beginFetch_bankView]

theorem mirrorStatusCmd_bankView (n : Nat) (r : Req) (s : State) : (mirrorStatusCmd n r s).state.bankView = s.bankView := by
  unfold mirrorStatusCmd
  split
  · exact throughBridge_bankView _ (fun _ _ _ => rfl) ..
  · rfl

theorem stopDirecting_bankView (s : State) : (stopDirecting s).bankView = s.bankView := rfl

theorem beginRestart_bankView (s : State) : (beginRestart s).bankView = s.bankView := rfl

theorem failStart_bankView (s0 : State) : (failStart s0).bankView = s0.bankView := by
  simp only [failStart, apply_ite State.bankView, ite_self, ↓qevent_bankView, ↓setQu_bankView, ↓stopDirecting_bankView]

theorem restartQuill_bankView (counted : Bool) (s : State) : (restartQuill counted s).bankView = s.bankView := by
  simp only [restartQuill, apply_ite State.bankView, ite_self, ↓failStart_bankView, ↓setQu_bankView, ↓beginRestart_bankView]

theorem unitResetCmd_bankView (n : Nat) (r : Req) (s : State) : (unitResetCmd n r s).state.bankView = s.bankView := by
  grind [unitResetCmd, State.bankView_mk, State.bankView_pair, CmdOut.state, applyPower_bankView, !refuseCmd_bankView, requestWarm_bankView]

theorem unitResetQuill_bankView (s : State) (r : Req) : (unitResetQuill s r).bankView = s.bankView := acceptCmd_bankView s s _ r false rfl

theorem unitRestart_bankView (s : State) (a : Active) : (unitRestart s a).bankView = s.bankView := by
  simp only [unitRestart, apply_ite State.bankView, ite_self, ↓restartQuill_bankView, ↓putQ2h_bankView, ↓endEntry_bankView, ↓setQu_bankView]

theorem updActivateCmd_bankView (n : Nat) (r : Req) (s : State) : (updActivateCmd n r s).state.bankView = s.bankView := by
  unfold updActivateCmd
  repeat' split
  all_goals simp only [CmdOut.state, ↓commitWrite_bankView, ↓setUpd_bankView, ↓commitNow_bankView, ↓refuseCmd_bankView]

theorem switchTo_bankView (s : State) (c : Component) : (switchTo s c).bankView = s.bankView := by
  simp only [switchTo, apply_ite State.bankView, ite_self, ↓setQu_bankView]

theorem serveBox_bankView (s0 : State) (k : BoxNum) : (serveBox s0 k).bankView = s0.bankView := by
  have hs : (boxSample (switchTo s0 .mailboxServer) k (s0.win.tick - s0.qu.hqTick[k])).bankView = s0.bankView := (boxSample_bankView ..).trans (switchTo_bankView ..)
  unfold serveBox
  extract_lets s
  generalize requestOf s k = p
  obtain ⟨r, m⟩ := p
  dsimp only
  split
  · exact (respondV_bankView ..).trans ((setQu_bankView ..).trans hs)
  split
  · exact (setQu_bankView ..).trans hs
  next i _ =>
  have hj := (journal_bankView (setQu s { s.qu with hq := setBit s.qu.hq k.val false, lastBox := k }) r).trans ((setQu_bankView ..).trans hs)
  cases i.journaled with
  | true =>
    split
    · exact (answer_bankView ..).trans hj
    · exact (setQu_bankView ..).trans hj
  | false =>
    split
    · exact (answer_bankView ..).trans ((setQu_bankView ..).trans hs)
    · exact (setQu_bankView ..).trans ((setQu_bankView ..).trans hs)

theorem execMailboxServe_bankView (s : State) : (outState s (execMailboxServe s)).bankView = s.bankView := by
  refine event_bankView s _ ?_
  split
  · rfl
  · exact map_bankView _ _ (serveBox_bankView s)

theorem execMailboxNotreadyReply_bankView (k : BoxNum) (s : State) : (outState s (execMailboxNotreadyReply k s)).bankView = s.bankView := by
  refine event_bankView s _ ?_
  split <;> simp only [Option.getD_some, Option.getD_none, ↓putQ2h_bankView, ↓setQu_bankView]

theorem cmdRow_bankView (mine : Req → Bool) (f : Cmd) (after : State → State) (s : State) (h : CmdViews f)
    (ha : ∀ s, (after s).bankView = s.bankView) : (outState s (cmdRow mine f after s)).bankView = s.bankView := by
  refine event_bankView s _ ?_
  split
  · split
    · simp only [Option.getD_some, ha, runCmd_bankView f h, ↓switchTo_bankView, ↓setQu_bankView]
    · rfl
  · rfl

theorem opRow_bankView (op : BitVec 16) (f : Cmd) (s : State) (h : CmdViews f) : (outState s (opRow op f s)).bankView = s.bankView :=
  cmdRow_bankView _ f id s h fun _ => rfl

theorem selRow_bankView (op : BitVec 16) (o : Nat) (p : Nat → Bool) (f : Cmd) (after : State → State) (s : State) (h : CmdViews f)
    (ha : ∀ s, (after s).bankView = s.bankView) : (outState s (selRow op o p f after s)).bankView = s.bankView :=
  cmdRow_bankView _ f after s h ha

theorem execPowerSetOn_bankView (s : State) : (outState s (execPowerSetOn s)).bankView = s.bankView :=
  selRow_bankView _ _ _ _ _ s powerSetCmd_bankView powerPoll_bankView

theorem execPowerSetOff_bankView (s : State) : (outState s (execPowerSetOff s)).bankView = s.bankView :=
  selRow_bankView _ _ _ _ _ s powerSetCmd_bankView powerPoll_bankView

theorem execPowerSetRetain_bankView (s : State) : (outState s (execPowerSetRetain s)).bankView = s.bankView :=
  selRow_bankView _ _ _ _ _ s powerSetCmd_bankView powerPoll_bankView

theorem execScrubSetInterval_bankView (s : State) : (outState s (execScrubSetInterval s)).bankView = s.bankView :=
  selRow_bankView _ _ _ _ _ s scrubCmd_bankView (fun _ => rfl)

theorem execScrubResetInterval_bankView (s : State) : (outState s (execScrubResetInterval s)).bankView = s.bankView :=
  selRow_bankView _ _ _ _ _ s scrubCmd_bankView (fun _ => rfl)

theorem execScrubPass_bankView (s : State) : (outState s (execScrubPass s)).bankView = s.bankView :=
  selRow_bankView _ _ _ _ _ s scrubCmd_bankView (fun _ => rfl)

theorem execTallyRead_bankView (s : State) : (outState s (execTallyRead s)).bankView = s.bankView :=
  cmdRow_bankView _ _ _ s tallyReadCmd_bankView (fun _ => rfl)

theorem execMirrorFetchMirror_bankView (s : State) : (outState s (execMirrorFetchMirror s)).bankView = s.bankView :=
  selRow_bankView _ _ _ _ _ s mirrorFetchCmd_bankView (fun _ => rfl)

theorem execMirrorFetchPrimary_bankView (s : State) : (outState s (execMirrorFetchPrimary s)).bankView = s.bankView :=
  selRow_bankView _ _ _ _ _ s mirrorFetchCmd_bankView (fun _ => rfl)

theorem execUpdChunk_bankView (s : State) : (outState s (execUpdChunk s)).bankView = s.bankView :=
  cmdRow_bankView _ _ _ s updChunkCmd_bankView (fun _ => rfl)

theorem execUpdChunkAll_bankView (s : State) : (outState s (execUpdChunkAll s)).bankView = s.bankView :=
  cmdRow_bankView _ _ _ s updChunkCmd_bankView (fun _ => rfl)

theorem execUpdActivate_bankView (s : State) : (outState s (execUpdActivate s)).bankView = s.bankView := by
  refine event_bankView s _ ?_
  split
  · split
    · rfl
    · have hr (r : Req) := (runCmd_bankView updActivateCmd updActivateCmd_bankView r false (setQu s { s.qu with cur := none })).trans (setQu_bankView ..)
      dsimp only [Option.getD_some]
      split
      · exact (setQu_bankView ..).trans ((beginRestart_bankView ..).trans (hr _))
      · exact hr _
  · rfl

theorem execUnitResetWarm_bankView (s : State) : (outState s (execUnitResetWarm s)).bankView = s.bankView :=
  selRow_bankView _ _ _ _ _ s unitResetCmd_bankView (fun _ => rfl)

theorem execUnitResetDomain_bankView (s : State) : (outState s (execUnitResetDomain s)).bankView = s.bankView :=
  selRow_bankView _ _ _ _ _ s unitResetCmd_bankView powerPoll_bankView

theorem execUnitResetQuill_bankView (s : State) : (outState s (execUnitResetQuill s)).bankView = s.bankView := by
  refine event_bankView s _ ?_
  repeat' split
  all_goals simp only [Option.getD_some, Option.getD_none, ↓unitRestart_bankView, ↓setQu_bankView, ↓unitResetQuill_bankView]

theorem execScrubPassComplete_bankView (store : Fin 5) (s : State) : (outState s (execScrubPassComplete store s)).bankView = s.bankView := by
  refine event_bankView s _ ?_
  split <;> simp only [↓State.bankView_mk, State.bankView_pair, Option.getD_some, Option.getD_none, ↓complete_bankView]

theorem handoverCommit_bankView (s : State) (id : Nat) (ply : W64) : (handoverCommit s id ply).bankView = s.bankView := by
  unfold handoverCommit
  refine (complete_bankView ..).trans ((qevent_bankView ..).trans ((foldl_bankView _ (fun s a => ?_) _ _).trans ((setQu_bankView ..).trans (commitWrite_bankView s ply))))
  split
  · exact setEntry_bankView ..
  · rfl

theorem execHandoverCommit_bankView (s : State) : (outState s (execHandoverCommit s)).bankView = s.bankView := by
  refine event_bankView s _ ?_
  repeat' split
  all_goals simp only [Option.getD_some, Option.getD_none, ↓handoverCommit_bankView]

theorem execHandoverTimeout_bankView (s : State) : (outState s (execHandoverTimeout s)).bankView = s.bankView := by
  refine event_bankView s _ ?_
  split <;> simp only [Option.getD_some, Option.getD_none, ↓restartQuill_bankView]

theorem dropComponent_bankView (s : State) (c : Component) : (dropComponent s c).bankView = s.bankView := by
  unfold dropComponent
  split <;> simp only [↓State.bankView_mk, State.bankView_pair, ↓setUpd_bankView]

theorem dropBad_bankView (s : State) (use : Nat) : (dropBad s use).bankView = s.bankView := rfl

theorem checkLog_bankView (s : State) : (checkLog s).bankView = s.bankView := by
  simp only [checkLog, apply_ite State.bankView, ite_self, ↓setQu_bankView]

theorem resetComponent_bankView (s : State) (c : Component) : (resetComponent s c).bankView = s.bankView := rfl

theorem startComponent_bankView (s : State) (c : Component) : (startComponent s c).bankView = s.bankView := by
  simp only [startComponent, apply_ite State.bankView, ite_self, ↓dropBad_bankView, ↓switchTo_bankView, ↓resetComponent_bankView, ↓checkLog_bankView]

theorem componentRestart_bankView (s : State) (c : Component) : (componentRestart s c).bankView = s.bankView := by
  have ends (l : List Active) (s : State) : (l.foldl (fun s a => complete s a.id stAborted 0x20 []) s).bankView = s.bankView :=
    foldl_bankView _ (fun s (a : Active) => complete_bankView s a.id stAborted 0x20 []) l s
  dsimp only [componentRestart]
  repeat' split
  all_goals simp only [ends, ↓restartQuill_bankView, ↓startComponent_bankView, ↓logRecord_bankView, ↓setQu_bankView, ↓answer_bankView,
    ↓dropComponent_bankView]

theorem execComponentRestart_bankView (c : Component) (s : State) : (outState s (execComponentRestart c s)).bankView = s.bankView := by
  refine event_bankView s _ ?_
  split <;> simp only [apply_ite State.bankView, ite_self, Option.getD_some, Option.getD_none, ↓componentRestart_bankView, ↓restartQuill_bankView]

theorem failStaged_bankView (s : State) (k : Nat) : (failStaged s k).bankView = s.bankView := by
  unfold failStaged
  split <;> simp only [apply_ite State.bankView, ite_self, ↓setUpd_bankView]

theorem dropLog_bankView (s : State) (slot : Nat) : (dropLog s slot).bankView = s.bankView := by
  simp only [dropLog, ↓setQu_bankView, ↓logRecord_bankView]

theorem sramHandle_bankView (s : State) (w : Nat) : (sramHandle s w).bankView = s.bankView := by
  unfold sramHandle
  repeat' split
  all_goals simp only [↓failStaged_bankView, ↓dropLog_bankView, ↓componentRestart_bankView, ↓restartQuill_bankView, ↓setQu_bankView]

theorem execErrorRecordPost_bankView (cls unit : Byte) (sev : BitVec 2) (loc : W64) (synd : BitVec 24) (inj : Bool) (extra : BitVec 16) (s : State) :
    (outState s (execErrorRecordPost cls unit sev loc synd inj extra s)).bankView = s.bankView := by
  refine event_bankView s _ ?_
  dsimp only
  repeat' split
  all_goals simp only [Option.getD_some, Option.getD_none, ↓sramHandle_bankView, ↓postDetection_bankView]

theorem execQuillWatchdogKick_bankView (s : State) : (outState s (execQuillWatchdogKick s)).bankView = s.bankView := by
  refine event_bankView s _ ?_
  rfl

theorem execQuillWatchdogExpiry_bankView (s : State) : (outState s (execQuillWatchdogExpiry s)).bankView = s.bankView := by
  refine event_bankView s _ ?_
  split <;> simp only [Option.getD_some, Option.getD_none, ↓postRecord_bankView, ↓restartQuill_bankView]

theorem execQuillRestart_bankView (c : QRestart) (s : State) : (outState s (execQuillRestart c s)).bankView = s.bankView := by
  refine event_bankView s _ ?_
  split <;> simp only [apply_ite State.bankView, ite_self, Option.getD_some, Option.getD_none, ↓restartQuill_bankView, ↓postRecord_bankView]

theorem endSpares_bankView (s : State) : (endSpares s).bankView = s.bankView := by
  simp only [endSpares, foldl_bankView, implies_true, ↓complete_bankView]

theorem cmdOf_bankView {op : BitVec 16} {f : Cmd} (h : cmdOf op = some f) : CmdViews f := by
  unfold cmdOf at h
  split at h <;> cases h
  exacts [helloCmd_bankView, configSetCmd_bankView, configGetCmd_bankView, powerSetCmd_bankView, powerGetCmd_bankView, throttleSetCmd_bankView,
    errlogReadCmd_bankView,
    errlogClearCmd_bankView, scrubCmd_bankView, fileSpareCmd_bankView, journalReadCmd_bankView, tallyCfgCmd_bankView, tallyReadCmd_bankView,
      mirrorCfgCmd_bankView,
    mirrorFetchCmd_bankView, mirrorVerifyCmd_bankView, mirrorStatusCmd_bankView, updBeginCmd_bankView, updChunkCmd_bankView, updStatusCmd_bankView,
      updActivateCmd_bankView,
    updAbortCmd_bankView, unitResetCmd_bankView]

theorem replayOne_bankView (s : State) (a : Active) : (replayOne s a).bankView = s.bankView := by
  unfold replayOne
  split
  · exact endEntry_bankView ..
  split
  · next h =>
    split
    · exact (endSpares_bankView ..).trans (runCmd_bankView _ (cmdOf_bankView h) ..)
    · exact endEntry_bankView ..
  · rfl

theorem replay_bankView (s : State) : (replay s).bankView = s.bankView := by
  simp only [replay, foldl_bankView, implies_true, ↓setQu_bankView, ↓replayOne_bankView]

theorem startComponents_bankView (s : State) : (startComponents s).bankView = s.bankView :=
  foldl_bankView _ startComponent_bankView _ s

theorem enterRun_bankView (s1 : State) : (enterRun s1).bankView = s1.bankView := by
  simp only [enterRun, ↓powerPoll_bankView, ↓logRecord_bankView, ↓qevent_bankView, ↓setQu_bankView]

theorem execQuillStartComplete_bankView (s : State) : (outState s (execQuillStartComplete s)).bankView = s.bankView := by
  refine event_bankView s _ ?_
  grind [enterRun_bankView, startComponents_bankView, replay_bankView, powerPoll_bankView, setQu_bankView]

theorem execQuillStartFail_bankView (why : QFail) (s : State) : (outState s (execQuillStartFail why s)).bankView = s.bankView := by
  refine event_bankView s _ ?_
  repeat' split
  all_goals simp only [Option.getD_some, Option.getD_none, ↓failStart_bankView]

theorem execRcountClear_bankView (s : State) : (outState s (execRcountClear s)).bankView = s.bankView := by
  refine event_bankView s _ ?_
  split <;> simp only [Option.getD_some, Option.getD_none, ↓setQu_bankView]

/-! ### Accesses to the management window by their readers and writers, the lock of the configuration, the mailbox flags, and the interrupt inputs -/

theorem setLock_bankView (s : State) : (setLock s).bankView = s.bankView := by
  simp only [setLock, ↓State.bankView_mk, State.bankView_pair, apply_ite State.bankView, ite_self, ↓turnOn_bankView, ↓powerPoll_bankView]

theorem mbxOwnWrite_bankView (s : State) (v : W32) : (mbxOwnWrite s v).bankView = s.bankView := by
  simp only [mbxOwnWrite, foldl_bankView, implies_true, ↓flushBox_bankView, ↓setQu_bankView]

theorem mbxIrqWrite_bankView (s : State) (v : W32) : (mbxIrqWrite s v).bankView = s.bankView := rfl

theorem mbxWrite_bankView (s : State) (off : Nat) (v : W32) : (mbxWrite s off v).bankView = s.bankView := by
  simp only [mbxWrite, apply_ite State.bankView, ite_self, ↓setQu_bankView]

theorem winWrite_bankView (s : State) (off : Nat) (v : W32) (by_ : Reader) : (winWrite s off v by_).bankView = s.bankView := by
  unfold winWrite
  repeat' split
  all_goals simp only [↓State.bankView_mk, State.bankView_pair, ↓setLock_bankView, ↓mbxIrqWrite_bankView, ↓mbxOwnWrite_bankView,
    ↓mbxWrite_bankView, ↓errLinesWrite_bankView,
    ↓errOvfWrite_bankView, ↓errPtrWrite_bankView]

theorem latchHi_bankView (s : State) (by_ : Reader) (ply : Bool) : (latchHi s by_ ply).bankView = s.bankView := by
  simp only [latchHi, ↓State.bankView_mk, State.bankView_pair, apply_ite State.bankView, ite_self]

theorem winRead_bankView (s : State) (off : Nat) (by_ : Reader) : (winRead s off by_).2.bankView = s.bankView := by
  unfold winRead
  split <;> simp only [↓State.bankView_mk, State.bankView_pair, ↓latchHi_bankView]

theorem execRegisterWrite_bankView (off : BitVec 16) (v : W32) (by_ : Reader) (s : State) :
    (outState s (execRegisterWrite off v by_ s)).bankView = s.bankView := by
  refine event_bankView s _ ?_
  split <;> simp only [Option.getD_some, Option.getD_none, ↓winWrite_bankView]

theorem execTickLoRead_bankView (by_ : Reader) (ply : Bool) (s : State) : (outState s (execTickLoRead by_ ply s)).bankView = s.bankView := by
  refine event_bankView s _ ?_
  split <;> simp only [Option.getD_some, Option.getD_none, ↓latchHi_bankView]

theorem execCfgLockSet_bankView (s : State) : (outState s (execCfgLockSet s)).bankView = s.bankView := by
  refine event_bankView s _ ?_
  split <;> simp only [Option.getD_some, Option.getD_none, ↓setLock_bankView]

theorem execMbxOwnHqSet_bankView (v : W32) (s : State) : (outState s (execMbxOwnHqSet v s)).bankView = s.bankView := by
  refine event_bankView s _ ?_
  split <;> simp only [Option.getD_some, Option.getD_none, ↓mbxOwnWrite_bankView]

theorem execMbxOwnQhClear_bankView (v : W32) (s : State) : (outState s (execMbxOwnQhClear v s)).bankView = s.bankView := by
  refine event_bankView s _ ?_
  split <;> simp only [Option.getD_some, Option.getD_none, ↓mbxOwnWrite_bankView]

theorem execIntInChange_bankView (i : Fin 64) (v : Bool) (s : State) : (outState s (execIntInChange i v s)).bankView = s.bankView := by
  refine pinEvent_bankView s _ _ ?_ ?_
  all_goals simp only [↓State.bankView_mk, State.bankView_pair, apply_ite State.bankView, ite_self, Option.getD_some, ↓wakeRequest_bankView]

/-! ### Exceptions, interrupts and critical interrupts as events at the head of the reorder buffer, double faults, hold windows, watchdogs and
progress monitors -/

/-- What a fetch that raises an exception leaves. -/
theorem fetchExc_bankView {s s1 : State} {va : W64} {e : Exc} (h : fetchExc s va = some (s1, e)) : s1.bankView = s.bankView := by
  grind [fetchExc, Tr.state, !translate_bankView]

theorem fetchMeets_bankView (s : State) : (fetchMeets s).bankView = s.bankView := by
  grind [fetchMeets, Tr.state, !readCheck_bankView, !translate_bankView]

theorem execHoldWindowOverrun_bankView (s : State) : (outState s (execHoldWindowOverrun s)).bankView = s.bankView := by
  refine event_bankView s _ ?_
  split <;> simp only [↓State.bankView_mk, State.bankView_pair, apply_ite State.bankView, ite_self, Option.getD_some, Option.getD_none,
    ↓postRecord_bankView]

theorem execRetireWatchdogExpiry_bankView (s : State) : (outState s (execRetireWatchdogExpiry s)).bankView = s.bankView := by
  refine event_bankView s _ ?_
  split <;> simp only [Option.getD_some, Option.getD_none, ↓postRecord_bankView, ↓pend_bankView]

theorem execWatchdogHandlerTimeout_bankView (s : State) : (outState s (execWatchdogHandlerTimeout s)).bankView = s.bankView := by
  refine event_bankView s _ ?_
  dsimp only
  repeat' split
  all_goals simp only [Option.getD_some, Option.getD_none, ↓thirdFaultOf_bankView]

theorem execProgressMonitorExpiry_bankView (unit : Byte) (loc : W64) (what : BitVec 6) (s : State) :
    (outState s (execProgressMonitorExpiry unit loc what s)).bankView = s.bankView := by
  refine event_bankView s _ ?_
  dsimp only
  repeat' split
  all_goals simp only [Option.getD_some, Option.getD_none, ↓disarm_bankView, ↓postRecord_bankView]

/-! ### The debug module: halts, breakpoints, steps, and its register and memory commands -/

theorem setDbg_bankView (s : State) (d : Dbg) : (setDbg s d).bankView = s.bankView := rfl

theorem haltCore_bankView (s0 : State) (cause bp : BitVec 2) : (haltCore s0 cause bp).bankView = s0.bankView := by
  simp only [haltCore, ↓State.bankView_mk, State.bankView_pair, ↓keepXfer_bankView]

theorem execDbgHaltreq_bankView (s : State) : (outState s (execDbgHaltreq s)).bankView = s.bankView := by
  refine event_bankView s _ ?_
  split <;> simp only [Option.getD_some, Option.getD_none, ↓setDbg_bankView]

theorem execDbgHalt_bankView (s : State) : (outState s (execDbgHalt s)).bankView = s.bankView := by
  refine event_bankView s _ ?_
  repeat' split
  all_goals simp only [Option.getD_some, Option.getD_none, ↓haltCore_bankView, ↓wakeRequest_bankView]

theorem execBreakpointHalt_bankView (k : Fin 4) (s : State) : (outState s (execBreakpointHalt k s)).bankView = s.bankView := by
  refine event_bankView s _ ?_
  split <;> simp only [Option.getD_some, Option.getD_none, ↓haltCore_bankView]

theorem execStepHalt_bankView (s : State) : (outState s (execStepHalt s)).bankView = s.bankView := by
  refine event_bankView s _ ?_
  split <;> simp only [Option.getD_some, Option.getD_none, ↓haltCore_bankView]

theorem dbgEnd_bankView (s : State) (err : BitVec 3) : (dbgEnd s err).bankView = s.bankView := rfl

theorem dbgReg_bankView (write : Bool) (s : State) (f : State → State) (h : ∀ s, (f s).bankView = s.bankView) :
    ((dbgReg write s f).getD s).bankView = s.bankView := by
  grind [dbgReg, dbgEnd_bankView, wakeRequest_bankView]

theorem dbgRegRead_bankView (s : State) : (dbgRegRead s).bankView = s.bankView := by
  simp only [dbgRegRead, ↓setDbg_bankView, ↓dbgEnd_bankView]

theorem execDbgCmdRegRead_bankView (s : State) : (outState s (execDbgCmdRegRead s)).bankView = s.bankView :=
  event_bankView s _ (dbgReg_bankView false s _ dbgRegRead_bankView)

theorem dbgMem_bankView (write : Bool) (s : State) (f : Nat → State → State) (h : ∀ a s, (f a s).bankView = s.bankView) :
    ((dbgMem write s f).getD s).bankView = s.bankView := by
  grind [dbgMem, dbgEnd_bankView, wakeRequest_bankView]

theorem execDbgCmdMemRead_bankView (s : State) : (outState s (execDbgCmdMemRead s)).bankView = s.bankView :=
  event_bankView s _ (dbgMem_bankView false s _ fun _ s => setDbg_bankView s _)

theorem execDbgCmdMemWrite_bankView (s : State) : (outState s (execDbgCmdMemWrite s)).bankView = s.bankView := by
  refine event_bankView s _ (dbgMem_bankView true s _ fun a s => ?_)
  split
  · exact dbgEnd_bankView ..
  split
  · exact (setDbg_bankView ..).trans (agentWrite_bankView ..)
  · exact askGranules_bankView ..

theorem execDbgCmdDone_bankView (err : Bool) (s : State) : (outState s (execDbgCmdDone err s)).bankView = s.bankView := by
  refine event_bankView s _ ?_
  grind [setDbg_bankView, !accessCheck_bankView, askVisible_bankView, dbgEnd_bankView]

/-! ### The fabric ports: probes, broadcast invalidations, message-signalled interrupts, target requests, responses and their errors, tokens and
credits -/

theorem setPort_bankView (s : State) (p : PortNum) (x : Port) : (setPort s p x).bankView = s.bankView := rfl

theorem sendOrsp_bankView (s : State) (p : PortNum) (m : Msg) : (sendOrsp s p m).bankView = s.bankView := rfl

theorem answerOn_bankView (s : State) (p : PortNum) (opc : Byte) (tag : BitVec 12) (resp : BitVec 4) (poison : Bool) (d : Option LineWord) :
    (answerOn s p opc tag resp poison d).bankView = s.bankView := rfl

theorem portRecord_bankView (s : State) (cls : Byte) (pa : BitVec 56) (synd : BitVec 24) (inj : Bool) :
    (portRecord s cls pa synd inj).bankView = s.bankView := by
  simp only [portRecord, ↓postRecord_bankView]

theorem crcAnswer_bankView (s : State) (p : PortNum) (opc : Byte) (tag : BitVec 12) (pa : BitVec 56) :
    (crcAnswer s p opc tag pa).bankView = s.bankView := by
  simp only [crcAnswer, ↓sendOrsp_bankView, ↓portRecord_bankView, ↓draw_bankView]

theorem snoopEvent_bankView (s : State) (p : PortNum) (f : State → State) (h : ∀ s, (f s).bankView = s.bankView) :
    (outState s (snoopEvent s p f)).bankView = s.bankView := by
  refine event_bankView s _ ?_
  grind [wakeRequest_bankView]

theorem setL2_bankView (s : State) (k : Nat) (x : Option L2Line) : (setL2 s k x).bankView = s.bankView := rfl

theorem probeLine_bankView (s : State) (p : PortNum) (tag : BitVec 12) (k : Probe) (la : BitVec 50) :
    (probeLine s p tag k la).bankView = s.bankView := by
  dsimp only [probeLine]
  repeat' split
  all_goals simp only [↓putMemLine_bankView, ↓setL2_bankView, ↓flushL1d_bankView, ↓dropInner_bankView, ↓discardLine_bankView, ↓answerOn_bankView]

theorem probe_bankView (k : Probe) (p : PortNum) (tag : BitVec 12) (pa : BitVec 56) (crcOk : Bool) (new : Option LineWord) (s : State) :
    (outState s (probe k p tag pa crcOk new s)).bankView = s.bankView := by
  refine snoopEvent_bankView s p _ fun s => ?_
  split
  · exact crcAnswer_bankView ..
  split
  · exact answerOn_bankView ..
  dsimp only
  split
  · exact (putMemLine_bankView ..).trans (probeLine_bankView ..)
  · exact probeLine_bankView ..

theorem execProbeShr_bankView (p : PortNum) (tag : BitVec 12) (pa : BitVec 56) (crcOk : Bool) (s : State) :
    (outState s (execProbeShr p tag pa crcOk s)).bankView = s.bankView := by
  unfold execProbeShr
  simp only [↓probe_bankView]

theorem execProbeOwn_bankView (p : PortNum) (tag : BitVec 12) (pa : BitVec 56) (crcOk : Bool) (new : Option LineWord) (s : State) :
    (outState s (execProbeOwn p tag pa crcOk new s)).bankView = s.bankView := by
  unfold execProbeOwn
  simp only [↓probe_bankView]

theorem execProbeKill_bankView (p : PortNum) (tag : BitVec 12) (pa : BitVec 56) (crcOk : Bool) (new : LineWord) (s : State) :
    (outState s (execProbeKill p tag pa crcOk new s)).bankView = s.bankView := by
  unfold execProbeKill
  simp only [↓probe_bankView]

theorem execTlbiMsg_bankView (p : PortNum) (tag : BitVec 12) (src : BitVec 20) (ga : W64) (asid : BitVec 16) (ty : BitVec 2) (crcOk : Bool) (s : State) :
    (outState s (execTlbiMsg p tag src ga asid ty crcOk s)).bankView = s.bankView := by
  refine snoopEvent_bankView s p _ fun s => ?_
  simp only [↓State.bankView_mk, State.bankView_pair, apply_ite State.bankView, ite_self, ↓setPort_bankView, ↓tlbiRemove_bankView,
    ↓wakeRequest_bankView, ↓answerOn_bankView,
    ↓crcAnswer_bankView]

theorem execTlbiAck_bankView (s : State) : (outState s (execTlbiAck s)).bankView = s.bankView := by
  refine event_bankView s _ ?_
  repeat' split
  all_goals simp only [↓State.bankView_mk, State.bankView_pair, Option.getD_some, Option.getD_none, ↓answerOn_bankView, ↓setPort_bankView]

theorem execIntMsg_bankView (p : PortNum) (tag : BitVec 12) (id : BitVec 20) (vec : Byte) (data : W32) (crcOk : Bool) (s : State) :
    (outState s (execIntMsg p tag id vec data crcOk s)).bankView = s.bankView := by
  refine snoopEvent_bankView s p _ fun s => ?_
  simp only [↓State.bankView_mk, State.bankView_pair, apply_ite State.bankView, ite_self, ↓wakeRequest_bankView, ↓answerOn_bankView,
    ↓pend_bankView, ↓crcAnswer_bankView]

theorem meetBlock_bankView (s : State) (o : Nat) (mask : W64) : (meetBlock s o mask).bankView = s.bankView := by
  simp only [meetBlock, foldl_bankView, implies_true, ↓readCheck_bankView]

theorem readBlock_bankView (s : State) (o : Nat) (mask : W64) : (readBlock s o mask).2.bankView = s.bankView := rfl

theorem writeBlock_bankView (s : State) (o : Nat) (d : LineWord) (mask : W64) : (writeBlock s o d mask).bankView = s.bankView := by
  simp only [writeBlock, apply_ite State.bankView, ite_self, foldl_bankView, implies_true, ↓meetMerge_bankView, ↓writeVellum_bankView]

theorem targetAtomic_bankView (s : State) (p : PortNum) (tag : BitVec 12) (cas : Bool) (pa n : Nat) (d : LineWord) :
    (targetAtomic s p tag cas pa n d).bankView = s.bankView := by
  grind [targetAtomic, !draw_bankView, writeVellum_bankView, answerOn_bankView, !readCheck_bankView]

theorem targetVellum_bankView (s : State) (p : PortNum) (tag : BitVec 12) (op : TgtOp) (pa : Nat) (size : BitVec 2) (d : LineWord) (mask : W64)
    (poison : Bool) :
    (targetVellum s p tag op pa size d mask poison).bankView = s.bankView := by
  have marks (m : W64) (l : List Nat) (s : State) :
      (l.foldl (fun s i => if bit m i then markPoison s false (pa / 64 * 64 + i) 1 else s) s).bankView = s.bankView := by
    refine foldl_bankView _ (fun s i => ?_) l s
    split
    · exact markPoison_bankView ..
    · rfl
  cases op with
  | readLine | readStream =>
    simp only [targetVellum, ↓answerOn_bankView, ↓readBlock_bankView, ↓meetBlock_bankView]
  | writeLine | writeStream =>
    simp only [targetVellum, ↓answerOn_bankView, apply_ite State.bankView, marks, ↓writeBlock_bankView, ite_self]
  | atomicCas | atomicAdd =>
    simp only [targetVellum, ↓answerOn_bankView, apply_ite State.bankView, ↓targetAtomic_bankView, ite_self]
  | other => exact answerOn_bankView ..

theorem aliasAccess_bankView (s : State) (p : PortNum) (tag : BitVec 12) (write : Bool) (off : Nat) (v : W32) :
    (aliasAccess s p tag write off v).bankView = s.bankView := by
  simp only [aliasAccess, apply_ite State.bankView, ite_self, ↓draw_bankView, ↓windowMeet_bankView, ↓winRead_bankView, ↓winWrite_bankView,
    ↓answerOn_bankView]

theorem targetServe_bankView (p : PortNum) (tag : BitVec 12) (op : TgtOp) (pa : BitVec 56) (size : BitVec 2) (d : LineWord) (mask : W64) (poison : Bool)
    (s : State) :
    (targetServe p tag op pa size d mask poison s).bankView = s.bankView := by
  unfold targetServe
  split <;> simp only [apply_ite State.bankView, ite_self, ↓answerOn_bankView, ↓aliasAccess_bankView, ↓targetVellum_bankView]

theorem execTargetRequest_bankView (p : PortNum) (tag : BitVec 12) (op : TgtOp) (pa : BitVec 56) (size : BitVec 2) (data : LineWord) (mask : W64)
    (poison crcOk : Bool) (s : State) :
    (outState s (execTargetRequest p tag op pa size data mask poison crcOk s)).bankView = s.bankView := by
  refine event_bankView s _ ?_
  repeat' split
  all_goals simp only [Option.getD_some, Option.getD_none, ↓targetServe_bankView, ↓crcAnswer_bankView, ↓wakeRequest_bankView, ↓answerOn_bankView]

theorem execMgmtAliasAccess_bankView (p : PortNum) (tag : BitVec 12) (write : Bool) (off : BitVec 16) (v : W32) (s : State) :
    (outState s (execMgmtAliasAccess p tag write off v s)).bankView = s.bankView := by
  refine event_bankView s _ ?_
  dsimp only
  repeat' split
  all_goals simp only [Option.getD_some, Option.getD_none, ↓aliasAccess_bankView, ↓wakeRequest_bankView]

theorem endWalks_bankView (s : State) (p : WalkReq → Bool) (va : W64) : (endWalks s p va).bankView = s.bankView := rfl

theorem failQueue_bankView (s : State) (q : QNum) (c : BitVec 5 × Byte) (w : Bool) (va : W64) (pa : BitVec 56) :
    (failQueue s q c w va pa).bankView = s.bankView := by
  simp only [failQueue, ↓queueFault_bankView]

theorem failTile_bankView (s : State) (t : TReg) (c : BitVec 5 × Byte) (va : W64) (pa : BitVec 56) :
    (failTile s t c va pa).bankView = s.bankView := by
  unfold failTile
  split <;> simp only [↓failTransfer_bankView]

theorem stopLive_bankView (s : State) (k : ScribeNum) (t : Fin 128) (cause : BitVec 5) (va : W64) (pa : BitVec 56) :
    (stopLive s k t cause va pa).bankView = s.bankView := by
  unfold stopLive
  split <;> simp only [apply_ite State.bankView, ite_self, ↓stopThread_bankView]

theorem failMirror_bankView (s : State) (pa : BitVec 56) : (failMirror s pa).bankView = s.bankView := by
  simp only [failMirror, apply_ite State.bankView, ite_self, ↓abortFetch_bankView, ↓endServe_bankView, ↓abandonCommit_bankView, ↓mirAdvance_bankView]

theorem answered_bankView (s : State) (c : ReqCtx) (pa : BitVec 56) : (answered s c pa).bankView = s.bankView := by
  simp only [answered, apply_ite State.bankView, ite_self, ↓unbuffer_bankView]

theorem execOrdDone_bankView (p : PortNum) (s : State) : (outState s (execOrdDone p s)).bankView = s.bankView := by
  refine event_bankView s _ ?_
  split <;> simp only [Option.getD_some, Option.getD_none, ↓setPort_bankView, ↓settleLines_bankView]

theorem execTlbiDone_bankView (s : State) : (outState s (execTlbiDone s)).bankView = s.bankView := by
  refine event_bankView s _ ?_
  split <;> simp only [↓State.bankView_mk, State.bankView_pair, Option.getD_some, Option.getD_none]

theorem execOreqCredit_bankView (p : PortNum) (n : BitVec 2) (s : State) : (outState s (execOreqCredit p n s)).bankView = s.bankView := by
  refine event_bankView s _ ?_
  split <;> simp only [Option.getD_some, Option.getD_none, ↓setPort_bankView]

theorem execFabricPortUp_bankView (p : PortNum) (s : State) : (outState s (execFabricPortUp p s)).bankView = s.bankView := by
  refine pinEvent_bankView s _ _ ?_ ?_
  repeat' split
  all_goals simp only [Option.getD_some, Option.getD_none, ↓setPort_bankView]

theorem execFppUpFall_bankView (p : PortNum) (s : State) : (outState s (execFppUpFall p s)).bankView = s.bankView := by
  refine pinEvent_bankView s _ _ ?_ ?_
  repeat' split
  all_goals simp only [Option.getD_some, Option.getD_none, ↓setPort_bankView]

/-! ### FENCE, TLBI in its four forms, their completion, and the invalidations that come from the fabric -/

theorem fenceAsk_bankView (mask : BitVec 4) (s : State) : (fenceAsk mask s).bankView = s.bankView := by
  simp only [fenceAsk, apply_ite State.bankView, ite_self, ↓askVisible_bankView, ↓awaitStores_bankView]

theorem fenceBody_bankView (mask : BitVec 4) (k : Who) (b : Bank) (s : State) : (fenceBody mask k b s).state.bankView = s.bankView := by
  unfold fenceBody
  split <;> simp only [↓State.bankView_mk, State.bankView_pair, apply_ite State.bankView, ite_self, Res.state, ↓fenceAsk_bankView]

theorem sendTlbi_bankView (f : TlbiForm) (s : State) : ((sendTlbi f s).getD s).bankView = s.bankView := by
  unfold sendTlbi
  split
  · rfl
  cases sendOreq s.port[0] (oreqMsg s 0x08 (some (tlbiData f))) <;> rfl

theorem tlbiBody_bankView (f : Bank → TlbiForm) (loc : Bool) (k : Who) (b : Bank) (s : State) :
    (tlbiBody f loc k b s).state.bankView = s.bankView := by
  refine ringGate_bankView _ _ (fun k b s => ?_) ..
  have hs := sendTlbi_bankView (f b) s
  split
  · exact awaitStores_bankView ..
  split
  · exact tlbiRemove_bankView ..
  split
  · next h => rw [h] at hs; exact (tlbiRemove_bankView ..).trans hs
  · rfl

/-! ### PLYC, and the retry of an instruction that waits for room in its unit -/

theorem placeRemaps_bankView (b : Bank) (s : State) : (placeRemaps b s).bankView = s.bankView := by
  dsimp only [placeRemaps]
  split
  · rfl
  refine (foldl_bankView _ (fun s a => ?_) _ _).trans ?_
  · split
    · exact (clearAdvice_bankView ..).trans (complete_bankView ..)
    · rfl
  · simp only [↓State.bankView_mk, State.bankView_pair, ↓acceptOp_bankView]

theorem plycSteps_bankView (b : Bank) (s : State) : (plycSteps b s).bankView = s.bankView := by
  simp only [plycSteps, ↓State.bankView_mk, State.bankView_pair, ↓activateAt_bankView, ↓placeRemaps_bankView, ↓startCommit_bankView]

theorem plycBody_bankView (k : Who) (b : Bank) (s : State) : (plycBody k b s).state.bankView = s.bankView := by
  unfold plycBody
  split <;> simp only [Res.state, ↓plycSteps_bankView]

/-! ### Cold and warm reset -/

theorem execRstColdRelease_bankView (s : State) : (outState s (execRstColdRelease s)).bankView = s.bankView := by
  unfold execRstColdRelease
  dsimp only [outState]
  split <;> rfl

theorem execColdClearComplete_bankView (s : State) : (outState s (execColdClearComplete s)).bankView = s.bankView := by
  refine event_bankView s _ ?_
  split <;> simp only [↓State.bankView_mk, State.bankView_pair, Option.getD_some, Option.getD_none]

theorem execRstWarmRise_bankView (s : State) : (outState s (execRstWarmRise s)).bankView = s.bankView := by
  refine pinEvent_bankView s _ _ ?_ ?_
  repeat' split
  all_goals simp only [↓State.bankView_mk, State.bankView_pair, Option.getD_some, Option.getD_none, ↓requestWarm_bankView]

theorem execRstWarmFall_bankView (s : State) : (outState s (execRstWarmFall s)).bankView = s.bankView := by
  refine pinEvent_bankView s _ _ ?_ ?_
  all_goals rfl

theorem execWarmResetComplete_bankView (s : State) : (outState s (execWarmResetComplete s)).bankView = s.bankView := by
  refine event_bankView s _ ?_
  split <;> simp only [↓State.bankView_mk, State.bankView_pair, Option.getD_some, Option.getD_none]

/-! ### The test wrapper: its instructions and the instruments behind CW_NET -/

theorem execWrstnReset_bankView (s : State) : (outState s (execWrstnReset s)).bankView = s.bankView := by
  unfold execWrstnReset
  rfl

theorem execWsBypass_bankView (s : State) : (outState s (execWsBypass s)).bankView = s.bankView := by
  unfold execWsBypass
  rfl

theorem execWsExtest_bankView (s : State) : (outState s (execWsExtest s)).bankView = s.bankView := by
  unfold execWsExtest
  rfl

theorem execWsIntestScan_bankView (s : State) : (outState s (execWsIntestScan s)).bankView = s.bankView := by
  unfold execWsIntestScan
  rfl

theorem execWsSafe_bankView (s : State) : (outState s (execWsSafe s)).bankView = s.bankView := by
  unfold execWsSafe
  rfl

theorem execWsPreload_bankView (s : State) : (outState s (execWsPreload s)).bankView = s.bankView := by
  unfold execWsPreload
  rfl

theorem execCwNet_bankView (s : State) : (outState s (execCwNet s)).bankView = s.bankView := by
  unfold execCwNet
  rfl

theorem setInstr_bankView (s : State) (k : Fin 12) (x : W32) : (setInstr s k x).bankView = s.bankView := rfl

theorem execInstrumentStart_bankView (k : Fin 12) (mode : BitVec 3) (s : State) :
    (outState s (execInstrumentStart k mode s)).bankView = s.bankView := by
  unfold execInstrumentStart
  dsimp only [outState]
  split
  · rfl
  · exact setInstr_bankView ..

theorem instrEffect_bankView (s : State) (k : Fin 12) : (instrEffect s k).bankView = s.bankView := by
  unfold instrEffect
  split <;> simp only [↓State.bankView_mk, State.bankView_pair, ↓emptyBoard_bankView]

theorem execInstrumentComplete_bankView (k : Fin 12) (fails : Byte) (first : BitVec 16) (s : State) :
    (outState s (execInstrumentComplete k fails first s)).bankView = s.bankView := by
  unfold execInstrumentComplete
  dsimp only [outState]
  split
  · rfl
  · simp only [↓instrEffect_bankView, ↓State.bankView_mk, State.bankView_pair, ↓setInstr_bankView]

/-! ### One period of CLK_SLOW in which no command comes: what the always-on domain counts, and its registered outputs -/

theorem registerOutputs_bankView (s : State) : (registerOutputs s).bankView = s.bankView := rfl

theorem idleTick_bankView (s : State) : (idleTick s).bankView = s.bankView := by
  simp only [idleTick, ↓State.bankView_mk, State.bankView_pair, apply_ite State.bankView, ite_self, ↓cleanSteps_bankView, ↓powerPoll_bankView,
    ↓registerOutputs_bankView]

/-! ### The dispatch of the commands, and the step -/

end Sys2Proof.Machine


namespace Sys2Proof.Machine

/-! SUPPORT. The laws of FL and of the shadow stacks (R33, R265), and the states,
  the banks and the results of instructions that keep one of them: what
an instruction or an event of the core writes to FL or to SSP obeys the law, and what it leaves alone obeyed it before. -/

/-! ### The two laws -/

/-- The laws of the fields of a bank: FL has no bit that does not exist, and SSP is a multiple of 8. -/
inductive Law where
  | flags
  | shadow

/-- What a law says of an FL. -/
def Law.Fl : Law → W64 → Prop
  | .flags, x => x &&& ~~~ 0x70F = 0
  | .shadow, _ => True

/-- What a law says of an SSP. -/
def Law.Ssp : Law → W64 → Prop
  | .flags, _ => True
  | .shadow, x => x &&& 7 = 0

/-- A bank obeys a law. -/
def Bank.Legal (l : Law) (b : Bank) : Prop := l.Fl b.fl ∧ l.Ssp b.ssp

/-- Every bank of a state obeys a law, and so does each FL that an entry may restore. -/
structure State.Legal (l : Law) (s : State) : Prop where
  banks : ∀ k : BankNum, s.banks[k].Legal l
  entry : ∀ w, s.c.entry = some w → l.Fl w.fl
  fresh : ∀ f, s.c.fresh = some f → l.Fl f.fl

theorem flagsLegal_iff (s : State) : FlagsLegal s ↔ s.Legal .flags :=
  ⟨fun ⟨hb, he, hf⟩ => ⟨fun k => ⟨hb k, trivial⟩, he, hf⟩, fun h => ⟨fun k => (h.banks k).1, h.entry, h.fresh⟩⟩

theorem shadowStacksAligned_iff (s : State) : ShadowStacksAligned s ↔ s.Legal .shadow :=
  ⟨fun h => ⟨fun k => ⟨trivial, h k⟩, fun _ _ => trivial, fun _ _ => trivial⟩, fun h k => (h.banks k).2⟩

/-! ### The values that the machine writes to FL and to SSP -/

section
variable {l : Law}

theorem flag_bits_iff (x : W64) : x &&& ~~~ 0x70F = 0 ↔ ∀ i < 64, bit x i = true → bit (0x70F : W64) i = true := by
  rw [BitVec.eq_of_getLsbD_eq_iff]
  simp only [BitVec.getLsbD_and, BitVec.getLsbD_not, bit]
  refine forall_congr' fun i => ?_
  refine imp_congr_right fun hi => ?_
  cases x.getLsbD i <;> simp [hi]

theorem setField_fl {x : W64} (h : l.Fl x) {hi lo : Nat} (hf : ∀ i < 64, lo ≤ i → i < hi + 1 → bit (0x70F : W64) i = true) (v : Nat) :
    l.Fl (setField x hi lo v) := by
  cases l with
  | shadow => trivial
  | flags =>
    refine (flag_bits_iff _).2 fun i hi h1 => ?_
    rw [bit_setField] at h1
    split at h1
    · next hr => exact hf i hi hr.1 hr.2.1
    · exact (flag_bits_iff x).1 h i hi h1

theorem setBit_fl {x : W64} (h : l.Fl x) {i : Nat} (hi : bit (0x70F : W64) i = true) (v : Bool) : l.Fl (setBit x i v) :=
  setField_fl h (fun j _ h1 h2 => by rwa [show j = i by omega]) _

theorem setRing_fl {x : W64} (h : l.Fl x) (r : BitVec 2) : l.Fl (setRing x r) := setField_fl h (by decide) _

theorem setIe_fl {x : W64} (h : l.Fl x) (v : Bool) : l.Fl (setIe x v) := setBit_fl h (by decide) v

theorem flMask_fl (x : W64) : l.Fl (flMask x) := by
  cases l with
  | shadow => trivial
  | flags => exact (BitVec.and_assoc ..).trans (BitVec.and_zero (x := x))

theorem flNext_fl {x : W64} (h : l.Fl x) (v : W64) (r : BitVec 2) : l.Fl (flNext x v r) := setBit_fl (setField_fl h (by decide) _) (by decide) _

theorem flOther_fl (v : W64) (r : BitVec 2) : l.Fl (flOther v r) := setRing_fl (flMask_fl v) _

theorem aluFlags_fl {x : W64} (h : l.Fl x) (f : Alu) (w y z : Nat) : l.Fl (aluFlags x f w y z) := by
  have zero : l.Fl (setBit (setBit x 3 ((aluResult f w y z).testBit (w - 1))) 2 (aluResult f w y z == 0)) :=
    setBit_fl (setBit_fl h (by decide) _) (by decide) _
  dsimp only [aluFlags]
  split
  · refine setBit_fl ?_ (by decide) _
    split
    · exact setBit_fl zero (by decide) _
    · exact zero
  · split
    · exact setBit_fl zero (by decide) _
    · exact zero

theorem zero_fl : l.Fl 0 := by
  cases l with
  | flags => rfl
  | shadow => trivial

theorem align8_ssp (x : W64) : l.Ssp (x &&& ~~~ 7) := by
  cases l with
  | flags => trivial
  | shadow => exact (BitVec.and_assoc ..).trans (BitVec.and_zero (x := x))

theorem zero_ssp : l.Ssp 0 := align8_ssp 0

/-! ### Banks, states, and what shows that a state still obeys a law -/

theorem Bank.Legal.wfl {b : Bank} (h : b.Legal l) {x : W64} (hx : l.Fl x) : (wfl b x).Legal l := ⟨hx, h.2⟩

theorem Bank.Legal.wssp {b : Bank} (h : b.Legal l) (x : W64) : (wssp b x).Legal l := ⟨h.1, align8_ssp x⟩

theorem awaitG_legal {b : Bank} (h : b.Legal l) (r : GReg) : (awaitG b r).Legal l := by
  refine foldl_keeps (Bank.Legal l) _ (fun b x hb => ?_) _ _ h
  cases x with
  | g k x => exact hb
  | v k x => exact hb

theorem curBank_legal {s : State} (h : s.Legal l) : (curBank s).Legal l := h.banks s.c.cur

theorem State.Legal.of_view {s t : State} (hs : s.Legal l) (h : t.bankView = s.bankView) : t.Legal l := by
  obtain ⟨hb, hw⟩ := Prod.mk.inj h
  obtain ⟨he, hf⟩ := Prod.mk.inj hw
  refine ⟨fun k => ?_, fun w e => hs.entry w (he.symm.trans e), fun f e => hs.fresh f (hf.symm.trans e)⟩
  have hk := congrArg (fun v => v[k]) hb
  simp only [Fin.getElem_fin, Vector.getElem_map] at hk
  obtain ⟨hfl, hssp⟩ := Prod.mk.inj hk
  exact ⟨hfl ▸ (hs.banks k).1, hssp ▸ (hs.banks k).2⟩

/-- A state with legal banks in which no entry may be undone. -/
theorem State.Legal.of_banks {t : State} (hb : ∀ k : BankNum, t.banks[k].Legal l) (he : t.c.entry = none) (hf : t.c.fresh = none) : t.Legal l :=
  ⟨hb, fun _ e => absurd (he.symm.trans e) nofun, fun _ e => absurd (hf.symm.trans e) nofun⟩

theorem setBank_banks_legal {s : State} (h : ∀ k : BankNum, s.banks[k].Legal l) (k : BankNum) {b : Bank} (hb : b.Legal l) (j : BankNum) :
    (setBank s k b).banks[j].Legal l := by
  simp only [setBank, Fin.getElem_fin, Vector.getElem_set]
  split
  · exact hb
  · exact h j

theorem setBank_legal {s : State} (h : s.Legal l) (k : BankNum) {b : Bank} (hb : b.Legal l) : (setBank s k b).Legal l :=
  ⟨setBank_banks_legal h.banks k hb, h.entry, h.fresh⟩

theorem setCur_legal {s : State} (h : s.Legal l) {b : Bank} (hb : b.Legal l) : (setCur s b).Legal l := setBank_legal h s.c.cur hb

theorem setPending_legal {s : State} (h : s.Legal l) (v : Byte) (on : Bool) : (setPending s v on).Legal l := h.of_view rfl

theorem retire_legal {s : State} (h : s.Legal l) : (retire s).Legal l := .of_banks h.banks rfl rfl

theorem begun_legal {s : State} (h : s.Legal l) : (begun s).Legal l := .of_banks h.banks rfl rfl

/-- A state with what an entry replaced. -/
theorem State.Legal.with_fresh {t : State} (hb : ∀ k : BankNum, t.banks[k].Legal l) (he : t.c.entry = none) {f : Fresh} (hf : t.c.fresh = some f)
    (h : l.Fl f.fl) : t.Legal l :=
  ⟨hb, fun _ e => absurd (he.symm.trans e) nofun, fun _ e => by cases hf.symm.trans e; exact h⟩

/-- A state with the window of an interrupt entry. -/
theorem State.Legal.with_entry {t : State} (h : t.Legal l) {w : EntryWin} (hw : l.Fl w.fl) :
    State.Legal l { t with c := { t.c with entry := some w } } :=
  ⟨h.banks, fun _ e => by cases e; exact hw, h.fresh⟩

/-! ### Entries of exceptions and interrupts -/

theorem vecRead_legal {s t : State} {v : Byte} {r : VecRead} (e : vecRead s v = (t, r)) (h : s.Legal l) : t.Legal l := by
  have hv := vecRead_bankView s v
  rw [e] at hv
  exact h.of_view hv

theorem doubleFaultAt_legal {s : State} (h : s.Legal l) (reason : BitVec 4) (vec : Byte) (pc : W64) {fl : W64} (hf : l.Fl fl) :
    (doubleFaultAt s reason vec pc fl).Legal l := by
  have hb := awaitG_legal (curBank_legal h) 31
  have before {t : State} (ht : t.Legal l) :
      (setCur t { awaitG (curBank s) 31 with g := (awaitG (curBank s) 31).g.set 31 s.c.dfstack, fl := setIe (setRing fl 0) false }).Legal l :=
    setCur_legal ht ⟨setIe_fl (setRing_fl hf 0) false, hb.2⟩
  dsimp only [doubleFaultAt]
  split
  · next s3 r e =>
    refine (vecRead_legal e (before ?_)).of_view (thirdFault_bankView s3)
    exact .of_banks h.banks rfl rfl
  · next s3 x e =>
    have h3 : s3.Legal l := by
      refine vecRead_legal e (before ?_)
      exact .of_banks h.banks rfl rfl
    have h4 := setCur_legal h3 (b := { curBank s3 with pc := handlerPc x }) (curBank_legal h3)
    exact ⟨h4.banks, h4.entry, fun _ e => by cases e; exact hf⟩

theorem ordinaryEntry_legal {s : State} (h : s.Legal l) (q : EntryReq) : (ordinaryEntry s q).Legal l := by
  have hb := curBank_legal h
  dsimp only [ordinaryEntry]
  split
  · next s1 r e => exact doubleFaultAt_legal (vecRead_legal e h) r q.vec _ hb.1
  · next s1 e e1 =>
    have h1 := vecRead_legal e1 h
    refine setCur_legal ?_ ⟨?_, hb.2⟩
    · exact .with_fresh h1.banks rfl rfl hb.1
    dsimp only
    split
    · exact setRing_fl hb.1 _
    · exact setIe_fl (setRing_fl hb.1 _) false

theorem raise_legal (e : Exc) {s : State} (h : s.Legal l) : (raise e s).Legal l := ordinaryEntry_legal h _

theorem criticalEntryOf_legal {s : State} (h : s.Legal l) (v : Byte) : (criticalEntryOf s v).Legal l := by
  have hb := curBank_legal h
  have h0 : State.Legal l { s with c := { s.c with cxcause := setBit s.c.cxcause 20 true } } := h.of_view rfl
  dsimp only [criticalEntryOf]
  split
  · next s1 r e => exact doubleFaultAt_legal (vecRead_legal e h0) r v _ hb.1
  · next s1 e e1 =>
    have h1 := vecRead_legal e1 h0
    refine setCur_legal ?_ ⟨setRing_fl hb.1 0, hb.2⟩
    exact .with_fresh h1.banks rfl rfl hb.1

theorem atBoundary_legal {s : State} (h : s.Legal l) : (atBoundary s).Legal l := by
  unfold atBoundary
  split
  · exact retire_legal (setCur_legal h (b := { curBank s with pc := (curBank s).pc + 4 }) (curBank_legal h))
  · exact h.of_view (keepXfer_bankView s)

theorem interruptEntryOf_legal {s : State} (h : s.Legal l) (v : Byte) (n : BitVec 4) : (interruptEntryOf s v n).Legal l := by
  have h0 := atBoundary_legal h
  unfold interruptEntryOf
  extract_lets s0 w s1 s2
  have h1 : s1.Legal l := ordinaryEntry_legal h0 _
  split
  · exact h1
  · refine State.Legal.with_entry ?_ (curBank_legal h0).1
    dsimp only [s2]
    split
    · exact h1
    · exact setPending_legal h1 v false

theorem criticalEntryWin_legal {s : State} (h : s.Legal l) (v : Byte) : (criticalEntryWin s v).Legal l := by
  have h0 := atBoundary_legal h
  have h1 := criticalEntryOf_legal h0 v
  dsimp only [criticalEntryWin]
  split
  · exact h1
  · exact h1.with_entry (curBank_legal h0).1

theorem enterInterrupt_legal {s : State} (h : s.Legal l) (p : Byte × Option (BitVec 4)) : (enterInterrupt s p).Legal l := by
  obtain ⟨v, n⟩ := p
  cases n with
  | none => exact criticalEntryWin_legal h v
  | some n => exact interruptEntryOf_legal h v n

/-! ### Results of instructions -/

/-- The bank in a result obeys a law. -/
def Res.BankLegal (l : Law) : Res → Prop
  | .ok b _ | .jump b _ | .exc _ b _ => b.Legal l
  | .done _ | .wait _ | .trap _ => True

/-- A result obeys a law: its bank and its state. -/
def Res.Legal (l : Law) (r : Res) : Prop := r.BankLegal l ∧ r.state.Legal l

/-- The core runs an instruction from a legal state and bank to a legal result. -/
def BodyLegal (l : Law) (body : Body) : Prop := ∀ b s, b.Legal l → s.Legal l → (body .core b s).Legal l

/-- The core runs an instruction from a legal bank to a legal bank. -/
def BodyBankLegal (l : Law) (body : Body) : Prop := ∀ b s, b.Legal l → (body .core b s).BankLegal l

/-- An instruction that changes no bank of the state and gives its bank legal fields. -/
theorem BodyLegal.of_views {body : Body} (hv : BodyViews body) (hb : BodyBankLegal l body) : BodyLegal l body :=
  fun b s h hs => ⟨hb b s h, hs.of_view (hv .core b s)⟩

theorem settle_legal (c : Instr) (b : Bank) {r : Res} (h : r.Legal l) : (settle c b r).Legal l := by
  obtain ⟨hb, hs⟩ := h
  cases r with
  | ok b' s => exact retire_legal (setCur_legal hs (b := { b' with pc := b.pc + BitVec.ofNat 64 (instrBytes c) }) hb)
  | jump b' s => exact retire_legal (setCur_legal hs hb)
  | done s => exact retire_legal hs
  | exc e b' s =>
    dsimp only [settle]
    split
    · exact (setCur_legal hs hb).of_view rfl
    · exact raise_legal e (setCur_legal hs hb)
  | wait s => exact hs.of_view rfl
  | trap s => exact hs

theorem issue_legal (c : Instr) {body : Body} {s : State} (hs : s.Legal l) (h : BodyLegal l body) : (outState s (issue c body s)).Legal l := by
  unfold issue
  repeat' split
  · exact hs
  · exact hs
  · exact enterInterrupt_legal hs _
  · exact raise_legal _ hs
  · exact hs.of_view rfl
  · exact settle_legal c _ (h _ s (curBank_legal hs) hs)

theorem event_legal {s : State} (hs : s.Legal l) {r : Option State} (h : (r.getD s).Legal l) : (outState s (event s r)).Legal l := by
  unfold event
  repeat' split
  · exact hs
  · exact hs
  · exact h

end

end Sys2Proof.Machine


namespace Sys2Proof.Machine

/-! SUPPORT. The instructions of the general core that touch the state's banks at most through the result that retires them keep the laws of FL and SSP:
along the branches of each body. -/

section
variable {l : Law}

/-! ### The gates of the units -/

theorem vecGate_legal {c : Instr} {body : Body} (h : BodyLegal l body) : BodyLegal l (vecGate c body) := by
  intro b s hb hs
  dsimp only [vecGate]
  split
  · exact h b s hb hs
  · exact ⟨trivial, hs.of_view (wakeRequest_bankView s dVec)⟩
  · exact ⟨hb, hs⟩

theorem domGate_legal {d : Fin 32} {c : Instr} {body : Body} (h : BodyLegal l body) : BodyLegal l (domGate d c body) := by
  intro b s hb hs
  dsimp only [domGate]
  split
  · exact h b s hb hs
  · exact ⟨trivial, hs.of_view (wakeRequest_bankView s d)⟩
  · exact ⟨hb, hs⟩

theorem ringGate_legal {r : Nat} {body : Body} (h : BodyLegal l body) : BodyLegal l (ringGate r body) := by
  intro b s hb hs
  dsimp only [ringGate]
  split
  · exact ⟨hb, hs⟩
  · exact h b s hb hs

theorem ringGate_bankLegal {r : Nat} {body : Body} (h : BodyBankLegal l body) : BodyBankLegal l (ringGate r body) := by
  intro b s hb
  dsimp only [ringGate]
  split
  · exact hb
  · exact h b s hb

theorem checked_bankLegal {f : State → List (Option Exc)} {body : Body} (h : BodyBankLegal l body) : BodyBankLegal l (checked f body) := by
  intro b s hb
  unfold checked
  split
  · exact hb
  · exact h b s hb

theorem boardAccept_bankLegal {body : Body} (h : BodyBankLegal l body) : BodyBankLegal l (boardAccept body) := by
  intro b s hb
  unfold boardAccept
  split
  · exact h b s hb
  · trivial

/-! ### The ALU -/

/-- A bank whose flags are set in the S form of an instruction. -/
theorem setFlags_legal {b c : Bank} (hb : b.Legal l) (hc : c.Legal l) (sf : Bool) (f : Alu) (w x y : Nat) :
    (if sf then wfl c (aluFlags b.fl f w x y) else c).Legal l := by
  split
  · exact hc.wfl (aluFlags_fl hb.1 ..)
  · exact hc

theorem aluBody_bankLegal {f : Alu} {rd ra : GReg} {op : Opnd} {sf wf : Bool} : BodyBankLegal l (aluBody f rd ra op sf wf) := by
  intro b s hb
  refine setFlags_legal hb ?_ sf f ..
  exact hb

theorem cmpBody_bankLegal {ra : GReg} {op : Opnd} {wf : Bool} : BodyBankLegal l (cmpBody ra op wf) :=
  fun _ _ hb => hb.wfl (aluFlags_fl hb.1 ..)

theorem divBody_bankLegal {f : Alu} {rd ra rb : GReg} {sf wf : Bool} : BodyBankLegal l (divBody f rd ra rb sf wf) := by
  intro b s hb
  dsimp only [divBody]
  split
  · trivial
  · refine setFlags_legal hb ?_ sf f ..
    exact hb

theorem countBody_bankLegal {f : Alu} {rd ra : GReg} {sf wf : Bool} : BodyBankLegal l (countBody f rd ra sf wf) := by
  intro b s hb
  refine setFlags_legal hb ?_ sf f ..
  exact hb

theorem imzBody_bankLegal {rd : GReg} {lane : BitVec 2} {imm : BitVec 16} : BodyBankLegal l (imzBody rd lane imm) := fun _ _ hb => hb

theorem imiBody_bankLegal {rd : GReg} {lane : BitVec 2} {imm : BitVec 16} : BodyBankLegal l (imiBody rd lane imm) := fun _ _ hb => hb

/-! ### Loads, stores and repeats -/

theorem saddrUpdate_legal {b : Bank} (hb : b.Legal l) (n : Nat) (a : SAddr) : (saddrUpdate b n a).Legal l := by
  unfold saddrUpdate
  split <;> exact hb

theorem vaddrUpdate_legal {b : Bank} (hb : b.Legal l) (n : Nat) (a : VAddr) : (vaddrUpdate b n a).Legal l := by
  unfold vaddrUpdate
  split <;> exact hb

theorem loadOnce_bankLegal (k : Who) (rd : GReg) (a : SAddr) (sz : BitVec 3) {b : Bank} (s : State) (hb : b.Legal l) :
    (loadOnce k rd a sz b s).BankLegal l := by
  dsimp only [loadOnce]
  split
  · exact saddrUpdate_legal hb _ a
  · exact hb
  · trivial

theorem storeOnce_bankLegal (k : Who) (rs : GReg) (a : SAddr) (sz : BitVec 3) {b : Bank} (s : State) (hb : b.Legal l) :
    (storeOnce k rs a sz b s).BankLegal l := by
  dsimp only [storeOnce]
  split
  · exact saddrUpdate_legal hb _ a
  · exact hb
  · trivial

theorem vloadOnce_bankLegal (k : Who) (v : VReg) (a : VAddr) (mk : Option MReg) (w : BitVec 2) {b : Bank} (s : State) (hb : b.Legal l) :
    (vloadOnce k v a mk w b s).BankLegal l := by
  dsimp only [vloadOnce]
  split
  · exact vaddrUpdate_legal hb _ a
  · exact hb
  · trivial

theorem vstoreOnce_bankLegal (k : Who) (v : VReg) (a : VAddr) (mk : Option MReg) (w : BitVec 2) {b : Bank} (s : State) (hb : b.Legal l) :
    (vstoreOnce k v a mk w b s).BankLegal l := by
  dsimp only [vstoreOnce]
  split
  · exact vaddrUpdate_legal hb _ a
  · exact hb
  · trivial

theorem ldaBody_bankLegal {rd ga : GReg} {sz : BitVec 3} : BodyBankLegal l (ldaBody rd ga sz) := by
  intro b s hb
  dsimp only [ldaBody]
  repeat' split
  · exact hb
  · exact hb
  · exact hb
  · trivial

theorem stlBody_bankLegal {rs ga : GReg} {sz : BitVec 3} : BodyBankLegal l (stlBody rs ga sz) := by
  intro b s hb
  dsimp only [stlBody]
  repeat' split
  · exact hb
  · trivial
  · exact hb
  · exact hb
  · trivial

theorem casBody_bankLegal {rd ga rb rc : GReg} {d a r : Bool} : BodyBankLegal l (casBody rd ga rb rc d a r) := by
  intro b s hb
  dsimp only [casBody]
  split
  · exact Bank.Legal.wfl hb (setBit_fl hb.1 (by decide) _)
  · exact hb
  · trivial

theorem aaddBody_bankLegal {rd ga rb : GReg} {d a r : Bool} : BodyBankLegal l (aaddBody rd ga rb d a r) := by
  intro b s hb
  dsimp only [aaddBody]
  split
  · exact hb
  · exact hb
  · trivial

theorem governedOnce_bankLegal (k : Who) (g : Governed) {b : Bank} (s : State) (hb : b.Legal l) : (governedOnce k g b s).BankLegal l := by
  cases g with
  | mu load r ga pre sz =>
    dsimp only [governedOnce]
    split
    · exact loadOnce_bankLegal k r _ sz s hb
    · exact storeOnce_bankLegal k r _ sz s hb
  | vec load v a mk w =>
    dsimp only [governedOnce]
    split
    · exact vloadOnce_bankLegal k v a mk w s hb
    · exact vstoreOnce_bankLegal k v a mk w s hb
  | other => exact hb

theorem repNext_legal {b : Bank} {s : State} (hb : b.Legal l) (hs : s.Legal l) : (repNext .core b s).Legal l := by
  dsimp only [repNext]
  split
  · exact ⟨hb, hs⟩
  · exact ⟨trivial, setCur_legal (begun_legal hs) hb⟩

theorem repBody_legal {gc : GReg} {g : Governed} : BodyLegal l (repBody gc g) := by
  intro b s hb hs
  have hg := governedOnce_bankLegal .core g s hb
  have hv := hs.of_view (governedOnce_bankView .core g b s)
  unfold repBody
  split
  · exact ⟨hb, hs⟩
  unfold repElement
  split
  · next b1 s1 e =>
    rw [e] at hg hv
    dsimp only
    split
    · exact ⟨hg, hv⟩
    · exact repNext_legal hg hv
  · next e1 b1 s1 e =>
    rw [e] at hv
    exact ⟨hb, hv⟩
  · exact ⟨hg, hv⟩

theorem repnTry_bankLegal (k : Who) (g : Governed) (s0 : State) {b : Bank} (n : Nat) (s : State) (hb : b.Legal l) :
    (repnTry k g s0 b n s).BankLegal l := by
  induction n generalizing s with
  | zero => trivial
  | succ n ih =>
    have hg := governedOnce_bankLegal k g s hb
    unfold repnTry
    grind [Res.BankLegal]

theorem repnLoop_bankLegal (k : Who) (g : Governed) (s0 : State) (n : Nat) {b : Bank} (s : State) (hb : b.Legal l) :
    (repnLoop k g s0 n b s).BankLegal l := by
  induction n generalizing b s with
  | zero => exact hb
  | succ n ih =>
    have ht := repnTry_bankLegal k g s0 4 s hb
    unfold repnLoop
    split
    · next b1 s1 e => rw [e] at ht; exact ih s1 ht
    · exact hb
    · exact ht

theorem repnBody_bankLegal {n : BitVec 6} {g : Governed} : BodyBankLegal l (repnBody n g) := by
  intro b s hb
  dsimp only [repnBody]
  split
  · exact hb
  · exact repnLoop_bankLegal .core g _ _ _ hb

/-! ### Branches and calls -/

theorem bBody_bankLegal {off : BitVec 26} : BodyBankLegal l (bBody off) := fun _ _ hb => hb

theorem bCondBody_bankLegal {cond : BitVec 4} {off : BitVec 22} : BodyBankLegal l (bCondBody cond off) := by
  intro b s hb
  unfold bCondBody
  split <;> exact hb

theorem brBody_bankLegal {ra : GReg} : BodyBankLegal l (brBody ra) := by
  intro b s hb
  dsimp only [brBody]
  split <;> exact hb

theorem callTo_bankLegal (k : Who) (t : W64) {b : Bank} (s : State) (hb : b.Legal l) : (callTo k t b s).BankLegal l := by
  dsimp only [callTo]
  split
  · exact hb
  split
  · exact Bank.Legal.wssp hb _
  · exact hb
  · trivial

theorem callBody_bankLegal {off : BitVec 26} : BodyBankLegal l (callBody off) := fun b s hb => callTo_bankLegal .core (relTarget b off) s hb

theorem callrBody_bankLegal {ra : GReg} : BodyBankLegal l (callrBody ra) := by
  intro b s hb
  dsimp only [callrBody]
  split
  · exact hb
  · exact callTo_bankLegal .core _ s hb

theorem retBody_bankLegal : BodyBankLegal l retBody := by
  intro b s hb
  dsimp only [retBody]
  split
  · exact hb
  split
  · exact hb
  · trivial
  split
  · exact hb
  split
  · exact hb
  · exact Bank.Legal.wssp hb _

theorem callgBody_bankLegal {gate : BitVec 12} : BodyBankLegal l (callgBody gate) := by
  intro b s hb
  have entered (p : Prop) [Decidable p] (r : BitVec 2) : l.Fl (if p then setIe (setRing b.fl r) false else setRing b.fl r) := by
    split
    · exact setIe_fl (setRing_fl hb.1 r) false
    · exact setRing_fl hb.1 r
  dsimp only [callgBody]
  split
  · exact hb
  split
  · exact hb
  split
  · exact hb
  split
  · exact hb
  split
  · exact hb
  split
  · exact hb
  split
  · exact Bank.Legal.wfl (Bank.Legal.wssp hb _) (entered ..)
  · exact hb
  · trivial

theorem retgBody_bankLegal : BodyBankLegal l retgBody := by
  intro b s hb
  dsimp only [retgBody]
  split
  · exact hb
  split
  · exact hb
  split
  · exact hb
  split
  · exact hb
  · trivial
  split
  · exact hb
  split
  · exact hb
  · exact (Bank.Legal.wssp hb _).wfl (flMask_fl _)

theorem syscBody_bankLegal : BodyBankLegal l syscBody := by
  intro b s hb
  dsimp only [syscBody]
  split
  · exact hb
  · exact Bank.Legal.wfl hb (setIe_fl (setRing_fl hb.1 1) false)

theorem sysrBody_bankLegal : BodyBankLegal l sysrBody := by
  intro b s hb
  dsimp only [sysrBody]
  split
  · exact hb
  · exact Bank.Legal.wfl hb (flMask_fl _)

theorem retxBody_bankLegal : BodyBankLegal l retxBody := by
  intro b s hb
  dsimp only [retxBody]
  split
  · exact hb
  · exact Bank.Legal.wfl hb (flMask_fl _)

theorem retxCBody_bankLegal : BodyBankLegal l retxCBody := by
  intro b s hb
  dsimp only [retxCBody]
  split
  · exact hb
  · exact Bank.Legal.wfl hb (flMask_fl _)

theorem sspushBody_bankLegal {ga : GReg} : BodyBankLegal l (sspushBody ga) := by
  intro b s hb
  dsimp only [sspushBody]
  split
  · exact hb
  split
  · exact hb.wssp _
  · exact hb
  · trivial

theorem sspincBody_bankLegal {gb : GReg} : BodyBankLegal l (sspincBody gb) := fun _ _ hb => hb.wssp _

theorem holdendBody_bankLegal : BodyBankLegal l holdendBody := fun _ _ hb => hb

theorem waitiBody_bankLegal : BodyBankLegal l waitiBody := by
  intro b s hb
  unfold waitiBody
  split
  · exact hb
  · trivial

end

end Sys2Proof.Machine


namespace Sys2Proof.Machine

/-! SUPPORT. The instructions of the units keep the laws of FL and SSP: none of them writes either. -/

section
variable {l : Law}

/-! ### Invalidations, control registers and tallies -/

theorem fenceBody_bankLegal {mask : BitVec 4} : BodyBankLegal l (fenceBody mask) := by
  intro b s hb
  unfold fenceBody
  split
  · exact hb
  · trivial

theorem tlbiBody_bankLegal {f : Bank → TlbiForm} {loc : Bool} : BodyBankLegal l (tlbiBody f loc) := by
  refine ringGate_bankLegal fun b s hb => ?_
  split
  · trivial
  split
  · exact hb
  split
  · exact hb
  · trivial

theorem mfcBody_bankLegal {rd : GReg} {n : BitVec 12} : BodyBankLegal l (mfcBody rd n) := by
  intro b s hb
  unfold mfcBody
  split
  · exact hb
  split <;> exact hb

theorem mfbBody_bankLegal {rd : GReg} {n : BitVec 12} : BodyBankLegal l (mfbBody rd n) := by
  intro b s hb
  dsimp only [mfbBody]
  split
  · exact hb
  · refine ringGate_bankLegal (fun b s hb => ?_) b s hb
    split
    · exact hb
    · trivial

theorem tallyBody_bankLegal {u : TallyNum} {g k : GReg} : BodyBankLegal l (tallyBody u g k) := by
  intro b s hb
  dsimp only [tallyBody]
  split
  · exact hb
  split
  · trivial
  · exact hb

theorem plycBody_legal : BodyLegal l plycBody := by
  intro b s hb hs
  have hv := hs.of_view (plycBody_bankView .core b s)
  unfold plycBody at hv ⊢
  split
  · exact ⟨trivial, hs⟩
  · next h =>
    rw [if_neg h] at hv
    exact ⟨curBank_legal hv, hv⟩

/-! ### Tiles -/

theorem tcfgBody_bankLegal {t : TReg} {rowsm1 : BitVec 10} {rbm1 e : BitVec 4} {mx : Bool} : BodyBankLegal l (tcfgBody t rowsm1 rbm1 e mx) := by
  refine checked_bankLegal fun b s hb => ?_
  split
  · trivial
  · exact hb

theorem tcfgRegBody_bankLegal {t : TReg} {ga : GReg} : BodyBankLegal l (tcfgRegBody t ga) := fun b s hb => tcfgBody_bankLegal b s hb

theorem tldBody_bankLegal {load : Bool} {t : TReg} {ga gb gc : GReg} {q : QNum} : BodyBankLegal l (tldBody load t ga gb gc q) := by
  refine checked_bankLegal fun b s hb => ?_
  dsimp only
  split
  · exact hb
  · trivial

theorem tclearBody_bankLegal {rel : Bool} {t : TReg} : BodyBankLegal l (tclearBody rel t) := checked_bankLegal fun _ _ hb => hb

theorem tmovBody_bankLegal {td ts : TReg} : BodyBankLegal l (tmovBody td ts) := by
  refine checked_bankLegal fun b s hb => ?_
  dsimp only
  split <;> exact hb

theorem trdyBody_bankLegal {w : Bool} {gd : GReg} {mask : BitVec 16} : BodyBankLegal l (trdyBody w gd mask) := by
  intro b s hb
  unfold trdyBody
  split
  · trivial
  · exact hb

theorem tresumeBody_bankLegal {t : TReg} : BodyBankLegal l (tresumeBody t) := by
  intro b s hb
  unfold tresumeBody
  split
  · exact hb
  split
  · refine checked_bankLegal (fun b s hb => ?_) b s hb
    exact hb
  · refine checked_bankLegal (fun b s hb => ?_) b s hb
    dsimp only
    split
    · trivial
    · exact hb
    split
    · trivial
    · exact hb

theorem vtrdBody_bankLegal {side : Bool} {vd : VReg} {t : TReg} {gr : GReg} : BodyBankLegal l (vtrdBody side vd t gr) := by
  intro b s hb
  refine checked_bankLegal (fun b s hb => ?_) b s hb
  dsimp only
  split
  · trivial
  · exact hb

theorem vtwrBody_bankLegal {side : Bool} {v : VReg} {t : TReg} {gr : GReg} : BodyBankLegal l (vtwrBody side v t gr) := by
  intro b s hb
  refine checked_bankLegal (fun b s hb => ?_) b s hb
  dsimp only
  split
  · exact hb
  · trivial

/-! ### The board and the inkwell -/

theorem bplaneBody_bankLegal {t : TReg} : BodyBankLegal l (bplaneBody t) := checked_bankLegal (boardAccept_bankLegal fun _ _ hb => hb)

theorem bswapBody_bankLegal : BodyBankLegal l bswapBody := boardAccept_bankLegal fun _ _ hb => hb

theorem brunBody_bankLegal {t : TReg} {gr : GReg} {acc : BitVec 2} {half : Bool} : BodyBankLegal l (brunBody t gr acc half) := by
  intro b s hb
  refine checked_bankLegal (boardAccept_bankLegal fun b s hb => ?_) b s hb
  exact hb

theorem bmodeBody_bankLegal {semi : BitVec 3} : BodyBankLegal l (bmodeBody semi) := fun _ _ hb => hb

theorem iclrBody_bankLegal {gr gc : GReg} : BodyBankLegal l (iclrBody gr gc) := by
  intro b s hb
  dsimp only [iclrBody]
  split
  · exact hb
  · refine checked_bankLegal (boardAccept_bankLegal fun b s hb => ?_) b s hb
    exact hb

theorem advanceSeed_legal {b : Bank} (hb : b.Legal l) (o : DrainOpts) (n : Nat) : (advanceSeed b o n).Legal l := by
  unfold advanceSeed
  split <;> exact hb

theorem idrainTileBody_bankLegal {gr : GReg} {t : TReg} {o : DrainOpts} : BodyBankLegal l (idrainTileBody gr t o) := by
  intro b s hb
  refine checked_bankLegal (boardAccept_bankLegal fun b s hb => ?_) b s hb
  exact advanceSeed_legal hb o _

theorem idrainVectorBody_bankLegal {c : Instr} {gr : GReg} {vd : VReg} {o : DrainOpts} : BodyBankLegal l (idrainVectorBody c gr vd o) := by
  intro b s hb
  unfold idrainVectorBody
  split
  · exact hb
  · refine checked_bankLegal (fun b s hb => ?_) b s hb
    dsimp only
    split
    · trivial
    · exact advanceSeed_legal hb o 1

theorem idrainMemoryBody_bankLegal {c : Instr} {gr ga gb : GReg} {q : QNum} {o : DrainOpts} : BodyBankLegal l (idrainMemoryBody c gr ga gb q o) := by
  intro b s hb
  dsimp only [idrainMemoryBody]
  split
  · exact hb
  · refine checked_bankLegal (boardAccept_bankLegal fun b s hb => ?_) b s hb
    split
    · exact advanceSeed_legal hb o _
    · trivial

/-! ### The stream engine and the scribes' rings -/

theorem smoveBody_bankLegal {q : QNum} {ga : GReg} : BodyBankLegal l (smoveBody q ga) := by
  intro b s hb
  unfold smoveBody
  split
  · exact hb
  split
  · exact hb
  · trivial

theorem sqctlBody_bankLegal {a : SqAct} {q : QNum} {g : GReg} : BodyBankLegal l (sqctlBody a q g) := by
  intro b s hb
  dsimp only [sqctlBody]
  split
  · exact hb
  split
  · exact hb
  split <;> exact hb

theorem slaunchBody_bankLegal {w : RingNum} {gn : GReg} : BodyBankLegal l (slaunchBody w gn) := by
  intro b s hb
  dsimp only [slaunchBody]
  split
  · exact hb
  split
  · exact hb
  split
  · trivial
  · exact hb

/-! ### Vectors and masks -/

theorem raiseFlags_legal {b : Bank} (hb : b.Legal l) (f : FFlags) : (raiseFlags b f).Legal l := by
  dsimp only [raiseFlags]
  split <;> exact hb

theorem vintBody_bankLegal {f : VInt} {vd va vb : VReg} {mk : Option MReg} {wc : BitVec 2} :
    BodyBankLegal l (vintBody f vd va vb mk wc) := fun _ _ hb => hb

theorem vfpBody_bankLegal {f : VFp} {vd va vb : VReg} {mk : Option MReg} {wc : BitVec 2} : BodyBankLegal l (vfpBody f vd va vb mk wc) := by
  intro b s hb
  dsimp only [vfpBody]
  have raised {x : Bank} (hx : x.Legal l) (y : VWord) : (if vfpLong f then longV .core x vd y else wv x vd y).Legal l := by split <;> exact hx
  exact raised (raiseFlags_legal hb _) _

theorem vcmpBody_bankLegal {f : VCmp} {md : MReg} {va vb : VReg} {mk : Option MReg} {wc : BitVec 2} : BodyBankLegal l (vcmpBody f md va vb mk wc) :=
  fun _ _ hb => hb

theorem vfcmpBody_bankLegal {f : Nat} {md : MReg} {va vb : VReg} {mk : Option MReg} {wc : BitVec 2} : BodyBankLegal l (vfcmpBody f md va vb mk wc) :=
  fun _ _ hb => raiseFlags_legal hb _

theorem vredBody_bankLegal {f : VRed} {vd va : VReg} {mk : Option MReg} {wc : BitVec 2} : BodyBankLegal l (vredBody f vd va mk wc) :=
  fun _ _ hb => raiseFlags_legal hb _

theorem vraddBody_bankLegal {vd va : VReg} {mk : Option MReg} {wc : BitVec 2} : BodyBankLegal l (vraddBody vd va mk wc) := fun _ _ hb => hb

theorem vcvtBody_bankLegal {vd va : VReg} {dt st : BitVec 4} {sat : Bool} {mk : Option MReg} : BodyBankLegal l (vcvtBody vd va dt st sat mk) :=
  fun _ _ hb => raiseFlags_legal hb _

theorem vextBody_bankLegal {gd : GReg} {va : VReg} {gb : GReg} {wc : BitVec 2} : BodyBankLegal l (vextBody gd va gb wc) := fun _ _ hb => hb

theorem vinsBody_bankLegal {vd : VReg} {gs gb : GReg} {wc : BitVec 2} : BodyBankLegal l (vinsBody vd gs gb wc) := fun _ _ hb => hb

theorem vsplatBody_bankLegal {vd : VReg} {gs : GReg} {wc : BitVec 2} : BodyBankLegal l (vsplatBody vd gs wc) := fun _ _ hb => hb

theorem maskBody_bankLegal {md : MReg} {f : Bank → MWord} : BodyBankLegal l (maskBody md f) := fun _ _ hb => hb

theorem mcntBody_bankLegal {gd : GReg} {ma : MReg} : BodyBankLegal l (mcntBody gd ma) := fun _ _ hb => hb

end

end Sys2Proof.Machine


namespace Sys2Proof.Machine

/-! SUPPORT. The bank actions, the transfers of banks, and the writes of control registers keep the laws of FL and SSP. -/

section
variable {l : Law}

/-! ### The window bank -/

theorem winBank_legal {b : Bank} {s : State} (hb : b.Legal l) (hs : s.Legal l) : (winBank b s).Legal l := by
  unfold winBank
  split
  · exact hb
  · exact hs.banks _

theorem putWin_legal {b x : Bank} {s : State} (hb : b.Legal l) (hs : s.Legal l) (hx : x.Legal l) :
    (putWin b s x).1.Legal l ∧ (putWin b s x).2.Legal l := by
  unfold putWin
  split
  · exact ⟨hx, hs⟩
  · exact ⟨hb, setBank_legal hs _ hx⟩

theorem bankedWrite_legal {b : Bank} (hb : b.Legal l) (n : Nat) (v : W64) (ring : BitVec 2) (own : Bool) : (bankedWrite n v ring own b).Legal l := by
  have hfl : l.Fl (if own then flNext b.fl v ring else flOther v ring) := by
    split
    · exact flNext_fl hb.1 v ring
    · exact flOther_fl v ring
  unfold bankedWrite
  split
  · exact ⟨hfl, hb.2⟩
  · exact hb
  · exact hb
  · exact ⟨hb.1, align8_ssp v⟩
  all_goals exact hb

theorem releasedBank_legal (s : State) (b : Bank) : (releasedBank s b).Legal l := ⟨flMask_fl _, align8_ssp _⟩

theorem mtbBody_legal {rs : GReg} {n : BitVec 12} : BodyLegal l (mtbBody rs n) := by
  intro b s hb hs
  have hw := winBank_legal hb hs
  dsimp only [mtbBody]
  have write {x : Bank} (hx : x.Legal l) : (ringGate 1 (fun _ b s => let (b1, s1) := putWin b s x; .ok b1 s1) .core b s).Legal l := by
    refine ringGate_legal (fun b s hb hs => ?_) b s hb hs
    exact putWin_legal hb hs hx
  split
  · exact ⟨hb, hs⟩
  · next y h =>
    refine write ?_
    split at h
    · cases h; exact bankedWrite_legal hw ..
    split at h
    · cases h; exact hw
    split at h
    · cases h; exact hw
    · cases h

/-! ### The actions of BANKWIN -/

theorem runBank_banks_legal {s : State} (hs : ∀ k : BankNum, s.banks[k].Legal l) {b : Bank} (hb : b.Legal l) (dst k : BankNum) :
    (runBank s b dst).banks[k].Legal l := by
  have h1 (j : BankNum) : (setCur s b).banks[j].Legal l := setBank_banks_legal hs s.c.cur hb j
  exact setBank_banks_legal h1 dst (b := wakeBank { (setCur s b).banks[dst] with pc := align4 (setCur s b).banks[dst].pc } .run) (h1 dst) k

theorem runBank_legal {s : State} (hs : s.Legal l) {b : Bank} (hb : b.Legal l) (dst : BankNum) : (runBank s b dst).Legal l :=
  ⟨runBank_banks_legal hs.banks hb dst, hs.entry, hs.fresh⟩

theorem bankOverflow_legal {b : Bank} {s : State} (hb : b.Legal l) (hs : s.Legal l) : (bankOverflow b s).Legal l := by
  dsimp only [bankOverflow]
  have h2 (t : State) (ht : t.Legal l) : (runBank t { b with st := .ready } 0).Legal l := runBank_legal ht (b := { b with st := .ready }) hb 0
  refine setBank_legal (h2 _ ?_) 0 ?_
  · exact .of_banks hs.banks rfl rfl
  · have h0 := (h2 _ (.of_banks (t := { s with
      stall := none
      c := { s.c with bovbank := s.c.cur, bovrpc := s.banks[0].pc, bovrfl := s.banks[0].fl, entry := none, fresh := none, dfOpen := false } })
      hs.banks rfl rfl)).banks 0
    exact ⟨setIe_fl h0.1 false, h0.2⟩

theorem bankwinWrite_legal (v : W64) {b : Bank} {s : State} (hb : b.Legal l) (hs : s.Legal l) : (bankwinWrite v b s).Legal l := by
  have hk (k : BankNum) : State.Legal l { s with c := { s.c with bankwin := k } } := hs.of_view rfl
  have hx (k : BankNum) : s.banks[k].Legal l := hs.banks k
  dsimp only [bankwinWrite]
  split
  · split
    · next n h => exact ⟨hb, (setBank_legal hs n (b := { s.banks[n] with st := .parked, dirty := 0 }) (hx n)).of_view rfl⟩
    split
    · exact ⟨hb, hs.of_view rfl⟩
    split
    · exact ⟨trivial, bankOverflow_legal hb hs⟩
    · exact ⟨trivial, hs⟩
  · split
    · exact ⟨hb, hk _⟩
    · exact ⟨hb, setBank_legal ((hk _).of_view (spent_bankView _ 1)) _ (releasedBank_legal s _)⟩
  · split
    · exact ⟨hb, hk _⟩
    · exact ⟨hb, setBank_legal (hk _) _ (b := wakeBank s.banks[_] .parked) (hx _)⟩
  · split
    · exact ⟨hb, setBank_legal (hk _) _ (b := wakeBank s.banks[_] .ready) (hx _)⟩
    · exact ⟨hb, hk _⟩
  · split
    · exact ⟨hb, hk _⟩
    split
    · exact ⟨trivial, runBank_legal (hk _) (b := { b with st := .ready, pc := b.pc + 4 }) hb _⟩
    · exact ⟨trivial, hs⟩
  · split
    · exact ⟨hb, hk _⟩
    · exact ⟨hb, setBank_legal (hk _) _ (b := touchCtl (clearEvents s.banks[_])) (hx _)⟩
  · split
    · exact ⟨Bank.Legal.wfl hb (setRing_fl (flMask_fl _) _), hk _⟩
    · exact ⟨hb, hk _⟩
  · exact ⟨hb, hk _⟩

/-! ### Saving and loading banks -/

theorem groupLoad_legal {b : Bank} (hb : b.Legal l) (ring : BitVec 2) (x : Group) (bs : List Byte) : (groupLoad b ring x bs).Legal l := by
  cases x with
  | ctl => exact ⟨flOther_fl _ ring, align8_ssp _⟩
  | g k =>
    refine foldl_keeps (Bank.Legal l) _ (fun c i h => ?_) _ b hb
    exact h
  | v i => exact hb
  | m =>
    refine foldl_keeps (Bank.Legal l) _ (fun c i h => ?_) _ b hb
    exact h

theorem xferHold_legal (x : Xfer) (i : Nat) {b : Bank} {s : State} (hb : b.Legal l) (hs : s.Legal l) : (xferHold x i b s).Legal l := by
  unfold xferHold
  split
  · exact ⟨hb, hs.of_view (svmStop_bankView ..)⟩
  · refine ⟨trivial, setCur_legal ?_ hb⟩
    exact .of_banks hs.banks rfl rfl

theorem xferNext_legal (x : Xfer) (q : List (Nat × Group × W64)) {b : Bank} {s : State} (hb : b.Legal l) (hs : s.Legal l) :
    (xferNext x q b s).Legal l := by
  unfold xferNext
  split
  · exact ⟨hb, hs⟩
  · exact xferHold_legal x _ hb hs

/-- A state whose save or load notes how far it has come. -/
theorem noteXfer_legal {s : State} (hs : s.Legal l) (p : Prop) [Decidable p] (x : Nat × W64) (load : Bool) (i : Nat) :
    (if p then { s with c := { s.c with xfer := some x } } else svmStop s load i).Legal l := by
  split
  · exact hs.of_view rfl
  · exact hs.of_view (svmStop_bankView ..)

theorem xferGroup_legal (x : Xfer) (q : List (Nat × Group × W64)) {b : Bank} {s : State} (hb : b.Legal l) (hs : s.Legal l) :
    (xferGroup .core x q b s).Legal l := by
  have hw := winBank_legal hb hs
  cases q with
  | nil => exact ⟨hb, hs⟩
  | cons p q =>
    obtain ⟨i, gr, va⟩ := p
    dsimp only [xferGroup]
    split
    · have hl := loadBytes_bankView .core b va (groupSize gr) 8 false s
      split
      · next s1 bs h =>
        rw [h] at hl
        have hp := putWin_legal hb (hs.of_view hl) (x := { groupLoad (winBank b s) (ringOf b) gr bs with
          dirty := setBit (groupLoad (winBank b s) (ringOf b) gr bs).dirty (groupBit gr) false }) (groupLoad_legal hw (ringOf b) gr bs)
        exact xferNext_legal x q hp.1 hp.2
      · next h =>
        rw [h] at hl
        exact ⟨hb, noteXfer_legal (hs.of_view hl) ..⟩
      · next h =>
        rw [h] at hl
        exact ⟨trivial, (hs.of_view hl).of_view rfl⟩
    · have hst (bs : List (Option Byte)) (ps : List Piece) := storePieces_bankView .core b va 8 true false bs ps s
      split
      · next s1 h =>
        have h1 : s1.Legal l := hs.of_view ((congrArg (State.bankView ∘ StoreOut.state) h).symm.trans (hst ..))
        have hp := putWin_legal hb h1 (x := { winBank b s with dirty := setBit (winBank b s).dirty (groupBit gr) false }) hw
        exact xferNext_legal x q hp.1 hp.2
      · next s1 e h =>
        have h1 : s1.Legal l := hs.of_view ((congrArg (State.bankView ∘ StoreOut.state) h).symm.trans (hst ..))
        exact ⟨hb, noteXfer_legal h1 ..⟩
      · next s1 h =>
        have h1 : s1.Legal l := hs.of_view ((congrArg (State.bankView ∘ StoreOut.state) h).symm.trans (hst ..))
        exact ⟨trivial, h1.of_view rfl⟩

theorem xferEnd_legal {r : Res} {f : Bank → State → Bank × State} (hr : r.Legal l)
    (hf : ∀ b s, b.Legal l → s.Legal l → (f b s).1.Legal l ∧ (f b s).2.Legal l) : (xferEnd r f).Legal l := by
  unfold xferEnd
  split
  · exact hf _ _ hr.1 (hr.2.of_view rfl)
  · exact hr

theorem parkFree_legal {s : State} (hs : s.Legal l) : (parkFree s).Legal l := by
  dsimp only [parkFree]
  split
  · exact setBank_legal hs _ (b := { s.banks[s.c.bankwin] with st := .parked }) (hs.banks _)
  · exact hs

theorem xferGate_legal {c : Instr} {undef load vec : Bool} {ga : GReg} {body : Bool → Body} (h : ∀ off, BodyLegal l (body off)) :
    BodyLegal l (xferGate c undef load vec ga body) := by
  intro b s hb hs
  dsimp only [xferGate]
  split
  · exact ⟨hb, hs⟩
  refine ringGate_legal (fun b s hb hs => ?_) b s hb hs
  split
  · exact ⟨hb, hs⟩
  split
  · exact ⟨trivial, hs.of_view (wakeRequest_bankView s dVec)⟩
  split
  · exact ⟨trivial, hs⟩
  refine h _ b _ hb ?_
  split
  · exact parkFree_legal hs
  · exact hs

theorem svmBody_legal {c : Instr} {load : Bool} {ga gm : GReg} : BodyLegal l (svmBody c load ga gm) := by
  intro b s hb hs
  unfold svmBody
  extract_lets m named bad
  refine xferGate_legal (fun off b s hb hs => ?_) b s hb hs
  refine xferEnd_legal (xferGroup_legal _ _ hb hs) fun b s hb hs => ?_
  have hw := winBank_legal hb hs
  dsimp only
  split
  · exact ⟨hb, hs⟩
  split
  · exact putWin_legal hb hs (x := wakeBank (winBank b s) .ready) hw
  · exact putWin_legal hb (hs.of_view (spent_bankView s 1)) (releasedBank_legal s _)

/-- A state that stops a save or load at a group, unless the access waits. -/
theorem stopXfer_legal {s : State} (hs : s.Legal l) (p : Prop) [Decidable p] (load : Bool) (i : Nat) :
    (if p then s else svmStop s load i).Legal l := by
  split
  · exact hs
  · exact hs.of_view (svmStop_bankView ..)

theorem svhBody_legal {c : Instr} {ga : GReg} {h : Bool} : BodyLegal l (svhBody c ga h) := by
  intro b s hb hs
  refine xferGate_legal (fun off b s hb hs => ?_) b s hb hs
  have hst := storeBytes_bankView .core b (rg b ga + 8) 8 false (toBytes 8 (BitVec.ofNat 64 h.toNat)) s
  dsimp only
  split
  · split
    · next e =>
      rw [e] at hst
      exact ⟨hb, stopXfer_legal (hs.of_view hst) ..⟩
    · next e =>
      rw [e] at hst
      exact ⟨trivial, hs.of_view hst⟩
    · next e =>
      rw [e] at hst
      exact xferHold_legal _ 0 hb (hs.of_view hst)
  · exact xferEnd_legal (xferGroup_legal _ _ hb hs) fun _ _ hb hs => ⟨hb, hs⟩

theorem ldhBody_legal {c : Instr} {ga : GReg} {h : Bool} : BodyLegal l (ldhBody c ga h) := by
  intro b s hb hs
  refine xferGate_legal (fun off b s hb hs => ?_) b s hb hs
  have hl := ldhOther_bankView .core b (rg b ga) h s
  dsimp only
  split
  · next e =>
    rw [e] at hl
    exact ⟨hb, stopXfer_legal (hs.of_view hl) ..⟩
  · next e =>
    rw [e] at hl
    exact ⟨trivial, hs.of_view hl⟩
  · next e =>
    rw [e] at hl
    exact ⟨trivial, hs.of_view hl⟩
  · next e =>
    rw [e] at hl
    exact xferEnd_legal (xferGroup_legal _ _ hb (hs.of_view hl)) fun _ _ hb hs => ⟨hb, hs⟩

/-! ### Control registers -/

theorem ruledWrite_bankLegal (v : W64) {b : Bank} (s : State) (hb : b.Legal l) : (ruledWrite v b s).BankLegal l := by
  dsimp only [ruledWrite]
  split
  · exact hb
  split
  · exact hb
  split
  · trivial
  split
  · trivial
  · exact hb

theorem regWrite_legal (n : Nat) (v : W64) {b : Bank} {s : State} (hb : b.Legal l) (hs : s.Legal l) : (regWrite n v b s).Legal l := by
  have hw := winBank_legal hb hs
  have hp := hs.of_view (regPlain_bankView n v s)
  unfold regWrite
  split
  · exact ⟨bankedWrite_legal hb .., hs⟩
  split
  · exact bankwinWrite_legal v hb hs
  split
  · exact putWin_legal hb hs (x := { winBank b s with dirty := (winBank b s).dirty &&& ~~~ (v.setWidth 41) }) hw
  split
  · exact ⟨ruledWrite_bankLegal v s hb, hs.of_view (ruledWrite_bankView v b s)⟩
  · exact ⟨curBank_legal hp, hp⟩

theorem mtcValue_legal {c : Instr} {n : Nat} {v : W64} : BodyLegal l (mtcValue c n v) := by
  intro b s hb hs
  unfold mtcValue
  split
  · exact ⟨hb, hs⟩
  split
  · split
    · exact ⟨hb, hs⟩
    · exact regWrite_legal n v hb hs
  · split <;> exact ⟨hb, hs⟩

theorem mtcBody_legal {rs : GReg} {n : BitVec 12} : BodyLegal l (mtcBody rs n) := fun b s hb hs => mtcValue_legal b s hb hs

end

end Sys2Proof.Machine


namespace Sys2Proof.Machine

/-! SUPPORT. The events of the core, the frames of the units' instructions, resets, and every command keep the laws of FL and SSP. -/

section
variable {l : Law}

theorem map_legal {α : Type} {s : State} (hs : s.Legal l) (o : Option α) {f : α → State} (h : ∀ a, (f a).Legal l) : ((o.map f).getD s).Legal l := by
  cases o with
  | none => exact hs
  | some a => exact h a

/-! ### The frames of the units' instructions, and the instructions that are more than a frame and a body -/

theorem tileInstr_legal {c : Instr} {body : Body} {s : State} (hs : s.Legal l) (h : BodyLegal l body) : (outState s (tileInstr c body s)).Legal l :=
  issue_legal c hs (domGate_legal h)

theorem boardInstr_legal {c : Instr} {body : Body} {s : State} (hs : s.Legal l) (h : BodyLegal l body) : (outState s (boardInstr c body s)).Legal l :=
  issue_legal c hs (domGate_legal h)

theorem streamInstr_legal {c : Instr} {body : Body} {s : State} (hs : s.Legal l) (h : BodyLegal l body) :
    (outState s (streamInstr c body s)).Legal l :=
  issue_legal c hs (domGate_legal h)

theorem vecInstr_legal {c : Instr} {body : Body} {s : State} (hs : s.Legal l) (h : BodyLegal l body) : (outState s (vecInstr c body s)).Legal l :=
  issue_legal c hs (vecGate_legal h)

/-- An instruction that writes a general register alone. -/
theorem writesG_legal {rd : GReg} {f : Bank → State → W64} : BodyLegal l fun _ b s => .ok (wg b rd (f b s)) s := fun _ _ hb hs => ⟨hb, hs⟩

section
variable {s : State} (hs : s.Legal l)
include hs

theorem execLoad_legal (rd : GReg) (a : SAddr) (sz : BitVec 3) : (outState s (execLoad rd a sz s)).Legal l := by
  refine issue_legal _ hs (.of_views (fun _ _ _ => loadOnce_bankView ..) fun b s hb => ?_)
  exact loadOnce_bankLegal .core rd a sz s hb

theorem execStore_legal (rs : GReg) (a : SAddr) (sz : BitVec 3) : (outState s (execStore rs a sz s)).Legal l := by
  refine issue_legal _ hs (.of_views (fun _ _ _ => storeOnce_bankView ..) fun b s hb => ?_)
  exact storeOnce_bankLegal .core rs a sz s hb

theorem execVload_legal (v : VReg) (a : VAddr) (mk : Option MReg) (w : BitVec 2) : (outState s (execVload v a mk w s)).Legal l := by
  refine issue_legal _ hs (vecGate_legal (.of_views (fun _ _ _ => vloadOnce_bankView ..) fun b s hb => ?_))
  exact vloadOnce_bankLegal .core v a mk w s hb

theorem execVstore_legal (v : VReg) (a : VAddr) (mk : Option MReg) (w : BitVec 2) : (outState s (execVstore v a mk w s)).Legal l := by
  refine issue_legal _ hs (vecGate_legal (.of_views (fun _ _ _ => vstoreOnce_bankView ..) fun b s hb => ?_))
  exact vstoreOnce_bankLegal .core v a mk w s hb

theorem execRep_legal (gc : GReg) (i : Governed) : (outState s (execRep gc i s)).Legal l := by
  refine issue_legal _ hs ?_
  split
  · exact vecGate_legal repBody_legal
  · exact repBody_legal

theorem execTcfgRead_legal (gd : GReg) (t : TReg) : (outState s (execTcfgRead gd t s)).Legal l :=
  tileInstr_legal hs (writesG_legal (f := fun _ s => tileDesc s t))

theorem execTld_legal (t : TReg) (ga gb gc : GReg) (q : QNum) : (outState s (execTld t ga gb gc q s)).Legal l :=
  tileInstr_legal hs (domGate_legal (.of_views (fun _ _ _ => tldBody_bankView ..) tldBody_bankLegal))

theorem execTst_legal (t : TReg) (ga gb gc : GReg) (q : QNum) : (outState s (execTst t ga gb gc q s)).Legal l :=
  tileInstr_legal hs (domGate_legal (.of_views (fun _ _ _ => tldBody_bankView ..) tldBody_bankLegal))

theorem execTresume_legal (t : TReg) : (outState s (execTresume t s)).Legal l :=
  tileInstr_legal hs (.of_views (fun _ _ _ => tresumeBody_bankView ..) tresumeBody_bankLegal)

theorem execBplane_legal (t : TReg) : (outState s (execBplane t s)).Legal l :=
  boardInstr_legal hs (domGate_legal (.of_views (fun _ _ _ => bplaneBody_bankView ..) bplaneBody_bankLegal))

theorem execBswap_legal : (outState s (execBswap s)).Legal l := boardInstr_legal hs (.of_views bswapBody_bankView bswapBody_bankLegal)

theorem execBrun_legal (t : TReg) (gr : GReg) (acc : BitVec 2) (half : Bool) : (outState s (execBrun t gr acc half s)).Legal l :=
  boardInstr_legal hs (domGate_legal (.of_views (fun _ _ _ => brunBody_bankView ..) brunBody_bankLegal))

theorem execIclr_legal (gr gc : GReg) : (outState s (execIclr gr gc s)).Legal l :=
  boardInstr_legal hs (.of_views (fun _ _ _ => iclrBody_bankView ..) iclrBody_bankLegal)

theorem execIdrainTile_legal (gr : GReg) (t : TReg) (o : DrainOpts) : (outState s (execIdrainTile gr t o s)).Legal l :=
  boardInstr_legal hs (domGate_legal (.of_views (fun _ _ _ => idrainTileBody_bankView ..) idrainTileBody_bankLegal))

theorem execIdrainMemory_legal (gr ga gb : GReg) (q : QNum) (o : DrainOpts) : (outState s (execIdrainMemory gr ga gb q o s)).Legal l :=
  boardInstr_legal hs (domGate_legal (.of_views (fun _ _ _ => idrainMemoryBody_bankView ..) idrainMemoryBody_bankLegal))

theorem execSmove_legal (q : QNum) (ga : GReg) : (outState s (execSmove q ga s)).Legal l :=
  streamInstr_legal hs (.of_views (fun _ _ _ => smoveBody_bankView ..) smoveBody_bankLegal)

theorem execSqstat_legal (gd : GReg) (q : QNum) (w : BitVec 3) : (outState s (execSqstat gd q w s)).Legal l :=
  streamInstr_legal hs (writesG_legal (f := fun _ s => sqWord s q w))

theorem execSqwait_legal (gd : GReg) (q : QNum) : (outState s (execSqwait gd q s)).Legal l := by
  refine streamInstr_legal hs fun b s hb hs => ?_
  split
  · exact ⟨hb, hs⟩
  · exact ⟨trivial, hs⟩

theorem execSlaunch_legal (wr : RingNum) (gn : GReg) : (outState s (execSlaunch wr gn s)).Legal l :=
  streamInstr_legal hs (.of_views (fun _ _ _ => slaunchBody_bankView ..) slaunchBody_bankLegal)

theorem execFenceRetire_legal : (outState s (execFenceRetire s)).Legal l := by
  unfold execFenceRetire
  split
  · exact issue_legal _ hs (.of_views (fun _ _ _ => fenceBody_bankView ..) fenceBody_bankLegal)
  · exact event_legal hs hs

theorem execTileOpAccept_legal : (outState s (execTileOpAccept s)).Legal l := by
  unfold execTileOpAccept
  generalize s.stall = held
  cases held with
  | none => exact event_legal hs hs
  | some i =>
    cases i with
    | tld => exact execTld_legal hs ..
    | tst => exact execTst_legal hs ..
    | tresume => exact execTresume_legal hs ..
    | bplane => exact execBplane_legal hs ..
    | bswap => exact execBswap_legal hs
    | brun => exact execBrun_legal hs ..
    | iclr => exact execIclr_legal hs ..
    | idrainTile => exact execIdrainTile_legal hs ..
    | idrainMemory => exact execIdrainMemory_legal hs ..
    | smove => exact execSmove_legal hs ..
    | slaunch => exact execSlaunch_legal hs ..
    | _ => exact event_legal hs hs

/-! ### Long results and the scheduler -/

theorem execLongOpResult_legal (b : BankNum) (d : LongDst) : (outState s (execLongOpResult b d s)).Legal l := by
  refine event_legal hs (map_legal hs _ fun x => setBank_legal hs b ?_)
  unfold longDone
  split <;> exact hs.banks b

theorem schedTo_legal {b : Bank} (hb : b.Legal l) (dst : BankNum) : (schedTo s b dst).Legal l := by
  refine runBank_legal ?_ hb dst
  exact .of_banks hs.banks rfl rfl

theorem execSchedSwitch_legal (why : SwitchWhy) : (outState s (execSchedSwitch why s)).Legal l := by
  have hb := curBank_legal hs
  refine event_legal hs ?_
  dsimp only
  split
  · exact hs
  split
  · exact hs
  next dst _ =>
  split
  · split
    · next ts cfg _ =>
      split
      · exact schedTo_legal hs (b := { curBank s with st := .wait, tnr := true, tnrTiles := ts, tnrCfg := cfg }) hb dst
      · exact hs
    · exact hs
  · split
    · exact schedTo_legal hs (b := { curBank s with st := .wait, pc := (curBank s).pc + 4 }) hb dst
    · exact hs
  · split
    · exact schedTo_legal hs (b := { curBank s with st := .ready }) hb dst
    · exact hs

theorem execTnrBankReady_legal (b : BankNum) : (outState s (execTnrBankReady b s)).Legal l := by
  refine event_legal hs ?_
  dsimp only
  split
  · exact setBank_legal hs b (b := wakeBank s.banks[b] .ready) (hs.banks b)
  · exact hs

/-! ### Exceptions, interrupts and their entries -/

theorem freshFault_legal {f : Fresh} (hf : l.Fl f.fl) (reason : BitVec 4) : (freshFault s f reason).Legal l := by
  unfold freshFault
  split
  · exact hs.of_view (thirdFault_bankView s)
  refine doubleFaultAt_legal ?_ reason f.vec f.pc hf
  split
  · exact hs
  have h0 : State.Legal l { s with c := { s.c with
      ipl := f.ipl, hold := f.hold, cxpc := f.cxpc, cxfl := f.cxfl, cxcause := f.cxcause, cxaddr := f.cxaddr, entry := none } } :=
    ⟨hs.banks, nofun, hs.fresh⟩
  dsimp only
  split
  · exact h0
  · exact setPending_legal h0 f.vec f.pend

theorem fetchFaultEntry_legal (e : Exc) : (fetchFaultEntry s e).Legal l := by
  unfold fetchFaultEntry
  split
  · next f h => exact freshFault_legal hs (hs.fresh f h) 3
  · exact raise_legal e hs

theorem raiseBefore_legal (va : W64) (e : Exc) : (((beforeError s va).map (raise e)).getD s).Legal l := by
  have hr := raise_legal e hs
  unfold beforeError
  split
  · next n g h =>
    dsimp only
    split
    · next k hk =>
      have hl := repnLoop_bankView .core g s k (curBank s) s rfl
      have hb := repnLoop_bankLegal (l := l) .core g s k s (curBank_legal hs)
      split
      · next b1 s1 h =>
        rw [h] at hl hb
        exact raise_legal e (setCur_legal (hs.of_view hl) hb)
      · exact hs
    · exact hr
  · exact hr

theorem conditionOf_legal (c : EntryCause) : ((conditionOf c s).getD s).Legal l := by
  cases c with
  | undefWords w1 w2 =>
    dsimp only [conditionOf]
    split
    · exact raise_legal _ hs
    · exact hs
  | fetchFault second =>
    dsimp only [conditionOf]
    split
    · exact hs
    generalize h : fetchExc s ((curBank s).pc + if second then 4 else 0) = x
    cases x with
    | none => exact hs
    | some p => exact fetchFaultEntry_legal (hs.of_view (fetchExc_bankView h)) p.2
  | dataError poison acc va =>
    cases acc with
    | none => exact hs
    | fetch => exact fetchFaultEntry_legal (hs.of_view (fetchMeets_bankView s)) _
    | _ => exact raiseBefore_legal hs va _
  | busError sub acc va =>
    dsimp only [conditionOf]
    split
    · exact hs
    cases acc with
    | none => exact hs
    | fetch => exact fetchFaultEntry_legal hs _
    | _ => exact raiseBefore_legal hs va _

theorem exceptionOf_legal (c : EntryCause) : ((exceptionOf c s).getD s).Legal l := by
  unfold exceptionOf
  split
  · exact hs
  split
  · exact enterInterrupt_legal hs _
  · exact conditionOf_legal hs c

theorem undoEntry_legal {w : EntryWin} (hw : l.Fl w.fl) : (undoEntry s w).Legal l := by
  have h1 := setCur_legal hs (b := { curBank s with pc := w.pc, fl := w.fl }) ⟨hw, (curBank_legal hs).2⟩
  have h2 (c : Ctl) (he : c.entry = none) (hf : c.fresh = none) :
      State.Legal l { setCur s { curBank s with pc := w.pc, fl := w.fl } with stall := none, c := c } := .of_banks h1.banks he hf
  dsimp only [undoEntry]
  split
  · exact h2 _ rfl rfl
  · exact setPending_legal (h2 _ rfl rfl) w.vec w.pend

theorem takeInterrupt_legal {r : Option State} (h : (r.getD s).Legal l) : ((takeInterrupt s r).getD s).Legal l := by
  unfold takeInterrupt
  split
  · split
    · exact hs.of_view (wakeRequest_bankView s dCore)
    · exact hs
  split
  · exact h
  · exact hs

theorem execExceptionEntry_legal (c : EntryCause) : (outState s (execExceptionEntry c s)).Legal l := event_legal hs (exceptionOf_legal hs c)

theorem execInterruptEntry_legal : (outState s (execInterruptEntry s)).Legal l := by
  refine event_legal hs (takeInterrupt_legal hs ?_)
  split
  · exact hs
  · exact map_legal hs _ fun p => interruptEntryOf_legal hs p.1 p.2

theorem execCriticalEntry_legal : (outState s (execCriticalEntry s)).Legal l :=
  event_legal hs (takeInterrupt_legal hs (map_legal hs _ (criticalEntryWin_legal hs)))

theorem execEntryTakeover_legal : (outState s (execEntryTakeover s)).Legal l := by
  refine event_legal hs ?_
  split
  · exact hs
  · next w h => exact map_legal hs _ fun v => criticalEntryWin_legal (undoEntry_legal hs (hs.entry w h)) v

theorem execDoubleFault_legal (reason : BitVec 4) : (outState s (execDoubleFault reason s)).Legal l := by
  refine event_legal hs ?_
  split
  · exact hs
  · next f h =>
    split
    · exact freshFault_legal hs (hs.fresh f h) reason
    · exact hs

/-! ### The scribes' threads -/

omit hs

theorem repBody_thread (gc : GReg) (g : Governed) (k : ScribeNum) (t : Fin 128) (b : Bank) (s : State) :
    (repBody gc g (.scribe k t) b s).state.bankView = s.bankView := by
  have hg := governedOnce_bankView (.scribe k t) g b s
  unfold repBody
  split
  · rfl
  unfold repElement
  split
  · next b1 s1 e =>
    rw [e] at hg
    dsimp only
    split <;> exact hg
  · next e1 b1 s1 e =>
    rw [e] at hg
    exact hg
  · exact hg

theorem scribeBody_bankView (i : Instr) : ChoiceViews (scribeBody i) := by
  cases i with
  | add | sub | and | or | xor | andn | shl | shr | sar | ror | mul | mulh | mulhu | min | max => exact .some fun _ _ _ _ => aluBody_bankView ..
  | cmp => exact .some fun _ _ _ _ => cmpBody_bankView ..
  | div | divu | rem | remu => exact .some fun _ _ _ _ => divBody_bankView ..
  | clz | popc => exact .some fun _ _ _ _ => countBody_bankView ..
  | imz => exact .some fun _ _ _ _ => imzBody_bankView ..
  | imi => exact .some fun _ _ _ _ => imiBody_bankView ..
  | load => exact .some fun _ _ _ _ => loadOnce_bankView ..
  | store => exact .some fun _ _ _ _ => storeOnce_bankView ..
  | lda => exact .some fun _ _ _ _ => ldaBody_bankView ..
  | stl => exact .some fun _ _ _ _ => stlBody_bankView ..
  | cas => exact .some fun _ _ _ _ => casBody_bankView ..
  | aadd => exact .some fun _ _ _ _ => aaddBody_bankView ..
  | rep => exact .ite (.some fun _ _ _ _ => repBody_thread ..) .none
  | repn => exact .some fun _ _ _ _ => repnBody_bankView ..
  | vload => exact .ite (.some fun _ _ _ _ => vloadOnce_bankView ..) .none
  | vstore => exact .ite (.some fun _ _ _ _ => vstoreOnce_bankView ..) .none
  | b => exact .some fun _ _ _ _ => bBody_bankView ..
  | bCond => exact .some fun _ _ _ _ => bCondBody_bankView ..
  | br => exact .some fun _ _ _ _ => brBody_bankView ..
  | call => exact .some fun _ _ _ _ => scrCall_bankView ..
  | callr => exact .some fun _ _ _ _ => scrCallr_bankView ..
  | ret => exact .some fun _ _ _ _ => scrRet_bankView ..
  | fence => exact .ite (.some fun _ _ _ _ => scrFence_bankView ..) .none
  | sysc => exact .some fun _ _ _ _ => scrEnd_bankView ..
  | mfc rd n => exact scrMfc_bankView rd n.toNat
  | mtc rs n => exact scrMtc_bankView rs n.toNat
  | tally => exact .some fun _ _ _ _ => tallyBody_bankView ..
  | vadd | vsub | vmul | vmin | vmax | vminu | vmaxu | vand | vor | vxor | vshl | vshr | vsar =>
    exact .ite (.some fun _ _ _ _ => vintBody_bankView ..) .none
  | vfadd | vfsub | vfmul | vfdiv | vfmin | vfmax | vfma | vfnma | vfsqrt => exact .ite (.some fun _ _ _ _ => vfpBody_bankView ..) .none
  | vcmpeq | vcmplt | vcmpltu => exact .ite (.some fun _ _ _ _ => vcmpBody_bankView ..) .none
  | vfcmpeq | vfcmplt | vfcmple => exact .ite (.some fun _ _ _ _ => vfcmpBody_bankView ..) .none
  | vrsum | vrmax | vrmin => exact .ite (.some fun _ _ _ _ => vredBody_bankView ..) .none
  | vradd => exact .ite (.some fun _ _ _ _ => vraddBody_bankView ..) .none
  | vcvt => exact .ite (.some fun _ _ _ _ => vcvtBody_bankView ..) .none
  | vext => exact .ite (.some fun _ _ _ _ => vextBody_bankView ..) .none
  | vins => exact .ite (.some fun _ _ _ _ => vinsBody_bankView ..) .none
  | vsplat => exact .ite (.some fun _ _ _ _ => vsplatBody_bankView ..) .none
  | mand | mor | mxor | mnot | mset => exact .ite (.some fun _ _ _ _ => maskBody_bankView ..) .none
  | mcnt => exact .ite (.some fun _ _ _ _ => mcntBody_bankView ..) .none
  | _ => exact .none

theorem threadRun_bankView (k : ScribeNum) (t : Fin 128) (x : Thread) (w1 w2 : W32) (s : State) :
    (threadRun k t x w1 w2 s).state.bankView = s.bankView := by
  unfold threadRun
  split
  · exact stopThread_bankView ..
  next i body h =>
  obtain ⟨i, _, hi⟩ := Option.bind_eq_some_iff.1 h
  obtain ⟨body, hb, ⟨⟩⟩ := Option.map_eq_some_iff.1 hi
  have hk := scribeBody_bankView i body hb k t x.regs s
  dsimp only
  cases hr : body (.scribe k t) x.regs s with
  | ok | jump => rw [hr] at hk; exact (setThread_bankView ..).trans hk
  | done | trap | wait => rw [hr] at hk; exact hk
  | exc =>
    rw [hr] at hk
    dsimp only
    split
    · exact hk
    · exact (stopThread_bankView ..).trans hk

theorem threadIssue_bankView (k : ScribeNum) (t : Fin 128) (x : Thread) (s : State) : (threadIssue k t x s).state.bankView = s.bankView := by
  grind [threadIssue, Issued.state, !threadRun_bankView, stopThread_bankView, !scrFetch_bankView]

theorem issueNext_bankView (k : ScribeNum) (q : List (Fin 128)) (s : State) : (issueNext k q s).bankView = s.bankView := by
  induction q generalizing s with
  | nil => rfl
  | cons t q ih => grind [issueNext, Issued.state, !threadIssue_bankView, setScribe_bankView]

theorem execThreadIssue_bankView (k : ScribeNum) (s : State) : (outState s (execThreadIssue k s)).bankView = s.bankView := by
  refine event_bankView s _ ?_
  split <;> simp only [Option.getD_some, Option.getD_none, ↓issueNext_bankView]

include hs

/-! ### Domains and resets -/

theorem domInit_legal (d : Fin 32) : (domInit s d).Legal l := by
  unfold domInit
  split
  · exact hs.of_view rfl
  · exact hs.of_view ((freshTiles_bankView _).trans (dropSpots_bankView s [0x05, 0x06]))
  · exact hs.of_view ((emptyBoard_bankView _).trans (dropSpots_bankView s [0x09]))
  · exact hs.of_view (dropTlb_bankView ..)
  · exact hs.of_view (vmapBanks_bankView s _ fun _ => rfl)
  · refine .of_banks (fun k => ?_) rfl rfl
    have fresh : (freshBanks s)[k].Legal l := by
      simp only [freshBanks, Fin.getElem_fin, vmapIdx_get]
      split <;> exact ⟨zero_fl, zero_ssp⟩
    exact fresh
  · split
    · exact hs.of_view ((dropTlb_bankView ..).trans (setScribe_bankView ..))
    · exact hs

theorem execDomainWakeComplete_legal (d : Fin 32) : (outState s (execDomainWakeComplete d s)).Legal l := by
  refine event_legal hs ?_
  dsimp only
  split
  · have woken {t : State} (ht : t.Legal l) (x : Dom) : (if d = dVellum then grantPartner (powerPoll (setDom t d x)) else powerPoll (setDom t d x)).Legal l := by
      have hp := ht.of_view ((powerPoll_bankView _).trans (setDom_bankView t d x))
      split
      · exact hp.of_view (grantPartner_bankView _)
      · exact hp
    refine woken ?_ _
    split
    · exact domInit_legal hs d
    split
    · exact hs.of_view rfl
    · exact hs
  · exact hs

omit hs in
theorem execRstColdAssert_legal : (outState s (execRstColdAssert s)).Legal l := by
  refine .of_banks (fun k => ?_) rfl rfl
  have reset : ((Vector.replicate 4 ({} : Bank)).set 0 { st := .run })[k].Legal l := by
    simp only [Fin.getElem_fin, Vector.getElem_set, Vector.getElem_replicate]
    split <;> exact ⟨zero_fl, zero_ssp⟩
  exact reset

omit hs in
theorem warmState_legal : (warmState s).Legal l := by
  unfold warmState
  refine .of_banks (fun k => ?_) rfl rfl
  have warm (t : State) : (warmBanks t)[k].Legal l := by
    simp only [warmBanks, Fin.getElem_fin, vmapIdx_get]
    split <;> exact ⟨zero_fl, zero_ssp⟩
  exact warm _

theorem execWarmReset_legal : (outState s (execWarmReset s)).Legal l := by
  refine event_legal hs ?_
  split
  · exact warmState_legal
  · exact hs

/-! ### The debug module -/

theorem execDbgResume_legal : (outState s (execDbgResume s)).Legal l := by
  refine event_legal hs ?_
  dsimp only
  split
  · exact hs
  split
  · exact hs.of_view rfl
  split
  · exact hs.of_view (wakeRequest_bankView ..)
  · exact (setCur_legal hs (b := { curBank s with pc := align4 (curBank s).pc }) (curBank_legal hs)).of_view rfl

theorem dbgMtc_legal (n : Nat) (v : W64) : (dbgMtc n v s).Legal l := by
  dsimp only [dbgMtc]
  generalize (if n = 0x30 ∧ fieldN v 4 2 = 5 then (curBank s).pc - 4 else (curBank s).pc) = pc
  have hr := regWrite_legal n v (b := { curBank s with pc := pc }) (curBank_legal hs) hs
  split
  · next b1 s1 h =>
    rw [h] at hr
    exact (setCur_legal hr.2 (b := { b1 with pc := (curBank s).pc }) hr.1).of_view rfl
  · next b1 s1 h =>
    rw [h] at hr
    exact (setCur_legal hr.2 hr.1).of_view rfl
  · next h =>
    rw [h] at hr
    exact hr.2.of_view rfl
  · next h =>
    rw [h] at hr
    exact hr.2.of_view rfl
  · next h =>
    rw [h] at hr
    exact hr.2
  · next h =>
    rw [h] at hr
    exact hr.2

omit hs in
theorem bankItemWrite_legal {b : Bank} (hb : b.Legal l) (n : Nat) (v : W64) : (bankItemWrite n v b).Legal l := by
  unfold bankItemWrite
  split
  · exact hb.wfl (flMask_fl v)
  split
  · exact bankedWrite_legal hb ..
  split <;> exact hb

theorem dbgRegWrite_legal : (dbgRegWrite s).Legal l := by
  dsimp only [dbgRegWrite]
  split
  · have hw := setBank_legal hs s.dbg.cbank (bankItemWrite_legal (hs.banks s.dbg.cbank) s.dbg.item.toNat s.dbg.data)
    split <;> exact hw.of_view rfl
  split
  · exact hs.of_view rfl
  · exact dbgMtc_legal hs ..

theorem execDbgCmdRegWrite_legal : (outState s (execDbgCmdRegWrite s)).Legal l := by
  refine event_legal hs ?_
  unfold dbgReg
  extract_lets d
  split
  · exact hs
  split
  · exact hs.of_view rfl
  split
  · exact hs.of_view rfl
  split
  · exact hs.of_view (wakeRequest_bankView s dCore)
  · exact dbgRegWrite_legal hs

/-! ### Responses of the fabric -/

theorem coreWalkBus_legal (acc : Acc) (va : W64) : (coreWalkBus s acc va).Legal l := by
  dsimp only [coreWalkBus]
  split
  · exact hs
  split
  · exact fetchFaultEntry_legal hs _
  · exact raise_legal _ hs

theorem failCoreWalk_legal (acc : Acc) (va : W64) : (failCoreWalk s acc va).Legal l := by
  have h1 : (endWalks s (fun r => r == .core acc) va).Legal l := hs.of_view (endWalks_bankView ..)
  dsimp only [failCoreWalk]
  split
  · exact h1
  · exact coreWalkBus_legal h1 acc va

theorem failRequest_legal (c : ReqCtx) (pa : BitVec 56) (e : RespErr) : (failRequest s c pa e).Legal l := by
  cases c with
  | core acc va => exact exceptionOf_legal hs _
  | store => exact hs
  | l2 => exact hs.of_view (unbuffer_bankView ..)
  | stream q va w => exact hs.of_view (failQueue_bankView ..)
  | tile t va => exact hs.of_view (failTile_bankView ..)
  | scribe k t va => exact hs.of_view (stopLive_bankView ..)
  | walkCore acc va => exact failCoreWalk_legal hs acc va
  | walkStream q va => exact hs.of_view ((failQueue_bankView ..).trans (endWalks_bankView ..))
  | walkTile t va => exact hs.of_view ((failTile_bankView ..).trans (endWalks_bankView ..))
  | walkScribe k t va => exact hs.of_view ((stopLive_bankView ..).trans (endWalks_bankView ..))
  | mirror => exact hs.of_view (failMirror_bankView s pa)
  | quillDma => exact hs.of_view (dmaFail_bankView ..)

theorem requestFails_legal (p : PortNum) (c : ReqCtx) (pa : BitVec 56) (e : RespErr) (crc : W32) (inj : Bool) :
    (requestFails s p c pa e crc inj).Legal l :=
  failRequest_legal (hs.of_view (portRecord_bankView ..)) c pa e

theorem response_legal (p : PortNum) (tag : BitVec 12) (c : ReqCtx) (pa : BitVec 56) (e : Option RespErr) (crc : W32) (inj : Bool) :
    ((response s p tag c pa e crc inj).getD s).Legal l := by
  unfold response
  split
  · exact hs.of_view (setPort_bankView ..)
  split
  · exact requestFails_legal hs ..
  · exact hs.of_view (answered_bankView s c pa)

theorem execFabricResponse_legal (p : PortNum) (tag : BitVec 12) (c : ReqCtx) (pa : BitVec 56) (resp : BitVec 4) (crc : W32) (crcOk poison : Bool) :
    (outState s (execFabricResponse p tag c pa resp crc crcOk poison s)).Legal l := by
  refine event_legal hs ?_
  split
  · have hr := response_legal (hs.of_view (disarm_bankView s)) p tag c pa (respErr resp false poison) (crc ^^^ 1) true
    cases h : response (disarm s) p tag c pa (respErr resp false poison) (crc ^^^ 1) true with
    | none => exact hs
    | some s1 => rw [h] at hr; exact hr
  · exact response_legal hs ..

theorem execFabricTimeout_legal (p : PortNum) (tag : BitVec 12) (c : ReqCtx) (pa : BitVec 56) :
    (outState s (execFabricTimeout p tag c pa s)).Legal l := by
  refine event_legal hs ?_
  split
  · exact hs
  · exact requestFails_legal (hs.of_view (setPort_bankView ..)) p c pa .timeout 0 false

/-! ### The commands -/

/-- Every command keeps a law of FL and SSP: by the command. -/
theorem exec_legal (i : Instr) : (outState s (exec i s)).Legal l := by
  cases i with
  | add | sub | and | or | xor | andn | shl | shr | sar | ror | mul | mulh | mulhu | min | max =>
    exact issue_legal _ hs (.of_views (fun _ _ _ => aluBody_bankView ..) aluBody_bankLegal)
  | cmp => exact issue_legal _ hs (.of_views (fun _ _ _ => cmpBody_bankView ..) cmpBody_bankLegal)
  | div | divu | rem | remu => exact issue_legal _ hs (.of_views (fun _ _ _ => divBody_bankView ..) divBody_bankLegal)
  | clz | popc => exact issue_legal _ hs (.of_views (fun _ _ _ => countBody_bankView ..) countBody_bankLegal)
  | longOpResult => exact execLongOpResult_legal hs ..
  | imz => exact issue_legal _ hs (.of_views (fun _ _ _ => imzBody_bankView ..) imzBody_bankLegal)
  | imi => exact issue_legal _ hs (.of_views (fun _ _ _ => imiBody_bankView ..) imiBody_bankLegal)
  | load => exact execLoad_legal hs ..
  | store => exact execStore_legal hs ..
  | lda => exact issue_legal _ hs (.of_views (fun _ _ _ => ldaBody_bankView ..) ldaBody_bankLegal)
  | stl => exact issue_legal _ hs (.of_views (fun _ _ _ => stlBody_bankView ..) stlBody_bankLegal)
  | cas => exact issue_legal _ hs (.of_views (fun _ _ _ => casBody_bankView ..) casBody_bankLegal)
  | aadd => exact issue_legal _ hs (.of_views (fun _ _ _ => aaddBody_bankView ..) aaddBody_bankLegal)
  | fence => exact issue_legal _ hs (.of_views (fun _ _ _ => fenceBody_bankView ..) fenceBody_bankLegal)
  | fenceRetire => exact execFenceRetire_legal hs ..
  | tlbiAll | tlbiAsid | tlbiVa | tlbiVaall => exact issue_legal _ hs (.of_views (fun _ _ _ => tlbiBody_bankView ..) tlbiBody_bankLegal)
  | b => exact issue_legal _ hs (.of_views (fun _ _ _ => bBody_bankView ..) bBody_bankLegal)
  | bCond => exact issue_legal _ hs (.of_views (fun _ _ _ => bCondBody_bankView ..) bCondBody_bankLegal)
  | br => exact issue_legal _ hs (.of_views (fun _ _ _ => brBody_bankView ..) brBody_bankLegal)
  | call => exact issue_legal _ hs (.of_views (fun _ _ _ => callBody_bankView ..) callBody_bankLegal)
  | callr => exact issue_legal _ hs (.of_views (fun _ _ _ => callrBody_bankView ..) callrBody_bankLegal)
  | ret => exact issue_legal _ hs (.of_views (fun _ _ _ => retBody_bankView ..) retBody_bankLegal)
  | callg => exact issue_legal _ hs (.of_views (fun _ _ _ => callgBody_bankView ..) callgBody_bankLegal)
  | retg => exact issue_legal _ hs (.of_views (fun _ _ _ => retgBody_bankView ..) retgBody_bankLegal)
  | sysc => exact issue_legal _ hs (.of_views (fun _ _ _ => syscBody_bankView ..) syscBody_bankLegal)
  | sysr => exact issue_legal _ hs (ringGate_legal (.of_views (fun _ _ _ => sysrBody_bankView ..) sysrBody_bankLegal))
  | retx => exact issue_legal _ hs (ringGate_legal (.of_views (fun _ _ _ => retxBody_bankView ..) retxBody_bankLegal))
  | retxC => exact issue_legal _ hs (ringGate_legal (.of_views (fun _ _ _ => retxCBody_bankView ..) retxCBody_bankLegal))
  | holdend => exact issue_legal _ hs (.of_views (fun _ _ _ => holdendBody_bankView ..) holdendBody_bankLegal)
  | sspush => exact issue_legal _ hs (ringGate_legal (.of_views (fun _ _ _ => sspushBody_bankView ..) sspushBody_bankLegal))
  | sspinc => exact issue_legal _ hs (.of_views (fun _ _ _ => sspincBody_bankView ..) sspincBody_bankLegal)
  | waiti => exact issue_legal _ hs (ringGate_legal (.of_views (fun _ _ _ => waitiBody_bankView ..) waitiBody_bankLegal))
  | mfc => exact issue_legal _ hs (.of_views (fun _ _ _ => mfcBody_bankView ..) mfcBody_bankLegal)
  | mtc => exact issue_legal _ hs mtcBody_legal
  | mfb => exact issue_legal _ hs (.of_views (fun _ _ _ => mfbBody_bankView ..) mfbBody_bankLegal)
  | mtb => exact issue_legal _ hs mtbBody_legal
  | svm | ldm => exact issue_legal _ hs svmBody_legal
  | svh => exact issue_legal _ hs svhBody_legal
  | ldh => exact issue_legal _ hs ldhBody_legal
  | plyc => exact issue_legal _ hs plycBody_legal
  | tally => exact issue_legal _ hs (.of_views (fun _ _ _ => tallyBody_bankView ..) tallyBody_bankLegal)
  | rep => exact execRep_legal hs ..
  | repn => exact issue_legal _ hs (.of_views (fun _ _ _ => repnBody_bankView ..) repnBody_bankLegal)
  | tcfgImm => exact tileInstr_legal hs (.of_views (fun _ _ _ => tcfgBody_bankView ..) tcfgBody_bankLegal)
  | tcfgReg => exact tileInstr_legal hs (.of_views (fun _ _ _ => tcfgRegBody_bankView ..) tcfgRegBody_bankLegal)
  | tcfgRead => exact execTcfgRead_legal hs ..
  | tld => exact execTld_legal hs ..
  | tst => exact execTst_legal hs ..
  | tzero | trel => exact tileInstr_legal hs (.of_views (fun _ _ _ => tclearBody_bankView ..) tclearBody_bankLegal)
  | tmov => exact tileInstr_legal hs (.of_views (fun _ _ _ => tmovBody_bankView ..) tmovBody_bankLegal)
  | trdy | trdyW => exact tileInstr_legal hs (.of_views (fun _ _ _ => trdyBody_bankView ..) trdyBody_bankLegal)
  | tresume => exact execTresume_legal hs ..
  | tileOpAccept => exact execTileOpAccept_legal hs ..
  | heldOpRelease => exact hs.of_view (execHeldOpRelease_bankView ..)
  | tldRowComplete => exact hs.of_view (execTldRowComplete_bankView ..)
  | tldComplete => exact hs.of_view (execTldComplete_bankView ..)
  | tstComplete => exact hs.of_view (execTstComplete_bankView ..)
  | tileTransferFault => exact hs.of_view (execTileTransferFault_bankView ..)
  | tzeroPerformed => exact hs.of_view (execTzeroPerformed_bankView ..)
  | trelPerformed => exact hs.of_view (execTrelPerformed_bankView ..)
  | tmovComplete => exact hs.of_view (execTmovComplete_bankView ..)
  | bplane => exact execBplane_legal hs ..
  | bplaneLoadStart => exact hs.of_view (execBplaneLoadStart_bankView ..)
  | bplaneComplete => exact hs.of_view (execBplaneComplete_bankView ..)
  | bswap => exact execBswap_legal hs
  | swapTokenEntry => exact hs.of_view (execSwapTokenEntry_bankView ..)
  | bswapComplete => exact hs.of_view (execBswapComplete_bankView ..)
  | planeRelease => exact hs.of_view (execPlaneRelease_bankView ..)
  | brun => exact execBrun_legal hs ..
  | aRowEntry => exact hs.of_view (execARowEntry_bankView ..)
  | resultRowCombine => exact hs.of_view (execResultRowCombine_bankView ..)
  | throttleWindowBoundary => exact hs.of_view (execThrottleWindowBoundary_bankView ..)
  | spareRemapApply => exact hs.of_view (execSpareRemapApply_bankView ..)
  | bmode => exact issue_legal _ hs (.of_views (fun _ _ _ => bmodeBody_bankView ..) bmodeBody_bankLegal)
  | iclr => exact execIclr_legal hs ..
  | iclrComplete => exact hs.of_view (execIclrComplete_bankView ..)
  | idrainTile => exact execIdrainTile_legal hs ..
  | idrainTileComplete => exact hs.of_view (execIdrainTileComplete_bankView ..)
  | idrainVector => exact boardInstr_legal hs (vecGate_legal (.of_views (fun _ _ _ => idrainVectorBody_bankView ..) idrainVectorBody_bankLegal))
  | idrainMemory => exact execIdrainMemory_legal hs ..
  | idrainMemoryComplete => exact hs.of_view (execIdrainMemoryComplete_bankView ..)
  | inkwellZeroingComplete => exact hs.of_view (execInkwellZeroingComplete_bankView ..)
  | smove => exact execSmove_legal hs ..
  | streamDescriptorRead => exact hs.of_view (execStreamDescriptorRead_bankView ..)
  | streamOpStart => exact hs.of_view (execStreamOpStart_bankView ..)
  | streamRequestComplete => exact hs.of_view (execStreamRequestComplete_bankView ..)
  | streamFault => exact hs.of_view (execStreamFault_bankView ..)
  | smoveComplete => exact hs.of_view (execSmoveComplete_bankView ..)
  | sqstat => exact execSqstat_legal hs ..
  | sqwait => exact execSqwait_legal hs ..
  | sqctlClear | sqctlRestart | sqctlRestartAt | sqctlAbandon =>
    exact streamInstr_legal hs (.of_views (fun _ _ _ => sqctlBody_bankView ..) sqctlBody_bankLegal)
  | slaunch => exact execSlaunch_legal hs ..
  | descriptorDispatch => exact hs.of_view (execDescriptorDispatch_bankView ..)
  | threadStart => exact hs.of_view (execThreadStart_bankView ..)
  | threadIssue => exact hs.of_view (execThreadIssue_bankView ..)
  | scribeDescriptorPost => exact hs.of_view (execScribeDescriptorPost_bankView ..)
  | scribeFault => exact hs.of_view (execScribeFault_bankView ..)
  | scribeLimitExpiry => exact hs.of_view (execScribeLimitExpiry_bankView ..)
  | scrfltRecvClear | swctlAbort | ruledEnter | ruledExit | bankAlloc | bankFree | bankPark | bankReady | bankSwitch | bankClrev | bankReturn
    | talsrcClr | talsrcReconfig | mirctlEnSet | mirctlEnClear | l2wayctlWrite | rstctlWarm | isetWrite | errinjArm =>
    exact issue_legal _ hs mtcValue_legal
  | vadd | vsub | vmul | vmin | vmax | vminu | vmaxu | vand | vor | vxor | vshl | vshr | vsar =>
    exact vecInstr_legal hs (.of_views (fun _ _ _ => vintBody_bankView ..) vintBody_bankLegal)
  | vfadd | vfsub | vfmul | vfdiv | vfsqrt | vfmin | vfmax | vfma | vfnma =>
    exact vecInstr_legal hs (.of_views (fun _ _ _ => vfpBody_bankView ..) vfpBody_bankLegal)
  | vcmpeq | vcmplt | vcmpltu => exact vecInstr_legal hs (.of_views (fun _ _ _ => vcmpBody_bankView ..) vcmpBody_bankLegal)
  | vfcmpeq | vfcmplt | vfcmple => exact vecInstr_legal hs (.of_views (fun _ _ _ => vfcmpBody_bankView ..) vfcmpBody_bankLegal)
  | vrsum | vrmax | vrmin => exact vecInstr_legal hs (.of_views (fun _ _ _ => vredBody_bankView ..) vredBody_bankLegal)
  | vradd => exact vecInstr_legal hs (.of_views (fun _ _ _ => vraddBody_bankView ..) vraddBody_bankLegal)
  | vcvt => exact vecInstr_legal hs (.of_views (fun _ _ _ => vcvtBody_bankView ..) vcvtBody_bankLegal)
  | vload => exact execVload_legal hs ..
  | vstore => exact execVstore_legal hs ..
  | vtrd | vtrdS => exact tileInstr_legal hs (vecGate_legal (.of_views (fun _ _ _ => vtrdBody_bankView ..) vtrdBody_bankLegal))
  | vtwr | vtwrS => exact tileInstr_legal hs (vecGate_legal (.of_views (fun _ _ _ => vtwrBody_bankView ..) vtwrBody_bankLegal))
  | vext => exact vecInstr_legal hs (.of_views (fun _ _ _ => vextBody_bankView ..) vextBody_bankLegal)
  | vins => exact vecInstr_legal hs (.of_views (fun _ _ _ => vinsBody_bankView ..) vinsBody_bankLegal)
  | vsplat => exact vecInstr_legal hs (.of_views (fun _ _ _ => vsplatBody_bankView ..) vsplatBody_bankLegal)
  | mand | mor | mxor | mnot | mset => exact vecInstr_legal hs (.of_views (fun _ _ _ => maskBody_bankView ..) maskBody_bankLegal)
  | mcnt => exact vecInstr_legal hs (.of_views (fun _ _ _ => mcntBody_bankView ..) mcntBody_bankLegal)
  | schedSwitch => exact execSchedSwitch_legal hs ..
  | tnrBankReady => exact execTnrBankReady_legal hs ..
  | tallySample => exact hs.of_view (execTallySample_bankView ..)
  | tallyFold => exact hs.of_view (execTallyFold_bankView ..)
  | tallyPendClear => exact hs.of_view (execTallyPendClear_bankView ..)
  | mirrorGranuleRead => exact hs.of_view (execMirrorGranuleRead_bankView ..)
  | mirrorHeldWrite => exact hs.of_view (execMirrorHeldWrite_bankView ..)
  | partnerAck => exact hs.of_view (execPartnerAck_bankView ..)
  | partnerNack => exact hs.of_view (execPartnerNack_bankView ..)
  | partnerCredit => exact hs.of_view (execPartnerCredit_bankView ..)
  | mirrorCommitAbandon => exact hs.of_view (execMirrorCommitAbandon_bankView ..)
  | partnerGranuleReceive => exact hs.of_view (execPartnerGranuleReceive_bankView ..)
  | partnerRecordReceive => exact hs.of_view (execPartnerRecordReceive_bankView ..)
  | partnerWriteVisible => exact hs.of_view (execPartnerWriteVisible_bankView ..)
  | partnerFreq => exact hs.of_view (execPartnerFreq_bankView ..)
  | fetchGranuleReceive => exact hs.of_view (execFetchGranuleReceive_bankView ..)
  | partnerFend => exact hs.of_view (execPartnerFend_bankView ..)
  | ppLinkUpRise => exact hs.of_view (execPpLinkUpRise_bankView ..)
  | ppLinkUpFall => exact hs.of_view (execPpLinkUpFall_bankView ..)
  | mirrorTmoExpiry => exact hs.of_view (execMirrorTmoExpiry_bankView ..)
  | l2GroupOffComplete => exact hs.of_view (execL2GroupOffComplete_bankView ..)
  | l2GroupOnComplete => exact hs.of_view (execL2GroupOnComplete_bankView ..)
  | registerWrite => exact hs.of_view (execRegisterWrite_bankView ..)
  | tickLoRead => exact hs.of_view (execTickLoRead_bankView ..)
  | l1iMissFill => exact hs.of_view (execL1iMissFill_bankView ..)
  | l1dMissFill => exact hs.of_view (execL1dMissFill_bankView ..)
  | prefetchFill => exact hs.of_view (execPrefetchFill_bankView ..)
  | storeBufferDrain => exact hs.of_view (execStoreBufferDrain_bankView ..)
  | pageWalk => exact hs.of_view (execPageWalk_bankView ..)
  | walkDescriptorReturn => exact hs.of_view (execWalkDescriptorReturn_bankView ..)
  | exceptionEntry => exact execExceptionEntry_legal hs ..
  | interruptEntry => exact execInterruptEntry_legal hs ..
  | criticalEntry => exact execCriticalEntry_legal hs ..
  | entryTakeover => exact execEntryTakeover_legal hs ..
  | doubleFault => exact execDoubleFault_legal hs ..
  | holdWindowOverrun => exact hs.of_view (execHoldWindowOverrun_bankView ..)
  | retireWatchdogExpiry => exact hs.of_view (execRetireWatchdogExpiry_bankView ..)
  | watchdogHandlerTimeout => exact hs.of_view (execWatchdogHandlerTimeout_bankView ..)
  | progressMonitorExpiry => exact hs.of_view (execProgressMonitorExpiry_bankView ..)
  | fabricTimeout => exact execFabricTimeout_legal hs ..
  | vellumScrubStep => exact hs.of_view (execVellumScrubStep_bankView ..)
  | l2ScrubStep => exact hs.of_view (execL2ScrubStep_bankView ..)
  | scrubCreditGain => exact hs.of_view (execScrubCreditGain_bankView ..)
  | tileInkScrubRow => exact hs.of_view (execTileInkScrubRow_bankView ..)
  | quillSramScrubStep => exact hs.of_view (execQuillSramScrubStep_bankView ..)
  | errorRecordPost => exact hs.of_view (execErrorRecordPost_bankView ..)
  | errPtrRdWrite => exact hs.of_view (execErrPtrRdWrite_bankView ..)
  | errOvfClear => exact hs.of_view (execErrOvfClear_bankView ..)
  | errLinesFatalClear => exact hs.of_view (execErrLinesFatalClear_bankView ..)
  | cfgLockSet => exact hs.of_view (execCfgLockSet_bankView ..)
  | mbxOwnHqSet => exact hs.of_view (execMbxOwnHqSet_bankView ..)
  | mbxOwnQhClear => exact hs.of_view (execMbxOwnQhClear_bankView ..)
  | mailboxServe => exact hs.of_view (execMailboxServe_bankView ..)
  | mailboxNotreadyReply => exact hs.of_view (execMailboxNotreadyReply_bankView ..)
  | hello => exact hs.of_view (opRow_bankView _ _ s helloCmd_bankView)
  | configSet => exact hs.of_view (opRow_bankView _ _ s configSetCmd_bankView)
  | configGet => exact hs.of_view (opRow_bankView _ _ s configGetCmd_bankView)
  | powerSetOn => exact hs.of_view (execPowerSetOn_bankView ..)
  | powerSetOff => exact hs.of_view (execPowerSetOff_bankView ..)
  | powerSetRetain => exact hs.of_view (execPowerSetRetain_bankView ..)
  | boardRetainTimeout => exact hs.of_view (execBoardRetainTimeout_bankView ..)
  | powerGet => exact hs.of_view (opRow_bankView _ _ s powerGetCmd_bankView)
  | throttleSet => exact hs.of_view (opRow_bankView _ _ s throttleSetCmd_bankView)
  | errlogRead => exact hs.of_view (opRow_bankView _ _ s errlogReadCmd_bankView)
  | errlogClear => exact hs.of_view (opRow_bankView _ _ s errlogClearCmd_bankView)
  | scrubSetInterval => exact hs.of_view (execScrubSetInterval_bankView ..)
  | scrubResetInterval => exact hs.of_view (execScrubResetInterval_bankView ..)
  | scrubPass => exact hs.of_view (execScrubPass_bankView ..)
  | scrubPassComplete => exact hs.of_view (execScrubPassComplete_bankView ..)
  | fileSpare => exact hs.of_view (opRow_bankView _ _ s fileSpareCmd_bankView)
  | journalRead => exact hs.of_view (opRow_bankView _ _ s journalReadCmd_bankView)
  | tallyCfg => exact hs.of_view (opRow_bankView _ _ s tallyCfgCmd_bankView)
  | tallyRead => exact hs.of_view (execTallyRead_bankView ..)
  | mirrorCfg => exact hs.of_view (opRow_bankView _ _ s mirrorCfgCmd_bankView)
  | mirrorFetchMirror => exact hs.of_view (execMirrorFetchMirror_bankView ..)
  | mirrorFetchPrimary => exact hs.of_view (execMirrorFetchPrimary_bankView ..)
  | mirrorVerify => exact hs.of_view (opRow_bankView _ _ s mirrorVerifyCmd_bankView)
  | mirrorStatus => exact hs.of_view (opRow_bankView _ _ s mirrorStatusCmd_bankView)
  | updBegin => exact hs.of_view (opRow_bankView _ _ s updBeginCmd_bankView)
  | updChunk => exact hs.of_view (execUpdChunk_bankView ..)
  | updChunkAll => exact hs.of_view (execUpdChunkAll_bankView ..)
  | updStatus => exact hs.of_view (opRow_bankView _ _ s updStatusCmd_bankView)
  | updActivate => exact hs.of_view (execUpdActivate_bankView ..)
  | handoverCommit => exact hs.of_view (execHandoverCommit_bankView ..)
  | handoverTimeout => exact hs.of_view (execHandoverTimeout_bankView ..)
  | updateBanksReleased => exact hs.of_view (execUpdateBanksReleased_bankView ..)
  | updAbort => exact hs.of_view (opRow_bankView _ _ s updAbortCmd_bankView)
  | unitResetWarm => exact hs.of_view (execUnitResetWarm_bankView ..)
  | unitResetDomain => exact hs.of_view (execUnitResetDomain_bankView ..)
  | unitResetQuill => exact hs.of_view (execUnitResetQuill_bankView ..)
  | errorManagerConsume => exact hs.of_view (execErrorManagerConsume_bankView ..)
  | componentRestart => exact hs.of_view (execComponentRestart_bankView ..)
  | quillWatchdogKick => exact hs.of_view (execQuillWatchdogKick_bankView ..)
  | quillWatchdogExpiry => exact hs.of_view (execQuillWatchdogExpiry_bankView ..)
  | quillRestart => exact hs.of_view (execQuillRestart_bankView ..)
  | quillStartComplete => exact hs.of_view (execQuillStartComplete_bankView ..)
  | quillStartFail => exact hs.of_view (execQuillStartFail_bankView ..)
  | rcountClear => exact hs.of_view (execRcountClear_bankView ..)
  | idleThresholdExpiry => exact hs.of_view (execIdleThresholdExpiry_bankView ..)
  | domainWakeRequest => exact hs.of_view (execDomainWakeRequest_bankView ..)
  | fclkAckChange => exact hs.of_view (execFclkAckChange_bankView ..)
  | pwrAckChange => exact hs.of_view (execPwrAckChange_bankView ..)
  | domainWakeComplete => exact execDomainWakeComplete_legal hs ..
  | vellumZeroingComplete => exact hs.of_view (execVellumZeroingComplete_bankView ..)
  | probeShr => exact hs.of_view (execProbeShr_bankView ..)
  | probeOwn => exact hs.of_view (execProbeOwn_bankView ..)
  | probeKill => exact hs.of_view (execProbeKill_bankView ..)
  | tlbiMsg => exact hs.of_view (execTlbiMsg_bankView ..)
  | tlbiAck => exact hs.of_view (execTlbiAck_bankView ..)
  | intMsg => exact hs.of_view (execIntMsg_bankView ..)
  | targetRequest => exact hs.of_view (execTargetRequest_bankView ..)
  | mgmtAliasAccess => exact hs.of_view (execMgmtAliasAccess_bankView ..)
  | fabricResponse => exact execFabricResponse_legal hs ..
  | ordDone => exact hs.of_view (execOrdDone_bankView ..)
  | tlbiDone => exact hs.of_view (execTlbiDone_bankView ..)
  | oreqCredit => exact hs.of_view (execOreqCredit_bankView ..)
  | fabricPortUp => exact hs.of_view (execFabricPortUp_bankView ..)
  | intInChange => exact hs.of_view (execIntInChange_bankView ..)
  | rstColdAssert => exact execRstColdAssert_legal
  | rstColdRelease => exact hs.of_view (execRstColdRelease_bankView ..)
  | coldClearComplete => exact hs.of_view (execColdClearComplete_bankView ..)
  | rstWarmRise => exact hs.of_view (execRstWarmRise_bankView ..)
  | warmReset => exact execWarmReset_legal hs ..
  | warmResetComplete => exact hs.of_view (execWarmResetComplete_bankView ..)
  | dbgHaltreq => exact hs.of_view (execDbgHaltreq_bankView ..)
  | dbgHalt => exact hs.of_view (execDbgHalt_bankView ..)
  | breakpointHalt => exact hs.of_view (execBreakpointHalt_bankView ..)
  | dbgResume => exact execDbgResume_legal hs ..
  | stepHalt => exact hs.of_view (execStepHalt_bankView ..)
  | dbgCmdRegRead => exact hs.of_view (execDbgCmdRegRead_bankView ..)
  | dbgCmdRegWrite => exact execDbgCmdRegWrite_legal hs ..
  | dbgCmdMemRead => exact hs.of_view (execDbgCmdMemRead_bankView ..)
  | dbgCmdMemWrite => exact hs.of_view (execDbgCmdMemWrite_bankView ..)
  | dbgCmdDone => exact hs.of_view (execDbgCmdDone_bankView ..)
  | wrstnReset => exact hs.of_view (execWrstnReset_bankView ..)
  | wsBypass => exact hs.of_view (execWsBypass_bankView ..)
  | wsExtest => exact hs.of_view (execWsExtest_bankView ..)
  | wsIntestScan => exact hs.of_view (execWsIntestScan_bankView ..)
  | wsSafe => exact hs.of_view (execWsSafe_bankView ..)
  | wsPreload => exact hs.of_view (execWsPreload_bankView ..)
  | cwNet => exact hs.of_view (execCwNet_bankView ..)
  | instrumentStart => exact hs.of_view (execInstrumentStart_bankView ..)
  | instrumentComplete => exact hs.of_view (execInstrumentComplete_bankView ..)
  | rstWarmFall => exact hs.of_view (execRstWarmFall_bankView ..)
  | fppUpFall => exact hs.of_view (execFppUpFall_bankView ..)
  | updChunkAllComplete => exact hs.of_view (execUpdChunkAllComplete_bankView ..)

end

theorem step_legal {s t : State} (hs : s.Legal l) (h : step s = .next t) : t.Legal l := by
  cases hq : s.pending with
  | nil =>
    rw [step_nil hq] at h
    cases h
    exact hs.of_view (idleTick_bankView s)
  | cons c cs =>
    rw [step_cons hq] at h
    have hc := exec_legal (hs.of_view rfl : State.Legal l { s with pending := cs }) c
    rw [h] at hc
    exact hc

end

/-- Settles O5: every value that a command writes to FL is within the fields that exist, every value written to SSP is aligned, and the FL that an
entry puts back was legal when it was put aside. -/
theorem stepKeepsBankFieldsLegal : Obligations.StepKeepsBankFieldsLegal := by
  unfold Obligations.StepKeepsBankFieldsLegal
  exact ⟨fun s t hs h => (flagsLegal_iff t).2 (step_legal ((flagsLegal_iff s).1 hs) h),
    fun s t hs h => (shadowStacksAligned_iff t).2 (step_legal ((shadowStacksAligned_iff s).1 hs) h)⟩

end Sys2Proof.Machine


namespace Sys2Proof.Machine

/-! SUPPORT. The frame of the tile instructions, and TCFG (R28, R65, R67, R70, R73, R83, R84). -/

/-! ### The frame -/

/-- An instruction of the tile group comes to the result of its body once TILE is up (R28). -/
theorem exec_tile {i : Instr} {body : Body} {s : State} (he : exec i s = issue i (domGate dTile i body) s) (hr : TileReady i s) :
    exec i s = .next (settle i (curBank s) (body .core (curBank s) s)) :=
  exec_result he hr.1 (by simp only [domGate, hr.2])

theorem exec_tile_ok {i : Instr} {body : Body} {s t : State} {b' : Bank} (he : exec i s = issue i (domGate dTile i body) s) (hr : TileReady i s)
    (hb : body .core (curBank s) s = .ok b' t) :
    exec i s = .next (after t { b' with pc := (curBank s).pc + BitVec.ofNat 64 (instrBytes i) }) := by
  rw [exec_tile he hr, hb, settle_ok]

theorem exec_tile_wait {i : Instr} {body : Body} {s t : State} (he : exec i s = issue i (domGate dTile i body) s) (hr : TileReady i s)
    (hb : body .core (curBank s) s = .wait t) : exec i s = .next { t with stall := some i } := by
  rw [exec_tile he hr, hb, settle_wait]

theorem exec_tile_fault {i : Instr} {body : Body} {s : State} {e : Exc} (he : exec i s = issue i (domGate dTile i body) s) (hr : TileReady i s)
    (hb : body .core (curBank s) s = .exc e (curBank s) s) (hw : e.code ≠ waitCode) : exec i s = .next (raise e s) := by
  rw [exec_tile he hr, hb, settle_exc hw, setCur_curBank]

/-- The first of some checks that fails (R70, R83). -/
def firstFault (l : State → List (Option Exc)) (s : State) : Option Exc := (l s).findSome? id

/-- A check that fails is raised with nothing changed (R70, R83). -/
theorem checked_fails {l : State → List (Option Exc)} {body : Body} {k : Who} {b : Bank} {s : State} {e : Exc} (h : firstFault l s = some e) :
    checked l body k b s = .exc e b s := by
  rw [firstFault] at h
  simp only [checked, h]

theorem checked_passes {l : State → List (Option Exc)} {body : Body} {k : Who} {b : Bank} {s : State} (h : firstFault l s = none) :
    checked l body k b s = body k b s := by
  rw [firstFault] at h
  simp only [checked, h]

/-! ### Sparse arrays with entries dropped or changed -/

theorem spGet_keep_from {α : Type} [DecidableEq α] {d : α} (p : Nat → Bool) (k : Nat) : ∀ {m : Sparse α} {lo : Nat},
    spWfFrom d lo m = true → spGet d (spKeep p m) k = if p k then spGet d m k else d
  | [], _, _ => (ite_self d).symm
  | (j, v) :: m, lo, hm => by
    simp only [spWfFrom, Bool.and_eq_true, decide_eq_true_eq] at hm
    have ih := spGet_keep_from p k hm.2
    have hb {x : Nat} (hx : x < j + 1) : spGet d (spKeep p m) x = d := spGet_below hx (spKeep_wfFrom p hm.2)
    rw [spKeep] at ih hb
    rw [spKeep, List.filter_cons]
    by_cases hkj : k = j
    · subst hkj
      cases hp : p k
      · rw [if_neg (by simp), if_neg (by simp), hb (Nat.lt_succ_self _)]
      · simp [spGet]
    · by_cases hlt : k < j
      · split
        · simp [spGet, hkj, hlt]
        · rw [hb (by omega)]
          simp [spGet, hkj, hlt]
      · split <;> simp [spGet, hkj, hlt, ih]

/-- Entries dropped read as unlisted ones. -/
theorem spGet_keep {α : Type} [DecidableEq α] {d : α} {m : Sparse α} (h : spWf d m = true) (p : Nat → Bool) (k : Nat) :
    spGet d (spKeep p m) k = if p k then spGet d m k else d := spGet_keep_from p k h

theorem spGet_map_from {α : Type} [DecidableEq α] {d : α} {f : Nat → α → α} {k : Nat} (hf : f k d = d) : ∀ {m : Sparse α} {lo : Nat},
    spWfFrom d lo m = true → spGet d (spMap d f m) k = f k (spGet d m k)
  | [], _, _ => hf.symm
  | (j, v) :: m, lo, hm => by
    simp only [spWfFrom, Bool.and_eq_true, decide_eq_true_eq] at hm
    have ih := spGet_map_from hf hm.2
    have hb {x : Nat} (hx : x < j + 1) : spGet d (spMap d f m) x = d := spGet_below hx (spMap_wfFrom f hm.2)
    rw [spMap] at ih hb
    rw [spMap, List.map_cons, List.filter_cons]
    by_cases hkj : k = j
    · subst hkj
      by_cases hv : f k v = d
      · rw [if_neg (by simp [hv]), hb (Nat.lt_succ_self _)]
        simp [spGet, hv]
      · simp [spGet, hv]
    · by_cases hlt : k < j
      · split
        · simp [spGet, hkj, hlt, hf]
        · rw [hb (by omega)]
          simp [spGet, hkj, hlt, hf]
      · split <;> simp [spGet, hkj, hlt, ih]

/-- A change that leaves the value of unlisted entries applies to what each entry reads as. -/
theorem spGet_map {α : Type} [DecidableEq α] {d : α} {m : Sparse α} (h : spWf d m = true) {f : Nat → α → α} {k : Nat} (hf : f k d = d) :
    spGet d (spMap d f m) k = f k (spGet d m k) := spGet_map_from hf h

/-! ### A tile under a new descriptor -/

/-- The low bytes of a sidecar row of ones are ones. -/
theorem keepScales_ones (n : Nat) : keepScales n scaleOnes = scaleOnes := by
  unfold keepScales
  split
  · rfl
  · refine BitVec.eq_of_getLsbD_eq fun i hi => ?_
    have h := bit_setField scaleOnes (8 * n - 1) 0 scaleOnes.toNat i
    rw [bit, bit] at h
    rw [h]
    split <;> rfl

/-- The rows of a tile under a new descriptor: the bytes inside both shapes (R67). -/
theorem tileRow_reshape {x : Tile} (hc : spWf 0 x.rows = true) (r : BitVec 10) (rb e : BitVec 4) (mx : Bool) (row : Nat) :
    tileRow (reshape x r rb e mx) row =
      if row < r.toNat + 1 then BitVec.ofNat 8192 ((tileRow x row).toNat % 2 ^ (8 * (64 * (rb.toNat + 1)))) else 0 := by
  have hz (n : Nat) : BitVec.ofNat 8192 ((0 : RowWord).toNat % n) = 0 := by simp
  have h := spGet_map (spKeep_wfFrom (fun j => decide (j < r.toNat + 1)) hc) (k := row)
    (f := fun _ d => BitVec.ofNat 8192 (d.toNat % 2 ^ (8 * (64 * (rb.toNat + 1))))) (hz _)
  refine h.trans ?_
  rw [spGet_keep hc]
  by_cases hr : row < r.toNat + 1 <;> simp [hr, tileRow]

/-- The scales of a tile under a new descriptor: those inside both sidecars (R67). -/
theorem tileScale_reshape {x : Tile} (hc : spWf scaleOnes x.scales = true) (r : BitVec 10) (rb e : BitVec 4) (mx : Bool) (row : Nat) :
    tileScale (reshape x r rb e mx) row =
      if mx = true ∧ x.mx = true ∧ row < r.toNat + 1 then keepScales (tileScales (reshape x r rb e mx)) (tileScale x row) else scaleOnes := by
  by_cases hm : x.mx = true ∧ mx = true
  · have hs : (reshape x r rb e mx).scales =
        spMap scaleOnes (fun _ d => keepScales (tileScales (reshape x r rb e mx)) d) (spKeep (· < r.toNat + 1) x.scales) :=
      if_pos (by simp [hm])
    have hg := spGet_map (spKeep_wfFrom (fun j => decide (j < r.toNat + 1)) hc) (k := row)
      (f := fun _ d => keepScales (tileScales (reshape x r rb e mx)) d) (keepScales_ones _)
    rw [tileScale, hs]
    refine hg.trans ?_
    rw [spGet_keep hc]
    by_cases hr : row < r.toNat + 1 <;> simp [hr, hm, tileScale, keepScales_ones]
  · have hs : (reshape x r rb e mx).scales = [] := if_neg (by simpa using hm)
    rw [tileScale, hs, if_neg fun h => hm ⟨h.2.1, h.1⟩]
    rfl

/-! ### TCFG -/

/-- What both write forms of TCFG do to the state (R67, R73). -/
def configured (s : State) (k : TReg) (r : BitVec 10) (rb e : BitVec 4) (mx : Bool) : State :=
  nibDrop (setDirty (setTile s k (reshape s.tiles[k] r rb e mx)) k) k fun _ => true

@[simp] theorem configured_tile (s : State) (k : TReg) (r : BitVec 10) (rb e : BitVec 4) (mx : Bool) :
    (configured s k r rb e mx).tiles[k] = reshape s.tiles[k] r rb e mx := setTile_same ..

theorem configured_frame (s : State) (k : TReg) (r : BitVec 10) (rb e : BitVec 4) (mx : Bool) :
    tileOnly s (configured s k r rb e mx) ∧ otherTilesKept s (configured s k r rb e mx) k ∧ (configured s k r rb e mx).ops = s.ops :=
  ⟨rfl, fun _ hj => setTile_other s _ hj, rfl⟩

theorem setBit_true_eq_or (x : BitVec 16) (k : TReg) : setBit x k.val true = x ||| BitVec.ofNat 16 (1 <<< k.val) := by
  refine BitVec.eq_of_getLsbD_eq fun i hi => ?_
  have h := bit_setBit x k.val i true
  rw [bit, bit] at h
  have hone : (BitVec.ofNat 16 (1 <<< k.val)).getLsbD i = decide (k.val = i) := by
    rw [BitVec.getLsbD_ofNat, Nat.one_shiftLeft, Nat.testBit_two_pow, decide_eq_true hi, Bool.true_and]
  rw [h, BitVec.getLsbD_or]
  by_cases hk : i = k.val
  · rw [if_pos ⟨hk, hi⟩, hone, decide_eq_true hk.symm, Bool.or_true]
  · rw [if_neg fun h => hk h.1, hone, decide_eq_false (Ne.symm hk), Bool.or_false]

/-- The checks of the write forms: the owner, then the type table (R65, R73, R83, R84). -/
def cfgChecks (k : TReg) (r : BitVec 10) (rb e : BitVec 4) (mx : Bool) (s : State) : List (Option Exc) :=
  [ownFault s k, (descFault s.var r.toNat rb.toNat e mx).map fun sub => shapeExc sub k]

theorem cfgChecks_foreign {s : State} {k : TReg} (r : BitVec 10) (rb e : BitVec 4) (mx : Bool) (h : ¬ tileOwned s k) :
    firstFault (cfgChecks k r rb e mx) s = some (notReady 2 k) := by
  simp [firstFault, cfgChecks, ownFault_foreign h]

theorem cfgChecks_owned {s : State} {k : TReg} {r : BitVec 10} {rb e : BitVec 4} {mx : Bool} {sub : Option (BitVec 4)} (h : tileOwned s k)
    (hd : descFault s.var r.toNat rb.toNat e mx = sub) : firstFault (cfgChecks k r rb e mx) s = sub.map fun n => shapeExc n k := by
  cases sub <;> simp [firstFault, cfgChecks, ownFault_owned h, hd]

theorem tileIdle_iff (s : State) (k : TReg) : tileIdle s k ↔ s.ops.any (opNames · k) = false := by
  simp [tileIdle, List.any_eq_false]

/-- The write forms wait for the operations on their tile, and for an INCOMPLETE tile (R73). -/
theorem tcfgBody_waits {s : State} {k : TReg} {r : BitVec 10} {rb e : BitVec 4} {mx : Bool} {b : Bank}
    (hc : firstFault (cfgChecks k r rb e mx) s = none) (h : ¬ tileIdle s k ∨ s.tiles[k].st = .incomplete) :
    tcfgBody k r rb e mx .core b s = .wait s := by
  refine (checked_passes hc).trans (if_pos ?_)
  rw [tileIdle_iff, Bool.not_eq_false] at h
  simpa using h

theorem tcfgBody_configures {s : State} {k : TReg} {r : BitVec 10} {rb e : BitVec 4} {mx : Bool} {b : Bank}
    (hc : firstFault (cfgChecks k r rb e mx) s = none) (hi : tileIdle s k) (hs : s.tiles[k].st ≠ .incomplete) :
    tcfgBody k r rb e mx .core b s = .ok b (configured s k r rb e mx) := by
  refine (checked_passes hc).trans (if_neg ?_)
  rw [(tileIdle_iff s k).1 hi]
  simpa using hs

/-- Both write forms have one body, the register form with the fields of its register (R73). -/
theorem tcfg_issues {i : Instr} {k : TReg} {r : BitVec 10} {rb e : BitVec 4} {mx : Bool} {s : State}
    (h : i = .tcfgImm k r rb e mx ∨ ∃ ga, i = .tcfgReg k ga ∧ r = (rg (curBank s) ga).setWidth 10 ∧ rb.toNat = fieldN (rg (curBank s) ga) 13 10 ∧
      e.toNat = fieldN (rg (curBank s) ga) 19 16 ∧ mx = bit (rg (curBank s) ga) 20) :
    ∃ body : Body, exec i s = issue i (domGate dTile i body) s ∧ body .core (curBank s) s = tcfgBody k r rb e mx .core (curBank s) s := by
  obtain rfl | ⟨ga, rfl, rfl, hrb, he, rfl⟩ := h
  · exact ⟨tcfgBody k r rb e mx, rfl, rfl⟩
  · have hr : field (rg (curBank s) ga) 9 0 = (rg (curBank s) ga).setWidth 10 := BitVec.eq_of_toNat_eq (by simp [field])
    have hb (hi lo : Nat) (x : BitVec (hi + 1 - lo)) (h : x.toNat = fieldN (rg (curBank s) ga) hi lo) : field (rg (curBank s) ga) hi lo = x :=
      BitVec.eq_of_toNat_eq (by rw [h]; simp [field, fieldN])
    refine ⟨tcfgRegBody k ga, rfl, ?_⟩
    rw [tcfgRegBody, hr, hb 13 10 rb hrb, hb 19 16 e he]

/-- Settles O31: the body of both write forms is checked, waits or gives its tile the new descriptor; what is kept of rows and scales is read by
key. -/
theorem tileConfiguration : Obligations.TileConfiguration := by
  unfold Obligations.TileConfiguration
  refine ⟨fun i k r rb e mx s hr hi => ?writes, fun gd k s hr => ?reads⟩
  case writes =>
    obtain ⟨body, he, hb⟩ := tcfg_issues hi
    refine ⟨fun ho => ?_, fun ho sub hd => ?_, fun ho hd hw => ?_, fun ho hd hidle hs hc => ?_⟩
    · exact exec_tile_fault he hr (hb.trans (checked_fails (cfgChecks_foreign r rb e mx ho))) (notReady_code 2 k)
    · exact exec_tile_fault he hr (hb.trans (checked_fails (cfgChecks_owned ho hd))) (shapeExc_code sub k)
    · exact exec_tile_wait he hr (hb.trans (tcfgBody_waits (cfgChecks_owned ho hd) hw))
    · have hok := hb.trans (tcfgBody_configures (cfgChecks_owned ho hd) hidle hs)
      obtain ⟨hframe, hother, hops⟩ := configured_frame s k r rb e mx
      obtain ⟨hrows, hscales⟩ := hc k
      refine ⟨_, exec_tile_ok he hr hok, hframe, hother, ?_⟩
      rw [configured_tile]
      exact ⟨rfl, rfl, rfl, rfl, rfl, setBit_true_eq_or _ k, hops, tileRow_reshape hrows r rb e mx, tileScale_reshape hscales r rb e mx⟩
  case reads =>
    exact ⟨_, exec_tile_ok rfl hr rfl, rfl, wg_get_same .., keepsG_wg _ gd _, rfl, rfl⟩

end Sys2Proof.Machine


namespace Sys2Proof.Machine

/-! SUPPORT. TLD, TST, TZERO, TREL and TMOV as they are accepted (R69 to R71, R74, R75, R77, R78, R83 to R85). -/

/-! ### The checks of an instruction that uses a tile -/

theorem domGate_ready {d : Fin 32} {c : Instr} {body : Body} {k : Who} {b : Bank} {s : State} (h : domUse s d = .ready) :
    domGate d c body k b s = body k b s := by
  simp only [domGate, h]

/-- The owner of a tile, its state, and what else an instruction checks (R70, R83, R84). -/
def useChecks (k : TReg) (more : State → List (Option Exc)) (s : State) : List (Option Exc) := ownFault s k :: stateFault s k :: more s

theorem useChecks_foreign {s : State} {k : TReg} (more : State → List (Option Exc)) (h : ¬ tileOwned s k) :
    firstFault (useChecks k more) s = some (notReady 2 k) := by
  simp [firstFault, useChecks, ownFault_foreign h]

theorem useChecks_incomplete {s : State} {k : TReg} (more : State → List (Option Exc)) (h : tileOwned s k) (hi : s.tiles[k].st = .incomplete) :
    firstFault (useChecks k more) s = some (notReady 1 k) := by
  simp [firstFault, useChecks, ownFault_owned h, stateFault_incomplete hi]

theorem useChecks_usable {s : State} {k : TReg} {more : State → List (Option Exc)} {e : Option Exc} (h : tileOwned s k)
    (hi : s.tiles[k].st ≠ .incomplete) (he : firstFault more s = e) : firstFault (useChecks k more) s = e := by
  rw [← he]
  simp [firstFault, useChecks, ownFault_owned h, stateFault_usable hi]

/-! ### Acceptance -/

/-- An operation as it is accepted: numbered, last on its queue, and at once at work where nothing holds it (R71). -/
def takenOp (s : State) (o : Op) : Op :=
  let o1 := { o with id := s.nextOp, qseq := s.nextOp }
  { o1 with started := !onQueue o1 && tileFree s.ops o1 }

theorem acceptOp_eq (s : State) (o : Op) : acceptOp s o = { s with ops := s.ops ++ [takenOp s o], nextOp := s.nextOp + 1 } := rfl

/-- An operation accepted last. -/
theorem mem_acceptOp {s : State} {o x : Op} : x ∈ (acceptOp s o).ops ↔ x ∈ s.ops ∨ x = takenOp s o := by
  simp [acceptOp_eq]

/-! ### The state of a tile -/

/-- Settling a tile changes its state, and what it is without writers. -/
theorem settleTile_tile (s : State) (k : TReg) (base : TileState) :
    (settleTile s k base).tiles[k] = { s.tiles[k] with st := (settleTile s k base).tiles[k].st, base := base } := by
  simp only [settleTile, setTile_same]

/-- A usable tile with a writer is PENDING (R68). -/
theorem settleTile_pending {s : State} {k : TReg} {o : Op} (base : TileState) (hi : s.tiles[k].st ≠ .incomplete) (hl : ∀ x ∈ s.ops, x.left = false)
    (ho : o ∈ s.ops) (hw : opWrites o k = true) : (settleTile s k base).tiles[k].st = .pending := by
  have hf : (s.ops.any fun o => o.left && opNames o k) = false := List.any_eq_false.2 fun x hx => by simp [hl x hx]
  have hn : (s.ops.any (opWrites · k)) = true := List.any_eq_true.2 ⟨o, ho, hw⟩
  have he : (s.tiles[k].st == .incomplete) = false := beq_eq_false_iff_ne.2 hi
  simp only [settleTile, setTile_same, hf, hn, he, Bool.false_and, Bool.or_self, Bool.false_eq_true, if_false, if_true]

/-- An INCOMPLETE tile stays so until the TZERO or TREL that ends its failed operation is performed (R68, R77). -/
theorem settleTile_ending {s : State} {k : TReg} {o : Op} (base : TileState) (hi : s.tiles[k].st = .incomplete) (ho : o ∈ s.ops)
    (hk : o.kind = .tzero ∨ o.kind = .trel) (hw : opWrites o k = true) : (settleTile s k base).tiles[k].st = .incomplete := by
  have hn : (s.ops.any fun o => (o.kind == .tzero || o.kind == .trel) && opWrites o k) = true :=
    List.any_eq_true.2 ⟨o, ho, by simpa [hw] using hk⟩
  simp only [settleTile, setTile_same, hn, hi, BEq.rfl, Bool.and_self, Bool.or_true, if_true]

/-- An accepted writer of a tile: the operation is the last in order, TDIRTY follows, and the tile's state with it (R68, R69, R85). -/
def writerTaken (dirty : Bool) (k : TReg) (o : Op) (base : TileState) (s : State) : State :=
  settleTile (if dirty then setDirty (acceptOp s o) k else acceptOp s o) k base

theorem writerTaken_frame (dirty : Bool) (k : TReg) (o : Op) (base : TileState) (s : State) : let t := writerTaken dirty k o base s
    t = { s with tiles := t.tiles, ops := s.ops ++ [takenOp s o], nextOp := s.nextOp + 1, c := { s.c with tdirty := t.c.tdirty } } ∧
      otherTilesKept s t k ∧ t.tiles[k] = { s.tiles[k] with st := t.tiles[k].st, base := base } ∧
      bit t.c.tdirty k.val = (dirty || bit s.c.tdirty k.val) := by
  cases dirty with
  | false => exact ⟨rfl, fun _ hj => setTile_other _ _ hj, settleTile_tile (acceptOp s o) k base, rfl⟩
  | true =>
    exact ⟨rfl, fun _ hj => setTile_other _ _ hj, settleTile_tile (setDirty (acceptOp s o) k) k base, bit_setBit_self s.c.tdirty k.isLt true⟩

theorem writerTaken_pending {k : TReg} {o : Op} {s : State} (dirty : Bool) (base : TileState) (hi : s.tiles[k].st ≠ .incomplete)
    (hl : ∀ x ∈ s.ops, x.left = false) (ho : o.left = false) (hw : opWrites o k = true) : (writerTaken dirty k o base s).tiles[k].st = .pending := by
  have hl' : ∀ x ∈ (acceptOp s o).ops, x.left = false := fun x hx => by
    obtain hx | rfl := mem_acceptOp.1 hx
    · exact hl x hx
    · exact ho
  cases dirty <;> exact settleTile_pending base hi hl' (mem_acceptOp.2 (.inr rfl)) hw

theorem writerTaken_ending {k : TReg} {o : Op} {s : State} (dirty : Bool) (base : TileState) (hi : s.tiles[k].st = .incomplete)
    (hk : o.kind = .tzero ∨ o.kind = .trel) (hw : opWrites o k = true) : (writerTaken dirty k o base s).tiles[k].st = .incomplete := by
  cases dirty <;> exact settleTile_ending base hi (mem_acceptOp.2 (.inr rfl)) hk hw

/-! ### TLD and TST -/

/-- The operation of a TLD or TST (R74, R75). -/
def transferOp (load : Bool) (k : TReg) (ga gb gc : GReg) (q : QNum) (b : Bank) (s : State) : Op :=
  { newOp (if load then .tld else .tst) b s with t := k, q := q, ga := rg b ga, gb := rg b gb, gc := rg b gc, n := tileRows (accTile s k) }

/-- A tile whose TPROG starts over for a transfer (R82). -/
def progStarted (load : Bool) (k : TReg) (s : State) : State :=
  setTile s k { s.tiles[k] with progRows := 0, progFault := false, progOp := if load then 1 else 2 }

/-- A transfer accepted: a TLD writes its tile, a TST reads it (R74, R75). -/
def transferTaken (load : Bool) (k : TReg) (o : Op) (s : State) : State :=
  if load then writerTaken true k o s.tiles[k].base (progStarted load k s) else acceptOp (progStarted load k s) o

theorem tldBody_waits {load : Bool} {k : TReg} {ga gb gc : GReg} {q : QNum} {b : Bank} {s : State}
    (hc : firstFault (useChecks k fun _ => []) s = none) (hq : queueRoom s q = false) : tldBody load k ga gb gc q .core b s = .wait s :=
  (checked_passes hc).trans (if_neg (by simp [hq]))

theorem tldBody_accepts {load : Bool} {k : TReg} {ga gb gc : GReg} {q : QNum} {b : Bank} {s : State}
    (hc : firstFault (useChecks k fun _ => []) s = none) (hq : queueRoom s q = true) :
    tldBody load k ga gb gc q .core b s = .ok b (transferTaken load k (transferOp load k ga gb gc q b s) s) := by
  refine (checked_passes hc).trans ((if_pos hq).trans ?_)
  cases load <;> rfl

theorem progStarted_tile (load : Bool) (k : TReg) (s : State) : (progStarted load k s).tiles[k] =
    { s.tiles[k] with progRows := 0, progFault := false, progOp := if load then 1 else 2 } := setTile_same ..

theorem transferTaken_frame (load : Bool) (k : TReg) (o : Op) (s : State) : let t := transferTaken load k o s
    tileOnly s t ∧ otherTilesKept s t k ∧ t.ops = s.ops ++ [takenOp (progStarted load k s) o] ∧ t.nextOp = s.nextOp + 1 := by
  have hp : otherTilesKept s (progStarted load k s) k := fun _ hj => setTile_other s _ hj
  cases load with
  | false => exact ⟨rfl, hp, rfl, rfl⟩
  | true =>
    obtain ⟨-, hother, -⟩ := writerTaken_frame true k o s.tiles[k].base (progStarted true k s)
    exact ⟨rfl, fun j hj => (hother j hj).trans (hp j hj), rfl, rfl⟩

/-- The tile of an accepted transfer: its TPROG starts over, its rows stay (R75, R82). -/
theorem transferTaken_tile (load : Bool) (k : TReg) (o : Op) (s : State) : let x := (transferTaken load k o s).tiles[k]
    x = { s.tiles[k] with progRows := 0, progFault := false, progOp := if load then 1 else 2, st := x.st } := by
  cases load with
  | false => exact (progStarted_tile false k s).trans (by rw [show (transferTaken false k o s).tiles[k] = _ from progStarted_tile false k s])
  | true =>
    obtain ⟨-, -, htile, -⟩ := writerTaken_frame true k o s.tiles[k].base (progStarted true k s)
    rw [progStarted_tile] at htile
    exact htile

/-! ### TZERO and TREL -/

/-- A tile with every byte 0 and every scale 0x7F (R66, R77). -/
def blankTile (x : Tile) : Tile := { x with rows := [], scales := [], bad := [] }

/-- A tile blanked, and its rows out of the nib cache. -/
def blanked (s : State) (k : TReg) : State := nibDrop (setTile s k (blankTile s.tiles[k])) k fun _ => true

theorem blanked_rowStored (s : State) (k : TReg) : rowStored k s (blanked s k) :=
  rowStored_trans (setTile_rowStored (x := blankTile s.tiles[k]) rfl) (nibDrop_rowStored k (setTile s k (blankTile s.tiles[k])) k fun _ => true)

/-- Clearing a tile changes that tile but not its state, the nib cache, and the injection. -/
theorem clearTile_rowStored (s : State) (k : TReg) : rowStored k s (clearTile s k) := by
  unfold clearTile
  dsimp only
  split
  · exact blanked_rowStored s k
  · exact foldl_keeps (rowStored k s) _ (fun _ _ h => rowStored_trans h (tileFresh_rowStored ..)) _ _ (blanked_rowStored s k)

/-- Without an injection every byte of a cleared tile is 0 and every scale 0x7F (R77). -/
theorem clearTile_contents {s : State} (h : NoInjection s) (k : TReg) : (clearTile s k).tiles[k].rows = [] ∧ (clearTile s k).tiles[k].scales = [] := by
  obtain ⟨hs, hi⟩ := h
  have he : clearTile s k = blanked s k := if_pos (show (s.err.spots.isEmpty && !bit s.c.errinj 12) = true by rw [hs, hi]; rfl)
  have hx : (clearTile s k).tiles[k] = blankTile s.tiles[k] := by
    rw [he]
    exact setTile_same ..
  rw [hx]
  exact ⟨rfl, rfl⟩

/-- A tile whose failed operations are dropped, with its TPROG (R77). -/
def failedDropped (s : State) (k : TReg) : State :=
  setTile { s with ops := s.ops.filter fun o => !(o.left && o.t == k) } k { s.tiles[k] with progRows := 0, progFault := false, progOp := 0 }

theorem endFailed_eq (s : State) (k : TReg) : endFailed s k =
    if s.ops.any fun o => o.left && o.t == k then
      if s.ops.any fun o => o.left && o.t == k && o.kind == .tld then clearTile (failedDropped s k) k else failedDropped s k
    else s := rfl

/-- What ending failed operations may change (R71, R77). -/
theorem endFailed_frame (s : State) (k : TReg) : let t := endFailed s k
    t = { s with tiles := t.tiles, nib := t.nib, ops := t.ops, err := t.err, c := { s.c with errinj := t.c.errinj } } ∧ otherTilesKept s t k ∧
      t.tiles[k].st = s.tiles[k].st := by
  have hother : otherTilesKept s (failedDropped s k) k := fun _ hj => setTile_other { s with ops := _ } _ hj
  have hst : (failedDropped s k).tiles[k].st = s.tiles[k].st := by rw [failedDropped, setTile_same]
  rw [endFailed_eq]
  split
  · split
    · obtain ⟨he, ho, hs⟩ := clearTile_rowStored (failedDropped s k) k
      refine ⟨?_, fun j hj => (ho j hj).trans (hother j hj), hs.trans hst⟩
      rw [he]
      rfl
    · exact ⟨rfl, hother, hst⟩
  · exact ⟨rfl, fun _ _ => rfl, rfl⟩

theorem endFailed_ops (s : State) (k : TReg) : (endFailed s k).ops = s.ops.filter fun x => !(x.left && x.t == k) := by
  rw [endFailed_eq]
  split
  · split
    · obtain ⟨he, -⟩ := clearTile_rowStored (failedDropped s k) k
      rw [he]
      rfl
    · rfl
  · next h =>
    refine (List.filter_eq_self.2 fun x hx => ?_).symm
    rw [Bool.eq_false_of_not_eq_true fun hl => h (List.any_eq_true.2 ⟨x, hx, hl⟩)]
    rfl

theorem endFailed_none {s : State} {k : TReg} (h : ∀ x ∈ s.ops, x.left = false) : endFailed s k = s :=
  if_neg fun hn => by
    obtain ⟨x, hx, hl⟩ := List.any_eq_true.1 hn
    rw [h x hx] at hl
    cases hl

/-- A failed load that is ended leaves zero contents (R77). -/
theorem endFailed_load {s : State} {k : TReg} (hn : NoInjection s) (h : ∃ x ∈ s.ops, x.left = true ∧ x.t = k ∧ x.kind = .tld) :
    (endFailed s k).tiles[k].rows = [] ∧ (endFailed s k).tiles[k].scales = [] := by
  obtain ⟨x, hx, hl, ht, hk⟩ := h
  have h1 : (s.ops.any fun o => o.left && o.t == k) = true := List.any_eq_true.2 ⟨x, hx, by simp [hl, ht]⟩
  have h2 : (s.ops.any fun o => o.left && o.t == k && o.kind == .tld) = true := List.any_eq_true.2 ⟨x, hx, by simp [hl, ht, hk]⟩
  rw [endFailed_eq, if_pos h1, if_pos h2]
  exact clearTile_contents (s := failedDropped s k) hn k

/-- The operation of a TZERO or TREL (R77). -/
def clearOp (rel : Bool) (k : TReg) (b : Bank) (s : State) : Op := { newOp (if rel then .trel else .tzero) b s with t := k }

theorem clearOp_writes (rel : Bool) (k : TReg) (b : Bank) (s : State) : opWrites (clearOp rel k b s) k = true := by
  cases rel <;> exact beq_self_eq_true k

theorem clearOp_kind (rel : Bool) (k : TReg) (b : Bank) (s : State) : (clearOp rel k b s).kind = .tzero ∨ (clearOp rel k b s).kind = .trel := by
  cases rel
  · exact .inl rfl
  · exact .inr rfl

theorem tclearBody_accepts {rel : Bool} {k : TReg} {b : Bank} {s : State} (h : tileOwned s k) : tclearBody rel k .core b s =
    .ok b (writerTaken (!rel) k (clearOp rel k b s) s.tiles[k].base (endFailed s k)) := by
  refine (checked_passes (l := fun s => [ownFault s k]) (by simp [firstFault, ownFault_owned h])).trans ?_
  cases rel <;> rfl

theorem tclearBody_foreign {rel : Bool} {k : TReg} {b : Bank} {s : State} (h : ¬ tileOwned s k) :
    tclearBody rel k .core b s = .exc (notReady 2 k) b s :=
  checked_fails (l := fun s => [ownFault s k]) (by simp [firstFault, ownFault_foreign h])

/-! ### TMOV -/

/-- The checks of TMOV: both owners, then both states (R78, R83, R84). -/
def copyChecks (kd ks : TReg) (s : State) : List (Option Exc) := [ownFault s kd, ownFault s ks, stateFault s kd, stateFault s ks]

/-- The operation of a TMOV (R78). -/
def copyOp (kd ks : TReg) (b : Bank) (s : State) : Op := { newOp .tmov b s with t := kd, ts := ks }

theorem tmovBody_fault {kd ks : TReg} {b : Bank} {s : State} {e : Exc} (h : firstFault (copyChecks kd ks) s = some e) :
    tmovBody kd ks .core b s = .exc e b s := checked_fails h

theorem tmovBody_same {k : TReg} {b : Bank} {s : State} (h : firstFault (copyChecks k k) s = none) : tmovBody k k .core b s = .ok b (setDirty s k) :=
  (checked_passes h).trans (if_pos rfl)

theorem tmovBody_accepts {kd ks : TReg} {b : Bank} {s : State} (h : firstFault (copyChecks kd ks) s = none) (hk : kd ≠ ks) :
    tmovBody kd ks .core b s = .ok b (writerTaken true kd (copyOp kd ks b s) s.tiles[kd].base s) :=
  (checked_passes h).trans (if_neg hk)

theorem copyChecks_usable {kd ks : TReg} {s : State} (hd : tileOwned s kd) (hs : tileOwned s ks) (hdi : s.tiles[kd].st ≠ .incomplete)
    (hsi : s.tiles[ks].st ≠ .incomplete) : firstFault (copyChecks kd ks) s = none := by
  simp [firstFault, copyChecks, ownFault_owned hd, ownFault_owned hs, stateFault_usable hdi, stateFault_usable hsi]

/-! ### The statement -/

/-- Settles O32: the checks in their order, then a writer or a reader taken last; TZERO and TREL first end the failed operations. -/
theorem tileOperationsAreAccepted : Obligations.TileOperationsAreAccepted := by
  unfold Obligations.TileOperationsAreAccepted
  intro s b
  refine ⟨fun load k ga gb gc q => ?transfers, fun rel k => ?clears, fun kd ks hr => ?copies⟩
  case transfers =>
    intro i hr hd
    have he : exec i s = issue i (domGate dTile i (domGate dStream i (tldBody load k ga gb gc q))) s := by
      cases load <;> rfl
    have hb {r : Res} (h : tldBody load k ga gb gc q .core b s = r) : domGate dStream i (tldBody load k ga gb gc q) .core b s = r :=
      (domGate_ready hd).trans h
    refine ⟨fun ho => ?_, fun ho hi => ?_, fun ho hi hq => ?_, fun ho hi hq => ?_⟩
    · exact exec_tile_fault he hr (hb (checked_fails (useChecks_foreign (fun _ => []) ho))) (notReady_code 2 k)
    · exact exec_tile_fault he hr (hb (checked_fails (useChecks_incomplete (fun _ => []) ho hi))) (notReady_code 1 k)
    · exact exec_tile_wait he hr (hb (tldBody_waits (useChecks_usable ho hi rfl) hq))
    · have hok := hb (tldBody_accepts (useChecks_usable ho hi rfl) hq)
      obtain ⟨hframe, hother, hops, hnext⟩ := transferTaken_frame load k (transferOp load k ga gb gc q b s) s
      have htile := transferTaken_tile load k (transferOp load k ga gb gc q b s) s
      refine ⟨_, takenOp (progStarted load k s) (transferOp load k ga gb gc q b s), exec_tile_ok he hr hok, hframe, hother,
        ⟨hops, hnext, rfl, rfl⟩, rfl, rfl, rfl, rfl, rfl, rfl, rfl, rfl, by rw [htile], by rw [htile], by rw [htile], by rw [htile],
        fun hl => ?_, fun hl => ?_⟩
      · subst hl
        obtain ⟨-, -, -, hdirty⟩ := writerTaken_frame true k (transferOp true k ga gb gc q b s) s.tiles[k].base (progStarted true k s)
        refine ⟨hdirty, fun hleft => writerTaken_pending true _ ?_ hleft rfl (beq_self_eq_true k)⟩
        rw [progStarted_tile]
        exact hi
      · subst hl
        refine ⟨rfl, ?_⟩
        rw [show (transferTaken false k (transferOp false k ga gb gc q b s) s).tiles[k] = _ from progStarted_tile false k s]
  case clears =>
    intro i hr
    have he : exec i s = issue i (domGate dTile i (tclearBody rel k)) s := by
      cases rel <;> rfl
    refine ⟨fun ho => exec_tile_fault he hr (tclearBody_foreign ho) (notReady_code 2 k), fun ho => ?_⟩
    obtain ⟨heq, hother, hst⟩ := endFailed_frame s k
    obtain ⟨hframe, hother2, htile, hdirty⟩ := writerTaken_frame (!rel) k (clearOp rel k b s) s.tiles[k].base (endFailed s k)
    have hops := endFailed_ops s k
    have hnext : (endFailed s k).nextOp = s.nextOp := by rw [heq]
    have htd : (endFailed s k).c.tdirty = s.c.tdirty := by rw [heq]
    refine ⟨_, takenOp (endFailed s k) (clearOp rel k b s), exec_tile_ok he hr (tclearBody_accepts ho), ?_,
      fun j hj => (hother2 j hj).trans (hother j hj),
      ?_, ?_, hnext, rfl, rfl, rfl, ?_, fun hl => ⟨?_, fun hi => ?_⟩, fun hi => ?_, fun hn hf => ?_⟩
    · rw [tileRecords, hframe, heq]
    · rw [hframe, hops]
    · rw [hframe, hnext]
    · rw [hdirty, htd]
      cases rel <;> rfl
    · rw [htile, endFailed_none hl]
    · rw [endFailed_none hl]
      exact writerTaken_pending _ _ hi hl rfl (clearOp_writes rel k b s)
    · exact writerTaken_ending _ _ (hst.trans hi) (clearOp_kind rel k b s) (clearOp_writes rel k b s)
    · rw [htile]
      exact endFailed_load hn hf
  case copies =>
    have he : exec (.tmov kd ks) s = issue (.tmov kd ks) (domGate dTile (.tmov kd ks) (tmovBody kd ks)) s := rfl
    have hfault {e : Exc} (h : firstFault (copyChecks kd ks) s = some e) (hw : e.code ≠ waitCode) : exec (.tmov kd ks) s = .next (raise e s) :=
      exec_tile_fault he hr (tmovBody_fault h) hw
    refine ⟨fun hd => hfault ?_ (notReady_code 2 kd), fun hd hs => hfault ?_ (notReady_code 2 ks),
      fun hd hs hdi => hfault ?_ (notReady_code 1 kd), fun hd hs hdi hsi => hfault ?_ (notReady_code 1 ks), fun hd hs hdi hsi => ?_⟩
    · simp [firstFault, copyChecks, ownFault_foreign hd]
    · simp [firstFault, copyChecks, ownFault_owned hd, ownFault_foreign hs]
    · simp [firstFault, copyChecks, ownFault_owned hd, ownFault_owned hs, stateFault_incomplete hdi]
    · simp [firstFault, copyChecks, ownFault_owned hd, ownFault_owned hs, stateFault_usable hdi, stateFault_incomplete hsi]
    · have hc := copyChecks_usable hd hs hdi hsi
      by_cases hk : kd = ks
      · subst hk
        exact ⟨_, exec_tile_ok he hr (tmovBody_same hc), rfl, fun _ _ => rfl, bit_setBit_self s.c.tdirty kd.isLt true, rfl, fun _ => ⟨rfl, rfl⟩,
          fun h => absurd rfl h⟩
      · obtain ⟨hframe, hother, htile, hdirty⟩ := writerTaken_frame true kd (copyOp kd ks b s) s.tiles[kd].base s
        refine ⟨_, exec_tile_ok he hr (tmovBody_accepts hc hk), ?_, hother, hdirty, by rw [htile], fun h => absurd h hk,
          fun _ => ⟨fun hl => ?_, ?_⟩⟩
        · rfl
        · exact writerTaken_pending true _ hdi hl rfl (beq_self_eq_true kd)
        · exact ⟨takenOp s (copyOp kd ks b s), ⟨rfl, rfl, rfl, rfl⟩, rfl, rfl, rfl⟩

end Sys2Proof.Machine


namespace Sys2Proof.Machine

/-! SUPPORT. The posting of a queue's operations, and the stops of the stream engine as they are recorded (R76, R164, R173, R174, R176). -/

/-! ### Posting -/

/-- What posting the operations at the head of a queue may change: some leave, and the queue counts them (R164, R173). -/
def posted (s t : State) : Prop :=
  t = { s with ops := t.ops, sq := t.sq } ∧ (∀ r : QNum, t.sq[r] = { s.sq[r] with done := t.sq[r].done }) ∧ ∀ x ∈ t.ops, x ∈ s.ops

theorem posted_refl (s : State) : posted s s := ⟨rfl, fun _ => rfl, fun _ h => h⟩

theorem posted_trans {s t u : State} (h1 : posted s t) (h2 : posted t u) : posted s u := by
  obtain ⟨e1, q1, o1⟩ := h1
  obtain ⟨e2, q2, o2⟩ := h2
  refine ⟨?_, fun r => ?_, fun x hx => o1 x (o2 x hx)⟩
  · rw [e2, e1]
  · rw [q2 r, q1 r]

theorem countDone_posted (s : State) (q : QNum) : posted s (countDone s q) := by
  refine ⟨rfl, fun r => ?_, fun _ h => h⟩
  by_cases hr : q = r
  · subst hr
    simp [countDone]
  · have hv : q.val ≠ r.val := fun h => hr (Fin.ext h)
    simp [countDone, hv]

theorem dropOp_posted (s : State) (id : Nat) : posted s (dropOp s id) := ⟨rfl, fun _ => rfl, fun _ h => List.mem_of_mem_filter h⟩

theorem postQueue_posted (q : QNum) (n : Nat) (s : State) : posted s (postQueue q n s) := by
  induction n generalizing s with
  | zero => exact posted_refl s
  | succ n ih =>
    unfold postQueue
    split
    · split
      · exact posted_trans (posted_trans (dropOp_posted s _) (countDone_posted _ q)) (ih _)
      · exact posted_refl s
    · exact posted_refl s

/-! ### Failed operations pass to their tiles -/

/-- A tile whose transfer has failed with its progress (R76, R82). -/
def failedTile (x : Tile) (o : Op) : Tile :=
  { x with st := .incomplete, progFault := true, progRows := BitVec.ofNat 11 o.prog, progOp := if o.kind = .tld then 1 else 2 }

/-- An operation that has left its queue with a fault (R176). -/
def leftOp (y : Op) : Op := { y with left := true, started := false, out := [], written := [] }

theorem passToTile_posted (s : State) (o : Op) : posted (updOp (setTile s o.t (failedTile s.tiles[o.t] o)) o.id leftOp) (passToTile s o) :=
  postQueue_posted ..

theorem passToTile_tile (s : State) (o : Op) : (passToTile s o).tiles[o.t] = failedTile s.tiles[o.t] o := by
  rw [(passToTile_posted s o).1]
  exact setTile_same ..

theorem passToTile_others (s : State) (o : Op) : otherTilesKept s (passToTile s o) o.t := fun j hj => by
  rw [(passToTile_posted s o).1]
  exact setTile_other s _ hj

/-! ### Records -/

/-- Making a vector pending sets its bit, and may wake CORE (R28, R280). -/
theorem pend_eq (s : State) (v : Byte) : pend s v =
    { s with dom := (pend s v).dom, c := { s.c with ipend := (pend s v).c.ipend, l2Check := (pend s v).c.l2Check } } := by
  unfold pend
  rw [wakeRequest_doms]
  rfl

/-- The vector of the stream engine is pending once it is made so (R176, R280). -/
theorem isPending_pend_stream (s : State) : isPending (pend s 0x23) 0x23 = true := isPending_pend (by decide) (by decide)

theorem passToTile_isPending (s : State) (o : Op) (v : Byte) : isPending (passToTile s o) v = isPending s v := by
  rw [(passToTile_posted s o).1]
  rfl

/-- A queue with the record of a stop (R174, R176). -/
def stopWords (x : SQueue) (o : Op) (st : Stop) : SQueue :=
  { x with recv := true, w1 := (recordOf o st).1, w2 := (recordOf o st).2.1, w3 := (recordOf o st).2.2.1, w4 := (recordOf o st).2.2.2,
           faulted := if tileOp o then none else some o.id }

/-- The record of a stop written, before its operation passes to its tile (R176). -/
def stopWritten (s : State) (o : Op) (st : Stop) : State :=
  pend (updOp { s with sq := s.sq.set o.q.val (stopWords s.sq[o.q] o st) o.q.isLt } o.id
    fun y => { y with stop := some { st with recorded := true } }) 0x23

theorem recordStop_eq (s : State) (o : Op) (st : Stop) :
    recordStop s o st = if tileOp o then passToTile (stopWritten s o st) o else stopWritten s o st := rfl

theorem stopWritten_frame (s : State) (o : Op) (st : Stop) : let t := stopWritten s o st
    t = { s with ops := t.ops, sq := t.sq, dom := t.dom, c := { s.c with ipend := t.c.ipend, l2Check := t.c.l2Check } } := by
  unfold stopWritten
  rw [pend_eq]
  rfl

theorem stopWritten_queue (s : State) (o : Op) (st : Stop) : (stopWritten s o st).sq[o.q] = stopWords s.sq[o.q] o st := by
  unfold stopWritten
  rw [pend_eq]
  simp [updOp]

/-- A transfer that stops and whose record is written (R174, R176): RECV, the record's words, vector 0x23, and the tile INCOMPLETE. -/
theorem recordStop_transfer {s : State} {o : Op} (h : tileOp o = true) (st : Stop) : let t := recordStop s o st
    t.tiles[o.t] = failedTile s.tiles[o.t] o ∧ otherTilesKept s t o.t ∧ isPending t 0x23 = true ∧ t.mem = s.mem ∧
      ∃ n, t.sq[o.q] = { stopWords s.sq[o.q] o st with done := n } := by
  rw [recordStop_eq, if_pos h]
  have hf := stopWritten_frame s o st
  have ht : (stopWritten s o st).tiles = s.tiles := by rw [hf]
  have hm : (passToTile (stopWritten s o st) o).mem = (stopWritten s o st).mem := by rw [(passToTile_posted (stopWritten s o st) o).1]; rfl
  obtain ⟨-, hq, -⟩ := passToTile_posted (stopWritten s o st) o
  refine ⟨?_, fun j hj => ?_, ?_, ?_, (passToTile (stopWritten s o st) o).sq[o.q].done, ?_⟩
  · rw [passToTile_tile, ht]
  · rw [passToTile_others _ o j hj, ht]
  · rw [passToTile_isPending]
    exact isPending_pend_stream _
  · rw [hm, hf]
  · rw [hq o.q]
    rw [show (updOp (setTile (stopWritten s o st) o.t (failedTile (stopWritten s o st).tiles[o.t] o)) o.id leftOp).sq = (stopWritten s o st).sq from rfl,
      stopWritten_queue]

theorem testBit_fieldN {w : Nat} (x : BitVec w) (hi lo i : Nat) :
    (fieldN x hi lo).testBit i = (decide (i < hi + 1 - lo) && x.getLsbD (lo + i)) := by
  rw [fieldN, Nat.testBit_mod_two_pow, Nat.testBit_shiftRight]
  rfl

theorem getLsbD_place_below {v lo i : Nat} (h : i < lo) : (place 64 v lo).getLsbD i = false := by
  rw [getLsbD_place, decide_eq_false (Nat.not_le.2 h), Bool.and_false, Bool.false_and]

/-- The low field of a record's first word is its cause (R174). -/
theorem recordOf_cause (o : Op) (st : Stop) : fieldN (recordOf o st).1 4 0 = st.cause.toNat := by
  refine Nat.eq_of_testBit_eq fun i => ?_
  rw [testBit_fieldN, Nat.zero_add]
  by_cases hi : i < 5
  · have hp (v lo : Nat) (h : 5 ≤ lo) : (place 64 v lo).getLsbD i = false := getLsbD_place_below (by omega)
    have hb (b : Bool) : (placeB 64 b 16).getLsbD i = false := placeB_below (by omega)
    have hc : (place 64 st.cause.toNat 0).getLsbD i = st.cause.toNat.testBit i := by
      rw [getLsbD_place, decide_eq_true (show i < 64 by omega), decide_eq_true (Nat.zero_le i), Nat.sub_zero]
      rfl
    simp only [recordOf, BitVec.getLsbD_or, hp _ _ (show 5 ≤ 5 by omega), hp _ _ (show 5 ≤ 8 by omega), hp _ _ (show 5 ≤ 12 by omega),
      hp _ _ (show 5 ≤ 14 by omega), hp _ _ (show 5 ≤ 17 by omega), hp _ _ (show 5 ≤ 24 by omega), hp _ _ (show 5 ≤ 32 by omega), hb, hc,
      Bool.or_false, hi, decide_true, Bool.true_and]
  · rw [decide_eq_false (show ¬ i < 4 + 1 - 0 by omega), Bool.false_and]
    exact (Nat.testBit_lt_two_pow (Nat.lt_of_lt_of_le st.cause.isLt (Nat.pow_le_pow_right (by decide) (by omega)))).symm

end Sys2Proof.Machine


namespace Sys2Proof.Machine

/-! SUPPORT. TRDY, TRDY.W and TRESUME (R28, R76, R79, R80, R83, R84, R176). -/

/-! ### TRDY -/

/-- The word that states a mask's tiles, bit by bit (R79). -/
theorem getLsbD_trdyWord (s : State) (mask : BitVec 16) (i : Nat) : (trdyWord s mask).getLsbD i =
    (List.finRange 16).any fun t => bit mask t.val && (place 64 (fieldN (tileDesc s t) 25 24) (2 * t.val)).getLsbD i := by
  have h (l : List TReg) (x : W64) : (l.foldl (fun (x : W64) (t : TReg) =>
      if bit mask t.val then x ||| place 64 (fieldN (tileDesc s t) 25 24) (2 * t.val) else x) x).getLsbD i =
      (x.getLsbD i || l.any fun t => bit mask t.val && (place 64 (fieldN (tileDesc s t) 25 24) (2 * t.val)).getLsbD i) := by
    induction l generalizing x with
    | nil => rw [List.foldl_nil, List.any_nil, Bool.or_false]
    | cons t l ih =>
      rw [List.foldl_cons, List.any_cons, ih]
      cases bit mask t.val
      · rfl
      · rw [if_pos rfl, BitVec.getLsbD_or, Bool.true_and, Bool.or_assoc]
  exact (h _ 0).trans (by simp)

/-- The two bits of a tile's state stand at its own place alone (R79). -/
theorem getLsbD_statePlace (v : W64) (t i : Nat) (ht : t < 16) : (place 64 (fieldN v 25 24) (2 * t)).getLsbD i =
    (decide (i / 2 = t) && (fieldN v 25 24).testBit (i % 2)) := by
  rw [getLsbD_place, testBit_fieldN, testBit_fieldN]
  by_cases h : i / 2 = t
  · rw [decide_eq_true h, decide_eq_true (show i < 64 by omega), decide_eq_true (show 2 * t ≤ i by omega), show i - 2 * t = i % 2 by omega]
    rfl
  · rw [decide_eq_false h, Bool.false_and]
    by_cases hl : 2 * t ≤ i
    · rw [decide_eq_false (show ¬ i - 2 * t < 25 + 1 - 24 by omega), Bool.false_and, Bool.and_false]
    · rw [decide_eq_false hl, Bool.and_false, Bool.false_and]

/-- Bit i of the word is bit i mod 2 of the state of tile i / 2, if the mask names it (R79). -/
theorem getLsbD_trdyWord_tile (s : State) (mask : BitVec 16) (i : Nat) : (trdyWord s mask).getLsbD i =
    if h : i / 2 < 16 then bit mask (i / 2) && (fieldN (tileDesc s ⟨i / 2, h⟩) 25 24).testBit (i % 2) else false := by
  rw [getLsbD_trdyWord, Bool.eq_iff_iff, List.any_eq_true]
  constructor
  · rintro ⟨t, -, ht⟩
    rw [getLsbD_statePlace _ _ _ t.isLt, Bool.and_eq_true, Bool.and_eq_true, decide_eq_true_eq] at ht
    obtain ⟨hm, hi, hs⟩ := ht
    obtain ⟨t, htl⟩ := t
    subst hi
    rw [dif_pos htl, hm, hs]
    rfl
  · intro h
    split at h
    · next hl =>
      refine ⟨⟨i / 2, hl⟩, List.mem_finRange _, ?_⟩
      rw [getLsbD_statePlace _ _ _ hl, decide_eq_true rfl, Bool.true_and]
      exact h
    · cases h

theorem fieldN_trdyWord (s : State) (mask : BitVec 16) (k : TReg) :
    fieldN (trdyWord s mask) (2 * k.val + 1) (2 * k.val) = if bit mask k.val = true then fieldN (tileDesc s k) 25 24 else 0 := by
  refine Nat.eq_of_testBit_eq fun i => ?_
  rw [testBit_fieldN, getLsbD_trdyWord_tile]
  by_cases hi : i < 2
  · have hk : (2 * k.val + i) / 2 = k.val := by omega
    rw [decide_eq_true (show i < 2 * k.val + 1 + 1 - 2 * k.val by omega), dif_pos (by omega), show (2 * k.val + i) % 2 = i by omega]
    simp only [hk]
    cases bit mask k.val
    · rw [if_neg Bool.false_ne_true, Nat.zero_testBit]
      rfl
    · rfl
  · rw [decide_eq_false (show ¬ i < 2 * k.val + 1 + 1 - 2 * k.val by omega), Bool.false_and]
    split
    · rw [testBit_fieldN, decide_eq_false (show ¬ i < 25 + 1 - 24 by omega), Bool.false_and]
    · rw [Nat.zero_testBit]

theorem trdyWord_lt (s : State) (mask : BitVec 16) : (trdyWord s mask).toNat < 2 ^ 32 := by
  refine Nat.lt_pow_two_of_testBit _ fun i hi => ?_
  have h := getLsbD_trdyWord_tile s mask i
  rwa [dif_neg (by omega)] at h

/-- Whether TRDY.W waits for a tile of its mask (R79). -/
theorem trdy_waits_iff (s : State) (mask : BitVec 16) : ((List.finRange 16).any fun t => bit mask t.val && s.tiles[t].st == .pending) = true ↔
    ∃ k : TReg, bit mask k.val = true ∧ s.tiles[k].st = .pending := by
  simp [List.any_eq_true]

/-! ### TRESUME -/

/-- A failed operation set to continue at a row, last on its queue (R80). -/
def resumedOp (row place : Nat) (y : Op) : Op :=
  { y with left := false, started := false, stop := none, prog := row, above := [], written := [], fab := [], moved := [], iline := row, ioff := 0,
           out := [], qseq := place }

theorem retake_frame (s : State) (k : TReg) (o : Op) : let t := retake s k o
    tileOnly s t ∧ t.tiles = s.tiles.set k.val { s.tiles[k] with progFault := false, st := .pending } k.isLt ∧ t.nextOp = s.nextOp + 1 ∧
      t.ops = s.ops.map fun x => if x.id = o.id then resumedOp s.tiles[k].progRows.toNat s.nextOp x else x := ⟨rfl, rfl, rfl, rfl⟩

/-- The one operation of its number, as it is resumed. -/
theorem retake_finds {s : State} {k : TReg} {o : Op} (ho : o ∈ s.ops) (h : onlyOp s o) :
    (retake s k o).ops.find? (·.id == o.id) = some (resumedOp s.tiles[k].progRows.toNat s.nextOp o) := by
  have hmem : resumedOp s.tiles[k].progRows.toNat s.nextOp o ∈ (retake s k o).ops := List.mem_map.2 ⟨o, ho, if_pos rfl⟩
  cases hf : (retake s k o).ops.find? (·.id == o.id) with
  | none =>
    rw [List.find?_eq_none] at hf
    exact (hf _ hmem (beq_self_eq_true o.id)).elim
  | some x =>
    obtain ⟨y, hy, hx⟩ := List.mem_map.1 (List.mem_of_find?_eq_some hf)
    have hid : x.id = o.id := beq_iff_eq.1 (List.find?_some hf :)
    by_cases he : y.id = o.id
    · rw [← hx, if_pos he, h y hy he]
      rfl
    · rw [if_neg he] at hx
      exact absurd (hx ▸ hid) he

/-- The stop of a transfer with cause DOMAINOFF (R28, R449). -/
def offCause (o : Op) : Stop := ⟨0x08, opKindCode o, 0, o.kind == .tst, o.ga, 0, true, false⟩

/-- A transfer stopped as STREAM is off: its tile is INCOMPLETE, vector 0x23 pends, and a free record takes the stop (R28, R76, R176). -/
theorem offStop_spec {s : State} {o : Op} (h : tileOp o = true) : let t := offStop s o
    t.tiles[o.t] = failedTile s.tiles[o.t] o ∧ otherTilesKept s t o.t ∧ isPending t 0x23 = true ∧
      (s.sq[o.q].recv = false → ∃ n, t.sq[o.q] = { stopWords s.sq[o.q] o (offCause o) with done := n }) := by
  have he : offStop s o = if s.sq[o.q].recv = true then pend (passToTile (updOp s o.id fun y => { y with stop := some (offCause o) }) o) 0x23
      else recordStop (updOp s o.id fun y => { y with stop := some (offCause o) }) o (offCause o) := rfl
  rw [he]
  split
  · next hr =>
    have hp (x : State) : (pend x 0x23).tiles = x.tiles := by rw [pend_eq]
    refine ⟨?_, fun j hj => ?_, isPending_pend_stream _, fun hn => absurd (hn ▸ hr) Bool.false_ne_true⟩
    · rw [hp]
      exact passToTile_tile ..
    · rw [hp]
      exact passToTile_others _ o j hj
  · obtain ⟨htile, hother, hpend, -, hq⟩ := recordStop_transfer (s := updOp s o.id fun y => { y with stop := some (offCause o) }) h (offCause o)
    exact ⟨htile, hother, hpend, fun _ => hq⟩

/-- The checks of a TRESUME of a failed operation: the owner, then the ring (R80, R84). -/
def resumeChecks (k : TReg) (o : Op) (b : Bank) (s : State) : List (Option Exc) :=
  [ownFault s k, if o.cap.ring.toNat < (ringOf b).toNat then some (notReady 3 k) else none]

theorem resumeChecks_passes {k : TReg} {o : Op} {b : Bank} {s : State} (h : tileOwned s k) (hr : (ringOf b).toNat ≤ o.cap.ring.toNat) :
    firstFault (resumeChecks k o b) s = none := by
  simp [firstFault, resumeChecks, ownFault_owned h, hr]

theorem resumeChecks_ring {k : TReg} {o : Op} {b : Bank} {s : State} (h : tileOwned s k) (hr : o.cap.ring.toNat < (ringOf b).toNat) :
    firstFault (resumeChecks k o b) s = some (notReady 3 k) := by
  simp [firstFault, resumeChecks, ownFault_owned h, hr]

/-- What a TRESUME does with a failed operation once its checks pass (R28, R80). -/
def resumeAt (k : TReg) (o : Op) (b : Bank) (s : State) : Res :=
  match domUse s dStream with
  | .asleep => .wait (wakeRequest s dStream)
  | .off => .ok b (match (retake s k o).ops.find? (·.id == o.id) with
      | some o1 => offStop (retake s k o) o1
      | none => retake s k o)
  | .ready => if queueRoom s o.q = false then .wait s else .ok b (retake s k o)

theorem tresumeBody_usable {k : TReg} {b : Bank} {s : State} (h : s.tiles[k].st ≠ .incomplete) : tresumeBody k .core b s = .ok b s := if_pos h

theorem tresumeBody_ended {k : TReg} {b : Bank} {s : State} (h : s.tiles[k].st = .incomplete) (hf : (s.ops.find? fun o => o.left && o.t == k) = none) :
    tresumeBody k .core b s = checked (fun s => [ownFault s k]) (fun _ b s => .ok b s) .core b s := by
  unfold tresumeBody
  rw [if_neg (not_not.2 h), hf]

theorem tresumeBody_failed {k : TReg} {o : Op} {b : Bank} {s : State} (h : s.tiles[k].st = .incomplete)
    (hf : (s.ops.find? fun o => o.left && o.t == k) = some o) :
    tresumeBody k .core b s = checked (resumeChecks k o b) (fun _ b s => resumeAt k o b s) .core b s := by
  unfold tresumeBody
  rw [if_neg (not_not.2 h), hf]
  rfl

theorem tresumeBody_resumes {k : TReg} {o : Op} {b : Bank} {s : State} (h : s.tiles[k].st = .incomplete)
    (hf : (s.ops.find? fun o => o.left && o.t == k) = some o) (ho : tileOwned s k) (hr : (ringOf b).toNat ≤ o.cap.ring.toNat) :
    tresumeBody k .core b s = resumeAt k o b s :=
  (tresumeBody_failed h hf).trans (checked_passes (resumeChecks_passes ho hr))

/-- Another bank's INCOMPLETE tile is not resumed (R80, R84). -/
theorem tresumeBody_foreign {k : TReg} {b : Bank} {s : State} (h : s.tiles[k].st = .incomplete) (ho : ¬ tileOwned s k) :
    tresumeBody k .core b s = .exc (notReady 2 k) b s := by
  cases hf : s.ops.find? fun o => o.left && o.t == k with
  | none => exact (tresumeBody_ended h hf).trans (checked_fails (l := fun s => [ownFault s k]) (by simp [firstFault, ownFault_foreign ho]))
  | some o => exact (tresumeBody_failed h hf).trans (checked_fails (by simp [firstFault, resumeChecks, ownFault_foreign ho]))

/-! ### The statement -/

/-- Settles O33: TRDY's word is read bit by bit; a TRESUME retakes the failed operation, or stops it again where STREAM is off. -/
theorem tileStatesAndResumption : Obligations.TileStatesAndResumption := by
  unfold Obligations.TileStatesAndResumption
  intro s b
  refine ⟨fun w gd mask => ?states, fun k hr h => ?noEffect, fun k hr hi ho => ?foreign, fun k o hr hi ho hf => ?resumes⟩
  case states =>
    intro i hr
    have he : exec i s = issue i (domGate dTile i (trdyBody w gd mask)) s := by
      cases w <;> rfl
    refine ⟨fun hw hp => exec_tile_wait he hr (if_pos ?_), fun hp => ?_⟩
    · rw [hw, (trdy_waits_iff s mask).2 hp]
      rfl
    · have hok : trdyBody w gd mask .core b s = .ok (wg b gd (trdyWord s mask)) s := if_neg fun hn => by
        obtain ⟨hw, ht⟩ := (Bool.and_eq_true _ _).mp hn
        obtain ⟨k, hk, hst⟩ := (trdy_waits_iff s mask).1 ht
        exact hp hw k hk hst
      have hg : (wg b gd (trdyWord s mask)).g[gd] = trdyWord s mask := wg_get_same ..
      refine ⟨_, exec_tile_ok he hr hok, rfl, keepsG_wg _ gd _, rfl, rfl, ?_, fun k => ?_⟩
      · exact lt_of_eq_of_lt (congrArg BitVec.toNat hg) (trdyWord_lt s mask)
      · exact (congrArg (fieldN · (2 * k.val + 1) (2 * k.val)) hg).trans (fieldN_trdyWord s mask k)
  case noEffect =>
    have hok : tresumeBody k .core b s = .ok b s := by
      by_cases hi : s.tiles[k].st = .incomplete
      · obtain ⟨ho, hn⟩ := h.resolve_left (not_not.2 hi)
        have hf : (s.ops.find? fun o => o.left && o.t == k) = none := List.find?_eq_none.2 fun o ho hl => by
          obtain ⟨hl, ht⟩ := (Bool.and_eq_true _ _).mp hl
          exact hn o ho hl (beq_iff_eq.1 ht)
        exact (tresumeBody_ended hi hf).trans (checked_passes (l := fun s => [ownFault s k]) (by simp [firstFault, ownFault_owned ho]))
      · exact tresumeBody_usable hi
    exact exec_tile_ok rfl hr hok
  case foreign => exact exec_tile_fault rfl hr (tresumeBody_foreign hi ho) (notReady_code 2 k)
  case resumes =>
    have hk : o.t = k := by
      have h := List.find?_some hf
      exact beq_iff_eq.1 ((Bool.and_eq_true _ _).mp h).2
    refine ⟨fun hring => ?_, fun hring => ?_⟩
    · exact exec_tile_fault rfl hr ((tresumeBody_failed hi hf).trans (checked_fails (resumeChecks_ring ho hring))) (notReady_code 3 k)
    · have hb := tresumeBody_resumes hi hf ho hring
      refine ⟨fun hd => ?_, fun hd hq => ?_, fun hd hq => ?_, fun hd hop honly => ?_⟩
      · exact exec_tile_wait rfl hr (hb.trans (by simp only [resumeAt, hd]))
      · exact exec_tile_wait rfl hr (hb.trans (by simp only [resumeAt, hd, hq, if_true]))
      · exact ⟨_, exec_tile_ok rfl hr (hb.trans (by simp only [resumeAt, hd, hq, Bool.true_eq_false, if_false])), retake_frame s k o⟩
      · have hfind := retake_finds (k := k) (List.mem_of_find?_eq_some hf) honly
        have hres : resumeAt k o b s = .ok b (offStop (retake s k o) (resumedOp s.tiles[k].progRows.toNat s.nextOp o)) := by
          simp only [resumeAt, hd, hfind]
        obtain ⟨htile, hother, hpend, hq⟩ := offStop_spec (s := retake s k o) (o := resumedOp s.tiles[k].progRows.toNat s.nextOp o) hop
        subst hk
        refine ⟨_, exec_tile_ok rfl hr (hb.trans hres), ?_, ?_, hpend, fun j hj => (hother j hj).trans (setTile_other s _ hj), fun hrecv => ?_⟩
        · exact congrArg Tile.st htile
        · exact congrArg Tile.progFault htile
        · obtain ⟨n, hn⟩ := hq hrecv
          exact ⟨congrArg SQueue.recv hn, (congrArg (fun x : SQueue => fieldN x.w1 4 0) hn).trans (recordOf_cause ..), congrArg SQueue.w3 hn,
            congrArg SQueue.w4 hn⟩

end Sys2Proof.Machine


namespace Sys2Proof.Machine

/-! SUPPORT. BPLANE, BSWAP and BRUN as they are accepted, and the retry of what waits for its unit (R70, R83, R84, R94, R97 to R100, R102, R119). -/

/-! ### The frame -/

/-- An instruction of the board on a tile comes to the result of its body once both units are there (R28). -/
theorem exec_boardTile {i : Instr} {body : Body} {s : State} (he : exec i s = issue i (domGate dBoard i (domGate dTile i body)) s)
    (hd : domUse s dBoard = .ready) (hr : TileReady i s) : exec i s = .next (settle i (curBank s) (body .core (curBank s) s)) :=
  exec_result he hr.1 ((domGate_ready hd).trans (domGate_ready hr.2))

theorem exec_bswap {s : State} (hd : domUse s dBoard = .ready) (hr : Ready .bswap s) :
    exec .bswap s = .next (settle .bswap (curBank s) (bswapBody .core (curBank s) s)) :=
  exec_result (body := domGate dBoard .bswap bswapBody) rfl hr (domGate_ready hd)

/-! ### The checks -/

/-- What BPLANE and BRUN check of their tile's shape, type and rows: a fault of either is tile-shape (R83, R98, R100). -/
theorem bplaneFault_code {s : State} {k : TReg} {e : Exc} (h : bplaneFault s k = some e) : e.code = 0x08 := by
  obtain ⟨n, -, rfl⟩ := Option.map_eq_some_iff.1 h
  rfl

theorem brunFault_code {s : State} {b : Bank} {k : TReg} {gr : GReg} {half : Bool} {e : Exc} (h : brunFault s b k gr half = some e) : e.code = 0x08 := by
  unfold brunFault at h
  dsimp only at h
  split at h <;> cases h <;> rfl

/-- BPLANE and BRUN check their tile, then its fitness, and wait for room; a body `accept` follows (R70, R97, R98, R100). -/
def boardTileBody (k : TReg) (chk : State → Option Exc) (accept : Body) : Body := checked (useChecks k fun s => [chk s]) (boardAccept accept)

theorem boardAccept_full {accept : Body} {k : Who} {b : Bank} {s : State} (h : boardRoom s = false) : boardAccept accept k b s = .wait s :=
  if_neg (by rw [h]; exact Bool.false_ne_true)

theorem boardAccept_room {accept : Body} {k : Who} {b : Bank} {s : State} (h : boardRoom s = true) : boardAccept accept k b s = accept k b s := if_pos h

theorem boardTileBody_accepts {k : TReg} {chk : State → Option Exc} {accept : Body} {b : Bank} {s : State} (ho : tileOwned s k)
    (hi : s.tiles[k].st ≠ .incomplete) (hc : chk s = none) (hr : boardRoom s = true) :
    boardTileBody k chk accept .core b s = accept .core b s :=
  (checked_passes (useChecks_usable ho hi (by simp [firstFault, hc]))).trans (boardAccept_room hr)

/-- The checks of a board instruction on a tile in their order, and its wait (R70, R83, R84, R97). -/
theorem boardTile_turnedAway {i : Instr} {k : TReg} {chk : State → Option Exc} {accept : Body} {s : State}
    (he : exec i s = .next (settle i (curBank s) (boardTileBody k chk accept .core (curBank s) s))) (hcode : ∀ e, chk s = some e → e.code = 0x08) :
    (¬ tileOwned s k → exec i s = .next (raise (notReady 2 k) s)) ∧
    (tileOwned s k → s.tiles[k].st = .incomplete → exec i s = .next (raise (notReady 1 k) s)) ∧
    (tileOwned s k → s.tiles[k].st ≠ .incomplete → ∀ e, chk s = some e → e.code = 0x08 ∧ exec i s = .next (raise e s)) ∧
    (tileOwned s k → s.tiles[k].st ≠ .incomplete → chk s = none → boardRoom s = false → exec i s = .next { s with stall := some i }) := by
  have hfault {e : Exc} (h : firstFault (useChecks k fun s => [chk s]) s = some e) (hw : e.code ≠ waitCode) : exec i s = .next (raise e s) := by
    rw [he, boardTileBody, checked_fails h, settle_exc hw, setCur_curBank]
  refine ⟨fun ho => hfault (useChecks_foreign _ ho) (notReady_code 2 k), fun ho hi => hfault (useChecks_incomplete _ ho hi) (notReady_code 1 k),
    fun ho hi e hc => ⟨hcode e hc, hfault (useChecks_usable ho hi (by simp [firstFault, hc])) ?_⟩, fun ho hi hc hr => ?_⟩
  · rw [hcode e hc]
    decide
  · rw [he, boardTileBody, checked_passes (useChecks_usable ho hi (by simp [firstFault, hc])), boardAccept_full hr, settle_wait]

/-! ### What is accepted -/

/-- BPLANE's operation and the idle record that takes its tile (R94, R98). -/
def planeOp (k : TReg) (b : Bank) (s : State) : Op := { newOp .bplane b s with t := k, n := tileRows (accTile s k) }

def planeRec (s : State) (k : TReg) : PlaneRec := ⟨true, (accTile s k).etype, (accTile s k).rbm1, (accTile s k).mx, tileRows (accTile s k)⟩

def planeRecorded (s : State) (k : TReg) : State :=
  { s with bd := { s.bd with acc := s.bd.acc.set (s.bd.accActive + 1).val (planeRec s k) (s.bd.accActive + 1).isLt } }

def planeAccept (k : TReg) : Body := fun _ b s => .ok b (acceptOp (planeRecorded s k) (planeOp k b s))

/-- BSWAP's exchange of the records (R99). -/
def recordsSwapped (s : State) : State := { s with bd := { s.bd with accActive := s.bd.accActive + 1 } }

/-- BRUN's operation (R100). -/
def runOp (k : TReg) (gr : GReg) (acc : BitVec 2) (half : Bool) (b : Bank) (s : State) : Op :=
  { newOp .brun b s with t := k, base := inkBase b gr, n := tileRows (accTile s k), semi := semiOf b, wr := acc == 1, half := half }

def runAccept (k : TReg) (gr : GReg) (acc : BitVec 2) (half : Bool) : Body := fun _ b s => .ok b (acceptOp s (runOp k gr acc half b s))

theorem exec_bplane {k : TReg} {s : State} (hd : domUse s dBoard = .ready) (hr : TileReady (.bplane k) s) : exec (.bplane k) s =
    .next (settle (.bplane k) (curBank s) (boardTileBody k (bplaneFault · k) (planeAccept k) .core (curBank s) s)) :=
  exec_boardTile rfl hd hr

theorem exec_brun {k : TReg} {gr : GReg} {acc : BitVec 2} {half : Bool} {s : State} (hd : domUse s dBoard = .ready)
    (hr : TileReady (.brun k gr acc half) s) : exec (.brun k gr acc half) s = .next (settle (.brun k gr acc half) (curBank s)
      (boardTileBody k (brunFault · (curBank s) k gr half) (runAccept k gr acc half) .core (curBank s) s)) :=
  exec_boardTile (body := brunBody k gr acc half) rfl hd hr

theorem bswapBody_accepts {b : Bank} {s : State} (h : boardRoom s = true) : bswapBody .core b s =
    .ok b (acceptOp (recordsSwapped s) (newOp .bswap b s)) := boardAccept_room h

/-- The record of the plane that is idle, and the other one, after BPLANE (R94). -/
theorem idleRecord_set (b : Board) (p : PlaneRec) : let acc := b.acc.set (b.accActive + 1).val p (b.accActive + 1).isLt
    acc[b.accActive + 1] = p ∧ acc[b.accActive] = b.acc[b.accActive] := by
  have hne : (b.accActive + 1).val ≠ b.accActive.val := by
    intro h
    omega
  simp [hne]

/-! ### The retry -/

/-- TILE_OP_ACCEPT executes the instruction that waits for its unit (R70, R97, R163, R187). -/
theorem tileOpAccept_retries {i : Instr} {s : State} (h : s.stall = some i) (hw : waitsForUnit i = true) : exec .tileOpAccept s = exec i s := by
  have he : exec .tileOpAccept s = execTileOpAccept s := rfl
  rw [he, execTileOpAccept, h]
  cases i with
  | tld | tst | tresume | bplane | bswap | brun | iclr | idrainTile | idrainMemory | smove | slaunch => rfl
  | _ => cases hw

theorem tileOpAccept_idle {s : State} (hl : Live s) (h : s.stall = none) : exec .tileOpAccept s = .next s := by
  have he : exec .tileOpAccept s = execTileOpAccept s := rfl
  rw [he, execTileOpAccept, h]
  exact event_live hl none

/-- Settles O36: the checks in their order, then the operation taken last with what its instruction names; a full board keeps it waiting. -/
theorem boardOperationsAreAccepted : Obligations.BoardOperationsAreAccepted := by
  unfold Obligations.BoardOperationsAreAccepted
  refine ⟨?operations, fun s => ⟨fun hr hd hfull => ?full, fun i => tileOpAccept_retries, tileOpAccept_idle, fun hr hst hd hroom => ?retry⟩⟩
  case operations =>
    intro s b hd
    refine ⟨fun i k chk hi hr => ?turnedAway, fun hroom => ⟨fun k hr ho hi hc => ?plane, fun hr => ?swap, fun k gr acc half hr ho hi hc => ?run⟩⟩
    case turnedAway =>
      obtain ⟨rfl, rfl⟩ | ⟨gr, acc, half, rfl, rfl⟩ := hi
      · exact boardTile_turnedAway (exec_bplane hd hr) fun _ => bplaneFault_code
      · exact boardTile_turnedAway (exec_brun hd hr) fun _ => brunFault_code
    case plane =>
      obtain ⟨hidle, hactive⟩ := idleRecord_set s.bd (planeRec s k)
      refine ⟨acceptOp (planeRecorded s k) (planeOp k b s), takenOp (planeRecorded s k) (planeOp k b s), ?_,
        ⟨rfl, rfl, rfl, rfl⟩, rfl, rfl, rfl, rfl, hidle, hactive⟩
      rw [exec_bplane hd hr, boardTileBody_accepts ho hi hc hroom]
      rfl
    case swap =>
      refine ⟨acceptOp (recordsSwapped s) (newOp .bswap b s), takenOp (recordsSwapped s) (newOp .bswap b s), ?_, ⟨rfl, rfl, rfl, rfl⟩, rfl, rfl⟩
      rw [exec_bswap hd hr, bswapBody_accepts hroom, settle_ok]
    case run =>
      refine ⟨acceptOp s (runOp k gr acc half b s), takenOp s (runOp k gr acc half b s), ?_, ⟨rfl, rfl, rfl, rfl⟩, rfl, rfl, rfl, rfl, ?_,
        beq_eq_decide .., rfl, rfl, rfl⟩
      · rw [exec_brun hd hr, boardTileBody_accepts ho hi hc hroom]
        rfl
      · exact Nat.mod_eq_of_lt (fieldN_lt b.bmode 2 0)
  case full =>
    have hroom : boardRoom s = false := decide_eq_false (Nat.not_lt.2 hfull)
    rw [exec_bswap hd hr, bswapBody, boardAccept_full hroom, settle_wait]
  case retry =>
    refine ⟨after (acceptOp (recordsSwapped s) (newOp .bswap (curBank s) s))
      { curBank s with pc := (curBank s).pc + BitVec.ofNat 64 (instrBytes .bswap) },
      ?_, rfl, rfl, ?_, ?_, ?_⟩
    · rw [tileOpAccept_retries hst rfl, exec_bswap hd hr, bswapBody_accepts hroom, settle_ok]
    · exact List.length_append
    · have hbytes : instrBytes .bswap = 8 := by decide
      simp [after, curBank, hbytes]
    · simp [after, curBank]

end Sys2Proof.Machine


namespace Sys2Proof.Machine

/-! SUPPORT. Where nothing is injected, nothing becomes injected: records, translations and stream reads arm no injection and plant no flip (R341). -/

theorem uninjected_ite {s t : State} {p : Prop} [Decidable p] (h1 : NoInjection s) (h2 : NoInjection t) : NoInjection (if p then s else t) := by
  split
  · exact h1
  · exact h2

theorem uninjected_foldl {α : Type} {f : State → α → State} (hf : ∀ s a, NoInjection s → NoInjection (f s a)) (l : List α) {s : State}
    (h : NoInjection s) : NoInjection (l.foldl f s) := foldl_keeps NoInjection f hf l s h

theorem injKind_uninjected {s : State} (h : NoInjection s) (unit : Byte) : injKind s unit = 0 := by
  rw [injKind, h.2]
  rfl

/-! ### Records -/

theorem wakeRequest_uninjected {s : State} (h : NoInjection s) (d : Fin 32) : NoInjection (wakeRequest s d) := by
  rw [wakeRequest_doms]
  exact h

theorem pend_uninjected {s : State} (h : NoInjection s) (v : Byte) : NoInjection (pend s v) :=
  wakeRequest_uninjected (s := setPending s v true) h dCore

theorem noteCheck_uninjected {s : State} (h : NoInjection s) (unit : Byte) (sev : Nat) (loc : W64) : NoInjection (noteCheck s unit sev loc) :=
  uninjected_ite h (uninjected_ite h (uninjected_ite h h))

theorem driveLine_uninjected {s : State} (h : NoInjection s) (sev : Nat) : NoInjection (driveLine s sev) :=
  pend_uninjected (s := { s with err := { s.err with corr := s.err.corr || sev == 0, fatal := s.err.fatal || 2 ≤ sev } }) h _

theorem clearSpot_uninjected {s : State} (h : NoInjection s) (unit : Byte) (loc : Nat) : NoInjection (clearSpot s unit loc) :=
  ⟨congrArg (List.filter _) h.1, h.2⟩

theorem postRecord_uninjected {s : State} (h : NoInjection s) (cls unit : Byte) (sev : BitVec 2) (loc : W64) (synd : BitVec 24) (inj : Bool)
    (extra : BitVec 16) : NoInjection (postRecord s cls unit sev loc synd inj extra) := by
  have hset {t : State} (ht : NoInjection t) (r : BitVec 256) : NoInjection (setErrLast t r) := ht
  refine uninjected_ite ?_ ?_
  · exact driveLine_uninjected (noteCheck_uninjected (hset (by exact h) _) ..) _
  · exact driveLine_uninjected (noteCheck_uninjected (hset (uninjected_ite (by exact h) (by exact h)) _) ..) _

theorem meetSingle_uninjected {s : State} (h : NoInjection s) (unit : Byte) (spot loc : Nat) : NoInjection (meetSingle s unit spot loc) :=
  uninjected_ite (postRecord_uninjected (clearSpot_uninjected h ..) ..) h

/-- A read meets no flip where there is none. -/
theorem meetSpots_uninjected {s : State} (h : NoInjection s) (coh : Bool) (pa n : Nat) : meetSpots s coh pa n = s := by
  rw [meetSpots, h.1]
  rfl

theorem postLine_uninjected {s : State} (h : NoInjection s) (coh : Bool) (pa : Nat) (la : BitVec 50) : NoInjection (postLine s coh pa la) := by
  unfold postLine
  split <;> exact postRecord_uninjected h ..

theorem readCheck_uninjected {s : State} (h : NoInjection s) (coh : Bool) (pa n : Nat) : NoInjection (readCheck s coh pa n).1 := by
  unfold readCheck
  rw [meetSpots_uninjected h]
  dsimp only
  split
  · exact h
  · exact uninjected_ite (uninjected_foldl (fun _ _ hs => postRecord_uninjected hs ..) _ h)
      (uninjected_foldl (fun _ _ hs => postLine_uninjected hs ..) _ h)

/-! ### Lines -/

theorem setL2Line_uninjected {s : State} (h : NoInjection s) (k : Nat) (l : L2Line) (dws : List Nat) : NoInjection (setL2Line s k l dws) := by
  have h1 : NoInjection { s with ca := { s.ca with l2 := spSet none s.ca.l2 k (some l) } } := h
  unfold setL2Line
  dsimp only
  rw [h.1, if_pos List.isEmpty_nil, injKind_uninjected h1, if_neg (by decide)]
  exact h1

theorem writeMem_uninjected {s : State} (h : NoInjection s) (pa : Nat) (bs : List Byte) : NoInjection (writeMem s pa bs) := h

theorem putMemLine_uninjected {s : State} (h : NoInjection s) (la : BitVec 50) (p : Bool) (d : LineWord) : NoInjection (putMemLine s la p d) := by
  have h1 := writeMem_uninjected h (64 * la.toNat) ((List.range 64).map (lineByte d))
  unfold putMemLine
  dsimp only
  generalize writeMem s (64 * la.toNat) ((List.range 64).map (lineByte d)) = x at h1 ⊢
  exact uninjected_ite h1 h1

theorem flushL1d_uninjected {s : State} (h : NoInjection s) (la : BitVec 50) : NoInjection (flushL1d s la) := by
  unfold flushL1d
  split
  · exact h
  · refine uninjected_ite ?_ h
    split
    · exact setL2Line_uninjected (by exact h) ..
    · exact putMemLine_uninjected (by exact h) ..

theorem dropInner_uninjected {s : State} (h : NoInjection s) (la : BitVec 50) : NoInjection (dropInner s la) := h

theorem evictL2_uninjected {s : State} (h : NoInjection s) (la : BitVec 50) : NoInjection (evictL2 s la) := by
  have h1 := dropInner_uninjected (flushL1d_uninjected h la) la
  unfold evictL2
  dsimp only
  split
  · exact h1
  · exact uninjected_ite (putMemLine_uninjected (by exact h1) ..) h1

theorem bringL2_uninjected {s : State} (h : NoInjection s) (la : BitVec 50) (own : Bool) : NoInjection (bringL2 s la own) := by
  have htouch {t : State} (ht : NoInjection t) (k : Nat) : NoInjection (touchL2 t k) := ht
  unfold bringL2
  split
  · exact h
  · refine uninjected_ite (htouch (setL2Line_uninjected ?_ ..) _) h
    split
    · exact show NoInjection (unbuffer _ _) from evictL2_uninjected h _
    · exact h

theorem fillL2_uninjected {s : State} (h : NoInjection s) (la : BitVec 50) (own : Bool) : NoInjection (fillL2 s la own) :=
  bringL2_uninjected (uninjected_ite (dropInner_uninjected h la) h) ..

/-! ### Writes -/

theorem writeVellum_uninjected {s : State} (h : NoInjection s) (o : Nat) (bs : List Byte) : NoInjection (writeVellum s o bs) := by
  have hkind {t : State} (ht : NoInjection t) (n : Nat) : injVellum t o n = t := by
    rw [injVellum, injKind_uninjected ht]
    rfl
  have hfresh : NoInjection (freshVellum { s with
      vellum := spSetAll 0 s.vellum o bs
      vellumBad := s.vellumBad.filter fun w => !(o ≤ 8 * w && 8 * w + 8 ≤ o + bs.length) } o bs.length) := ⟨congrArg (List.filter _) h.1, h.2⟩
  rw [writeVellum, hkind hfresh]
  exact hfresh

theorem writeLine_uninjected {s : State} (h : NoInjection s) (pa : Nat) (bs : List Byte) : NoInjection (writeLine s pa bs) := by
  have h1 := dropInner_uninjected (flushL1d_uninjected h (lineNo pa)) (lineNo pa)
  unfold writeLine
  dsimp only
  split
  · exact show NoInjection (setL2Line ..) from setL2Line_uninjected h1 ..
  · exact h1

theorem typedWrite_uninjected {s : State} (h : NoInjection s) (ag : Agent) (ty : MType) (pa : Nat) (bs : List Byte) :
    NoInjection (typedWrite s ag ty pa bs) := by
  have hraw {t : State} (ht : NoInjection t) : NoInjection (rawWrite t pa bs) := uninjected_ite (writeVellum_uninjected ht ..) ht
  have hcoh : NoInjection (cohWrite s pa bs) :=
    uninjected_foldl (fun _ _ hs => uninjected_ite (writeVellum_uninjected hs ..) (writeLine_uninjected hs ..)) _ h
  exact uninjected_ite (hraw (uninjected_foldl (fun _ _ hs => evictL2_uninjected hs _) _ h)) (uninjected_ite hcoh (hraw h))

theorem markDirty_uninjected {s : State} (h : NoInjection s) (pa n : Nat) : NoInjection (markDirty s pa n) := by
  rw [show markDirty s pa n = _ from markDirty_vellumOnly s pa n]
  exact h

theorem meetMerge_uninjected {s : State} (h : NoInjection s) (o n : Nat) : NoInjection (meetMerge s o n) :=
  uninjected_foldl (fun _ _ hs => uninjected_ite (postRecord_uninjected hs ..) (meetSingle_uninjected hs ..)) _ h

theorem agentWrite_uninjected {s : State} (h : NoInjection s) (ag : Agent) (ty : MType) (pa : Nat) (bs : List Byte) :
    NoInjection (agentWrite s ag ty pa bs) := by
  have hw := markDirty_uninjected (typedWrite_uninjected (uninjected_ite (p := inVellum s pa = true) (meetMerge_uninjected h (vOff s pa) bs.length) h)
    ag ty pa bs) pa bs.length
  have hport {t : State} (ht : NoInjection t) (p : PortNum) : NoInjection (notePort t ag p) := ht
  exact uninjected_ite (uninjected_foldl (f := (notePort · ag ·)) (fun _ _ hs => hport hs _) _ hw) hw

theorem askGranules_uninjected {s : State} (h : NoInjection s) (gs : List Nat) : NoInjection (askGranules s gs) := by
  unfold askGranules
  split <;> exact h

/-! ### Translations -/

theorem setTlb_uninjected {s : State} (h : NoInjection s) (sel : TlbSel) (l : List TlbEntry) : NoInjection (setTlb s sel l) := by
  cases sel <;> exact h

theorem installIn_uninjected {s : State} (h : NoInjection s) (sel : TlbSel) (e : TlbEntry) (va : W64) : NoInjection (installIn s sel e va) := by
  cases sel <;> exact h

theorem walkRead_uninjected {s : State} (h : NoInjection s) (a : Nat) (ty : BitVec 2) : NoInjection (walkRead s a ty).1 := by
  have hc := readCheck_uninjected h (ty = 0) a 8
  unfold walkRead
  split
  · next e => rwa [e] at hc
  · next e =>
    rw [e] at hc
    exact uninjected_ite (fillL2_uninjected hc ..) hc

theorem walkFrom_uninjected (ak : Ak) (ring : BitVec 2) (ttb va : W64) (level table : Nat) (ty : BitVec 2) {s : State} (h : NoInjection s) (n : Nat) :
    NoInjection (walkState (walkFrom ak ring ttb va level table ty s n)) := by
  induction n generalizing level table ty s with
  | zero => exact h
  | succ n ih =>
    have hr := walkRead_uninjected h (descAddr table level va) ty
    unfold walkFrom
    split
    · exact h
    dsimp only
    split
    · next e => rwa [e] at hr
    · next s1 d e =>
      rw [e] at hr
      split
      · exact hr
      · exact ih _ _ _ (show NoInjection (walkCacheAdd ..) from uninjected_ite hr hr)
      · split
        · exact hr
        split
        · exact agentWrite_uninjected hr ..
        · exact askGranules_uninjected hr _

theorem walk_uninjected (sel : TlbSel) (ak : Ak) (ring : BitVec 2) (ttb va : W64) {s : State} (h : NoInjection s) :
    NoInjection (walk sel ak ring ttb va s).state := by
  have hw (level table : Nat) (ty : BitVec 2) (n : Nat) := walkFrom_uninjected ak ring ttb va level table ty h n
  unfold walk
  split
  · exact h
  dsimp only
  split
  · next e => exact (congrArg (NoInjection ∘ walkState) e).mp (hw ..)
  · next e => exact show NoInjection (installIn ..) from installIn_uninjected ((congrArg (NoInjection ∘ walkState) e).mp (hw ..)) ..

theorem translate_uninjected (sel : TlbSel) (ak : Ak) (ring : BitVec 2) (ttb va : W64) {s : State} (h : NoInjection s) :
    NoInjection (translate sel ak ring ttb va s).state := by
  unfold translate
  split
  · exact h
  split
  · exact h
  dsimp only
  split
  · split
    · exact h
    · exact walk_uninjected sel ak ring ttb va (setTlb_uninjected h ..)
  · split
    · split
      · exact installIn_uninjected h ..
      · exact walk_uninjected sel ak ring ttb va (by exact h)
    · exact walk_uninjected sel ak ring ttb va h

/-! ### Stream reads -/

theorem streamXlate_uninjected (cap : Capture) (data write : Bool) (va : W64) {s : State} (h : NoInjection s) :
    NoInjection (streamXlate cap data write va s).1 := by
  have ht := translate_uninjected .stream (if write then .store else .load) cap.ring cap.ttb va h
  unfold streamXlate
  split
  · next e => rwa [e] at ht
  · next e =>
    rw [e] at ht
    split
    · exact ht
    split
    · exact ht
    split
    · exact ht
    split
    · exact wakeRequest_uninjected ht _
    · exact ht

theorem accessCheck_uninjected {s : State} (h : NoInjection s) (coh : Bool) (pa n : Nat) : NoInjection (accessCheck s coh pa n).1 := by
  unfold accessCheck
  split
  · exact uninjected_foldl (fun _ _ hs => postRecord_uninjected hs ..) _ h
  · exact readCheck_uninjected h ..

theorem touchHit_uninjected {s : State} (h : NoInjection s) (la : BitVec 50) : NoInjection (touchHit s la) := by
  unfold touchHit
  split <;> exact h

end Sys2Proof.Machine


namespace Sys2Proof.Machine

/-! SUPPORT. The ends of tile operations: transfers whose rows are complete, TZERO, TREL and TMOV as they are performed (R68, R74, R75, R77, R78, R82). -/

/-! ### The operation at work -/

theorem liveTransfer_spec {s : State} {k : TReg} {o : Op} (h : liveTransfer s k = some o) :
    o ∈ s.ops ∧ tileOp o = true ∧ o.t = k ∧ o.left = false := by
  have hp := List.find?_some h
  simp only [opLive, Bool.and_eq_true, Bool.or_eq_true, beq_iff_eq, Bool.not_eq_true'] at hp
  obtain ⟨⟨hop, ht⟩, hl⟩ := hp
  exact ⟨List.mem_of_find?_eq_some h, hop, ht, hl.elim (fun ⟨⟨⟨_, hl⟩, _⟩, _⟩ => hl) And.left⟩

/-- No operation that is left writes a tile or has failed on it. -/
def tileOver (s : State) (k : TReg) : Prop := ∀ x ∈ s.ops, (x.left && opNames x k) = false ∧ opWrites x k = false

/-- With no operation left that writes it or has failed on it, a tile settles to its base (R68). -/
theorem settleTile_over {s : State} {k : TReg} (h : tileOver s k) (base : TileState) : (settleTile s k base).tiles[k].st = base := by
  have hf : (s.ops.any fun o => o.left && opNames o k) = false := List.any_eq_false.2 fun o ho => by simp [(h o ho).1]
  have hw : s.ops.any (opWrites · k) = false := List.any_eq_false.2 fun o ho => by simp [(h o ho).2]
  have he : (s.ops.any fun o => (o.kind == .tzero || o.kind == .trel) && opWrites o k) = false := List.any_eq_false.2 fun o ho => by simp [(h o ho).2]
  simp [settleTile, hf, hw, he]

/-- An operation that is done names no tile (R68). -/
theorem done_names {x : Op} (h : x.done = true) (k : TReg) : opNames x k = false ∧ opWrites x k = false := by
  simp [opNames, opReads, opWrites, h]

/-! ### Transfers -/

/-- An operation that is complete but for its posting (R164). -/
def doneOp (x : Op) : Op := { x with done := true }

theorem finishQueued_posted (s : State) (o : Op) : posted (updOp s o.id doneOp) (finishQueued s o) := postQueue_posted ..

theorem mem_updOp {s : State} {id : Nat} {f : Op → Op} {x : Op} (h : x ∈ (updOp s id f).ops) :
    (∃ y ∈ s.ops, y.id = id ∧ x = f y) ∨ (x ∈ s.ops ∧ x.id ≠ id) := by
  obtain ⟨y, hy, hx⟩ := List.mem_map.1 h
  by_cases hid : y.id = id
  · exact .inl ⟨y, hy, hid, by rw [← hx, if_pos hid]⟩
  · rw [if_neg hid] at hx
    subst hx
    exact .inr ⟨hy, hid⟩

/-- The tile of a transfer that has ended (R74, R82). -/
def endedTile (x : Tile) (o : Op) : Tile := { x with progOp := 0, progRows := BitVec.ofNat 11 o.n }

theorem endTransfer_frame (s : State) (k : TReg) (o : Op) : let t := endTransfer s k o
    t = { s with tiles := t.tiles, ops := t.ops, sq := t.sq } ∧ otherTilesKept s t k ∧ t.tiles[k] = endedTile s.tiles[k] o := by
  obtain ⟨he, -⟩ := finishQueued_posted (setTile s k (endedTile s.tiles[k] o)) o
  have ht : (endTransfer s k o).tiles = (setTile s k (endedTile s.tiles[k] o)).tiles := congrArg (·.tiles) he
  refine ⟨he.trans (by rw [ht]; rfl), fun j hj => ?_, ?_⟩
  · rw [ht]
    exact setTile_other s _ hj
  · rw [ht]
    exact setTile_same ..

/-- With no other writer, nothing is left on the tile of a transfer that has ended (R68). -/
theorem endTransfer_over {s : State} {k : TReg} {o : Op} (h : noOtherWriter s o k) : tileOver (endTransfer s k o) k := by
  intro x hx
  obtain ⟨-, -, hsub⟩ := finishQueued_posted (setTile s k (endedTile s.tiles[k] o)) o
  obtain ⟨y, -, -, rfl⟩ | ⟨hm, hid⟩ := mem_updOp (hsub x hx)
  · obtain ⟨hn, hw⟩ := done_names (x := doneOp y) rfl k
    exact ⟨by rw [hn, Bool.and_false], hw⟩
  · obtain ⟨hw, hl⟩ := h x hm hid
    exact ⟨by rw [hl, Bool.false_and], hw⟩

/-- A transfer that ends: TPROG shows all its rows, which stay, and the tile settles (R68, R74, R82). The nib cache may be as it likes: a load drops
its tile's rows from it, a store does not. -/
theorem transferEnds {s u : State} {k : TReg} {o : Op} (base : TileState) (hu : u = { endTransfer s k o with nib := u.nib }) : let t := settleTile u k base
    t.tiles[k].progOp = 0 ∧ t.tiles[k].progRows = BitVec.ofNat 11 o.n ∧ t.tiles[k].rows = s.tiles[k].rows ∧ otherTilesKept s t k ∧ tileOnly s t ∧
      (noOtherWriter s o k → t.tiles[k].st = base) := by
  obtain ⟨he, hother, htile⟩ := endTransfer_frame s k o
  have htiles : u.tiles = (endTransfer s k o).tiles := by rw [hu]
  have hops : u.ops = (endTransfer s k o).ops := by rw [hu]
  obtain ⟨hf, ho, -⟩ := settleTile_spec u k base
  have hk := settleTile_tile u k base
  rw [show u.tiles[k] = endedTile s.tiles[k] o by rw [← htile, htiles]] at hk
  refine ⟨by rw [hk]; rfl, by rw [hk]; rfl, by rw [hk]; rfl, fun j hj => ?_, ?_, fun hn => settleTile_over (fun x hx => ?_) base⟩
  · rw [ho j hj, htiles, hother j hj]
  · rw [tileOnly, hf, hu, he]
  · exact endTransfer_over hn x (hops ▸ hx)

/-- What TLD_COMPLETE comes to (R74, R82, R87). -/
theorem exec_tldComplete {s : State} {k : TReg} {o : Op} (hl : Live s) (h : liveTransfer s k = some o) (hk : o.kind = .tld) :
    exec (.tldComplete k) s = .next (if o.n ≤ o.prog then settleTile (nibDrop (endTransfer s k o) k fun _ => true) k .ready else s) := by
  have he : exec (.tldComplete k) s = execTldComplete k s := rfl
  rw [he, execTldComplete, event_live hl, h, Option.bind_some]
  by_cases hn : o.n ≤ o.prog
  · rw [if_pos ⟨hk, hn⟩, if_pos hn]
    rfl
  · rw [if_neg fun hc => hn hc.2, if_neg hn]
    rfl

/-- The state that a TST leaves its tile in when no writer remains: READY where it had been resumed (R75, R80). -/
def storeBase (s : State) (k : TReg) : TileState := if s.tiles[k].st == .pending && !s.ops.any (opWrites · k) then .ready else s.tiles[k].base

/-- What TST_COMPLETE comes to (R75). -/
theorem exec_tstComplete {s : State} {k : TReg} {o : Op} (hl : Live s) (h : liveTransfer s k = some o) (hk : o.kind = .tst) :
    exec (.tstComplete k) s = .next (if o.n ≤ o.prog then settleTile (endTransfer s k o) k (storeBase s k) else settleLines s) := by
  have he : exec (.tstComplete k) s = execTstComplete k s := rfl
  rw [he, execTstComplete, event_live hl, h, Option.bind_some]
  by_cases hn : o.n ≤ o.prog
  · rw [if_pos ⟨hk, hn⟩, if_pos hn]
    rfl
  · rw [if_neg fun hc => hn hc.2, if_neg hn]
    rfl

theorem storeBase_alone {s : State} {k : TReg} {o : Op} (hk : o.kind = .tst) (ho : onlyOp s o) (hn : noOtherWriter s o k) :
    storeBase s k = if s.tiles[k].st = .pending then .ready else s.tiles[k].base := by
  have hw : s.ops.any (opWrites · k) = false := List.any_eq_false.2 fun x hx => by
    by_cases hid : x.id = o.id
    · simp [ho x hx hid, opWrites, hk]
    · simp [(hn x hx hid).1]
  simp [storeBase, hw]

/-! ### TZERO and TREL -/

theorem tileRecords_trans {s t u : State} (h1 : tileRecords s t) (h2 : tileRecords t u) : tileRecords s u := by
  unfold tileRecords at *
  rw [h2, h1]

/-- A tile cleared by a TZERO or TREL, which is over (R77). -/
def clearedBy (s : State) (k : TReg) (o : Op) (base : TileState) : State := settleTile (clearTile (dropOp s o.id) k) k base

theorem dropOp_over {s t : State} {k : TReg} {o : Op} (ht : t.ops = (dropOp s o.id).ops) (h : noOtherWriter s o k) : tileOver t k := by
  intro x hx
  rw [ht] at hx
  obtain ⟨hm, hid⟩ := List.mem_filter.1 hx
  obtain ⟨hw, hl⟩ := h x hm (bne_iff_ne.1 hid)
  exact ⟨by rw [hl, Bool.false_and], hw⟩

theorem clearedBy_spec (s : State) (k : TReg) (o : Op) (base : TileState) : let t := clearedBy s k o base
    tileRecords s t ∧ otherTilesKept s t k ∧ t.ops = s.ops.filter (fun x => x.id != o.id) ∧
      (NoInjection s → t.tiles[k].rows = [] ∧ t.tiles[k].scales = []) ∧ (noOtherWriter s o k → t.tiles[k].st = base) := by
  obtain ⟨hc, hother, -⟩ := clearTile_rowStored (dropOp s o.id) k
  obtain ⟨hf, ho, hrows, hscales⟩ := settleTile_spec (clearTile (dropOp s o.id) k) k base
  have hops : (clearTile (dropOp s o.id) k).ops = (dropOp s o.id).ops := by rw [hc]
  refine ⟨?_, fun j hj => (ho j hj).trans (hother j hj), ?_, fun hn => ?_, fun hn => settleTile_over (dropOp_over hops hn) base⟩
  · rw [tileRecords, clearedBy, hf, hc]
    rfl
  · rw [clearedBy, hf]
    exact hops
  · obtain ⟨h1, h2⟩ := clearTile_contents (s := dropOp s o.id) hn k
    exact ⟨hrows.trans h1, hscales.trans h2⟩

/-! ### TMOV -/

theorem tileMeetRows_rowsRead (s : State) (t : TReg) (rows : List Nat) : rowsRead s (tileMeetRows s t rows) :=
  rowsRead_ite rfl (foldl_keeps (rowsRead s) _ (fun _ _ h => rowsRead_trans h (tileMeet_rowsRead ..)) _ _ rfl)

theorem tileMeetRows_uninjected {s : State} (h : NoInjection s) (t : TReg) (rows : List Nat) : NoInjection (tileMeetRows s t rows) := by
  have hm {u : State} (hu : NoInjection u) (r : Nat) (ws : List Nat) : NoInjection (tileMeet u t r ws) :=
    uninjected_ite hu (uninjected_foldl (fun _ _ hs => uninjected_ite (postRecord_uninjected hs ..) (meetSingle_uninjected hs ..)) _ hu)
  exact uninjected_ite h (uninjected_foldl (fun _ _ hs => hm hs _ _) _ h)

/-- Two tiles have one descriptor (R64). -/
def sameDesc (x y : Tile) : Prop := y.rowsm1 = x.rowsm1 ∧ y.rbm1 = x.rbm1 ∧ y.etype = x.etype ∧ y.mx = x.mx

theorem sameDesc_trans {x y z : Tile} (h1 : sameDesc x y) (h2 : sameDesc y z) : sameDesc x z :=
  ⟨h2.1.trans h1.1, h2.2.1.trans h1.2.1, h2.2.2.1.trans h1.2.2.1, h2.2.2.2.trans h1.2.2.2⟩

/-- An injected flip leaves the descriptor. -/
theorem tileStrike_desc (s : State) (k : TReg) (row : Nat) (ws : List Nat) : sameDesc s.tiles[k] (tileStrike s k row ws).tiles[k] := by
  unfold tileStrike
  dsimp only
  split
  · exact ⟨rfl, rfl, rfl, rfl⟩
  · split
    · exact ⟨rfl, rfl, rfl, rfl⟩
    · split <;> rw [setTile_same] <;> exact ⟨rfl, rfl, rfl, rfl⟩

/-- A tile that takes descriptor and contents of another (R78). -/
def copiedTile (y x : Tile) : Tile :=
  { y with rowsm1 := x.rowsm1, rbm1 := x.rbm1, etype := x.etype, mx := x.mx, rows := x.rows, scales := x.scales, bad := x.bad }

/-- The source met by the copy (R329). -/
def sourceMet (s : State) (o : Op) : State := tileMeetRows s o.ts (List.range (tileRows s.tiles[o.ts]))

/-- The destination with its copy. -/
def copied (s : State) (k : TReg) (o : Op) : State :=
  setTile (dropOp (sourceMet s o) o.id) k (copiedTile (sourceMet s o).tiles[k] s.tiles[o.ts])

/-- The copy as the selected injection may strike it (R341). -/
def copyStruck (s : State) (k : TReg) (o : Op) : State :=
  if bit (copied s k o).c.errinj 12 then
    (List.range (tileRows s.tiles[o.ts])).foldl (fun u r => tileStrike u k r (allWords s.tiles[o.ts])) (copied s k o)
  else copied s k o

/-- A TMOV performed (R78). -/
def copyDone (s : State) (k : TReg) (o : Op) : State := settleTile (nibDrop (copyStruck s k o) k fun _ => true) k s.tiles[o.ts].base

theorem copyStruck_spec (s : State) (k : TReg) (o : Op) : rowStored k (copied s k o) (copyStruck s k o) ∧
    sameDesc (copied s k o).tiles[k] (copyStruck s k o).tiles[k] ∧ (NoInjection s → copyStruck s k o = copied s k o) := by
  have hrefl : rowStored k (copied s k o) (copied s k o) ∧ sameDesc (copied s k o).tiles[k] (copied s k o).tiles[k] :=
    ⟨rowStored_refl .., rfl, rfl, rfl, rfl⟩
  unfold copyStruck
  split
  · next hb =>
    obtain ⟨h1, h2⟩ := foldl_keeps (fun u => rowStored k (copied s k o) u ∧ sameDesc (copied s k o).tiles[k] u.tiles[k])
      (fun u r => tileStrike u k r (allWords s.tiles[o.ts]))
      (fun _ _ h => ⟨rowStored_trans h.1 (tileStrike_rowStored ..), sameDesc_trans h.2 (tileStrike_desc ..)⟩)
      (List.range (tileRows s.tiles[o.ts])) _ hrefl
    refine ⟨h1, h2, fun hn => ?_⟩
    have hi : bit (copied s k o).c.errinj 12 = false := (tileMeetRows_uninjected hn _ _).2
    rw [hi] at hb
    cases hb
  · exact ⟨hrefl.1, hrefl.2, fun _ => rfl⟩

theorem copyDone_spec {s : State} {k : TReg} {o : Op} : let t := copyDone s k o
    tileRecords s t ∧ otherTilesKept s t k ∧ t.ops = s.ops.filter (fun x => x.id != o.id) ∧ sameDesc s.tiles[o.ts] t.tiles[k] ∧
      (NoInjection s → t.tiles[k].rows = s.tiles[o.ts].rows ∧ t.tiles[k].scales = s.tiles[o.ts].scales) ∧
      (noOtherWriter s o k → t.tiles[k].st = s.tiles[o.ts].base) := by
  have hm := tileMeetRows_rowsRead s o.ts (List.range (tileRows s.tiles[o.ts]))
  have hmt : (sourceMet s o).tiles = s.tiles := congrArg (·.tiles) hm
  have hmo : (sourceMet s o).ops = s.ops := congrArg (·.ops) hm
  obtain ⟨⟨hs, hso, -⟩, hdesc, hsame⟩ := copyStruck_spec s k o
  have htile : (copied s k o).tiles[k] = copiedTile (sourceMet s o).tiles[k] s.tiles[o.ts] := setTile_same ..
  have hops : (copyStruck s k o).ops = (dropOp s o.id).ops := by
    rw [hs]
    exact congrArg (List.filter fun x => x.id != o.id) hmo
  obtain ⟨hf, ho, hrows, hscales⟩ := settleTile_spec (nibDrop (copyStruck s k o) k fun _ => true) k s.tiles[o.ts].base
  have hk := settleTile_tile (nibDrop (copyStruck s k o) k fun _ => true) k s.tiles[o.ts].base
  refine ⟨?_, fun j hj => ?_, ?_, ?_, fun hn => ?_, fun hn => settleTile_over (dropOp_over (s := s) hops hn) _⟩
  · have h1 : tileRecords s (copyStruck s k o) := by
      rw [tileRecords, hs, copied, show sourceMet s o = _ from hm]
      rfl
    refine tileRecords_trans h1 ?_
    rw [tileRecords, copyDone, hf]
    rfl
  · rw [copyDone, ho j hj]
    refine (hso j hj).trans ((setTile_other _ _ hj).trans ?_)
    exact congrArg (·[j]) hmt
  · rw [copyDone, hf]
    exact hops
  · rw [htile] at hdesc
    rw [copyDone, hk]
    exact hdesc
  · have hc : (nibDrop (copyStruck s k o) k fun _ => true).tiles[k] = copiedTile (sourceMet s o).tiles[k] s.tiles[o.ts] := by
      rw [show (nibDrop (copyStruck s k o) k fun _ => true).tiles = (copyStruck s k o).tiles from rfl, hsame hn, htile]
    rw [hc] at hrows hscales
    exact ⟨hrows, hscales⟩

/-- What TZERO_PERFORMED, TREL_PERFORMED and TMOV_COMPLETE come to (R77, R78). -/
theorem exec_tzeroPerformed {s : State} {k : TReg} {o : Op} (hl : Live s) (h : workingOp s .tzero k = some o) :
    exec (.tzeroPerformed k) s = .next (clearedBy s k o .ready) := by
  have he : exec (.tzeroPerformed k) s = execTzeroPerformed k s := rfl
  rw [he, execTzeroPerformed, event_live hl, h]
  rfl

theorem exec_trelPerformed {s : State} {k : TReg} {o : Op} (hl : Live s) (h : workingOp s .trel k = some o) :
    exec (.trelPerformed k) s = .next { clearedBy s k o .empty with
      c := { (clearedBy s k o .empty).c with tdirty := setBit (clearedBy s k o .empty).c.tdirty k.val false } } := by
  have he : exec (.trelPerformed k) s = execTrelPerformed k s := rfl
  rw [he, execTrelPerformed, event_live hl, h]
  rfl

theorem exec_tmovComplete {s : State} {k : TReg} {o : Op} (hl : Live s) (h : workingOp s .tmov k = some o) :
    exec (.tmovComplete k) s = .next (copyDone s k o) := by
  have he : exec (.tmovComplete k) s = execTmovComplete k s := rfl
  rw [he, execTmovComplete, event_live hl, h]
  rfl

end Sys2Proof.Machine


namespace Sys2Proof.Machine

/-! SUPPORT. The lines of a transfer and its stops: what they may change, when a stop is reported, and what a failed access does (R75, R76, R169, R174,
R176). -/

/-! ### What progress and stops may change -/

/-- A tile with its contents and descriptor, its state and TPROG as they may be. -/
def progressKept (x y : Tile) : Prop := y = { x with st := y.st, progRows := y.progRows, progOp := y.progOp, progFault := y.progFault }

/-- What the progress of transfers and the reports of their stops may change: operations, queues, tiles but for their contents, pending vectors,
a domain that wakes, and the ports' tokens. -/
def progressOnly (s t : State) : Prop :=
  t = { s with tiles := t.tiles, ops := t.ops, sq := t.sq, dom := t.dom, port := t.port, c := { s.c with ipend := t.c.ipend, l2Check := t.c.l2Check } } ∧
    ∀ j : TReg, progressKept s.tiles[j] t.tiles[j]

theorem progressOnly_refl (s : State) : progressOnly s s := ⟨rfl, fun _ => rfl⟩

theorem progressOnly_trans {s t u : State} (h1 : progressOnly s t) (h2 : progressOnly t u) : progressOnly s u := by
  obtain ⟨e1, p1⟩ := h1
  obtain ⟨e2, p2⟩ := h2
  refine ⟨?_, fun j => ?_⟩
  · rw [e2, e1]
  · rw [progressKept, p2 j, p1 j]

theorem progressOnly_ite {s t u : State} {p : Prop} [Decidable p] (h1 : progressOnly s t) (h2 : progressOnly s u) :
    progressOnly s (if p then t else u) := by
  split
  · exact h1
  · exact h2

theorem setTile_progress {s : State} {k : TReg} {x : Tile} (h : progressKept s.tiles[k] x) : progressOnly s (setTile s k x) := by
  refine ⟨rfl, fun j => ?_⟩
  by_cases hj : j = k
  · subst hj
    rwa [setTile_same]
  · rw [setTile_other s x hj]
    exact rfl

theorem posted.progress {s t : State} (h : posted s t) : progressOnly s t := by
  obtain ⟨e, -⟩ := h
  have ht : t.tiles = s.tiles := by rw [e]
  exact ⟨e.trans (by rw [e]), fun j => by rw [ht]; exact rfl⟩

theorem updOp_progress (s : State) (id : Nat) (f : Op → Op) : progressOnly s (updOp s id f) := ⟨rfl, fun _ => rfl⟩

theorem passToTile_progress (s : State) (o : Op) : progressOnly s (passToTile s o) :=
  progressOnly_trans (setTile_progress (x := failedTile s.tiles[o.t] o) rfl) (progressOnly_trans (updOp_progress ..) (passToTile_posted s o).progress)

theorem stopWritten_progress (s : State) (o : Op) (st : Stop) : progressOnly s (stopWritten s o st) := by
  have h := stopWritten_frame s o st
  have ht : (stopWritten s o st).tiles = s.tiles := by rw [h]
  exact ⟨h.trans (by rw [h]), fun j => by rw [ht]; exact rfl⟩

theorem recordStop_progress (s : State) (o : Op) (st : Stop) : progressOnly s (recordStop s o st) := by
  rw [recordStop_eq]
  exact progressOnly_ite (progressOnly_trans (stopWritten_progress ..) (passToTile_progress ..)) (stopWritten_progress ..)

theorem reportStop_progress (s : State) (q : QNum) : progressOnly s (reportStop s q) := by
  refine progressOnly_ite (progressOnly_refl s) ?_
  split
  · exact recordStop_progress ..
  · exact progressOnly_refl s

theorem stopOp_progress (s : State) (o : Op) (cause : BitVec 5) (kind : BitVec 3) (detail : Byte) (write : Bool) (addr phys : W64) (early : Bool) :
    progressOnly s (stopOp s o cause kind detail write addr phys early) :=
  progressOnly_trans (updOp_progress ..) (reportStop_progress ..)

theorem showProg_at (s : State) {o : Op} {k : TReg} (h : o.t = k) :
    otherTilesKept s (showProg s o) k ∧ (showProg s o).tiles[k] = { s.tiles[k] with progRows := BitVec.ofNat 11 o.prog } := by
  subst h
  exact ⟨fun _ hj => setTile_other s _ hj, setTile_same ..⟩

theorem showProg_progress (s : State) (o : Op) : progressOnly s (showProg s o) := setTile_progress rfl

/-- The written lines of one operation settled (R75, R169). -/
def settleStep (s : State) (o : Op) : State :=
  reportStop (if tileOp o then showProg (updOp s o.id fun _ => settleOp o) (settleOp o) else updOp s o.id fun _ => settleOp o) o.q

theorem settleStep_progress (s : State) (o : Op) : progressOnly s (settleStep s o) :=
  progressOnly_trans (progressOnly_ite (progressOnly_trans (updOp_progress ..) (showProg_progress ..)) (updOp_progress ..)) (reportStop_progress ..)

theorem settleLines_progress (s : State) : progressOnly s (settleLines s) := by
  have hask : progressOnly s (askVisible s .unit) := by
    have h : askVisible s .unit = _ := askVisible_portOnly s .unit
    rw [h]
    exact ⟨rfl, fun _ => rfl⟩
  exact progressOnly_ite (progressOnly_refl s) (progressOnly_ite
    (foldl_keeps (progressOnly s) settleStep (fun _ _ h => progressOnly_trans h (settleStep_progress ..)) _ _ (progressOnly_refl s)) hask)

/-- An operation with a line whose last request is finished (R75, R169). -/
def madeOp (o : Op) (l : Nat) (fab : Bool) : Op :=
  let o1 := setOut l 0 { o with moved := o.moved.filter (·.1 ≠ l), fab := o.fab.filter (· ≠ l) }
  if fab || o.fab.contains l then { o1 with written := l :: o1.written } else lineDone o1 l

theorem lineMade_eq (s : State) (o : Op) (l : Nat) (fab : Bool) : lineMade s o l fab =
    reportStop (settleLines (if tileOp o then showProg (updOp s o.id fun _ => madeOp o l fab) (madeOp o l fab) else
      updOp s o.id fun _ => madeOp o l fab)) o.q := rfl

theorem lineMade_progress (s : State) (o : Op) (l : Nat) (fab : Bool) : progressOnly s (lineMade s o l fab) := by
  rw [lineMade_eq]
  exact progressOnly_trans (progressOnly_trans
    (progressOnly_ite (progressOnly_trans (updOp_progress ..) (showProg_progress ..)) (updOp_progress ..)) (settleLines_progress _))
    (reportStop_progress ..)

/-! ### When a stop is reported -/

/-- The stop of an operation that is to be reported: one not recorded, with no request outstanding (R176). -/
def dueStop (o : Op) : Option (Op × Stop) :=
  match o.stop with
  | some st => if st.recorded || !o.out.isEmpty || !o.written.isEmpty then none else some (o, st)
  | none => none

theorem unreported_eq (s : State) (q : QNum) : unreported s q = (queueOps s q).findSome? dueStop := rfl

theorem mem_queueOps {s : State} {q : QNum} {x : Op} : x ∈ queueOps s q ↔ x ∈ s.ops ∧ onQueue x = true ∧ x.q = q ∧ x.left = false := by
  simp [queueOps, and_assoc]

theorem unreported_none {s : State} {q : QNum} :
    unreported s q = none ↔ ∀ x ∈ s.ops, onQueue x = true → x.q = q → x.left = false → dueStop x = none := by
  rw [unreported_eq, List.findSome?_eq_none_iff]
  simp only [mem_queueOps, and_imp]

/-- A change of operations of one number leaves nothing to report where their own stops are not due. -/
theorem unreported_updOp {s : State} {q : QNum} {id : Nat} {f : Op → Op} (h : unreported s q = none)
    (hf : ∀ y ∈ s.ops, y.id = id → dueStop (f y) = none) : unreported (updOp s id f) q = none := by
  rw [unreported_none] at h ⊢
  intro x hx hon hq hl
  obtain ⟨y, hy, hid, rfl⟩ | ⟨hm, -⟩ := mem_updOp hx
  · exact hf y hy hid
  · exact h x hm hon hq hl

/-- The only stop that is due is the one reported. -/
theorem unreported_updOp_due {s : State} {o : Op} {st : Stop} {f : Op → Op} (h : unreported s o.q = none) (ho : o ∈ s.ops) (honly : onlyOp s o)
    (hon : onQueue (f o) = true) (hq : (f o).q = o.q) (hl : (f o).left = false) (hd : dueStop (f o) = some (f o, st)) :
    unreported (updOp s o.id f) o.q = some (f o, st) := by
  have hmem : f o ∈ (updOp s o.id f).ops := List.mem_map.2 ⟨o, ho, if_pos rfl⟩
  cases hu : unreported (updOp s o.id f) o.q with
  | none =>
    rw [unreported_none.1 hu (f o) hmem hon hq hl] at hd
    cases hd
  | some r =>
    rw [unreported_eq] at hu
    obtain ⟨x, hx, hr⟩ := List.exists_of_findSome?_eq_some hu
    obtain ⟨hx, hxon, hxq, hxl⟩ := mem_queueOps.1 hx
    obtain ⟨y, hy, hid, rfl⟩ | ⟨hm, -⟩ := mem_updOp hx
    · rw [honly y hy hid] at hr
      exact hr.symm.trans hd
    · rw [unreported_none.1 h x hm hxon hxq hxl] at hr
      cases hr

theorem reportStop_none {s : State} {q : QNum} (h : unreported s q = none) : reportStop s q = s := by
  unfold reportStop
  rw [h, ite_self]

theorem reportStop_due {s : State} {q : QNum} {o : Op} {st : Stop} (hr : s.sq[q].recv = false) (h : unreported s q = some (o, st)) :
    reportStop s q = recordStop s o st := by
  unfold reportStop
  rw [h, hr, if_neg Bool.false_ne_true]

theorem dueStop_none {o : Op} (h : o.stop = none) : dueStop o = none := by rw [dueStop, h]

/-! ### The lines that have become visible -/

theorem lineDone_eq (o : Op) (l : Nat) : lineDone o l = { o with prog := (lineDone o l).prog, above := (lineDone o l).above } := rfl

/-- Settling changes the progress and the lines that wait (R75). -/
theorem settleOp_eq (o : Op) : settleOp o = { o with written := [], prog := (settleOp o).prog, above := (settleOp o).above } := by
  refine foldl_keeps (fun x : Op => x = { o with written := [], prog := x.prog, above := x.above }) lineDone (fun x l h => ?_) o.written _ rfl
  rw [lineDone_eq, h]

/-- The lines that are written settle as they would complete one by one (R75). -/
theorem settleOp_prog (o : Op) : (settleOp o).prog = (o.written.foldl lineDone o).prog := by
  have h (l : List Nat) (x : Op) : (l.foldl lineDone { x with written := [] }) = { l.foldl lineDone x with written := [] } := by
    induction l generalizing x with
    | nil => rfl
    | cons a l ih => exact ih (lineDone x a)
  rw [settleOp, h]

theorem settleLines_none {s : State} (h : ∀ x ∈ s.ops, x.written = []) : settleLines s = s := by
  refine if_pos (List.isEmpty_iff.2 (List.filter_eq_nil_iff.2 fun x hx => ?_))
  simp [h x hx]

/-- A fold over copies of one element that settles at once. -/
theorem foldl_settled {α β : Type} {f : β → α → β} {a : α} {b c : β} (h1 : f b a = c) (h2 : f c a = c) {l : List α} (hl : ∀ x ∈ l, x = a)
    (hne : l ≠ []) : l.foldl f b = c := by
  have hstay (l : List α) (hl : ∀ x ∈ l, x = a) : l.foldl f c = c := by
    induction l with
    | nil => rfl
    | cons x l ih =>
      obtain ⟨rfl, hl⟩ := List.forall_mem_cons.1 hl
      rw [List.foldl_cons, h2, ih hl]
  cases l with
  | nil => exact absurd rfl hne
  | cons x l =>
    obtain ⟨rfl, hl⟩ := List.forall_mem_cons.1 hl
    rw [List.foldl_cons, h1, hstay l hl]

/-- A transfer with its written rows settled, and TPROG with it (R75). -/
def rowsSettled (s : State) (o : Op) : State := showProg (updOp s o.id fun _ => settleOp o) (settleOp o)

theorem updOp_settled (s : State) (o : Op) :
    updOp (updOp s o.id fun _ => settleOp o) o.id (fun _ => settleOp o) = updOp s o.id fun _ => settleOp o := by
  have hf (x : Op) : (if (if x.id = o.id then settleOp o else x).id = o.id then settleOp o else if x.id = o.id then settleOp o else x) =
      if x.id = o.id then settleOp o else x := by
    split <;> simp
  simp [updOp, hf]

theorem rowsSettled_again (s : State) (o : Op) : rowsSettled (rowsSettled s o) o = rowsSettled s o := by
  have h := updOp_settled s o
  have hs (u : State) (x : Op) : showProg (showProg u x) x = showProg u x := by simp [showProg, setTile]
  calc rowsSettled (rowsSettled s o) o
      = showProg (showProg (updOp (updOp s o.id fun _ => settleOp o) o.id fun _ => settleOp o) (settleOp o)) (settleOp o) := rfl
    _ = rowsSettled s o := by rw [h, hs]; rfl

/-- With its writes visible and no stop to report, the only transfer that has written rows settles them (R75, R418). -/
theorem settleLines_rows {s : State} {o : Op} (ho : o ∈ s.ops) (hop : tileOp o = true) (hv : writesVisible s .unit = true)
    (hw : ∀ x ∈ s.ops, x.id ≠ o.id → x.written = []) (honly : onlyOp s o) (hst : o.stop = none) (hu : unreported s o.q = none)
    (hne : o.written ≠ []) : settleLines s = rowsSettled s o := by
  have hsettled (y : Op) : dueStop (settleOp o) = none := dueStop_none (by rw [settleOp_eq]; exact hst)
  have h1 : settleStep s o = rowsSettled s o := by
    rw [settleStep, if_pos hop]
    exact reportStop_none (unreported_updOp (f := fun _ => settleOp o) hu fun y _ _ => hsettled y)
  have h2 : settleStep (rowsSettled s o) o = rowsSettled s o := by
    rw [settleStep, if_pos hop]
    refine (reportStop_none ?_).trans (rowsSettled_again s o)
    exact unreported_updOp (f := fun _ => settleOp o) (s := rowsSettled s o)
      (unreported_updOp (f := fun _ => settleOp o) hu fun y _ _ => hsettled y) fun y _ _ => hsettled y
  have hl : ∀ x ∈ s.ops.filter (fun x => !x.written.isEmpty), x = o := fun x hx => by
    obtain ⟨hx, hn⟩ := List.mem_filter.1 hx
    by_contra hxo
    have hid : x.id ≠ o.id := fun hid => hxo (honly x hx hid)
    simp [hw x hx hid] at hn
  have hmem : o ∈ s.ops.filter (fun x => !x.written.isEmpty) := List.mem_filter.2 ⟨ho, by simp [hne]⟩
  have hnil : s.ops.filter (fun x => !x.written.isEmpty) ≠ [] := List.ne_nil_of_mem hmem
  refine (if_neg fun h => hnil (List.isEmpty_iff.1 h)).trans ((if_pos hv).trans ?_)
  exact foldl_settled (f := settleStep) h1 h2 hl hnil

theorem rowsSettled_spec (s : State) (o : Op) : let t := rowsSettled s o
    tileOnly s t ∧ otherTilesKept s t o.t ∧ t.tiles[o.t] = { s.tiles[o.t] with progRows := BitVec.ofNat 11 (settleOp o).prog } := by
  have ht : (settleOp o).t = o.t := by rw [settleOp_eq]
  exact ⟨rfl, (showProg_at _ ht).1, (showProg_at _ ht).2⟩

/-! ### A failed access -/

/-- The stop of a transfer on a failed access (R174, R176). -/
def faultStop (o : Op) (c : BitVec 5) (detail : Byte) (va pa : W64) : Stop :=
  ⟨c, opKindCode o, if c = 0x05 then detail else 0, o.kind == .tst, va, if xlateCause c then 0 else pa, false, false⟩

/-- The requests of an operation's lowest outstanding line are over. -/
def failedLine (o y : Op) : Op :=
  match (o.out.map (·.1)).min? with
  | some l => setOut l 0 y
  | none => y

theorem failedLine_eq (o y : Op) : failedLine o y = { y with out := (failedLine o y).out } := by
  unfold failedLine
  split <;> rfl

/-- An operation that a failed access stops. -/
def stoppedOp (o : Op) (st : Stop) (y : Op) : Op := { failedLine o y with stop := some (y.stop.getD st) }

theorem updOp_updOp {s : State} {id : Nat} {f g : Op → Op} (hf : ∀ y, (f y).id = y.id) :
    updOp (updOp s id f) id g = updOp s id (fun y => g (f y)) := by
  have h (y : Op) : (if (if y.id = id then f y else y).id = id then g (if y.id = id then f y else y) else if y.id = id then f y else y) =
      if y.id = id then g (f y) else y := by
    by_cases hy : y.id = id
    · simp [hy, hf]
    · simp [hy]
  simp [updOp, h]

theorem failTransfer_eq (s : State) (o : Op) (c : BitVec 5) (detail : Byte) (va pa : W64) : failTransfer s o c detail va pa =
    reportStop (updOp s o.id (stoppedOp o (faultStop o c detail va pa))) o.q := by
  cases hm : (o.out.map (·.1)).min? with
  | none =>
    have hf : stoppedOp o (faultStop o c detail va pa) = fun y => { y with stop := some (y.stop.getD (faultStop o c detail va pa)) } :=
      funext fun y => by rw [stoppedOp, failedLine, hm]
    rw [failTransfer, hm, hf]
    rfl
  | some l =>
    have hf : stoppedOp o (faultStop o c detail va pa) = fun y => { setOut l 0 y with stop := some (y.stop.getD (faultStop o c detail va pa)) } :=
      funext fun y => by rw [stoppedOp, failedLine, hm]
    rw [failTransfer, hm, hf]
    exact congrArg (reportStop · o.q) (updOp_updOp (f := setOut l 0) fun _ => rfl)

/-- With one line outstanding at most, none is left of it (R176). -/
theorem failedLine_out {o : Op} (h : ∀ x ∈ o.out, ∀ y ∈ o.out, x.1 = y.1) : (failedLine o o).out = [] := by
  unfold failedLine
  split
  · next l hl =>
    obtain ⟨y, hy, rfl⟩ := List.mem_map.1 (List.min?_mem hl)
    refine List.filter_eq_nil_iff.2 fun x hx => ?_
    simp [h x hx y hy]
  · next hl => exact List.map_eq_nil_iff.1 (List.min?_eq_none_iff.1 hl)

/-- With two lines outstanding, one is left (R176). -/
theorem failedLine_waits {o : Op} {x y : Nat × Nat} (hx : x ∈ o.out) (hy : y ∈ o.out) (h : x.1 ≠ y.1) : (failedLine o o).out ≠ [] := by
  unfold failedLine
  split
  · next l hl =>
    by_cases hxl : x.1 = l
    · exact List.ne_nil_of_mem (List.mem_filter.2 ⟨hy, by simpa using fun hyl : y.1 = l => h (hxl.trans hyl.symm)⟩)
    · exact List.ne_nil_of_mem (List.mem_filter.2 ⟨hx, by simpa using hxl⟩)
  · exact List.ne_nil_of_mem hx

theorem stoppedOp_eq {o : Op} (h : o.stop = none) (st : Stop) : stoppedOp o st o = { o with out := (failedLine o o).out, stop := some st } := by
  rw [stoppedOp, failedLine_eq, h]
  rfl

theorem onQueue_tileOp {o : Op} (h : tileOp o = true) : onQueue o = true := by
  simp only [tileOp, Bool.or_eq_true] at h
  simp only [onQueue, Bool.or_eq_true]
  exact .inl (.inl h)

/-- A failed access with nothing outstanding but its own row is recorded at once (R174, R176). -/
theorem failTransfer_records {s : State} {o : Op} {c : BitVec 5} {detail : Byte} {va pa : W64} (ho : o ∈ s.ops) (hop : tileOp o = true)
    (hl : o.left = false) (hr : s.sq[o.q].recv = false) (hu : unreported s o.q = none) (honly : onlyOp s o) (hst : o.stop = none)
    (hw : o.written = []) (hout : ∀ x ∈ o.out, ∀ y ∈ o.out, x.1 = y.1) : let st := faultStop o c detail va pa
      failTransfer s o c detail va pa = recordStop (updOp s o.id (stoppedOp o st)) { o with out := [], stop := some st } st := by
  have he : stoppedOp o (faultStop o c detail va pa) o = { o with out := [], stop := some (faultStop o c detail va pa) } := by
    rw [stoppedOp_eq hst, failedLine_out hout]
  have hd : dueStop (stoppedOp o (faultStop o c detail va pa) o) =
      some (stoppedOp o (faultStop o c detail va pa) o, faultStop o c detail va pa) := by
    rw [he, dueStop, hw]
    rfl
  have hdue := unreported_updOp_due hu ho honly (by rw [he]; exact onQueue_tileOp hop) (by rw [he]) (by rw [he]; exact hl) hd
  rw [he] at hdue
  dsimp only
  rw [failTransfer_eq]
  exact reportStop_due hr hdue

/-- A failed access with other rows outstanding waits for them (R176). -/
theorem failTransfer_waits {s : State} {o : Op} {c : BitVec 5} {detail : Byte} {va pa : W64} (hu : unreported s o.q = none) (honly : onlyOp s o)
    (hst : o.stop = none) (h : o.written ≠ [] ∨ ∃ x ∈ o.out, ∃ y ∈ o.out, x.1 ≠ y.1) :
    failTransfer s o c detail va pa = updOp s o.id (stoppedOp o (faultStop o c detail va pa)) := by
  rw [failTransfer_eq]
  refine reportStop_none (unreported_updOp hu fun y hy hid => ?_)
  rw [honly y hy hid, stoppedOp_eq hst, dueStop]
  obtain hw | ⟨x, hx, y, hy, hxy⟩ := h
  · exact if_pos (by simp [hw])
  · exact if_pos (by simp [failedLine_waits hx hy hxy])

/-- What TILE_TRANSFER_FAULT comes to (R76, R175). -/
theorem exec_tileTransferFault {s : State} {k : TReg} {o : Op} (hl : Live s) (h : liveTransfer s k = some o) (c : BitVec 5) (detail : Byte) (va pa : W64) :
    exec (.tileTransferFault k c detail va pa) s =
      .next (if 1 ≤ c.toNat ∧ c.toNat ≤ 13 ∧ ¬ (c = 0x09 ∨ c = 0x0A) then failTransfer s o c detail va pa else s) := by
  have he : exec (.tileTransferFault k c detail va pa) s = execTileTransferFault k c detail va pa s := rfl
  rw [he, execTileTransferFault, event_live hl, h, Option.bind_some]
  split <;> rfl

end Sys2Proof.Machine


namespace Sys2Proof.Machine

/-! SUPPORT. The accesses of the stream engine and the rows of a transfer as they move (R74, R75, R162, R170, R171, R329). -/

/-! ### Stream accesses -/

theorem wakeRequest_behind (s : State) (d : Fin 32) : behindBuffer s (wakeRequest s d) :=
  behindBuffer_of_records (wakeRequest_only ..) (wakeRequest_noted ..)

theorem streamXlate_behind (cap : Capture) (data write : Bool) (va : W64) (s : State) : behindBuffer s (streamXlate cap data write va s).1 := by
  have h := translate_behind .stream (if write then .store else .load) cap.ring cap.ttb va s
  unfold streamXlate
  split
  · next e => rwa [e] at h
  · next e =>
    rw [e] at h
    split
    · exact h
    split
    · exact h
    split
    · exact h
    split
    · exact behindBuffer_trans h (wakeRequest_behind ..)
    · exact h

theorem accessCheck_behind (s : State) (coh : Bool) (pa n : Nat) : behindBuffer s (accessCheck s coh pa n).1 := by
  unfold accessCheck
  split
  · exact behindBuffer_foldl _ (fun _ _ => postRecord_behind ..) _ _
  · exact readCheck_behind ..

theorem touchHit_behind (s : State) (la : BitVec 50) : behindBuffer s (touchHit s la) := by
  unfold touchHit
  split
  · exact touchL2_behind ..
  · rfl

/-- A stream read changes no more than a translation and the checks of a read do, and arms no injection. -/
theorem streamRead_behind (cap : Capture) (data : Bool) (ps : List Piece) (s : State) :
    behindBuffer s (streamRead cap data ps s).state ∧ (NoInjection s → NoInjection (streamRead cap data ps s).state) := by
  induction ps generalizing s with
  | nil => exact ⟨rfl, id⟩
  | cons p ps ih =>
    have h1 := streamXlate_behind cap data false p.va s
    have n1 := streamXlate_uninjected cap data false p.va (s := s)
    unfold streamRead
    split
    · next e =>
      rw [e] at h1 n1
      split <;> exact ⟨h1, n1⟩
    · next s1 pa ty e =>
      rw [e] at h1 n1
      have h2 := accessCheck_behind s1 (ty = .cacheable) pa p.len
      have n2 (hn : NoInjection s) := accessCheck_uninjected (n1 hn) (ty = .cacheable) pa p.len
      split
      · exact ⟨h1, n1⟩
      split
      · next e2 =>
        rw [e2] at h2 n2
        exact ⟨behindBuffer_trans h1 h2, n2⟩
      · next s2 e2 =>
        rw [e2] at h2 n2
        have h3 : behindBuffer s2 (if ty = .cacheable then touchHit s2 (lineNo pa) else s2) := behindBuffer_ite (touchHit_behind ..) rfl
        have n3 (hn : NoInjection s) : NoInjection (if ty = .cacheable then touchHit s2 (lineNo pa) else s2) :=
          uninjected_ite (touchHit_uninjected (n2 hn) _) (n2 hn)
        obtain ⟨h4, n4⟩ := ih (if ty = .cacheable then touchHit s2 (lineNo pa) else s2)
        have h := behindBuffer_trans h1 (behindBuffer_trans h2 (behindBuffer_trans h3 h4))
        have n (hn : NoInjection s) := n4 (n3 hn)
        dsimp only
        split
        · next e3 => rw [e3] at h n; exact ⟨h, n⟩
        · exact ⟨h, n⟩

theorem streamPrep_behind (cap : Capture) (data : Bool) (ps : List Piece) (s : State) : behindBuffer s (streamPrep cap data ps s).1 := by
  induction ps generalizing s with
  | nil => rfl
  | cons p ps ih =>
    have h := streamXlate_behind cap data true p.va s
    unfold streamPrep
    split
    · next e => rwa [e] at h
    · next s1 pa ty e =>
      rw [e] at h
      have h2 := behindBuffer_trans h (ih s1)
      split <;> next e2 => rwa [e2] at h2

theorem markPoison_behind (s : State) (coh : Bool) (pa n : Nat) : behindBuffer s (markPoison s coh pa n) := by
  unfold markPoison
  split
  · rfl
  split
  · rfl
  · exact behindBuffer_ite rfl rfl

/-- A stream write that is done changes no more than writes by the core's own agents do. -/
theorem streamWrite_behind {cap : Capture} {data : Bool} {bad : Nat → Bool} {bs : List Byte} {ps : List Piece} {s t : State} {f : Bool}
    (h : streamWrite cap data bad bs ps s = .done t f) : behindBuffer s t := by
  have hp := streamPrep_behind cap data ps s
  have hwrite (u : State) (p : Phys) (b : List Byte) : behindBuffer u (ownWrite u .unit p.ty p.pa b) := behindBuffer_ite rfl (agentWrite_behind ..)
  have hmark (u : State) (p : Phys) : behindBuffer u ((List.range p.len).foldl
      (fun s i => if bad (p.off + i) then markPoison s (p.ty = .cacheable) (p.pa + i) 1 else s) u) :=
    behindBuffer_foldl _ (fun u _ => behindBuffer_ite (markPoison_behind ..) (behindBuffer_refl u)) _ _
  unfold streamWrite at h
  split at h
  · split at h <;> cases h
  next s1 l e =>
  rw [e] at hp
  split at h
  · cases h
  split at h
  · cases h
  dsimp only at h
  split at h
  · cases h
  · cases h
    exact behindBuffer_trans hp (behindBuffer_foldl _ (fun u p => behindBuffer_trans (hwrite u p _) (hmark _ p)) l s1)

/-! ### The issue of requests -/

/-- What issuing the requests of a transfer leaves: the banks, the contents of tiles, and that nothing is injected. -/
def issuedOnly (s t : State) : Prop := t.banks = s.banks ∧ (∀ j : TReg, progressKept s.tiles[j] t.tiles[j]) ∧ (NoInjection s → NoInjection t)

theorem issuedOnly_refl (s : State) : issuedOnly s s := ⟨rfl, fun _ => rfl, id⟩

theorem issuedOnly_trans {s t u : State} (h1 : issuedOnly s t) (h2 : issuedOnly t u) : issuedOnly s u := by
  obtain ⟨b1, p1, n1⟩ := h1
  obtain ⟨b2, p2, n2⟩ := h2
  refine ⟨b2.trans b1, fun j => ?_, fun hn => n2 (n1 hn)⟩
  rw [progressKept, p2 j, p1 j]

theorem behindBuffer.issued {s t : State} (h : behindBuffer s t) (hn : NoInjection s → NoInjection t) : issuedOnly s t := by
  have ht : t.tiles = s.tiles := congrArg (·.tiles) (show t = _ from h)
  exact ⟨congrArg (·.banks) (show t = _ from h), fun j => by rw [ht]; exact rfl, hn⟩

theorem progressOnly.issued {s t : State} (h : progressOnly s t) : issuedOnly s t := by
  obtain ⟨e, p⟩ := h
  refine ⟨by rw [e], p, fun hn => ?_⟩
  rw [e]
  exact hn

theorem issueCheck_issued (cap : Capture) (l : List (Bool × W64)) (s : State) : issuedOnly s (issueCheck cap l s).1 := by
  induction l generalizing s with
  | nil => exact issuedOnly_refl s
  | cons a l ih =>
    obtain ⟨w, va⟩ := a
    have h := (streamXlate_behind cap true w va s).issued (streamXlate_uninjected cap true w va)
    unfold issueCheck
    split
    · next e =>
      rw [e] at h
      split
      · exact issuedOnly_trans h (ih _)
      · exact h
    · next e =>
      rw [e] at h
      exact issuedOnly_trans h (ih _)

theorem issueTo_issued (id line off n : Nat) (s : State) : issuedOnly s (issueTo tileIssuer id line off n s) := by
  induction n generalizing s with
  | zero => exact issuedOnly_refl s
  | succ n ih =>
    unfold issueTo
    split
    · exact issuedOnly_refl s
    · next o _ =>
      dsimp only
      split
      · exact issuedOnly_refl s
      · have hs : (if o.ioff = 0 then tileIssuer.take s o else s) = s := ite_self s
        rw [hs]
        have h := issueCheck_issued o.cap (tileIssuer.req s o).acc s
        split
        · next e =>
          rw [e] at h
          exact issuedOnly_trans h (stopOp_progress ..).issued
        · next e =>
          rw [e] at h
          exact issuedOnly_trans h (issuedOnly_trans (updOp_progress ..).issued (ih _))

/-! ### A row that has moved -/

theorem unreported_congr {s t : State} (h : t.ops = s.ops) (q : QNum) : unreported t q = unreported s q := by
  simp only [unreported, queueOps, h]

theorem madeOp_eq {o : Op} (l : Nat) (h : o.fab = []) :
    madeOp o l false = { lineDone o l with out := (madeOp o l false).out, moved := (madeOp o l false).moved, fab := (madeOp o l false).fab } := by
  simp only [madeOp, h]
  rfl

/-- With no line waiting and no stop to report, a line that is made shows in TPROG at once (R75). -/
theorem lineMade_alone {s : State} {o : Op} {l : Nat} (hop : tileOp o = true) (ho : o ∈ s.ops) (hn : noneWritten s) (hst : o.stop = none)
    (hu : unreported s o.q = none) :
    lineMade s o l false = showProg (updOp s o.id fun _ => madeOp o l false) (madeOp o l false) := by
  have hm := madeOp_eq l (hn o ho).2
  have hw : (madeOp o l false).written = [] := by rw [hm]; exact (hn o ho).1
  have hs : (madeOp o l false).stop = none := by rw [hm]; exact hst
  have hnone : ∀ x ∈ (updOp s o.id fun _ => madeOp o l false).ops, x.written = [] := fun x hx => by
    obtain ⟨_, _, _, rfl⟩ | ⟨hx, _⟩ := mem_updOp hx
    · exact hw
    · exact (hn x hx).1
  have hsettled : settleLines (showProg (updOp s o.id fun _ => madeOp o l false) (madeOp o l false)) =
      showProg (updOp s o.id fun _ => madeOp o l false) (madeOp o l false) := settleLines_none hnone
  rw [lineMade_eq, if_pos hop, hsettled]
  exact reportStop_none ((unreported_congr (s := updOp s o.id fun _ => madeOp o l false) rfl o.q).trans
    (unreported_updOp hu fun _ _ _ => dueStop_none hs))

theorem lineMade_progRows {s : State} {o : Op} {l : Nat} (hop : tileOp o = true) (ho : o ∈ s.ops) (hn : noneWritten s) (hst : o.stop = none)
    (hu : unreported s o.q = none) : (lineMade s o l false).tiles[o.t].progRows = BitVec.ofNat 11 (lineDone o l).prog := by
  have hm := madeOp_eq l (hn o ho).2
  rw [lineMade_alone hop ho hn hst hu, (showProg_at _ (o := madeOp o l false) (k := o.t) (by rw [hm]; rfl)).2, hm]

theorem tileFresh_uninjected {s : State} (h : NoInjection s) (k : TReg) (row : Nat) (ws : List Nat) : NoInjection (tileFresh s k row ws) := by
  obtain ⟨-, -, herr, hc⟩ := markedGood_contents s k row ws
  have h1 : NoInjection (markedGood s k row ws) := by
    rw [NoInjection, herr, hc]
    exact h
  have h2 : NoInjection (rowCleaned s k row ws) := uninjected_ite h1 (uninjected_foldl (fun _ _ hs => clearSpot_uninjected hs ..) _ h1)
  rw [tileFresh_eq, tileStrike, injKind_uninjected h2]
  exact h2

theorem putRow_uninjected {s : State} (h : NoInjection s) (k : TReg) (r : Nat) (d : RowWord) : NoInjection (putRow s k r d) :=
  tileFresh_uninjected (s := nibDrop (setTile s k _) k _) h ..

theorem sameDesc.scaleBytes {x y : Tile} (h : sameDesc x y) : tileScales y = tileScales x := by
  obtain ⟨-, hb, he, hm⟩ := h
  simp only [tileScales, tileElems, tileBytes, hb, he, hm]

/-- A write afresh leaves the descriptor (R329). -/
theorem tileFresh_desc (s : State) (k : TReg) (row : Nat) (ws : List Nat) : sameDesc s.tiles[k] (tileFresh s k row ws).tiles[k] := by
  have hgood : sameDesc s.tiles[k] (markedGood s k row ws).tiles[k] := by
    unfold markedGood
    split
    · exact ⟨rfl, rfl, rfl, rfl⟩
    · rw [setTile_same]
      exact ⟨rfl, rfl, rfl, rfl⟩
  have hclean : (rowCleaned s k row ws).tiles = (markedGood s k row ws).tiles := by
    unfold rowCleaned
    split
    · rfl
    · exact foldl_keeps (fun u : State => u.tiles = (markedGood s k row ws).tiles) (fun u d => clearSpot u 0x05 (tileSel k.val row d))
        (fun _ _ h => h) ws _ rfl
  rw [← hclean] at hgood
  exact sameDesc_trans hgood (tileStrike_desc ..)

/-- A row written leaves the length of a sidecar row (R66). -/
theorem putRow_scaleBytes (s : State) (k : TReg) (r : Nat) (d : RowWord) : tileScales (putRow s k r d).tiles[k] = tileScales s.tiles[k] := by
  refine (tileFresh_desc _ k r _).scaleBytes.trans ?_
  rw [show (nibDrop (setTile s k _) k _).tiles[k] = _ from setTile_same ..]
  rfl

/-- A row of a load written into its tile, with its scales where the tile has them (R74). -/
def rowLoaded (s : State) (mx : Bool) (k : TReg) (r : Nat) (d sc : List Byte) : State :=
  if mx then putScale (putRow s k r (ofBytes 8192 d)) k r (ofBytes 512 sc) else putRow s k r (ofBytes 8192 d)

theorem rowLoaded_rowStored (s : State) (mx : Bool) (k : TReg) (r : Nat) (d sc : List Byte) : rowStored k s (rowLoaded s mx k r d sc) := by
  cases mx
  · exact putRow_rowStored ..
  · exact rowStored_trans (putRow_rowStored ..) (putScale_rowStored ..)

/-- A row of a load in its tile: the data as the row holds them, the scales as the sidecar does, every other row as it was (R65, R66, R74). -/
theorem rowLoaded_contents {s : State} (hn : NoInjection s) {k : TReg} (hr : spWf 0 s.tiles[k].rows = true) (hs : spWf scaleOnes s.tiles[k].scales = true)
    (mx : Bool) (r : Nat) (d sc : List Byte) : let x := (rowLoaded s mx k r d sc).tiles[k]
      tileRow x r = BitVec.ofNat 8192 ((ofBytes 8192 d).toNat % 2 ^ (8 * tileBytes s.tiles[k])) ∧
      (mx = true → tileScale x r = keepScales (tileScales s.tiles[k]) (ofBytes 512 sc)) ∧
      ∀ j, j ≠ r → tileRow x j = tileRow s.tiles[k] j ∧ tileScale x j = tileScale s.tiles[k] j := by
  obtain ⟨h1, h2⟩ := putRow_contents hn k r (ofBytes 8192 d)
  have hrow : (rowLoaded s mx k r d sc).tiles[k].rows = (putRow s k r (ofBytes 8192 d)).tiles[k].rows := by
    cases mx
    · rfl
    · exact (putScale_contents (putRow_uninjected hn ..) k r (ofBytes 512 sc)).1
  have hscale : (rowLoaded s mx k r d sc).tiles[k].scales =
      if mx then spSet scaleOnes s.tiles[k].scales r (keepScales (tileScales s.tiles[k]) (ofBytes 512 sc)) else s.tiles[k].scales := by
    cases mx
    · exact h2
    · refine (putScale_contents (putRow_uninjected hn ..) k r (ofBytes 512 sc)).2.trans ?_
      rw [h2, putRow_scaleBytes]
      rfl
  refine ⟨?_, fun hm => ?_, fun j hj => ⟨?_, ?_⟩⟩
  · rw [tileRow, hrow, h1]
    exact spGet_set_same hr
  · rw [tileScale, hscale, if_pos hm]
    exact spGet_set_same hs
  · rw [tileRow, hrow, h1]
    exact spGet_set_other hr hj
  · rw [tileScale, hscale]
    cases mx
    · rfl
    · exact spGet_set_other hs hj

/-- A row of a TLD whose reads are done (R74). -/
theorem tldRow_done {s s2 s3 : State} {o : Op} {r : Nat} {d sc : List Byte}
    (hd : streamRead o.cap true (rowParts s.tiles[o.t] o r).1 s = .done s2 d)
    (hs : streamRead o.cap true (rowParts s.tiles[o.t] o r).2 s2 = .done s3 sc) :
    tldRow s o r = lineMade (rowLoaded s3 s.tiles[o.t].mx o.t r d sc) o r false := by
  unfold tldRow
  dsimp only
  rw [hd]
  dsimp only
  rw [hs]
  rfl

/-- A row of a TST whose writes are done (R74, R329). -/
theorem tstRow_done {s s2 s3 : State} {o : Op} {r : Nat} {f1 f2 : Bool}
    (h1 : streamWrite o.cap true (fun j => s.tiles[o.t].bad.contains (256 * r + j / 8)) (toBytes (tileBytes s.tiles[o.t]) (tileRow s.tiles[o.t] r))
      (rowParts s.tiles[o.t] o r).1 s = .done s2 f1)
    (h2 : streamWrite o.cap true (fun j => s.tiles[o.t].bad.contains (256 * r + 128 + j / 8))
      (toBytes (tileScales s.tiles[o.t]) (tileScale s.tiles[o.t] r))
      (rowParts s.tiles[o.t] o r).2 s2 = .done s3 f2) :
    tstRow s o r = lineMade (tileMeet s3 o.t r (allWords s.tiles[o.t])) o r (f1 || f2) := by
  unfold tstRow
  dsimp only
  rw [h1]
  dsimp only
  rw [h2]

/-- What TLD_ROW_COMPLETE comes to: the requests as far as the row are issued, and the row moves where some of its own are (R74, R170). -/
theorem exec_tldRowComplete {s s1 : State} {k : TReg} {row : Nat} {o o1 : Op} (hl : Live s) (h : liveTransfer s k = some o) (hr : row < o.n)
    (hm : isLineMoved o row = false) (hw : mayWork s o = true) (hi : issueTo tileIssuer o.id row 0 (poolSize + 1) s = s1)
    (ho : s1.ops.find? (·.id == o.id) = some o1) : exec (.tldRowComplete k row) s =
      .next (if outOf o1 row = 0 then s1 else if o1.kind = .tld then tldRow s1 o1 row else tstRow s1 o1 row) := by
  have he : exec (.tldRowComplete k row) s = execTldRowComplete k row s := rfl
  rw [he, execTldRowComplete, event_live hl, h, Option.bind_some, if_pos ⟨hr, hm, hw⟩, hi]
  dsimp only
  rw [ho]
  rfl

end Sys2Proof.Machine


namespace Sys2Proof.Machine

/-! SUPPORT. The release of operations, and the rows of transfers as events move them (R69, R71, R74, R75, R82, R170, R176). -/

theorem exec_heldOpRelease {s : State} {id : Nat} {o : Op} (hl : Live s)
    (h : (s.ops.find? fun o => o.id == id && !o.started && !onQueue o && o.kind != .remap && mayWork s o) = some o) :
    exec (.heldOpRelease id) s = .next (updOp s o.id fun y => { y with started := true }) := by
  have he : exec (.heldOpRelease id) s = execHeldOpRelease id s := rfl
  rw [he, execHeldOpRelease, event_live hl, h]
  rfl

theorem progressKept.contents {x y : Tile} (h : progressKept x y) : y.rows = x.rows ∧ y.scales = x.scales ∧ y.mx = x.mx ∧
    tileBytes y = tileBytes x ∧ tileScales y = tileScales x := by
  rw [show y = _ from h]
  exact ⟨rfl, rfl, rfl, rfl, rfl⟩

theorem behindBuffer.tiles {s t : State} (h : behindBuffer s t) : t.tiles = s.tiles := congrArg (·.tiles) (show t = _ from h)

theorem behindBuffer.ops {s t : State} (h : behindBuffer s t) : t.ops = s.ops := congrArg (·.ops) (show t = _ from h)

theorem behindBuffer.banks {s t : State} (h : behindBuffer s t) : t.banks = s.banks := congrArg (·.banks) (show t = _ from h)

theorem noneWritten_congr {s t : State} (h : t.ops = s.ops) (hn : noneWritten s) : noneWritten t := by
  rw [noneWritten, h]
  exact hn

/-- A row of a load, its reads done: memory and the other tiles stay, TPROG follows, and the row is the tile's (R74, R75). -/
theorem tldRow_spec {s s1 s2 s3 : State} {o : Op} {row : Nat} {d sc : List Byte} (hi : issuedOnly s s1) (ho : o ∈ s1.ops) (hk : o.kind = .tld)
    (hst : o.stop = none) (hu : unreported s1 o.q = none) (hd : streamRead o.cap true (rowParts s1.tiles[o.t] o row).1 s1 = .done s2 d)
    (hs : streamRead o.cap true (rowParts s1.tiles[o.t] o row).2 s2 = .done s3 sc) : let t := tldRow s1 o row
    t.mem = s3.mem ∧ t.vellum = s3.vellum ∧ t.banks = s.banks ∧
      (∀ j : TReg, j ≠ o.t → t.tiles[j].rows = s.tiles[j].rows ∧ t.tiles[j].scales = s.tiles[j].scales) ∧
      (noneWritten s1 → t.tiles[o.t].progRows = BitVec.ofNat 11 (lineDone o row).prog) ∧
      (NoInjection s → TilesCanonical s →
        tileRow t.tiles[o.t] row = BitVec.ofNat 8192 ((ofBytes 8192 d).toNat % 2 ^ (8 * tileBytes s.tiles[o.t])) ∧
        (s.tiles[o.t].mx = true → tileScale t.tiles[o.t] row = keepScales (tileScales s.tiles[o.t]) (ofBytes 512 sc)) ∧
        ∀ r, r ≠ row → tileRow t.tiles[o.t] r = tileRow s.tiles[o.t] r ∧ tileScale t.tiles[o.t] r = tileScale s.tiles[o.t] r) := by
  obtain ⟨b1, n1⟩ := streamRead_behind o.cap true (rowParts s1.tiles[o.t] o row).1 s1
  obtain ⟨b2, n2⟩ := streamRead_behind o.cap true (rowParts s1.tiles[o.t] o row).2 s2
  rw [hd] at b1 n1
  rw [hs] at b2 n2
  have hb : behindBuffer s1 s3 := behindBuffer_trans b1 b2
  obtain ⟨hbanks, htiles, hinj⟩ := hi
  obtain ⟨hf, hother, -⟩ := rowLoaded_rowStored s3 s1.tiles[o.t].mx o.t row d sc
  obtain ⟨hmf, hmt⟩ := lineMade_progress (rowLoaded s3 s1.tiles[o.t].mx o.t row d sc) o row false
  have hops : (rowLoaded s3 s1.tiles[o.t].mx o.t row d sc).ops = s1.ops := by rw [hf]; exact hb.ops
  have ht3 (j : TReg) : s3.tiles[j] = s1.tiles[j] := by rw [hb.tiles]
  dsimp only
  rw [tldRow_done hd hs]
  refine ⟨by rw [hmf, hf], by rw [hmf, hf], ?_, fun j hj => ?_, fun hn => ?_, fun hn hc => ?_⟩
  · rw [hmf, hf]
    exact hb.banks.trans hbanks
  · obtain ⟨hr1, hs1, -⟩ := (hmt j).contents
    obtain ⟨hr2, hs2, -⟩ := (htiles j).contents
    rw [hr1, hs1, hother j hj, ht3 j, hr2, hs2]
    exact ⟨rfl, rfl⟩
  · exact lineMade_progRows (by rw [tileOp, hk]; rfl) (hops ▸ ho) (noneWritten_congr hops hn) hst ((unreported_congr hops o.q).trans hu)
  · obtain ⟨hr1, hs1, -⟩ := (hmt o.t).contents
    obtain ⟨hr2, hs2, hmx, hbytes, hscales⟩ := (htiles o.t).contents
    obtain ⟨hcr, hcs⟩ := hc o.t
    have hrow (j : Nat) : tileRow (lineMade (rowLoaded s3 s1.tiles[o.t].mx o.t row d sc) o row false).tiles[o.t] j =
        tileRow (rowLoaded s3 s1.tiles[o.t].mx o.t row d sc).tiles[o.t] j := by rw [tileRow, hr1]; rfl
    have hscale (j : Nat) : tileScale (lineMade (rowLoaded s3 s1.tiles[o.t].mx o.t row d sc) o row false).tiles[o.t] j =
        tileScale (rowLoaded s3 s1.tiles[o.t].mx o.t row d sc).tiles[o.t] j := by rw [tileScale, hs1]; rfl
    obtain ⟨c1, c2, c3⟩ := rowLoaded_contents (s := s3) (n2 (n1 (hinj hn))) (k := o.t) (by rw [ht3, hr2]; exact hcr) (by rw [ht3, hs2]; exact hcs)
      s1.tiles[o.t].mx row d sc
    rw [ht3, hbytes] at c1
    rw [ht3, hscales] at c2
    refine ⟨(hrow row).trans c1, fun hm => (hscale row).trans (c2 (hmx.trans hm)), fun r hr => ?_⟩
    obtain ⟨e1, e2⟩ := c3 r hr
    rw [hrow, hscale, e1, e2, ht3, tileRow, tileScale, hr2, hs2]
    exact ⟨rfl, rfl⟩

/-- A row of a store, its writes done: memory is what the writes make it, no tile's contents change, and TPROG follows where no write went to the
fabric (R74, R75). -/
theorem tstRow_spec {s s1 s2 s3 : State} {o : Op} {row : Nat} {f1 f2 : Bool} (hi : issuedOnly s s1) (ho : o ∈ s1.ops) (hk : o.kind = .tst)
    (hst : o.stop = none) (hu : unreported s1 o.q = none)
    (h1 : streamWrite o.cap true (fun j => s1.tiles[o.t].bad.contains (256 * row + j / 8)) (toBytes (tileBytes s1.tiles[o.t]) (tileRow s1.tiles[o.t] row))
      (rowParts s1.tiles[o.t] o row).1 s1 = .done s2 f1)
    (h2 : streamWrite o.cap true (fun j => s1.tiles[o.t].bad.contains (256 * row + 128 + j / 8))
      (toBytes (tileScales s1.tiles[o.t]) (tileScale s1.tiles[o.t] row)) (rowParts s1.tiles[o.t] o row).2 s2 = .done s3 f2) : let t := tstRow s1 o row
    t.mem = s3.mem ∧ t.vellum = s3.vellum ∧ t.banks = s.banks ∧
      (∀ j : TReg, t.tiles[j].rows = s.tiles[j].rows ∧ t.tiles[j].scales = s.tiles[j].scales) ∧
      (f1 = false → f2 = false → noneWritten s1 → t.tiles[o.t].progRows = BitVec.ofNat 11 (lineDone o row).prog) := by
  have hb : behindBuffer s1 s3 := behindBuffer_trans (streamWrite_behind h1) (streamWrite_behind h2)
  have hf : tileMeet s3 o.t row (allWords s1.tiles[o.t]) = _ := tileMeet_rowsRead s3 o.t row (allWords s1.tiles[o.t])
  obtain ⟨hbanks, htiles, -⟩ := hi
  obtain ⟨hmf, hmt⟩ := lineMade_progress (tileMeet s3 o.t row (allWords s1.tiles[o.t])) o row (f1 || f2)
  have hops : (tileMeet s3 o.t row (allWords s1.tiles[o.t])).ops = s1.ops := by rw [hf]; exact hb.ops
  dsimp only
  rw [tstRow_done h1 h2]
  refine ⟨by rw [hmf, hf], by rw [hmf, hf], ?_, fun j => ?_, fun hf1 hf2 hn => ?_⟩
  · rw [hmf, hf]
    exact hb.banks.trans hbanks
  · obtain ⟨hr1, hs1, -⟩ := (hmt j).contents
    obtain ⟨hr2, hs2, -⟩ := (htiles j).contents
    have ht : (tileMeet s3 o.t row (allWords s1.tiles[o.t])).tiles = s1.tiles := by rw [hf]; exact hb.tiles
    rw [hr1, hs1, ht, hr2, hs2]
    exact ⟨rfl, rfl⟩
  · subst hf1
    subst hf2
    exact lineMade_progRows (by rw [tileOp, hk]; rfl) (hops ▸ ho) (noneWritten_congr hops hn) hst ((unreported_congr hops o.q).trans hu)

/-- Settles O35: each event through what it comes to; a stop is reported where it is the only one due. -/
theorem tileOperationsComplete : Obligations.TileOperationsComplete := by
  unfold Obligations.TileOperationsComplete
  refine ⟨fun id o s hl h => exec_heldOpRelease hl h, fun k row o o1 s s1 hl h hr hm hw hi ho => ?rows, fun k o s hl h hk => ?load,
    fun k o s hl h hk => ?store, fun k o c detail va pa s hl h => ?fault, fun k o s hl => ?performed⟩
  case rows =>
    have he := exec_tldRowComplete hl h hr hm hw hi ho
    have hissued : issuedOnly s s1 := hi ▸ issueTo_issued ..
    have hmem := List.mem_of_find?_eq_some ho
    refine ⟨fun h0 => by rw [he, if_pos h0], fun s2 s3 d sc h0 hk hst hu hd hs => ?_, ?_⟩
    · exact ⟨_, by rw [he, if_neg h0, if_pos hk], tldRow_spec hissued hmem hk hst hu hd hs⟩
    · intro s2 s3 f1 f2 x h0 hk hst hu h1 h2
      exact ⟨_, by rw [he, if_neg h0, if_neg (by rw [hk]; decide)], tstRow_spec hissued hmem hk hst hu h1 h2⟩
  case load =>
    refine ⟨fun hlt => ?_, fun hle => ⟨_, ?_, transferEnds (u := nibDrop (endTransfer s k o) k fun _ => true) .ready rfl⟩⟩
    · rw [exec_tldComplete hl h hk, if_neg (Nat.not_le.2 hlt)]
    · rw [exec_tldComplete hl h hk, if_pos hle]
  case store =>
    obtain ⟨hmem, hop, rfl, -⟩ := liveTransfer_spec h
    refine ⟨fun hlt hw => ?_, fun hlt hv hw honly hst hu hne => ?_, fun hle => ?_⟩
    · rw [exec_tstComplete hl h hk, if_neg (Nat.not_le.2 hlt), settleLines_none hw]
    · obtain ⟨hframe, hother, htile⟩ := rowsSettled_spec s o
      refine ⟨rowsSettled s o, ?_, hframe, hother, ?_, ?_⟩
      · rw [exec_tstComplete hl h hk, if_neg (Nat.not_le.2 hlt), settleLines_rows hmem hop hv hw honly hst hu hne]
      · rw [htile]
      · rw [htile, settleOp_prog]
    · obtain ⟨h1, h2, h3, h4, h5, h6⟩ := transferEnds (u := endTransfer s o.t o) (storeBase s o.t) rfl
      refine ⟨_, ?_, h1, h2, h3, h4, h5, fun honly hn => (h6 hn).trans (storeBase_alone hk honly hn)⟩
      rw [exec_tstComplete hl h hk, if_pos hle]
  case fault =>
    obtain ⟨hmem, hop, rfl, hleft⟩ := liveTransfer_spec h
    refine ⟨fun hc => ?_, fun h1 h13 h9 h10 hr hu honly hst => ?_⟩
    · rw [exec_tileTransferFault hl h, if_neg]
      rintro ⟨h1, h13, hne⟩
      obtain rfl | rfl | rfl | h14 := hc
      · exact absurd h1 (by decide)
      · exact hne (.inl rfl)
      · exact hne (.inr rfl)
      · omega
    · have he := exec_tileTransferFault hl h c detail va pa
      rw [if_pos ⟨h1, h13, not_or.2 ⟨h9, h10⟩⟩] at he
      refine ⟨fun hw hout => ?_, fun hwait => ?_⟩
      · obtain ⟨htile, -, hpend, hm, n, hq⟩ := recordStop_transfer (s := updOp s o.id (stoppedOp o (faultStop o c detail va pa)))
          (o := { o with out := [], stop := some (faultStop o c detail va pa) }) hop (faultStop o c detail va pa)
        rw [failTransfer_records hmem hop hleft hr hu honly hst hw hout] at he
        refine ⟨_, he, ?_, ?_, ?_, ?_, ?_, hpend, ?_, ?_, ?_, hm⟩
        · rw [hq]; rfl
        · rw [hq]; exact recordOf_cause _ (faultStop o c detail va pa)
        · rw [hq]; rfl
        · rw [hq]; rfl
        · rw [hq]; rfl
        · rw [htile]; rfl
        · rw [htile]; rfl
        · rw [htile]; rfl
      · rw [failTransfer_waits hu honly hst hwait] at he
        refine ⟨_, he, rfl, rfl, rfl, stoppedOp o (faultStop o c detail va pa) o, List.mem_map.2 ⟨o, hmem, if_pos rfl⟩, ?_,
          faultStop o c detail va pa, ?_, rfl⟩
        · rw [stoppedOp_eq hst]
        · rw [stoppedOp_eq hst]
  case performed =>
    refine ⟨fun h => ⟨_, exec_tzeroPerformed hl h, clearedBy_spec s k o .ready⟩, fun h => ?_, fun h hts => ?_⟩
    · obtain ⟨hf, hother, hops, hrows, hst⟩ := clearedBy_spec s k o .empty
      refine ⟨_, exec_trelPerformed hl h, ?_, hother, hops, hrows, ?_, hst⟩
      · exact tileRecords_trans hf rfl
      · exact bit_setBit_self _ k.isLt false
    · obtain ⟨hf, hother, hops, ⟨hd1, hd2, hd3, hd4⟩, hrows, hst⟩ := copyDone_spec (s := s) (k := k) (o := o)
      exact ⟨_, exec_tmovComplete hl h, hf, hother, hops, hd1, hd2, hd3, hd4, hrows, hst⟩

end Sys2Proof.Machine
